-- ==== Sys2Proof/Word.lean ====
section
/-!
DEFINITION. The words of the machine: a byte, the 64-bit word, and the sparse table that holds registers, tiles and slices by number.
-/

namespace Sys2Proof

/-- A byte of memory. -/
abbrev Byte := BitVec 8

/-- A 64-bit register value (R59). -/
abbrev Word := BitVec 64

/-- A table by number: pairs with rising keys, an absent key having the value its reader names. -/
abbrev Table (α : Type) := List (Nat × α)

end Sys2Proof
end

