-- ==== Sys2Proof/Syntax.lean ====
section
/-!
DEFINITION. The abstract syntax of the ZV-2: operand forms, the codes that fill function bits, what the outside world gives to a
step, and the ONE inductive `Instr` with a constructor for every row of the table of operations and events.
-/

namespace Sys2Proof

/-! ### Operand bytes (R47, R48, R50) -/

/-- Modifier of an operand byte, bits 7:6 (R47). -/
inductive Md where
  | plain | consume | peek | deposit
  deriving DecidableEq, Repr

/-- A g-class operand: numbers 0 to 31 are g0 to g31, 32 to 47 are s0 to s15 (R48). -/
structure GReg where
  num : BitVec 6
  md : Md
  deriving DecidableEq, Repr

/-- An f-class operand (R48). -/
structure FReg where
  num : BitVec 5
  md : Md
  deriving DecidableEq, Repr

/-- p0 to p7 (R48). -/
abbrev PReg := BitVec 3
/-- v0 to v15 (R48). -/
abbrev VReg := BitVec 4
/-- q0 to q7 (R48). -/
abbrev QReg := BitVec 3
/-- a0 to a7 (R48). -/
abbrev AReg := BitVec 3

/-- The predicate field and the negate bit (R50). -/
structure Guard where
  pred : PReg
  neg : Bool
  deriving DecidableEq, Repr

/-- Operand b: a register, or the 23-bit immediate (R44). -/
inductive RegImm where
  | reg (r : GReg)
  | imm (v : BitVec 23)
  deriving DecidableEq, Repr

/-- Operand b of MADD: a register, or the 47-bit immediate (R44, R74). -/
inductive RegImm47 where
  | reg (r : GReg)
  | imm (v : BitVec 47)
  deriving DecidableEq, Repr

/-- The offset of a memory operand (R114) or of LEA (R68). -/
inductive MemOff where
  | imm (v : BitVec 23)
  | idx (r : GReg) (s : BitVec 3)
  deriving DecidableEq, Repr

/-- A memory operand (R114). -/
structure MemOp where
  base : GReg
  off : MemOff
  deriving DecidableEq, Repr

/-- The address form of VLDX and VSTX: base, index vector, shift (R184, R187). -/
structure MemIdx where
  base : GReg
  idx : VReg
  s : BitVec 3
  deriving DecidableEq, Repr

/-- Operand of FEMPTY, FFULL and FTEST, plain only (R82). -/
inductive PlainGF where
  | g (num : BitVec 6)
  | f (num : BitVec 5)
  deriving DecidableEq, Repr

/-- A scalar operand of row 10: class f, or class g for `.w` (R189). -/
inductive AnyGF where
  | g (r : GReg)
  | f (r : FReg)
  deriving DecidableEq, Repr

/-- Governing mask: the mask enable bit and the mask register (R172, R173). -/
abbrev GMask := Option QReg

/-! ### Codes of the function bits -/

/-- Source width of SEXT and ZEXT (R64). -/
inductive ExtW where
  | b | h | w
  deriving DecidableEq, Repr

/-- Scope suffix of BAR (R82). -/
inductive BarScope where
  | gang | tile | dev
  deriving DecidableEq, Repr

/-- Width code of LD (R115); the n forms zero-extend. -/
inductive MemW where
  | b | h | w | d | bn | hn | wn
  deriving DecidableEq, Repr

/-- Width code of ST (R116). -/
inductive StW where
  | b | h | w | d
  deriving DecidableEq, Repr

/-- IEEE format code (R139, R115, R160). -/
inductive Fmt where
  | s | d | hf | bf
  deriving DecidableEq, Repr

/-- Request type (R104, R115). -/
inductive ReqType where
  | own | wt | si | nc
  deriving DecidableEq, Repr

/-- Scope (R115). -/
inductive Scope where
  | tile | gang | dev | dom
  deriving DecidableEq, Repr

/-- Fence kind (R115). -/
inductive FenceKind where
  | none | acq | rel | ar
  deriving DecidableEq, Repr

/-- Width code of the integer atomics (R116). -/
inductive AtW where
  | w | d | wn
  deriving DecidableEq, Repr

/-- Operation of AMO (R127). -/
inductive AmoOp where
  | add | and | or | xor | min | max | minn | maxn | swap
  deriving DecidableEq, Repr

/-- Format of AMOF (R129). -/
inductive AmofFmt where
  | s | d
  deriving DecidableEq, Repr

/-- Operation of AMOF (R129). -/
inductive AmofOp where
  | fadd | fmin | fmax
  deriving DecidableEq, Repr

/-- Rounding field (R160); dyn is the mode of FPCTL. -/
inductive Rnd where
  | rne | rz | rup | rdn | dyn
  deriving DecidableEq, Repr

/-- Integer code of FTOI and ITOF (R166). -/
inductive IntCode where
  | w | d | wn | dn
  deriving DecidableEq, Repr

/-- Condition of VCMP (R176). -/
inductive Cond where
  | eq | ne | lt | le | un
  deriving DecidableEq, Repr

/-- Condition of VICMP (R181). -/
inductive ICond where
  | eq | ne | lt | le
  deriving DecidableEq, Repr

/-- Conversion code of VCVT (R177), named destination then source. -/
inductive CvtOp where
  | sHf | sBf | hfS | bfS | dS | sD | sW | wS | sWn | wnS
  deriving DecidableEq, Repr

/-- Operation of VRED (R178). -/
inductive RedOp where
  | sum | min | max
  deriving DecidableEq, Repr

/-- Element width of row 9 (R173). -/
inductive VW where
  | b | h | w
  deriving DecidableEq, Repr

/-- The one width VICMP admits (R181). -/
inductive VWw where
  | w
  deriving DecidableEq, Repr

/-- Data code of row 10 (R184). -/
inductive VData where
  | s | d | hf | bf | w
  deriving DecidableEq, Repr

/-- Format of MMA and SMXA (R212). -/
inductive MmaFmt where
  | hf | bf
  deriving DecidableEq, Repr

/-- Format of MMAQ (R212). -/
inductive QFmt where
  | q8 | q4
  deriving DecidableEq, Repr

/-- Data code of MLD and MST (R212). -/
inductive MData where
  | s | hf | bf | q8 | q4
  deriving DecidableEq, Repr

/-- Select field of VFROMA and VTOA (R224). -/
inductive AccSel where
  | row | m | l | st
  deriving DecidableEq, Repr

/-- Target of TBW, TBI and TBP (R253). -/
inductive TbTarget where
  | own | gang | ds
  deriving DecidableEq, Repr

/-! ### What the outside world gives to a step -/

/-- Outcome of the residue comparison of a matrix step (R209): agreed, agreed after the retry, disagreed twice. -/
inductive Residue where
  | ok | retried | failed
  deriving DecidableEq, Repr

/-- An atomic operation as a message carries it (R127, R128, R129). -/
inductive AtomOp where
  | amo (op : AmoOp) (w : AtW) (c : Word)
  | cas (w : AtW) (expect new : Word)
  | amof (op : AmofOp) (f : AmofFmt) (c : Word)
  deriving DecidableEq, Repr

/-- What a domain operation asks of its destination (R287, R303, R333). -/
inductive DomOp where
  | load (n : Nat)
  | store (data : List Byte)
  | atomic (op : AtomOp)
  | signal (target value : Word)
  deriving DecidableEq, Repr

/-- A domain operation that arrives from another device (R303, R387): the port it arrived on and the offset it names. -/
structure DomMsg where
  srcDev : Nat
  thread : Nat
  port : Nat
  off : BitVec 46
  op : DomOp
  deriving DecidableEq, Repr

/-- A domain operation at this device's message executor: one of this device's own (its place in the outbox), or one from outside. -/
inductive DomSource where
  | own (k : Nat)
  | ext (m : DomMsg)
  deriving DecidableEq, Repr

/-- A reduction flit (R327, R388): group, offset in the collective area, operation with its value, contribution count. -/
structure Flit where
  group : Nat
  elem : Nat
  op : AtomOp
  count : Nat
  deriving DecidableEq, Repr

/-- A reduction flit of this device (its place in the outbox) or of another member. -/
inductive FlitSource where
  | own (k : Nat)
  | ext (f : Flit)
  deriving DecidableEq, Repr

/-- A fault at a unit of R373: unit code, the tile, slice, stack, die pair, port or link it names, the low bits of TVAL (offset,
register, set or block), whether a controller of code 11 is a slice's, whether it was corrected or masked, and the partition whose scheduler, role map or census state it damaged. -/
structure FaultIn where
  unit : Nat
  inst : Nat
  loc : Nat
  slice : Bool
  corrected : Bool
  state : Option Nat
  deriving DecidableEq, Repr

/-- A link that checks a CRC per flit (R371): the unit code of R373 (7 to 10) and its instance, the port of a tile's mesh link, whether the flit
that failed was itself a retry, and whether a retraining would fail. -/
structure LinkRef where
  unit : Nat
  inst : Nat
  port : Nat
  again : Bool
  retrainFails : Bool
  deriving DecidableEq, Repr

/-- What an acknowledgement carries (R287, R372): the data of a load or an atomic, and its poison mark. -/
structure AckData where
  bytes : List Byte
  poison : Bool
  deriving DecidableEq, Repr

/-- A register without a row of its own that REGISTER_WRITE writes (R257, R383, R386, R348). -/
inductive RegRef where
  | csr (core ctx num : Nat)
  | pf0 (off : Nat)
  | slice (part slice idx : Nat)
  deriving DecidableEq, Repr

/-- A signed firmware module (R346): the virtual base the firmware chose, the length of its text, its bytes. -/
structure ModImage where
  base : Word
  textLen : Nat
  bytes : List Byte
  deriving DecidableEq, Repr

/-- A host access through BAR2 (R385). -/
inductive HostAcc where
  | read (n : Nat)
  | write (data : List Byte)
  deriving DecidableEq, Repr

/-- A PCI Express AtomicOp of 4 or 8 bytes (R385). -/
inductive HostAtom where
  | fetchAdd (n : Nat) (v : Word)
  | swap (n : Nat) (v : Word)
  | cas (n : Nat) (cmp v : Word)
  deriving DecidableEq, Repr

/-- An entry of the dispatch set or of a translation buffer as the layout gives it: page address and entry word (R242). -/
structure PageInit where
  va : Word
  word : Word
  deriving DecidableEq, Repr

/-- A role of the layout (R316). -/
structure RoleInit where
  num : Nat
  storage : Bool
  tile : Option Nat
  backing : Option Word
  deriving DecidableEq, Repr

/-- One partition of the provider's signed layout block (R355, R390). `collective` gives, for each group of which the partition is a member,
its number, the base of the area and the contributor count (R388). -/
structure PartLayout where
  num : Nat
  bands : BitVec 32
  halves : BitVec 16
  share : Nat
  ports : BitVec 32
  link : Nat
  windows : List Word
  svcvec : Word
  stackright : BitVec 8
  header : List Word
  exportBase : Nat
  exportLen : Nat
  exportPa : Word
  pages : List PageInit
  roles : List RoleInit
  collective : List (Nat × Word × Nat)
  deriving DecidableEq, Repr

/-- One constructor per row of the table of operations and events. A constructor of a thread instruction carries the guard first,
then the operands in the order d, a (or the memory operand), b, c, e, then the function fields. A constructor of a step of another
agent carries what the step acts on and what the outside world gives it. -/
inductive Instr where
  | padWord
  | add (g : Guard) (d : GReg) (a : GReg) (b : RegImm)
  | sub (g : Guard) (d : GReg) (a : GReg) (b : RegImm)
  | mul (g : Guard) (d : GReg) (a : GReg) (b : RegImm)
  | mulh (g : Guard) (d : GReg) (a : GReg) (b : RegImm)
  | mulhn (g : Guard) (d : GReg) (a : GReg) (b : RegImm)
  | div (g : Guard) (d : GReg) (a : GReg) (b : RegImm)
  | divn (g : Guard) (d : GReg) (a : GReg) (b : RegImm)
  | rem (g : Guard) (d : GReg) (a : GReg) (b : RegImm)
  | remn (g : Guard) (d : GReg) (a : GReg) (b : RegImm)
  | and (g : Guard) (d : GReg) (a : GReg) (b : RegImm)
  | or (g : Guard) (d : GReg) (a : GReg) (b : RegImm)
  | xor (g : Guard) (d : GReg) (a : GReg) (b : RegImm)
  | andn (g : Guard) (d : GReg) (a : GReg) (b : RegImm)
  | orn (g : Guard) (d : GReg) (a : GReg) (b : RegImm)
  | shl (g : Guard) (d : GReg) (a : GReg) (b : RegImm)
  | shr (g : Guard) (d : GReg) (a : GReg) (b : RegImm)
  | sar (g : Guard) (d : GReg) (a : GReg) (b : RegImm)
  | rot (g : Guard) (d : GReg) (a : GReg) (b : RegImm)
  | min (g : Guard) (d : GReg) (a : GReg) (b : RegImm)
  | max (g : Guard) (d : GReg) (a : GReg) (b : RegImm)
  | minn (g : Guard) (d : GReg) (a : GReg) (b : RegImm)
  | maxn (g : Guard) (d : GReg) (a : GReg) (b : RegImm)
  | abs (g : Guard) (d : GReg) (a : GReg)
  | neg (g : Guard) (d : GReg) (a : GReg)
  | clz (g : Guard) (d : GReg) (a : GReg)
  | ctz (g : Guard) (d : GReg) (a : GReg)
  | popc (g : Guard) (d : GReg) (a : GReg)
  | brev (g : Guard) (d : GReg) (a : GReg)
  | bswap (g : Guard) (d : GReg) (a : GReg)
  | sext (g : Guard) (d : GReg) (a : GReg) (w : ExtW)
  | zext (g : Guard) (d : GReg) (a : GReg) (w : ExtW)
  | li (g : Guard) (d : GReg) (imm : BitVec 55)
  | lih (g : Guard) (d : GReg) (imm : BitVec 55)
  | lea (g : Guard) (d : GReg) (m : MemOp)
  | mov (g : Guard) (d : GReg) (a : GReg)
  | sel (g : Guard) (d : GReg) (a : GReg) (b : GReg) (k : BitVec 3)
  | cmpeq (g : Guard) (d : PReg) (a : GReg) (b : RegImm)
  | cmpne (g : Guard) (d : PReg) (a : GReg) (b : RegImm)
  | cmplt (g : Guard) (d : PReg) (a : GReg) (b : RegImm)
  | cmple (g : Guard) (d : PReg) (a : GReg) (b : RegImm)
  | cmpltn (g : Guard) (d : PReg) (a : GReg) (b : RegImm)
  | cmplen (g : Guard) (d : PReg) (a : GReg) (b : RegImm)
  | tstbit (g : Guard) (d : PReg) (a : GReg) (b : RegImm)
  | bfx (g : Guard) (d : GReg) (a : GReg) (pos : BitVec 6) (len : BitVec 6)
  | bfxn (g : Guard) (d : GReg) (a : GReg) (pos : BitVec 6) (len : BitVec 6)
  | bfi (g : Guard) (d : GReg) (a : GReg) (pos : BitVec 6) (len : BitVec 6)
  | addv (g : Guard) (d : GReg) (a : GReg) (b : RegImm)
  | subv (g : Guard) (d : GReg) (a : GReg) (b : RegImm)
  | mulv (g : Guard) (d : GReg) (a : GReg) (b : RegImm)
  | chk (g : Guard) (a : GReg) (b : RegImm)
  | madd (g : Guard) (d : GReg) (a : GReg) (b : RegImm47) (c : GReg)
  | br (g : Guard) (imm : BitVec 23)
  | jmp (g : Guard) (imm : BitVec 55)
  | jr (g : Guard) (a : GReg)
  | call (g : Guard) (d : GReg) (imm : BitVec 23)
  | callr (g : Guard) (d : GReg) (a : GReg)
  | ret (g : Guard) (a : GReg)
  | loop (g : Guard) (d : GReg) (imm : BitVec 23)
  | bsig (g : Guard) (a : FReg) (n : BitVec 6) (off : BitVec 17)
  | pand (g : Guard) (d : PReg) (a : PReg) (b : PReg)
  | por (g : Guard) (d : PReg) (a : PReg) (b : PReg)
  | pxor (g : Guard) (d : PReg) (a : PReg) (b : PReg)
  | pnot (g : Guard) (d : PReg) (a : PReg)
  | pmov (g : Guard) (d : PReg) (a : PReg)
  | nop (g : Guard)
  | tstart (g : Guard) (a : GReg) (b : RegImm)
  | treap (g : Guard) (d : GReg) (a : GReg)
  | tend (g : Guard) (a : GReg)
  | tspawn (g : Guard) (d : GReg) (a : GReg)
  | bar (g : Guard) (sc : BarScope)
  | fempty (g : Guard) (a : PlainGF)
  | ffull (g : Guard) (a : PlainGF)
  | ftest (g : Guard) (d : PReg) (a : PlainGF)
  | wpush (g : Guard) (a : GReg)
  | wtake (g : Guard) (d : GReg) (k : BitVec 3)
  | wcount (g : Guard) (d : GReg)
  | ld (g : Guard) (d : GReg) (m : MemOp) (w : MemW) (ty : ReqType) (sc : Scope) (k : FenceKind)
  | st (g : Guard) (d : GReg) (m : MemOp) (w : StW) (ty : ReqType) (sc : Scope) (k : FenceKind)
  | ldf (g : Guard) (d : FReg) (m : MemOp) (f : Fmt) (ty : ReqType)
  | stf (g : Guard) (d : FReg) (m : MemOp) (f : Fmt) (ty : ReqType)
  | ldfc (g : Guard) (d : FReg) (m : MemOp) (c : GReg) (f : Fmt) (ty : ReqType)
  | stfc (g : Guard) (d : FReg) (m : MemOp) (c : GReg) (f : Fmt) (ty : ReqType)
  | ldp (g : Guard) (d : GReg) (m : MemOp) (c : GReg) (ty : ReqType)
  | stp (g : Guard) (d : GReg) (m : MemOp) (c : GReg) (ty : ReqType)
  | pref (g : Guard) (m : MemOp) (ty : ReqType)
  | inval (g : Guard) (m : MemOp) (c : GReg)
  | cwb (g : Guard) (m : MemOp) (c : GReg)
  | amo (g : Guard) (d : GReg) (m : MemOp) (c : GReg) (w : AtW) (sc : Scope) (k : FenceKind) (op : AmoOp)
  | amocas (g : Guard) (d : GReg) (m : MemOp) (c : GReg) (w : AtW) (sc : Scope) (k : FenceKind)
  | amof (g : Guard) (d : FReg) (m : MemOp) (c : FReg) (f : AmofFmt) (sc : Scope) (k : FenceKind) (op : AmofOp)
  | fence (g : Guard) (sc : Scope) (k : FenceKind)
  | fencesc (g : Guard)
  | rfence (g : Guard) (d : GReg)
  | fadd (g : Guard) (d : FReg) (a : FReg) (b : FReg) (f : Fmt)
  | fsub (g : Guard) (d : FReg) (a : FReg) (b : FReg) (f : Fmt)
  | fmul (g : Guard) (d : FReg) (a : FReg) (b : FReg) (f : Fmt)
  | fdiv (g : Guard) (d : FReg) (a : FReg) (b : FReg) (f : Fmt)
  | fsqrt (g : Guard) (d : FReg) (a : FReg) (f : Fmt)
  | fma (g : Guard) (d : FReg) (a : FReg) (b : FReg) (c : FReg) (f : Fmt)
  | fms (g : Guard) (d : FReg) (a : FReg) (b : FReg) (c : FReg) (f : Fmt)
  | fnma (g : Guard) (d : FReg) (a : FReg) (b : FReg) (c : FReg) (f : Fmt)
  | fnms (g : Guard) (d : FReg) (a : FReg) (b : FReg) (c : FReg) (f : Fmt)
  | fmin (g : Guard) (d : FReg) (a : FReg) (b : FReg) (f : Fmt)
  | fmax (g : Guard) (d : FReg) (a : FReg) (b : FReg) (f : Fmt)
  | fabs (g : Guard) (d : FReg) (a : FReg) (f : Fmt)
  | fneg (g : Guard) (d : FReg) (a : FReg) (f : Fmt)
  | fcpys (g : Guard) (d : FReg) (a : FReg) (b : FReg) (f : Fmt)
  | fcmpeq (g : Guard) (d : PReg) (a : FReg) (b : FReg) (f : Fmt)
  | fcmplt (g : Guard) (d : PReg) (a : FReg) (b : FReg) (f : Fmt)
  | fcmple (g : Guard) (d : PReg) (a : FReg) (b : FReg) (f : Fmt)
  | fcmpun (g : Guard) (d : PReg) (a : FReg) (b : FReg) (f : Fmt)
  | fclass (g : Guard) (d : GReg) (a : FReg) (f : Fmt)
  | fround (g : Guard) (d : FReg) (a : FReg) (f : Fmt) (rm : Rnd)
  | fcvt (g : Guard) (d : FReg) (a : FReg) (df : Fmt) (sf : Fmt)
  | ftoi (g : Guard) (d : GReg) (a : FReg) (f : Fmt) (ic : IntCode) (rm : Rnd)
  | itof (g : Guard) (d : FReg) (a : GReg) (f : Fmt) (ic : IntCode)
  | fmov (g : Guard) (d : FReg) (a : FReg)
  | fmvg (g : Guard) (d : GReg) (a : FReg)
  | fmvf (g : Guard) (d : FReg) (a : GReg) (f : Fmt)
  | exp2 (g : Guard) (d : FReg) (a : FReg)
  | sget (g : Guard) (d : GReg) (a : FReg)
  | sset (g : Guard) (d : FReg) (a : GReg)
  | vadd (g : Guard) (d : VReg) (a : VReg) (b : VReg) (f : Fmt) (gm : GMask)
  | vsub (g : Guard) (d : VReg) (a : VReg) (b : VReg) (f : Fmt) (gm : GMask)
  | vmul (g : Guard) (d : VReg) (a : VReg) (b : VReg) (f : Fmt) (gm : GMask)
  | vfma (g : Guard) (d : VReg) (a : VReg) (b : VReg) (c : VReg) (f : Fmt) (gm : GMask)
  | vfms (g : Guard) (d : VReg) (a : VReg) (b : VReg) (c : VReg) (f : Fmt) (gm : GMask)
  | vmin (g : Guard) (d : VReg) (a : VReg) (b : VReg) (f : Fmt) (gm : GMask)
  | vmax (g : Guard) (d : VReg) (a : VReg) (b : VReg) (f : Fmt) (gm : GMask)
  | vabs (g : Guard) (d : VReg) (a : VReg) (f : Fmt) (gm : GMask)
  | vneg (g : Guard) (d : VReg) (a : VReg) (f : Fmt) (gm : GMask)
  | vdiv (g : Guard) (d : VReg) (a : VReg) (b : VReg) (f : Fmt) (gm : GMask)
  | vsqrt (g : Guard) (d : VReg) (a : VReg) (f : Fmt) (gm : GMask)
  | vexp2 (g : Guard) (d : VReg) (a : VReg) (gm : GMask)
  | vcmp (g : Guard) (d : QReg) (a : VReg) (b : VReg) (f : Fmt) (gm : GMask) (cond : Cond) (half : Bool)
  | vcvt (g : Guard) (d : VReg) (a : VReg) (gm : GMask) (cv : CvtOp) (half : Bool)
  | vred (g : Guard) (d : FReg) (a : VReg) (f : Fmt) (gm : GMask) (op : RedOp)
  | vsget (g : Guard) (d : VReg) (a : VReg) (gm : GMask)
  | vsset (g : Guard) (d : VReg) (a : VReg) (f : Fmt) (gm : GMask)
  | viadd (g : Guard) (d : VReg) (a : VReg) (b : VReg) (w : VW) (gm : GMask)
  | visub (g : Guard) (d : VReg) (a : VReg) (b : VReg) (w : VW) (gm : GMask)
  | vimul (g : Guard) (d : VReg) (a : VReg) (b : VReg) (w : VW) (gm : GMask)
  | vand (g : Guard) (d : VReg) (a : VReg) (b : VReg) (gm : GMask)
  | vor (g : Guard) (d : VReg) (a : VReg) (b : VReg) (gm : GMask)
  | vxor (g : Guard) (d : VReg) (a : VReg) (b : VReg) (gm : GMask)
  | vshl (g : Guard) (d : VReg) (a : VReg) (b : VReg) (w : VW) (gm : GMask)
  | vshr (g : Guard) (d : VReg) (a : VReg) (b : VReg) (w : VW) (gm : GMask)
  | vsar (g : Guard) (d : VReg) (a : VReg) (b : VReg) (w : VW) (gm : GMask)
  | vimin (g : Guard) (d : VReg) (a : VReg) (b : VReg) (w : VW) (un : Bool) (gm : GMask)
  | vimax (g : Guard) (d : VReg) (a : VReg) (b : VReg) (w : VW) (un : Bool) (gm : GMask)
  | vicmp (g : Guard) (d : QReg) (a : VReg) (b : VReg) (w : VWw) (un : Bool) (gm : GMask) (cond : ICond)
  | vsel (g : Guard) (d : VReg) (a : VReg) (b : VReg) (c : QReg)
  | qand (g : Guard) (d : QReg) (a : QReg) (b : QReg)
  | qor (g : Guard) (d : QReg) (a : QReg) (b : QReg)
  | qxor (g : Guard) (d : QReg) (a : QReg) (b : QReg)
  | qnot (g : Guard) (d : QReg) (a : QReg)
  | qpop (g : Guard) (d : GReg) (a : QReg)
  | qmovToQ (g : Guard) (d : QReg) (a : GReg)
  | qmovToG (g : Guard) (d : GReg) (a : QReg)
  | vld (g : Guard) (d : VReg) (m : MemOp) (dc : VData) (ty : ReqType) (gm : GMask)
  | vst (g : Guard) (d : VReg) (m : MemOp) (dc : VData) (ty : ReqType) (gm : GMask)
  | vldx (g : Guard) (d : VReg) (m : MemIdx) (dc : VData) (ty : ReqType) (gm : GMask)
  | vstx (g : Guard) (d : VReg) (m : MemIdx) (dc : VData) (ty : ReqType) (gm : GMask)
  | vldc (g : Guard) (d : VReg) (m : MemOp) (c : GReg) (dc : Fmt) (ty : ReqType) (gm : GMask)
  | vstc (g : Guard) (d : VReg) (m : MemOp) (c : GReg) (dc : Fmt) (ty : ReqType) (gm : GMask)
  | vshuf (g : Guard) (d : VReg) (a : VReg) (b : VReg) (c : VReg) (gm : GMask)
  | vbcast (g : Guard) (d : VReg) (a : AnyGF) (dc : VData) (gm : GMask)
  | vext (g : Guard) (d : AnyGF) (a : VReg) (b : GReg) (dc : VData)
  | vins (g : Guard) (d : VReg) (a : AnyGF) (b : GReg) (dc : VData)
  | viota (g : Guard) (d : VReg) (a : GReg) (b : GReg) (gm : GMask)
  | vmov (g : Guard) (d : VReg) (a : VReg) (gm : GMask)
  | mma (g : Guard) (d : AReg) (a : GReg) (b : GReg) (c : GReg) (e : GReg) (f : MmaFmt) (bg : Bool) (ag : Bool) (kk : BitVec 10)
  | mmaq (g : Guard) (d : AReg) (a : GReg) (b : GReg) (c : GReg) (e : GReg) (f : QFmt) (bg : Bool) (ag : Bool) (kk : BitVec 10)
  | mzero (g : Guard) (d : AReg)
  | mld (g : Guard) (d : AReg) (a : GReg) (b : GReg) (c : GReg) (dc : MData) (pl : Bool)
  | mst (g : Guard) (d : AReg) (a : GReg) (b : GReg) (c : GReg) (dc : MData) (pl : Bool)
  | mcommit (g : Guard) (d : GReg) (fill : Bool)
  | mwait (g : Guard) (a : GReg)
  | mtest (g : Guard) (d : GReg)
  | vfroma (g : Guard) (d : VReg) (a : AReg) (b : GReg) (sl : AccSel)
  | vtoa (g : Guard) (d : AReg) (a : VReg) (b : GReg) (sl : AccSel)
  | mscale (g : Guard) (d : AReg) (a : FReg) (b : RegImm)
  | smxa (g : Guard) (d : AReg) (a : AReg) (b : GReg) (c : GReg) (e : GReg) (f : MmaFmt) (fs : BitVec 5)
  | smxfin (g : Guard) (d : AReg) (b : RegImm) (rst : Bool)
  | smxmerge (g : Guard) (d : AReg) (a : AReg) (b : RegImm)
  | smxld (g : Guard) (d : AReg) (a : GReg) (b : RegImm) (c : GReg) (pl : Bool)
  | smxst (g : Guard) (d : AReg) (a : GReg) (b : RegImm) (c : GReg) (pl : Bool)
  | smxinit (g : Guard) (d : AReg) (b : RegImm)
  | copyq (g : Guard) (a : GReg) (b : GReg) (c : GReg) (e : GReg)
  | copyqt (g : Guard) (d : GReg) (a : GReg) (b : GReg) (c : GReg) (e : GReg)
  | copys (g : Guard) (d : GReg) (a : GReg)
  | copyk (g : Guard) (d : GReg) (a : GReg)
  | xfence (g : Guard)
  | signal (g : Guard) (a : GReg) (b : GReg) (c : GReg)
  | lease (g : Guard) (d : GReg) (a : GReg) (b : GReg) (warn : Bool)
  | renew (g : Guard) (d : GReg) (a : GReg) (b : GReg)
  | unlease (g : Guard) (d : GReg) (a : GReg) (drop : Bool)
  | roleq (g : Guard) (d : GReg) (a : GReg)
  | rolereq (g : Guard) (d : GReg) (a : GReg) (b : GReg)
  | noteack (g : Guard) (a : GReg)
  | couch (g : Guard) (d : GReg) (a : GReg) (ev : Bool)
  | couchs (g : Guard) (d : GReg) (a : GReg)
  | svc (g : Guard) (imm : BitVec 23)
  | brk (g : Guard) (imm : BitVec 23)
  | tret (g : Guard)
  | csrr (g : Guard) (d : GReg) (num : BitVec 12)
  | csrw (g : Guard) (d : GReg) (a : GReg) (num : BitVec 12)
  | csrs (g : Guard) (d : GReg) (a : GReg) (num : BitVec 12)
  | csrc (g : Guard) (d : GReg) (a : GReg) (num : BitVec 12)
  | tbw (g : Guard) (a : GReg) (b : GReg) (c : GReg) (t : TbTarget)
  | tbi (g : Guard) (a : GReg) (b : GReg) (t : TbTarget) (all : Bool)
  | tbp (g : Guard) (d : GReg) (a : GReg) (b : GReg) (t : TbTarget)
  | scfgr (g : Guard) (d : GReg) (a : GReg) (idx : BitVec 12)
  | scfgw (g : Guard) (a : GReg) (b : GReg) (idx : BitVec 12)
  | cwbr (g : Guard) (a : GReg) (c : GReg) (iv : Bool)
  | slinv (g : Guard) (a : GReg) (c : GReg)
  | gswitch (g : Guard) (d : GReg) (a : GReg) (b : GReg)
  | ckpt (g : Guard) (d : GReg)
  | halt (g : Guard) (a : GReg)
  | mmaStepRun (core : Nat) (res : Residue)
  | mmaqStepRun (core : Nat) (res : Residue)
  | mzeroRun (core : Nat)
  | mscaleRun (core : Nat)
  | mldRun (core : Nat)
  | mstRun (core : Nat)
  | smxaRun (core : Nat)
  | smxfinRun (core : Nat)
  | smxmergeRun (core : Nat)
  | smxldRun (core : Nat)
  | smxstRun (core : Nat)
  | smxinitRun (core : Nat)
  | matrixBatchComplete (core : Nat)
  | parkedThreadWake (core ctx : Nat)
  | eventEntry (core ctx : Nat)
  | enqueue (part : Nat) (addr : Word)
  | taskCreate (part : Nat)
  | taskDispatch (part die : Nat) (tiles : List Nat)
  | priorityRise (part task : Nat)
  | taskRetire (part task : Nat)
  | completionMessage (part : Nat)
  | levellingStep (core : Nat)
  | levellingReceive (core k : Nat)
  | tileSpaceArrival (k : Nat)
  | gangCacheHomeApply (k : Nat)
  | sliceWriteApply (k : Nat)
  | sliceRead (k : Nat)
  | sliceAtomic (k : Nat)
  | stackReadReturn (slice k : Nat)
  | stackWriteAck (slice k : Nat)
  | dieViewDelivery (die k : Nat)
  | copyTransferStart (core : Nat)
  | copyTransferComplete (core : Nat)
  | domainMessageArrival (m : DomSource)
  | remoteAck (k : Nat) (data : AckData)
  | remoteRefusal (k : Nat) (code : BitVec 8)
  | signalFillArrival (k : Nat)
  | reductionFlitArrival (f : FlitSource)
  | collectiveComplete (group elem : Nat)
  | censusPoint (part : Nat)
  | roleChange (part k : Nat)
  | routingDrainComplete (part k : Nat)
  | reseatFlip (part k : Nat)
  | roleWritebackComplete (part k : Nat)
  | leaseExpiring (part role : Nat)
  | leaseExpired (part role : Nat)
  | gangSwitchStop (part task : Nat)
  | gangResume (part task : Nat) (tiles : List Nat)
  | checkpointCapture (part : Nat)
  | faultDetected (f : FaultIn)
  | rollback (part : Nat)
  | partitionReset (part : Nat)
  | functionLevelReset (vf : Nat)
  | partitionResize (src dst : Nat) (bands : BitVec 32) (halves : BitVec 16) (deadline : Nat)
  | resizeDeadline (part : Nat)
  | heldContextEnd (core ctx : Nat)
  | heldContextStart (core ctx : Nat)
  | watchdog (core ctx : Nat)
  | couchDrainStep (stack : Nat)
  | splitWrite (core : Nat)
  | deckleWrite (part w : Nat) (v : Word)
  | dbgctlWrite (core ctx : Nat) (v : Word)
  | registerWrite (r : RegRef) (v : Word)
  | sholdHold (slice : Nat)
  | sholdRelease (slice : Nat)
  | dswitchArm (slice part : Nat) (v : Word)
  | domainSwitch (stack : Nat)
  | domainSwitchComplete (stack : Nat)
  | crbaseWrite (part : Nat) (v : Word)
  | crsizeWrite (part : Nat) (v : Word)
  | crheadWrite (part : Nat) (v : Word)
  | modctlGo (v : Word) (img : ModImage) (verdict : Bool)
  | pwrcapWrite (v : Word)
  | devnumsetWrite (v : Word)
  | rbdataWrite (v : Word)
  | hostMemoryAccess (part : Nat) (addr : Word) (acc : HostAcc)
  | hostAtomic (part : Nat) (addr : Word) (op : HostAtom)
  | getVersion (vf : Nat)
  | getCapabilities (vf : Nat)
  | negotiateAlgorithms (vf : Nat)
  | getDigests (vf : Nat)
  | getCertificate (vf : Nat)
  | challenge (vf : Nat)
  | getMeasurements (vf : Nat)
  | powerOn (lay : List PartLayout) (verdict : Bool)
  | flitCrcError (link : LinkRef)
  | tileStoreScrub (core : Nat)
  | sliceScrub (slice : Nat)
  | stackScrub (stack : Nat)
  | progressTimeout (u : FaultIn)
  | dutyCycling (n : Nat)
  | gtimeToleranceChange (pkg dom : Bool)
  deriving DecidableEq, Repr

end Sys2Proof
end

