-- ==== Sys2Proof/Config.lean ====
section
/-!
DEFINITION. What is fixed for the machine: the turns of its agents, and the FREE VALUES, opaque constants that stand for every value the
manual leaves open (R8, R24, R84, R101, R197, R261, R391). No proof can see what they are.
-/

namespace Sys2Proof

/-- A turn of one agent. `issue` is one issue cycle of a core (R27); `event` is a step of another agent, named by its row of the table;
`advance` lets GTIME run (R1). A program never sees who chose the turn (DESIGN CHOICE, log 1). -/
inductive Turn where
  | issue (core : Nat)
  | event (i : Instr)
  | advance (ticks : Nat)
  deriving DecidableEq, Repr, Inhabited

namespace Config

/-- The turn taken when the agenda is empty (DESIGN CHOICE, log 1). -/
opaque freeTurn : Nat → Turn

/-- A value that the manual leaves undefined or between several (R24, R84, R197, R205, R278, R284, R358): counter, place (DESIGN CHOICE,
log 2). -/
opaque freeBits : Nat → Nat → BitVec 64

/-- A choice between the two outcomes the manual allows (R8): the fetch of a block (R39), the entry a lookup uses within 16 cycles of
a write (R261), whether a retired tile returns (R374), whether a routing tile combines a flit (R327) (DESIGN CHOICE, log 2). -/
opaque freeBool : Nat → Bool

/-- The way a tile cache replaces in a full set (R101, R13) (DESIGN CHOICE, log 2). -/
opaque freeWay : Nat → Nat

/-- How many fills and events a signal area of a length in bytes holds (R331, R359): the manual gives no size of an entry (DESIGN CHOICE, log 2). -/
opaque holdRoom : Nat → Nat

/-- The bytes of an SPDM answer, a digest, a certificate or a signature (R391): counter, request code, byte index (DESIGN CHOICE, log 2). -/
opaque freeDoe : Nat → Nat → Nat → Byte

end Config

/-! ### Sizes (R1, R25, R97, R252) -/

/-- Number of tiles; tile numbers are TILEIDs (R25). -/
def numTiles : Nat := 1152

/-- Core number of the Atelier core of die d (R252). -/
def atelierCore (d : Nat) : Nat := numTiles + d

/-- The die a core stands on (R25, R252). -/
def dieOf (core : Nat) : Nat := if core < numTiles then core / 288 else core - numTiles

/-- Band of a tile, 8d + b (R25, R355). -/
def bandOf (core : Nat) : Nat := core / 288 * 8 + core % 16 / 2

/-- A tile's store is 2 MiB (R97); an Atelier core's is 1 MiB (R252). -/
def storeSize (core : Nat) : Nat := if core < numTiles then 0x200000 else 0x100000

end Sys2Proof
end

