-- ==== Sys2Proof/WellFormed.lean ====
section
/-!
DEFINITION. Which instructions have a word: register numbers and modifiers obey R48 and R49, the predicate obeys R50, immediates and
function codes lie in the ranges of their entries. The steps of other agents have no word and are all well formed.
-/

set_option linter.constructorNameAsVariable false

namespace Sys2Proof

/-- A source of class g (R48, R49). -/
def GReg.okSrc (r : GReg) : Bool := decide (r.num.toNat < 48) && r.md != .deposit
/-- A destination of class g; no deposit into g0 (R49). -/
def GReg.okDst (r : GReg) : Bool :=
  decide (r.num.toNat < 48) && (r.md == .plain || (r.md == .deposit && r.num != 0))
/-- A source of class f (R49). -/
def FReg.okSrc (r : FReg) : Bool := r.md != .deposit
/-- A destination of class f (R49). -/
def FReg.okDst (r : FReg) : Bool := r.md == .plain || r.md == .deposit
/-- p0 with neg is reserved (R50). -/
def Guard.ok (g : Guard) : Bool := !(g.pred == 0 && g.neg)
/-- Operand b (R44). -/
def RegImm.ok : RegImm → Bool
  | .reg r => r.okSrc
  | .imm _ => true
/-- Operand b of a shift: an immediate is 0 to 63 (R64). -/
def RegImm.okShift : RegImm → Bool
  | .reg r => r.okSrc
  | .imm v => decide (v.toNat < 64)
/-- Operand b of MADD (R74). -/
def RegImm47.ok : RegImm47 → Bool
  | .reg r => r.okSrc
  | .imm _ => true
/-- A memory operand (R114). -/
def MemOp.ok (m : MemOp) : Bool :=
  m.base.okSrc && (match m.off with | .imm _ => true | .idx r _ => r.okSrc)
/-- Operand of FEMPTY, FFULL, FTEST (R82). -/
def PlainGF.ok : PlainGF → Bool
  | .g n => decide (n.toNat < 48)
  | .f _ => true
/-- Source of class f, or g for `.w` (R189). -/
def AnyGF.okSrc (x : AnyGF) (dc : VData) : Bool :=
  match x with
  | .g r => r.okSrc && dc == .w
  | .f r => r.okSrc && dc != .w
/-- Destination of class f, or g for `.w` (R189). -/
def AnyGF.okDst (x : AnyGF) (dc : VData) : Bool :=
  match x with
  | .g r => r.okDst && dc == .w
  | .f r => r.okDst && dc != .w
/-- LD and ST: no kind and scope code 00, or the one kind admitted with request type 00 (R116). -/
def ordOk (kind : FenceKind) (ty : ReqType) (sc : Scope) (k : FenceKind) : Bool :=
  if k == .none then sc == .tile else k == kind && ty == .own
/-- The control-register numbers of R256. -/
def csrAssigned (n : Nat) : Bool :=
  n ≤ 0x008 || (0x010 ≤ n && n ≤ 0x015) || (0x020 ≤ n && n ≤ 0x023) || (0x030 ≤ n && n ≤ 0x033) || n == 0x040 || n == 0x041 ||
  n == 0x043 || n == 0x050 || n == 0x051 || n == 0x060 || n == 0x070 || (0x100 ≤ n && n ≤ 0x105) || (0x108 ≤ n && n ≤ 0x10B) ||
  (0x110 ≤ n && n ≤ 0x11F)

/-- Whether an instruction is well formed. -/
def Instr.wf : Instr → Bool
  | .padWord => true
  | .add g d a b => g.ok && d.okDst && a.okSrc && b.ok
  | .sub g d a b => g.ok && d.okDst && a.okSrc && b.ok
  | .mul g d a b => g.ok && d.okDst && a.okSrc && b.ok
  | .mulh g d a b => g.ok && d.okDst && a.okSrc && b.ok
  | .mulhn g d a b => g.ok && d.okDst && a.okSrc && b.ok
  | .div g d a b => g.ok && d.okDst && a.okSrc && b.ok
  | .divn g d a b => g.ok && d.okDst && a.okSrc && b.ok
  | .rem g d a b => g.ok && d.okDst && a.okSrc && b.ok
  | .remn g d a b => g.ok && d.okDst && a.okSrc && b.ok
  | .and g d a b => g.ok && d.okDst && a.okSrc && b.ok
  | .or g d a b => g.ok && d.okDst && a.okSrc && b.ok
  | .xor g d a b => g.ok && d.okDst && a.okSrc && b.ok
  | .andn g d a b => g.ok && d.okDst && a.okSrc && b.ok
  | .orn g d a b => g.ok && d.okDst && a.okSrc && b.ok
  | .shl g d a b => g.ok && d.okDst && a.okSrc && b.okShift
  | .shr g d a b => g.ok && d.okDst && a.okSrc && b.okShift
  | .sar g d a b => g.ok && d.okDst && a.okSrc && b.okShift
  | .rot g d a b => g.ok && d.okDst && a.okSrc && b.okShift
  | .min g d a b => g.ok && d.okDst && a.okSrc && b.ok
  | .max g d a b => g.ok && d.okDst && a.okSrc && b.ok
  | .minn g d a b => g.ok && d.okDst && a.okSrc && b.ok
  | .maxn g d a b => g.ok && d.okDst && a.okSrc && b.ok
  | .abs g d a => g.ok && d.okDst && a.okSrc
  | .neg g d a => g.ok && d.okDst && a.okSrc
  | .clz g d a => g.ok && d.okDst && a.okSrc
  | .ctz g d a => g.ok && d.okDst && a.okSrc
  | .popc g d a => g.ok && d.okDst && a.okSrc
  | .brev g d a => g.ok && d.okDst && a.okSrc
  | .bswap g d a => g.ok && d.okDst && a.okSrc
  | .sext g d a _ => g.ok && d.okDst && a.okSrc
  | .zext g d a _ => g.ok && d.okDst && a.okSrc
  | .li g d _ => g.ok && d.okDst
  | .lih g d imm => g.ok && d.okDst && decide (imm.toNat < 2 ^ 32)
  | .lea g d m => g.ok && d.okDst && m.ok
  | .mov g d a => g.ok && d.okDst && a.okSrc
  | .sel g d a b _ => g.ok && d.okDst && a.okSrc && b.okSrc
  | .cmpeq g _ a b => g.ok && a.okSrc && b.ok
  | .cmpne g _ a b => g.ok && a.okSrc && b.ok
  | .cmplt g _ a b => g.ok && a.okSrc && b.ok
  | .cmple g _ a b => g.ok && a.okSrc && b.ok
  | .cmpltn g _ a b => g.ok && a.okSrc && b.ok
  | .cmplen g _ a b => g.ok && a.okSrc && b.ok
  | .tstbit g _ a b => g.ok && a.okSrc && b.okShift
  | .bfx g d a pos len => g.ok && d.okDst && a.okSrc && decide (pos.toNat + len.toNat < 64)
  | .bfxn g d a pos len => g.ok && d.okDst && a.okSrc && decide (pos.toNat + len.toNat < 64)
  | .bfi g d a pos len => g.ok && d.okDst && a.okSrc && decide (pos.toNat + len.toNat < 64)
  | .addv g d a b => g.ok && d.okDst && a.okSrc && b.ok
  | .subv g d a b => g.ok && d.okDst && a.okSrc && b.ok
  | .mulv g d a b => g.ok && d.okDst && a.okSrc && b.ok
  | .chk g a b => g.ok && a.okSrc && b.ok
  | .madd g d a b c => g.ok && d.okDst && a.okSrc && b.ok && c.okSrc
  | .br g _ => g.ok
  | .jmp g _ => g.ok
  | .jr g a => g.ok && a.okSrc
  | .call g d _ => g.ok && d.okDst
  | .callr g d a => g.ok && d.okDst && a.okSrc
  | .ret g a => g.ok && a.okSrc
  | .loop g d _ => g.ok && d.okDst
  | .bsig g a n _ => g.ok && a.okSrc && decide (n.toNat ≤ 53)
  | .pand g _ _ _ => g.ok
  | .por g _ _ _ => g.ok
  | .pxor g _ _ _ => g.ok
  | .pnot g _ _ => g.ok
  | .pmov g _ _ => g.ok
  | .nop g => g.ok
  | .tstart g a b => g.ok && a.okSrc && b.ok
  | .treap g d a => g.ok && d.okDst && a.okSrc
  | .tend g a => g.ok && a.okSrc
  | .tspawn g d a => g.ok && d.okDst && a.okSrc
  | .bar g _ => g.ok
  | .fempty g a => g.ok && a.ok
  | .ffull g a => g.ok && a.ok
  | .ftest g _ a => g.ok && a.ok
  | .wpush g a => g.ok && a.okSrc
  | .wtake g d _ => g.ok && d.okDst
  | .wcount g d => g.ok && d.okDst
  | .ld g d m _ ty sc k => g.ok && d.okDst && m.ok && ordOk .acq ty sc k
  | .st g d m _ ty sc k => g.ok && d.okSrc && m.ok && ordOk .rel ty sc k
  | .ldf g d m _ _ => g.ok && d.okDst && m.ok
  | .stf g d m _ _ => g.ok && d.okSrc && m.ok
  | .ldfc g d m c _ _ => g.ok && d.okDst && m.ok && c.okSrc
  | .stfc g d m c _ _ => g.ok && d.okSrc && m.ok && c.okSrc
  | .ldp g d m c _ => g.ok && d.okDst && m.ok && c.okDst && (d.num == 0 || d.num != c.num)
  | .stp g d m c _ => g.ok && d.okSrc && m.ok && c.okSrc
  | .pref g m _ => g.ok && m.ok
  | .inval g m c => g.ok && m.ok && c.okSrc
  | .cwb g m c => g.ok && m.ok && c.okSrc
  | .amo g d m c _ _ _ _ => g.ok && d.okDst && m.ok && c.okSrc
  | .amocas g d m c _ _ _ => g.ok && d.okDst && m.ok && c.okSrc
  | .amof g d m c _ _ _ _ => g.ok && d.okDst && m.ok && c.okSrc
  | .fence g _ k => g.ok && k != .none
  | .fencesc g => g.ok
  | .rfence g d => g.ok && d.okDst
  | .fadd g d a b _ => g.ok && d.okDst && a.okSrc && b.okSrc
  | .fsub g d a b _ => g.ok && d.okDst && a.okSrc && b.okSrc
  | .fmul g d a b _ => g.ok && d.okDst && a.okSrc && b.okSrc
  | .fdiv g d a b _ => g.ok && d.okDst && a.okSrc && b.okSrc
  | .fsqrt g d a _ => g.ok && d.okDst && a.okSrc
  | .fma g d a b c _ => g.ok && d.okDst && a.okSrc && b.okSrc && c.okSrc
  | .fms g d a b c _ => g.ok && d.okDst && a.okSrc && b.okSrc && c.okSrc
  | .fnma g d a b c _ => g.ok && d.okDst && a.okSrc && b.okSrc && c.okSrc
  | .fnms g d a b c _ => g.ok && d.okDst && a.okSrc && b.okSrc && c.okSrc
  | .fmin g d a b _ => g.ok && d.okDst && a.okSrc && b.okSrc
  | .fmax g d a b _ => g.ok && d.okDst && a.okSrc && b.okSrc
  | .fabs g d a _ => g.ok && d.okDst && a.okSrc
  | .fneg g d a _ => g.ok && d.okDst && a.okSrc
  | .fcpys g d a b _ => g.ok && d.okDst && a.okSrc && b.okSrc
  | .fcmpeq g _ a b _ => g.ok && a.okSrc && b.okSrc
  | .fcmplt g _ a b _ => g.ok && a.okSrc && b.okSrc
  | .fcmple g _ a b _ => g.ok && a.okSrc && b.okSrc
  | .fcmpun g _ a b _ => g.ok && a.okSrc && b.okSrc
  | .fclass g d a _ => g.ok && d.okDst && a.okSrc
  | .fround g d a _ _ => g.ok && d.okDst && a.okSrc
  | .fcvt g d a df sf => g.ok && d.okDst && a.okSrc && df != sf
  | .ftoi g d a _ _ _ => g.ok && d.okDst && a.okSrc
  | .itof g d a _ _ => g.ok && d.okDst && a.okSrc
  | .fmov g d a => g.ok && d.okDst && a.okSrc
  | .fmvg g d a => g.ok && d.okDst && a.okSrc
  | .fmvf g d a _ => g.ok && d.okDst && a.okSrc
  | .exp2 g d a => g.ok && d.okDst && a.okSrc
  | .sget g d a => g.ok && d.okDst && a.okSrc
  | .sset g d a => g.ok && d.okDst && a.okSrc
  | .vadd g _ _ _ _ _ => g.ok
  | .vsub g _ _ _ _ _ => g.ok
  | .vmul g _ _ _ _ _ => g.ok
  | .vfma g _ _ _ _ _ _ => g.ok
  | .vfms g _ _ _ _ _ _ => g.ok
  | .vmin g _ _ _ _ _ => g.ok
  | .vmax g _ _ _ _ _ => g.ok
  | .vabs g _ _ _ _ => g.ok
  | .vneg g _ _ _ _ => g.ok
  | .vdiv g _ _ _ _ _ => g.ok
  | .vsqrt g _ _ _ _ => g.ok
  | .vexp2 g _ _ _ => g.ok
  | .vcmp g _ _ _ f _ _ half => g.ok && (!half || f == .hf || f == .bf)
  | .vcvt g _ _ _ _ _ => g.ok
  | .vred g d _ _ _ _ => g.ok && d.okDst
  | .vsget g _ _ _ => g.ok
  | .vsset g _ _ _ _ => g.ok
  | .viadd g _ _ _ _ _ => g.ok
  | .visub g _ _ _ _ _ => g.ok
  | .vimul g _ _ _ _ _ => g.ok
  | .vand g _ _ _ _ => g.ok
  | .vor g _ _ _ _ => g.ok
  | .vxor g _ _ _ _ => g.ok
  | .vshl g _ _ _ _ _ => g.ok
  | .vshr g _ _ _ _ _ => g.ok
  | .vsar g _ _ _ _ _ => g.ok
  | .vimin g _ _ _ _ _ _ => g.ok
  | .vimax g _ _ _ _ _ _ => g.ok
  | .vicmp g _ _ _ _ _ _ _ => g.ok
  | .vsel g _ _ _ _ => g.ok
  | .qand g _ _ _ => g.ok
  | .qor g _ _ _ => g.ok
  | .qxor g _ _ _ => g.ok
  | .qnot g _ _ => g.ok
  | .qpop g d _ => g.ok && d.okDst
  | .qmovToQ g _ a => g.ok && a.okSrc
  | .qmovToG g d _ => g.ok && d.okDst
  | .vld g _ m _ _ _ => g.ok && m.ok
  | .vst g _ m _ _ _ => g.ok && m.ok
  | .vldx g _ m _ _ _ => g.ok && m.base.okSrc
  | .vstx g _ m _ _ _ => g.ok && m.base.okSrc
  | .vldc g _ m c _ _ _ => g.ok && m.ok && c.okSrc
  | .vstc g _ m c _ _ _ => g.ok && m.ok && c.okSrc
  | .vshuf g _ _ _ _ _ => g.ok
  | .vbcast g _ a dc _ => g.ok && a.okSrc dc
  | .vext g d _ b dc => g.ok && d.okDst dc && b.okSrc
  | .vins g _ a b dc => g.ok && a.okSrc dc && b.okSrc
  | .viota g _ a b _ => g.ok && a.okSrc && b.okSrc
  | .vmov g _ _ _ => g.ok
  | .mma g _ a b c e _ _ _ _ => g.ok && a.okSrc && b.okSrc && c.okSrc && e.okSrc
  | .mmaq g _ a b c e _ _ _ _ => g.ok && a.okSrc && b.okSrc && c.okSrc && e.okSrc
  | .mzero g _ => g.ok
  | .mld g _ a b c _ pl => g.ok && a.okSrc && b.okSrc && (c.okSrc && (pl || c == ⟨0, .plain⟩))
  | .mst g _ a b c _ pl => g.ok && a.okSrc && b.okSrc && (c.okSrc && (pl || c == ⟨0, .plain⟩))
  | .mcommit g d fill => g.ok && d.okDst && (!fill || d.md == .plain)
  | .mwait g a => g.ok && a.okSrc
  | .mtest g d => g.ok && d.okDst
  | .vfroma g _ _ b sl => g.ok && b.okSrc && (sl == .row || b == ⟨0, .plain⟩)
  | .vtoa g _ _ b sl => g.ok && b.okSrc && (sl == .row || b == ⟨0, .plain⟩)
  | .mscale g _ a b => g.ok && a.okSrc && b.ok
  | .smxa g _ _ b c e _ _ => g.ok && b.okSrc && c.okSrc && e.okSrc
  | .smxfin g _ b _ => g.ok && b.ok
  | .smxmerge g _ _ b => g.ok && b.ok
  | .smxld g _ a b c pl => g.ok && a.okSrc && b.ok && (c.okSrc && (pl || c == ⟨0, .plain⟩))
  | .smxst g _ a b c pl => g.ok && a.okSrc && b.ok && (c.okSrc && (pl || c == ⟨0, .plain⟩))
  | .smxinit g _ b => g.ok && b.ok
  | .copyq g a b c e => g.ok && a.okSrc && b.okSrc && c.okSrc && e.okSrc
  | .copyqt g d a b c e => g.ok && d.okDst && a.okSrc && b.okSrc && c.okSrc && e.okSrc
  | .copys g d a => g.ok && d.okDst && a.okSrc
  | .copyk g d a => g.ok && d.okDst && a.okSrc
  | .xfence g => g.ok
  | .signal g a b c => g.ok && a.okSrc && b.okSrc && c.okSrc
  | .lease g d a b _ => g.ok && d.okDst && a.okSrc && b.okSrc
  | .renew g d a b => g.ok && d.okDst && a.okSrc && b.okSrc
  | .unlease g d a _ => g.ok && d.okDst && a.okSrc
  | .roleq g d a => g.ok && d.okDst && a.okSrc
  | .rolereq g d a b => g.ok && d.okDst && a.okSrc && b.okSrc
  | .noteack g a => g.ok && a.okSrc
  | .couch g d a ev => g.ok && d.okDst && a.okSrc && (if ev then d.num == 0 else d.md == .plain)
  | .couchs g d a => g.ok && d.okDst && a.okSrc
  | .svc g _ => g.ok
  | .brk g _ => g.ok
  | .tret g => g.ok
  | .csrr g d num => g.ok && d.okDst && csrAssigned num.toNat
  | .csrw g d a num => g.ok && d.okDst && a.okSrc && csrAssigned num.toNat
  | .csrs g d a num => g.ok && d.okDst && a.okSrc && csrAssigned num.toNat
  | .csrc g d a num => g.ok && d.okDst && a.okSrc && csrAssigned num.toNat
  | .tbw g a b c t => g.ok && a.okSrc && b.okSrc && c.okSrc && (t == .gang || c.num == 0)
  | .tbi g a b t all => g.ok && a.okSrc && b.okSrc && (t == .gang || b.num == 0) && (!all || a.num == 0)
  | .tbp g d a b t => g.ok && d.okDst && a.okSrc && b.okSrc && (t == .gang || b.num == 0)
  | .scfgr g d a _ => g.ok && d.okDst && a.okSrc
  | .scfgw g a b _ => g.ok && a.okSrc && b.okSrc
  | .cwbr g a c _ => g.ok && a.okSrc && c.okSrc
  | .slinv g a c => g.ok && a.okSrc && c.okSrc
  | .gswitch g d a b => g.ok && d.okDst && a.okSrc && b.okSrc
  | .ckpt g d => g.ok && d.okDst
  | .halt g a => g.ok && a.okSrc
  | .mmaStepRun _ _ => true
  | .mmaqStepRun _ _ => true
  | .mzeroRun _ => true
  | .mscaleRun _ => true
  | .mldRun _ => true
  | .mstRun _ => true
  | .smxaRun _ => true
  | .smxfinRun _ => true
  | .smxmergeRun _ => true
  | .smxldRun _ => true
  | .smxstRun _ => true
  | .smxinitRun _ => true
  | .matrixBatchComplete _ => true
  | .parkedThreadWake _ _ => true
  | .eventEntry _ _ => true
  | .enqueue _ _ => true
  | .taskCreate _ => true
  | .taskDispatch _ _ _ => true
  | .priorityRise _ _ => true
  | .taskRetire _ _ => true
  | .completionMessage _ => true
  | .levellingStep _ => true
  | .levellingReceive _ _ => true
  | .tileSpaceArrival _ => true
  | .gangCacheHomeApply _ => true
  | .sliceWriteApply _ => true
  | .sliceRead _ => true
  | .sliceAtomic _ => true
  | .stackReadReturn _ _ => true
  | .stackWriteAck _ _ => true
  | .dieViewDelivery _ _ => true
  | .copyTransferStart _ => true
  | .copyTransferComplete _ => true
  | .domainMessageArrival _ => true
  | .remoteAck _ _ => true
  | .remoteRefusal _ _ => true
  | .signalFillArrival _ => true
  | .reductionFlitArrival _ => true
  | .collectiveComplete _ _ => true
  | .censusPoint _ => true
  | .roleChange _ _ => true
  | .routingDrainComplete _ _ => true
  | .reseatFlip _ _ => true
  | .roleWritebackComplete _ _ => true
  | .leaseExpiring _ _ => true
  | .leaseExpired _ _ => true
  | .gangSwitchStop _ _ => true
  | .gangResume _ _ _ => true
  | .checkpointCapture _ => true
  | .faultDetected _ => true
  | .rollback _ => true
  | .partitionReset _ => true
  | .functionLevelReset _ => true
  | .partitionResize _ _ _ _ _ => true
  | .resizeDeadline _ => true
  | .heldContextEnd _ _ => true
  | .heldContextStart _ _ => true
  | .watchdog _ _ => true
  | .couchDrainStep _ => true
  | .splitWrite _ => true
  | .deckleWrite _ _ _ => true
  | .dbgctlWrite _ _ _ => true
  | .registerWrite _ _ => true
  | .sholdHold _ => true
  | .sholdRelease _ => true
  | .dswitchArm _ _ _ => true
  | .domainSwitch _ => true
  | .domainSwitchComplete _ => true
  | .crbaseWrite _ _ => true
  | .crsizeWrite _ _ => true
  | .crheadWrite _ _ => true
  | .modctlGo _ _ _ => true
  | .pwrcapWrite _ => true
  | .devnumsetWrite _ => true
  | .rbdataWrite _ => true
  | .hostMemoryAccess _ _ _ => true
  | .hostAtomic _ _ _ => true
  | .getVersion _ => true
  | .getCapabilities _ => true
  | .negotiateAlgorithms _ => true
  | .getDigests _ => true
  | .getCertificate _ => true
  | .challenge _ => true
  | .getMeasurements _ => true
  | .powerOn _ _ => true
  | .flitCrcError _ => true
  | .tileStoreScrub _ => true
  | .sliceScrub _ => true
  | .stackScrub _ => true
  | .progressTimeout _ => true
  | .dutyCycling _ => true
  | .gtimeToleranceChange _ _ => true

/-- The steps of agents other than a fetching thread: the rows of the table that have no word. -/
def Instr.isEvent : Instr → Bool
  | .padWord => false
  | .add _ _ _ _ => false
  | .sub _ _ _ _ => false
  | .mul _ _ _ _ => false
  | .mulh _ _ _ _ => false
  | .mulhn _ _ _ _ => false
  | .div _ _ _ _ => false
  | .divn _ _ _ _ => false
  | .rem _ _ _ _ => false
  | .remn _ _ _ _ => false
  | .and _ _ _ _ => false
  | .or _ _ _ _ => false
  | .xor _ _ _ _ => false
  | .andn _ _ _ _ => false
  | .orn _ _ _ _ => false
  | .shl _ _ _ _ => false
  | .shr _ _ _ _ => false
  | .sar _ _ _ _ => false
  | .rot _ _ _ _ => false
  | .min _ _ _ _ => false
  | .max _ _ _ _ => false
  | .minn _ _ _ _ => false
  | .maxn _ _ _ _ => false
  | .abs _ _ _ => false
  | .neg _ _ _ => false
  | .clz _ _ _ => false
  | .ctz _ _ _ => false
  | .popc _ _ _ => false
  | .brev _ _ _ => false
  | .bswap _ _ _ => false
  | .sext _ _ _ _ => false
  | .zext _ _ _ _ => false
  | .li _ _ _ => false
  | .lih _ _ _ => false
  | .lea _ _ _ => false
  | .mov _ _ _ => false
  | .sel _ _ _ _ _ => false
  | .cmpeq _ _ _ _ => false
  | .cmpne _ _ _ _ => false
  | .cmplt _ _ _ _ => false
  | .cmple _ _ _ _ => false
  | .cmpltn _ _ _ _ => false
  | .cmplen _ _ _ _ => false
  | .tstbit _ _ _ _ => false
  | .bfx _ _ _ _ _ => false
  | .bfxn _ _ _ _ _ => false
  | .bfi _ _ _ _ _ => false
  | .addv _ _ _ _ => false
  | .subv _ _ _ _ => false
  | .mulv _ _ _ _ => false
  | .chk _ _ _ => false
  | .madd _ _ _ _ _ => false
  | .br _ _ => false
  | .jmp _ _ => false
  | .jr _ _ => false
  | .call _ _ _ => false
  | .callr _ _ _ => false
  | .ret _ _ => false
  | .loop _ _ _ => false
  | .bsig _ _ _ _ => false
  | .pand _ _ _ _ => false
  | .por _ _ _ _ => false
  | .pxor _ _ _ _ => false
  | .pnot _ _ _ => false
  | .pmov _ _ _ => false
  | .nop _ => false
  | .tstart _ _ _ => false
  | .treap _ _ _ => false
  | .tend _ _ => false
  | .tspawn _ _ _ => false
  | .bar _ _ => false
  | .fempty _ _ => false
  | .ffull _ _ => false
  | .ftest _ _ _ => false
  | .wpush _ _ => false
  | .wtake _ _ _ => false
  | .wcount _ _ => false
  | .ld _ _ _ _ _ _ _ => false
  | .st _ _ _ _ _ _ _ => false
  | .ldf _ _ _ _ _ => false
  | .stf _ _ _ _ _ => false
  | .ldfc _ _ _ _ _ _ => false
  | .stfc _ _ _ _ _ _ => false
  | .ldp _ _ _ _ _ => false
  | .stp _ _ _ _ _ => false
  | .pref _ _ _ => false
  | .inval _ _ _ => false
  | .cwb _ _ _ => false
  | .amo _ _ _ _ _ _ _ _ => false
  | .amocas _ _ _ _ _ _ _ => false
  | .amof _ _ _ _ _ _ _ _ => false
  | .fence _ _ _ => false
  | .fencesc _ => false
  | .rfence _ _ => false
  | .fadd _ _ _ _ _ => false
  | .fsub _ _ _ _ _ => false
  | .fmul _ _ _ _ _ => false
  | .fdiv _ _ _ _ _ => false
  | .fsqrt _ _ _ _ => false
  | .fma _ _ _ _ _ _ => false
  | .fms _ _ _ _ _ _ => false
  | .fnma _ _ _ _ _ _ => false
  | .fnms _ _ _ _ _ _ => false
  | .fmin _ _ _ _ _ => false
  | .fmax _ _ _ _ _ => false
  | .fabs _ _ _ _ => false
  | .fneg _ _ _ _ => false
  | .fcpys _ _ _ _ _ => false
  | .fcmpeq _ _ _ _ _ => false
  | .fcmplt _ _ _ _ _ => false
  | .fcmple _ _ _ _ _ => false
  | .fcmpun _ _ _ _ _ => false
  | .fclass _ _ _ _ => false
  | .fround _ _ _ _ _ => false
  | .fcvt _ _ _ _ _ => false
  | .ftoi _ _ _ _ _ _ => false
  | .itof _ _ _ _ _ => false
  | .fmov _ _ _ => false
  | .fmvg _ _ _ => false
  | .fmvf _ _ _ _ => false
  | .exp2 _ _ _ => false
  | .sget _ _ _ => false
  | .sset _ _ _ => false
  | .vadd _ _ _ _ _ _ => false
  | .vsub _ _ _ _ _ _ => false
  | .vmul _ _ _ _ _ _ => false
  | .vfma _ _ _ _ _ _ _ => false
  | .vfms _ _ _ _ _ _ _ => false
  | .vmin _ _ _ _ _ _ => false
  | .vmax _ _ _ _ _ _ => false
  | .vabs _ _ _ _ _ => false
  | .vneg _ _ _ _ _ => false
  | .vdiv _ _ _ _ _ _ => false
  | .vsqrt _ _ _ _ _ => false
  | .vexp2 _ _ _ _ => false
  | .vcmp _ _ _ _ _ _ _ _ => false
  | .vcvt _ _ _ _ _ _ => false
  | .vred _ _ _ _ _ _ => false
  | .vsget _ _ _ _ => false
  | .vsset _ _ _ _ _ => false
  | .viadd _ _ _ _ _ _ => false
  | .visub _ _ _ _ _ _ => false
  | .vimul _ _ _ _ _ _ => false
  | .vand _ _ _ _ _ => false
  | .vor _ _ _ _ _ => false
  | .vxor _ _ _ _ _ => false
  | .vshl _ _ _ _ _ _ => false
  | .vshr _ _ _ _ _ _ => false
  | .vsar _ _ _ _ _ _ => false
  | .vimin _ _ _ _ _ _ _ => false
  | .vimax _ _ _ _ _ _ _ => false
  | .vicmp _ _ _ _ _ _ _ _ => false
  | .vsel _ _ _ _ _ => false
  | .qand _ _ _ _ => false
  | .qor _ _ _ _ => false
  | .qxor _ _ _ _ => false
  | .qnot _ _ _ => false
  | .qpop _ _ _ => false
  | .qmovToQ _ _ _ => false
  | .qmovToG _ _ _ => false
  | .vld _ _ _ _ _ _ => false
  | .vst _ _ _ _ _ _ => false
  | .vldx _ _ _ _ _ _ => false
  | .vstx _ _ _ _ _ _ => false
  | .vldc _ _ _ _ _ _ _ => false
  | .vstc _ _ _ _ _ _ _ => false
  | .vshuf _ _ _ _ _ _ => false
  | .vbcast _ _ _ _ _ => false
  | .vext _ _ _ _ _ => false
  | .vins _ _ _ _ _ => false
  | .viota _ _ _ _ _ => false
  | .vmov _ _ _ _ => false
  | .mma _ _ _ _ _ _ _ _ _ _ => false
  | .mmaq _ _ _ _ _ _ _ _ _ _ => false
  | .mzero _ _ => false
  | .mld _ _ _ _ _ _ _ => false
  | .mst _ _ _ _ _ _ _ => false
  | .mcommit _ _ _ => false
  | .mwait _ _ => false
  | .mtest _ _ => false
  | .vfroma _ _ _ _ _ => false
  | .vtoa _ _ _ _ _ => false
  | .mscale _ _ _ _ => false
  | .smxa _ _ _ _ _ _ _ _ => false
  | .smxfin _ _ _ _ => false
  | .smxmerge _ _ _ _ => false
  | .smxld _ _ _ _ _ _ => false
  | .smxst _ _ _ _ _ _ => false
  | .smxinit _ _ _ => false
  | .copyq _ _ _ _ _ => false
  | .copyqt _ _ _ _ _ _ => false
  | .copys _ _ _ => false
  | .copyk _ _ _ => false
  | .xfence _ => false
  | .signal _ _ _ _ => false
  | .lease _ _ _ _ _ => false
  | .renew _ _ _ _ => false
  | .unlease _ _ _ _ => false
  | .roleq _ _ _ => false
  | .rolereq _ _ _ _ => false
  | .noteack _ _ => false
  | .couch _ _ _ _ => false
  | .couchs _ _ _ => false
  | .svc _ _ => false
  | .brk _ _ => false
  | .tret _ => false
  | .csrr _ _ _ => false
  | .csrw _ _ _ _ => false
  | .csrs _ _ _ _ => false
  | .csrc _ _ _ _ => false
  | .tbw _ _ _ _ _ => false
  | .tbi _ _ _ _ _ => false
  | .tbp _ _ _ _ _ => false
  | .scfgr _ _ _ _ => false
  | .scfgw _ _ _ _ => false
  | .cwbr _ _ _ _ => false
  | .slinv _ _ _ => false
  | .gswitch _ _ _ _ => false
  | .ckpt _ _ => false
  | .halt _ _ => false
  | .mmaStepRun _ _ => true
  | .mmaqStepRun _ _ => true
  | .mzeroRun _ => true
  | .mscaleRun _ => true
  | .mldRun _ => true
  | .mstRun _ => true
  | .smxaRun _ => true
  | .smxfinRun _ => true
  | .smxmergeRun _ => true
  | .smxldRun _ => true
  | .smxstRun _ => true
  | .smxinitRun _ => true
  | .matrixBatchComplete _ => true
  | .parkedThreadWake _ _ => true
  | .eventEntry _ _ => true
  | .enqueue _ _ => true
  | .taskCreate _ => true
  | .taskDispatch _ _ _ => true
  | .priorityRise _ _ => true
  | .taskRetire _ _ => true
  | .completionMessage _ => true
  | .levellingStep _ => true
  | .levellingReceive _ _ => true
  | .tileSpaceArrival _ => true
  | .gangCacheHomeApply _ => true
  | .sliceWriteApply _ => true
  | .sliceRead _ => true
  | .sliceAtomic _ => true
  | .stackReadReturn _ _ => true
  | .stackWriteAck _ _ => true
  | .dieViewDelivery _ _ => true
  | .copyTransferStart _ => true
  | .copyTransferComplete _ => true
  | .domainMessageArrival _ => true
  | .remoteAck _ _ => true
  | .remoteRefusal _ _ => true
  | .signalFillArrival _ => true
  | .reductionFlitArrival _ => true
  | .collectiveComplete _ _ => true
  | .censusPoint _ => true
  | .roleChange _ _ => true
  | .routingDrainComplete _ _ => true
  | .reseatFlip _ _ => true
  | .roleWritebackComplete _ _ => true
  | .leaseExpiring _ _ => true
  | .leaseExpired _ _ => true
  | .gangSwitchStop _ _ => true
  | .gangResume _ _ _ => true
  | .checkpointCapture _ => true
  | .faultDetected _ => true
  | .rollback _ => true
  | .partitionReset _ => true
  | .functionLevelReset _ => true
  | .partitionResize _ _ _ _ _ => true
  | .resizeDeadline _ => true
  | .heldContextEnd _ _ => true
  | .heldContextStart _ _ => true
  | .watchdog _ _ => true
  | .couchDrainStep _ => true
  | .splitWrite _ => true
  | .deckleWrite _ _ _ => true
  | .dbgctlWrite _ _ _ => true
  | .registerWrite _ _ => true
  | .sholdHold _ => true
  | .sholdRelease _ => true
  | .dswitchArm _ _ _ => true
  | .domainSwitch _ => true
  | .domainSwitchComplete _ => true
  | .crbaseWrite _ _ => true
  | .crsizeWrite _ _ => true
  | .crheadWrite _ _ => true
  | .modctlGo _ _ _ => true
  | .pwrcapWrite _ => true
  | .devnumsetWrite _ => true
  | .rbdataWrite _ => true
  | .hostMemoryAccess _ _ _ => true
  | .hostAtomic _ _ _ => true
  | .getVersion _ => true
  | .getCapabilities _ => true
  | .negotiateAlgorithms _ => true
  | .getDigests _ => true
  | .getCertificate _ => true
  | .challenge _ => true
  | .getMeasurements _ => true
  | .powerOn _ _ => true
  | .flitCrcError _ => true
  | .tileStoreScrub _ => true
  | .sliceScrub _ => true
  | .stackScrub _ => true
  | .progressTimeout _ => true
  | .dutyCycling _ => true
  | .gtimeToleranceChange _ _ => true

end Sys2Proof
end

