-- ==== Sys2Proof/Decode.lean ====
section
/-!
DEFINITION. From bytes to an instruction or a rejection by name (R35 to R55), and back. A word is first cut into the fields of the
three forms; the checks 6 and 8 to 10 of R51 read the shape its opcode has; then the instruction is built from the fields.
-/

set_option linter.constructorNameAsVariable false
set_option linter.unusedVariables false

namespace Sys2Proof

/-! ### The fields of a word (R40, R41, R42) -/

/-- The fields of an instruction. For form S, c, fm, e and fl are zero; for form M, e and fl are zero. -/
structure Raw where
  len : BitVec 2
  op : BitVec 10
  d : BitVec 8
  a : BitVec 8
  b : BitVec 8
  pred : BitVec 3
  neg : BitVec 1
  i : BitVec 1
  fn : BitVec 23
  c : BitVec 8
  fm : BitVec 24
  e : BitVec 8
  fl : BitVec 24
  deriving DecidableEq, Repr

/-- Size in bytes of each length code (R36); code 11 is the pad word. -/
def sizeOf (len : Nat) : Nat :=
  match len with
  | 0 => 8
  | 1 => 12
  | 2 => 16
  | _ => 4

/-- The number whose bit 32k + j is bit j of word k (R35). -/
def Raw.toWord (r : Raw) : Nat :=
  r.len.toNat + r.op.toNat * 2 ^ 2 + r.d.toNat * 2 ^ 12 + r.a.toNat * 2 ^ 20 + r.b.toNat * 2 ^ 28 + r.pred.toNat * 2 ^ 36 +
  r.neg.toNat * 2 ^ 39 + r.i.toNat * 2 ^ 40 + r.fn.toNat * 2 ^ 41 + r.c.toNat * 2 ^ 64 + r.fm.toNat * 2 ^ 72 +
  r.e.toNat * 2 ^ 96 + r.fl.toNat * 2 ^ 104

/-- The fields of an instruction's bits. -/
def Raw.ofWord (w : Nat) : Raw where
  len := BitVec.ofNat 2 w
  op := BitVec.ofNat 10 (w / 2 ^ 2)
  d := BitVec.ofNat 8 (w / 2 ^ 12)
  a := BitVec.ofNat 8 (w / 2 ^ 20)
  b := BitVec.ofNat 8 (w / 2 ^ 28)
  pred := BitVec.ofNat 3 (w / 2 ^ 36)
  neg := BitVec.ofNat 1 (w / 2 ^ 39)
  i := BitVec.ofNat 1 (w / 2 ^ 40)
  fn := BitVec.ofNat 23 (w / 2 ^ 41)
  c := BitVec.ofNat 8 (w / 2 ^ 64)
  fm := BitVec.ofNat 24 (w / 2 ^ 72)
  e := BitVec.ofNat 8 (w / 2 ^ 96)
  fl := BitVec.ofNat 24 (w / 2 ^ 104)

/-- Opcode row (R40). -/
def Raw.row (r : Raw) : Nat := r.op.toNat / 32
/-- Opcode column (R40). -/
def Raw.col (r : Raw) : Nat := r.op.toNat % 32

/-- The three groups of function bits: 63:41, 95:72 and 127:104. -/
inductive FnPart where
  | fn | fm | fl
  deriving DecidableEq, Repr

/-- The instruction bit at which a group starts. -/
def FnPart.lo : FnPart → Nat
  | .fn => 41
  | .fm => 72
  | .fl => 104

/-- The value of `width` bits from bit `lo` of a group. -/
def Raw.f (r : Raw) (p : FnPart) (lo width : Nat) : Nat :=
  (match p with | .fn => r.fn.toNat | .fm => r.fm.toNat | .fl => r.fl.toNat) / 2 ^ lo % 2 ^ width

/-! ### Codes -/

/-- Code of each name. -/
def ExtW.code : ExtW → Nat
  | .b => 0
  | .h => 1
  | .w => 2
/-- Name of each code; the reserved codes have none. -/
def ExtW.ofCode : Nat → Option ExtW
  | 0 => some .b
  | 1 => some .h
  | 2 => some .w
  | _ => none

/-- Code of each name. -/
def BarScope.code : BarScope → Nat
  | .gang => 0
  | .tile => 1
  | .dev => 2
/-- Name of each code; the reserved codes have none. -/
def BarScope.ofCode : Nat → Option BarScope
  | 0 => some .gang
  | 1 => some .tile
  | 2 => some .dev
  | _ => none

/-- Code of each name. -/
def MemW.code : MemW → Nat
  | .b => 0
  | .h => 1
  | .w => 2
  | .d => 3
  | .bn => 4
  | .hn => 5
  | .wn => 6
/-- Name of each code; the reserved codes have none. -/
def MemW.ofCode : Nat → Option MemW
  | 0 => some .b
  | 1 => some .h
  | 2 => some .w
  | 3 => some .d
  | 4 => some .bn
  | 5 => some .hn
  | 6 => some .wn
  | _ => none

/-- Code of each name. -/
def StW.code : StW → Nat
  | .b => 0
  | .h => 1
  | .w => 2
  | .d => 3
/-- Name of each code; the reserved codes have none. -/
def StW.ofCode : Nat → Option StW
  | 0 => some .b
  | 1 => some .h
  | 2 => some .w
  | 3 => some .d
  | _ => none

/-- Code of each name. -/
def Fmt.code : Fmt → Nat
  | .s => 0
  | .d => 1
  | .hf => 2
  | .bf => 3
/-- Name of each code; the reserved codes have none. -/
def Fmt.ofCode : Nat → Option Fmt
  | 0 => some .s
  | 1 => some .d
  | 2 => some .hf
  | 3 => some .bf
  | _ => none

/-- Code of each name. -/
def ReqType.code : ReqType → Nat
  | .own => 0
  | .wt => 1
  | .si => 2
  | .nc => 3
/-- Name of each code; the reserved codes have none. -/
def ReqType.ofCode : Nat → Option ReqType
  | 0 => some .own
  | 1 => some .wt
  | 2 => some .si
  | 3 => some .nc
  | _ => none

/-- Code of each name. -/
def Scope.code : Scope → Nat
  | .tile => 0
  | .gang => 1
  | .dev => 2
  | .dom => 3
/-- Name of each code; the reserved codes have none. -/
def Scope.ofCode : Nat → Option Scope
  | 0 => some .tile
  | 1 => some .gang
  | 2 => some .dev
  | 3 => some .dom
  | _ => none

/-- Code of each name. -/
def FenceKind.code : FenceKind → Nat
  | .none => 0
  | .acq => 1
  | .rel => 2
  | .ar => 3
/-- Name of each code; the reserved codes have none. -/
def FenceKind.ofCode : Nat → Option FenceKind
  | 0 => some .none
  | 1 => some .acq
  | 2 => some .rel
  | 3 => some .ar
  | _ => none

/-- Code of each name. -/
def AtW.code : AtW → Nat
  | .w => 2
  | .d => 3
  | .wn => 6
/-- Name of each code; the reserved codes have none. -/
def AtW.ofCode : Nat → Option AtW
  | 2 => some .w
  | 3 => some .d
  | 6 => some .wn
  | _ => none

/-- Code of each name. -/
def AmoOp.code : AmoOp → Nat
  | .add => 0
  | .and => 1
  | .or => 2
  | .xor => 3
  | .min => 4
  | .max => 5
  | .minn => 6
  | .maxn => 7
  | .swap => 8
/-- Name of each code; the reserved codes have none. -/
def AmoOp.ofCode : Nat → Option AmoOp
  | 0 => some .add
  | 1 => some .and
  | 2 => some .or
  | 3 => some .xor
  | 4 => some .min
  | 5 => some .max
  | 6 => some .minn
  | 7 => some .maxn
  | 8 => some .swap
  | _ => none

/-- Code of each name. -/
def AmofFmt.code : AmofFmt → Nat
  | .s => 0
  | .d => 1
/-- Name of each code; the reserved codes have none. -/
def AmofFmt.ofCode : Nat → Option AmofFmt
  | 0 => some .s
  | 1 => some .d
  | _ => none

/-- Code of each name. -/
def AmofOp.code : AmofOp → Nat
  | .fadd => 0
  | .fmin => 1
  | .fmax => 2
/-- Name of each code; the reserved codes have none. -/
def AmofOp.ofCode : Nat → Option AmofOp
  | 0 => some .fadd
  | 1 => some .fmin
  | 2 => some .fmax
  | _ => none

/-- Code of each name. -/
def Rnd.code : Rnd → Nat
  | .rne => 0
  | .rz => 1
  | .rup => 2
  | .rdn => 3
  | .dyn => 4
/-- Name of each code; the reserved codes have none. -/
def Rnd.ofCode : Nat → Option Rnd
  | 0 => some .rne
  | 1 => some .rz
  | 2 => some .rup
  | 3 => some .rdn
  | 4 => some .dyn
  | _ => none

/-- Code of each name. -/
def IntCode.code : IntCode → Nat
  | .w => 2
  | .d => 3
  | .wn => 6
  | .dn => 7
/-- Name of each code; the reserved codes have none. -/
def IntCode.ofCode : Nat → Option IntCode
  | 2 => some .w
  | 3 => some .d
  | 6 => some .wn
  | 7 => some .dn
  | _ => none

/-- Code of each name. -/
def Cond.code : Cond → Nat
  | .eq => 0
  | .ne => 1
  | .lt => 2
  | .le => 3
  | .un => 4
/-- Name of each code; the reserved codes have none. -/
def Cond.ofCode : Nat → Option Cond
  | 0 => some .eq
  | 1 => some .ne
  | 2 => some .lt
  | 3 => some .le
  | 4 => some .un
  | _ => none

/-- Code of each name. -/
def ICond.code : ICond → Nat
  | .eq => 0
  | .ne => 1
  | .lt => 2
  | .le => 3
/-- Name of each code; the reserved codes have none. -/
def ICond.ofCode : Nat → Option ICond
  | 0 => some .eq
  | 1 => some .ne
  | 2 => some .lt
  | 3 => some .le
  | _ => none

/-- Code of each name. -/
def CvtOp.code : CvtOp → Nat
  | .sHf => 0
  | .sBf => 1
  | .hfS => 2
  | .bfS => 3
  | .dS => 4
  | .sD => 5
  | .sW => 6
  | .wS => 7
  | .sWn => 8
  | .wnS => 9
/-- Name of each code; the reserved codes have none. -/
def CvtOp.ofCode : Nat → Option CvtOp
  | 0 => some .sHf
  | 1 => some .sBf
  | 2 => some .hfS
  | 3 => some .bfS
  | 4 => some .dS
  | 5 => some .sD
  | 6 => some .sW
  | 7 => some .wS
  | 8 => some .sWn
  | 9 => some .wnS
  | _ => none

/-- Code of each name. -/
def RedOp.code : RedOp → Nat
  | .sum => 0
  | .min => 1
  | .max => 2
/-- Name of each code; the reserved codes have none. -/
def RedOp.ofCode : Nat → Option RedOp
  | 0 => some .sum
  | 1 => some .min
  | 2 => some .max
  | _ => none

/-- Code of each name. -/
def VW.code : VW → Nat
  | .b => 0
  | .h => 1
  | .w => 2
/-- Name of each code; the reserved codes have none. -/
def VW.ofCode : Nat → Option VW
  | 0 => some .b
  | 1 => some .h
  | 2 => some .w
  | _ => none

/-- Code of each name. -/
def VWw.code : VWw → Nat
  | .w => 2
/-- Name of each code; the reserved codes have none. -/
def VWw.ofCode : Nat → Option VWw
  | 2 => some .w
  | _ => none

/-- Code of each name. -/
def VData.code : VData → Nat
  | .s => 0
  | .d => 1
  | .hf => 2
  | .bf => 3
  | .w => 4
/-- Name of each code; the reserved codes have none. -/
def VData.ofCode : Nat → Option VData
  | 0 => some .s
  | 1 => some .d
  | 2 => some .hf
  | 3 => some .bf
  | 4 => some .w
  | _ => none

/-- Code of each name. -/
def MmaFmt.code : MmaFmt → Nat
  | .hf => 2
  | .bf => 3
/-- Name of each code; the reserved codes have none. -/
def MmaFmt.ofCode : Nat → Option MmaFmt
  | 2 => some .hf
  | 3 => some .bf
  | _ => none

/-- Code of each name. -/
def QFmt.code : QFmt → Nat
  | .q8 => 0
  | .q4 => 1
/-- Name of each code; the reserved codes have none. -/
def QFmt.ofCode : Nat → Option QFmt
  | 0 => some .q8
  | 1 => some .q4
  | _ => none

/-- Code of each name. -/
def MData.code : MData → Nat
  | .s => 0
  | .hf => 2
  | .bf => 3
  | .q8 => 4
  | .q4 => 5
/-- Name of each code; the reserved codes have none. -/
def MData.ofCode : Nat → Option MData
  | 0 => some .s
  | 2 => some .hf
  | 3 => some .bf
  | 4 => some .q8
  | 5 => some .q4
  | _ => none

/-- Code of each name. -/
def AccSel.code : AccSel → Nat
  | .row => 0
  | .m => 1
  | .l => 2
  | .st => 3
/-- Name of each code; the reserved codes have none. -/
def AccSel.ofCode : Nat → Option AccSel
  | 0 => some .row
  | 1 => some .m
  | 2 => some .l
  | 3 => some .st
  | _ => none

/-- Code of each name. -/
def TbTarget.code : TbTarget → Nat
  | .own => 0
  | .gang => 1
  | .ds => 2
/-- Name of each code; the reserved codes have none. -/
def TbTarget.ofCode : Nat → Option TbTarget
  | 0 => some .own
  | 1 => some .gang
  | 2 => some .ds
  | _ => none

/-! ### Operand bytes (R47) -/

/-- Bits 7:6 of an operand byte (R47). -/
def Md.code : Md → BitVec 2
  | .plain => 0
  | .consume => 1
  | .peek => 2
  | .deposit => 3
/-- The modifier of bits 7:6 (R47). -/
def Md.ofBits (b : BitVec 2) : Md :=
  if b = 0 then .plain else if b = 1 then .consume else if b = 2 then .peek else .deposit

/-- Operand byte of a g-class operand. -/
def GReg.byte (r : GReg) : BitVec 8 := r.md.code ++ r.num
/-- The g-class operand of a byte. -/
def GReg.ofByte (b : BitVec 8) : GReg := ⟨b.extractLsb' 0 6, .ofBits (b.extractLsb' 6 2)⟩
/-- Operand byte of an f-class operand. -/
def FReg.byte (r : FReg) : BitVec 8 := r.md.code ++ ((0 : BitVec 1) ++ r.num)
/-- The f-class operand of a byte. -/
def FReg.ofByte (b : BitVec 8) : FReg := ⟨b.extractLsb' 0 5, .ofBits (b.extractLsb' 6 2)⟩
/-- Operand byte of FEMPTY, FFULL and FTEST. -/
def PlainGF.byte : PlainGF → BitVec 8
  | .g n => n.setWidth 8
  | .f n => n.setWidth 8
/-- The class bit of FEMPTY, FFULL and FTEST (R82). -/
def PlainGF.bit : PlainGF → Nat
  | .g _ => 0
  | .f _ => 1
/-- Operand byte of a scalar operand of row 10. -/
def AnyGF.byte : AnyGF → BitVec 8
  | .g r => r.byte
  | .f r => r.byte
/-- Operand byte b (R44). -/
def RegImm.byte : RegImm → BitVec 8
  | .reg r => r.byte
  | .imm _ => 0
/-- The I bit (R44). -/
def RegImm.bit : RegImm → BitVec 1
  | .reg _ => 0
  | .imm _ => 1
/-- Bits 63:41 (R44). -/
def RegImm.fn : RegImm → BitVec 23
  | .reg _ => 0
  | .imm v => v
/-- Operand byte b of MADD. -/
def RegImm47.byte : RegImm47 → BitVec 8
  | .reg r => r.byte
  | .imm _ => 0
/-- The I bit of MADD. -/
def RegImm47.bit : RegImm47 → BitVec 1
  | .reg _ => 0
  | .imm _ => 1
/-- Bits 63:41 of MADD: immediate bits 22:0 (R41). -/
def RegImm47.fn : RegImm47 → BitVec 23
  | .reg _ => 0
  | .imm v => v.setWidth 23
/-- Bits 95:72 of MADD: immediate bits 46:23 (R41). -/
def RegImm47.fm : RegImm47 → BitVec 24
  | .reg _ => 0
  | .imm v => v.extractLsb' 23 24
/-- Operand byte b of a memory operand (R114). -/
def MemOff.byte : MemOff → BitVec 8
  | .imm _ => 0
  | .idx r _ => r.byte
/-- The I bit of a memory operand. -/
def MemOff.bit : MemOff → BitVec 1
  | .imm _ => 1
  | .idx _ _ => 0
/-- Bits 63:41 of a memory operand: the offset, or the shift in bits 43:41. -/
def MemOff.fn : MemOff → BitVec 23
  | .imm v => v
  | .idx _ s => s.setWidth 23

/-- The governing mask of its four bits: enable above register (R173, R184). -/
def maskOf (v : Nat) : GMask := if v < 8 then none else some (BitVec.ofNat 3 v)
/-- The four bits of a governing mask. -/
def maskCode : GMask → Nat
  | none => 0
  | some q => 8 + q.toNat

/-- The guard of a word. -/
def Raw.guard (r : Raw) : Guard := ⟨r.pred, r.neg == 1⟩
/-- Operand b of a word. -/
def Raw.regImm (r : Raw) : RegImm := if r.i = 1 then .imm r.fn else .reg (.ofByte r.b)
/-- Operand b of MADD. -/
def Raw.regImm47 (r : Raw) : RegImm47 := if r.i = 1 then .imm (r.fm ++ r.fn) else .reg (.ofByte r.b)
/-- The 55-bit immediate of form ML (R41). -/
def Raw.imm55 (r : Raw) : BitVec 55 := r.fm ++ (r.c ++ r.fn)
/-- The memory operand of a word. -/
def Raw.memOp (r : Raw) : MemOp :=
  ⟨.ofByte r.a, if r.i = 1 then .imm r.fn else .idx (.ofByte r.b) (BitVec.ofNat 3 (r.f .fn 0 3))⟩
/-- The address form of VLDX and VSTX. -/
def Raw.memIdx (r : Raw) : MemIdx := ⟨.ofByte r.a, r.b.extractLsb' 0 4, BitVec.ofNat 3 (r.f .fn 0 3)⟩
/-- Operand a of FEMPTY, FFULL and FTEST. -/
def Raw.plainGF (r : Raw) : PlainGF :=
  if r.f .fn 0 1 = 0 then .g (r.a.extractLsb' 0 6) else .f (r.a.extractLsb' 0 5)
/-- A scalar operand of row 10. -/
def Raw.anyGF (_ : Raw) (b : BitVec 8) (dc : VData) : AnyGF :=
  if dc = .w then .g (.ofByte b) else .f (.ofByte b)

/-! ### Shapes -/

/-- Register classes (R48). -/
inductive Cls where
  | g | f | p | v | q | a
  deriving DecidableEq, Repr

/-- How many numbers of a class are valid (R48). -/
def Cls.count : Cls → Nat
  | .g => 48
  | .f => 32
  | .p => 8
  | .v => 16
  | .q => 8
  | .a => 8

/-- What an operand byte holds: nothing, a source, a destination, a register without modifiers, a plain g or f register (R82). -/
inductive Slot where
  | zero
  | src (k : Cls)
  | dst (k : Cls)
  | plain (k : Cls)
  | pl (k : Cls)
  deriving DecidableEq, Repr

/-- Forms (R36, R41). -/
inductive Form where
  | s | m | mp | ml | l
  deriving DecidableEq, Repr

/-- The length code of a form (R36). -/
def Form.len : Form → BitVec 2
  | .s => 0
  | .m | .mp | .ml => 1
  | .l => 2

/-- Whether an entry forbids, admits or requires the immediate (R44). -/
inductive ImmMode where
  | never | opt | req
  deriving DecidableEq, Repr

/-- A field of function bits whose codes are limited; `unused` when a bad value is an unused field that is not zero (R45), whose
lowest one bit offends, and not a reserved code, whose lowest bit offends. -/
structure Fld where
  part : FnPart
  lo : Nat
  width : Nat
  ok : Nat → Bool
  unused : Bool

/-- The shape of an opcode: form, operand slots, immediate, limited fields, ranges that must be zero (R45). -/
structure Shape where
  form : Form
  d : Slot
  a : Slot
  b : Slot
  c : Slot
  e : Slot
  imm : ImmMode
  flds : List Fld
  res : List (FnPart × Nat × Nat)

/-- Shapes of opcode row 0 (R52). -/
def shapeRow0 (r : Raw) : Nat → Option Shape
  | 1 => some ⟨.s, (.dst .g), (.src .g), (.src .g), .zero, .zero, .opt, [], [(.fn, 0, 23)]⟩
  | 2 => some ⟨.s, (.dst .g), (.src .g), (.src .g), .zero, .zero, .opt, [], [(.fn, 0, 23)]⟩
  | 3 => some ⟨.s, (.dst .g), (.src .g), (.src .g), .zero, .zero, .opt, [], [(.fn, 0, 23)]⟩
  | 4 => some ⟨.s, (.dst .g), (.src .g), (.src .g), .zero, .zero, .opt, [], [(.fn, 0, 23)]⟩
  | 5 => some ⟨.s, (.dst .g), (.src .g), (.src .g), .zero, .zero, .opt, [], [(.fn, 0, 23)]⟩
  | 6 => some ⟨.s, (.dst .g), (.src .g), (.src .g), .zero, .zero, .opt, [], [(.fn, 0, 23)]⟩
  | 7 => some ⟨.s, (.dst .g), (.src .g), (.src .g), .zero, .zero, .opt, [], [(.fn, 0, 23)]⟩
  | 8 => some ⟨.s, (.dst .g), (.src .g), (.src .g), .zero, .zero, .opt, [], [(.fn, 0, 23)]⟩
  | 9 => some ⟨.s, (.dst .g), (.src .g), (.src .g), .zero, .zero, .opt, [], [(.fn, 0, 23)]⟩
  | 10 => some ⟨.s, (.dst .g), (.src .g), (.src .g), .zero, .zero, .opt, [], [(.fn, 0, 23)]⟩
  | 11 => some ⟨.s, (.dst .g), (.src .g), (.src .g), .zero, .zero, .opt, [], [(.fn, 0, 23)]⟩
  | 12 => some ⟨.s, (.dst .g), (.src .g), (.src .g), .zero, .zero, .opt, [], [(.fn, 0, 23)]⟩
  | 13 => some ⟨.s, (.dst .g), (.src .g), (.src .g), .zero, .zero, .opt, [], [(.fn, 0, 23)]⟩
  | 14 => some ⟨.s, (.dst .g), (.src .g), (.src .g), .zero, .zero, .opt, [], [(.fn, 0, 23)]⟩
  | 15 => some ⟨.s, (.dst .g), (.src .g), (.src .g), .zero, .zero, .opt, [], [(.fn, 0, 23)]⟩
  | 16 => some ⟨.s, (.dst .g), (.src .g), (.src .g), .zero, .zero, .opt, [], [(.fn, 0, 23)]⟩
  | 17 => some ⟨.s, (.dst .g), (.src .g), (.src .g), .zero, .zero, .opt, [], [(.fn, 0, 23)]⟩
  | 18 => some ⟨.s, (.dst .g), (.src .g), (.src .g), .zero, .zero, .opt, [], [(.fn, 0, 23)]⟩
  | 19 => some ⟨.s, (.dst .g), (.src .g), (.src .g), .zero, .zero, .opt, [], [(.fn, 0, 23)]⟩
  | 20 => some ⟨.s, (.dst .g), (.src .g), (.src .g), .zero, .zero, .opt, [], [(.fn, 0, 23)]⟩
  | 21 => some ⟨.s, (.dst .g), (.src .g), (.src .g), .zero, .zero, .opt, [], [(.fn, 0, 23)]⟩
  | 22 => some ⟨.s, (.dst .g), (.src .g), (.src .g), .zero, .zero, .opt, [], [(.fn, 0, 23)]⟩
  | 23 => some ⟨.s, (.dst .g), (.src .g), .zero, .zero, .zero, .never, [], [(.fn, 0, 23)]⟩
  | 24 => some ⟨.s, (.dst .g), (.src .g), .zero, .zero, .zero, .never, [], [(.fn, 0, 23)]⟩
  | 25 => some ⟨.s, (.dst .g), (.src .g), .zero, .zero, .zero, .never, [], [(.fn, 0, 23)]⟩
  | 26 => some ⟨.s, (.dst .g), (.src .g), .zero, .zero, .zero, .never, [], [(.fn, 0, 23)]⟩
  | 27 => some ⟨.s, (.dst .g), (.src .g), .zero, .zero, .zero, .never, [], [(.fn, 0, 23)]⟩
  | 28 => some ⟨.s, (.dst .g), (.src .g), .zero, .zero, .zero, .never, [], [(.fn, 0, 23)]⟩
  | 29 => some ⟨.s, (.dst .g), (.src .g), .zero, .zero, .zero, .never, [], [(.fn, 0, 23)]⟩
  | 30 => some ⟨.s, (.dst .g), (.src .g), .zero, .zero, .zero, .never, [⟨.fn, 0, 2, (fun x => decide (x < 3)), false⟩], [(.fn, 2, 21)]⟩
  | 31 => some ⟨.s, (.dst .g), (.src .g), .zero, .zero, .zero, .never, [⟨.fn, 0, 2, (fun x => decide (x < 3)), false⟩], [(.fn, 2, 21)]⟩
  | _ => none

/-- Shapes of opcode row 1 (R52). -/
def shapeRow1 (r : Raw) : Nat → Option Shape
  | 0 => some ⟨.ml, (.dst .g), .zero, .zero, .zero, .zero, .req, [], []⟩
  | 1 => some ⟨.ml, (.dst .g), .zero, .zero, .zero, .zero, .req, [], []⟩
  | 2 => some ⟨.s, (.dst .g), (.src .g), (.src .g), .zero, .zero, .opt, [], [(.fn, 3, 20)]⟩
  | 3 => some ⟨.s, (.dst .g), (.src .g), .zero, .zero, .zero, .never, [], [(.fn, 0, 23)]⟩
  | 4 => some ⟨.s, (.dst .g), (.src .g), (.src .g), .zero, .zero, .never, [], [(.fn, 3, 20)]⟩
  | 5 => some ⟨.s, (.plain .p), (.src .g), (.src .g), .zero, .zero, .opt, [], [(.fn, 0, 23)]⟩
  | 6 => some ⟨.s, (.plain .p), (.src .g), (.src .g), .zero, .zero, .opt, [], [(.fn, 0, 23)]⟩
  | 7 => some ⟨.s, (.plain .p), (.src .g), (.src .g), .zero, .zero, .opt, [], [(.fn, 0, 23)]⟩
  | 8 => some ⟨.s, (.plain .p), (.src .g), (.src .g), .zero, .zero, .opt, [], [(.fn, 0, 23)]⟩
  | 9 => some ⟨.s, (.plain .p), (.src .g), (.src .g), .zero, .zero, .opt, [], [(.fn, 0, 23)]⟩
  | 10 => some ⟨.s, (.plain .p), (.src .g), (.src .g), .zero, .zero, .opt, [], [(.fn, 0, 23)]⟩
  | 11 => some ⟨.s, (.plain .p), (.src .g), (.src .g), .zero, .zero, .opt, [], [(.fn, 0, 23)]⟩
  | 12 => some ⟨.s, (.dst .g), (.src .g), .zero, .zero, .zero, .never, [], [(.fn, 12, 11)]⟩
  | 13 => some ⟨.s, (.dst .g), (.src .g), .zero, .zero, .zero, .never, [], [(.fn, 12, 11)]⟩
  | 14 => some ⟨.s, (.dst .g), (.src .g), .zero, .zero, .zero, .never, [], [(.fn, 12, 11)]⟩
  | 15 => some ⟨.s, (.dst .g), (.src .g), (.src .g), .zero, .zero, .opt, [], [(.fn, 0, 23)]⟩
  | 16 => some ⟨.s, (.dst .g), (.src .g), (.src .g), .zero, .zero, .opt, [], [(.fn, 0, 23)]⟩
  | 17 => some ⟨.s, (.dst .g), (.src .g), (.src .g), .zero, .zero, .opt, [], [(.fn, 0, 23)]⟩
  | 18 => some ⟨.s, .zero, (.src .g), (.src .g), .zero, .zero, .opt, [], [(.fn, 0, 23)]⟩
  | 19 => some ⟨.mp, (.dst .g), (.src .g), (.src .g), (.src .g), .zero, .opt, [], [(.fn, 0, 23), (.fm, 0, 24)]⟩
  | _ => none

/-- Shapes of opcode row 2 (R52). -/
def shapeRow2 (r : Raw) : Nat → Option Shape
  | 0 => some ⟨.s, .zero, .zero, .zero, .zero, .zero, .req, [], [(.fn, 0, 23)]⟩
  | 1 => some ⟨.ml, .zero, .zero, .zero, .zero, .zero, .req, [], []⟩
  | 2 => some ⟨.s, .zero, (.src .g), .zero, .zero, .zero, .never, [], [(.fn, 0, 23)]⟩
  | 3 => some ⟨.s, (.dst .g), .zero, .zero, .zero, .zero, .req, [], [(.fn, 0, 23)]⟩
  | 4 => some ⟨.s, (.dst .g), (.src .g), .zero, .zero, .zero, .never, [], [(.fn, 0, 23)]⟩
  | 5 => some ⟨.s, .zero, (.src .g), .zero, .zero, .zero, .never, [], [(.fn, 0, 23)]⟩
  | 6 => some ⟨.s, (.dst .g), .zero, .zero, .zero, .zero, .req, [], [(.fn, 0, 23)]⟩
  | 7 => some ⟨.s, .zero, (.src .f), .zero, .zero, .zero, .never, [⟨.fn, 0, 6, (fun x => decide (x ≤ 53)), false⟩], []⟩
  | 8 => some ⟨.s, (.plain .p), (.plain .p), (.plain .p), .zero, .zero, .never, [], [(.fn, 0, 23)]⟩
  | 9 => some ⟨.s, (.plain .p), (.plain .p), (.plain .p), .zero, .zero, .never, [], [(.fn, 0, 23)]⟩
  | 10 => some ⟨.s, (.plain .p), (.plain .p), (.plain .p), .zero, .zero, .never, [], [(.fn, 0, 23)]⟩
  | 11 => some ⟨.s, (.plain .p), (.plain .p), .zero, .zero, .zero, .never, [], [(.fn, 0, 23)]⟩
  | 12 => some ⟨.s, (.plain .p), (.plain .p), .zero, .zero, .zero, .never, [], [(.fn, 0, 23)]⟩
  | 13 => some ⟨.s, .zero, .zero, .zero, .zero, .zero, .never, [], [(.fn, 0, 23)]⟩
  | _ => none

/-- Shapes of opcode row 3 (R52). -/
def shapeRow3 (r : Raw) : Nat → Option Shape
  | 0 => some ⟨.s, .zero, (.src .g), (.src .g), .zero, .zero, .opt, [], [(.fn, 0, 23)]⟩
  | 1 => some ⟨.s, (.dst .g), (.src .g), .zero, .zero, .zero, .never, [], [(.fn, 0, 23)]⟩
  | 2 => some ⟨.s, .zero, (.src .g), .zero, .zero, .zero, .never, [], [(.fn, 0, 23)]⟩
  | 3 => some ⟨.s, (.dst .g), (.src .g), .zero, .zero, .zero, .never, [], [(.fn, 0, 23)]⟩
  | 4 => some ⟨.s, .zero, .zero, .zero, .zero, .zero, .never, [⟨.fn, 0, 2, (fun x => decide (x < 3)), false⟩], [(.fn, 2, 21)]⟩
  | 5 => some (if r.f .fn 0 1 = 0 then
      ⟨.s, .zero, (.pl .g), .zero, .zero, .zero, .never, [], [(.fn, 1, 22)]⟩
    else ⟨.s, .zero, (.pl .f), .zero, .zero, .zero, .never, [], [(.fn, 1, 22)]⟩)
  | 6 => some (if r.f .fn 0 1 = 0 then
      ⟨.s, .zero, (.pl .g), .zero, .zero, .zero, .never, [], [(.fn, 1, 22)]⟩
    else ⟨.s, .zero, (.pl .f), .zero, .zero, .zero, .never, [], [(.fn, 1, 22)]⟩)
  | 7 => some (if r.f .fn 0 1 = 0 then
      ⟨.s, (.plain .p), (.pl .g), .zero, .zero, .zero, .never, [], [(.fn, 1, 22)]⟩
    else ⟨.s, (.plain .p), (.pl .f), .zero, .zero, .zero, .never, [], [(.fn, 1, 22)]⟩)
  | 8 => some ⟨.s, .zero, (.src .g), .zero, .zero, .zero, .never, [], [(.fn, 0, 23)]⟩
  | 9 => some ⟨.s, (.dst .g), .zero, .zero, .zero, .zero, .never, [], [(.fn, 3, 20)]⟩
  | 10 => some ⟨.s, (.dst .g), .zero, .zero, .zero, .zero, .never, [], [(.fn, 0, 23)]⟩
  | _ => none

/-- Shapes of opcode row 4 (R52). -/
def shapeRow4 (r : Raw) : Nat → Option Shape
  | 0 => some ⟨.m, (.dst .g), (.src .g), (.src .g), .zero, .zero, .opt, [⟨.fm, 0, 3, (fun x => decide (x < 7)), false⟩, ⟨.fm, 7, 2, (fun x => decide (x ≤ 1)), false⟩], [(.fn, 3, 20), (.fm, 9, 15)]⟩
  | 1 => some ⟨.m, (.src .g), (.src .g), (.src .g), .zero, .zero, .opt, [⟨.fm, 0, 3, (fun x => decide (x < 4)), false⟩, ⟨.fm, 7, 2, (fun x => decide (x = 0 ∨ x = 2)), false⟩], [(.fn, 3, 20), (.fm, 9, 15)]⟩
  | 2 => some ⟨.m, (.dst .f), (.src .g), (.src .g), .zero, .zero, .opt, [⟨.fm, 0, 3, (fun x => decide (x < 4)), false⟩], [(.fn, 3, 20), (.fm, 5, 19)]⟩
  | 3 => some ⟨.m, (.src .f), (.src .g), (.src .g), .zero, .zero, .opt, [⟨.fm, 0, 3, (fun x => decide (x < 4)), false⟩], [(.fn, 3, 20), (.fm, 5, 19)]⟩
  | 4 => some ⟨.m, (.dst .f), (.src .g), (.src .g), (.src .g), .zero, .opt, [⟨.fm, 0, 3, (fun x => decide (x < 4)), false⟩], [(.fn, 3, 20), (.fm, 5, 19)]⟩
  | 5 => some ⟨.m, (.src .f), (.src .g), (.src .g), (.src .g), .zero, .opt, [⟨.fm, 0, 3, (fun x => decide (x < 4)), false⟩], [(.fn, 3, 20), (.fm, 5, 19)]⟩
  | 6 => some ⟨.m, (.dst .g), (.src .g), (.src .g), (.dst .g), .zero, .opt, [], [(.fn, 3, 20), (.fm, 0, 3), (.fm, 5, 19)]⟩
  | 7 => some ⟨.m, (.src .g), (.src .g), (.src .g), (.src .g), .zero, .opt, [], [(.fn, 3, 20), (.fm, 0, 3), (.fm, 5, 19)]⟩
  | 8 => some ⟨.m, .zero, (.src .g), (.src .g), .zero, .zero, .opt, [], [(.fn, 3, 20), (.fm, 0, 3), (.fm, 5, 19)]⟩
  | 9 => some ⟨.m, .zero, (.src .g), (.src .g), (.src .g), .zero, .opt, [], [(.fn, 3, 20), (.fm, 0, 24)]⟩
  | 10 => some ⟨.m, .zero, (.src .g), (.src .g), (.src .g), .zero, .opt, [], [(.fn, 3, 20), (.fm, 0, 24)]⟩
  | _ => none

/-- Shapes of opcode row 5 (R52). -/
def shapeRow5 (r : Raw) : Nat → Option Shape
  | 0 => some ⟨.m, (.dst .g), (.src .g), (.src .g), (.src .g), .zero, .opt, [⟨.fm, 0, 3, (fun x => decide (x = 2 ∨ x = 3 ∨ x = 6)), false⟩, ⟨.fm, 9, 4, (fun x => decide (x < 9)), false⟩], [(.fn, 3, 20), (.fm, 3, 2), (.fm, 13, 11)]⟩
  | 1 => some ⟨.m, (.dst .g), (.src .g), (.src .g), (.src .g), .zero, .opt, [⟨.fm, 0, 3, (fun x => decide (x = 2 ∨ x = 3 ∨ x = 6)), false⟩], [(.fn, 3, 20), (.fm, 3, 2), (.fm, 9, 15)]⟩
  | 2 => some ⟨.m, (.dst .f), (.src .g), (.src .g), (.src .f), .zero, .opt, [⟨.fm, 0, 3, (fun x => decide (x < 2)), false⟩, ⟨.fm, 9, 4, (fun x => decide (x < 3)), false⟩], [(.fn, 3, 20), (.fm, 3, 2), (.fm, 13, 11)]⟩
  | 3 => some ⟨.s, .zero, .zero, .zero, .zero, .zero, .never, [⟨.fn, 2, 2, (fun x => decide (x ≠ 0)), false⟩], [(.fn, 4, 19)]⟩
  | 4 => some ⟨.s, .zero, .zero, .zero, .zero, .zero, .never, [], [(.fn, 0, 23)]⟩
  | 5 => some ⟨.s, (.dst .g), .zero, .zero, .zero, .zero, .never, [], [(.fn, 0, 23)]⟩
  | _ => none

/-- Shapes of opcode row 6 (R52). -/
def shapeRow6 (r : Raw) : Nat → Option Shape
  | 0 => some ⟨.s, (.dst .f), (.src .f), (.src .f), .zero, .zero, .never, [], [(.fn, 2, 21)]⟩
  | 1 => some ⟨.s, (.dst .f), (.src .f), (.src .f), .zero, .zero, .never, [], [(.fn, 2, 21)]⟩
  | 2 => some ⟨.s, (.dst .f), (.src .f), (.src .f), .zero, .zero, .never, [], [(.fn, 2, 21)]⟩
  | 3 => some ⟨.s, (.dst .f), (.src .f), (.src .f), .zero, .zero, .never, [], [(.fn, 2, 21)]⟩
  | 4 => some ⟨.s, (.dst .f), (.src .f), .zero, .zero, .zero, .never, [], [(.fn, 2, 21)]⟩
  | 5 => some ⟨.m, (.dst .f), (.src .f), (.src .f), (.src .f), .zero, .never, [], [(.fn, 2, 21), (.fm, 0, 24)]⟩
  | 6 => some ⟨.m, (.dst .f), (.src .f), (.src .f), (.src .f), .zero, .never, [], [(.fn, 2, 21), (.fm, 0, 24)]⟩
  | 7 => some ⟨.m, (.dst .f), (.src .f), (.src .f), (.src .f), .zero, .never, [], [(.fn, 2, 21), (.fm, 0, 24)]⟩
  | 8 => some ⟨.m, (.dst .f), (.src .f), (.src .f), (.src .f), .zero, .never, [], [(.fn, 2, 21), (.fm, 0, 24)]⟩
  | 9 => some ⟨.s, (.dst .f), (.src .f), (.src .f), .zero, .zero, .never, [], [(.fn, 2, 21)]⟩
  | 10 => some ⟨.s, (.dst .f), (.src .f), (.src .f), .zero, .zero, .never, [], [(.fn, 2, 21)]⟩
  | 11 => some ⟨.s, (.dst .f), (.src .f), .zero, .zero, .zero, .never, [], [(.fn, 2, 21)]⟩
  | 12 => some ⟨.s, (.dst .f), (.src .f), .zero, .zero, .zero, .never, [], [(.fn, 2, 21)]⟩
  | 13 => some ⟨.s, (.dst .f), (.src .f), (.src .f), .zero, .zero, .never, [], [(.fn, 2, 21)]⟩
  | 14 => some ⟨.s, (.plain .p), (.src .f), (.src .f), .zero, .zero, .never, [], [(.fn, 2, 21)]⟩
  | 15 => some ⟨.s, (.plain .p), (.src .f), (.src .f), .zero, .zero, .never, [], [(.fn, 2, 21)]⟩
  | 16 => some ⟨.s, (.plain .p), (.src .f), (.src .f), .zero, .zero, .never, [], [(.fn, 2, 21)]⟩
  | 17 => some ⟨.s, (.plain .p), (.src .f), (.src .f), .zero, .zero, .never, [], [(.fn, 2, 21)]⟩
  | 18 => some ⟨.s, (.dst .g), (.src .f), .zero, .zero, .zero, .never, [], [(.fn, 2, 21)]⟩
  | 19 => some ⟨.s, (.dst .f), (.src .f), .zero, .zero, .zero, .never, [⟨.fn, 5, 3, (fun x => decide (x < 5)), false⟩], [(.fn, 2, 3), (.fn, 8, 15)]⟩
  | _ => none

/-- Shapes of opcode row 7 (R52). -/
def shapeRow7 (r : Raw) : Nat → Option Shape
  | 0 => some ⟨.s, (.dst .f), (.src .f), .zero, .zero, .zero, .never, [], [(.fn, 4, 19)]⟩
  | 1 => some ⟨.s, (.dst .g), (.src .f), .zero, .zero, .zero, .never, [⟨.fn, 2, 3, (fun x => decide (x = 2 ∨ x = 3 ∨ x = 6 ∨ x = 7)), false⟩, ⟨.fn, 5, 3, (fun x => decide (x < 5)), false⟩], [(.fn, 8, 15)]⟩
  | 2 => some ⟨.s, (.dst .f), (.src .g), .zero, .zero, .zero, .never, [⟨.fn, 2, 3, (fun x => decide (x = 2 ∨ x = 3 ∨ x = 6 ∨ x = 7)), false⟩], [(.fn, 5, 18)]⟩
  | 3 => some ⟨.s, (.dst .f), (.src .f), .zero, .zero, .zero, .never, [], [(.fn, 0, 23)]⟩
  | 4 => some ⟨.s, (.dst .g), (.src .f), .zero, .zero, .zero, .never, [], [(.fn, 0, 23)]⟩
  | 5 => some ⟨.s, (.dst .f), (.src .g), .zero, .zero, .zero, .never, [], [(.fn, 2, 21)]⟩
  | 6 => some ⟨.s, (.dst .f), (.src .f), .zero, .zero, .zero, .never, [⟨.fn, 0, 2, (fun x => decide (x = 0)), false⟩], [(.fn, 2, 21)]⟩
  | 7 => some ⟨.s, (.dst .g), (.src .f), .zero, .zero, .zero, .never, [], [(.fn, 0, 23)]⟩
  | 8 => some ⟨.s, (.dst .f), (.src .g), .zero, .zero, .zero, .never, [], [(.fn, 0, 23)]⟩
  | _ => none

/-- Shapes of opcode row 8 (R52). The half of VCVT is a field of every conversion code, also of codes 6 to 9, which take no half (R173, R177;
DESIGN CHOICE, log 83). -/
def shapeRow8 (r : Raw) : Nat → Option Shape
  | 0 => some ⟨.s, (.plain .v), (.plain .v), (.plain .v), .zero, .zero, .never, [⟨.fn, 3, 4, (fun x => decide (x = 0 ∨ 8 ≤ x)), true⟩], [(.fn, 2, 1), (.fn, 7, 16)]⟩
  | 1 => some ⟨.s, (.plain .v), (.plain .v), (.plain .v), .zero, .zero, .never, [⟨.fn, 3, 4, (fun x => decide (x = 0 ∨ 8 ≤ x)), true⟩], [(.fn, 2, 1), (.fn, 7, 16)]⟩
  | 2 => some ⟨.s, (.plain .v), (.plain .v), (.plain .v), .zero, .zero, .never, [⟨.fn, 3, 4, (fun x => decide (x = 0 ∨ 8 ≤ x)), true⟩], [(.fn, 2, 1), (.fn, 7, 16)]⟩
  | 3 => some ⟨.m, (.plain .v), (.plain .v), (.plain .v), (.plain .v), .zero, .never, [⟨.fn, 3, 4, (fun x => decide (x = 0 ∨ 8 ≤ x)), true⟩], [(.fn, 2, 1), (.fn, 7, 16), (.fm, 0, 24)]⟩
  | 4 => some ⟨.m, (.plain .v), (.plain .v), (.plain .v), (.plain .v), .zero, .never, [⟨.fn, 3, 4, (fun x => decide (x = 0 ∨ 8 ≤ x)), true⟩], [(.fn, 2, 1), (.fn, 7, 16), (.fm, 0, 24)]⟩
  | 5 => some ⟨.s, (.plain .v), (.plain .v), (.plain .v), .zero, .zero, .never, [⟨.fn, 3, 4, (fun x => decide (x = 0 ∨ 8 ≤ x)), true⟩], [(.fn, 2, 1), (.fn, 7, 16)]⟩
  | 6 => some ⟨.s, (.plain .v), (.plain .v), (.plain .v), .zero, .zero, .never, [⟨.fn, 3, 4, (fun x => decide (x = 0 ∨ 8 ≤ x)), true⟩], [(.fn, 2, 1), (.fn, 7, 16)]⟩
  | 7 => some ⟨.s, (.plain .v), (.plain .v), .zero, .zero, .zero, .never, [⟨.fn, 3, 4, (fun x => decide (x = 0 ∨ 8 ≤ x)), true⟩], [(.fn, 2, 1), (.fn, 7, 16)]⟩
  | 8 => some ⟨.s, (.plain .v), (.plain .v), .zero, .zero, .zero, .never, [⟨.fn, 3, 4, (fun x => decide (x = 0 ∨ 8 ≤ x)), true⟩], [(.fn, 2, 1), (.fn, 7, 16)]⟩
  | 9 => some ⟨.s, (.plain .v), (.plain .v), (.plain .v), .zero, .zero, .never, [⟨.fn, 3, 4, (fun x => decide (x = 0 ∨ 8 ≤ x)), true⟩], [(.fn, 2, 1), (.fn, 7, 16)]⟩
  | 10 => some ⟨.s, (.plain .v), (.plain .v), .zero, .zero, .zero, .never, [⟨.fn, 3, 4, (fun x => decide (x = 0 ∨ 8 ≤ x)), true⟩], [(.fn, 2, 1), (.fn, 7, 16)]⟩
  | 11 => some ⟨.s, (.plain .v), (.plain .v), .zero, .zero, .zero, .never, [⟨.fn, 0, 2, (fun x => decide (x = 0)), false⟩, ⟨.fn, 3, 4, (fun x => decide (x = 0 ∨ 8 ≤ x)), true⟩], [(.fn, 2, 1), (.fn, 7, 16)]⟩
  | 12 => some ⟨.s, (.plain .q), (.plain .v), (.plain .v), .zero, .zero, .never, [⟨.fn, 3, 4, (fun x => decide (x = 0 ∨ 8 ≤ x)), true⟩, ⟨.fn, 7, 3, (fun x => decide (x < 5)), false⟩], [(.fn, 2, 1), (.fn, 10, 2), (.fn, 13, 10)]⟩
  | 13 => some ⟨.s, (.plain .v), (.plain .v), .zero, .zero, .zero, .never, [⟨.fn, 3, 4, (fun x => decide (x = 0 ∨ 8 ≤ x)), true⟩, ⟨.fn, 7, 5, (fun x => decide (x < 10)), false⟩], [(.fn, 0, 3), (.fn, 13, 10)]⟩
  | 14 => some ⟨.s, (.dst .f), (.plain .v), .zero, .zero, .zero, .never, [⟨.fn, 3, 4, (fun x => decide (x = 0 ∨ 8 ≤ x)), true⟩, ⟨.fn, 7, 3, (fun x => decide (x < 3)), false⟩], [(.fn, 2, 1), (.fn, 10, 13)]⟩
  | 15 => some ⟨.s, (.plain .v), (.plain .v), .zero, .zero, .zero, .never, [⟨.fn, 3, 4, (fun x => decide (x = 0 ∨ 8 ≤ x)), true⟩], [(.fn, 0, 3), (.fn, 7, 16)]⟩
  | 16 => some ⟨.s, (.plain .v), (.plain .v), .zero, .zero, .zero, .never, [⟨.fn, 3, 4, (fun x => decide (x = 0 ∨ 8 ≤ x)), true⟩], [(.fn, 2, 1), (.fn, 7, 16)]⟩
  | _ => none

/-- Shapes of opcode row 9 (R52). -/
def shapeRow9 (r : Raw) : Nat → Option Shape
  | 0 => some ⟨.s, (.plain .v), (.plain .v), (.plain .v), .zero, .zero, .never, [⟨.fn, 0, 2, (fun x => decide (x < 3)), false⟩, ⟨.fn, 3, 4, (fun x => decide (x = 0 ∨ 8 ≤ x)), true⟩], [(.fn, 2, 1), (.fn, 7, 16)]⟩
  | 1 => some ⟨.s, (.plain .v), (.plain .v), (.plain .v), .zero, .zero, .never, [⟨.fn, 0, 2, (fun x => decide (x < 3)), false⟩, ⟨.fn, 3, 4, (fun x => decide (x = 0 ∨ 8 ≤ x)), true⟩], [(.fn, 2, 1), (.fn, 7, 16)]⟩
  | 2 => some ⟨.s, (.plain .v), (.plain .v), (.plain .v), .zero, .zero, .never, [⟨.fn, 0, 2, (fun x => decide (x < 3)), false⟩, ⟨.fn, 3, 4, (fun x => decide (x = 0 ∨ 8 ≤ x)), true⟩], [(.fn, 2, 1), (.fn, 7, 16)]⟩
  | 3 => some ⟨.s, (.plain .v), (.plain .v), (.plain .v), .zero, .zero, .never, [⟨.fn, 3, 4, (fun x => decide (x = 0 ∨ 8 ≤ x)), true⟩], [(.fn, 0, 3), (.fn, 7, 16)]⟩
  | 4 => some ⟨.s, (.plain .v), (.plain .v), (.plain .v), .zero, .zero, .never, [⟨.fn, 3, 4, (fun x => decide (x = 0 ∨ 8 ≤ x)), true⟩], [(.fn, 0, 3), (.fn, 7, 16)]⟩
  | 5 => some ⟨.s, (.plain .v), (.plain .v), (.plain .v), .zero, .zero, .never, [⟨.fn, 3, 4, (fun x => decide (x = 0 ∨ 8 ≤ x)), true⟩], [(.fn, 0, 3), (.fn, 7, 16)]⟩
  | 6 => some ⟨.s, (.plain .v), (.plain .v), (.plain .v), .zero, .zero, .never, [⟨.fn, 0, 2, (fun x => decide (x < 3)), false⟩, ⟨.fn, 3, 4, (fun x => decide (x = 0 ∨ 8 ≤ x)), true⟩], [(.fn, 2, 1), (.fn, 7, 16)]⟩
  | 7 => some ⟨.s, (.plain .v), (.plain .v), (.plain .v), .zero, .zero, .never, [⟨.fn, 0, 2, (fun x => decide (x < 3)), false⟩, ⟨.fn, 3, 4, (fun x => decide (x = 0 ∨ 8 ≤ x)), true⟩], [(.fn, 2, 1), (.fn, 7, 16)]⟩
  | 8 => some ⟨.s, (.plain .v), (.plain .v), (.plain .v), .zero, .zero, .never, [⟨.fn, 0, 2, (fun x => decide (x < 3)), false⟩, ⟨.fn, 3, 4, (fun x => decide (x = 0 ∨ 8 ≤ x)), true⟩], [(.fn, 2, 1), (.fn, 7, 16)]⟩
  | 9 => some ⟨.s, (.plain .v), (.plain .v), (.plain .v), .zero, .zero, .never, [⟨.fn, 0, 2, (fun x => decide (x < 3)), false⟩, ⟨.fn, 3, 4, (fun x => decide (x = 0 ∨ 8 ≤ x)), true⟩], [(.fn, 7, 16)]⟩
  | 10 => some ⟨.s, (.plain .v), (.plain .v), (.plain .v), .zero, .zero, .never, [⟨.fn, 0, 2, (fun x => decide (x < 3)), false⟩, ⟨.fn, 3, 4, (fun x => decide (x = 0 ∨ 8 ≤ x)), true⟩], [(.fn, 7, 16)]⟩
  | 11 => some ⟨.s, (.plain .q), (.plain .v), (.plain .v), .zero, .zero, .never, [⟨.fn, 0, 2, (fun x => decide (x = 2)), false⟩, ⟨.fn, 3, 4, (fun x => decide (x = 0 ∨ 8 ≤ x)), true⟩, ⟨.fn, 7, 3, (fun x => decide (x < 4)), false⟩], [(.fn, 10, 13)]⟩
  | 12 => some ⟨.m, (.plain .v), (.plain .v), (.plain .v), (.plain .q), .zero, .never, [], [(.fn, 0, 23), (.fm, 0, 24)]⟩
  | 13 => some ⟨.s, (.plain .q), (.plain .q), (.plain .q), .zero, .zero, .never, [], [(.fn, 0, 23)]⟩
  | 14 => some ⟨.s, (.plain .q), (.plain .q), (.plain .q), .zero, .zero, .never, [], [(.fn, 0, 23)]⟩
  | 15 => some ⟨.s, (.plain .q), (.plain .q), (.plain .q), .zero, .zero, .never, [], [(.fn, 0, 23)]⟩
  | 16 => some ⟨.s, (.plain .q), (.plain .q), .zero, .zero, .zero, .never, [], [(.fn, 0, 23)]⟩
  | 17 => some ⟨.s, (.dst .g), (.plain .q), .zero, .zero, .zero, .never, [], [(.fn, 0, 23)]⟩
  | 18 => some (if r.f .fn 0 1 = 0 then
      ⟨.s, (.plain .q), (.src .g), .zero, .zero, .zero, .never, [], [(.fn, 1, 22)]⟩
    else ⟨.s, (.dst .g), (.plain .q), .zero, .zero, .zero, .never, [], [(.fn, 1, 22)]⟩)
  | _ => none

/-- Shapes of opcode row 10 (R52). -/
def shapeRow10 (r : Raw) : Nat → Option Shape
  | 0 => some ⟨.m, (.plain .v), (.src .g), (.src .g), .zero, .zero, .opt, [⟨.fm, 0, 3, (fun x => decide (x < 5)), false⟩, ⟨.fm, 9, 4, (fun x => decide (x = 0 ∨ 8 ≤ x)), true⟩], [(.fn, 3, 20), (.fm, 5, 4), (.fm, 13, 11)]⟩
  | 1 => some ⟨.m, (.plain .v), (.src .g), (.src .g), .zero, .zero, .opt, [⟨.fm, 0, 3, (fun x => decide (x < 5)), false⟩, ⟨.fm, 9, 4, (fun x => decide (x = 0 ∨ 8 ≤ x)), true⟩], [(.fn, 3, 20), (.fm, 5, 4), (.fm, 13, 11)]⟩
  | 2 => some ⟨.m, (.plain .v), (.src .g), (.plain .v), .zero, .zero, .never, [⟨.fm, 0, 3, (fun x => decide (x < 5)), false⟩, ⟨.fm, 9, 4, (fun x => decide (x = 0 ∨ 8 ≤ x)), true⟩], [(.fn, 3, 20), (.fm, 5, 4), (.fm, 13, 11)]⟩
  | 3 => some ⟨.m, (.plain .v), (.src .g), (.plain .v), .zero, .zero, .never, [⟨.fm, 0, 3, (fun x => decide (x < 5)), false⟩, ⟨.fm, 9, 4, (fun x => decide (x = 0 ∨ 8 ≤ x)), true⟩], [(.fn, 3, 20), (.fm, 5, 4), (.fm, 13, 11)]⟩
  | 4 => some ⟨.m, (.plain .v), (.src .g), (.src .g), (.src .g), .zero, .opt, [⟨.fm, 0, 3, (fun x => decide (x < 4)), false⟩, ⟨.fm, 9, 4, (fun x => decide (x = 0 ∨ 8 ≤ x)), true⟩], [(.fn, 3, 20), (.fm, 5, 4), (.fm, 13, 11)]⟩
  | 5 => some ⟨.m, (.plain .v), (.src .g), (.src .g), (.src .g), .zero, .opt, [⟨.fm, 0, 3, (fun x => decide (x < 4)), false⟩, ⟨.fm, 9, 4, (fun x => decide (x = 0 ∨ 8 ≤ x)), true⟩], [(.fn, 3, 20), (.fm, 5, 4), (.fm, 13, 11)]⟩
  | 6 => some ⟨.m, (.plain .v), (.plain .v), (.plain .v), (.plain .v), .zero, .never, [⟨.fm, 9, 4, (fun x => decide (x = 0 ∨ 8 ≤ x)), true⟩], [(.fn, 0, 23), (.fm, 0, 9), (.fm, 13, 11)]⟩
  | 7 => some (if r.f .fn 0 3 = 4 then
      ⟨.s, (.plain .v), (.src .g), .zero, .zero, .zero, .never, [⟨.fn, 0, 3, (fun x => decide (x < 5)), false⟩, ⟨.fn, 3, 4, (fun x => decide (x = 0 ∨ 8 ≤ x)), true⟩], [(.fn, 7, 16)]⟩
    else ⟨.s, (.plain .v), (.src .f), .zero, .zero, .zero, .never, [⟨.fn, 0, 3, (fun x => decide (x < 5)), false⟩, ⟨.fn, 3, 4, (fun x => decide (x = 0 ∨ 8 ≤ x)), true⟩], [(.fn, 7, 16)]⟩)
  | 8 => some (if r.f .fn 0 3 = 4 then
      ⟨.s, (.dst .g), (.plain .v), (.src .g), .zero, .zero, .never, [⟨.fn, 0, 3, (fun x => decide (x < 5)), false⟩], [(.fn, 3, 20)]⟩
    else ⟨.s, (.dst .f), (.plain .v), (.src .g), .zero, .zero, .never, [⟨.fn, 0, 3, (fun x => decide (x < 5)), false⟩], [(.fn, 3, 20)]⟩)
  | 9 => some (if r.f .fn 0 3 = 4 then
      ⟨.s, (.plain .v), (.src .g), (.src .g), .zero, .zero, .never, [⟨.fn, 0, 3, (fun x => decide (x < 5)), false⟩], [(.fn, 3, 20)]⟩
    else ⟨.s, (.plain .v), (.src .f), (.src .g), .zero, .zero, .never, [⟨.fn, 0, 3, (fun x => decide (x < 5)), false⟩], [(.fn, 3, 20)]⟩)
  | 10 => some ⟨.s, (.plain .v), (.src .g), (.src .g), .zero, .zero, .never, [⟨.fn, 3, 4, (fun x => decide (x = 0 ∨ 8 ≤ x)), true⟩], [(.fn, 0, 3), (.fn, 7, 16)]⟩
  | 11 => some ⟨.s, (.plain .v), (.plain .v), .zero, .zero, .zero, .never, [⟨.fn, 3, 4, (fun x => decide (x = 0 ∨ 8 ≤ x)), true⟩], [(.fn, 0, 3), (.fn, 7, 16)]⟩
  | _ => none

/-- Shapes of opcode row 11 (R52). -/
def shapeRow11 (r : Raw) : Nat → Option Shape
  | 0 => some ⟨.l, (.plain .a), (.src .g), (.src .g), (.src .g), (.src .g), .never, [⟨.fn, 0, 2, (fun x => decide (2 ≤ x)), false⟩], [(.fn, 14, 9), (.fm, 0, 24), (.fl, 0, 24)]⟩
  | 1 => some ⟨.l, (.plain .a), (.src .g), (.src .g), (.src .g), (.src .g), .never, [⟨.fn, 0, 2, (fun x => decide (x < 2)), false⟩], [(.fn, 14, 9), (.fm, 0, 24), (.fl, 0, 24)]⟩
  | 2 => some ⟨.s, (.plain .a), .zero, .zero, .zero, .zero, .never, [], [(.fn, 0, 23)]⟩
  | 3 => some ⟨.m, (.plain .a), (.src .g), (.src .g), (.src .g), .zero, .never, [⟨.fm, 0, 3, (fun x => decide (x = 0 ∨ x = 2 ∨ x = 3 ∨ x = 4 ∨ x = 5)), false⟩], [(.fn, 0, 23), (.fm, 4, 20)]⟩
  | 4 => some ⟨.m, (.plain .a), (.src .g), (.src .g), (.src .g), .zero, .never, [⟨.fm, 0, 3, (fun x => decide (x = 0 ∨ x = 2 ∨ x = 3 ∨ x = 4 ∨ x = 5)), false⟩], [(.fn, 0, 23), (.fm, 4, 20)]⟩
  | 5 => some ⟨.s, (.dst .g), .zero, .zero, .zero, .zero, .never, [], [(.fn, 1, 22)]⟩
  | 6 => some ⟨.s, .zero, (.src .g), .zero, .zero, .zero, .never, [], [(.fn, 0, 23)]⟩
  | 7 => some ⟨.s, (.dst .g), .zero, .zero, .zero, .zero, .never, [], [(.fn, 0, 23)]⟩
  | 8 => some ⟨.s, (.plain .v), (.plain .a), (.src .g), .zero, .zero, .never, [], [(.fn, 2, 21)]⟩
  | 9 => some ⟨.s, (.plain .a), (.plain .v), (.src .g), .zero, .zero, .never, [], [(.fn, 2, 21)]⟩
  | 10 => some ⟨.s, (.plain .a), (.src .f), (.src .g), .zero, .zero, .opt, [], [(.fn, 0, 23)]⟩
  | _ => none

/-- Shapes of opcode row 12 (R52). -/
def shapeRow12 (r : Raw) : Nat → Option Shape
  | 0 => some ⟨.l, (.plain .a), (.plain .a), (.src .g), (.src .g), (.src .g), .never, [⟨.fn, 0, 2, (fun x => decide (2 ≤ x)), false⟩], [(.fn, 7, 16), (.fm, 0, 24), (.fl, 0, 24)]⟩
  | 1 => some ⟨.m, (.plain .a), .zero, (.src .g), .zero, .zero, .opt, [], [(.fn, 0, 23), (.fm, 1, 23)]⟩
  | 2 => some ⟨.s, (.plain .a), (.plain .a), (.src .g), .zero, .zero, .opt, [], [(.fn, 0, 23)]⟩
  | 3 => some ⟨.m, (.plain .a), (.src .g), (.src .g), (.src .g), .zero, .opt, [], [(.fn, 0, 23), (.fm, 1, 23)]⟩
  | 4 => some ⟨.m, (.plain .a), (.src .g), (.src .g), (.src .g), .zero, .opt, [], [(.fn, 0, 23), (.fm, 1, 23)]⟩
  | 5 => some ⟨.s, (.plain .a), .zero, (.src .g), .zero, .zero, .opt, [], [(.fn, 0, 23)]⟩
  | _ => none

/-- Shapes of opcode row 13 (R52). -/
def shapeRow13 (r : Raw) : Nat → Option Shape
  | 0 => some ⟨.l, .zero, (.src .g), (.src .g), (.src .g), (.src .g), .never, [], [(.fn, 0, 23), (.fm, 0, 24), (.fl, 0, 24)]⟩
  | 1 => some ⟨.l, (.dst .g), (.src .g), (.src .g), (.src .g), (.src .g), .never, [], [(.fn, 0, 23), (.fm, 0, 24), (.fl, 0, 24)]⟩
  | 2 => some ⟨.s, (.dst .g), (.src .g), .zero, .zero, .zero, .never, [], [(.fn, 0, 23)]⟩
  | 3 => some ⟨.s, (.dst .g), (.src .g), .zero, .zero, .zero, .never, [], [(.fn, 0, 23)]⟩
  | 4 => some ⟨.s, .zero, .zero, .zero, .zero, .zero, .never, [], [(.fn, 0, 23)]⟩
  | _ => none

/-- Shapes of opcode row 14 (R52). -/
def shapeRow14 (r : Raw) : Nat → Option Shape
  | 0 => some ⟨.m, .zero, (.src .g), (.src .g), (.src .g), .zero, .never, [], [(.fn, 0, 23), (.fm, 0, 24)]⟩
  | 1 => some ⟨.s, (.dst .g), (.src .g), (.src .g), .zero, .zero, .never, [], [(.fn, 1, 22)]⟩
  | 2 => some ⟨.s, (.dst .g), (.src .g), (.src .g), .zero, .zero, .never, [], [(.fn, 0, 23)]⟩
  | 3 => some ⟨.s, (.dst .g), (.src .g), .zero, .zero, .zero, .never, [], [(.fn, 1, 22)]⟩
  | 4 => some ⟨.s, (.dst .g), (.src .g), .zero, .zero, .zero, .never, [], [(.fn, 0, 23)]⟩
  | 5 => some ⟨.s, (.dst .g), (.src .g), (.src .g), .zero, .zero, .never, [], [(.fn, 0, 23)]⟩
  | 6 => some ⟨.s, .zero, (.src .g), .zero, .zero, .zero, .never, [], [(.fn, 0, 23)]⟩
  | 7 => some ⟨.s, (.dst .g), (.src .g), .zero, .zero, .zero, .never, [], [(.fn, 1, 22)]⟩
  | 8 => some ⟨.s, (.dst .g), (.src .g), .zero, .zero, .zero, .never, [], [(.fn, 0, 23)]⟩
  | _ => none

/-- Shapes of opcode row 15 (R52). -/
def shapeRow15 (r : Raw) : Nat → Option Shape
  | 0 => some ⟨.s, .zero, .zero, .zero, .zero, .zero, .req, [], [(.fn, 0, 23)]⟩
  | 1 => some ⟨.s, .zero, .zero, .zero, .zero, .zero, .req, [], [(.fn, 0, 23)]⟩
  | 2 => some ⟨.s, .zero, .zero, .zero, .zero, .zero, .never, [], [(.fn, 0, 23)]⟩
  | 3 => some ⟨.s, (.dst .g), .zero, .zero, .zero, .zero, .never, [], [(.fn, 12, 11)]⟩
  | 4 => some ⟨.s, (.dst .g), (.src .g), .zero, .zero, .zero, .never, [], [(.fn, 12, 11)]⟩
  | 5 => some ⟨.s, (.dst .g), (.src .g), .zero, .zero, .zero, .never, [], [(.fn, 12, 11)]⟩
  | 6 => some ⟨.s, (.dst .g), (.src .g), .zero, .zero, .zero, .never, [], [(.fn, 12, 11)]⟩
  | 7 => some ⟨.m, .zero, (.src .g), (.src .g), (.src .g), .zero, .never, [⟨.fm, 0, 2, (fun x => decide (x < 3)), false⟩], [(.fn, 0, 23), (.fm, 2, 22)]⟩
  | 8 => some ⟨.s, .zero, (.src .g), (.src .g), .zero, .zero, .never, [⟨.fn, 0, 2, (fun x => decide (x < 3)), false⟩], [(.fn, 3, 20)]⟩
  | 9 => some ⟨.s, (.dst .g), (.src .g), (.src .g), .zero, .zero, .never, [⟨.fn, 0, 2, (fun x => decide (x < 3)), false⟩], [(.fn, 2, 21)]⟩
  | 10 => some ⟨.s, (.dst .g), (.src .g), .zero, .zero, .zero, .never, [], [(.fn, 12, 11)]⟩
  | 11 => some ⟨.s, .zero, (.src .g), (.src .g), .zero, .zero, .never, [], [(.fn, 12, 11)]⟩
  | 12 => some ⟨.m, .zero, (.src .g), .zero, (.src .g), .zero, .never, [], [(.fn, 0, 23), (.fm, 1, 23)]⟩
  | 13 => some ⟨.m, .zero, (.src .g), .zero, (.src .g), .zero, .never, [], [(.fn, 0, 23), (.fm, 0, 24)]⟩
  | 14 => some ⟨.s, (.dst .g), (.src .g), (.src .g), .zero, .zero, .never, [], [(.fn, 0, 23)]⟩
  | 15 => some ⟨.s, (.dst .g), .zero, .zero, .zero, .zero, .never, [], [(.fn, 0, 23)]⟩
  | 16 => some ⟨.s, .zero, (.src .g), .zero, .zero, .zero, .never, [], [(.fn, 0, 23)]⟩
  | _ => none

/-- The shape of the opcode of a word: none where R52 assigns nothing. -/
def shape (r : Raw) : Option Shape :=
  match r.row with
  | 0 => shapeRow0 r r.col
  | 1 => shapeRow1 r r.col
  | 2 => shapeRow2 r r.col
  | 3 => shapeRow3 r r.col
  | 4 => shapeRow4 r r.col
  | 5 => shapeRow5 r r.col
  | 6 => shapeRow6 r r.col
  | 7 => shapeRow7 r r.col
  | 8 => shapeRow8 r r.col
  | 9 => shapeRow9 r r.col
  | 10 => shapeRow10 r r.col
  | 11 => shapeRow11 r r.col
  | 12 => shapeRow12 r r.col
  | 13 => shapeRow13 r r.col
  | 14 => shapeRow14 r r.col
  | 15 => shapeRow15 r r.col
  | _ => none

/-! ### The checks of R51 that need no machine state -/

/-- Index of the lowest one bit of a number below 2^128. -/
def lowBit (n : Nat) : Nat := ((List.range 128).find? n.testBit).getD 0

/-- The lowest bit of a nonzero field that must be zero, as a bit of the instruction. -/
def zeroOff (lo v : Nat) : List Nat := if v = 0 then [] else [lo + lowBit v]

/-- Offending bit of an operand byte that the entry does not use (R45). -/
def Slot.off (s : Slot) (lo : Nat) (byte : BitVec 8) : List Nat :=
  if s = .zero then zeroOff lo byte.toNat else []

/-- The offending bits that only one opcode can have (the conditions its entry names). -/
def offExtra (r : Raw) : List Nat :=
  match r.op.toNat with
  | 0x00F | 0x010 | 0x011 | 0x012 | 0x02B =>            -- shift or bit amount above 63 (R64, R70)
    if r.i = 1 ∧ 64 ≤ r.fn.toNat then [41] else []
  | 0x021 => zeroOff 73 (r.fm.toNat / 2)                -- LIH bits 54:32 (R67)
  | 0x02C | 0x02D | 0x02E =>                            -- pos + len above 64 (R71)
    if 64 ≤ r.f .fn 0 6 + r.f .fn 6 6 then [47] else []
  | 0x080 | 0x081 =>                                    -- LD, ST: scope without a kind; a type beside a kind (R116)
    (if r.f .fm 7 2 = 0 ∧ r.f .fm 5 2 ≠ 0 then [77 + lowBit (r.f .fm 5 2)] else []) ++
    (if r.f .fm 7 2 ≠ 0 ∧ r.f .fm 3 2 ≠ 0 then [75 + lowBit (r.f .fm 3 2)] else [])
  | 0x0E0 => if r.f .fn 0 2 = r.f .fn 2 2 then [43] else []    -- FCVT of equal formats (R166)
  | 0x10C =>                                            -- VCMP: half with .s or .d (R176)
    if r.f .fn 12 1 = 1 ∧ r.f .fn 0 2 < 2 then [53] else []
  | 0x163 | 0x164 => if r.f .fm 3 1 = 0 then zeroOff 64 r.c.toNat else []   -- count plane absent (R212, R45)
  | 0x183 | 0x184 => if r.f .fm 0 1 = 0 then zeroOff 64 r.c.toNat else []
  | 0x168 | 0x169 => if r.f .fn 0 2 ≠ 0 ∧ r.b ≠ 0 then [28] else []         -- VFROMA, VTOA (R212)
  | 0x1C7 => if r.f .fn 0 1 = 1 ∧ r.d.extractLsb' 0 6 ≠ 0 then [12] else [] -- COUCH (R340)
  | 0x1E3 | 0x1E4 | 0x1E5 | 0x1E6 => if csrAssigned (r.f .fn 0 12) then [] else [41]   -- R256
  | 0x1E7 => if r.f .fm 0 2 % 2 = 0 then zeroOff 64 (r.c.toNat % 64) else []    -- TBW gang index (R253)
  | 0x1E8 =>                                            -- TBI (R253)
    (if r.f .fn 2 1 = 1 then zeroOff 20 (r.a.toNat % 64) else []) ++
    (if r.f .fn 0 2 % 2 = 0 then zeroOff 28 (r.b.toNat % 64) else [])
  | 0x1E9 => if r.f .fn 0 2 % 2 = 0 then zeroOff 28 (r.b.toNat % 64) else []    -- TBP (R253)
  | _ => []

/-- Every offending bit of check 8 (R44, R45, R50). Under I the bits 63:41 are the immediate, and of MADD also 95:72. -/
def offBits (r : Raw) (s : Shape) : List Nat :=
  let imm := r.i = 1 ∧ s.imm ≠ .never
  let seen (p : FnPart) : Bool := !(decide imm && (p == .fn || (p == .fm && s.form == .mp)))
  s.d.off 12 r.d ++ s.a.off 20 r.a ++
  (if r.i = 1 then zeroOff 28 r.b.toNat else s.b.off 28 r.b) ++
  (if r.pred = 0 ∧ r.neg = 1 then [39] else []) ++
  (if (r.i = 1 ∧ s.imm = .never) ∨ (r.i = 0 ∧ s.imm = .req) then [40] else []) ++
  (s.res.flatMap fun (p, lo, w) => if seen p then zeroOff (p.lo + lo) (r.f p lo w) else []) ++
  (s.flds.flatMap fun x =>
    let v := r.f x.part x.lo x.width
    if seen x.part && !x.ok v then [x.part.lo + x.lo + if x.unused then lowBit v else 0] else []) ++
  (if s.form = .ml then [] else s.c.off 64 r.c ++ s.e.off 96 r.e) ++
  offExtra r

/-- Whether a byte's number is valid for its slot (R48). -/
def Slot.numOk (s : Slot) (byte : BitVec 8) : Bool :=
  match s with
  | .zero => true
  | .src k | .dst k | .plain k | .pl k => decide ((byte.extractLsb' 0 6).toNat < k.count)

/-- Whether a byte's modifier is allowed in its slot (R49). -/
def Slot.mdOk (s : Slot) (byte : BitVec 8) : Bool :=
  let m := Md.ofBits (byte.extractLsb' 6 2)
  match s with
  | .zero => true
  | .src _ => m != .deposit
  | .dst .g => m == .plain || (m == .deposit && byte.extractLsb' 0 6 != 0)
  | .dst _ => m == .plain || m == .deposit
  | .plain _ | .pl _ => m == .plain

/-- Operand bytes in the order of checks 9 and 10: d, a, b, c, e, with their lowest bits. Under I there is no operand b, and
form ML has no operand c. -/
def operandBytes (r : Raw) (s : Shape) : List (Slot × Nat × BitVec 8) :=
  [(s.d, 12, r.d), (s.a, 20, r.a), (if r.i = 1 then .zero else s.b, 28, r.b), (if s.form = .ml then .zero else s.c, 64, r.c),
   (s.e, 96, r.e)]

/-- Check 9: the first operand byte with an invalid number; LDP with d = c (R116). -/
def badNumber (r : Raw) (s : Shape) : Option Nat :=
  match (operandBytes r s).find? fun (k, _, b) => !k.numOk b with
  | some (_, lo, _) => some lo
  | none =>
    if r.op = 0x086 ∧ r.d.extractLsb' 0 6 = r.c.extractLsb' 0 6 ∧ r.d.extractLsb' 0 6 ≠ 0 then some 64 else none

/-- Check 10: the first operand byte with a modifier it may not carry; the fill target of MCOMMIT (R221) and of COUCH (R340). -/
def badModifier (r : Raw) (s : Shape) : Option Nat :=
  let armed := (r.op = 0x165 ∧ r.f .fn 0 1 = 1) ∨ (r.op = 0x1C7 ∧ r.f .fn 0 1 = 0)
  if armed ∧ Md.ofBits (r.d.extractLsb' 6 2) ≠ .plain then some 12
  else ((operandBytes r s).find? fun (k, _, b) => !k.mdOk b).map fun (_, lo, _) => lo

/-- Why a word is no instruction, in the order of R51; each carries the bit that TSTAT reports. -/
inductive Reject where
  | short
  | padReserved (bit : Nat)
  | unassigned
  | field (bit : Nat)
  | register (bit : Nat)
  | modifier (bit : Nat)
  deriving DecidableEq, Repr

/-- Checks 6 and 8 to 10 on the fields of a word. -/
def checkRaw (r : Raw) : Except Reject Shape :=
  match shape r with
  | none => .error .unassigned
  | some s =>
    if s.form.len ≠ r.len then .error .unassigned
    else match (offBits r s).min? with
    | some b => .error (.field b)
    | none =>
      match badNumber r s with
      | some b => .error (.register b)
      | none =>
        match badModifier r s with
        | some b => .error (.modifier b)
        | none => .ok s

/-! ### Building the instruction -/

/-- Row 0: the instruction of a checked word. -/
def buildRow0 (r : Raw) : Nat → Option Instr
  | 1 => some (.add r.guard (.ofByte r.d) (.ofByte r.a) r.regImm)
  | 2 => some (.sub r.guard (.ofByte r.d) (.ofByte r.a) r.regImm)
  | 3 => some (.mul r.guard (.ofByte r.d) (.ofByte r.a) r.regImm)
  | 4 => some (.mulh r.guard (.ofByte r.d) (.ofByte r.a) r.regImm)
  | 5 => some (.mulhn r.guard (.ofByte r.d) (.ofByte r.a) r.regImm)
  | 6 => some (.div r.guard (.ofByte r.d) (.ofByte r.a) r.regImm)
  | 7 => some (.divn r.guard (.ofByte r.d) (.ofByte r.a) r.regImm)
  | 8 => some (.rem r.guard (.ofByte r.d) (.ofByte r.a) r.regImm)
  | 9 => some (.remn r.guard (.ofByte r.d) (.ofByte r.a) r.regImm)
  | 10 => some (.and r.guard (.ofByte r.d) (.ofByte r.a) r.regImm)
  | 11 => some (.or r.guard (.ofByte r.d) (.ofByte r.a) r.regImm)
  | 12 => some (.xor r.guard (.ofByte r.d) (.ofByte r.a) r.regImm)
  | 13 => some (.andn r.guard (.ofByte r.d) (.ofByte r.a) r.regImm)
  | 14 => some (.orn r.guard (.ofByte r.d) (.ofByte r.a) r.regImm)
  | 15 => some (.shl r.guard (.ofByte r.d) (.ofByte r.a) r.regImm)
  | 16 => some (.shr r.guard (.ofByte r.d) (.ofByte r.a) r.regImm)
  | 17 => some (.sar r.guard (.ofByte r.d) (.ofByte r.a) r.regImm)
  | 18 => some (.rot r.guard (.ofByte r.d) (.ofByte r.a) r.regImm)
  | 19 => some (.min r.guard (.ofByte r.d) (.ofByte r.a) r.regImm)
  | 20 => some (.max r.guard (.ofByte r.d) (.ofByte r.a) r.regImm)
  | 21 => some (.minn r.guard (.ofByte r.d) (.ofByte r.a) r.regImm)
  | 22 => some (.maxn r.guard (.ofByte r.d) (.ofByte r.a) r.regImm)
  | 23 => some (.abs r.guard (.ofByte r.d) (.ofByte r.a))
  | 24 => some (.neg r.guard (.ofByte r.d) (.ofByte r.a))
  | 25 => some (.clz r.guard (.ofByte r.d) (.ofByte r.a))
  | 26 => some (.ctz r.guard (.ofByte r.d) (.ofByte r.a))
  | 27 => some (.popc r.guard (.ofByte r.d) (.ofByte r.a))
  | 28 => some (.brev r.guard (.ofByte r.d) (.ofByte r.a))
  | 29 => some (.bswap r.guard (.ofByte r.d) (.ofByte r.a))
  | 30 => (ExtW.ofCode (r.f .fn 0 2)).bind fun w => some (.sext r.guard (.ofByte r.d) (.ofByte r.a) w)
  | 31 => (ExtW.ofCode (r.f .fn 0 2)).bind fun w => some (.zext r.guard (.ofByte r.d) (.ofByte r.a) w)
  | _ => none

/-- Row 1: the instruction of a checked word. -/
def buildRow1 (r : Raw) : Nat → Option Instr
  | 0 => some (.li r.guard (.ofByte r.d) r.imm55)
  | 1 => some (.lih r.guard (.ofByte r.d) r.imm55)
  | 2 => some (.lea r.guard (.ofByte r.d) r.memOp)
  | 3 => some (.mov r.guard (.ofByte r.d) (.ofByte r.a))
  | 4 => some (.sel r.guard (.ofByte r.d) (.ofByte r.a) (.ofByte r.b) (BitVec.ofNat 3 (r.f .fn 0 3)))
  | 5 => some (.cmpeq r.guard (r.d.extractLsb' 0 3) (.ofByte r.a) r.regImm)
  | 6 => some (.cmpne r.guard (r.d.extractLsb' 0 3) (.ofByte r.a) r.regImm)
  | 7 => some (.cmplt r.guard (r.d.extractLsb' 0 3) (.ofByte r.a) r.regImm)
  | 8 => some (.cmple r.guard (r.d.extractLsb' 0 3) (.ofByte r.a) r.regImm)
  | 9 => some (.cmpltn r.guard (r.d.extractLsb' 0 3) (.ofByte r.a) r.regImm)
  | 10 => some (.cmplen r.guard (r.d.extractLsb' 0 3) (.ofByte r.a) r.regImm)
  | 11 => some (.tstbit r.guard (r.d.extractLsb' 0 3) (.ofByte r.a) r.regImm)
  | 12 => some (.bfx r.guard (.ofByte r.d) (.ofByte r.a) (BitVec.ofNat 6 (r.f .fn 0 6)) (BitVec.ofNat 6 (r.f .fn 6 6)))
  | 13 => some (.bfxn r.guard (.ofByte r.d) (.ofByte r.a) (BitVec.ofNat 6 (r.f .fn 0 6)) (BitVec.ofNat 6 (r.f .fn 6 6)))
  | 14 => some (.bfi r.guard (.ofByte r.d) (.ofByte r.a) (BitVec.ofNat 6 (r.f .fn 0 6)) (BitVec.ofNat 6 (r.f .fn 6 6)))
  | 15 => some (.addv r.guard (.ofByte r.d) (.ofByte r.a) r.regImm)
  | 16 => some (.subv r.guard (.ofByte r.d) (.ofByte r.a) r.regImm)
  | 17 => some (.mulv r.guard (.ofByte r.d) (.ofByte r.a) r.regImm)
  | 18 => some (.chk r.guard (.ofByte r.a) r.regImm)
  | 19 => some (.madd r.guard (.ofByte r.d) (.ofByte r.a) r.regImm47 (.ofByte r.c))
  | _ => none

/-- Row 2: the instruction of a checked word. -/
def buildRow2 (r : Raw) : Nat → Option Instr
  | 0 => some (.br r.guard r.fn)
  | 1 => some (.jmp r.guard r.imm55)
  | 2 => some (.jr r.guard (.ofByte r.a))
  | 3 => some (.call r.guard (.ofByte r.d) r.fn)
  | 4 => some (.callr r.guard (.ofByte r.d) (.ofByte r.a))
  | 5 => some (.ret r.guard (.ofByte r.a))
  | 6 => some (.loop r.guard (.ofByte r.d) r.fn)
  | 7 => some (.bsig r.guard (.ofByte r.a) (BitVec.ofNat 6 (r.f .fn 0 6)) (BitVec.ofNat 17 (r.f .fn 6 17)))
  | 8 => some (.pand r.guard (r.d.extractLsb' 0 3) (r.a.extractLsb' 0 3) (r.b.extractLsb' 0 3))
  | 9 => some (.por r.guard (r.d.extractLsb' 0 3) (r.a.extractLsb' 0 3) (r.b.extractLsb' 0 3))
  | 10 => some (.pxor r.guard (r.d.extractLsb' 0 3) (r.a.extractLsb' 0 3) (r.b.extractLsb' 0 3))
  | 11 => some (.pnot r.guard (r.d.extractLsb' 0 3) (r.a.extractLsb' 0 3))
  | 12 => some (.pmov r.guard (r.d.extractLsb' 0 3) (r.a.extractLsb' 0 3))
  | 13 => some (.nop r.guard)
  | _ => none

/-- Row 3: the instruction of a checked word. -/
def buildRow3 (r : Raw) : Nat → Option Instr
  | 0 => some (.tstart r.guard (.ofByte r.a) r.regImm)
  | 1 => some (.treap r.guard (.ofByte r.d) (.ofByte r.a))
  | 2 => some (.tend r.guard (.ofByte r.a))
  | 3 => some (.tspawn r.guard (.ofByte r.d) (.ofByte r.a))
  | 4 => (BarScope.ofCode (r.f .fn 0 2)).bind fun sc => some (.bar r.guard sc)
  | 5 => some (.fempty r.guard r.plainGF)
  | 6 => some (.ffull r.guard r.plainGF)
  | 7 => some (.ftest r.guard (r.d.extractLsb' 0 3) r.plainGF)
  | 8 => some (.wpush r.guard (.ofByte r.a))
  | 9 => some (.wtake r.guard (.ofByte r.d) (BitVec.ofNat 3 (r.f .fn 0 3)))
  | 10 => some (.wcount r.guard (.ofByte r.d))
  | _ => none

/-- Row 4: the instruction of a checked word. -/
def buildRow4 (r : Raw) : Nat → Option Instr
  | 0 => (MemW.ofCode (r.f .fm 0 3)).bind fun w => (ReqType.ofCode (r.f .fm 3 2)).bind fun ty => (Scope.ofCode (r.f .fm 5 2)).bind fun sc => (FenceKind.ofCode (r.f .fm 7 2)).bind fun k => some (.ld r.guard (.ofByte r.d) r.memOp w ty sc k)
  | 1 => (StW.ofCode (r.f .fm 0 3)).bind fun w => (ReqType.ofCode (r.f .fm 3 2)).bind fun ty => (Scope.ofCode (r.f .fm 5 2)).bind fun sc => (FenceKind.ofCode (r.f .fm 7 2)).bind fun k => some (.st r.guard (.ofByte r.d) r.memOp w ty sc k)
  | 2 => (Fmt.ofCode (r.f .fm 0 3)).bind fun f => (ReqType.ofCode (r.f .fm 3 2)).bind fun ty => some (.ldf r.guard (.ofByte r.d) r.memOp f ty)
  | 3 => (Fmt.ofCode (r.f .fm 0 3)).bind fun f => (ReqType.ofCode (r.f .fm 3 2)).bind fun ty => some (.stf r.guard (.ofByte r.d) r.memOp f ty)
  | 4 => (Fmt.ofCode (r.f .fm 0 3)).bind fun f => (ReqType.ofCode (r.f .fm 3 2)).bind fun ty => some (.ldfc r.guard (.ofByte r.d) r.memOp (.ofByte r.c) f ty)
  | 5 => (Fmt.ofCode (r.f .fm 0 3)).bind fun f => (ReqType.ofCode (r.f .fm 3 2)).bind fun ty => some (.stfc r.guard (.ofByte r.d) r.memOp (.ofByte r.c) f ty)
  | 6 => (ReqType.ofCode (r.f .fm 3 2)).bind fun ty => some (.ldp r.guard (.ofByte r.d) r.memOp (.ofByte r.c) ty)
  | 7 => (ReqType.ofCode (r.f .fm 3 2)).bind fun ty => some (.stp r.guard (.ofByte r.d) r.memOp (.ofByte r.c) ty)
  | 8 => (ReqType.ofCode (r.f .fm 3 2)).bind fun ty => some (.pref r.guard r.memOp ty)
  | 9 => some (.inval r.guard r.memOp (.ofByte r.c))
  | 10 => some (.cwb r.guard r.memOp (.ofByte r.c))
  | _ => none

/-- Row 5: the instruction of a checked word. -/
def buildRow5 (r : Raw) : Nat → Option Instr
  | 0 => (AtW.ofCode (r.f .fm 0 3)).bind fun w => (Scope.ofCode (r.f .fm 5 2)).bind fun sc => (FenceKind.ofCode (r.f .fm 7 2)).bind fun k => (AmoOp.ofCode (r.f .fm 9 4)).bind fun op => some (.amo r.guard (.ofByte r.d) r.memOp (.ofByte r.c) w sc k op)
  | 1 => (AtW.ofCode (r.f .fm 0 3)).bind fun w => (Scope.ofCode (r.f .fm 5 2)).bind fun sc => (FenceKind.ofCode (r.f .fm 7 2)).bind fun k => some (.amocas r.guard (.ofByte r.d) r.memOp (.ofByte r.c) w sc k)
  | 2 => (AmofFmt.ofCode (r.f .fm 0 3)).bind fun f => (Scope.ofCode (r.f .fm 5 2)).bind fun sc => (FenceKind.ofCode (r.f .fm 7 2)).bind fun k => (AmofOp.ofCode (r.f .fm 9 4)).bind fun op => some (.amof r.guard (.ofByte r.d) r.memOp (.ofByte r.c) f sc k op)
  | 3 => (Scope.ofCode (r.f .fn 0 2)).bind fun sc => (FenceKind.ofCode (r.f .fn 2 2)).bind fun k => some (.fence r.guard sc k)
  | 4 => some (.fencesc r.guard)
  | 5 => some (.rfence r.guard (.ofByte r.d))
  | _ => none

/-- Row 6: the instruction of a checked word. -/
def buildRow6 (r : Raw) : Nat → Option Instr
  | 0 => (Fmt.ofCode (r.f .fn 0 2)).bind fun f => some (.fadd r.guard (.ofByte r.d) (.ofByte r.a) (.ofByte r.b) f)
  | 1 => (Fmt.ofCode (r.f .fn 0 2)).bind fun f => some (.fsub r.guard (.ofByte r.d) (.ofByte r.a) (.ofByte r.b) f)
  | 2 => (Fmt.ofCode (r.f .fn 0 2)).bind fun f => some (.fmul r.guard (.ofByte r.d) (.ofByte r.a) (.ofByte r.b) f)
  | 3 => (Fmt.ofCode (r.f .fn 0 2)).bind fun f => some (.fdiv r.guard (.ofByte r.d) (.ofByte r.a) (.ofByte r.b) f)
  | 4 => (Fmt.ofCode (r.f .fn 0 2)).bind fun f => some (.fsqrt r.guard (.ofByte r.d) (.ofByte r.a) f)
  | 5 => (Fmt.ofCode (r.f .fn 0 2)).bind fun f => some (.fma r.guard (.ofByte r.d) (.ofByte r.a) (.ofByte r.b) (.ofByte r.c) f)
  | 6 => (Fmt.ofCode (r.f .fn 0 2)).bind fun f => some (.fms r.guard (.ofByte r.d) (.ofByte r.a) (.ofByte r.b) (.ofByte r.c) f)
  | 7 => (Fmt.ofCode (r.f .fn 0 2)).bind fun f => some (.fnma r.guard (.ofByte r.d) (.ofByte r.a) (.ofByte r.b) (.ofByte r.c) f)
  | 8 => (Fmt.ofCode (r.f .fn 0 2)).bind fun f => some (.fnms r.guard (.ofByte r.d) (.ofByte r.a) (.ofByte r.b) (.ofByte r.c) f)
  | 9 => (Fmt.ofCode (r.f .fn 0 2)).bind fun f => some (.fmin r.guard (.ofByte r.d) (.ofByte r.a) (.ofByte r.b) f)
  | 10 => (Fmt.ofCode (r.f .fn 0 2)).bind fun f => some (.fmax r.guard (.ofByte r.d) (.ofByte r.a) (.ofByte r.b) f)
  | 11 => (Fmt.ofCode (r.f .fn 0 2)).bind fun f => some (.fabs r.guard (.ofByte r.d) (.ofByte r.a) f)
  | 12 => (Fmt.ofCode (r.f .fn 0 2)).bind fun f => some (.fneg r.guard (.ofByte r.d) (.ofByte r.a) f)
  | 13 => (Fmt.ofCode (r.f .fn 0 2)).bind fun f => some (.fcpys r.guard (.ofByte r.d) (.ofByte r.a) (.ofByte r.b) f)
  | 14 => (Fmt.ofCode (r.f .fn 0 2)).bind fun f => some (.fcmpeq r.guard (r.d.extractLsb' 0 3) (.ofByte r.a) (.ofByte r.b) f)
  | 15 => (Fmt.ofCode (r.f .fn 0 2)).bind fun f => some (.fcmplt r.guard (r.d.extractLsb' 0 3) (.ofByte r.a) (.ofByte r.b) f)
  | 16 => (Fmt.ofCode (r.f .fn 0 2)).bind fun f => some (.fcmple r.guard (r.d.extractLsb' 0 3) (.ofByte r.a) (.ofByte r.b) f)
  | 17 => (Fmt.ofCode (r.f .fn 0 2)).bind fun f => some (.fcmpun r.guard (r.d.extractLsb' 0 3) (.ofByte r.a) (.ofByte r.b) f)
  | 18 => (Fmt.ofCode (r.f .fn 0 2)).bind fun f => some (.fclass r.guard (.ofByte r.d) (.ofByte r.a) f)
  | 19 => (Fmt.ofCode (r.f .fn 0 2)).bind fun f => (Rnd.ofCode (r.f .fn 5 3)).bind fun rm => some (.fround r.guard (.ofByte r.d) (.ofByte r.a) f rm)
  | _ => none

/-- Row 7: the instruction of a checked word. -/
def buildRow7 (r : Raw) : Nat → Option Instr
  | 0 => (Fmt.ofCode (r.f .fn 0 2)).bind fun df => (Fmt.ofCode (r.f .fn 2 2)).bind fun sf => some (.fcvt r.guard (.ofByte r.d) (.ofByte r.a) df sf)
  | 1 => (Fmt.ofCode (r.f .fn 0 2)).bind fun f => (IntCode.ofCode (r.f .fn 2 3)).bind fun ic => (Rnd.ofCode (r.f .fn 5 3)).bind fun rm => some (.ftoi r.guard (.ofByte r.d) (.ofByte r.a) f ic rm)
  | 2 => (Fmt.ofCode (r.f .fn 0 2)).bind fun f => (IntCode.ofCode (r.f .fn 2 3)).bind fun ic => some (.itof r.guard (.ofByte r.d) (.ofByte r.a) f ic)
  | 3 => some (.fmov r.guard (.ofByte r.d) (.ofByte r.a))
  | 4 => some (.fmvg r.guard (.ofByte r.d) (.ofByte r.a))
  | 5 => (Fmt.ofCode (r.f .fn 0 2)).bind fun f => some (.fmvf r.guard (.ofByte r.d) (.ofByte r.a) f)
  | 6 => some (.exp2 r.guard (.ofByte r.d) (.ofByte r.a))
  | 7 => some (.sget r.guard (.ofByte r.d) (.ofByte r.a))
  | 8 => some (.sset r.guard (.ofByte r.d) (.ofByte r.a))
  | _ => none

/-- Row 8: the instruction of a checked word. -/
def buildRow8 (r : Raw) : Nat → Option Instr
  | 0 => (Fmt.ofCode (r.f .fn 0 2)).bind fun f => some (.vadd r.guard (r.d.extractLsb' 0 4) (r.a.extractLsb' 0 4) (r.b.extractLsb' 0 4) f (maskOf (r.f .fn 3 4)))
  | 1 => (Fmt.ofCode (r.f .fn 0 2)).bind fun f => some (.vsub r.guard (r.d.extractLsb' 0 4) (r.a.extractLsb' 0 4) (r.b.extractLsb' 0 4) f (maskOf (r.f .fn 3 4)))
  | 2 => (Fmt.ofCode (r.f .fn 0 2)).bind fun f => some (.vmul r.guard (r.d.extractLsb' 0 4) (r.a.extractLsb' 0 4) (r.b.extractLsb' 0 4) f (maskOf (r.f .fn 3 4)))
  | 3 => (Fmt.ofCode (r.f .fn 0 2)).bind fun f => some (.vfma r.guard (r.d.extractLsb' 0 4) (r.a.extractLsb' 0 4) (r.b.extractLsb' 0 4) (r.c.extractLsb' 0 4) f (maskOf (r.f .fn 3 4)))
  | 4 => (Fmt.ofCode (r.f .fn 0 2)).bind fun f => some (.vfms r.guard (r.d.extractLsb' 0 4) (r.a.extractLsb' 0 4) (r.b.extractLsb' 0 4) (r.c.extractLsb' 0 4) f (maskOf (r.f .fn 3 4)))
  | 5 => (Fmt.ofCode (r.f .fn 0 2)).bind fun f => some (.vmin r.guard (r.d.extractLsb' 0 4) (r.a.extractLsb' 0 4) (r.b.extractLsb' 0 4) f (maskOf (r.f .fn 3 4)))
  | 6 => (Fmt.ofCode (r.f .fn 0 2)).bind fun f => some (.vmax r.guard (r.d.extractLsb' 0 4) (r.a.extractLsb' 0 4) (r.b.extractLsb' 0 4) f (maskOf (r.f .fn 3 4)))
  | 7 => (Fmt.ofCode (r.f .fn 0 2)).bind fun f => some (.vabs r.guard (r.d.extractLsb' 0 4) (r.a.extractLsb' 0 4) f (maskOf (r.f .fn 3 4)))
  | 8 => (Fmt.ofCode (r.f .fn 0 2)).bind fun f => some (.vneg r.guard (r.d.extractLsb' 0 4) (r.a.extractLsb' 0 4) f (maskOf (r.f .fn 3 4)))
  | 9 => (Fmt.ofCode (r.f .fn 0 2)).bind fun f => some (.vdiv r.guard (r.d.extractLsb' 0 4) (r.a.extractLsb' 0 4) (r.b.extractLsb' 0 4) f (maskOf (r.f .fn 3 4)))
  | 10 => (Fmt.ofCode (r.f .fn 0 2)).bind fun f => some (.vsqrt r.guard (r.d.extractLsb' 0 4) (r.a.extractLsb' 0 4) f (maskOf (r.f .fn 3 4)))
  | 11 => some (.vexp2 r.guard (r.d.extractLsb' 0 4) (r.a.extractLsb' 0 4) (maskOf (r.f .fn 3 4)))
  | 12 => (Fmt.ofCode (r.f .fn 0 2)).bind fun f => (Cond.ofCode (r.f .fn 7 3)).bind fun cond => some (.vcmp r.guard (r.d.extractLsb' 0 3) (r.a.extractLsb' 0 4) (r.b.extractLsb' 0 4) f (maskOf (r.f .fn 3 4)) cond ((r.f .fn 12 1) == 1))
  | 13 => (CvtOp.ofCode (r.f .fn 7 5)).bind fun cv => some (.vcvt r.guard (r.d.extractLsb' 0 4) (r.a.extractLsb' 0 4) (maskOf (r.f .fn 3 4)) cv ((r.f .fn 12 1) == 1))
  | 14 => (Fmt.ofCode (r.f .fn 0 2)).bind fun f => (RedOp.ofCode (r.f .fn 7 3)).bind fun op => some (.vred r.guard (.ofByte r.d) (r.a.extractLsb' 0 4) f (maskOf (r.f .fn 3 4)) op)
  | 15 => some (.vsget r.guard (r.d.extractLsb' 0 4) (r.a.extractLsb' 0 4) (maskOf (r.f .fn 3 4)))
  | 16 => (Fmt.ofCode (r.f .fn 0 2)).bind fun f => some (.vsset r.guard (r.d.extractLsb' 0 4) (r.a.extractLsb' 0 4) f (maskOf (r.f .fn 3 4)))
  | _ => none

/-- Row 9: the instruction of a checked word. -/
def buildRow9 (r : Raw) : Nat → Option Instr
  | 0 => (VW.ofCode (r.f .fn 0 2)).bind fun w => some (.viadd r.guard (r.d.extractLsb' 0 4) (r.a.extractLsb' 0 4) (r.b.extractLsb' 0 4) w (maskOf (r.f .fn 3 4)))
  | 1 => (VW.ofCode (r.f .fn 0 2)).bind fun w => some (.visub r.guard (r.d.extractLsb' 0 4) (r.a.extractLsb' 0 4) (r.b.extractLsb' 0 4) w (maskOf (r.f .fn 3 4)))
  | 2 => (VW.ofCode (r.f .fn 0 2)).bind fun w => some (.vimul r.guard (r.d.extractLsb' 0 4) (r.a.extractLsb' 0 4) (r.b.extractLsb' 0 4) w (maskOf (r.f .fn 3 4)))
  | 3 => some (.vand r.guard (r.d.extractLsb' 0 4) (r.a.extractLsb' 0 4) (r.b.extractLsb' 0 4) (maskOf (r.f .fn 3 4)))
  | 4 => some (.vor r.guard (r.d.extractLsb' 0 4) (r.a.extractLsb' 0 4) (r.b.extractLsb' 0 4) (maskOf (r.f .fn 3 4)))
  | 5 => some (.vxor r.guard (r.d.extractLsb' 0 4) (r.a.extractLsb' 0 4) (r.b.extractLsb' 0 4) (maskOf (r.f .fn 3 4)))
  | 6 => (VW.ofCode (r.f .fn 0 2)).bind fun w => some (.vshl r.guard (r.d.extractLsb' 0 4) (r.a.extractLsb' 0 4) (r.b.extractLsb' 0 4) w (maskOf (r.f .fn 3 4)))
  | 7 => (VW.ofCode (r.f .fn 0 2)).bind fun w => some (.vshr r.guard (r.d.extractLsb' 0 4) (r.a.extractLsb' 0 4) (r.b.extractLsb' 0 4) w (maskOf (r.f .fn 3 4)))
  | 8 => (VW.ofCode (r.f .fn 0 2)).bind fun w => some (.vsar r.guard (r.d.extractLsb' 0 4) (r.a.extractLsb' 0 4) (r.b.extractLsb' 0 4) w (maskOf (r.f .fn 3 4)))
  | 9 => (VW.ofCode (r.f .fn 0 2)).bind fun w => some (.vimin r.guard (r.d.extractLsb' 0 4) (r.a.extractLsb' 0 4) (r.b.extractLsb' 0 4) w ((r.f .fn 2 1) == 1) (maskOf (r.f .fn 3 4)))
  | 10 => (VW.ofCode (r.f .fn 0 2)).bind fun w => some (.vimax r.guard (r.d.extractLsb' 0 4) (r.a.extractLsb' 0 4) (r.b.extractLsb' 0 4) w ((r.f .fn 2 1) == 1) (maskOf (r.f .fn 3 4)))
  | 11 => (VWw.ofCode (r.f .fn 0 2)).bind fun w => (ICond.ofCode (r.f .fn 7 3)).bind fun cond => some (.vicmp r.guard (r.d.extractLsb' 0 3) (r.a.extractLsb' 0 4) (r.b.extractLsb' 0 4) w ((r.f .fn 2 1) == 1) (maskOf (r.f .fn 3 4)) cond)
  | 12 => some (.vsel r.guard (r.d.extractLsb' 0 4) (r.a.extractLsb' 0 4) (r.b.extractLsb' 0 4) (r.c.extractLsb' 0 3))
  | 13 => some (.qand r.guard (r.d.extractLsb' 0 3) (r.a.extractLsb' 0 3) (r.b.extractLsb' 0 3))
  | 14 => some (.qor r.guard (r.d.extractLsb' 0 3) (r.a.extractLsb' 0 3) (r.b.extractLsb' 0 3))
  | 15 => some (.qxor r.guard (r.d.extractLsb' 0 3) (r.a.extractLsb' 0 3) (r.b.extractLsb' 0 3))
  | 16 => some (.qnot r.guard (r.d.extractLsb' 0 3) (r.a.extractLsb' 0 3))
  | 17 => some (.qpop r.guard (.ofByte r.d) (r.a.extractLsb' 0 3))
  | 18 => if r.f .fn 0 1 = 0 then some (.qmovToQ r.guard (r.d.extractLsb' 0 3) (.ofByte r.a)) else some (.qmovToG r.guard (.ofByte r.d) (r.a.extractLsb' 0 3))
  | _ => none

/-- Row 10: the instruction of a checked word. -/
def buildRow10 (r : Raw) : Nat → Option Instr
  | 0 => (VData.ofCode (r.f .fm 0 3)).bind fun dc => (ReqType.ofCode (r.f .fm 3 2)).bind fun ty => some (.vld r.guard (r.d.extractLsb' 0 4) r.memOp dc ty (maskOf (r.f .fm 9 4)))
  | 1 => (VData.ofCode (r.f .fm 0 3)).bind fun dc => (ReqType.ofCode (r.f .fm 3 2)).bind fun ty => some (.vst r.guard (r.d.extractLsb' 0 4) r.memOp dc ty (maskOf (r.f .fm 9 4)))
  | 2 => (VData.ofCode (r.f .fm 0 3)).bind fun dc => (ReqType.ofCode (r.f .fm 3 2)).bind fun ty => some (.vldx r.guard (r.d.extractLsb' 0 4) r.memIdx dc ty (maskOf (r.f .fm 9 4)))
  | 3 => (VData.ofCode (r.f .fm 0 3)).bind fun dc => (ReqType.ofCode (r.f .fm 3 2)).bind fun ty => some (.vstx r.guard (r.d.extractLsb' 0 4) r.memIdx dc ty (maskOf (r.f .fm 9 4)))
  | 4 => (Fmt.ofCode (r.f .fm 0 3)).bind fun dc => (ReqType.ofCode (r.f .fm 3 2)).bind fun ty => some (.vldc r.guard (r.d.extractLsb' 0 4) r.memOp (.ofByte r.c) dc ty (maskOf (r.f .fm 9 4)))
  | 5 => (Fmt.ofCode (r.f .fm 0 3)).bind fun dc => (ReqType.ofCode (r.f .fm 3 2)).bind fun ty => some (.vstc r.guard (r.d.extractLsb' 0 4) r.memOp (.ofByte r.c) dc ty (maskOf (r.f .fm 9 4)))
  | 6 => some (.vshuf r.guard (r.d.extractLsb' 0 4) (r.a.extractLsb' 0 4) (r.b.extractLsb' 0 4) (r.c.extractLsb' 0 4) (maskOf (r.f .fm 9 4)))
  | 7 => (VData.ofCode (r.f .fn 0 3)).bind fun dc => some (.vbcast r.guard (r.d.extractLsb' 0 4) (r.anyGF r.a dc) dc (maskOf (r.f .fn 3 4)))
  | 8 => (VData.ofCode (r.f .fn 0 3)).bind fun dc => some (.vext r.guard (r.anyGF r.d dc) (r.a.extractLsb' 0 4) (.ofByte r.b) dc)
  | 9 => (VData.ofCode (r.f .fn 0 3)).bind fun dc => some (.vins r.guard (r.d.extractLsb' 0 4) (r.anyGF r.a dc) (.ofByte r.b) dc)
  | 10 => some (.viota r.guard (r.d.extractLsb' 0 4) (.ofByte r.a) (.ofByte r.b) (maskOf (r.f .fn 3 4)))
  | 11 => some (.vmov r.guard (r.d.extractLsb' 0 4) (r.a.extractLsb' 0 4) (maskOf (r.f .fn 3 4)))
  | _ => none

/-- Row 11: the instruction of a checked word. -/
def buildRow11 (r : Raw) : Nat → Option Instr
  | 0 => (MmaFmt.ofCode (r.f .fn 0 2)).bind fun f => some (.mma r.guard (r.d.extractLsb' 0 3) (.ofByte r.a) (.ofByte r.b) (.ofByte r.c) (.ofByte r.e) f ((r.f .fn 13 1) == 1) ((r.f .fn 12 1) == 1) (BitVec.ofNat 10 (r.f .fn 2 10)))
  | 1 => (QFmt.ofCode (r.f .fn 0 2)).bind fun f => some (.mmaq r.guard (r.d.extractLsb' 0 3) (.ofByte r.a) (.ofByte r.b) (.ofByte r.c) (.ofByte r.e) f ((r.f .fn 13 1) == 1) ((r.f .fn 12 1) == 1) (BitVec.ofNat 10 (r.f .fn 2 10)))
  | 2 => some (.mzero r.guard (r.d.extractLsb' 0 3))
  | 3 => (MData.ofCode (r.f .fm 0 3)).bind fun dc => some (.mld r.guard (r.d.extractLsb' 0 3) (.ofByte r.a) (.ofByte r.b) (.ofByte r.c) dc ((r.f .fm 3 1) == 1))
  | 4 => (MData.ofCode (r.f .fm 0 3)).bind fun dc => some (.mst r.guard (r.d.extractLsb' 0 3) (.ofByte r.a) (.ofByte r.b) (.ofByte r.c) dc ((r.f .fm 3 1) == 1))
  | 5 => some (.mcommit r.guard (.ofByte r.d) ((r.f .fn 0 1) == 1))
  | 6 => some (.mwait r.guard (.ofByte r.a))
  | 7 => some (.mtest r.guard (.ofByte r.d))
  | 8 => (AccSel.ofCode (r.f .fn 0 2)).bind fun sl => some (.vfroma r.guard (r.d.extractLsb' 0 4) (r.a.extractLsb' 0 3) (.ofByte r.b) sl)
  | 9 => (AccSel.ofCode (r.f .fn 0 2)).bind fun sl => some (.vtoa r.guard (r.d.extractLsb' 0 3) (r.a.extractLsb' 0 4) (.ofByte r.b) sl)
  | 10 => some (.mscale r.guard (r.d.extractLsb' 0 3) (.ofByte r.a) r.regImm)
  | _ => none

/-- Row 12: the instruction of a checked word. -/
def buildRow12 (r : Raw) : Nat → Option Instr
  | 0 => (MmaFmt.ofCode (r.f .fn 0 2)).bind fun f => some (.smxa r.guard (r.d.extractLsb' 0 3) (r.a.extractLsb' 0 3) (.ofByte r.b) (.ofByte r.c) (.ofByte r.e) f (BitVec.ofNat 5 (r.f .fn 2 5)))
  | 1 => some (.smxfin r.guard (r.d.extractLsb' 0 3) r.regImm ((r.f .fm 0 1) == 1))
  | 2 => some (.smxmerge r.guard (r.d.extractLsb' 0 3) (r.a.extractLsb' 0 3) r.regImm)
  | 3 => some (.smxld r.guard (r.d.extractLsb' 0 3) (.ofByte r.a) r.regImm (.ofByte r.c) ((r.f .fm 0 1) == 1))
  | 4 => some (.smxst r.guard (r.d.extractLsb' 0 3) (.ofByte r.a) r.regImm (.ofByte r.c) ((r.f .fm 0 1) == 1))
  | 5 => some (.smxinit r.guard (r.d.extractLsb' 0 3) r.regImm)
  | _ => none

/-- Row 13: the instruction of a checked word. -/
def buildRow13 (r : Raw) : Nat → Option Instr
  | 0 => some (.copyq r.guard (.ofByte r.a) (.ofByte r.b) (.ofByte r.c) (.ofByte r.e))
  | 1 => some (.copyqt r.guard (.ofByte r.d) (.ofByte r.a) (.ofByte r.b) (.ofByte r.c) (.ofByte r.e))
  | 2 => some (.copys r.guard (.ofByte r.d) (.ofByte r.a))
  | 3 => some (.copyk r.guard (.ofByte r.d) (.ofByte r.a))
  | 4 => some (.xfence r.guard)
  | _ => none

/-- Row 14: the instruction of a checked word. -/
def buildRow14 (r : Raw) : Nat → Option Instr
  | 0 => some (.signal r.guard (.ofByte r.a) (.ofByte r.b) (.ofByte r.c))
  | 1 => some (.lease r.guard (.ofByte r.d) (.ofByte r.a) (.ofByte r.b) ((r.f .fn 0 1) == 1))
  | 2 => some (.renew r.guard (.ofByte r.d) (.ofByte r.a) (.ofByte r.b))
  | 3 => some (.unlease r.guard (.ofByte r.d) (.ofByte r.a) ((r.f .fn 0 1) == 1))
  | 4 => some (.roleq r.guard (.ofByte r.d) (.ofByte r.a))
  | 5 => some (.rolereq r.guard (.ofByte r.d) (.ofByte r.a) (.ofByte r.b))
  | 6 => some (.noteack r.guard (.ofByte r.a))
  | 7 => some (.couch r.guard (.ofByte r.d) (.ofByte r.a) ((r.f .fn 0 1) == 1))
  | 8 => some (.couchs r.guard (.ofByte r.d) (.ofByte r.a))
  | _ => none

/-- Row 15: the instruction of a checked word. -/
def buildRow15 (r : Raw) : Nat → Option Instr
  | 0 => some (.svc r.guard r.fn)
  | 1 => some (.brk r.guard r.fn)
  | 2 => some (.tret r.guard)
  | 3 => some (.csrr r.guard (.ofByte r.d) (BitVec.ofNat 12 (r.f .fn 0 12)))
  | 4 => some (.csrw r.guard (.ofByte r.d) (.ofByte r.a) (BitVec.ofNat 12 (r.f .fn 0 12)))
  | 5 => some (.csrs r.guard (.ofByte r.d) (.ofByte r.a) (BitVec.ofNat 12 (r.f .fn 0 12)))
  | 6 => some (.csrc r.guard (.ofByte r.d) (.ofByte r.a) (BitVec.ofNat 12 (r.f .fn 0 12)))
  | 7 => (TbTarget.ofCode (r.f .fm 0 2)).bind fun t => some (.tbw r.guard (.ofByte r.a) (.ofByte r.b) (.ofByte r.c) t)
  | 8 => (TbTarget.ofCode (r.f .fn 0 2)).bind fun t => some (.tbi r.guard (.ofByte r.a) (.ofByte r.b) t ((r.f .fn 2 1) == 1))
  | 9 => (TbTarget.ofCode (r.f .fn 0 2)).bind fun t => some (.tbp r.guard (.ofByte r.d) (.ofByte r.a) (.ofByte r.b) t)
  | 10 => some (.scfgr r.guard (.ofByte r.d) (.ofByte r.a) (BitVec.ofNat 12 (r.f .fn 0 12)))
  | 11 => some (.scfgw r.guard (.ofByte r.a) (.ofByte r.b) (BitVec.ofNat 12 (r.f .fn 0 12)))
  | 12 => some (.cwbr r.guard (.ofByte r.a) (.ofByte r.c) ((r.f .fm 0 1) == 1))
  | 13 => some (.slinv r.guard (.ofByte r.a) (.ofByte r.c))
  | 14 => some (.gswitch r.guard (.ofByte r.d) (.ofByte r.a) (.ofByte r.b))
  | 15 => some (.ckpt r.guard (.ofByte r.d))
  | 16 => some (.halt r.guard (.ofByte r.a))
  | _ => none

/-- The instruction of a word that has passed checks 6 and 8 to 10. -/
def build (r : Raw) : Option Instr :=
  match r.row with
  | 0 => buildRow0 r r.col
  | 1 => buildRow1 r r.col
  | 2 => buildRow2 r r.col
  | 3 => buildRow3 r r.col
  | 4 => buildRow4 r r.col
  | 5 => buildRow5 r r.col
  | 6 => buildRow6 r r.col
  | 7 => buildRow7 r r.col
  | 8 => buildRow8 r r.col
  | 9 => buildRow9 r r.col
  | 10 => buildRow10 r r.col
  | 11 => buildRow11 r r.col
  | 12 => buildRow12 r r.col
  | 13 => buildRow13 r r.col
  | 14 => buildRow14 r r.col
  | 15 => buildRow15 r r.col
  | _ => none

/-- What the bytes at a PC are: an instruction and its size in bytes, or a rejection with the bits and the size. -/
inductive Decoded where
  | ok (i : Instr) (size : Nat)
  | reject (why : Reject) (w : Nat) (size : Nat)
  deriving DecidableEq, Repr

/-- The instruction of its bits `w`, numbered as R35 numbers them. Bits above the instruction's size are not read. -/
def decodeWord (w : Nat) : Decoded :=
  if w % 4 = 3 then
    let p := w % 2 ^ 32
    if p = 3 then .ok .padWord 4 else .reject (.padReserved (lowBit (p / 4) + 2)) p 4
  else
    let size := sizeOf (w % 4)
    let w := w % 2 ^ (8 * size)
    let r := Raw.ofWord w
    match checkRaw r with
    | .error e => .reject e w size
    | .ok _ =>
      match build r with
      | some i => .ok i size
      | none => .reject .unassigned w size

/-- The number that little-endian bytes form (R3). -/
def leNat : List Byte → Nat
  | [] => 0
  | b :: bs => b.toNat + 256 * leNat bs

/-- The `n` little-endian bytes of a number. -/
def leBytes : Nat → Nat → List Byte
  | 0, _ => []
  | n + 1, v => BitVec.ofNat 8 v :: leBytes n (v / 256)

/-- Decoding any bytes: fewer than the first word, or than the length code asks for, is a rejection by name. -/
def decode (bytes : List Byte) : Decoded :=
  if bytes.length < 4 then .reject .short 0 0
  else
    let w := leNat (bytes.take 16)
    if bytes.length < sizeOf (w % 4) then .reject .short w (sizeOf (w % 4)) else decodeWord w

/-- The instruction YOUR DECODER reads from a table row's bits; every bit above `nbits` is zero. -/
def decodeTableWord (nbits w : Nat) : Option Instr :=
  match decode (leBytes 16 (w % 2 ^ nbits)) with
  | .ok i _ => some i
  | .reject .. => none

/-! ### The encoder -/

/-- A word with guard, length code and opcode, all else zero. -/
def Raw.base (g : Guard) (len : BitVec 2) (op : BitVec 10) : Raw where
  len := len
  op := op
  d := 0
  a := 0
  b := 0
  pred := g.pred
  neg := if g.neg then 1 else 0
  i := 0
  fn := 0
  c := 0
  fm := 0
  e := 0
  fl := 0

/-- The fields of an instruction's word, written from the encoding tables; the steps of other agents have no word. -/
def Instr.toRaw : Instr → Option Raw
  | .padWord => none
  | .add g d a b => some { Raw.base g 0 0x001 with d := d.byte, a := a.byte, b := b.byte, i := b.bit, fn := b.fn }
  | .sub g d a b => some { Raw.base g 0 0x002 with d := d.byte, a := a.byte, b := b.byte, i := b.bit, fn := b.fn }
  | .mul g d a b => some { Raw.base g 0 0x003 with d := d.byte, a := a.byte, b := b.byte, i := b.bit, fn := b.fn }
  | .mulh g d a b => some { Raw.base g 0 0x004 with d := d.byte, a := a.byte, b := b.byte, i := b.bit, fn := b.fn }
  | .mulhn g d a b => some { Raw.base g 0 0x005 with d := d.byte, a := a.byte, b := b.byte, i := b.bit, fn := b.fn }
  | .div g d a b => some { Raw.base g 0 0x006 with d := d.byte, a := a.byte, b := b.byte, i := b.bit, fn := b.fn }
  | .divn g d a b => some { Raw.base g 0 0x007 with d := d.byte, a := a.byte, b := b.byte, i := b.bit, fn := b.fn }
  | .rem g d a b => some { Raw.base g 0 0x008 with d := d.byte, a := a.byte, b := b.byte, i := b.bit, fn := b.fn }
  | .remn g d a b => some { Raw.base g 0 0x009 with d := d.byte, a := a.byte, b := b.byte, i := b.bit, fn := b.fn }
  | .and g d a b => some { Raw.base g 0 0x00A with d := d.byte, a := a.byte, b := b.byte, i := b.bit, fn := b.fn }
  | .or g d a b => some { Raw.base g 0 0x00B with d := d.byte, a := a.byte, b := b.byte, i := b.bit, fn := b.fn }
  | .xor g d a b => some { Raw.base g 0 0x00C with d := d.byte, a := a.byte, b := b.byte, i := b.bit, fn := b.fn }
  | .andn g d a b => some { Raw.base g 0 0x00D with d := d.byte, a := a.byte, b := b.byte, i := b.bit, fn := b.fn }
  | .orn g d a b => some { Raw.base g 0 0x00E with d := d.byte, a := a.byte, b := b.byte, i := b.bit, fn := b.fn }
  | .shl g d a b => some { Raw.base g 0 0x00F with d := d.byte, a := a.byte, b := b.byte, i := b.bit, fn := b.fn }
  | .shr g d a b => some { Raw.base g 0 0x010 with d := d.byte, a := a.byte, b := b.byte, i := b.bit, fn := b.fn }
  | .sar g d a b => some { Raw.base g 0 0x011 with d := d.byte, a := a.byte, b := b.byte, i := b.bit, fn := b.fn }
  | .rot g d a b => some { Raw.base g 0 0x012 with d := d.byte, a := a.byte, b := b.byte, i := b.bit, fn := b.fn }
  | .min g d a b => some { Raw.base g 0 0x013 with d := d.byte, a := a.byte, b := b.byte, i := b.bit, fn := b.fn }
  | .max g d a b => some { Raw.base g 0 0x014 with d := d.byte, a := a.byte, b := b.byte, i := b.bit, fn := b.fn }
  | .minn g d a b => some { Raw.base g 0 0x015 with d := d.byte, a := a.byte, b := b.byte, i := b.bit, fn := b.fn }
  | .maxn g d a b => some { Raw.base g 0 0x016 with d := d.byte, a := a.byte, b := b.byte, i := b.bit, fn := b.fn }
  | .abs g d a => some { Raw.base g 0 0x017 with d := d.byte, a := a.byte }
  | .neg g d a => some { Raw.base g 0 0x018 with d := d.byte, a := a.byte }
  | .clz g d a => some { Raw.base g 0 0x019 with d := d.byte, a := a.byte }
  | .ctz g d a => some { Raw.base g 0 0x01A with d := d.byte, a := a.byte }
  | .popc g d a => some { Raw.base g 0 0x01B with d := d.byte, a := a.byte }
  | .brev g d a => some { Raw.base g 0 0x01C with d := d.byte, a := a.byte }
  | .bswap g d a => some { Raw.base g 0 0x01D with d := d.byte, a := a.byte }
  | .sext g d a w => some { Raw.base g 0 0x01E with d := d.byte, a := a.byte, fn := BitVec.ofNat 23 (w.code) }
  | .zext g d a w => some { Raw.base g 0 0x01F with d := d.byte, a := a.byte, fn := BitVec.ofNat 23 (w.code) }
  | .li g d imm => some { Raw.base g 1 0x020 with d := d.byte, i := 1, fn := imm.setWidth 23, c := imm.extractLsb' 23 8, fm := imm.extractLsb' 31 24 }
  | .lih g d imm => some { Raw.base g 1 0x021 with d := d.byte, i := 1, fn := imm.setWidth 23, c := imm.extractLsb' 23 8, fm := imm.extractLsb' 31 24 }
  | .lea g d m => some { Raw.base g 0 0x022 with d := d.byte, a := m.base.byte, b := m.off.byte, i := m.off.bit, fn := m.off.fn }
  | .mov g d a => some { Raw.base g 0 0x023 with d := d.byte, a := a.byte }
  | .sel g d a b k => some { Raw.base g 0 0x024 with d := d.byte, a := a.byte, b := b.byte, fn := BitVec.ofNat 23 (k.toNat) }
  | .cmpeq g d a b => some { Raw.base g 0 0x025 with d := d.setWidth 8, a := a.byte, b := b.byte, i := b.bit, fn := b.fn }
  | .cmpne g d a b => some { Raw.base g 0 0x026 with d := d.setWidth 8, a := a.byte, b := b.byte, i := b.bit, fn := b.fn }
  | .cmplt g d a b => some { Raw.base g 0 0x027 with d := d.setWidth 8, a := a.byte, b := b.byte, i := b.bit, fn := b.fn }
  | .cmple g d a b => some { Raw.base g 0 0x028 with d := d.setWidth 8, a := a.byte, b := b.byte, i := b.bit, fn := b.fn }
  | .cmpltn g d a b => some { Raw.base g 0 0x029 with d := d.setWidth 8, a := a.byte, b := b.byte, i := b.bit, fn := b.fn }
  | .cmplen g d a b => some { Raw.base g 0 0x02A with d := d.setWidth 8, a := a.byte, b := b.byte, i := b.bit, fn := b.fn }
  | .tstbit g d a b => some { Raw.base g 0 0x02B with d := d.setWidth 8, a := a.byte, b := b.byte, i := b.bit, fn := b.fn }
  | .bfx g d a pos len => some { Raw.base g 0 0x02C with d := d.byte, a := a.byte, fn := BitVec.ofNat 23 (pos.toNat + len.toNat * 64) }
  | .bfxn g d a pos len => some { Raw.base g 0 0x02D with d := d.byte, a := a.byte, fn := BitVec.ofNat 23 (pos.toNat + len.toNat * 64) }
  | .bfi g d a pos len => some { Raw.base g 0 0x02E with d := d.byte, a := a.byte, fn := BitVec.ofNat 23 (pos.toNat + len.toNat * 64) }
  | .addv g d a b => some { Raw.base g 0 0x02F with d := d.byte, a := a.byte, b := b.byte, i := b.bit, fn := b.fn }
  | .subv g d a b => some { Raw.base g 0 0x030 with d := d.byte, a := a.byte, b := b.byte, i := b.bit, fn := b.fn }
  | .mulv g d a b => some { Raw.base g 0 0x031 with d := d.byte, a := a.byte, b := b.byte, i := b.bit, fn := b.fn }
  | .chk g a b => some { Raw.base g 0 0x032 with a := a.byte, b := b.byte, i := b.bit, fn := b.fn }
  | .madd g d a b c => some { Raw.base g 1 0x033 with d := d.byte, a := a.byte, c := c.byte, b := b.byte, i := b.bit, fn := b.fn, fm := b.fm }
  | .br g imm => some { Raw.base g 0 0x040 with i := 1, fn := imm }
  | .jmp g imm => some { Raw.base g 1 0x041 with i := 1, fn := imm.setWidth 23, c := imm.extractLsb' 23 8, fm := imm.extractLsb' 31 24 }
  | .jr g a => some { Raw.base g 0 0x042 with a := a.byte }
  | .call g d imm => some { Raw.base g 0 0x043 with d := d.byte, i := 1, fn := imm }
  | .callr g d a => some { Raw.base g 0 0x044 with d := d.byte, a := a.byte }
  | .ret g a => some { Raw.base g 0 0x045 with a := a.byte }
  | .loop g d imm => some { Raw.base g 0 0x046 with d := d.byte, i := 1, fn := imm }
  | .bsig g a n off => some { Raw.base g 0 0x047 with a := a.byte, fn := BitVec.ofNat 23 (n.toNat + off.toNat * 64) }
  | .pand g d a b => some { Raw.base g 0 0x048 with d := d.setWidth 8, a := a.setWidth 8, b := b.setWidth 8 }
  | .por g d a b => some { Raw.base g 0 0x049 with d := d.setWidth 8, a := a.setWidth 8, b := b.setWidth 8 }
  | .pxor g d a b => some { Raw.base g 0 0x04A with d := d.setWidth 8, a := a.setWidth 8, b := b.setWidth 8 }
  | .pnot g d a => some { Raw.base g 0 0x04B with d := d.setWidth 8, a := a.setWidth 8 }
  | .pmov g d a => some { Raw.base g 0 0x04C with d := d.setWidth 8, a := a.setWidth 8 }
  | .nop g => some (Raw.base g 0 0x04D)
  | .tstart g a b => some { Raw.base g 0 0x060 with a := a.byte, b := b.byte, i := b.bit, fn := b.fn }
  | .treap g d a => some { Raw.base g 0 0x061 with d := d.byte, a := a.byte }
  | .tend g a => some { Raw.base g 0 0x062 with a := a.byte }
  | .tspawn g d a => some { Raw.base g 0 0x063 with d := d.byte, a := a.byte }
  | .bar g sc => some { Raw.base g 0 0x064 with fn := BitVec.ofNat 23 (sc.code) }
  | .fempty g a => some { Raw.base g 0 0x065 with a := a.byte, fn := BitVec.ofNat 23 (a.bit) }
  | .ffull g a => some { Raw.base g 0 0x066 with a := a.byte, fn := BitVec.ofNat 23 (a.bit) }
  | .ftest g d a => some { Raw.base g 0 0x067 with d := d.setWidth 8, a := a.byte, fn := BitVec.ofNat 23 (a.bit) }
  | .wpush g a => some { Raw.base g 0 0x068 with a := a.byte }
  | .wtake g d k => some { Raw.base g 0 0x069 with d := d.byte, fn := BitVec.ofNat 23 (k.toNat) }
  | .wcount g d => some { Raw.base g 0 0x06A with d := d.byte }
  | .ld g d m w ty sc k => some { Raw.base g 1 0x080 with d := d.byte, a := m.base.byte, b := m.off.byte, i := m.off.bit, fn := m.off.fn, fm := BitVec.ofNat 24 (w.code + ty.code * 8 + sc.code * 32 + k.code * 128) }
  | .st g d m w ty sc k => some { Raw.base g 1 0x081 with d := d.byte, a := m.base.byte, b := m.off.byte, i := m.off.bit, fn := m.off.fn, fm := BitVec.ofNat 24 (w.code + ty.code * 8 + sc.code * 32 + k.code * 128) }
  | .ldf g d m f ty => some { Raw.base g 1 0x082 with d := d.byte, a := m.base.byte, b := m.off.byte, i := m.off.bit, fn := m.off.fn, fm := BitVec.ofNat 24 (f.code + ty.code * 8) }
  | .stf g d m f ty => some { Raw.base g 1 0x083 with d := d.byte, a := m.base.byte, b := m.off.byte, i := m.off.bit, fn := m.off.fn, fm := BitVec.ofNat 24 (f.code + ty.code * 8) }
  | .ldfc g d m c f ty => some { Raw.base g 1 0x084 with d := d.byte, c := c.byte, a := m.base.byte, b := m.off.byte, i := m.off.bit, fn := m.off.fn, fm := BitVec.ofNat 24 (f.code + ty.code * 8) }
  | .stfc g d m c f ty => some { Raw.base g 1 0x085 with d := d.byte, c := c.byte, a := m.base.byte, b := m.off.byte, i := m.off.bit, fn := m.off.fn, fm := BitVec.ofNat 24 (f.code + ty.code * 8) }
  | .ldp g d m c ty => some { Raw.base g 1 0x086 with d := d.byte, c := c.byte, a := m.base.byte, b := m.off.byte, i := m.off.bit, fn := m.off.fn, fm := BitVec.ofNat 24 (ty.code * 8) }
  | .stp g d m c ty => some { Raw.base g 1 0x087 with d := d.byte, c := c.byte, a := m.base.byte, b := m.off.byte, i := m.off.bit, fn := m.off.fn, fm := BitVec.ofNat 24 (ty.code * 8) }
  | .pref g m ty => some { Raw.base g 1 0x088 with a := m.base.byte, b := m.off.byte, i := m.off.bit, fn := m.off.fn, fm := BitVec.ofNat 24 (ty.code * 8) }
  | .inval g m c => some { Raw.base g 1 0x089 with c := c.byte, a := m.base.byte, b := m.off.byte, i := m.off.bit, fn := m.off.fn }
  | .cwb g m c => some { Raw.base g 1 0x08A with c := c.byte, a := m.base.byte, b := m.off.byte, i := m.off.bit, fn := m.off.fn }
  | .amo g d m c w sc k op => some { Raw.base g 1 0x0A0 with d := d.byte, c := c.byte, a := m.base.byte, b := m.off.byte, i := m.off.bit, fn := m.off.fn, fm := BitVec.ofNat 24 (w.code + sc.code * 32 + k.code * 128 + op.code * 512) }
  | .amocas g d m c w sc k => some { Raw.base g 1 0x0A1 with d := d.byte, c := c.byte, a := m.base.byte, b := m.off.byte, i := m.off.bit, fn := m.off.fn, fm := BitVec.ofNat 24 (w.code + sc.code * 32 + k.code * 128) }
  | .amof g d m c f sc k op => some { Raw.base g 1 0x0A2 with d := d.byte, c := c.byte, a := m.base.byte, b := m.off.byte, i := m.off.bit, fn := m.off.fn, fm := BitVec.ofNat 24 (f.code + sc.code * 32 + k.code * 128 + op.code * 512) }
  | .fence g sc k => some { Raw.base g 0 0x0A3 with fn := BitVec.ofNat 23 (sc.code + k.code * 4) }
  | .fencesc g => some (Raw.base g 0 0x0A4)
  | .rfence g d => some { Raw.base g 0 0x0A5 with d := d.byte }
  | .fadd g d a b f => some { Raw.base g 0 0x0C0 with d := d.byte, a := a.byte, b := b.byte, fn := BitVec.ofNat 23 (f.code) }
  | .fsub g d a b f => some { Raw.base g 0 0x0C1 with d := d.byte, a := a.byte, b := b.byte, fn := BitVec.ofNat 23 (f.code) }
  | .fmul g d a b f => some { Raw.base g 0 0x0C2 with d := d.byte, a := a.byte, b := b.byte, fn := BitVec.ofNat 23 (f.code) }
  | .fdiv g d a b f => some { Raw.base g 0 0x0C3 with d := d.byte, a := a.byte, b := b.byte, fn := BitVec.ofNat 23 (f.code) }
  | .fsqrt g d a f => some { Raw.base g 0 0x0C4 with d := d.byte, a := a.byte, fn := BitVec.ofNat 23 (f.code) }
  | .fma g d a b c f => some { Raw.base g 1 0x0C5 with d := d.byte, a := a.byte, b := b.byte, c := c.byte, fn := BitVec.ofNat 23 (f.code) }
  | .fms g d a b c f => some { Raw.base g 1 0x0C6 with d := d.byte, a := a.byte, b := b.byte, c := c.byte, fn := BitVec.ofNat 23 (f.code) }
  | .fnma g d a b c f => some { Raw.base g 1 0x0C7 with d := d.byte, a := a.byte, b := b.byte, c := c.byte, fn := BitVec.ofNat 23 (f.code) }
  | .fnms g d a b c f => some { Raw.base g 1 0x0C8 with d := d.byte, a := a.byte, b := b.byte, c := c.byte, fn := BitVec.ofNat 23 (f.code) }
  | .fmin g d a b f => some { Raw.base g 0 0x0C9 with d := d.byte, a := a.byte, b := b.byte, fn := BitVec.ofNat 23 (f.code) }
  | .fmax g d a b f => some { Raw.base g 0 0x0CA with d := d.byte, a := a.byte, b := b.byte, fn := BitVec.ofNat 23 (f.code) }
  | .fabs g d a f => some { Raw.base g 0 0x0CB with d := d.byte, a := a.byte, fn := BitVec.ofNat 23 (f.code) }
  | .fneg g d a f => some { Raw.base g 0 0x0CC with d := d.byte, a := a.byte, fn := BitVec.ofNat 23 (f.code) }
  | .fcpys g d a b f => some { Raw.base g 0 0x0CD with d := d.byte, a := a.byte, b := b.byte, fn := BitVec.ofNat 23 (f.code) }
  | .fcmpeq g d a b f => some { Raw.base g 0 0x0CE with d := d.setWidth 8, a := a.byte, b := b.byte, fn := BitVec.ofNat 23 (f.code) }
  | .fcmplt g d a b f => some { Raw.base g 0 0x0CF with d := d.setWidth 8, a := a.byte, b := b.byte, fn := BitVec.ofNat 23 (f.code) }
  | .fcmple g d a b f => some { Raw.base g 0 0x0D0 with d := d.setWidth 8, a := a.byte, b := b.byte, fn := BitVec.ofNat 23 (f.code) }
  | .fcmpun g d a b f => some { Raw.base g 0 0x0D1 with d := d.setWidth 8, a := a.byte, b := b.byte, fn := BitVec.ofNat 23 (f.code) }
  | .fclass g d a f => some { Raw.base g 0 0x0D2 with d := d.byte, a := a.byte, fn := BitVec.ofNat 23 (f.code) }
  | .fround g d a f rm => some { Raw.base g 0 0x0D3 with d := d.byte, a := a.byte, fn := BitVec.ofNat 23 (f.code + rm.code * 32) }
  | .fcvt g d a df sf => some { Raw.base g 0 0x0E0 with d := d.byte, a := a.byte, fn := BitVec.ofNat 23 (df.code + sf.code * 4) }
  | .ftoi g d a f ic rm => some { Raw.base g 0 0x0E1 with d := d.byte, a := a.byte, fn := BitVec.ofNat 23 (f.code + ic.code * 4 + rm.code * 32) }
  | .itof g d a f ic => some { Raw.base g 0 0x0E2 with d := d.byte, a := a.byte, fn := BitVec.ofNat 23 (f.code + ic.code * 4) }
  | .fmov g d a => some { Raw.base g 0 0x0E3 with d := d.byte, a := a.byte }
  | .fmvg g d a => some { Raw.base g 0 0x0E4 with d := d.byte, a := a.byte }
  | .fmvf g d a f => some { Raw.base g 0 0x0E5 with d := d.byte, a := a.byte, fn := BitVec.ofNat 23 (f.code) }
  | .exp2 g d a => some { Raw.base g 0 0x0E6 with d := d.byte, a := a.byte }
  | .sget g d a => some { Raw.base g 0 0x0E7 with d := d.byte, a := a.byte }
  | .sset g d a => some { Raw.base g 0 0x0E8 with d := d.byte, a := a.byte }
  | .vadd g d a b f gm => some { Raw.base g 0 0x100 with d := d.setWidth 8, a := a.setWidth 8, b := b.setWidth 8, fn := BitVec.ofNat 23 (f.code + maskCode gm * 8) }
  | .vsub g d a b f gm => some { Raw.base g 0 0x101 with d := d.setWidth 8, a := a.setWidth 8, b := b.setWidth 8, fn := BitVec.ofNat 23 (f.code + maskCode gm * 8) }
  | .vmul g d a b f gm => some { Raw.base g 0 0x102 with d := d.setWidth 8, a := a.setWidth 8, b := b.setWidth 8, fn := BitVec.ofNat 23 (f.code + maskCode gm * 8) }
  | .vfma g d a b c f gm => some { Raw.base g 1 0x103 with d := d.setWidth 8, a := a.setWidth 8, b := b.setWidth 8, c := c.setWidth 8, fn := BitVec.ofNat 23 (f.code + maskCode gm * 8) }
  | .vfms g d a b c f gm => some { Raw.base g 1 0x104 with d := d.setWidth 8, a := a.setWidth 8, b := b.setWidth 8, c := c.setWidth 8, fn := BitVec.ofNat 23 (f.code + maskCode gm * 8) }
  | .vmin g d a b f gm => some { Raw.base g 0 0x105 with d := d.setWidth 8, a := a.setWidth 8, b := b.setWidth 8, fn := BitVec.ofNat 23 (f.code + maskCode gm * 8) }
  | .vmax g d a b f gm => some { Raw.base g 0 0x106 with d := d.setWidth 8, a := a.setWidth 8, b := b.setWidth 8, fn := BitVec.ofNat 23 (f.code + maskCode gm * 8) }
  | .vabs g d a f gm => some { Raw.base g 0 0x107 with d := d.setWidth 8, a := a.setWidth 8, fn := BitVec.ofNat 23 (f.code + maskCode gm * 8) }
  | .vneg g d a f gm => some { Raw.base g 0 0x108 with d := d.setWidth 8, a := a.setWidth 8, fn := BitVec.ofNat 23 (f.code + maskCode gm * 8) }
  | .vdiv g d a b f gm => some { Raw.base g 0 0x109 with d := d.setWidth 8, a := a.setWidth 8, b := b.setWidth 8, fn := BitVec.ofNat 23 (f.code + maskCode gm * 8) }
  | .vsqrt g d a f gm => some { Raw.base g 0 0x10A with d := d.setWidth 8, a := a.setWidth 8, fn := BitVec.ofNat 23 (f.code + maskCode gm * 8) }
  | .vexp2 g d a gm => some { Raw.base g 0 0x10B with d := d.setWidth 8, a := a.setWidth 8, fn := BitVec.ofNat 23 (maskCode gm * 8) }
  | .vcmp g d a b f gm cond half => some { Raw.base g 0 0x10C with d := d.setWidth 8, a := a.setWidth 8, b := b.setWidth 8, fn := BitVec.ofNat 23 (f.code + maskCode gm * 8 + cond.code * 128 + half.toNat * 4096) }
  | .vcvt g d a gm cv half => some { Raw.base g 0 0x10D with d := d.setWidth 8, a := a.setWidth 8, fn := BitVec.ofNat 23 (maskCode gm * 8 + cv.code * 128 + half.toNat * 4096) }
  | .vred g d a f gm op => some { Raw.base g 0 0x10E with d := d.byte, a := a.setWidth 8, fn := BitVec.ofNat 23 (f.code + maskCode gm * 8 + op.code * 128) }
  | .vsget g d a gm => some { Raw.base g 0 0x10F with d := d.setWidth 8, a := a.setWidth 8, fn := BitVec.ofNat 23 (maskCode gm * 8) }
  | .vsset g d a f gm => some { Raw.base g 0 0x110 with d := d.setWidth 8, a := a.setWidth 8, fn := BitVec.ofNat 23 (f.code + maskCode gm * 8) }
  | .viadd g d a b w gm => some { Raw.base g 0 0x120 with d := d.setWidth 8, a := a.setWidth 8, b := b.setWidth 8, fn := BitVec.ofNat 23 (w.code + maskCode gm * 8) }
  | .visub g d a b w gm => some { Raw.base g 0 0x121 with d := d.setWidth 8, a := a.setWidth 8, b := b.setWidth 8, fn := BitVec.ofNat 23 (w.code + maskCode gm * 8) }
  | .vimul g d a b w gm => some { Raw.base g 0 0x122 with d := d.setWidth 8, a := a.setWidth 8, b := b.setWidth 8, fn := BitVec.ofNat 23 (w.code + maskCode gm * 8) }
  | .vand g d a b gm => some { Raw.base g 0 0x123 with d := d.setWidth 8, a := a.setWidth 8, b := b.setWidth 8, fn := BitVec.ofNat 23 (maskCode gm * 8) }
  | .vor g d a b gm => some { Raw.base g 0 0x124 with d := d.setWidth 8, a := a.setWidth 8, b := b.setWidth 8, fn := BitVec.ofNat 23 (maskCode gm * 8) }
  | .vxor g d a b gm => some { Raw.base g 0 0x125 with d := d.setWidth 8, a := a.setWidth 8, b := b.setWidth 8, fn := BitVec.ofNat 23 (maskCode gm * 8) }
  | .vshl g d a b w gm => some { Raw.base g 0 0x126 with d := d.setWidth 8, a := a.setWidth 8, b := b.setWidth 8, fn := BitVec.ofNat 23 (w.code + maskCode gm * 8) }
  | .vshr g d a b w gm => some { Raw.base g 0 0x127 with d := d.setWidth 8, a := a.setWidth 8, b := b.setWidth 8, fn := BitVec.ofNat 23 (w.code + maskCode gm * 8) }
  | .vsar g d a b w gm => some { Raw.base g 0 0x128 with d := d.setWidth 8, a := a.setWidth 8, b := b.setWidth 8, fn := BitVec.ofNat 23 (w.code + maskCode gm * 8) }
  | .vimin g d a b w un gm => some { Raw.base g 0 0x129 with d := d.setWidth 8, a := a.setWidth 8, b := b.setWidth 8, fn := BitVec.ofNat 23 (w.code + un.toNat * 4 + maskCode gm * 8) }
  | .vimax g d a b w un gm => some { Raw.base g 0 0x12A with d := d.setWidth 8, a := a.setWidth 8, b := b.setWidth 8, fn := BitVec.ofNat 23 (w.code + un.toNat * 4 + maskCode gm * 8) }
  | .vicmp g d a b w un gm cond => some { Raw.base g 0 0x12B with d := d.setWidth 8, a := a.setWidth 8, b := b.setWidth 8, fn := BitVec.ofNat 23 (w.code + un.toNat * 4 + maskCode gm * 8 + cond.code * 128) }
  | .vsel g d a b c => some { Raw.base g 1 0x12C with d := d.setWidth 8, a := a.setWidth 8, b := b.setWidth 8, c := c.setWidth 8 }
  | .qand g d a b => some { Raw.base g 0 0x12D with d := d.setWidth 8, a := a.setWidth 8, b := b.setWidth 8 }
  | .qor g d a b => some { Raw.base g 0 0x12E with d := d.setWidth 8, a := a.setWidth 8, b := b.setWidth 8 }
  | .qxor g d a b => some { Raw.base g 0 0x12F with d := d.setWidth 8, a := a.setWidth 8, b := b.setWidth 8 }
  | .qnot g d a => some { Raw.base g 0 0x130 with d := d.setWidth 8, a := a.setWidth 8 }
  | .qpop g d a => some { Raw.base g 0 0x131 with d := d.byte, a := a.setWidth 8 }
  | .qmovToQ g d a => some { Raw.base g 0 0x132 with d := d.setWidth 8, a := a.byte }
  | .qmovToG g d a => some { Raw.base g 0 0x132 with d := d.byte, a := a.setWidth 8, fn := BitVec.ofNat 23 (1) }
  | .vld g d m dc ty gm => some { Raw.base g 1 0x140 with d := d.setWidth 8, a := m.base.byte, b := m.off.byte, i := m.off.bit, fn := m.off.fn, fm := BitVec.ofNat 24 (dc.code + ty.code * 8 + maskCode gm * 512) }
  | .vst g d m dc ty gm => some { Raw.base g 1 0x141 with d := d.setWidth 8, a := m.base.byte, b := m.off.byte, i := m.off.bit, fn := m.off.fn, fm := BitVec.ofNat 24 (dc.code + ty.code * 8 + maskCode gm * 512) }
  | .vldx g d m dc ty gm => some { Raw.base g 1 0x142 with d := d.setWidth 8, a := m.base.byte, b := m.idx.setWidth 8, fn := BitVec.ofNat 23 (m.s.toNat), fm := BitVec.ofNat 24 (dc.code + ty.code * 8 + maskCode gm * 512) }
  | .vstx g d m dc ty gm => some { Raw.base g 1 0x143 with d := d.setWidth 8, a := m.base.byte, b := m.idx.setWidth 8, fn := BitVec.ofNat 23 (m.s.toNat), fm := BitVec.ofNat 24 (dc.code + ty.code * 8 + maskCode gm * 512) }
  | .vldc g d m c dc ty gm => some { Raw.base g 1 0x144 with d := d.setWidth 8, c := c.byte, a := m.base.byte, b := m.off.byte, i := m.off.bit, fn := m.off.fn, fm := BitVec.ofNat 24 (dc.code + ty.code * 8 + maskCode gm * 512) }
  | .vstc g d m c dc ty gm => some { Raw.base g 1 0x145 with d := d.setWidth 8, c := c.byte, a := m.base.byte, b := m.off.byte, i := m.off.bit, fn := m.off.fn, fm := BitVec.ofNat 24 (dc.code + ty.code * 8 + maskCode gm * 512) }
  | .vshuf g d a b c gm => some { Raw.base g 1 0x146 with d := d.setWidth 8, a := a.setWidth 8, b := b.setWidth 8, c := c.setWidth 8, fm := BitVec.ofNat 24 (maskCode gm * 512) }
  | .vbcast g d a dc gm => some { Raw.base g 0 0x147 with d := d.setWidth 8, a := a.byte, fn := BitVec.ofNat 23 (dc.code + maskCode gm * 8) }
  | .vext g d a b dc => some { Raw.base g 0 0x148 with d := d.byte, a := a.setWidth 8, b := b.byte, fn := BitVec.ofNat 23 (dc.code) }
  | .vins g d a b dc => some { Raw.base g 0 0x149 with d := d.setWidth 8, a := a.byte, b := b.byte, fn := BitVec.ofNat 23 (dc.code) }
  | .viota g d a b gm => some { Raw.base g 0 0x14A with d := d.setWidth 8, a := a.byte, b := b.byte, fn := BitVec.ofNat 23 (maskCode gm * 8) }
  | .vmov g d a gm => some { Raw.base g 0 0x14B with d := d.setWidth 8, a := a.setWidth 8, fn := BitVec.ofNat 23 (maskCode gm * 8) }
  | .mma g d a b c e f bg ag kk => some { Raw.base g 2 0x160 with d := d.setWidth 8, a := a.byte, b := b.byte, c := c.byte, e := e.byte, fn := BitVec.ofNat 23 (f.code + bg.toNat * 8192 + ag.toNat * 4096 + kk.toNat * 4) }
  | .mmaq g d a b c e f bg ag kk => some { Raw.base g 2 0x161 with d := d.setWidth 8, a := a.byte, b := b.byte, c := c.byte, e := e.byte, fn := BitVec.ofNat 23 (f.code + bg.toNat * 8192 + ag.toNat * 4096 + kk.toNat * 4) }
  | .mzero g d => some { Raw.base g 0 0x162 with d := d.setWidth 8 }
  | .mld g d a b c dc pl => some { Raw.base g 1 0x163 with d := d.setWidth 8, a := a.byte, b := b.byte, c := c.byte, fm := BitVec.ofNat 24 (dc.code + pl.toNat * 8) }
  | .mst g d a b c dc pl => some { Raw.base g 1 0x164 with d := d.setWidth 8, a := a.byte, b := b.byte, c := c.byte, fm := BitVec.ofNat 24 (dc.code + pl.toNat * 8) }
  | .mcommit g d fill => some { Raw.base g 0 0x165 with d := d.byte, fn := BitVec.ofNat 23 (fill.toNat) }
  | .mwait g a => some { Raw.base g 0 0x166 with a := a.byte }
  | .mtest g d => some { Raw.base g 0 0x167 with d := d.byte }
  | .vfroma g d a b sl => some { Raw.base g 0 0x168 with d := d.setWidth 8, a := a.setWidth 8, b := b.byte, fn := BitVec.ofNat 23 (sl.code) }
  | .vtoa g d a b sl => some { Raw.base g 0 0x169 with d := d.setWidth 8, a := a.setWidth 8, b := b.byte, fn := BitVec.ofNat 23 (sl.code) }
  | .mscale g d a b => some { Raw.base g 0 0x16A with d := d.setWidth 8, a := a.byte, b := b.byte, i := b.bit, fn := b.fn }
  | .smxa g d a b c e f fs => some { Raw.base g 2 0x180 with d := d.setWidth 8, a := a.setWidth 8, b := b.byte, c := c.byte, e := e.byte, fn := BitVec.ofNat 23 (f.code + fs.toNat * 4) }
  | .smxfin g d b rst => some { Raw.base g 1 0x181 with d := d.setWidth 8, b := b.byte, i := b.bit, fn := b.fn, fm := BitVec.ofNat 24 (rst.toNat) }
  | .smxmerge g d a b => some { Raw.base g 0 0x182 with d := d.setWidth 8, a := a.setWidth 8, b := b.byte, i := b.bit, fn := b.fn }
  | .smxld g d a b c pl => some { Raw.base g 1 0x183 with d := d.setWidth 8, a := a.byte, c := c.byte, b := b.byte, i := b.bit, fn := b.fn, fm := BitVec.ofNat 24 (pl.toNat) }
  | .smxst g d a b c pl => some { Raw.base g 1 0x184 with d := d.setWidth 8, a := a.byte, c := c.byte, b := b.byte, i := b.bit, fn := b.fn, fm := BitVec.ofNat 24 (pl.toNat) }
  | .smxinit g d b => some { Raw.base g 0 0x185 with d := d.setWidth 8, b := b.byte, i := b.bit, fn := b.fn }
  | .copyq g a b c e => some { Raw.base g 2 0x1A0 with a := a.byte, b := b.byte, c := c.byte, e := e.byte }
  | .copyqt g d a b c e => some { Raw.base g 2 0x1A1 with d := d.byte, a := a.byte, b := b.byte, c := c.byte, e := e.byte }
  | .copys g d a => some { Raw.base g 0 0x1A2 with d := d.byte, a := a.byte }
  | .copyk g d a => some { Raw.base g 0 0x1A3 with d := d.byte, a := a.byte }
  | .xfence g => some (Raw.base g 0 0x1A4)
  | .signal g a b c => some { Raw.base g 1 0x1C0 with a := a.byte, b := b.byte, c := c.byte }
  | .lease g d a b warn => some { Raw.base g 0 0x1C1 with d := d.byte, a := a.byte, b := b.byte, fn := BitVec.ofNat 23 (warn.toNat) }
  | .renew g d a b => some { Raw.base g 0 0x1C2 with d := d.byte, a := a.byte, b := b.byte }
  | .unlease g d a drop => some { Raw.base g 0 0x1C3 with d := d.byte, a := a.byte, fn := BitVec.ofNat 23 (drop.toNat) }
  | .roleq g d a => some { Raw.base g 0 0x1C4 with d := d.byte, a := a.byte }
  | .rolereq g d a b => some { Raw.base g 0 0x1C5 with d := d.byte, a := a.byte, b := b.byte }
  | .noteack g a => some { Raw.base g 0 0x1C6 with a := a.byte }
  | .couch g d a ev => some { Raw.base g 0 0x1C7 with d := d.byte, a := a.byte, fn := BitVec.ofNat 23 (ev.toNat) }
  | .couchs g d a => some { Raw.base g 0 0x1C8 with d := d.byte, a := a.byte }
  | .svc g imm => some { Raw.base g 0 0x1E0 with i := 1, fn := imm }
  | .brk g imm => some { Raw.base g 0 0x1E1 with i := 1, fn := imm }
  | .tret g => some (Raw.base g 0 0x1E2)
  | .csrr g d num => some { Raw.base g 0 0x1E3 with d := d.byte, fn := BitVec.ofNat 23 (num.toNat) }
  | .csrw g d a num => some { Raw.base g 0 0x1E4 with d := d.byte, a := a.byte, fn := BitVec.ofNat 23 (num.toNat) }
  | .csrs g d a num => some { Raw.base g 0 0x1E5 with d := d.byte, a := a.byte, fn := BitVec.ofNat 23 (num.toNat) }
  | .csrc g d a num => some { Raw.base g 0 0x1E6 with d := d.byte, a := a.byte, fn := BitVec.ofNat 23 (num.toNat) }
  | .tbw g a b c t => some { Raw.base g 1 0x1E7 with a := a.byte, b := b.byte, c := c.byte, fm := BitVec.ofNat 24 (t.code) }
  | .tbi g a b t all => some { Raw.base g 0 0x1E8 with a := a.byte, b := b.byte, fn := BitVec.ofNat 23 (t.code + all.toNat * 4) }
  | .tbp g d a b t => some { Raw.base g 0 0x1E9 with d := d.byte, a := a.byte, b := b.byte, fn := BitVec.ofNat 23 (t.code) }
  | .scfgr g d a idx => some { Raw.base g 0 0x1EA with d := d.byte, a := a.byte, fn := BitVec.ofNat 23 (idx.toNat) }
  | .scfgw g a b idx => some { Raw.base g 0 0x1EB with a := a.byte, b := b.byte, fn := BitVec.ofNat 23 (idx.toNat) }
  | .cwbr g a c iv => some { Raw.base g 1 0x1EC with a := a.byte, c := c.byte, fm := BitVec.ofNat 24 (iv.toNat) }
  | .slinv g a c => some { Raw.base g 1 0x1ED with a := a.byte, c := c.byte }
  | .gswitch g d a b => some { Raw.base g 0 0x1EE with d := d.byte, a := a.byte, b := b.byte }
  | .ckpt g d => some { Raw.base g 0 0x1EF with d := d.byte }
  | .halt g a => some { Raw.base g 0 0x1F0 with a := a.byte }
  | .mmaStepRun _ _ => none
  | .mmaqStepRun _ _ => none
  | .mzeroRun _ => none
  | .mscaleRun _ => none
  | .mldRun _ => none
  | .mstRun _ => none
  | .smxaRun _ => none
  | .smxfinRun _ => none
  | .smxmergeRun _ => none
  | .smxldRun _ => none
  | .smxstRun _ => none
  | .smxinitRun _ => none
  | .matrixBatchComplete _ => none
  | .parkedThreadWake _ _ => none
  | .eventEntry _ _ => none
  | .enqueue _ _ => none
  | .taskCreate _ => none
  | .taskDispatch _ _ _ => none
  | .priorityRise _ _ => none
  | .taskRetire _ _ => none
  | .completionMessage _ => none
  | .levellingStep _ => none
  | .levellingReceive _ _ => none
  | .tileSpaceArrival _ => none
  | .gangCacheHomeApply _ => none
  | .sliceWriteApply _ => none
  | .sliceRead _ => none
  | .sliceAtomic _ => none
  | .stackReadReturn _ _ => none
  | .stackWriteAck _ _ => none
  | .dieViewDelivery _ _ => none
  | .copyTransferStart _ => none
  | .copyTransferComplete _ => none
  | .domainMessageArrival _ => none
  | .remoteAck _ _ => none
  | .remoteRefusal _ _ => none
  | .signalFillArrival _ => none
  | .reductionFlitArrival _ => none
  | .collectiveComplete _ _ => none
  | .censusPoint _ => none
  | .roleChange _ _ => none
  | .routingDrainComplete _ _ => none
  | .reseatFlip _ _ => none
  | .roleWritebackComplete _ _ => none
  | .leaseExpiring _ _ => none
  | .leaseExpired _ _ => none
  | .gangSwitchStop _ _ => none
  | .gangResume _ _ _ => none
  | .checkpointCapture _ => none
  | .faultDetected _ => none
  | .rollback _ => none
  | .partitionReset _ => none
  | .functionLevelReset _ => none
  | .partitionResize _ _ _ _ _ => none
  | .resizeDeadline _ => none
  | .heldContextEnd _ _ => none
  | .heldContextStart _ _ => none
  | .watchdog _ _ => none
  | .couchDrainStep _ => none
  | .splitWrite _ => none
  | .deckleWrite _ _ _ => none
  | .dbgctlWrite _ _ _ => none
  | .registerWrite _ _ => none
  | .sholdHold _ => none
  | .sholdRelease _ => none
  | .dswitchArm _ _ _ => none
  | .domainSwitch _ => none
  | .domainSwitchComplete _ => none
  | .crbaseWrite _ _ => none
  | .crsizeWrite _ _ => none
  | .crheadWrite _ _ => none
  | .modctlGo _ _ _ => none
  | .pwrcapWrite _ => none
  | .devnumsetWrite _ => none
  | .rbdataWrite _ => none
  | .hostMemoryAccess _ _ _ => none
  | .hostAtomic _ _ _ => none
  | .getVersion _ => none
  | .getCapabilities _ => none
  | .negotiateAlgorithms _ => none
  | .getDigests _ => none
  | .getCertificate _ => none
  | .challenge _ => none
  | .getMeasurements _ => none
  | .powerOn _ _ => none
  | .flitCrcError _ => none
  | .tileStoreScrub _ => none
  | .sliceScrub _ => none
  | .stackScrub _ => none
  | .progressTimeout _ => none
  | .dutyCycling _ => none
  | .gtimeToleranceChange _ _ => none

/-- The bits of an instruction (R35), where it has a word. -/
def encodeWord (i : Instr) : Option Nat :=
  match i with
  | .padWord => some 3
  | i => i.toRaw.map Raw.toWord

/-- Size in bytes of an instruction (R36), where it has a word. -/
def Instr.size (i : Instr) : Option Nat :=
  match i with
  | .padWord => some 4
  | i => i.toRaw.map fun r => sizeOf r.len.toNat

/-- The bytes of an instruction, first word first, each word little-endian. -/
def encode (i : Instr) : Option (List Byte) :=
  match encodeWord i, i.size with
  | some w, some n => some (leBytes n w)
  | _, _ => none

end Sys2Proof
end

