-- ==== Sys2Proof/Machine/State.lean ====
section
/-!
DEFINITION. The state of the ZV-2 as plain data: contexts, tiles and Atelier cores, cache slices, memory stacks, dies, partitions, and
the messages between them; what can stop a step; and the state after reset. INVENTORY.md lists every field with its rule.
-/

namespace Sys2Proof.Machine

/-! ### Memory (R3) -/

/-- A memory as byte cells: addresses strictly rising, no cell equal to 0x00, which is what an unlisted byte reads as (R363; DESIGN CHOICE, log 15). -/
abbrev Mem := List Host.Cell

/-- Addresses above `lo` rise strictly and no cell holds 0x00. -/
def Mem.wfFrom (lo : Nat) : Mem → Bool
  | [] => true
  | (a, b) :: m => decide (lo ≤ a) && b != 0 && Mem.wfFrom (a + 1) m

/-- The canonical form. -/
def Mem.wf (m : Mem) : Bool := Mem.wfFrom 0 m

/-! ### Registers -/

/-- A g or s register with its full/empty bit (R29). -/
structure GVal where
  val : Word
  full : Bool
  deriving DecidableEq, Repr, Inhabited

/-- An f register: value, stored count, full/empty bit (R141, R155). -/
structure FVal where
  val : Word
  cnt : Nat
  full : Bool
  deriving DecidableEq, Repr, Inhabited

/-- A v register: 32 lanes and one count byte per lane (R172). -/
structure VVal where
  lanes : List (BitVec 32)
  cnts : List Byte
  deriving DecidableEq, Repr, Inhabited

/-- An FP32 value with its count, as an accumulator holds it (R197). -/
structure FC where
  v : BitVec 32
  c : Nat
  deriving DecidableEq, Repr, Inhabited

/-- A row of an accumulator: 32 elements, running maximum m, running denominator l (R197). -/
structure AccRow where
  els : List FC
  m : FC
  l : FC
  deriving DecidableEq, Repr, Inhabited

/-- An accumulator: 32 rows and the row-status word (R197), and the bits of that word that something has written since dispatch (the
model's own; R236, log 79). -/
structure Acc where
  rows : List AccRow
  st : BitVec 32
  known : BitVec 32
  deriving DecidableEq, Repr, Inhabited

/-! ### A context (R83, R252, R256) -/

/-- States of a context (R83). -/
inductive CtxState where
  | free | running | ended | held
  deriving DecidableEq, Repr, Inhabited

/-- Trap levels (R247). -/
inductive Level where
  | l0 | l1 | l2
  deriving DecidableEq, Repr, Inhabited

/-- A pending event (R249): cause, TVAL, TSTAT, the entry of COPY_DONE, the transfer's identifier and status (R281). -/
structure Ev where
  code : Nat
  tval : Word
  tstat : Word
  entry : Option Word
  xfer : Option (Word × Word)
  deriving DecidableEq, Repr, Inhabited

/-- What a modifier needs of a register (R29, R30): full, empty, or no plain write pending. -/
inductive Need where
  | full | empty | landed
  deriving DecidableEq, Repr, Inhabited

/-- One modifier condition: register class (f or g), number, need. -/
structure ModCond where
  isF : Bool
  num : Nat
  need : Need
  deriving DecidableEq, Repr, Inhabited

/-- The two kinds of barrier generation (R89). -/
inductive BarKind where
  | gang | tile
  deriving DecidableEq, Repr, Inhabited

/-- What a parked thread waits for (R28). -/
inductive Wait where
  | mods (cs : List ModCond)
  | stores (wide : Bool) (mark : Nat)
  | writes (mark : Nat)
  | remote
  | reply (id : Nat)
  | gone (ids : List Nat)
  | line (core line : Nat)
  | batch (n : Nat)
  | barrier (k : BarKind) (gen : Nat)
  | ended (ctx : Nat)
  | others
  | fifo
  | split
  | ckpt (n : Nat)
  | lookup (role : Nat)
  | deckle (part w : Nat)
  | delivered (mark : Nat)
  | acks (gs : List (Nat × Nat))
  | served
  deriving DecidableEq, Repr, Inhabited

/-- A parked instruction (R28): the instruction, its condition, since when, and whether it has been woken. -/
structure Parked where
  i : Instr
  w : Wait
  since : Nat
  awake : Bool
  deriving DecidableEq, Repr

/-- A translation-buffer entry (R243): page address, entry word, and whether the page is the firmware's own (R346). -/
structure TbEntry where
  va : Nat
  word : Word
  fw : Bool
  deriving DecidableEq, Repr, Inhabited

/-- A copy command (R276, R277): issuer, the four words, handler and index-list addresses, translations held (R243), the mode it was
issued in, the writes an XFENCE marked (R268), whether it has started, the bytes or elements done, the bytes read and not yet written and
where the poisoned ones lie among them, the entry that the element under way was checked with (R243, R279), where the
first poisoned byte of the transfer lies, the tiles whose SPLIT changes it does not heed (R100), whether COPYK has named it (R282), and
the status once the transfer has ended. -/
structure CopyCmd where
  ctx : Nat
  src : Word
  dst : Word
  shape : Word
  ctl : Word
  handler : Word
  ilist : Word
  tb : List TbEntry
  sup : Bool
  marks : List Nat
  started : Bool
  done : Nat
  buf : List Byte
  bufBad : List Nat
  elem : Option (Option TbEntry)
  lookup : Option Nat
  poisonAt : Option Nat
  exempt : List Nat
  cancel : Bool
  status : Option Word
  deriving DecidableEq, Repr, Inhabited

/-- What an access does, as the checks of R96 and R117 distinguish it. -/
inductive AccKind where
  | load | store | atomic | pref | range
  deriving DecidableEq, Repr

/-- One unit of an access: kind, address, bytes, alignment. -/
structure AUnit where
  kind : AccKind
  ea : Word
  size : Nat
  align : Nat
  deriving DecidableEq, Repr

/-- Where a unit is served: under the request types through partition-physical memory; at the home slice only; in the system area; in the
firmware's memory; in the own tile store; in another gang tile's; in a storage tile's; on another device; at a role that stalls. -/
inductive At where
  | mem (part pa : Nat)
  | raw (part pa : Nat)
  | sys (part off : Nat)
  | fw (off : Nat)
  | own (off : Nat)
  | tile (core off : Nat)
  | role (core off : Nat)
  | domain (dev off : Nat)
  | stall (role off : Nat)
  deriving DecidableEq, Repr

/-- A unit with the bytes it stores. -/
abbrev Piece := AUnit × At × List Byte

/-- How far an instruction of several phases has come, from one issue to the next: step, write mark, messages sent, the addresses they
read, a kept value, a copy command that has passed its checks, the planes of a store that have passed theirs, each with the address that a
refusal on the own store names. -/
structure Phase where
  step : Nat
  mark : Nat
  ids : List Nat
  eas : List Nat
  val : Word
  copy : Option CopyCmd
  planes : List (Option Word × List Piece)
  deriving DecidableEq, Repr, Inhabited

/-- Data or an answer that has come back for a request of a context. -/
structure Reply where
  id : Nat
  data : List Byte
  poison : Bool
  code : Nat
  pos : Nat
  deriving DecidableEq, Repr, Inhabited

/-- A thread context. `retry` holds the instructions that go on from check 12 once a handler has returned to them, by trap level (R233). -/
structure Ctx where
  state : CtxState
  pc : Word
  g : Table GVal
  f : Table FVal
  p : BitVec 8
  v : Table VVal
  q : Table (BitVec 32)
  level : Level
  tcause : Word
  tval : Word
  tepc : Word
  tvec : Word
  tstat : Word
  tdeleg : Word
  fpctl : Word
  fpflags : Word
  sigmin : Word
  siglanes : Word
  xferid : Word
  xferstat : Word
  dbgctl : Word
  hcause : Word
  hval : Word
  hepc : Word
  hstat : Word
  ushadow : Table GVal
  sshadow : Table GVal
  exitWord : Word
  rfcount : Nat
  refCount : Nat
  refCode : Nat
  events : List Ev
  retry : List (Level × Word × Instr)
  park : Option Parked
  phase : Phase
  replies : List Reply
  partid : Nat
  deriving DecidableEq, Repr

/-! ### A tile or an Atelier core -/

/-- States of a tile (R315). -/
inductive TileState where
  | idle
  | bound
  | storage (role : Nat)
  | routing (role : Nat)
  | reserved
  | retired
  deriving DecidableEq, Repr, Inhabited

/-- A plain write to an s register that has not landed (R30). -/
structure SWrite where
  num : Nat
  val : Word
  land : Nat
  deriving DecidableEq, Repr, Inhabited

/-- A cache line of 64 bytes (R101): line number PA[47:6], bytes, dirty, poison, local copy of `.si` (R104). -/
structure Line where
  line : Nat
  data : List Byte
  dirty : Bool
  poison : Bool
  loc : Bool
  deriving DecidableEq, Repr, Inhabited

/-- A block of the fetch buffer (R39): block address / 32, its bytes, poisoned pieces. -/
structure FBlock where
  blk : Nat
  data : List Byte
  poison : Bool
  deriving DecidableEq, Repr, Inhabited

/-- A tile-store operand: descriptor pair, or a copied register group (R199, R203). -/
structure MatSrc where
  first : Word
  second : Word
  group : Option (List VVal)
  deriving DecidableEq, Repr, Inhabited

/-- A queue command with what it captured at issue (R204, R213). -/
inductive QOp where
  | mma (f : MmaFmt) (d : Nat) (a b : MatSrc) (k : Nat)
  | mmaq (f : QFmt) (d : Nat) (a b : MatSrc) (k : Nat)
  | mzero (d : Nat)
  | mscale (d : Nat) (s : FC) (mask : BitVec 32)
  | mld (d : Nat) (a : MatSrc) (dc : MData) (plane : Option Word)
  | mst (d : Nat) (a : MatSrc) (dc : MData) (plane : Option Word)
  | smxa (f : MmaFmt) (d s : Nat) (p : MatSrc) (sc : FC) (pos : Word)
  | smxfin (d : Nat) (mask : BitVec 32) (reset : Bool)
  | smxmerge (x y : Nat) (mask : BitVec 32)
  | smxld (d : Nat) (off : Word) (mask : BitVec 32) (plane : Option Word)
  | smxst (d : Nat) (off : Word) (mask : BitVec 32) (plane : Option Word)
  | smxinit (d : Nat) (mask : BitVec 32)
  deriving DecidableEq, Repr

/-- A command in the queue (R192, R206): operation, position, issuing context, issue cycle, batch, FPCTL at issue; the bytes it writes that
stores have hit since its issue (R205); and the stores of its thread to the tile's store that stood in the write queue at its issue, which
go first (R296). -/
structure QCmd where
  op : QOp
  pos : Nat
  ctx : Nat
  cycle : Nat
  batch : Nat
  fpctl : Word
  hits : List Nat
  after : List Nat
  deriving DecidableEq, Repr

/-- A closed batch (R206, R221) with the register MCOMMIT armed. -/
structure Batch where
  num : Nat
  fill : Option (Nat × Nat)
  deriving DecidableEq, Repr, Inhabited

/-- A report of a batch (R208, R215). -/
structure Report where
  cause : Nat
  batch : Nat
  ctx : Nat
  tval : Word
  tstat : Word
  deriving DecidableEq, Repr, Inhabited

/-- A barrier generation (R89, R90): number, arrivals as gang-wide indices, what aborted it (generation, index), and what aborted the barrier
of another tile of the gang, so that every later BAR here raises at once. -/
structure Barrier where
  gen : Nat
  arrived : List Nat
  aborted : Option (Nat × Nat)
  barred : Option (Nat × Nat)
  deriving DecidableEq, Repr, Inhabited

/-- A SPLIT change in progress (R100). -/
structure SplitChange where
  code : BitVec 2
  ctx : Nat
  marks : List Nat
  deriving DecidableEq, Repr, Inhabited

/-- A byte of a tile's store that a copy engine has written: the byte before, the engine's core, and the message number at which the transfer
completed; until a thread has acquired after that, it may read either (R269). -/
structure FreshByte where
  off : Nat
  old : Byte
  by_ : Nat
  ended : Option Nat
  deriving DecidableEq, Repr, Inhabited

/-- A tile (R25, R97 to R102) or an Atelier core (R252). `acq` is the message number at its last acquire of device scope. -/
structure Core where
  tstate : TileState
  cycle : Nat
  gangIdx : Nat
  gangSize : Nat
  taskId : Nat
  args : Word
  split : BitVec 2
  splitSeen : BitVec 2
  splitChange : Option SplitChange
  pool : Bool
  s : Table GVal
  spend : List SWrite
  store : Mem
  storePoison : List Nat
  pins : List (Nat × Nat)
  cache : List Line
  fbuf : List FBlock
  tb : List TbEntry
  tbHist : List (Nat × List TbEntry)
  wl : List Word
  wlSent : List (Nat × List Word)
  lvlNext : Nat
  acc : Table Acc
  mq : List QCmd
  mqPos : Nat
  mqOpen : Nat
  nextBatch : BitVec 32
  lastBatch : BitVec 32
  closed : List Batch
  reports : List Report
  reported : List (Nat × Nat)
  mqBusy : Nat
  fifo : List CopyCmd
  xmarks : List Nat
  fresh : List FreshByte
  acq : Nat
  bar : Barrier
  notices : List (Word × Word)
  nextNotice : Nat
  faults : Table Nat
  mcLast : Table Nat
  mcMore : Table Nat
  ctxs : Table Ctx
  deriving DecidableEq, Repr

/-! ### Messages in flight (R103, R118, R335) -/

/-- What a message asks of the place it travels to. `cacheUpdate` carries the bytes of a write-through to a line that its home portion may
hold (R104); `thru` says that the issuing die did not own the stack when the atomic issued (R108).
`farStore` asks a gang tile to check and apply the units that go there, by plane, each with its offset, its size and the address a refusal
names (R190); `farProbe` only asks for the check; `clr` says that a piece written whole loses its mark (R372). -/
inductive MKind where
  | cacheStore (home : Nat)
  | cacheRead (home n : Nat) (loc : Bool)
  | cacheUpdate (home : Nat)
  | cacheAtomic (home : Nat) (op : AtomOp) (thru : Bool)
  | unit (wb wt poison : Bool)
  | read (n : Nat)
  | fetch (home : Nat) (loc : Bool)
  | atomic (op : AtomOp)
  | tileStore (home : Nat) (ack clr : Bool)
  | farStore (home : Nat) (planes : List (List (Nat × Nat × Word))) (clr : Bool)
  | farProbe (home : Nat) (planes : List (List (Nat × Nat × Word)))
  | roleStore (role : Nat) (clr : Bool)
  | tileRead (home : Nat)
  | tileAtomic (home : Nat) (op : AtomOp)
  | fill (home ctx reg : Nat) (v : Word)
  | probe (home : Nat) (rs : List (Nat × Nat))
  deriving DecidableEq, Repr

/-- A message: number, issuing core and context, the write-queue entry it belongs to, partition, partition-physical address or
tile-store offset, stack and stack byte, the slice it travels to, its mask sequence number (R103), the bytes it writes or reads by
address, the vector clock it carries (R298), and the element number of each byte of a vector access. -/
structure Msg where
  id : Nat
  core : Nat
  ctx : Nat
  entry : Nat
  kind : MKind
  part : Nat
  addr : Nat
  stack : Nat
  sbyte : Nat
  slice : Nat
  seq : Nat
  bytes : List Host.Cell
  vec : List Nat
  deriving DecidableEq, Repr

/-- A thread wherever its gang stands: partition, TASKID, gang index and context; TASKID 0 with a core number for a core that runs no
task (R328, R331). -/
structure Agent where
  part : Nat
  task : Nat
  who : Nat
  ctx : Nat
  deriving DecidableEq, Repr, Inhabited

/-- A domain operation sent and not yet answered (R287), or an own collective flit (R388). -/
structure OutMsg where
  id : Nat
  by_ : Agent
  dev : Nat
  off : Nat
  op : DomOp
  deriving DecidableEq, Repr

/-- An operation at the message executor, in arrival order (R287, R336): one of this device's own, by its number, or one from outside. -/
inductive DomArrival where
  | own (id : Nat)
  | ext (m : DomMsg)
  deriving DecidableEq, Repr

/-- The answer to an operation from outside as it leaves the device (R132, R287): a refusal code, or an acknowledgement with the data of a
load or an atomic and their poison mark. -/
structure DomAnswer where
  to_ : DomMsg
  refusal : Option Nat
  data : List Byte
  poison : Bool
  deriving DecidableEq, Repr

/-! ### Slices, stacks, dies -/

/-- A granule tag (R364): set, way, partition-physical granule address, stack byte of the granule, presence, dirty and poison maps,
the bytes of the present pieces, and when it was last used. -/
structure Tag where
  set : Nat
  way : Nat
  gran : Nat
  base : Nat
  pres : BitVec 32
  dirty : BitVec 32
  poison : BitVec 32
  data : Table (List Byte)
  used : Nat
  deriving DecidableEq, Repr, Inhabited

/-- A cache slice (R348, R364 to R367). A filter entry is a stack granule and whether a sweep wrote it. -/
structure Slice where
  hold : Bool
  queue : List Msg
  replay : Nat
  bypass : Nat
  tagset : Nat
  tagway : Nat
  tags : List Tag
  mshrs : List Msg
  filter : List (Nat × Bool)
  deriving DecidableEq, Repr

/-- A map of an interleave domain (R348): the two half-stack bytes, the four rows, the sequence number. -/
structure DMap where
  map : BitVec 16
  rows : List (BitVec 37)
  seq : Nat
  deriving DecidableEq, Repr, Inhabited

/-- A couch drain (R341): step 1 to 7, who waits, the register to fill or the event, the first message number that is held, the writes
of step 2 or step 3 that must be applied. -/
structure Couch where
  step : Nat
  by_ : Agent
  reg : Option Nat
  start : Nat
  marks : List Nat
  deriving DecidableEq, Repr, Inhabited

/-- A memory stack (R340, R348, R366). `req` is the map requesters use, `inForce` the slices'; `dmap` is what DMAP and DROW show. -/
structure Stack where
  own : Bool
  route : Bool
  couch : Option Couch
  dmap : DMap
  req : DMap
  inForce : DMap
  nmap : BitVec 20
  nrows : List (BitVec 37)
  dswitch : Word
  armed : Option DMap
  switching : Bool
  swept : Nat
  mem : Mem
  poison : List Nat
  deriving DecidableEq, Repr

/-- A piece in a die's view (R297): stack, piece number, bytes, poison, its place in the home order. -/
structure ViewPiece where
  stack : Nat
  piece : Nat
  data : List Byte
  poison : Bool
  order : Nat
  deriving DecidableEq, Repr, Inhabited

/-- A stamped unit or reply on its way to a die (R298): a reply names the request it answers, a unit the write it came from. -/
structure DieUnit where
  sender : Nat
  vec : List Nat
  piece : ViewPiece
  reply : Option Msg
  writer : Option Msg
  deriving DecidableEq, Repr

/-- A die: vector clock, view, units to be delivered (R297, R298). -/
structure Die where
  clock : List Nat
  view : List ViewPiece
  inbox : List DieUnit
  waiting : List (Nat × Ev)
  deriving DecidableEq, Repr

/-! ### Tasks, roles, partitions -/

/-- A footprint region (R17): mode bits, place flag, base, length in 64-byte units, tile-store offset in units. -/
structure Foot where
  mode : Nat
  place : Bool
  base : Nat
  len : Nat
  off : Nat
  deriving DecidableEq, Repr, Inhabited

/-- A variant (R16): gang size, entry PC, size bound. -/
structure Variant where
  gang : Nat
  entry : Word
  bound : Nat
  deriving DecidableEq, Repr, Inhabited

/-- A checked task record (R16). -/
structure TaskRec where
  variants : List Variant
  threads : Nat
  prio : Nat
  pool : Bool
  sizePtr : Nat
  args : Word
  target : Nat
  foots : List Foot
  deriving DecidableEq, Repr, Inhabited

/-- Where a task of the window stands (R22, R24, R328). -/
inductive TaskPhase where
  | waiting | ready | running | saved
  deriving DecidableEq, Repr, Inhabited

/-- A task in the window (R19 to R26): TASKID, record, phase, dependences, priority level, since when it waits at that level, chosen
variant, gang tiles in order of gang index, gang barrier, scheduled switch tick, saved tiles (R329), the release vectors of the tasks
it depended on (R302), whether a poisoned command went unreported (R26), whether it was restored by a rollback (R380), and the requests of
its tiles that a capture found on their way, with the tiles they named (R377, R378). -/
structure Task where
  id : Nat
  record : TaskRec
  phase : TaskPhase
  deps : List Nat
  level : Nat
  since : Nat
  variant : Nat
  tiles : List Nat
  gbar : Barrier
  switchAt : Option Nat
  saved : List Core
  stopped : Nat
  place : List (Nat × Nat × Nat × Bool)
  vec : List Nat
  lost : Bool
  rolled : Bool
  flits : List Msg
  was : List Nat
  placed : Nat
  deriving DecidableEq, Repr

/-- A recorded ROLEREQ (R308). -/
structure RoleReq where
  kind : Nat
  target : Nat
  point : Nat
  deriving DecidableEq, Repr, Inhabited

/-- An entry of the role map (R316): kind, tile, backing, holding task, lease (expiry, whether it runs, warning wanted, warning
given, leaser), request, refusals, notice posted and change incomplete. -/
structure Role where
  num : Nat
  storage : Bool
  tile : Option Nat
  backing : Option Nat
  holder : Option Nat
  expiry : Option Nat
  warn : Bool
  warned : Bool
  leaser : Agent
  req : Option RoleReq
  refusals : Nat
  changing : Bool
  stalled : Bool
  deriving DecidableEq, Repr, Inhabited

/-- What becomes of a tile or role at a change (R322, R325, R308); `absent` is that of an offered role which no tile carries. -/
inductive ChangeKind where
  | idleToIdle
  | absent (role : Nat)
  | idleToRouting (role : Nat)
  | idleToStorage (role : Nat)
  | leaveStorage (role : Nat) (dest : Option Nat) (next : TileState)
  | leaveRouting (role : Nat) (next : TileState)
  deriving DecidableEq, Repr, Inhabited

/-- A change accepted at a census point (R321): tile, kind, tick, whether it has begun, and the message number at which its write-back
was complete at the slices (R326). -/
structure Change where
  tile : Nat
  kind : ChangeKind
  tick : Nat
  begun : Bool
  mark : Option Nat
  pos : Nat
  deriving DecidableEq, Repr, Inhabited

/-- A reservation made by ROLEREQ kind 2 (R308). -/
structure Reserve where
  tile : Nat
  role : Nat
  task : Nat
  deriving DecidableEq, Repr, Inhabited

/-- A fill, signal or event held for a gang that is switched out (R331). -/
structure HeldFill where
  to_ : Agent
  reg : Option Nat
  val : Word
  ev : Option Ev
  sig : Bool
  deriving DecidableEq, Repr, Inhabited

/-- An entry of the undo log (R378). -/
structure Undo where
  addr : Word
  seg : Nat
  stack : Nat
  sbyte : Nat
  role : Option Nat
  old : List Byte
  poison : Bool
  deriving DecidableEq, Repr, Inhabited

/-- The state a checkpoint captured (R377), its number and tick, and the message number at which it was taken. -/
structure Ckpt where
  num : Nat
  tick : Nat
  window : List Task
  enq : List Word
  dset : List TbEntry
  roles : List Role
  censusctl : Word
  censusNext : Word
  nextTask : BitVec 32
  held : List HeldFill
  mark : Nat
  deriving DecidableEq, Repr

/-- A resize that has begun (R362). -/
structure Resize where
  dst : Nat
  bands : BitVec 32
  halves : BitVec 16
  deadline : Nat
  deriving DecidableEq, Repr, Inhabited

/-- A partition (R355 to R359, R383). `sysPoison` holds the marked pieces of the system area `sys` (R359, R372). -/
structure Part where
  present : Bool
  bands : BitVec 32
  halves : BitVec 16
  share : Nat
  ports : BitVec 32
  link : Nat
  deckle : Table Word
  svcvec : Word
  stackright : BitVec 8
  ckptctl : Word
  ckptNext : Word
  censusctl : Word
  censusNext : Word
  tdeleg : Word
  enq : List Word
  window : List Task
  nextTask : BitVec 32
  reports : List Word
  released : Nat
  crbase : Word
  crsize : Word
  crtail : Word
  crhead : Word
  crdrop : Word
  inReset : Bool
  inRollback : Bool
  stopped : Bool
  dset : List TbEntry
  roles : List Role
  changes : List Change
  reserves : List Reserve
  sys : Mem
  sysPoison : List Nat
  held : List HeldFill
  lastCensus : Nat
  undo : List Undo
  ckpt : Option Ckpt
  ckptWanted : Bool
  capture : Option Nat
  enqLog : List Word
  queueWait : Nat
  storeWait : Nat
  resize : Option Resize
  exportBase : Nat
  exportLen : Nat
  exportPa : Nat
  collective : Table Nat
  meas : Table (List Byte)
  deriving DecidableEq, Repr

/-- A collective element in progress (R327, R388): group, offset, value, flits counted, issuers waiting for the acknowledgement. -/
structure Collective where
  group : Nat
  elem : Nat
  op : AtomOp
  count : Nat
  issuers : List Agent
  deriving DecidableEq, Repr

/-! ### The device -/

/-- The state of the device. `executor` holds the operations that the message executor has not completed, `answers` what has left for other
devices, `partials` the reduction flits that routing tiles hold for combining, each with its tile (R327). -/
structure State where
  agenda : List Turn
  freeCtr : Nat
  cur : Nat × Nat
  msgCtr : Nat
  net : List Msg
  outbox : List OutMsg
  executor : List DomArrival
  answers : List DomAnswer
  gtime : Word
  pkgSync : Bool
  domSync : Bool
  devnum : BitVec 14
  portsTrained : Bool
  booted : Bool
  recovery : Bool
  fenceSc : Nat
  modaddr : Word
  modctl : Word
  modstat : Word
  modMeas : List Byte
  pwrcap : Word
  devnumset : Word
  rbsel : Word
  duty : Nat
  fwMem : Mem
  doe : List (Nat × Nat × List Byte)
  linkRetries : Table Nat
  linkFailed : List Nat
  hostMem : Mem
  hostReply : List (List Byte)
  hostRest : Option (Nat × Nat × List Byte)
  msix : List Nat
  groups : Table Nat
  collectives : List Collective
  partials : List (Nat × Collective)
  memStacks : Table Stack
  slices : Table Slice
  dies : Table Die
  parts : Table Part
  cores : Table Core
  deriving DecidableEq, Repr

/-! ### What can stop a step -/

/-- Reasons a step stops. -/
inductive Fault where
  /-- Raised by `step` for an issue turn of a core number above those of R25 and R252: no such core exists. Safe: the device never
  takes such a turn. -/
  | noSuchCore (core : Nat)
  deriving DecidableEq, Repr

/-- Reasons an instruction is refused. -/
inductive Refusal where
  /-- Raised by a dispatch arm whose instruction has no meaning yet. Safe: the model stops. -/
  | notModelled (mnemonic : String)
  /-- Raised by `step` when an event turn names an instruction of a thread, which is no agent's step. Safe: the device never takes
  such a turn. -/
  | notAnEvent
  deriving DecidableEq, Repr

/-- Outcome of a step. -/
abbrev Outcome := Host.Outcome State Fault Refusal

/-! ### Reset -/

/-- TDELEG at partition reset (R246). -/
def tdelegReset : Word := 0xF180000000878310
/-- CENSUSCTL at partition reset (R318): enable 1, limit 16, lead 20, interval 250. -/
def censusReset : Word := 0x00000110001400FA
/-- CKPTCTL at partition reset (R376): number 1, watchdog 100 ms, rollback enabled, interval 10 ms. -/
def ckptReset : Word := 0x000000016400010A

/-- A full register of zero: s registers at dispatch (R24); the others at reset (DESIGN CHOICE, log 20). -/
def GVal.zero : GVal := ⟨0, true⟩
/-- An f register at reset (DESIGN CHOICE, log 20). -/
def FVal.zero : FVal := ⟨0, 0, true⟩
/-- A v register at reset (DESIGN CHOICE, log 20). -/
def VVal.zero : VVal := ⟨List.replicate 32 0, List.replicate 32 0⟩
/-- An accumulator at reset (DESIGN CHOICE, log 19). -/
def Acc.zero : Acc := ⟨List.replicate 32 ⟨List.replicate 32 ⟨0, 0⟩, ⟨0, 0⟩, ⟨0, 0⟩⟩, 0, 0⟩
/-- No phase. -/
def Phase.none : Phase := ⟨0, 0, [], [], 0, .none, []⟩

/-- A context at reset (R83, R246, R250, R258; DESIGN CHOICE, log 20). -/
def Ctx.reset : Ctx where
  state := .free
  pc := 0
  g := []
  f := []
  p := 0
  v := []
  q := []
  level := .l0
  tcause := 0
  tval := 0
  tepc := 0
  tvec := 0
  tstat := 0
  tdeleg := tdelegReset
  fpctl := 0
  fpflags := 0
  sigmin := 0
  siglanes := 0
  xferid := 0
  xferstat := 0
  dbgctl := 0
  hcause := 0
  hval := 0
  hepc := 0
  hstat := 0
  ushadow := []
  sshadow := []
  exitWord := 0
  rfcount := 0
  refCount := 0
  refCode := 0
  events := []
  retry := []
  park := .none
  phase := .none
  replies := []
  partid := 0

/-- A barrier at dispatch (R89). -/
def Barrier.reset : Barrier := ⟨0, [], none, none⟩

/-- A core at reset (R11, R24, R31, R192, R206, R312, R363; DESIGN CHOICE, log 18). -/
def Core.reset : Core where
  tstate := .idle
  cycle := 0
  gangIdx := 0
  gangSize := 0
  taskId := 0
  args := 0
  split := 1
  splitSeen := 1
  splitChange := none
  pool := false
  s := []
  spend := []
  store := []
  storePoison := []
  pins := []
  cache := []
  fbuf := []
  tb := []
  tbHist := []
  wl := []
  wlSent := []
  lvlNext := 4096
  acc := []
  mq := []
  mqPos := 0
  mqOpen := 0
  nextBatch := 1
  lastBatch := 0
  closed := []
  reports := []
  reported := []
  mqBusy := 0
  fifo := []
  xmarks := []
  fresh := []
  acq := 0
  bar := .reset
  notices := []
  nextNotice := 1
  faults := []
  mcLast := []
  mcMore := []
  ctxs := []

/-- A slice at reset (R348, R363, R367; DESIGN CHOICE, log 14). -/
def Slice.reset : Slice := ⟨false, [], 0, 0, 0, 0, [], [], []⟩

/-- The launch map of R348 (DESIGN CHOICE, log 14). -/
def DMap.launch : DMap := ⟨0x4040, [0x1, 0x2, 0x4, 0x1800000], 0⟩

/-- A stack at reset (R348, R368; DESIGN CHOICE, log 14, log 15). -/
def Stack.reset : Stack where
  own := false
  route := false
  couch := none
  dmap := .launch
  req := .launch
  inForce := .launch
  nmap := 0
  nrows := [0, 0, 0, 0]
  dswitch := 0x8000000000000000
  armed := none
  switching := false
  swept := 0
  mem := []
  poison := []

/-- A die at reset (DESIGN CHOICE, log 11). -/
def Die.reset : Die := ⟨[0, 0, 0, 0], [], [], []⟩

/-- A partition number that the layout has not built, and the reset values a built one starts from (R318, R363, R376, R383). -/
def Part.reset : Part where
  present := false
  bands := 0
  halves := 0
  share := 0
  ports := 0
  link := 0
  deckle := []
  svcvec := 0
  stackright := 0
  ckptctl := ckptReset
  ckptNext := ckptReset
  censusctl := censusReset
  censusNext := censusReset
  tdeleg := tdelegReset
  enq := []
  window := []
  nextTask := 1
  reports := []
  released := 0
  crbase := 0
  crsize := 0
  crtail := 0
  crhead := 0
  crdrop := 0
  inReset := false
  inRollback := false
  stopped := false
  dset := []
  roles := []
  changes := []
  reserves := []
  sys := []
  sysPoison := []
  held := []
  lastCensus := 0
  undo := []
  ckpt := none
  ckptWanted := false
  capture := none
  enqLog := []
  queueWait := 0
  storeWait := 0
  resize := none
  exportBase := 0
  exportLen := 0
  exportPa := 0
  collective := []
  meas := []

/-- The device after power is applied and before its boot step (R390): every table empty means every tile, slice, stack, die and
partition at its own reset value. -/
def State.reset : State where
  agenda := []
  freeCtr := 0
  cur := (0, 0)
  msgCtr := 0
  net := []
  outbox := []
  executor := []
  answers := []
  gtime := 0
  pkgSync := true
  domSync := true
  devnum := 0
  portsTrained := false
  booted := false
  recovery := false
  fenceSc := 0
  modaddr := 0
  modctl := 0
  modstat := 0
  modMeas := []
  pwrcap := 3800
  devnumset := 0
  rbsel := 0
  duty := 16
  fwMem := []
  doe := []
  linkRetries := []
  linkFailed := []
  hostMem := []
  hostReply := []
  hostRest := none
  msix := []
  groups := []
  collectives := []
  partials := []
  memStacks := []
  slices := []
  dies := []
  parts := []
  cores := []

end Sys2Proof.Machine
end

