-- ==== Sys2Proof/Machine/Bits.lean ====
section
/-!
DEFINITION. The helpers every other file uses: tables by number, memory in its canonical form, bytes and words, bit fields.
-/

namespace Sys2Proof.Machine

/-! ### Tables by number -/

/-- The value at a key, or the default of an absent key. -/
def tget {α : Type} (d : α) : Table α → Nat → α
  | [], _ => d
  | (j, x) :: t, k => if j = k then x else tget d t k

/-- The table with a key set; keys keep rising. -/
def tput {α : Type} : Table α → Nat → α → Table α
  | [], k, x => [(k, x)]
  | (j, y) :: t, k, x => if j = k then (k, x) :: t else if k < j then (k, x) :: (j, y) :: t else (j, y) :: tput t k x

/-- Applies a function to the value at a key. -/
def tmod {α : Type} (d : α) (t : Table α) (k : Nat) (f : α → α) : Table α := tput t k (f (tget d t k))

/-- The first entry of a list that satisfies a test. -/
def firstIdx {α : Type} (p : α → Bool) : List α → Option Nat
  | [] => none
  | x :: xs => if p x then some 0 else (firstIdx p xs).map (· + 1)

/-- The list without its k-th entry. -/
def dropAt {α : Type} : List α → Nat → List α
  | [], _ => []
  | _ :: xs, 0 => xs
  | x :: xs, k + 1 => x :: dropAt xs k

/-- The list with its k-th entry replaced. -/
def setAt {α : Type} : List α → Nat → α → List α
  | [], _, _ => []
  | _ :: xs, 0, y => y :: xs
  | x :: xs, k + 1, y => x :: setAt xs k y

/-- The k-th entry, or a default. -/
def nth {α : Type} (d : α) : List α → Nat → α
  | [], _ => d
  | x :: _, 0 => x
  | _ :: xs, k + 1 => nth d xs k

/-- f applied to every number 0 to n − 1, in order. -/
def tabulate {α : Type} (n : Nat) (f : Nat → α) : List α := (List.range n).map f

/-- Inserts by rising key. -/
def insertBy {α : Type} (key : α → Nat) (x : α) : List α → List α
  | [] => [x]
  | y :: ys => if key x < key y then x :: y :: ys else y :: insertBy key x ys

/-- The list in rising order of a key, equal keys in their order. -/
def sortBy {α : Type} (key : α → Nat) (xs : List α) : List α := xs.foldl (fun acc x => insertBy key x acc) []

/-- The entries without repeats. -/
def dedup {α : Type} [DecidableEq α] (xs : List α) : List α := xs.foldl (fun acc x => if acc.contains x then acc else acc ++ [x]) []

/-! ### Memory -/

/-- The byte at an address: 0x00 where nothing is listed (R363; DESIGN CHOICE, log 15). -/
def Mem.read : Mem → Nat → Byte
  | [], _ => 0
  | (j, x) :: m, a => if j = a then x else Mem.read m a

/-- Writes one byte; writing 0x00 removes the cell. -/
def Mem.write : Mem → Nat → Byte → Mem
  | [], a, b => if b = 0 then [] else [(a, b)]
  | (j, x) :: m, a, b =>
    if j < a then (j, x) :: Mem.write m a b
    else if j = a then (if b = 0 then m else (a, b) :: m)
    else if b = 0 then (j, x) :: m else (a, b) :: (j, x) :: m

/-- The n bytes from an address up. -/
def Mem.readN (m : Mem) (a : Nat) : Nat → List Byte
  | 0 => []
  | n + 1 => m.read a :: Mem.readN m (a + 1) n

/-- Writes bytes from an address up. -/
def Mem.writeN (m : Mem) (a : Nat) : List Byte → Mem
  | [] => m
  | b :: bs => Mem.writeN (m.write a b) (a + 1) bs

/-- Writes the bytes of cells. -/
def Mem.writeCells (m : Mem) (cs : List Host.Cell) : Mem := cs.foldl (fun m c => m.write c.1 c.2) m

/-! ### Bytes and words (R3) -/

/-- The value of bytes, the lowest address first (R3). -/
def ofBytes (bs : List Byte) : Nat := bs.foldr (fun b n => b.toNat + 256 * n) 0

/-- The n low bytes of a number, lowest first (R3). -/
def toBytes : Nat → Nat → List Byte
  | 0, _ => []
  | n + 1, v => BitVec.ofNat 8 v :: toBytes n (v / 256)

/-- The 64-bit value of bytes. -/
def wordOf (bs : List Byte) : Word := BitVec.ofNat 64 (ofBytes bs)

/-- Cells of bytes from an address up. -/
def cellsAt (a : Nat) : List Byte → List Host.Cell
  | [] => []
  | b :: bs => (a, b) :: cellsAt (a + 1) bs

/-- The bytes of a list overwritten by cells that fall at addresses base to base + length − 1. -/
def overlay (base : Nat) (bs : List Byte) (cs : List Host.Cell) : List Byte :=
  cs.foldl (fun bs c => if base ≤ c.1 then setAt bs (c.1 - base) c.2 else bs) bs

/-- n bytes of a list from a position up, 0x00 past its end. -/
def slice (bs : List Byte) (k n : Nat) : List Byte := tabulate n (fun i => nth 0 bs (k + i))

/-! ### Bit fields -/

/-- Bits hi down to lo of a word, as a number. -/
def fld (w : Word) (hi lo : Nat) : Nat := w.toNat / 2 ^ lo % 2 ^ (hi + 1 - lo)

/-- Bit k of a word. -/
def bit (w : Word) (k : Nat) : Bool := w.toNat / 2 ^ k % 2 = 1

/-- Bits hi down to lo of a number. -/
def nfld (w hi lo : Nat) : Nat := w / 2 ^ lo % 2 ^ (hi + 1 - lo)

/-- Bit k of a number. -/
def nbit (w k : Nat) : Bool := w / 2 ^ k % 2 = 1

/-- 1 for true. -/
def b2n (b : Bool) : Nat := if b then 1 else 0

/-- A number as a word. -/
def w64 (n : Nat) : Word := BitVec.ofNat 64 n

/-- Sets bit k of a word. -/
def setBit (w : Word) (k : Nat) : Word := w ||| (w64 (2 ^ k))

/-- Clears bit k of a word. -/
def clearBit (w : Word) (k : Nat) : Word := w &&& ~~~(w64 (2 ^ k))

/-- The lowest set bit of a number, searched over n places from k up. -/
def lowestBit (w : Nat) : Nat → Nat → Option Nat
  | _, 0 => none
  | k, n + 1 => if nbit w k then some k else lowestBit w (k + 1) n

/-- Number of set bits among the n lowest. -/
def popcount (w : Nat) : Nat → Nat
  | 0 => 0
  | n + 1 => b2n (nbit w n) + popcount w n

/-- Whether two ranges share a place. -/
def meets (a n b m : Nat) : Bool := decide (a < b + m) && decide (b < a + n)

/-- n rounded down to a multiple of k. -/
def alignDown (n k : Nat) : Nat := n / k * k

/-- Whether cells cover a whole piece. -/
def wholePiece (base : Nat) (cells : List Host.Cell) : Bool := (List.range 64).all (fun i => cells.any (fun c => c.1 = base + i))

end Sys2Proof.Machine
end

