-- ==== Sys2Proof/Machine/Ops.lean ====
section
/-!
DEFINITION. The named operations over the state: cores, contexts, registers, barriers, events, taking an exception and returning from
one.
-/

namespace Sys2Proof.Machine

/-! ### Places in the state -/

def State.core (s : State) (c : Nat) : Core := tget Core.reset s.cores c
def State.setCore (s : State) (c : Nat) (k : Core) : State := { s with cores := tput s.cores c k }
def State.modCore (s : State) (c : Nat) (f : Core → Core) : State := s.setCore c (f (s.core c))
def Core.ctx (k : Core) (x : Nat) : Ctx := tget Ctx.reset k.ctxs x
def Core.setCtx (k : Core) (x : Nat) (t : Ctx) : Core := { k with ctxs := tput k.ctxs x t }
def State.ctx (s : State) (c x : Nat) : Ctx := (s.core c).ctx x
def State.setCtx (s : State) (c x : Nat) (t : Ctx) : State := s.modCore c (fun k => k.setCtx x t)
def State.modCtx (s : State) (c x : Nat) (f : Ctx → Ctx) : State := s.setCtx c x (f (s.ctx c x))
def State.part (s : State) (p : Nat) : Part := tget Part.reset s.parts p
def State.setPart (s : State) (p : Nat) (v : Part) : State := { s with parts := tput s.parts p v }
def State.modPart (s : State) (p : Nat) (f : Part → Part) : State := s.setPart p (f (s.part p))
def State.stack (s : State) (n : Nat) : Stack := tget Stack.reset s.memStacks n
def State.setStack (s : State) (n : Nat) (v : Stack) : State := { s with memStacks := tput s.memStacks n v }
def State.modStack (s : State) (n : Nat) (f : Stack → Stack) : State := s.setStack n (f (s.stack n))
def State.slice (s : State) (n : Nat) : Slice := tget Slice.reset s.slices n
def State.setSlice (s : State) (n : Nat) (v : Slice) : State := { s with slices := tput s.slices n v }
def State.modSlice (s : State) (n : Nat) (f : Slice → Slice) : State := s.setSlice n (f (s.slice n))
def State.die (s : State) (n : Nat) : Die := tget Die.reset s.dies n
def State.setDie (s : State) (n : Nat) (v : Die) : State := { s with dies := tput s.dies n v }
def State.modDie (s : State) (n : Nat) (f : Die → Die) : State := s.setDie n (f (s.die n))

/-- The issuing core and context. -/
def State.myCore (s : State) : Core := s.core s.cur.1
def State.me (s : State) : Ctx := s.ctx s.cur.1 s.cur.2
def State.modMyCore (s : State) (f : Core → Core) : State := s.modCore s.cur.1 f
def State.modMe (s : State) (f : Ctx → Ctx) : State := s.modCtx s.cur.1 s.cur.2 f

/-- Whether a core is an Atelier core (R252). -/
def isAtelier (c : Nat) : Bool := decide (numTiles ≤ c)

/-- Whether a core number exists: 1,152 tiles and 4 Atelier cores (R25, R252). -/
def coreExists (c : Nat) : Bool := decide (c < numTiles + 4)

/-- Supervisor mode: trap level 2, and every context of an Atelier core (R251). -/
def State.isSup (s : State) (c x : Nat) : Bool := isAtelier c || (s.ctx c x).level == .l2

/-- The number that stands for no partition. -/
def noPart : Nat := 16

/-- The partition whose bands hold a tile, or no partition (R25, R355). -/
def State.tilePart (s : State) (c : Nat) : Nat :=
  ((List.range 16).find? (fun p => (s.part p).present && nbit (s.part p).bands.toNat (bandOf c))).getD noPart

/-- The partition a context acts for: that of its tile, or its PARTID on an Atelier core (R251, R252). -/
def State.partOf (s : State) (c x : Nat) : Nat := if isAtelier c then (s.ctx c x).partid else s.tilePart c

/-- The partition of the issuing context. -/
def State.myPart (s : State) : Nat := s.partOf s.cur.1 s.cur.2

/-- The task of a partition's window with a TASKID. -/
def Part.task (p : Part) (id : Nat) : Option Task := p.window.find? (fun t => t.id = id)

/-- Applies a function to a task of the window. -/
def Part.modTask (p : Part) (id : Nat) (f : Task → Task) : Part :=
  { p with window := p.window.map (fun t => if t.id = id then f t else t) }

/-- The task a tile runs. -/
def State.taskOf (s : State) (c : Nat) : Option Task := (s.part (s.tilePart c)).task (s.core c).taskId

/-- The thread count of the record, 16 on an Atelier core (R82, R252). -/
def State.threadCount (s : State) (c : Nat) : Nat :=
  if isAtelier c then 16 else (s.taskOf c).elim 16 (fun t => t.record.threads)

/-! ### Threads wherever their gang stands (R328 to R331) -/

/-- A thread as an agent. -/
def State.agent (s : State) (c x : Nat) : Agent :=
  if isAtelier c || (s.taskOf c).isNone then ⟨s.partOf c x, 0, c, x⟩ else ⟨s.tilePart c, (s.core c).taskId, (s.core c).gangIdx, x⟩

/-- The core an agent runs on; none where its gang is switched out or its task is gone. -/
def State.seat (s : State) (a : Agent) : Option Nat :=
  if a.task = 0 then some a.who
  else ((s.part a.part).task a.task).bind (fun t => if t.phase = .running then t.tiles[a.who]? else none)

/-- Whether an agent's gang is switched out. -/
def State.away (s : State) (a : Agent) : Bool :=
  a.task != 0 && ((s.part a.part).task a.task).any (fun t => t.phase == .saved)

/-- Applies a function to an agent's context, on its core or in its save record (R329). -/
def State.modAgent (s : State) (a : Agent) (f : Ctx → Ctx) : State :=
  match s.seat a with
  | some c => s.modCtx c a.ctx f
  | none => s.modPart a.part (fun p => p.modTask a.task (fun t =>
      { t with saved := t.saved.map (fun k => if k.gangIdx = a.who then k.setCtx a.ctx (f (k.ctx a.ctx)) else k) }))

/-- GTIME ticks of 1 ms (R1). -/
def ticksMs : Nat := 1000000

/-! ### Free values (R8; DESIGN CHOICE, log 2) -/

/-- Takes one step of the counter of free values. -/
def State.freeNext (s : State) : State := { s with freeCtr := s.freeCtr + 1 }

/-! ### Registers (R29, R30, R48, R61) -/

/-- A g-class register as it stands: g0 reads 0 and full; 32 to 47 are the shared registers. -/
def State.gval (s : State) (n : Nat) : GVal :=
  if n = 0 then GVal.zero else if n < 32 then tget GVal.zero s.me.g n else tget GVal.zero s.myCore.s (n - 32)

/-- The value of a g-class operand. -/
def State.g (s : State) (r : GReg) : Word := (s.gval r.num.toNat).val

/-- An f register as it stands. -/
def State.fval (s : State) (r : FReg) : FVal := tget FVal.zero s.me.f r.num.toNat

/-- A predicate register; p0 is true (R50, R61). -/
def State.p (s : State) (r : PReg) : Bool := r == 0 || s.me.p.getLsbD r.toNat

/-- A v register. -/
def State.v (s : State) (r : VReg) : VVal := tget VVal.zero s.me.v r.toNat

/-- A q register. -/
def State.q (s : State) (r : QReg) : BitVec 32 := tget 0 s.me.q r.toNat

/-- Writes a g-class destination and sets it full: g0 is discarded, a deposit into a shared register takes effect at once, a plain
write to one lands five cycles later (R30, R61). -/
def State.putG (s : State) (r : GReg) (v : Word) : State :=
  if r.num = 0 then s
  else if r.num.toNat < 32 then s.modMe (fun t => { t with g := tput t.g r.num.toNat ⟨v, true⟩ })
  else if r.md = .deposit then s.modMyCore (fun k => { k with s := tput k.s (r.num.toNat - 32) ⟨v, true⟩ })
  else s.modMyCore (fun k => { k with spend := k.spend ++ [⟨r.num.toNat - 32, v, k.cycle + 5⟩] })

/-- Writes an f destination with its count and sets it full (R61, R141). -/
def State.putF (s : State) (r : FReg) (v : Word) (c : Nat) : State :=
  s.modMe (fun t => { t with f := tput t.f r.num.toNat ⟨v, c, true⟩ })

/-- Writes a predicate; p0 is discarded (R61). -/
def State.putP (s : State) (r : PReg) (b : Bool) : State :=
  if r = 0 then s
  else s.modMe (fun t => { t with p := BitVec.ofNat 8 (if b then t.p.toNat ||| 2 ^ r.toNat else t.p.toNat &&& (255 - 2 ^ r.toNat)) })

/-- Writes a v register. -/
def State.putV (s : State) (r : VReg) (v : VVal) : State := s.modMe (fun t => { t with v := tput t.v r.toNat v })

/-- Writes a q register. -/
def State.putQ (s : State) (r : QReg) (v : BitVec 32) : State := s.modMe (fun t => { t with q := tput t.q r.toNat v })

/-- Sets the full/empty bit of a g-class register at once; g0 stays full (R29, R91). -/
def State.setFullG (s : State) (n : Nat) (b : Bool) : State :=
  if n = 0 then s
  else if n < 32 then s.modMe (fun t => { t with g := tput t.g n ⟨(tget GVal.zero t.g n).val, b⟩ })
  else s.modMyCore (fun k => { k with s := tput k.s (n - 32) ⟨(tget GVal.zero k.s (n - 32)).val, b⟩ })

/-- Sets the full/empty bit of an f register. -/
def State.setFullF (s : State) (n : Nat) (b : Bool) : State :=
  s.modMe (fun t => { t with f := tput t.f n { tget FVal.zero t.f n with full := b } })

/-- Whether a plain write to a shared register is pending (R30). -/
def State.pending (s : State) (n : Nat) : Bool := decide (32 ≤ n) && s.myCore.spend.any (fun w => w.num = n - 32)

/-- Lands the plain writes of a core whose cycle has come, in issue order (R30). -/
def Core.land (k : Core) : Core :=
  { k with
    s := k.spend.foldl (fun t w => if w.land ≤ k.cycle then tput t w.num ⟨w.val, true⟩ else t) k.s
    spend := k.spend.filter (fun w => decide (k.cycle < w.land)) }

/-- Whether a context has a thread: neither free nor ended (R83). -/
def Ctx.live (t : Ctx) : Bool := t.state != .free && t.state != .ended

/-- A fill of a g-class register: value and full bit whatever the bit held, discarded when the context is free or has ended (R29, R85,
R336). -/
def State.fill (s : State) (c x reg : Nat) (v : Word) : State :=
  if !(s.ctx c x).live then s
  else if reg = 0 then s
  else if reg < 32 then s.modCtx c x (fun t => { t with g := tput t.g reg ⟨v, true⟩ })
  else s.modCore c (fun k => { k with s := tput k.s (reg - 32) ⟨v, true⟩ })

/-! ### Barriers (R89, R90) -/

/-- Marks a generation aborted when the context of an index has not arrived in it; the first abort stands. -/
def Barrier.abort (b : Barrier) (idx : Nat) : Barrier :=
  if b.aborted.isSome || b.arrived.contains idx then b else { b with aborted := some (b.gen, idx) }

/-- What a later BAR at a barrier raises at once: its own abort, or that of another tile of the gang (R90). -/
def Barrier.refused (b : Barrier) : Option (Nat × Nat) := b.aborted.or b.barred

/-- Notes the abort of another tile's barrier; the first stands. -/
def Barrier.bar (b : Barrier) (r : Nat × Nat) : Barrier := { b with barred := b.barred.or (some r) }

/-- The gang-wide index of a context, GANGIDX × n + TID (R90). -/
def State.gangWide (s : State) (c x : Nat) : Nat := (s.core c).gangIdx * s.threadCount c + x

/-- The cores of a core's gang, in order of gang index; the core itself where it runs no task. -/
def State.gangCores (s : State) (c : Nat) : List Nat :=
  match s.taskOf c with
  | none => [c]
  | some t => if t.tiles.contains c then t.tiles else [c]

/-- Aborts the barrier of a tile for a context; every later BAR `.tile` of the task raises at once, on the gang's other tiles too (R90). -/
def State.abortTile (s : State) (c i : Nat) : State :=
  let b := (s.core c).bar.abort i
  let s' := s.modCore c (fun k => { k with bar := b })
  match b.aborted with
  | none => s'
  | some r => ((s.gangCores c).filter (fun g => decide (g ≠ c))).foldl (fun s g => s.modCore g (fun k => { k with bar := k.bar.bar r })) s'

/-- What a context that ends or is held does to the barriers of its tile and its gang: the generations in which it has not arrived abort, and
every later BAR of that kind in the task raises at once (R90). -/
def State.abortBarriers (s : State) (c x : Nat) : State :=
  if x < s.threadCount c then
    let i := s.gangWide c x
    let t := s.abortTile c i
    if isAtelier c then t
    else t.modPart (s.tilePart c) (fun p => p.modTask (s.core c).taskId (fun t => { t with gbar := t.gbar.abort i }))
  else s

/-! ### Events (R249) -/

/-- Adds an event to a context. Entries beyond the sixteenth are sources that wait until an entry frees; an event of a context that
has no thread is discarded (R85). -/
def State.post (s : State) (c x : Nat) (e : Ev) : State :=
  if !(s.ctx c x).live then s else s.modCtx c x (fun t => { t with events := t.events ++ [e] })

/-- An event of a cause without an entry of its own. -/
def Ev.plain (code : Nat) (tval tstat : Word) : Ev := ⟨code, tval, tstat, none, none⟩

/-- Adds an event to an agent's context, in its save record where its gang is switched out (R329). -/
def State.postAgent (s : State) (a : Agent) (e : Ev) : State :=
  s.modAgent a (fun t => if t.live then { t with events := t.events ++ [e] } else t)

/-- Whether a context's queue of 16 is full. -/
def Ctx.queueFull (t : Ctx) : Bool := decide (16 ≤ t.events.length)

/-- The place of the pending event of lowest code among the first sixteen, the earliest of equals. -/
def pickEvent : List Ev → Nat → Option Nat → Nat → Option Nat
  | [], _, best, _ => best
  | e :: es, i, best, low =>
    if 16 ≤ i then best
    else if best.isNone || decide (e.code < low) then pickEvent es (i + 1) (some i) e.code
    else pickEvent es (i + 1) best low

/-! ### Taking an exception and returning from one (R33, R246 to R250, R255) -/

/-- Exchanges g24 to g31, with their bits, for a shadow set: the new registers and the new shadow. -/
def exchange (g sh : Table GVal) : Table GVal × Table GVal :=
  [24, 25, 26, 27, 28, 29, 30, 31].foldl
    (fun r k => (tput r.1 k (tget GVal.zero sh k), tput r.2 k (tget GVal.zero g k))) (g, sh)

/-- Writes the trap registers. -/
def Ctx.setTrap (t : Ctx) (cause tval tepc tstat : Word) : Ctx :=
  { t with tcause := cause, tval := tval, tepc := tepc, tstat := tstat }

/-- Entry to level 1 (R247). -/
def Ctx.enterUser (t : Ctx) (code : Nat) (tval tepc tstat pc : Word) : Ctx :=
  { t.setTrap (w64 code) tval tepc tstat with
    g := (exchange t.g t.ushadow).1, ushadow := (exchange t.g t.ushadow).2, level := .l1, pc := pc }

/-- The number of a level as TCAUSE bits 17:16 hold it. -/
def Level.num : Level → Nat
  | .l0 => 0
  | .l1 => 1
  | .l2 => 2

/-- Copies the T registers to the H registers (R247). -/
def Ctx.saveH (t : Ctx) : Ctx := { t with hcause := t.tcause, hval := t.tval, hepc := t.tepc, hstat := t.tstat }

/-- Entry to level 2 (R247). -/
def Ctx.enterSup (t : Ctx) (cause : Nat) (tval tepc tstat pc : Word) : Ctx :=
  { t.saveH.setTrap (w64 (cause + t.level.num * 0x10000)) tval tepc tstat with
    g := (exchange t.g t.sshadow).1, sshadow := (exchange t.g t.sshadow).2, level := .l2, pc := pc }

/-- A supervisor entry while SVCVEC is 0: held, with the T registers written for the cause (R247; DEDUCED, log 23). -/
def Ctx.heldEntry (t : Ctx) (cause : Nat) (tval tepc tstat : Word) : Ctx :=
  { t.saveH.setTrap (w64 (cause + t.level.num * 0x10000)) tval tepc tstat with state := .held, park := none }

/-- A cause raised at level 2: held, T written, H unchanged (R248). -/
def Ctx.heldNested (t : Ctx) (code : Nat) (tval tepc tstat : Word) : Ctx :=
  { t.setTrap (w64 (code + 0x20000)) tval tepc tstat with state := .held, park := none }

/-- Whether a cause raised at level 0 goes to the supervisor: delegated, or TVEC is 0 (R33, R246, R250). -/
def Ctx.toSup (t : Ctx) (code : Nat) : Bool := bit t.tdeleg code || t.tvec == 0

/-- TAKING AN EXCEPTION: the one operation of every cause and event (R33, R247, R248). `entry` is the handler address of COPY_DONE. -/
def State.raise (s : State) (c x code : Nat) (tval tstat tepc : Word) (entry : Option Word := none) : State :=
  let t := s.ctx c x
  let vec := (s.part (s.partOf c x)).svcvec
  match t.level with
  | .l0 =>
    if t.toSup code then
      if vec = 0 then (s.setCtx c x (t.heldEntry code tval tepc tstat)).abortBarriers c x
      else s.setCtx c x (t.enterSup code tval tepc tstat vec)
    else s.setCtx c x (t.enterUser code tval tepc tstat (entry.getD t.tvec))
  | .l1 =>
    if vec = 0 then (s.setCtx c x (t.heldEntry (0x0F + code * 0x100) tval tepc tstat)).abortBarriers c x
    else s.setCtx c x (t.enterSup (0x0F + code * 0x100) tval tepc tstat vec)
  | .l2 => (s.setCtx c x (t.heldNested code tval tepc tstat)).abortBarriers c x

/-- RETURN FROM AN EXCEPTION at the current level (R247, R255). -/
def Ctx.trapReturn (t : Ctx) : Ctx :=
  match t.level with
  | .l0 => t
  | .l1 => { t with pc := t.tepc, g := (exchange t.g t.ushadow).1, ushadow := (exchange t.g t.ushadow).2, level := .l0 }
  | .l2 =>
    { t with
      pc := t.tepc, tcause := t.hcause, tval := t.hval, tepc := t.hepc, tstat := t.hstat
      g := (exchange t.g t.sshadow).1, sshadow := (exchange t.g t.sshadow).2
      level := if fld t.tcause 17 16 = 0 then .l0 else .l1 }

/-! ### Cause codes (R250) -/

namespace Cause
def opcodeUnassigned : Nat := 0x01
def fieldReserved : Nat := 0x02
def fetchCrossing : Nat := 0x03
def privileged : Nat := 0x04
def modifierInvalid : Nat := 0x05
def registerInvalid : Nat := 0x06
def pcMisaligned : Nat := 0x07
def breakpoint : Nat := 0x08
def serviceCall : Nat := 0x09
def accInFlight : Nat := 0x0A
def opbufInUse : Nat := 0x0B
def matrixDescriptor : Nat := 0x0C
def taskRecord : Nat := 0x0D
def worklistFull : Nat := 0x0E
def tbMissFetch : Nat := 0x10
def tbMissLoad : Nat := 0x11
def tbMissStore : Nat := 0x12
def tbMissCopy : Nat := 0x13
def protFetch : Nat := 0x14
def protLoad : Nat := 0x15
def protStore : Nat := 0x16
def deckleViolation : Nat := 0x17
def misaligned : Nat := 0x18
def atomicMisaligned : Nat := 0x19
def poisonLoad : Nat := 0x1A
def poisonOperand : Nat := 0x1B
def roleUnmapped : Nat := 0x1C
def remoteRefused : Nat := 0x1D
def splitConflict : Nat := 0x1E
def stackRight : Nat := 0x1F
def sigThreshold : Nat := 0x20
def fpInvalid : Nat := 0x21
def intDivzero : Nat := 0x26
def intOverflow : Nat := 0x27
def qbNanInput : Nat := 0x29
def scaleRange : Nat := 0x2A
def smxEmptyRow : Nat := 0x2B
def boundCheck : Nat := 0x2C
def vectorLength : Nat := 0x2D
def atomicScope : Nat := 0x2E
def clockUnsync : Nat := 0x2F
def copyDone : Nat := 0x30
def copyError : Nat := 0x31
def roleNotice : Nat := 0x32
def leaseExpiring : Nat := 0x33
def leaseExpired : Nat := 0x34
def gangResumed : Nat := 0x35
def rollbackResumed : Nat := 0x36
def watchdog : Nat := 0x37
def singleStep : Nat := 0x38
def barrierAborted : Nat := 0x39
def signalHeld : Nat := 0x3A
def couchDone : Nat := 0x3B
def partitionShrink : Nat := 0x3C
def machineCheckCorrected : Nat := 0x3D
def machineCheckFatal : Nat := 0x3E
def debugHalt : Nat := 0x3F
end Cause

/-! ### Modifier conditions (R29, R30) -/

/-- Whether a register meets a modifier's need. -/
def State.modOk (s : State) (m : ModCond) : Bool :=
  if m.isF then
    match m.need with
    | .full => (tget FVal.zero s.me.f m.num).full
    | .empty => !(tget FVal.zero s.me.f m.num).full
    | .landed => true
  else
    match m.need with
    | .full => (s.gval m.num).full && !s.pending m.num
    | .empty => !(s.gval m.num).full && !s.pending m.num
    | .landed => !s.pending m.num

/-- Whether every modifier condition holds. -/
def State.modsOk (s : State) (ms : List ModCond) : Bool := ms.all s.modOk

end Sys2Proof.Machine
end

