-- ==== Sys2Proof/Machine/Place.lean ====
section
/-!
DEFINITION. Where an address leads: the address spaces (R95, R96), translation (R240 to R244), the deckle windows (R357), the home slice
(R103, R348), the home tile of the gang cache (R102).
-/

namespace Sys2Proof.Machine

/-- The place an address leads to: virtual; partition-physical of a partition; the system area; the memory of the resident firmware; a
tile store; another device. -/
inductive Loc where
  | virt (va : Nat)
  | mem (part pa : Nat)
  | sys (part off : Nat)
  | fw (off : Nat)
  | store (core off : Nat) (role : Option Nat)
  | stall (role off : Nat)
  | domain (dev off : Nat)
  deriving DecidableEq, Repr

/-- A cause with its TVAL and TSTAT. -/
structure Trap where
  code : Nat
  tval : Word
  tstat : Word
  deriving DecidableEq, Repr

/-- PROT_LOAD for a read, an atomic and a prefetch; PROT_STORE for a write (R96, R125). An atomic raises PROT_LOAD also at check 5, whichever of R
and W its page lacks (R117; DESIGN CHOICE, log 76). -/
def AccKind.prot : AccKind → Nat
  | .store => Cause.protStore
  | .range => Cause.protStore
  | _ => Cause.protLoad

/-- TB_MISS_LOAD for loads; TB_MISS_STORE for stores, atomics, INVAL and CWB (R117). -/
def AccKind.miss : AccKind → Nat
  | .load => Cause.tbMissLoad
  | .pref => Cause.tbMissLoad
  | _ => Cause.tbMissStore

/-! ### Split codes (R98) -/

/-- Bytes of scratch under a split code. -/
def scratchOf (code : BitVec 2) : Nat := nth 0 [0x200000, 0x1C0000, 0x180000, 0x100000] code.toNat

/-- Sets of the cache portion under a split code. -/
def setsOf (code : BitVec 2) : Nat := nth 0 [0, 512, 1024, 2048] code.toNat

/-- The scratch offsets of a core's store that an access may name: those of the split code its gang knows, the whole store of a storage
tile, the 1 MiB of an Atelier core (R98, R99, R252). -/
def State.scratch (s : State) (c : Nat) : Nat :=
  if isAtelier c then 0x100000
  else match (s.core c).tstate with
    | .storage _ => 0x200000
    | _ => scratchOf (s.core c).splitSeen

/-- Whether bytes of a core's store lie in banks that a SPLIT change has promised and not yet converted: an access waits (R100). -/
def State.bankWait (s : State) (c off n : Nat) : Bool :=
  (s.core c).splitChange.isSome && decide (scratchOf (s.core c).split < off + n)

/-! ### Roles (R316, R317) -/

/-- The entry of a role number in a partition's role map. -/
def Part.role (p : Part) (n : Nat) : Option Role := p.roles.find? (fun r => r.num = n)

/-- Whether a role is under a lease that runs (R306). -/
def Role.runs (r : Role) (now : Nat) : Bool := r.expiry.any (fun e => decide (now < e))

/-- Applies a function to a role's entry. -/
def Part.modRole (p : Part) (n : Nat) (f : Role → Role) : Part :=
  { p with roles := p.roles.map (fun r => if r.num = n then f r else r) }

/-- Whether stores of a thread to a role wait for a change of it: its later accesses to the role wait behind them (R311). -/
def State.roleStores (s : State) (c x role : Nat) : Bool :=
  s.net.any (fun m => m.core == c && m.ctx == x && (match m.kind with
    | .roleStore r _ => r == role
    | _ => false))

/-! ### The address spaces (R95, R96, R317, R347, R359) -/

/-- The core a gang-relative index names: the own core, a tile of its gang, or none (R25, R252). -/
def State.gangTile (s : State) (c idx : Nat) : Option Nat :=
  if idx = 0xFFF then some c
  else if isAtelier c then none
  else if idx < (s.core c).gangSize then
    if idx = (s.core c).gangIdx then some c else (s.taskOf c).bind (fun t => t.tiles[idx]?)
  else none

/-- The place an address of context x of core c leads to, before translation: the checks of R95, R96 and R99. A tile-space access that starts
in the scratch offsets and runs past their end fails here, at check 1, aligned or not (DESIGN CHOICE, log 76); region 2 is the Atelier's
alone (R251, R359). -/
def State.spaceOf (s : State) (c x : Nat) (k : AccKind) (a : Word) (size : Nat) : Except Trap Loc :=
  let bad : Except Trap Loc := .error ⟨k.prot, a, 0⟩
  match fld a 63 60 with
  | 0x0 => if fld a 59 57 = 0 then .ok (.virt (fld a 56 0)) else bad
  | 0xC => .ok (.domain (fld a 59 46) (fld a 45 0))
  | 0xD =>
    if fld a 59 37 ≠ 0 then bad
    else match (s.part (s.partOf c x)).role (fld a 36 21) with
      | none => .error ⟨Cause.roleUnmapped, a, 0⟩
      | some r =>
        if !r.storage then .error ⟨Cause.roleUnmapped, a, 0⟩
        else if r.stalled || s.roleStores c x r.num then .ok (.stall r.num (fld a 20 0))
        else match r.tile, r.backing with
          | some t, _ => .ok (.store t (fld a 20 0) (some r.num))
          | none, some b => .ok (.mem (s.partOf c x) (b + fld a 20 0))
          | none, none => .error ⟨Cause.roleUnmapped, a, 0⟩
  | 0xE =>
    if fld a 47 21 ≠ 0 then bad
    else match s.gangTile c (fld a 59 48) with
      | none => bad
      | some t => if fld a 20 0 + Nat.max size 1 ≤ s.scratch t then .ok (.store t (fld a 20 0) none) else bad
  | 0xF =>
    if !s.isSup c x then bad
    else match fld a 59 56 with
      | 0 => if fld a 55 48 = 0 then .ok (.mem (s.partOf c x) (fld a 47 0)) else bad
      | 1 =>
        let p := s.part (s.partOf c x)
        let len := ofBytes (p.sys.readN 0x1000 8)
        if fld a 55 32 = 0 ∧ fld a 31 0 + Nat.max size 1 ≤ len then
          if k ≠ .load ∧ k ≠ .pref ∧ meets (fld a 31 0) size 0x1000 64 then bad else .ok (.sys (s.partOf c x) (fld a 31 0))
        else bad
      | 2 =>
        if !isAtelier c then .error ⟨Cause.privileged, a, 3⟩
        else if fld a 51 48 = 0 then .ok (.mem (fld a 55 52) (fld a 47 0)) else bad
      | _ => bad
  | _ => bad

/-! ### Translation entries (R241, R242, R243) -/

/-- Bytes of a page of a size code. -/
def pageSize (z : Nat) : Nat := 2 ^ (12 + 4 * z)

/-- Bytes of the page of an entry word. -/
def wordPage (w : Word) : Nat := pageSize (fld w 6 4)

/-- An entry word valid under R242. -/
def entryValid (w : Word) : Bool :=
  fld w 63 48 == 0 && fld w 11 7 == 0 && fld w 6 4 != 7 && fld w 47 0 / 0x1000 * 0x1000 % wordPage w == 0

/-- Bytes of an entry's page. -/
def TbEntry.size (e : TbEntry) : Nat := wordPage e.word
/-- Whether an entry's page holds an address. -/
def TbEntry.holds (e : TbEntry) (va : Nat) : Bool := decide (e.va ≤ va) && decide (va < e.va + e.size)
/-- Whether an entry's page meets a page. -/
def TbEntry.meets (e : TbEntry) (va n : Nat) : Bool := Machine.meets e.va e.size va n
/-- A locked entry (R243). -/
def TbEntry.locked (e : TbEntry) : Bool := bit e.word 3
/-- The partition-physical address of an address of the page. -/
def TbEntry.pa (e : TbEntry) (va : Nat) : Nat := fld e.word 47 12 * 0x1000 + (va - e.va)

/-- The contents a lookup uses in a cycle: those of now, or, within 16 cycles of a write, either those or the old ones (R261). -/
def Core.tbNow (k : Core) (ctr : Nat) : List TbEntry :=
  k.tbHist.foldr (fun h acc => if k.cycle < h.1 + 16 ∧ h.1 < k.cycle ∧ Config.freeBool (ctr + h.1) then h.2 else acc) k.tb

/-- Whether a write of less than 16 cycles ago leaves a lookup a choice. -/
def Core.tbOpen (k : Core) : Bool := k.tbHist.any (fun h => decide (k.cycle < h.1 + 16) && decide (h.1 < k.cycle))

/-- Makes an entry the most recently used one (R243). -/
def tbTouch (tb : List TbEntry) (e : TbEntry) : List TbEntry :=
  if tb.contains e then tb.filter (fun x => decide (x ≠ e)) ++ [e] else tb

/-- Looks an address up in the translation buffer of a core (R243, R261). -/
def State.lookup (s : State) (c va : Nat) : Option TbEntry × State :=
  let k := s.core c
  let r := (k.tbNow s.freeCtr).find? (fun e => e.holds va)
  let s := if k.tbOpen then { s with freeCtr := s.freeCtr + k.cycle + 1 } else s
  match r with
  | none => (none, s)
  | some e => (some e, s.modCore c (fun k => { k with tb := tbTouch k.tb e }))

/-- Whether a page grants an access: loads and prefetches R, stores, INVAL and CWB W, atomics both; an S page only to the supervisor
(R242). -/
def TbEntry.grants (e : TbEntry) (k : AccKind) (sup : Bool) : Bool :=
  (sup || !bit e.word 3) &&
  match k with
  | .load => bit e.word 0
  | .pref => bit e.word 0
  | .store => bit e.word 1
  | .range => bit e.word 1
  | .atomic => bit e.word 0 && bit e.word 1

/-- Adds an entry to a buffer of 96: overlapping entries go first, then the least recently used unlocked one (R243). -/
def tbInsert (tb : List TbEntry) (e : TbEntry) : List TbEntry :=
  let tb := tb.filter (fun x => !x.meets e.va e.size)
  let tb := if tb.length < 96 then tb
    else match firstIdx (fun x => !x.locked) tb with
      | none => tb
      | some k => dropAt tb k
  tb ++ [e]

/-! ### Deckle windows and stacks (R340, R357, R368) -/

/-- The fields of a window: valid, half-stack, offset and length in bytes, base. -/
structure Window where
  valid : Bool
  host : Bool
  half : Nat
  off : Nat
  len : Nat
  base : Nat
  deriving DecidableEq, Repr

/-- A window register taken apart (R357). -/
def windowOf (w : Word) : Window :=
  ⟨bit w 63, bit w 62, fld w 55 52, fld w 51 47 * 2 ^ 30, (fld w 45 41 + 1) * 2 ^ 30, fld w 40 23 * 2 ^ 30⟩

/-- Whether a window maps a partition-physical address. -/
def Window.holds (w : Window) (pa : Nat) : Bool := w.valid && decide (w.base ≤ pa) && decide (pa < w.base + w.len)

/-- The window of a partition that maps an address: its number and its fields. -/
def Part.windowAt (p : Part) (pa : Nat) : Option (Nat × Window) :=
  ((List.range 16).map (fun i => (i, windowOf (tget 0 p.deckle i)))).find? (fun w => w.2.holds pa)

/-- A place on a stack: stack number and stack byte. -/
structure SPlace where
  stack : Nat
  sbyte : Nat
  deriving DecidableEq, Repr

/-- Stage 2: where a partition-physical address lies (R357). -/
def Part.place (p : Part) (pa : Nat) : Option SPlace :=
  (p.windowAt pa).map (fun w => ⟨w.2.half / 2, w.2.half % 2 * 2 ^ 35 + w.2.off + (pa - w.2.base)⟩)

/-- The place of an address for an access that has passed check 6: through a valid window, or through one whose V has been cleared since; the
other fields of such a window stand (R358). -/
def Part.placeLast (p : Part) (pa : Nat) : Option SPlace :=
  match p.place pa with
  | some x => some x
  | none => Part.place { p with deckle := p.deckle.map (fun e => (e.1, setBit e.2 63)) } pa

/-- Where the model numbers the bytes of a partition's system area among its partition-physical addresses: above every address (R359;
DESIGN CHOICE, log 85). -/
def sysPa : Nat := 2 ^ 80

/-- The place of a byte of a partition's system area: in the lowest of its half-stacks, outside every window (R359; DESIGN CHOICE, log 85). -/
def State.sysPlace (s : State) (part off : Nat) : SPlace :=
  let h := ((List.range 16).find? (nbit (s.part part).halves.toNat)).getD 0
  ⟨h / 2, 2 ^ 40 * (part + 1) + h % 2 * 2 ^ 35 + off⟩

/-- The partition and the offset of a stack byte that lies in a system area. -/
def sysByte (sb : Nat) : Option (Nat × Nat) := if 2 ^ 40 ≤ sb then some (sb / 2 ^ 40 - 1, sb % 2 ^ 35) else none

/-- The half of its stack that a stack byte lies in. -/
def halfBit (sb : Nat) : Nat := sb / 2 ^ 35 % 2

/-- The place of an address of a partition, the bytes of its system area included. -/
def State.placeAll (s : State) (part pa : Nat) : Option SPlace :=
  match (s.part part).place pa with
  | some p => some p
  | none => if sysPa ≤ pa then some (s.sysPlace part (pa - sysPa)) else none

/-- The die that owns a stack, by its STACKOWN bit (R256, R368). -/
def State.ownerDie (s : State) (n : Nat) : Nat := if (s.stack n).own then (n / 2 + 1) % 4 else n / 2

/-- Whether a die counts as the owner of a stack for R108: never during steps 1 to 5 of a couch (R342). -/
def State.ownsFor (s : State) (die n : Nat) : Bool :=
  match (s.stack n).couch with
  | none => s.ownerDie n == die
  | some k => decide (6 ≤ k.step) && s.ownerDie n == die

/-! ### The home slice (R348) -/

/-- Parity of the set bits of a number. -/
def parity (w : Nat) : Nat := popcount w 37 % 2

/-- The slice within the stack that a map gives an address of half h. -/
def DMap.home (m : DMap) (h pa : Nat) : Nat :=
  let byte := m.map.toNat / 2 ^ (8 * h) % 256
  let n := nfld byte 6 4
  nfld byte 3 0 + ((List.range n).foldl (fun acc i => acc + parity ((pa / 2 ^ 11 % 2 ^ 37) &&& (nth 0 m.rows i).toNat) * 2 ^ i) 0)

/-- The number of the home slice of a place, by the map in force at the slices (R103, R262). -/
def State.homeSlice (s : State) (p : SPlace) (pa : Nat) : Nat :=
  p.stack * 16 + (s.stack p.stack).inForce.home (halfBit p.sbyte) pa

/-- The home slice and sequence number that a requester forms (R103, R352). -/
def State.reqSlice (s : State) (p : SPlace) (pa : Nat) : Nat × Nat :=
  (p.stack * 16 + (s.stack p.stack).req.home (halfBit p.sbyte) pa, (s.stack p.stack).req.seq)

/-- The gang tile, by index, that homes a line of the gang cache (R102). -/
def gangHomeIdx (size line : Nat) : Nat := (line ^^^ (line / 2 ^ 14) ^^^ (line / 2 ^ 28)) % size

/-- The core whose cache portion homes a line for accesses of core c: its own, or the gang home tile under POOL 1 (R102). -/
def State.lineHome (s : State) (c line : Nat) : Nat :=
  if (s.core c).pool then (s.gangTile c (gangHomeIdx (s.core c).gangSize line)).getD c else c

/-- Whether the accesses of a core go through a cache at all: not under split code 0, not on an Atelier core (R98, R252). -/
def State.cached (s : State) (c : Nat) : Bool := !isAtelier c && (s.core c).split != 0

/-- The cores whose portions form the cache that core c uses. -/
def State.cacheCores (s : State) (c : Nat) : List Nat := if (s.core c).pool then s.gangCores c else [c]

end Sys2Proof.Machine
end

