-- ==== Sys2Proof/Machine/Cache.lean ====
section
/-!
DEFINITION. Messages, and the lines of tile and gang caches (R101 to R104, R110 to R113).
-/

namespace Sys2Proof.Machine

/-! ### Messages -/

/-- The context number a message carries when no thread waits for it. -/
def noCtx : Nat := 16

/-- Sends a message, numbered in order of issue. -/
def State.send (s : State) (m : Msg) : State := { s with net := s.net ++ [{ m with id := s.msgCtr }], msgCtr := s.msgCtr + 1 }

/-- The clock a request carries: that of its die when it crosses a die-to-die link (R298). -/
def State.carry (s : State) (core stack : Nat) : List Nat :=
  if s.ownerDie stack = dieOf core then [] else (s.die (dieOf core)).clock

/-- A message to the home slice of a partition-physical address. -/
def State.memMsg (s : State) (core ctx entry : Nat) (kind : MKind) (part pa : Nat) (bytes : List Host.Cell) : Msg :=
  let p := ((s.part part).placeLast pa).getD (if sysPa ≤ pa then s.sysPlace part (pa - sysPa) else ⟨0, 0⟩)
  let r := s.reqSlice p pa
  ⟨s.msgCtr, core, ctx, entry, kind, part, pa, p.stack, p.sbyte, r.1, r.2, bytes, s.carry core p.stack⟩

/-- A message to a tile's cache portion or store. -/
def State.tileMsg (s : State) (core ctx entry : Nat) (kind : MKind) (part addr : Nat) (bytes : List Host.Cell) : Msg :=
  ⟨s.msgCtr, core, ctx, entry, kind, part, addr, 0, 0, 0, 0, bytes, []⟩

/-- Requests that have reached a slice and are not served yet. -/
def State.atSlices (s : State) : List Msg := s.slices.flatMap (fun e => e.2.queue ++ e.2.mshrs)

/-- Every message that has not had its effect. -/
def State.inFlight (s : State) : List Msg := s.net ++ s.atSlices

/-- A store of a thread: what the write queue of R118 counts, by its entry. -/
def MKind.isStore : MKind → Bool
  | .cacheStore _ => true
  | .cacheUpdate _ => true
  | .unit wb _ _ => !wb
  | .tileStore _ _ _ => true
  | .farStore _ _ _ => true
  | .roleStore _ _ => true
  | _ => false

/-- A write-back. -/
def MKind.isWb : MKind → Bool
  | .unit wb _ _ => wb
  | _ => false

/-- A unit that keeps a cache and the home slice alike: a write-back or a write-through. -/
def MKind.ofCache : MKind → Bool
  | .unit wb wt _ => wb || wt
  | _ => false

/-- A store that travels to the portion that homes its line and has not been applied there. -/
def MKind.toLine : MKind → Bool
  | .cacheStore _ => true
  | .cacheUpdate _ => true
  | _ => false

/-- The tile whose cache portion a message addresses. -/
def MKind.cache? : MKind → Option Nat
  | .cacheStore h => some h
  | .cacheUpdate h => some h
  | .cacheRead h _ _ => some h
  | .cacheAtomic h _ _ => some h
  | _ => none

/-- A request that its home slice serves. -/
def MKind.atSlice : MKind → Bool
  | .unit _ _ _ => true
  | .read _ => true
  | .fetch _ _ => true
  | .atomic _ => true
  | _ => false

/-- Whether a message asks for bytes of memory at its home slice: writes and atomics. -/
def MKind.writes : MKind → Bool
  | .unit _ _ _ => true
  | .atomic _ => true
  | _ => false

/-- An atomic that the home slice executes. -/
def MKind.isAtomic : MKind → Bool
  | .atomic _ => true
  | _ => false

/-- The stores of a context that have not been applied. -/
def State.ownStores (s : State) (c x : Nat) : List Msg :=
  s.inFlight.filter (fun m => m.kind.isStore && m.core == c && m.ctx == x)

/-- Whether the write queue of a context has room for n entries more (R118). -/
def State.queueRoom (s : State) (c x n : Nat) : Bool :=
  decide ((dedup ((s.ownStores c x).map (·.entry))).length + n ≤ 8)

/-- Gives a context the answer to a request. -/
def State.answer (s : State) (c x : Nat) (r : Reply) : State :=
  if x < noCtx then s.modCtx c x (fun t => { t with replies := t.replies ++ [r] }) else s

/-- The answer a context holds to a request. -/
def Ctx.replyOf (t : Ctx) (id : Nat) : Option Reply := t.replies.find? (fun r => r.id = id)

/-! ### Lines (R101, R104) -/

/-- A line of a cache portion: a gang-cache or tile-cache line, or a local copy. -/
def Core.lineAt (k : Core) (line : Nat) (loc : Bool) : Option Line := k.cache.find? (fun l => l.line = line && l.loc == loc)

/-- Whether two lines are the same entry. -/
def Line.same (a b : Line) : Bool := a.line == b.line && a.loc == b.loc

/-- Replaces a line that the portion holds. -/
def Core.setLine (k : Core) (l : Line) : Core := { k with cache := k.cache.map (fun x => if x.same l then l else x) }

/-- Discards a line. -/
def Core.dropLine (k : Core) (line : Nat) (loc : Bool) : Core :=
  { k with cache := k.cache.filter (fun x => !(x.line == line && x.loc == loc)) }

/-- The set of a line (R98, R101; DEDUCED, log 21). -/
def Core.setOf (k : Core) (line : Nat) : Nat := line % setsOf k.split

/-- Sends a line back to its home slice for a context: one whole-piece unit, with its poison mark (R12, R372). A line that was left under a range
which no window maps any more goes nowhere (R358; DESIGN CHOICE, log 82). -/
def State.sendBackFor (s : State) (c x : Nat) (l : Line) : State :=
  if ((s.part (s.tilePart c)).place (l.line * 64)).isNone then s
  else s.send (s.memMsg c x s.msgCtr (.unit true false l.poison) (s.tilePart c) (l.line * 64) (cellsAt (l.line * 64) l.data))

/-- Sends a line back for no context. -/
def State.sendBack (s : State) (c : Nat) (l : Line) : State := s.sendBackFor c noCtx l

/-- Puts a line into a portion. A full set first loses the line of a way the program cannot rely on, written back if dirty
(R13, R101). A line already there stays. -/
def State.install (s : State) (c : Nat) (l : Line) : State :=
  let k := s.core c
  if (k.lineAt l.line l.loc).isSome || setsOf k.split == 0 then s
  else
    let inSet := k.cache.filter (fun x => k.setOf x.line == k.setOf l.line)
    if inSet.length < 8 then s.modCore c (fun k => { k with cache := k.cache ++ [l] })
    else
      let v := nth default inSet (Config.freeWay s.freeCtr % inSet.length)
      let s := s.freeNext
      let s := if v.dirty && !v.loc then s.sendBack c v else s
      s.modCore c (fun k => { (k.dropLine v.line v.loc) with cache := (k.dropLine v.line v.loc).cache ++ [l] })

/-- Writes bytes into a line of a portion, leaving it dirty or as it was. -/
def State.updateLine (s : State) (c line : Nat) (loc : Bool) (cells : List Host.Cell) (dirty : Bool) : State :=
  match (s.core c).lineAt line loc with
  | none => s
  | some l => s.modCore c (fun k => k.setLine { l with data := overlay (line * 64) l.data cells, dirty := l.dirty || dirty })

/-- Writes the dirty lines that a test selects back and leaves them clean (R112). -/
def State.writeBack (s : State) (c : Nat) (p : Line → Bool) : State :=
  ((s.core c).cache.filter (fun l => l.dirty && !l.loc && p l)).foldl
    (fun s l => (s.sendBack c l).modCore c (fun k => k.setLine { l with dirty := false })) s

/-- Discards the lines that a test selects. -/
def State.discard (s : State) (c : Nat) (p : Line → Bool) : State :=
  s.modCore c (fun k => { k with cache := k.cache.filter (fun l => !p l) })

/-- The scopes wider than the cache of a core: `.gang` and up for a tile cache, `.dev` and up for a gang cache (R111). -/
def State.widerThanCache (s : State) (c : Nat) (sc : Scope) : Bool :=
  match sc with
  | .tile => false
  | .gang => !(s.core c).pool
  | _ => true

/-- Writes back every dirty line in the caches narrower than a scope (R112). -/
def State.releaseLines (s : State) (c : Nat) (sc : Scope) : State :=
  if s.widerThanCache c sc then (s.cacheCores c).foldl (fun s k => s.writeBack k (fun _ => true)) s else s

/-- ACQUIRE(S): discards clean lines and local copies narrower than the scope, and empties the fetch buffer at device scope and wider
(R39, R113, R120); what copy engines wrote before is settled for the gang then (R269). -/
def State.acquire (s : State) (c : Nat) (sc : Scope) : State :=
  let s := if sc = .tile then s else s.discard c (fun l => l.loc)
  let s := if s.widerThanCache c sc then (s.cacheCores c).foldl (fun s k => s.discard k (fun l => !l.dirty && !l.loc)) s else s
  if sc = .dev ∨ sc = .dom then s.modCore c (fun k => { k with fbuf := [], acq := s.msgCtr }) else s

/-- The writes of a die's own agents that have been applied at their home slices and not yet delivered to that die (R298; DEDUCED, log 26). -/
def State.undelivered (s : State) (d : Nat) : List Msg := (s.die d).inbox.filterMap (fun u => u.writer)

/-- The writes that a core still waits for: in flight, or not delivered to its own die. -/
def State.unfinished (s : State) (c : Nat) : List Msg := s.inFlight ++ s.undelivered (dieOf c)

/-- Whether the stores a context had issued before a mark, by their entries, have been applied at their places (R112, first item). Where the release is wider
than a tile, so have the stores of its tile's other contexts that travel to their lines, since their bytes may have been read from a local
copy (R300). -/
def State.storesDone (s : State) (c x : Nat) (wide : Bool) (mark : Nat) : Bool :=
  (s.unfinished c).all (fun m => decide (mark ≤ m.entry) || !(m.kind.isStore && m.core == c && (m.ctx == x || (wide && m.kind.toLine))))

/-- Whether, besides, every write-back and write-through of the caches it uses from before a mark has been applied: the thread may have
read their bytes there (R112, R131, R300). -/
def State.writesDone (s : State) (c x mark : Nat) : Bool :=
  s.storesDone c x true mark &&
  (s.unfinished c).all (fun m => decide (mark ≤ m.entry) || !(m.kind.ofCache && ((s.cacheCores c).contains m.core || m.core == c)))

/-- Whether every message of a list of numbers has had its effect. -/
def State.gone (s : State) (ids : List Nat) : Bool := s.inFlight.all (fun m => !ids.contains m.id)

/-- Whether every unit stamped before a mark has been delivered to every die (R131). -/
def State.deliveredAll (s : State) (mark : Nat) : Bool :=
  [0, 1, 2, 3].all (fun d => (s.die d).inbox.all (fun u => decide (mark ≤ u.piece.order)))

end Sys2Proof.Machine
end

