-- ==== Sys2Proof/Machine/Home.lean ====
section
/-!
DEFINITION. The home slices, the stacks and the die views: how a write unit is applied, how a piece is read, how units are stamped and
delivered (R105, R297, R298, R349, R352, R364 to R366, R378).
-/

namespace Sys2Proof.Machine

/-- Stack byte of the granule that holds a stack byte (R364). -/
def granOf (sb : Nat) : Nat := alignDown sb 2048
/-- Place of a piece within its granule. -/
def pieceIdx (sb : Nat) : Nat := sb / 64 % 32
/-- Stack byte of the piece that holds a stack byte. -/
def pieceBase (sb : Nat) : Nat := alignDown sb 64
/-- Set of a granule (R364). -/
def tagSet (pa : Nat) : Nat := (nfld pa 20 14) ^^^ (nfld pa 27 21)

/-- The granule tag of a stack byte. -/
def Slice.tagAt (l : Slice) (sb : Nat) : Option Tag := l.tags.find? (fun t => t.base = granOf sb)

/-- Replaces a granule tag. -/
def Slice.setTag (l : Slice) (t : Tag) : Slice := { l with tags := l.tags.map (fun x => if x.base = t.base then t else x) }

/-- The bytes and the poison mark of a piece that a tag holds. -/
def Tag.piece (t : Tag) (i : Nat) : Option (List Byte × Bool) :=
  if nbit t.pres.toNat i then some (tget [] t.data i, nbit t.poison.toNat i) else none

/-- Sets or clears bit i of a map. -/
def mapBit (m : BitVec 32) (i : Nat) (b : Bool) : BitVec 32 :=
  BitVec.ofNat 32 (if b then m.toNat ||| 2 ^ i else m.toNat &&& (2 ^ 32 - 1 - 2 ^ i))

/-- Puts a piece into a tag. -/
def Tag.put (t : Tag) (i : Nat) (data : List Byte) (dirty poison : Bool) (used : Nat) : Tag :=
  { t with
    pres := mapBit t.pres i true
    dirty := mapBit t.dirty i dirty
    poison := mapBit t.poison i poison
    data := tput t.data i data
    used := used }

/-- Discards a piece of a tag. -/
def Tag.drop (t : Tag) (i : Nat) : Tag :=
  { t with
    pres := mapBit t.pres i false
    dirty := mapBit t.dirty i false
    poison := mapBit t.poison i false
    data := t.data.filter (fun e => decide (e.1 ≠ i)) }

/-- A piece of a system area, whose one copy is the area's own: bytes and poison mark (R359). -/
def State.sysPiece (s : State) (sb : Nat) : Option (List Byte × Bool) :=
  (sysByte (pieceBase sb)).map (fun e => ((s.part e.1).sys.readN e.2 64, (s.part e.1).sysPoison.contains (e.2 / 64)))

/-- Writes a piece of a system area. -/
def State.putSys (s : State) (sb : Nat) (data : List Byte) (poison : Bool) : State :=
  match sysByte sb with
  | none => s
  | some (q, off) => s.modPart q (fun p => { p with
      sys := p.sys.writeN off data
      sysPoison := p.sysPoison.filter (fun x => decide (x ≠ off / 64)) ++ (if poison then [off / 64] else []) })

/-- The piece a slice holds present. -/
def State.onSlice (s : State) (n sb : Nat) : Option (List Byte × Bool) :=
  (((s.slice n).tagAt sb).bind (fun t => t.piece (pieceIdx sb))).map (fun e => (s.sysPiece sb).getD e)

/-- The piece as its stack holds it. -/
def State.onStack (s : State) (n sb : Nat) : List Byte × Bool :=
  (s.sysPiece sb).getD ((s.stack n).mem.readN (pieceBase sb) 64, (s.stack n).poison.contains (sb / 64))

/-- Whether the filter of a slice has room for a write of a granule (R366; DESIGN CHOICE, log 28). -/
def Slice.filterRoom (l : Slice) (g : Nat) : Bool := decide (l.filter.length < 32) || l.filter.any (fun e => e.1 = g)

/-- Notes a granule in the filter; where all 32 entries are in use, the oldest write is acknowledged first (R366). -/
def Slice.addFilter (l : Slice) (e : Nat × Bool) : Slice :=
  let others := l.filter.filter (fun x => decide (x ≠ e))
  { l with filter := (if others.length < 32 then others else others.drop 1) ++ [e] }

/-- Notes a use of a piece's tag (R364): uses are numbered in the order in which requests are served. -/
def State.touch (s : State) (n sb : Nat) : State :=
  { s with msgCtr := s.msgCtr + 1 }.modSlice n (fun l => match l.tagAt sb with
    | none => l
    | some t => l.setTag { t with used := s.msgCtr })

/-- Writes a piece to its stack; the filter holds the granule until the acknowledgement (R366). -/
def State.toStack (s : State) (n sb : Nat) (data : List Byte) (poison sweep : Bool) : State :=
  let st := s.stack (n / 16)
  let pc := sb / 64
  let s := if (sysByte sb).isSome then s else s.setStack (n / 16) { st with
    mem := st.mem.writeN (pieceBase sb) data
    poison := if poison then (if st.poison.contains pc then st.poison else st.poison ++ [pc]) else st.poison.filter (fun x => decide (x ≠ pc)) }
  s.modSlice n (fun l => l.addFilter (granOf sb, sweep))

/-- The numbers of the pieces that a map marks. -/
def mapBits (m : BitVec 32) : List Nat := (List.range 32).filter (fun i => nbit m.toNat i)

/-- Writes the dirty pieces of a tag to the stack. -/
def State.flushTag (s : State) (n : Nat) (t : Tag) (sweep : Bool) : State :=
  (mapBits t.dirty).foldl (fun s i => s.toStack n (t.base + 64 * i) (tget [] t.data i) (nbit t.poison.toNat i) sweep) s

/-- Frees a tag. -/
def Slice.freeTag (l : Slice) (base : Nat) : Slice := { l with tags := l.tags.filter (fun t => decide (t.base ≠ base)) }

/-- Of two tags the one used least recently. -/
def Tag.older (a b : Tag) : Tag := if b.used < a.used then b else a

/-- Makes sure that a granule has a tag: none where a full set has no tag to give up yet (R349, R364). -/
def State.ensureTag (s : State) (n pa sb : Nat) : Option State :=
  let l := s.slice n
  if (l.tagAt sb).isSome then some s
  else
    let set := tagSet pa
    let inSet := l.tags.filter (fun t => t.set = set)
    let fresh (way : Nat) : Tag := ⟨set, way, alignDown pa 2048, granOf sb, 0, 0, 0, [], s.msgCtr⟩
    if inSet.length < 16 then
      let way := ((List.range 16).find? (fun w => !inSet.any (fun t => t.way = w))).getD 0
      some (s.modSlice n (fun l => { l with tags := l.tags ++ [fresh way] }))
    else
      match inSet.filter (fun t => !l.mshrs.any (fun m => granOf m.sbyte = t.base)) with
      | [] => none
      | t :: ts =>
        let v := ts.foldl Tag.older t
        if v.dirty = 0 || l.filterRoom v.base then
          some (((s.flushTag n v false).modSlice n (fun l => l.freeTag v.base)).modSlice n (fun l => { l with tags := l.tags ++ [fresh v.way] }))
        else none

/-- Puts a piece into a slice whose tag is there. -/
def State.putPiece (s : State) (n sb : Nat) (data : List Byte) (dirty poison : Bool) : State :=
  s.modSlice n (fun l => match l.tagAt sb with
    | none => l
    | some t => l.setTag (t.put (pieceIdx sb) data dirty poison s.msgCtr))

/-! ### Clocks, stamps and views (R297, R298) -/

/-- Whether clock v covers clock w. -/
def covers (v w : List Nat) : Bool := (List.range 4).all (fun k => decide (nth 0 w k ≤ nth 0 v k))

/-- Whether clock v covers clock w in every die but the sender's (R298). -/
def coversBut (v w : List Nat) (sender : Nat) : Bool := (List.range 4).all (fun k => decide (k = sender) || decide (nth 0 w k ≤ nth 0 v k))

/-- The elementwise maximum of two clocks. -/
def joinClock (v w : List Nat) : List Nat := (List.range 4).map (fun k => Nat.max (nth 0 v k) (nth 0 w k))

/-- The view of a die without one piece. -/
def Die.without (d : Die) (stack pc : Nat) : List ViewPiece := d.view.filter (fun v => !(v.stack == stack && v.piece == pc))

/-- The piece that a die's view holds. -/
def Die.viewOf (d : Die) (stack pc : Nat) : Option ViewPiece := d.view.find? (fun v => v.stack == stack && v.piece == pc)

/-- Puts a piece into a view, unless what stands there is later in the home order (R297). -/
def Die.putView (d : Die) (p : ViewPiece) : Die :=
  match d.viewOf p.stack p.piece with
  | some v => if v.order < p.order then { d with view := d.without p.stack p.piece ++ [p] } else d
  | none => { d with view := d.view ++ [p] }

/-- Stamps the unit just applied to a piece and sends it to the other dies (R298). -/
def State.stamp (s : State) (stack sb : Nat) (data : List Byte) (poison : Bool) (w : Option Msg) : State :=
  let o := s.ownerDie stack
  let s := s.modDie o (fun d => { d with clock := setAt d.clock o (nth 0 d.clock o + 1) })
  let u : DieUnit := ⟨o, (s.die o).clock, ⟨stack, sb / 64, data, poison, s.msgCtr⟩, none, w⟩
  let s := { s with msgCtr := s.msgCtr + 1 }
  [0, 1, 2, 3].foldl (fun s e => if e = o then s else s.modDie e (fun d => { d with inbox := d.inbox ++ [u] })) s

/-! ### The undo log (R359, R378) -/

/-- Entries of one segment of a partition's undo log, as the header of its system area gives it (R359). -/
def Part.segLen (p : Part) : Nat := ofBytes (p.sys.readN 0x1028 8)

/-- The segment that logs a half-stack: its place among the partition's half-stacks (R378). -/
def Part.segOf (p : Part) (half : Nat) : Nat := popcount p.halves.toNat half

/-- Whether an address has an entry in this interval. -/
def Part.logged (p : Part) (addr : Word) : Bool := p.undo.any (fun u => u.addr = addr)

/-- Whether the first write to a piece can be logged (R378). -/
def Part.logRoom (p : Part) (addr : Word) (half : Nat) : Bool :=
  p.logged addr || decide ((p.undo.filter (fun u => u.seg = p.segOf half)).length < p.segLen)

/-- The bytes of an entry of the undo log: address, mark, old value (R378). -/
def undoBytes (addr : Word) (poison : Bool) (old : List Byte) : List Byte :=
  toBytes 8 addr.toNat ++ [if poison then 1 else 0] ++ List.replicate 55 0 ++ old

/-- The system-area offset of the next entry of a segment (R378). -/
def Part.undoAt (p : Part) (seg : Nat) : Nat :=
  ofBytes (p.sys.readN 0x1030 8) + 128 * (seg * p.segLen + (p.undo.filter (fun u => u.seg = seg)).length)

/-- Logs the old value of a piece before the first unit of the interval, in the partition's log and in its system area (R378). -/
def Part.logOld (p : Part) (addr : Word) (half stack sb : Nat) (role : Option Nat) (old : List Byte) (poison : Bool) : Part :=
  if p.logged addr then p
  else { p with
    undo := p.undo ++ [⟨addr, p.segOf half, stack, sb, role, old, poison⟩]
    sys := p.sys.writeN (p.undoAt (p.segOf half)) (undoBytes addr poison old) }

/-- The half-stack of a place. -/
def SPlace.half (p : SPlace) : Nat := 2 * p.stack + halfBit p.sbyte

/-! ### Applying units and reading pieces at the home slice -/

/-- Whether a stack read for a moved address must wait for the sweep writes (R352 step 3). -/
def State.moveHold (s : State) (p : SPlace) (pa : Nat) : Bool :=
  (s.stack p.stack).switching &&
  (s.stack p.stack).dmap.home (halfBit p.sbyte) pa != (s.stack p.stack).inForce.home (halfBit p.sbyte) pa &&
  (List.range 16).any (fun k => (s.slice (p.stack * 16 + k)).filter.any (fun e => e.2))

/-- The current bytes and mark of a piece for its home slice n: present there, or as the stack has them. -/
def State.current (s : State) (n : Nat) (p : SPlace) : List Byte × Bool := (s.onSlice n p.sbyte).getD (s.onStack p.stack p.sbyte)

/-- Whether the first write of a unit to a piece can be logged; a piece of a system area is not logged (R378; DESIGN CHOICE, log 85). -/
def State.canLog (s : State) (part pa : Nat) (p : SPlace) : Bool :=
  (sysByte p.sbyte).isSome || (s.part part).logRoom (w64 (alignDown pa 64)) p.half

/-- Applies the bytes of one write unit to a piece at its home slice n, as one indivisible unit: the old value is logged, the mark stays
unless the unit is one that clears it and covers the piece, the unit is stamped (R105, R298, R349, R372, R378). None: it must wait. -/
def State.applyUnit (s : State) (n part pa : Nat) (p : SPlace) (cells : List Host.Cell) (poison clr : Bool) (w : Option Msg) :
    Option State :=
  let base := alignDown pa 64
  let sb := pieceBase p.sbyte
  let cur := s.current n p
  if !s.canLog part pa p then none
  else
    (s.ensureTag n pa sb).map (fun s =>
      let data := overlay base cur.1 cells
      let mark := if clr && wholePiece base cells then poison else cur.2 || poison
      let s := if (sysByte sb).isSome then s.putSys sb data mark
        else s.modPart part (fun q => q.logOld (w64 base) p.half p.stack sb none cur.1 cur.2)
      (s.putPiece n sb data true mark).stamp p.stack sb data mark w)

/-- Makes a piece present and clean at its home slice (R349). None: no tag is to be had. -/
def State.allocClean (s : State) (n pa : Nat) (p : SPlace) : Option State :=
  let sb := pieceBase p.sbyte
  if (s.onSlice n sb).isSome then some s
  else
    let cur := s.onStack p.stack sb
    (s.ensureTag n pa sb).map (fun s => s.putPiece n sb cur.1 false cur.2)

/-- Counts a read served by bypass, saturating at 2^32 − 1 (R366, R367). -/
def Slice.countBypass (l : Slice) : Slice := { l with bypass := Nat.min (l.bypass + 1) (2 ^ 32 - 1) }

/-- Whether a couch holds new requests to a stack: steps 1 to 5 (R341). -/
def State.couching (s : State) (n : Nat) : Bool := (s.stack n).couch.any (fun k => decide (k.step ≤ 5))

/-- Whether a request for a piece waits in an MSHR of a slice: what comes after it for the piece waits behind it (R365, R366). -/
def Slice.missed (l : Slice) (p : SPlace) : Bool := l.mshrs.any (fun e => decide (e.stack = p.stack) && decide (e.sbyte / 64 = p.sbyte / 64))

/-- Whether slice n can serve a request for a piece now that needs no read of the stack (R341, R350, R365). -/
def State.sliceOpen (s : State) (n : Nat) (p : SPlace) : Bool :=
  !(s.slice n).hold && !s.couching p.stack && !(s.slice n).missed p

/-- Whether slice n can read a piece that is absent from the stack through an MSHR (R352, R366). -/
def State.missOpen (s : State) (n : Nat) (p : SPlace) (pa : Nat) : Bool :=
  decide ((s.slice n).mshrs.length < 64) && !s.moveHold p pa

/-! ### Answers and deliveries (R297, R298) -/

/-- A fetched line with the write-throughs to it that were issued before the fetch and that a couch holds back (R341, R342). -/
def State.withHeld (s : State) (m : Msg) (home : Nat) (data : List Byte) : List Byte :=
  (s.inFlight.filter (fun e => e.kind.ofCache && !e.kind.isWb && decide (e.id < m.id) && e.part == m.part && e.addr / 64 == m.addr / 64 &&
    (s.cacheCores home).contains e.core)).foldl (fun d e => overlay (m.addr / 64 * 64) d e.bytes) data

/-- The answer to a request, at the requester: data to the thread, a fetched line into its portion. -/
def State.deliver (s : State) (m : Msg) (data : List Byte) (poison : Bool) (pd : List Byte) : State :=
  match m.kind with
  | .fetch home loc =>
    (s.install home ⟨m.addr / 64, s.withHeld m home pd, false, poison, loc⟩).answer m.core m.ctx ⟨m.id, data, poison, 0, 0⟩
  | _ => s.answer m.core m.ctx ⟨m.id, data, poison, 0, 0⟩

/-- Whether the unit or reply at a place of a die's inbox can be delivered: the die's clock covers its vector, and the units of one sender keep
their order (R298; DEDUCED, log 27). -/
def State.deliverable (s : State) (d k : Nat) : Bool :=
  match ((s.die d).inbox)[k]? with
  | none => false
  | some u => !((s.die d).inbox.take k).any (fun e => e.sender = u.sender) && coversBut (s.die d).clock u.vec u.sender

/-- Delivers the unit or reply at a place of a die's inbox: it is merged and applied to the view, and a reply answers its request (R297,
R298). -/
def State.deliverAt (s : State) (d k : Nat) : State :=
  match ((s.die d).inbox)[k]? with
  | none => s
  | some u =>
    let s := s.modDie d (fun x => { x with inbox := dropAt x.inbox k, clock := joinClock x.clock u.vec })
    let s := if s.ownerDie u.piece.stack = d then s else s.modDie d (fun x => x.putView u.piece)
    match u.reply with
    | none => s
    | some m => s.deliver m (m.bytes.map (·.2)) u.piece.poison u.piece.data

/-- Makes the deliveries to a die that an access must wait for, until its clock covers another; n bounds them. -/
def State.catchUp (s : State) (d : Nat) (vec : List Nat) : Nat → State
  | 0 => s
  | n + 1 =>
    if covers (s.die d).clock vec then s
    else match (List.range (s.die d).inbox.length).find? (s.deliverable d) with
      | none => s
      | some k => State.catchUp (s.deliverAt d k) d vec n

/-- The state in which a die's clock covers another, as far as what has been sent to the die brings it there. -/
def State.caughtUp (s : State) (d : Nat) (vec : List Nat) : State := s.catchUp d vec (s.die d).inbox.length

/-- A piece as a read at device scope on die d would find it: in the die's view, or at the home slice. -/
def State.peekPiece (s : State) (d part pa : Nat) : List Byte × Bool :=
  match (s.part part).place pa with
  | none => ([], false)
  | some p =>
    match (if s.ownerDie p.stack = d then none else (s.die d).viewOf p.stack (p.sbyte / 64)) with
    | some v => (v.data, v.poison)
    | none => s.current (s.homeSlice p pa) p

/-! ### Accesses of agents at device scope (R19, R24, R39, R301, R385) -/

/-- A device-scope read of a whole piece by an agent on die d, as one indivisible unit: from the die's view when it holds the piece,
otherwise at the home slice, whose vector is merged (R297, R298). None: it must wait. -/
def State.devPiece (s : State) (d part pa : Nat) : Option (List Byte × Bool × State) :=
  match s.placeAll part pa with
  | none => none
  | some p =>
    let o := s.ownerDie p.stack
    match (if o = d || (sysByte p.sbyte).isSome then none else (s.die d).viewOf p.stack (p.sbyte / 64)) with
    | some v => some (v.data, v.poison, s)
    | none =>
      let n := s.homeSlice p pa
      let s := if o = d then s else s.caughtUp d (s.die o).clock
      if !s.sliceOpen n p then none
      else if o ≠ d && !covers (s.die d).clock (s.die o).clock then none
      else
        let here := s.onSlice n p.sbyte
        if here.isNone && s.moveHold p pa then none
        else
          let cur := s.current n p
          let s? :=
            if here.isSome then some (s.touch n p.sbyte)
            else if (s.slice n).mshrs.length < 64 then (s.allocClean n pa p).map (fun s => s.touch n p.sbyte)
            else if (s.slice n).filter.any (fun e => e.1 = granOf p.sbyte) then none
            else some (s.modSlice n Slice.countBypass)
          s?.map (fun s =>
            let s := if o = d then s else
              { s with msgCtr := s.msgCtr + 1 }.modDie d (fun x => { x with clock := joinClock x.clock (s.die o).clock }.putView
                ⟨p.stack, p.sbyte / 64, cur.1, cur.2, s.msgCtr⟩)
            (cur.1, cur.2, s))

/-- A device-scope read of n bytes within pieces; the flag says whether a piece is poisoned. -/
def State.devRead (s : State) (d part pa : Nat) : Nat → Nat → Option (List Byte × Bool × State)
  | 0, _ => some ([], false, s)
  | k + 1, n =>
    let here := Nat.min n (64 - pa % 64)
    if n = 0 then some ([], false, s)
    else match s.devPiece d part pa with
      | none => none
      | some (bs, pz, s) =>
        match State.devRead s d part (pa + here) k (n - here) with
        | none => none
        | some (rest, pz', s) => some (Machine.slice bs (pa % 64) here ++ rest, pz || pz', s)

/-- A device-scope write of a masked unit to one piece by an agent on die d, applied at the home slice (R105); `clr` says that a unit over
the whole piece clears its mark (R372). None: it must wait. -/
def State.devUnit (s : State) (d part pa : Nat) (cells : List Host.Cell) (poison : Bool) (w : Option Msg := none) (clr : Bool := true) :
    Option State :=
  match s.placeAll part pa with
  | none => none
  | some p =>
    let o := s.ownerDie p.stack
    let n := s.homeSlice p pa
    let s := if o = d then s else s.caughtUp o (s.die d).clock
    if !s.sliceOpen n p then none
    else if o ≠ d && !covers (s.die o).clock (s.die d).clock then none
    else if (s.onSlice n p.sbyte).isNone && !wholePiece (alignDown pa 64) cells && !s.missOpen n p pa then none
    else
      let s := if o = d then s else s.modDie o (fun x => { x with clock := joinClock x.clock (s.die d).clock })
      s.applyUnit n part pa p cells poison clr w

/-- Device-scope writes of units in their order, up to the first that must wait: the state, and how many have been applied (R105, R378). -/
def State.putUnits (s : State) (d part : Nat) (clr : Bool) : List (Nat × List Byte × Bool) → State × Nat
  | [] => (s, 0)
  | (pa, bs, pz) :: us =>
    match s.devUnit d part pa (cellsAt pa bs) pz none clr with
    | none => (s, 0)
    | some t => ((State.putUnits t d part clr us).1, (State.putUnits t d part clr us).2 + 1)

/-- The bytes of a range from pa on, cut into the units of its pieces; n bounds them. -/
def unitsOf (pa : Nat) : Nat → List Byte → List (Nat × List Byte × Bool)
  | 0, _ => []
  | n + 1, bs =>
    if bs.isEmpty then [] else (pa, bs.take (64 - pa % 64), false) :: unitsOf (pa + (64 - pa % 64)) n (bs.drop (64 - pa % 64))

/-- A device-scope write of bytes, piece by piece. None: a unit must wait. -/
def State.devWrite (s : State) (d part pa n : Nat) (bs : List Byte) : Option State :=
  let us := unitsOf pa n bs
  if (s.putUnits d part false us).2 = us.length then some (s.putUnits d part false us).1 else none

/-- A device-scope atomic of an agent on die d at the home slice's atomics unit: the old bytes and whether they are poisoned, in which
case nothing is written (R126, R365). `cells` gives the bytes that the old ones turn into. None: it must wait. -/
def State.devAtomic (s : State) (d part pa n : Nat) (cells : List Byte → List Host.Cell) (w : Option Msg := none) :
    Option (List Byte × Bool × State) :=
  match s.placeAll part pa with
  | none => none
  | some p =>
    let o := s.ownerDie p.stack
    let h := s.homeSlice p pa
    let s := if o = d then s else (s.caughtUp o (s.die d).clock).caughtUp d (s.die o).clock
    if !s.sliceOpen h p || (s.slice h).mshrs.any (fun e => e.kind.isAtomic && nfld e.addr 7 6 == nfld pa 7 6) then none
    else if o ≠ d && !(covers (s.die o).clock (s.die d).clock && covers (s.die d).clock (s.die o).clock) then none
    else if (s.onSlice h p.sbyte).isNone && !s.missOpen h p pa then none
    else
      let cur := s.current h p
      let old := Machine.slice cur.1 (pa % 64) n
      if cur.2 then some (old, true, s.touch h p.sbyte)
      else
        let s := if o = d then s else s.modDie o (fun x => { x with clock := joinClock x.clock (s.die d).clock })
        (s.applyUnit h part pa p (cells old) false false w).map (fun s =>
          (old, false, if o = d then s else
            { s with msgCtr := s.msgCtr + 1 }.modDie d (fun x => { x with clock := joinClock x.clock (s.die o).clock }.putView
              ⟨p.stack, p.sbyte / 64, overlay (alignDown pa 64) cur.1 (cells old), false, s.msgCtr⟩)))

/-! ### Serving requests that arrive (R103, R105, R350, R366) -/

/-- Whether two messages ask for the same piece. -/
def Msg.samePiece (a b : Msg) : Bool := a.stack == b.stack && a.sbyte / 64 == b.sbyte / 64

/-- A request that a cache makes to keep its lines: a write-back, a write-through, a line fetch. -/
def MKind.forCache (k : MKind) : Bool :=
  k.ofCache || (match k with
    | .fetch _ _ => true
    | _ => false)

/-- The threads that a request is made for: its own, or those whose accesses wait for the line that it fetches. -/
def State.agentsOf (s : State) (m : Msg) : List (Nat × Nat) :=
  match m.kind with
  | .fetch h _ =>
    if m.ctx = noCtx then (s.net.filter (fun w => w.kind.cache? == some h && w.addr / 64 == m.addr / 64)).map (fun w => (w.core, w.ctx))
    else [(m.core, m.ctx)]
  | _ => if m.ctx = noCtx then [] else [(m.core, m.ctx)]

/-- Whether a request must let an earlier one go first: one of its own thread to the same piece; one made for one of its threads with another
mask number to the stack (R105, R352); or, for a write-back, a write-through or a line fetch, a write-back or write-through of the same
cache to the piece, which reaches the home slice in the order in which the cache took the bytes (R15, R105, R110, R296). -/
def State.mustFollow (s : State) (m e : Msg) : Bool :=
  decide (e.id < m.id) && e.kind.atSlice &&
  ((e.core == m.core && e.ctx == m.ctx && m.samePiece e) ||
   (m.stack == e.stack && m.seq != e.seq && (s.agentsOf m).any (s.agentsOf e).contains) ||
   (m.kind.forCache && e.kind.ofCache && m.samePiece e && (s.cacheCores m.core).contains e.core))

/-- The clock a request comes with: that of its die when it crosses a die-to-die link, also where a couch has put its stack on the other
die since it was issued (R298, R341 step 6). -/
def State.reqClock (s : State) (m : Msg) : List Nat :=
  let d := dieOf m.core
  if s.ownerDie m.stack = d then [] else if m.vec.isEmpty then (s.die d).clock else m.vec

/-- Whether a request fetches a line for a store, load or atomic that was on its way to the line before a mark: a couch does not hold it
(R341; DEDUCED, log 68). -/
def State.fetchFor (s : State) (m : Msg) (start : Nat) : Bool :=
  match m.kind with
  | .fetch h false => s.net.any (fun e => decide (e.id < start) && decide (e.addr / 64 = m.addr / 64) && (match e.kind with
      | .cacheStore k => k == h
      | .cacheRead k _ _ => k == h
      | .cacheAtomic k _ _ => k == h
      | _ => false))
  | _ => false

/-- Whether a couch holds a request: in steps 1 to 5 one that came after its start, but no write-back of a cache, which step 3 awaits, and no fetch for
an access that step 2 awaits (R341; DEDUCED, log 68). -/
def State.couchHeld (s : State) (m : Msg) : Bool :=
  m.kind.atSlice && !m.kind.isWb &&
    (s.stack m.stack).couch.any (fun k => decide (k.step ≤ 5) && decide (k.start ≤ m.id) && !s.fetchFor m k.start)

/-- Whether a request can reach its home slice now: nothing it must follow is in flight, but in
the queue that it would join (R350) or held by a couch which it passes, no couch holds it (R341), and the owner die's
clock covers the one it carries (R298; DEDUCED, log 25). -/
def State.canArrive (s : State) (m : Msg) : Bool :=
  !s.couchHeld m &&
  s.inFlight.all (fun e => !s.mustFollow m e || s.couchHeld e || (s.slice m.slice).queue.any (fun q => q.id = e.id)) &&
  covers (s.die (s.ownerDie m.stack)).clock (s.reqClock m)

/-- Sends the answer of a request served at the home slice: at once to a requester on the owner die, otherwise with the owner's vector
through the forwarding of the requester's die (R297, R298). -/
def State.respond (s : State) (m : Msg) (data : List Byte) (poison : Bool) (pd : List Byte) (pz : Bool) : State :=
  let o := s.ownerDie m.stack
  let d := dieOf m.core
  if o = d then s.deliver m data poison pd
  else
    let u : DieUnit := ⟨o, (s.die o).clock, ⟨m.stack, m.sbyte / 64, pd, pz, s.msgCtr⟩, some { m with bytes := cellsAt 0 data }, none⟩
    { s with msgCtr := s.msgCtr + 1 }.modDie d (fun x => { x with inbox := x.inbox ++ [u] })

end Sys2Proof.Machine
end

