-- ==== Sys2Proof/Machine/Fetch.lean ====
section
/-!
DEFINITION. Fetching an instruction's bytes and the checks before effect (R37 to R39, R51, R54, R252).
-/

namespace Sys2Proof.Machine

/-- What a fetch gives: a cause, a wait, or the bytes from the PC to the end of its block. -/
inductive Fetched where
  | trap (t : Trap) (s : State)
  | wait (s : State)
  | bytes (bs : List Byte) (poison : Bool) (s : State)

/-- Key of a block in the fetch buffer: the partition-physical blocks of each partition, and apart from them those of the firmware's own
memory (R346). -/
def blockKey (fw : Bool) (part pa : Nat) : Nat := pa / 32 * 32 + part % 16 * 2 + b2n fw

/-- A block as memory has it now, read at device scope as one unit (R39). None: the read must wait. -/
def State.readBlock (s : State) (c part pa : Nat) (fw : Bool) : Option (FBlock × State) :=
  if fw then some (⟨blockKey fw part pa, s.fwMem.readN (alignDown pa 32) 32, false⟩, s)
  else (s.devPiece (dieOf c) part pa).map (fun r => (⟨blockKey fw part pa, Machine.slice r.1 (alignDown (pa % 64) 32) 32, r.2.1⟩, r.2.2))

/-- Puts a block into a fetch buffer in the place of what it held of it. -/
def Core.keepBlock (k : Core) (b : FBlock) : Core := { k with fbuf := k.fbuf.filter (fun e => decide (e.blk ≠ b.blk)) ++ [b] }

/-- The block at an address: one that is not held is read; of one that memory has changed since it was read, the old or the new contents (R8,
R39). -/
def State.block (s : State) (c part pa : Nat) (fw : Bool) : Option (FBlock × State) :=
  match (s.core c).fbuf.find? (fun b => b.blk = blockKey fw part pa), s.readBlock c part pa fw with
  | none, r => r.map (fun r => (r.1, r.2.modCore c (fun k => k.keepBlock r.1)))
  | some b, none => some (b, s)
  | some b, some r =>
    if b = r.1 then some (b, s)
    else if Config.freeBool s.freeCtr then some (b, s.freeNext)
    else some (r.1, (r.2.modCore c (fun k => k.keepBlock r.1)).freeNext)

/-- Checks 1 to 3 of R51 and the bytes of the block from the PC up. -/
def State.fetch (s : State) (c x : Nat) (pc : Word) : Fetched :=
  if fld pc 63 57 ≠ 0 then .trap ⟨Cause.protFetch, pc, 0⟩ s
  else
    match s.lookup c pc.toNat with
    | (none, s) => .trap ⟨Cause.tbMissFetch, pc, 0⟩ s
    | (some e, s) =>
      if !bit e.word 2 || (bit e.word 3 && !s.isSup c x) then .trap ⟨Cause.protFetch, pc, 0⟩ s
      else
        let pa := e.pa pc.toNat
        let part := s.partOf c x
        if !e.fw && ((s.part part).place pa).isNone then .trap ⟨Cause.deckleViolation, pc, 0⟩ s
        else match s.block c part pa e.fw with
          | none => .wait s
          | some (b, s) => .bytes (b.data.drop (pa % 32)) b.poison s

/-- The word at an address as the next fetch there would find it, if its page is in the translation buffer. -/
def State.peekWord (s : State) (c x : Nat) (pc : Word) : Option Nat :=
  if fld pc 63 57 ≠ 0 then none
  else (((s.core c).tbNow s.freeCtr).find? (fun e => e.holds pc.toNat)).bind (fun e =>
    let pa := e.pa pc.toNat
    let part := s.partOf c x
    if !bit e.word 2 || (bit e.word 3 && !s.isSup c x) then none
    else match (s.core c).fbuf.find? (fun b => b.blk = blockKey e.fw part pa) with
      | some b => if b.poison then none else some (ofBytes (Machine.slice b.data (pa % 32) 4))
      | none =>
        if e.fw then some (ofBytes (s.fwMem.readN pa 4))
        else
          let r := s.peekPiece (dieOf c) part pa
          if r.2 then none else some (ofBytes (Machine.slice r.1 (pa % 64) 4)))

/-- The PC past the pad words that stand at an address (R37, R135). -/
def State.skipPads (s : State) (c x : Nat) : Nat → Word → Word
  | 0, pc => pc
  | n + 1, pc => if s.peekWord c x pc = some 3 then State.skipPads s c x n (pc + 4) else pc

/-- Address of the instruction that follows, pad words skipped; the virtual space holds no more words than the count (R135). -/
def State.following (s : State) (c x : Nat) (pc : Word) : Word := s.skipPads c x (2 ^ 55) pc

/-- An opcode that issues in supervisor mode only: SCFGR to HALT (R54). -/
def privilegedOp (op : Nat) : Bool := decide (0x1EA ≤ op) && decide (op ≤ 0x1F0)

/-- An opcode that an Atelier core lacks (R252). -/
def atelierLacks (w : Nat) : Bool :=
  let op := nfld w 11 2
  (decide (0x160 ≤ op) && decide (op ≤ 0x1BF)) || (decide (0x068 ≤ op) && decide (op ≤ 0x06A)) ||
  (op == 0x064 && !nbit w 41) || (decide (0x1C0 ≤ op) && decide (op ≤ 0x1C6))

/-- Checks 4 to 10 of R51 on the bytes at the PC. -/
def decodeChecked (bs : List Byte) (pc : Word) (sup atelier : Bool) : Except Trap (Instr × Nat) :=
  let early (w : Nat) : Option Trap :=
    if atelier && atelierLacks w then some ⟨Cause.opcodeUnassigned, w64 w, 0⟩
    else if privilegedOp (nfld w 11 2) && !sup then some ⟨Cause.privileged, w64 w, 0⟩ else none
  match decode bs with
  | .ok i n =>
    if n = 4 then .ok (i, n)
    else match early (leNat (bs.take n)) with
      | some t => .error t
      | none => .ok (i, n)
  | .reject why w _ =>
    match why with
    | .short => .error ⟨Cause.fetchCrossing, pc, 0⟩
    | .padReserved b => .error ⟨Cause.fieldReserved, w64 w, w64 b⟩
    | .unassigned => .error ⟨Cause.opcodeUnassigned, w64 w, 0⟩
    | .field b => match early w with
      | some t => .error t
      | none => .error ⟨Cause.fieldReserved, w64 w, w64 b⟩
    | .register b => match early w with
      | some t => .error t
      | none => .error ⟨Cause.registerInvalid, w64 w, w64 b⟩
    | .modifier b => match early w with
      | some t => .error t
      | none => .error ⟨Cause.modifierInvalid, w64 w, w64 b⟩

end Sys2Proof.Machine
end

