-- ==== Sys2Proof/Machine/Operands.lean ====
section
/-!
DEFINITION. The operand forms (R29, R44, R49, R60, R114) and the wrapper under which every thread instruction runs: guard, modifier
conditions, effect, completion or cause (R28, R29, R33, R50, R51, R62, R258).
-/

namespace Sys2Proof.Machine

/-! ### Values of operand forms -/

/-- Operand b of S and M forms: a register's value or the sign-extended immediate (R44, R60). -/
def State.b (s : State) : RegImm → Word
  | .reg r => s.g r
  | .imm v => v.signExtend 64

/-- Operand b of MADD (R74). -/
def State.b47 (s : State) : RegImm47 → Word
  | .reg r => s.g r
  | .imm v => v.signExtend 64

/-- A shift amount or bit number: the register's value mod 64, or the immediate (R66, R70). -/
def State.amount (s : State) (b : RegImm) : Nat := (s.b b).toNat % 64

/-- The offset of a memory operand (R114, R68). -/
def State.off (s : State) : MemOff → Word
  | .imm v => v.signExtend 64
  | .idx r k => s.g r * w64 (2 ^ k.toNat)

/-- The address EA of a memory operand (R114). -/
def State.ea (s : State) (m : MemOp) : Word := s.g m.base + s.off m.off

/-- Whether the predicate condition holds (R50). -/
def State.guard (s : State) (g : Guard) : Bool := s.p g.pred != g.neg

/-! ### Operands with modifiers -/

/-- An operand as the modifier rules see it: source or destination, class g or f. -/
inductive Opnd where
  | src (r : GReg)
  | dst (r : GReg)
  | srcF (r : FReg)
  | dstF (r : FReg)
  deriving DecidableEq, Repr

/-- Operand b as the modifier rules see it. -/
def opndsB : RegImm → List Opnd
  | .reg r => [.src r]
  | .imm _ => []

/-- Operand b of MADD. -/
def opndsK : RegImm47 → List Opnd
  | .reg r => [.src r]
  | .imm _ => []

/-- The registers of a memory operand. -/
def opndsM (m : MemOp) : List Opnd :=
  .src m.base :: (match m.off with
    | .imm _ => []
    | .idx r _ => [.src r])

/-- The class and number of an operand. -/
def Opnd.key : Opnd → Bool × Nat
  | .src r => (false, r.num.toNat)
  | .dst r => (false, r.num.toNat)
  | .srcF r => (true, r.num.toNat)
  | .dstF r => (true, r.num.toNat)

/-- Its modifier. -/
def Opnd.md : Opnd → Md
  | .src r => r.md
  | .dst r => r.md
  | .srcF r => r.md
  | .dstF r => r.md

def Opnd.isDst : Opnd → Bool
  | .dst _ => true
  | .dstF _ => true
  | _ => false

/-- Whether an instruction consumes a register. -/
def consumes (os : List Opnd) (k : Bool × Nat) : Bool := os.any (fun o => o.md == .consume && o.key == k)

/-- The conditions of an instruction's modifiers, tested together (R29): consume and peek need full, deposit needs empty unless the
same register is also consumed. -/
def condsOf (os : List Opnd) : List ModCond :=
  os.flatMap (fun o => match o.md with
    | .plain => []
    | .consume => [⟨o.key.1, o.key.2, .full⟩]
    | .peek => [⟨o.key.1, o.key.2, .full⟩]
    | .deposit => if consumes os o.key then [] else [⟨o.key.1, o.key.2, .empty⟩])

/-- Whether an instruction also writes a consumed register full at once: as a destination of the thread's own, or by a deposit. -/
def refills (os : List Opnd) (k : Bool × Nat) : Bool :=
  os.any (fun o => o.isDst && o.key == k && (k.1 || decide (k.2 < 32) || o.md == .deposit))

/-- Empties the consumed registers that the instruction does not write (R29). -/
def State.consumeAll (s : State) (os : List Opnd) : State :=
  os.foldl (fun s o =>
    if o.md == .consume && !refills os o.key then
      (if o.key.1 then s.setFullF o.key.2 false else s.setFullG o.key.2 false)
    else s) s

/-! ### What an instruction comes to -/

/-- The end of an instruction's issue: complete, complete with a new PC, a cause with the effects the entry states, complete and then a
cause, parked, or not issued. -/
inductive Res where
  | done (s : State)
  | jump (pc : Word) (s : State)
  | trap (code : Nat) (tval tstat : Word) (s : State)
  | after (code : Nat) (tval tstat : Word) (s : State)
  | park (w : Wait) (s : State)
  | bubble (s : State)

/-- A cause with no effect. -/
def Res.raise (s : State) (t : Trap) : Res := .trap t.code t.tval t.tstat s

/-- Puts the PC on and forgets the phases of the instruction. -/
def Ctx.settle (t : Ctx) (pc : Word) : Ctx := { t with pc := pc, park := none, phase := .none, replies := [] }

/-- Completion: the PC moves, and single-step posts its event when bit 0 of DBGCTL was set at issue at level 0 (R258). -/
def State.complete (s0 s : State) (pc : Word) : State :=
  let s := s.modMe (fun t => t.settle pc)
  if s0.me.level == .l0 && bit s0.me.dbgctl 0 then s.post s.cur.1 s.cur.2 (.plain Cause.singleStep s0.me.pc 0) else s

/-- Parks the issuing thread on a condition (R28). -/
def State.parkOn (s : State) (i : Instr) (w : Wait) : State :=
  s.modMe (fun t => { t with park := some ⟨i, w, s.gtime.toNat, false⟩ })

/-- The state an instruction's end leaves. -/
def State.finish (s0 : State) (i : Instr) (size : Nat) (os : List Opnd) : Res → State
  | .done s => s0.complete (s.consumeAll os) (s0.me.pc + w64 size)
  | .jump pc s => s0.complete (s.consumeAll os) pc
  | .trap code tval tstat s => (s.modMe (fun t => t.settle s0.me.pc)).raise s0.cur.1 s0.cur.2 code tval tstat s0.me.pc
  | .after code tval tstat s =>
    let next := s0.me.pc + w64 size
    let s := (s.consumeAll os).modMe (fun t => t.settle next)
    s.raise s0.cur.1 s0.cur.2 code tval tstat (s.following s0.cur.1 s0.cur.2 next)
  | .park w s => s.parkOn i w
  | .bubble s => s.modMe (fun t => { t with park := none })

/-- Runs a thread instruction: a failed predicate condition completes it without effect (R50), an unmet modifier condition parks it
(R29), otherwise its effect decides. -/
def State.run (s : State) (i : Instr) (size : Nat) (g : Guard) (os : List Opnd) (eff : State → Res) : Outcome :=
  if s.guard g then
    if s.modsOk (condsOf os) then .next (s.finish i size os (eff s))
    else .next (s.parkOn i (.mods (condsOf os)))
  else .next (s.complete s (s.me.pc + w64 size))

end Sys2Proof.Machine
end

