-- ==== Sys2Proof/Machine/Alu.lean ====
section
/-!
DEFINITION. Integer arithmetic, logic, constants, addresses, moves, compares and checks: rows 0 and 1 (R59 to R74).
-/

namespace Sys2Proof.Machine

/-! ### Shared forms -/

/-- d := f(A, B) (R65). -/
def State.binary (s : State) (i : Instr) (g : Guard) (d a : GReg) (b : RegImm) (f : Word → Word → Word) : Outcome :=
  s.run i 8 g (.dst d :: .src a :: opndsB b) (fun s => .done (s.putG d (f (s.g a) (s.b b))))

/-- d := f(A, B), or INT_DIVZERO where B is 0 (R66). -/
def State.divide (s : State) (i : Instr) (g : Guard) (d a : GReg) (b : RegImm) (f : Word → Word → Word) : Outcome :=
  s.run i 8 g (.dst d :: .src a :: opndsB b) (fun s =>
    if s.b b = 0 then .trap Cause.intDivzero (s.g a) 0 s else .done (s.putG d (f (s.g a) (s.b b))))

/-- d := f(A, n) for a shift amount n (R66). -/
def State.shift (s : State) (i : Instr) (g : Guard) (d a : GReg) (b : RegImm) (f : Word → Nat → Word) : Outcome :=
  s.run i 8 g (.dst d :: .src a :: opndsB b) (fun s => .done (s.putG d (f (s.g a) (s.amount b))))

/-- d := f(A) (R65, R69). -/
def State.unary (s : State) (i : Instr) (g : Guard) (d a : GReg) (f : Word → Word) : Outcome :=
  s.run i 8 g [.dst d, .src a] (fun s => .done (s.putG d (f (s.g a))))

/-- d := whether A and B are related (R70). -/
def State.compare (s : State) (i : Instr) (g : Guard) (d : PReg) (a : GReg) (b : RegImm) (f : Word → Word → Bool) : Outcome :=
  s.run i 8 g (.src a :: opndsB b) (fun s => .done (s.putP d (f (s.g a) (s.b b))))

/-- d := the exact signed result, or INT_OVERFLOW where it does not fit (R72). -/
def State.checked (s : State) (i : Instr) (g : Guard) (d a : GReg) (b : RegImm) (f : Int → Int → Int) : Outcome :=
  s.run i 8 g (.dst d :: .src a :: opndsB b) (fun s =>
    let r := f (s.g a).toInt (s.b b).toInt
    if -2 ^ 63 ≤ r ∧ r < 2 ^ 63 then .done (s.putG d (BitVec.ofInt 64 r))
    else .trap Cause.intOverflow (BitVec.ofInt 64 r) 0 s)

/-! ### Functions (R66) -/

/-- Upper half of the signed product. -/
def mulhS (a b : Word) : Word := BitVec.ofInt 64 (a.toInt * b.toInt / 2 ^ 64)
/-- Upper half of the unsigned product. -/
def mulhU (a b : Word) : Word := w64 (a.toNat * b.toNat / 2 ^ 64)
/-- Signed quotient toward zero. -/
def divS (a b : Word) : Word := BitVec.ofInt 64 (Int.tdiv a.toInt b.toInt)
/-- Unsigned quotient. -/
def divU (a b : Word) : Word := w64 (a.toNat / b.toNat)
/-- Signed remainder, with the sign of the dividend. -/
def remS (a b : Word) : Word := BitVec.ofInt 64 (a.toInt - b.toInt * Int.tdiv a.toInt b.toInt)
/-- Unsigned remainder. -/
def remU (a b : Word) : Word := w64 (a.toNat - b.toNat * (a.toNat / b.toNat))
/-- Left shift. -/
def shlW (a : Word) (n : Nat) : Word := w64 (a.toNat * 2 ^ n)
/-- Logical right shift. -/
def shrW (a : Word) (n : Nat) : Word := w64 (a.toNat / 2 ^ n)
/-- Arithmetic right shift. -/
def sarW (a : Word) (n : Nat) : Word := BitVec.ofInt 64 (a.toInt / 2 ^ n)
/-- Left rotation. -/
def rotW (a : Word) (n : Nat) : Word := w64 (a.toNat * 2 ^ n + a.toNat / 2 ^ (64 - n))
/-- Number of zero bits above the highest one. -/
def clzW (a : Word) : Word := if a = 0 then 64 else w64 (63 - Nat.log2 a.toNat)
/-- Number of zero bits below the lowest one. -/
def ctzW (a : Word) : Word := w64 ((lowestBit a.toNat 0 64).getD 64)
/-- Number of one bits. -/
def popcW (a : Word) : Word := w64 (popcount a.toNat 64)
/-- Bit i becomes bit 63 − i. -/
def brevW (a : Word) : Word := w64 ((List.range 64).foldl (fun acc i => 2 * acc + a.toNat / 2 ^ i % 2) 0)
/-- Byte i becomes byte 7 − i. -/
def bswapW (a : Word) : Word := wordOf (toBytes 8 a.toNat).reverse
/-- Bits of a width code (R64). -/
def extBits : ExtW → Nat
  | .b => 8
  | .h => 16
  | .w => 32
/-- A number of n bits read as two's complement. -/
def signed (n v : Nat) : Int := if 2 * (v % 2 ^ n) < 2 ^ n then (v % 2 ^ n : Nat) else (v % 2 ^ n : Nat) - (2 ^ n : Nat)
/-- Sign extension from n bits. -/
def sextW (n : Nat) (v : Nat) : Word := BitVec.ofInt 64 (signed n v)
/-- Zero extension from n bits. -/
def zextW (n : Nat) (v : Nat) : Word := w64 (v % 2 ^ n)

/-! ### Row 0 -/

def execAdd (g : Guard) (d a : GReg) (b : RegImm) (s : State) : Outcome := s.binary (.add g d a b) g d a b (fun x y => x + y)
def execSub (g : Guard) (d a : GReg) (b : RegImm) (s : State) : Outcome := s.binary (.sub g d a b) g d a b (fun x y => x - y)
def execMul (g : Guard) (d a : GReg) (b : RegImm) (s : State) : Outcome := s.binary (.mul g d a b) g d a b (fun x y => x * y)
def execMulh (g : Guard) (d a : GReg) (b : RegImm) (s : State) : Outcome := s.binary (.mulh g d a b) g d a b mulhS
def execMulhn (g : Guard) (d a : GReg) (b : RegImm) (s : State) : Outcome := s.binary (.mulhn g d a b) g d a b mulhU
def execDiv (g : Guard) (d a : GReg) (b : RegImm) (s : State) : Outcome := s.divide (.div g d a b) g d a b divS
def execDivn (g : Guard) (d a : GReg) (b : RegImm) (s : State) : Outcome := s.divide (.divn g d a b) g d a b divU
def execRem (g : Guard) (d a : GReg) (b : RegImm) (s : State) : Outcome := s.divide (.rem g d a b) g d a b remS
def execRemn (g : Guard) (d a : GReg) (b : RegImm) (s : State) : Outcome := s.divide (.remn g d a b) g d a b remU
def execAnd (g : Guard) (d a : GReg) (b : RegImm) (s : State) : Outcome := s.binary (.and g d a b) g d a b (fun x y => x &&& y)
def execOr (g : Guard) (d a : GReg) (b : RegImm) (s : State) : Outcome := s.binary (.or g d a b) g d a b (fun x y => x ||| y)
def execXor (g : Guard) (d a : GReg) (b : RegImm) (s : State) : Outcome := s.binary (.xor g d a b) g d a b (fun x y => x ^^^ y)
def execAndn (g : Guard) (d a : GReg) (b : RegImm) (s : State) : Outcome := s.binary (.andn g d a b) g d a b (fun x y => x &&& ~~~y)
def execOrn (g : Guard) (d a : GReg) (b : RegImm) (s : State) : Outcome := s.binary (.orn g d a b) g d a b (fun x y => x ||| ~~~y)
def execShl (g : Guard) (d a : GReg) (b : RegImm) (s : State) : Outcome := s.shift (.shl g d a b) g d a b shlW
def execShr (g : Guard) (d a : GReg) (b : RegImm) (s : State) : Outcome := s.shift (.shr g d a b) g d a b shrW
def execSar (g : Guard) (d a : GReg) (b : RegImm) (s : State) : Outcome := s.shift (.sar g d a b) g d a b sarW
def execRot (g : Guard) (d a : GReg) (b : RegImm) (s : State) : Outcome := s.shift (.rot g d a b) g d a b rotW
def execMin (g : Guard) (d a : GReg) (b : RegImm) (s : State) : Outcome :=
  s.binary (.min g d a b) g d a b (fun x y => if x.toInt ≤ y.toInt then x else y)
def execMax (g : Guard) (d a : GReg) (b : RegImm) (s : State) : Outcome :=
  s.binary (.max g d a b) g d a b (fun x y => if x.toInt ≤ y.toInt then y else x)
def execMinn (g : Guard) (d a : GReg) (b : RegImm) (s : State) : Outcome :=
  s.binary (.minn g d a b) g d a b (fun x y => if x.toNat ≤ y.toNat then x else y)
def execMaxn (g : Guard) (d a : GReg) (b : RegImm) (s : State) : Outcome :=
  s.binary (.maxn g d a b) g d a b (fun x y => if x.toNat ≤ y.toNat then y else x)
def execAbs (g : Guard) (d a : GReg) (s : State) : Outcome := s.unary (.abs g d a) g d a (fun x => w64 x.toInt.natAbs)
def execNeg (g : Guard) (d a : GReg) (s : State) : Outcome := s.unary (.neg g d a) g d a (fun x => -x)
def execClz (g : Guard) (d a : GReg) (s : State) : Outcome := s.unary (.clz g d a) g d a clzW
def execCtz (g : Guard) (d a : GReg) (s : State) : Outcome := s.unary (.ctz g d a) g d a ctzW
def execPopc (g : Guard) (d a : GReg) (s : State) : Outcome := s.unary (.popc g d a) g d a popcW
def execBrev (g : Guard) (d a : GReg) (s : State) : Outcome := s.unary (.brev g d a) g d a brevW
def execBswap (g : Guard) (d a : GReg) (s : State) : Outcome := s.unary (.bswap g d a) g d a bswapW
def execSext (g : Guard) (d a : GReg) (wd : ExtW) (s : State) : Outcome :=
  s.unary (.sext g d a wd) g d a (fun x => sextW (extBits wd) x.toNat)
def execZext (g : Guard) (d a : GReg) (wd : ExtW) (s : State) : Outcome :=
  s.unary (.zext g d a wd) g d a (fun x => zextW (extBits wd) x.toNat)

/-! ### Row 1 -/

/-- LI (R67). -/
def execLi (g : Guard) (d : GReg) (imm : BitVec 55) (s : State) : Outcome :=
  s.run (.li g d imm) 12 g [.dst d] (fun s => .done (s.putG d (imm.signExtend 64)))

/-- LIH replaces the upper half of d (R67). -/
def execLih (g : Guard) (d : GReg) (imm : BitVec 55) (s : State) : Outcome :=
  s.run (.lih g d imm) 12 g [.dst d] (fun s => .done (s.putG d (w64 ((s.g d).toNat % 2 ^ 32 + imm.toNat * 2 ^ 32))))

/-- LEA (R68). -/
def execLea (g : Guard) (d : GReg) (m : MemOp) (s : State) : Outcome :=
  s.run (.lea g d m) 8 g (.dst d :: opndsM m) (fun s => .done (s.putG d (s.ea m)))

def execMov (g : Guard) (d a : GReg) (s : State) : Outcome := s.unary (.mov g d a) g d a (fun x => x)

/-- SEL (R69). -/
def execSel (g : Guard) (d a b : GReg) (k : BitVec 3) (s : State) : Outcome :=
  s.run (.sel g d a b k) 8 g [.dst d, .src a, .src b] (fun s => .done (s.putG d (if s.p k then s.g a else s.g b)))

def execCmpeq (g : Guard) (d : PReg) (a : GReg) (b : RegImm) (s : State) : Outcome :=
  s.compare (.cmpeq g d a b) g d a b (fun x y => x == y)
def execCmpne (g : Guard) (d : PReg) (a : GReg) (b : RegImm) (s : State) : Outcome :=
  s.compare (.cmpne g d a b) g d a b (fun x y => x != y)
def execCmplt (g : Guard) (d : PReg) (a : GReg) (b : RegImm) (s : State) : Outcome :=
  s.compare (.cmplt g d a b) g d a b (fun x y => decide (x.toInt < y.toInt))
def execCmple (g : Guard) (d : PReg) (a : GReg) (b : RegImm) (s : State) : Outcome :=
  s.compare (.cmple g d a b) g d a b (fun x y => decide (x.toInt ≤ y.toInt))
def execCmpltn (g : Guard) (d : PReg) (a : GReg) (b : RegImm) (s : State) : Outcome :=
  s.compare (.cmpltn g d a b) g d a b (fun x y => decide (x.toNat < y.toNat))
def execCmplen (g : Guard) (d : PReg) (a : GReg) (b : RegImm) (s : State) : Outcome :=
  s.compare (.cmplen g d a b) g d a b (fun x y => decide (x.toNat ≤ y.toNat))
def execTstbit (g : Guard) (d : PReg) (a : GReg) (b : RegImm) (s : State) : Outcome :=
  s.compare (.tstbit g d a b) g d a b (fun x y => bit x (y.toNat % 64))

/-- The field of BFX and BFXN (R71); the function bits hold len − 1. -/
def bitField (a : Word) (pos len : Nat) : Nat := a.toNat / 2 ^ pos % 2 ^ len

def execBfx (g : Guard) (d a : GReg) (pos len : BitVec 6) (s : State) : Outcome :=
  s.unary (.bfx g d a pos len) g d a (fun x => sextW (len.toNat + 1) (bitField x pos.toNat (len.toNat + 1)))
def execBfxn (g : Guard) (d a : GReg) (pos len : BitVec 6) (s : State) : Outcome :=
  s.unary (.bfxn g d a pos len) g d a (fun x => w64 (bitField x pos.toNat (len.toNat + 1)))

/-- BFI replaces bits pos + len − 1 to pos of d (R71). -/
def execBfi (g : Guard) (d a : GReg) (pos len : BitVec 6) (s : State) : Outcome :=
  s.run (.bfi g d a pos len) 8 g [.dst d, .src a] (fun s =>
    let n := len.toNat + 1
    let low := (s.g a).toNat % 2 ^ n
    .done (s.putG d (w64 ((s.g d).toNat - bitField (s.g d) pos.toNat n * 2 ^ pos.toNat + low * 2 ^ pos.toNat))))

def execAddv (g : Guard) (d a : GReg) (b : RegImm) (s : State) : Outcome := s.checked (.addv g d a b) g d a b (fun x y => x + y)
def execSubv (g : Guard) (d a : GReg) (b : RegImm) (s : State) : Outcome := s.checked (.subv g d a b) g d a b (fun x y => x - y)
def execMulv (g : Guard) (d a : GReg) (b : RegImm) (s : State) : Outcome := s.checked (.mulv g d a b) g d a b (fun x y => x * y)

/-- CHK (R73). -/
def execChk (g : Guard) (a : GReg) (b : RegImm) (s : State) : Outcome :=
  s.run (.chk g a b) 8 g (.src a :: opndsB b) (fun s =>
    if (s.b b).toNat ≤ (s.g a).toNat then .trap Cause.boundCheck (s.g a) (s.b b) s else .done s)

/-- MADD (R74). -/
def execMadd (g : Guard) (d a : GReg) (b : RegImm47) (c : GReg) (s : State) : Outcome :=
  s.run (.madd g d a b c) 12 g (.dst d :: .src a :: .src c :: opndsK b) (fun s => .done (s.putG d (s.g a * s.b47 b + s.g c)))

end Sys2Proof.Machine
end

