-- ==== Sys2Proof/Machine/Fp.lean ====
section
/-!
DEFINITION. Number formats, rounding, flags and significance counts (R139 to R158): exact dyadic values, the one ROUND, the operations
of scalar and vector floating point, EXP2, and the counts.
-/

namespace Sys2Proof

/-! ### Formats (R139) -/

/-- Width in bits. -/
def Fmt.bits : Fmt → Nat
  | .s => 32
  | .d => 64
  | .hf => 16
  | .bf => 16
/-- Precision, the hidden bit counted. -/
def Fmt.p : Fmt → Nat
  | .s => 24
  | .d => 53
  | .hf => 11
  | .bf => 8
/-- Width of the exponent field. -/
def Fmt.ew : Fmt → Nat
  | .s => 8
  | .d => 11
  | .hf => 5
  | .bf => 8
/-- Width in bytes. -/
def Fmt.bytes (f : Fmt) : Nat := f.bits / 8
/-- Exponent bias, which is the largest exponent. -/
def Fmt.bias (f : Fmt) : Int := 2 ^ (f.ew - 1) - 1
/-- Exponent of the smallest normal. -/
def Fmt.emin (f : Fmt) : Int := 1 - f.bias
/-- Weight of the lowest bit of a subnormal (R147). -/
def Fmt.qmin (f : Fmt) : Int := f.emin - f.p + 1
/-- Bits of an infinity. -/
def Fmt.inf (f : Fmt) (neg : Bool) : Nat := (2 ^ f.ew - 1) * 2 ^ (f.p - 1) + Machine.b2n neg * 2 ^ (f.bits - 1)
/-- The default NaN. -/
def Fmt.nan (f : Fmt) : Nat := (2 ^ f.ew - 1) * 2 ^ (f.p - 1) + 2 ^ (f.p - 2)
/-- The largest finite value of a sign. -/
def Fmt.maxFin (f : Fmt) (neg : Bool) : Nat := (2 ^ f.ew - 1) * 2 ^ (f.p - 1) - 1 + Machine.b2n neg * 2 ^ (f.bits - 1)
/-- A zero of a sign. -/
def Fmt.zero (f : Fmt) (neg : Bool) : Nat := Machine.b2n neg * 2 ^ (f.bits - 1)

/-! ### Integer codes (R168) -/

/-- The bounds of an integer code (R168). -/
def IntCode.bounds : IntCode → Int × Int
  | .w => (-2 ^ 31, 2 ^ 31 - 1)
  | .d => (-2 ^ 63, 2 ^ 63 - 1)
  | .wn => (0, 2 ^ 32 - 1)
  | .dn => (0, 2 ^ 64 - 1)

/-- The integer that an integer code reads from a word (R168). -/
def IntCode.read (ic : IntCode) (a : Word) : Int :=
  match ic with
  | .w => (BitVec.ofNat 32 a.toNat).toInt
  | .d => a.toInt
  | .wn => (a.toNat % 2 ^ 32 : Nat)
  | .dn => (a.toNat : Nat)

end Sys2Proof

namespace Sys2Proof.Machine

/-! ### Exact values -/

/-- An exact value: NaN, an infinity, or (−1)^neg × m × 2^e. A zero keeps its sign. -/
inductive FV where
  | nan (signalling : Bool)
  | inf (neg : Bool)
  | fin (neg : Bool) (m : Nat) (e : Int)
  deriving DecidableEq, Repr

/-- The value that bits of a format encode (R140). -/
def FV.ofBits (f : Fmt) (x : Nat) : FV :=
  let neg := nbit x (f.bits - 1)
  let ex := nfld x (f.bits - 2) (f.p - 1)
  let fr := x % 2 ^ (f.p - 1)
  if ex = 2 ^ f.ew - 1 then (if fr = 0 then .inf neg else .nan (!nbit fr (f.p - 2)))
  else if ex = 0 then .fin neg fr f.qmin
  else .fin neg (fr + 2 ^ (f.p - 1)) (f.qmin + ((ex : Int) - 1))

namespace FV
def isNan : FV → Bool
  | .nan _ => true
  | _ => false
def isSnan : FV → Bool
  | .nan s => s
  | _ => false
def isInf : FV → Bool
  | .inf _ => true
  | _ => false
def isZero : FV → Bool
  | .fin _ 0 _ => true
  | _ => false
def neg : FV → FV
  | .nan s => .nan s
  | .inf n => .inf (!n)
  | .fin n m e => .fin (!n) m e
def sign : FV → Bool
  | .nan _ => false
  | .inf n => n
  | .fin n _ _ => n
end FV

/-- The signed integer of a mantissa brought to a lower exponent. -/
def mantAt (neg : Bool) (m : Nat) (e low : Int) : Int :=
  let k : Nat := m * 2 ^ (e - low).toNat
  if neg then -(k : Int) else k

/-- The exact value of an integer times 2^e, a zero taking the sign given. -/
def FV.ofInt (k : Int) (e : Int) (zeroNeg : Bool) : FV :=
  if k = 0 then .fin zeroNeg 0 e else .fin (decide (k < 0)) k.natAbs e

/-- Sign of an exact zero sum (R148): mode 3 is RDN. -/
def zeroSumNeg (mode : Nat) (a b : Bool) : Bool := if mode = 3 then a || b else a && b

/-- The exact sum (R162, R153); ∞ − ∞ gives NaN. -/
def FV.add (mode : Nat) : FV → FV → FV
  | .nan _, _ => .nan false
  | _, .nan _ => .nan false
  | .inf a, .inf b => if a = b then .inf a else .nan false
  | .inf a, _ => .inf a
  | _, .inf b => .inf b
  | .fin a m e, .fin b n g =>
    let low := if e ≤ g then e else g
    let k := mantAt a m e low + mantAt b n g low
    let z := if m = 0 ∧ n = 0 then zeroSumNeg mode a b else decide (mode = 3)
    FV.ofInt k low z

/-- The exact product; 0 × ∞ gives NaN. -/
def FV.mul : FV → FV → FV
  | .nan _, _ => .nan false
  | _, .nan _ => .nan false
  | .inf a, .inf b => .inf (a != b)
  | .inf a, .fin b n _ => if n = 0 then .nan false else .inf (a != b)
  | .fin a m _, .inf b => if m = 0 then .nan false else .inf (a != b)
  | .fin a m e, .fin b n g => .fin (a != b) (m * n) (e + g)

/-- The order of two values that are not NaN: whether the first is below the second. −0 and +0 are equal. -/
def FV.lt : FV → FV → Bool
  | .nan _, _ => false
  | _, .nan _ => false
  | .inf a, .inf b => a && !b
  | .inf a, _ => a
  | _, .inf b => !b
  | .fin a m e, .fin b n g =>
    let low := if e ≤ g then e else g
    decide (mantAt a m e low < mantAt b n g low)

/-- Equality of two values that are not NaN. -/
def FV.eq (a b : FV) : Bool := !a.isNan && !b.isNan && !a.lt b && !b.lt a

/-! ### ROUND (R147, R149) -/

namespace Flag
def invalid : Nat := 1
def divzero : Nat := 2
def overflow : Nat := 4
def underflow : Nat := 8
def inexact : Nat := 16
end Flag

/-- Whether a mode rounds a remainder up in magnitude: 0 RNE, 1 RZ, 2 RUP, 3 RDN (R146). -/
def roundsUp (mode : Nat) (neg odd : Bool) (rem half : Nat) : Bool :=
  match mode with
  | 0 => decide (half < rem) || (decide (rem = half) && odd)
  | 1 => false
  | 2 => decide (rem ≠ 0) && !neg
  | _ => decide (rem ≠ 0) && neg

/-- A nonzero m × 2^e brought to a multiple of 2^q: the integer, and whether it is exact. -/
def roundAt (mode : Nat) (neg : Bool) (m : Nat) (e q : Int) : Nat × Bool :=
  if q ≤ e then (m * 2 ^ (e - q).toNat, true)
  else
    let k := (q - e).toNat
    let hi := m / 2 ^ k
    let rem := m % 2 ^ k
    (hi + b2n (roundsUp mode neg (nbit hi 0) rem (2 ^ (k - 1))), decide (rem = 0))

/-- floor(log2 m) of a nonzero number. -/
def ilog2 (m : Nat) : Nat := Nat.log2 m

/-- ROUND: bits of the format and the flags. -/
def round (f : Fmt) (mode : Nat) : FV → Nat × Nat
  | .nan _ => (f.nan, 0)
  | .inf n => (f.inf n, 0)
  | .fin n m e =>
    if m = 0 then (f.zero n, 0)
    else
      let top : Int := e + ilog2 m
      let q : Int := if top - f.p + 1 < f.qmin then f.qmin else top - f.p + 1
      let (k, exact) := roundAt mode n m e q
      if k ≠ 0 ∧ f.bias < q + ilog2 k then
        let toInf := match mode with
          | 0 => true
          | 1 => false
          | 2 => !n
          | _ => n
        (if toInf then f.inf n else f.maxFin n, Flag.overflow ||| Flag.inexact)
      else
        let small := decide (k = 0) || decide (q + ilog2 k < f.emin)
        let bits := (if k < 2 ^ (f.p - 1) then k else ((q - f.qmin).toNat + 1) * 2 ^ (f.p - 1) + (k - 2 ^ (f.p - 1)))
          + b2n n * 2 ^ (f.bits - 1)
        (bits, if exact then 0 else if small then Flag.inexact ||| Flag.underflow else Flag.inexact)

/-- RNE of a value, flags discarded (R146, R147). -/
def rne (f : Fmt) (v : FV) : Nat := (round f 0 v).1

/-! ### Significance counts (R155 to R157) -/

/-- E(x), for a nonzero finite value. -/
def FV.exp : FV → Int
  | .fin _ m e => e + ilog2 m
  | _ => 0

/-- Whether a value is nonzero and finite. -/
def FV.isNum : FV → Bool
  | .fin _ m _ => m != 0
  | _ => false

/-- SIGBITS of a subnormal. -/
def sigBits (f : Fmt) (v : FV) : Nat := (v.exp - f.qmin + 1).toNat

/-- Whether a value is a subnormal of a format. -/
def isSubnormal (f : Fmt) (v : FV) : Bool := v.isNum && decide (v.exp < f.emin)

/-- CLAMP. -/
def clamp (v l h : Int) : Nat := (if v < l then l else if h < v then h else v).toNat

/-- The overrides of R157 on a rule's count. -/
def overrides (f : Fmt) (y : FV) (rule : Nat) : Nat :=
  if y.isNan || y.isInf then 0 else if isSubnormal f y then Nat.min rule (sigBits f y) else rule

/-- The largest trust floor of the terms; none where every term is zero or not finite. -/
def trustFloor : List (FV × Nat) → Option Int
  | [] => none
  | (v, c) :: ts =>
    let r := trustFloor ts
    if v.isNum then
      let t : Int := v.exp - c + 1
      some (match r with
        | none => t
        | some u => if u < t then t else u)
    else r

/-- ADDCOUNT with the overrides of R157. -/
def addCount (f : Fmt) (y : FV) (terms : List (FV × Nat)) : Nat :=
  let t := trustFloor terms
  if y.isNan || y.isInf then 0
  else match y.isNum, t with
    | true, some t => overrides f y (clamp (y.exp - t + 1) 0 f.p)
    | true, none => overrides f y f.p
    | false, some _ => 0
    | false, none => f.p

/-- The count a load gives (R121). -/
def loadCount (f : Fmt) (x : Nat) : Nat := overrides f (FV.ofBits f x) f.p

/-! ### Operations (R161 to R170) -/

/-- A value of a format with its count. -/
structure FC2 where
  x : Nat
  c : Nat
  deriving DecidableEq, Repr, Inhabited

/-- A result: bits, count, flags. -/
structure FR where
  y : Nat
  c : Nat
  fl : Nat
  deriving DecidableEq, Repr, Inhabited

/-- Invalid where an operand is a signalling NaN. -/
def snanFlag (vs : List FV) : Nat := if vs.any FV.isSnan then Flag.invalid else 0

/-- Invalid where operands that are not NaN give NaN. -/
def madeNan (vs : List FV) (v : FV) : Nat := if v.isNan && !vs.any FV.isNan then Flag.invalid else 0

/-- a + b, with the sign of b inverted for a difference. -/
def opAdd (f : Fmt) (mode : Nat) (sub : Bool) (a b : FC2) : FR :=
  let va := FV.ofBits f a.x
  let vb := if sub then (FV.ofBits f b.x).neg else FV.ofBits f b.x
  let v := va.add mode vb
  let r := round f mode v
  ⟨r.1, addCount f (FV.ofBits f r.1) [(va, a.c), (vb, b.c)], r.2 ||| snanFlag [va, vb] ||| madeNan [va, vb] v⟩

/-- A trusted zero (R156). -/
def trustedZero (f : Fmt) (v : FV) (c : Nat) : Bool := v.isZero && c == f.p

/-- a × b. -/
def opMul (f : Fmt) (mode : Nat) (a b : FC2) : FR :=
  let va := FV.ofBits f a.x
  let vb := FV.ofBits f b.x
  let v := va.mul vb
  let r := round f mode v
  let y := FV.ofBits f r.1
  let rule := if (trustedZero f va a.c || trustedZero f vb b.c) && y.isZero then f.p else Nat.min (Nat.min a.c b.c) f.p
  ⟨r.1, overrides f y rule, r.2 ||| snanFlag [va, vb] ||| madeNan [va, vb] v⟩

/-- The exact quotient, to far below the last place of any format, a lowest bit of 1 standing for what remains. -/
def quot (a b : Bool) (m n : Nat) (e g : Int) : FV :=
  let k := 200 + ilog2 n
  let q := m * 2 ^ k / n
  .fin (a != b) (2 * q + b2n (decide (m * 2 ^ k % n ≠ 0))) (e - g - k - 1)

/-- a / b. -/
def opDiv (f : Fmt) (mode : Nat) (a b : FC2) : FR :=
  let va := FV.ofBits f a.x
  let vb := FV.ofBits f b.x
  let (v, dz) : FV × Nat := match va, vb with
    | .nan _, _ => (.nan false, 0)
    | _, .nan _ => (.nan false, 0)
    | .inf _, .inf _ => (.nan false, 0)
    | .inf x, .fin y _ _ => (.inf (x != y), 0)
    | .fin x _ e, .inf y => (.fin (x != y) 0 e, 0)
    | .fin x m e, .fin y n g =>
      if n = 0 then (if m = 0 then (.nan false, 0) else (.inf (x != y), Flag.divzero))
      else if m = 0 then (.fin (x != y) 0 e, 0)
      else (quot x y m n e g, 0)
  let r := round f mode v
  let y := FV.ofBits f r.1
  let rule := if trustedZero f va a.c && y.isZero then f.p else Nat.min (Nat.min a.c b.c) f.p
  ⟨r.1, overrides f y rule, r.2 ||| dz ||| snanFlag [va, vb] ||| madeNan [va, vb] v⟩

/-- Integer square root of n by bisection: the result has at most k bits. -/
def isqrt (n : Nat) : Nat → Nat → Nat
  | 0, r => r
  | k + 1, r => isqrt n k (if (r + 2 ^ k) * (r + 2 ^ k) ≤ n then r + 2 ^ k else r)

/-- √a. -/
def opSqrt (f : Fmt) (mode : Nat) (a : FC2) : FR :=
  let va := FV.ofBits f a.x
  let v : FV := match va with
    | .nan _ => .nan false
    | .inf n => if n then .nan false else .inf false
    | .fin n m e =>
      if m = 0 then .fin n 0 e
      else if n then .nan false
      else
        let odd := e % 2 ≠ 0
        let m' := (if odd then 2 * m else m) * 2 ^ 140
        let e' := (if odd then e - 1 else e) - 140
        let s := isqrt m' 110 0
        .fin false (2 * s + b2n (decide (s * s ≠ m'))) (e' / 2 - 1)
  let r := round f mode v
  ⟨r.1, overrides f (FV.ofBits f r.1) (Nat.min a.c f.p), r.2 ||| snanFlag [va] ||| madeNan [va] v⟩

/-- ±(a × b) ± c, rounded once. -/
def opFma (f : Fmt) (mode : Nat) (np nc : Bool) (a b c : FC2) : FR :=
  let va := FV.ofBits f a.x
  let vb := FV.ofBits f b.x
  let vc := if nc then (FV.ofBits f c.x).neg else FV.ofBits f c.x
  let pr := if np then (va.mul vb).neg else va.mul vb
  let v := pr.add mode vc
  let r := round f mode v
  let inv := madeNan [va, vb] (va.mul vb) ||| madeNan [va, vb, vc] v
  ⟨r.1, addCount f (FV.ofBits f r.1) [(pr, Nat.min a.c b.c), (vc, c.c)], r.2 ||| snanFlag [va, vb, FV.ofBits f c.x] ||| inv⟩

/-- The operand that an operation returns unrounded, with the overrides of R157 on its count. -/
def kept (f : Fmt) (y c fl : Nat) : FR := ⟨y, overrides f (FV.ofBits f y) c, fl⟩

/-- Minimum or maximum: −0 below +0, a lone NaN gives the other operand (R163). Of equal operands with different counts, which the rule does
not tell apart, the minimum takes a's count and the maximum b's (DESIGN CHOICE, log 38). -/
def opMinMax (f : Fmt) (max : Bool) (a b : FC2) : FR :=
  let va := FV.ofBits f a.x
  let vb := FV.ofBits f b.x
  let fl := snanFlag [va, vb]
  if va.isNan && vb.isNan then ⟨f.nan, 0, fl⟩
  else if va.isNan then kept f b.x b.c fl
  else if vb.isNan then kept f a.x a.c fl
  else
    let aLow := va.lt vb || (!vb.lt va && (va.sign || !vb.sign))
    if aLow != max then kept f a.x a.c fl else kept f b.x b.c fl

/-- FABS, FNEG, FCPYS on bits (R163). -/
def signBit (f : Fmt) : Nat := 2 ^ (f.bits - 1)
def opAbs (f : Fmt) (a : FC2) : FR := kept f (a.x % signBit f) a.c 0
def opNeg (f : Fmt) (a : FC2) : FR := kept f ((a.x + signBit f) % 2 ^ f.bits) a.c 0
def opCpys (f : Fmt) (a b : FC2) : FR := kept f (a.x % signBit f + b2n (nbit b.x (f.bits - 1)) * signBit f) a.c 0

/-- The compares: the truth value and the flags (R164, R176). -/
def opCmp (f : Fmt) (k : Cond) (a b : FC2) : Bool × Nat :=
  let va := FV.ofBits f a.x
  let vb := FV.ofBits f b.x
  let quiet := snanFlag [va, vb]
  let loud := if va.isNan || vb.isNan then Flag.invalid else 0
  match k with
  | .eq => (va.eq vb, quiet)
  | .ne => (!va.eq vb, quiet)
  | .lt => (va.lt vb, loud)
  | .le => (va.lt vb || va.eq vb, loud)
  | .un => (va.isNan || vb.isNan, quiet)

/-- FCLASS (R164). -/
def opClass (f : Fmt) (x : Nat) : Nat :=
  let v := FV.ofBits f x
  match v with
  | .nan s => if s then 256 else 512
  | .inf n => if n then 1 else 128
  | .fin n m _ =>
    if m = 0 then (if n then 8 else 16)
    else if isSubnormal f v then (if n then 4 else 32)
    else if n then 2 else 64

/-- FROUND (R165). -/
def opRound (f : Fmt) (mode : Nat) (a : FC2) : FR :=
  let va := FV.ofBits f a.x
  match va with
  | .nan _ => ⟨f.nan, 0, snanFlag [va]⟩
  | .inf _ => ⟨a.x, 0, 0⟩
  | .fin n m e =>
    if m = 0 then ⟨a.x, addCount f va [(va, a.c)], 0⟩
    else
      let k := (roundAt mode n m e (if e < 0 then 0 else e)).1
      let y := rne f (.fin n k (if e < 0 then 0 else e))
      ⟨y, addCount f (FV.ofBits f y) [(va, a.c)], 0⟩

/-- FCVT (R167). -/
def opCvt (df sf : Fmt) (mode : Nat) (a : FC2) : FR :=
  let va := FV.ofBits sf a.x
  let r := round df mode va
  ⟨r.1, overrides df (FV.ofBits df r.1) (Nat.min a.c df.p), r.2 ||| snanFlag [va]⟩

/-- FTOI: the integer and the flags (R168). -/
def opFtoi (f : Fmt) (ic : IntCode) (mode : Nat) (x : Nat) : Int × Nat :=
  let b := ic.bounds
  match FV.ofBits f x with
  | .nan _ => (0, Flag.invalid)
  | .inf n => (if n then b.1 else b.2, Flag.invalid)
  | .fin n m e =>
    let r := if m = 0 then (0, true) else roundAt mode n m e 0
    let k : Int := if n then -(r.1 : Int) else r.1
    if k < b.1 then (b.1, Flag.invalid)
    else if b.2 < k then (b.2, Flag.invalid)
    else (k, if r.2 then 0 else Flag.inexact)

/-- ITOF (R168). -/
def opItof (f : Fmt) (mode : Nat) (k : Int) : FR :=
  let r := round f mode (FV.ofInt k 0 false)
  ⟨r.1, overrides f (FV.ofBits f r.1) f.p, r.2⟩

/-- EXP2 on FP32 (R154). -/
def opExp2 (a : FC2) : FR :=
  let f : Fmt := .s
  let va := FV.ofBits f a.x
  match va with
  | .nan s => ⟨f.nan, 0, if s then Flag.invalid else 0⟩
  | .inf n => if n then ⟨0, 13, 0⟩ else ⟨f.inf false, 0, 0⟩
  | .fin sg m e =>
    if !(va.lt (.fin false 128 0)) then ⟨f.inf false, 0, Flag.overflow ||| Flag.inexact⟩
    else
      let k : Int := if sg then -(m : Int) else m
      let n : Int := if 0 ≤ e then k * 2 ^ e.toNat else k / 2 ^ (-e).toNat
      let fr : FV := if 0 ≤ e then .fin false 0 0 else .fin false (k % 2 ^ (-e).toNat).toNat e
      let lit (x : Nat) : FV := FV.ofBits f x
      let p1 := rne f (((lit 0x3DA1F63E).mul fr).add 0 (lit 0x3E6656AB))
      let p2 := rne f (((lit p1).mul fr).add 0 (lit 0x3F322B85))
      let p3 := rne f (((lit p2).mul fr).add 0 (lit 0x3F800000))
      let ex : Int := (nfld p3 30 23 : Int) + n
      if ex < 1 then ⟨0, 0, Flag.underflow ||| Flag.inexact⟩
      else if 254 < ex then ⟨f.inf false, 0, Flag.overflow ||| Flag.inexact⟩
      else
        let c := if m = 0 then Nat.min a.c 13 else clamp ((a.c : Int) - va.exp - 1) 0 13
        ⟨p3 % 2 ^ 23 + ex.toNat * 2 ^ 23, c, if fr.isZero then 0 else Flag.inexact⟩

/-! ### AMOF (R129) -/

/-- The operations of AMOF: new value and flags. -/
def opAmof (op : AmofOp) (f : Fmt) (old c : Nat) : Nat × Nat :=
  let va := FV.ofBits f old
  let vb := FV.ofBits f c
  match op with
  | .fadd =>
    let r := opAdd f 0 false ⟨old, 0⟩ ⟨c, 0⟩
    (r.y, r.fl)
  | .fmin => if va.isNan || vb.isNan then (f.nan, snanFlag [va, vb]) else let r := opMinMax f false ⟨old, 0⟩ ⟨c, 0⟩; (r.y, r.fl)
  | .fmax => if va.isNan || vb.isNan then (f.nan, snanFlag [va, vb]) else let r := opMinMax f true ⟨old, 0⟩ ⟨c, 0⟩; (r.y, r.fl)

end Sys2Proof.Machine
end

