-- ==== Sys2Proof/Machine/Flags.lean ====
section
/-!
DEFINITION. FPCTL, FPFLAGS, SIGMIN and the ends of floating-point instructions: enabled flags, sticky flags, SIG_THRESHOLD
(R134, R135, R146, R149, R150, R161).
-/

namespace Sys2Proof.Machine

/-- The rounding mode of FPCTL (R146). -/
def State.fpMode (s : State) : Nat := fld s.me.fpctl 1 0

/-- The trap enables of FPCTL bits 6:2, in the layout of FPFLAGS (R149). -/
def State.fpEnabled (s : State) : Nat := fld s.me.fpctl 6 2

/-- The mode of a rounding field (R160). -/
def State.rndMode (s : State) : Rnd → Nat
  | .rne => 0
  | .rz => 1
  | .rup => 2
  | .rdn => 3
  | .dyn => s.fpMode

/-- ORs flags into FPFLAGS (R149). -/
def State.orFlags (s : State) (fl : Nat) : State := s.modMe (fun t => { t with fpflags := t.fpflags ||| w64 fl })

/-- Destination classes of TSTAT (R135). -/
inductive DClass where
  | f | v | p | g | q
  deriving DecidableEq, Repr

/-- Their codes. -/
def DClass.code : DClass → Nat
  | .f => 0
  | .v => 1
  | .p => 2
  | .g => 3
  | .q => 4

/-- TSTAT of a cause that names a destination (R135). -/
def destStat (k : DClass) (n : Nat) : Word := w64 (n + 64 * k.code)

/-- The first enabled cause of flags, FP_INVALID to FP_INEXACT (R150). -/
def fpCause (fl : Nat) : Nat := Cause.fpInvalid + (lowestBit fl 0 5).getD 0

/-- Ends an FP instruction: an enabled flag raises with nothing written, TVAL holding the flags and the lanes; otherwise the flags are
recorded and the result written (R150, R161). -/
def State.fpEnd (s : State) (k : DClass) (n fl lanes : Nat) (write : State → Res) : Res :=
  if fl &&& s.fpEnabled ≠ 0 then
    .trap (fpCause (fl &&& s.fpEnabled)) (w64 (fl + lanes * 2 ^ 32)) (destStat k n) s
  else write (s.orFlags fl)

/-- Whether SIG_THRESHOLD is on and a count is below SIGMIN (R134, R135). -/
def State.belowSig (s : State) (c : Nat) : Bool := bit s.me.fpctl 7 && decide (c < fld s.me.sigmin 5 0)

/-- Raises SIG_THRESHOLD after the whole effect, SIGLANES holding the lanes, where there are any (R135). -/
def State.sigEnd (s : State) (k : DClass) (n lanes : Nat) : Res :=
  if lanes ≠ 0 then .after Cause.sigThreshold s.me.pc (destStat k n) (s.modMe (fun t => { t with siglanes := w64 lanes }))
  else .done s

/-- Writes a scalar FP result, with ones above the format (R141, R161). -/
def State.putFp (s : State) (d : FReg) (f : Fmt) (y c : Nat) : State :=
  s.putF d (w64 (y + (2 ^ 64 - 2 ^ f.bits))) c

/-- The value and count of an f operand read in a format (R141, R155). -/
def State.fop (s : State) (f : Fmt) (r : FReg) : FC2 := ⟨(s.fval r).val.toNat % 2 ^ f.bits, Nat.min (s.fval r).cnt f.p⟩

/-- A scalar FP result in an f register: flags, value, count, threshold (R161). -/
def State.fpScalar (s : State) (d : FReg) (f : Fmt) (r : FR) : Res :=
  s.fpEnd .f d.num.toNat r.fl 0 (fun s =>
    (s.putFp d f r.y r.c).sigEnd .f d.num.toNat (b2n (s.belowSig r.c)))

end Sys2Proof.Machine
end

