-- ==== Sys2Proof/Machine/Lanes.lean ====
section
/-!
DEFINITION. The elements of a vector register, their counts, the governing mask, and the end of a vector instruction (R135, R155, R172,
R174).
-/

namespace Sys2Proof.Machine

/-- Elements of a format in a v register (R172). -/
def elems (f : Fmt) : Nat := 1024 / f.bits

/-- The lane whose count byte holds an element's count (R172). -/
def laneOf : Fmt → Nat → Nat
  | .s, e => e
  | .d, e => 2 * e
  | _, e => e / 2

/-- The lanes that hold an element, as a mask. -/
def laneMask (f : Fmt) (e : Nat) : Nat := (if f = .d then 3 else 1) * 2 ^ laneOf f e

/-- Whether a governing mask has a lane (R172, R173). -/
def State.laneOn (s : State) (gm : GMask) (l : Nat) : Bool :=
  match gm with
  | none => true
  | some q => nbit (s.q q).toNat l

/-- ACTIVE: whether an element is governed in (R172). -/
def State.active (s : State) (gm : GMask) (f : Fmt) (e : Nat) : Bool := s.laneOn gm (laneOf f e)

/-- The active elements, in increasing order. -/
def State.actives (s : State) (gm : GMask) (f : Fmt) : List Nat := (List.range (elems f)).filter (s.active gm f)

/-- Lane l of a register. -/
def VVal.lane (v : VVal) (l : Nat) : BitVec 32 := nth 0 v.lanes l

/-- Count byte of lane l. -/
def VVal.cnt (v : VVal) (l : Nat) : Byte := nth 0 v.cnts l

/-- Lane l with a value and a count byte. -/
def VVal.setLane (v : VVal) (l : Nat) (x : BitVec 32) (c : Byte) : VVal := ⟨setAt v.lanes l x, setAt v.cnts l c⟩

/-- Bits of an element (R172). -/
def VVal.bits (v : VVal) (f : Fmt) (e : Nat) : Nat :=
  match f with
  | .s => (v.lane e).toNat
  | .d => (v.lane (2 * e)).toNat + (v.lane (2 * e + 1)).toNat * 2 ^ 32
  | _ => (v.lane (e / 2)).toNat / 2 ^ (16 * (e % 2)) % 2 ^ 16

/-- The count field of an element, read as its format (R155, R172). -/
def VVal.count (v : VVal) (f : Fmt) (e : Nat) : Nat :=
  let b := (v.cnt (laneOf f e)).toNat
  Nat.min (match f with
    | .s => b % 32
    | .d => b % 64
    | _ => b / 2 ^ (4 * (e % 2)) % 16) f.p

/-- An element with its count. -/
def VVal.elem (v : VVal) (f : Fmt) (e : Nat) : FC2 := ⟨v.bits f e, v.count f e⟩

/-- The half of a number at place k, of n bits each, replaced. -/
def putHalf (w n k x : Nat) : Nat := w - w / 2 ^ (n * k) % 2 ^ n * 2 ^ (n * k) + x % 2 ^ n * 2 ^ (n * k)

/-- Sets an element's count field (R155). -/
def VVal.setCount (v : VVal) (f : Fmt) (e c : Nat) : VVal :=
  let l := laneOf f e
  match f with
  | .s => { v with cnts := setAt v.cnts l (BitVec.ofNat 8 c) }
  | .d => { v with cnts := setAt (setAt v.cnts l (BitVec.ofNat 8 c)) (l + 1) 0 }
  | _ => { v with cnts := setAt v.cnts l (BitVec.ofNat 8 (putHalf (v.cnt l).toNat 4 (e % 2) c)) }

/-- Sets an element's bits. -/
def VVal.setBits (v : VVal) (f : Fmt) (e x : Nat) : VVal :=
  let l := laneOf f e
  match f with
  | .s => { v with lanes := setAt v.lanes l (BitVec.ofNat 32 x) }
  | .d => { v with lanes := setAt (setAt v.lanes l (BitVec.ofNat 32 x)) (l + 1) (BitVec.ofNat 32 (x / 2 ^ 32)) }
  | _ => { v with lanes := setAt v.lanes l (BitVec.ofNat 32 (putHalf (v.lane l).toNat 16 (e % 2) x)) }

/-- Writes an element with its count. -/
def VVal.setElem (v : VVal) (f : Fmt) (e x c : Nat) : VVal := (v.setBits f e x).setCount f e (Nat.min c f.p)

/-- The flags of a list of results. -/
def allFlags (rs : List (Nat × FR)) : Nat := rs.foldl (fun fl r => fl ||| r.2.fl) 0

/-- The lanes of the results that satisfy a test. -/
def lanesWhere (f : Fmt) (p : FR → Bool) (rs : List (Nat × FR)) : Nat :=
  rs.foldl (fun m r => if p r.2 then m ||| laneMask f r.1 else m) 0

/-- Ends a vector FP instruction: an enabled flag raises with no lane written; otherwise the active elements are written, and a count
below SIGMIN raises SIG_THRESHOLD (R174, R135). -/
def State.vecEnd (s : State) (d : VReg) (f : Fmt) (rs : List (Nat × FR)) : Res :=
  let fl := allFlags rs
  s.fpEnd .v d.toNat fl (lanesWhere f (fun r => r.fl &&& s.fpEnabled != 0) rs) (fun s =>
    (s.putV d (rs.foldl (fun v r => v.setElem f r.1 r.2.y r.2.c) (s.v d))).sigEnd .v d.toNat
      (lanesWhere f (fun r => s.belowSig (Nat.min r.c f.p)) rs))

/-- Ends a conversion to integer lanes: count bytes zero, no SIG_THRESHOLD (R177, R135). -/
def State.vecEndInt (s : State) (d : VReg) (rs : List (Nat × FR)) : Res :=
  s.fpEnd .v d.toNat (allFlags rs) (lanesWhere .s (fun r => r.fl &&& s.fpEnabled != 0) rs) (fun s =>
    .done (s.putV d (rs.foldl (fun v r => v.setLane r.1 (BitVec.ofNat 32 r.2.y) 0) (s.v d))))

/-- The results of an operation on the active elements. -/
def State.onElems (s : State) (gm : GMask) (f : Fmt) (op : Nat → FR) : List (Nat × FR) := (s.actives gm f).map (fun e => (e, op e))

/-- The lanes 0 to 31 that a mask governs in. -/
def State.lanesOn (s : State) (gm : GMask) : List Nat := (List.range 32).filter (s.laneOn gm)

/-- Writes the governed lanes of d with integer data, count bytes zero (R155, R180). -/
def State.putLanes (s : State) (d : VReg) (gm : GMask) (f : Nat → BitVec 32) : State :=
  s.putV d ((s.lanesOn gm).foldl (fun v l => v.setLane l (f l) 0) (s.v d))

/-- A q register of 32 truth values. -/
def maskOf (p : Nat → Bool) : BitVec 32 := BitVec.ofNat 32 ((List.range 32).foldl (fun m l => if p l then m + 2 ^ l else m) 0)

end Sys2Proof.Machine
end

