-- ==== Sys2Proof/Machine/Queue.lean ====
section
/-!
DEFINITION. The matrix queue's operands: descriptor pairs, the checks made at issue, the bytes a command reads and writes, and the
protection of those bytes (R193, R198 to R205, R214, R218, R230).
-/

namespace Sys2Proof.Machine

/-! ### Descriptors (R199, R200) -/

/-- Base, pitch in bytes, rotation in banks, major bit. -/
def dBase (w : Word) : Nat := fld w 20 0
def dPitch (w : Word) : Nat := fld w 32 21 * 64
def dRot (w : Word) : Nat := nth 0 [0, 1, 2, 4, 8, 3, 5, 7] (fld w 35 33)
def dMajor (w : Word) : Bool := bit w 36
/-- Scale base, and the extent plus one. -/
def dScale (w : Word) : Nat := fld w 26 6
def dRows (w : Word) : Nat := fld w 5 0 + 1

/-- x of line i before rotation (R200). -/
def lineX (w : Word) (i : Nat) : Nat := dBase w + dPitch w * i
/-- LINEADDR (R200). -/
def lineAddr (w : Word) (i : Nat) : Nat := (nfld (lineX w i) 20 17 + i * dRot w) % 16 * 2 ^ 17 + lineX w i % 2 ^ 17

/-! ### Formats of operands (R198, R203) -/

/-- Format of a step's operands. -/
inductive OFmt where
  | hf | bf | q8 | q4
  deriving DecidableEq, Repr

/-- Bits of an element. -/
def OFmt.bits : OFmt → Nat
  | .hf => 16
  | .bf => 16
  | .q8 => 8
  | .q4 => 4
/-- Whether elements carry block scales. -/
def OFmt.quant : OFmt → Bool
  | .q8 => true
  | .q4 => true
  | _ => false
/-- Elements of a granule or block. -/
def OFmt.step (f : OFmt) : Nat := if f.quant then 32 else 4
/-- Greatest depth from the tile store. -/
def OFmt.maxStore : OFmt → Nat
  | .q8 => 256
  | .q4 => 512
  | _ => 128
/-- Greatest depth from a register group. -/
def OFmt.maxGroup : OFmt → Nat
  | .q8 => 64
  | .q4 => 128
  | _ => 32
/-- Registers of a group of depth K (R203). -/
def OFmt.groupRegs (f : OFmt) (k : Nat) : Nat := k * f.bits / 32
/-- Bytes of n elements. -/
def OFmt.bytes (f : OFmt) (n : Nat) : Nat := (n * f.bits + 7) / 8
def ofMma : MmaFmt → OFmt
  | .hf => .hf
  | .bf => .bf
def ofQ : QFmt → OFmt
  | .q8 => .q8
  | .q4 => .q4

/-- A range of tile-store bytes: offset, length. -/
abbrev Range := Nat × Nat

/-- Whether a step's operand is N-major: B only, from the tile store. -/
def nMajor (isB grp : Bool) (w1 : Word) : Bool := isB && !grp && dMajor w1

/-- Line numbers that a step reads of an operand, and the bytes of each. -/
def stepLines (f : OFmt) (isB grp : Bool) (w1 w2 : Word) (k : Nat) : List Range :=
  if grp then []
  else if nMajor isB grp w1 then tabulate k (fun i => (i, f.bytes (dRows w2)))
  else tabulate (dRows w2) (fun i => (i, f.bytes k))

/-- SB: scale blocks per line (R145); a register group has those of its depth (DEDUCED, log 29). -/
def scaleBlocks (f : OFmt) (isB grp : Bool) (w1 : Word) (k : Nat) : Nat :=
  if grp || nMajor isB grp w1 then k / 32 else if f = .q8 then dPitch w1 / 32 else dPitch w1 / 16

/-- Byte offset of the scale of block b of line i (R145). -/
def scaleAt (f : OFmt) (isB grp : Bool) (w1 w2 : Word) (k i b : Nat) : Nat :=
  dScale w2 + 3 * (i * scaleBlocks f isB grp w1 k + b)

/-- The scale bytes that a step reads. -/
def stepScales (f : OFmt) (isB grp : Bool) (w1 w2 : Word) (k : Nat) : List Range :=
  if f.quant then (List.range (dRows w2)).flatMap (fun i => tabulate (k / 32) (fun b => (scaleAt f isB grp w1 w2 k i b, 3))) else []

/-! ### Checks at issue (R201, R214) -/

/-- A MATRIX_DESCRIPTOR cause: code, operand B, second register. -/
def descTrap (v : Word) (code : Nat) (isB second : Bool) : Option Trap :=
  some ⟨Cause.matrixDescriptor, v, w64 (code + 16 * b2n isB + 32 * b2n second)⟩

/-- The first of two failures. -/
def orTrap (a b : Option Trap) : Option Trap := if a.isSome then a else b

/-- A failure where a condition holds. -/
def failIf (c : Bool) (t : Option Trap) : Option Trap := if c then t else none

/-- Codes 1, 2, 3 and 8 on a first register. -/
def checkFirst (w1 : Word) (isB grp : Bool) (regs : Nat) : Option Trap :=
  if grp then orTrap (failIf (fld w1 63 4 != 0) (descTrap w1 1 isB false)) (failIf (decide (16 < fld w1 3 0 + regs)) (descTrap w1 8 isB false))
  else orTrap (failIf (fld w1 63 37 != 0) (descTrap w1 1 isB false))
    (orTrap (failIf (fld w1 5 0 != 0) (descTrap w1 2 isB false)) (failIf (dMajor w1 && !isB) (descTrap w1 3 isB false)))

/-- Codes 1, 4 and 9 on a second register. -/
def checkSecond (w2 : Word) (isB quant : Bool) : Option Trap :=
  orTrap (failIf (fld w2 63 27 != 0) (descTrap w2 1 isB true))
    (orTrap (failIf (decide (31 < fld w2 5 0)) (descTrap w2 4 isB true)) (failIf (!quant && dScale w2 != 0) (descTrap w2 9 isB true)))

/-- Codes 5 and 6 on the bytes read: the lines and the scale bytes. Where a line byte and a scale byte both fail code 5, the line is reported, on
the first register (DESIGN CHOICE, log 80). -/
def checkBytes (w1 w2 : Word) (isB : Bool) (scratch : Nat) (lines scales : List Range) : Option Trap :=
  orTrap (failIf (lines.any (fun l => decide (2 ^ 21 ≤ lineX w1 l.1) || decide (scratch < lineAddr w1 l.1 + l.2))) (descTrap w1 5 isB false))
    (orTrap (failIf (scales.any (fun r => decide (scratch < r.1 + r.2))) (descTrap w2 5 isB true))
      (failIf (lines.any (fun l => decide (2 ^ 17 < lineAddr w1 l.1 % 2 ^ 17 + l.2))) (descTrap w1 6 isB false)))

/-- The checks of one pair of a step. -/
def checkPair (f : OFmt) (isB grp : Bool) (w1 w2 : Word) (k scratch : Nat) : Option Trap :=
  orTrap (checkFirst w1 isB grp (f.groupRegs k))
    (orTrap (checkSecond w2 isB f.quant)
      (checkBytes w1 w2 isB scratch (stepLines f isB grp w1 w2 k) (stepScales f isB grp w1 w2 k)))

/-- Whether a depth fails a source's limit (R198). -/
def depthBad (f : OFmt) (grp : Bool) (k : Nat) : Bool :=
  decide (k < f.step) || decide ((if grp then f.maxGroup else f.maxStore) < k)

/-- The checks of MMA and MMAQ (R201): depth, pair A, pair B. -/
def checkStep (f : OFmt) (ga gb : Bool) (a1 a2 b1 b2 : Word) (k scratch : Nat) : Option Trap :=
  orTrap (failIf (depthBad f ga k || k % f.step != 0) (descTrap a1 7 false false))
    (orTrap (failIf (depthBad f gb k) (descTrap b1 7 true false))
      (orTrap (checkPair f false ga a1 a2 k scratch) (checkPair f true gb b1 b2 k scratch)))

/-- Bytes of a row of MLD and MST (R218). -/
def MDataBytes : MData → Nat
  | .s => 128
  | .hf => 64
  | .bf => 64
  | .q8 => 32
  | .q4 => 16
/-- Whether a data code carries scales. -/
def MDataQuant : MData → Bool
  | .q8 => true
  | .q4 => true
  | _ => false

/-- The rows and the scale bytes of MLD and MST. -/
def rowLines (n : Nat) (w2 : Word) : List Range := tabulate (dRows w2) (fun i => (i, n))
def rowScales (q : Bool) (w2 : Word) : List Range := if q then tabulate (dRows w2) (fun i => (dScale w2 + 3 * i, 3)) else []

/-- Code 10 on ranges that an offset names (R214). -/
def checkOffset (v : Word) (scratch : Nat) (bad : Bool) (rs : List Range) : Option Trap :=
  failIf (bad || (rs.any (fun r => decide (scratch < r.1 + r.2)))) (descTrap v 10 false false)

/-- The checks of MLD and MST (R214, R218). -/
def checkRows (dc : MData) (w1 w2 : Word) (plane : Option Word) (scratch : Nat) : Option Trap :=
  orTrap (checkFirst w1 false false 0)
    (orTrap (checkSecond w2 false (MDataQuant dc))
      (orTrap (checkBytes w1 w2 false scratch (rowLines (MDataBytes dc) w2) (rowScales (MDataQuant dc) w2))
        (plane.elim none (fun c => checkOffset c scratch false [(c.toNat, 32 * dRows w2)]))))

/-- The checks of SMXA's pair (R226). -/
def checkProb (w1 w2 : Word) (scratch : Nat) : Option Trap :=
  orTrap (checkFirst w1 false false 0) (orTrap (checkSecond w2 false false) (checkBytes w1 w2 false scratch (rowLines 64 w2) []))

/-- The rows that a mask selects. -/
def maskRows (m : BitVec 32) : List Nat := (List.range 32).filter (fun i => nbit m.toNat i)

/-- The bytes of row-state records and of their counts (R230). -/
def stateBytes (a : Word) (m : BitVec 32) : List Range := (maskRows m).map (fun i => (a.toNat + 8 * i, 8))
def stateCounts (c : Word) (m : BitVec 32) : List Range := (maskRows m).map (fun i => (c.toNat + 2 * i, 2))

/-- The checks of SMXLD and SMXST (R214). -/
def checkState (a : Word) (m : BitVec 32) (plane : Option Word) (scratch : Nat) : Option Trap :=
  orTrap (checkOffset a scratch (fld a 2 0 != 0) (stateBytes a m)) (plane.elim none (fun c => checkOffset c scratch false (stateCounts c m)))

/-! ### Ranges of queued commands (R193, R205) -/

/-- The store bytes of lines. -/
def lineBytes (w1 : Word) (ls : List Range) : List Range := ls.map (fun l => (lineAddr w1 l.1, l.2))

/-- The tile-store bytes that one operand of a step reads. -/
def srcRanges (f : OFmt) (isB : Bool) (src : MatSrc) (k : Nat) : List Range :=
  lineBytes src.first (stepLines f isB src.group.isSome src.first src.second k) ++ stepScales f isB src.group.isSome src.first src.second k

/-- The tile-store bytes of the operand lines of a step: a line is one pitched row of its descriptor, as far as its bank goes (R191, R193; DEDUCED,
log 43). -/
def lineRows (f : OFmt) (isB : Bool) (src : MatSrc) (k : Nat) : List Range :=
  (stepLines f isB src.group.isSome src.first src.second k).map (fun l =>
    let a := lineAddr src.first l.1
    (a, Nat.max l.2 (Nat.min (dPitch src.first) (2 ^ 17 - a % 2 ^ 17))))

/-- The bytes that one operand of a step protects: its lines and its scale bytes. -/
def stepRanges (f : OFmt) (isB : Bool) (src : MatSrc) (k : Nat) : List Range :=
  lineRows f isB src k ++ stepScales f isB src.group.isSome src.first src.second k

/-- Operand ranges: bytes that a store may not enter while the command is queued or running (R193, R205). -/
def QOp.reads : QOp → List Range
  | .mma f _ a b k => stepRanges (ofMma f) false a k ++ stepRanges (ofMma f) true b k
  | .mmaq f _ a b k => stepRanges (ofQ f) false a k ++ stepRanges (ofQ f) true b k
  | .mld _ a dc pl =>
    lineBytes a.first (rowLines (MDataBytes dc) a.second) ++ rowScales (MDataQuant dc) a.second ++
      pl.elim [] (fun c => [(c.toNat, 32 * dRows a.second)])
  | .smxld _ off m pl => stateBytes off m ++ pl.elim [] (fun c => stateCounts c m)
  | _ => []

/-- Write ranges (R205). -/
def QOp.stores : QOp → List Range
  | .mst _ a dc pl =>
    lineBytes a.first (rowLines (MDataBytes dc) a.second) ++ rowScales (MDataQuant dc) a.second ++
      pl.elim [] (fun c => [(c.toNat, 32 * dRows a.second)])
  | .smxa _ _ _ p _ _ => lineBytes p.first (rowLines 64 p.second)
  | .smxst _ off m pl => stateBytes off m ++ pl.elim [] (fun c => stateCounts c m)
  | _ => []

/-- The accumulators that a command names. -/
def QOp.accs : QOp → List Nat
  | .mma _ d _ _ _ => [d]
  | .mmaq _ d _ _ _ => [d]
  | .mzero d => [d]
  | .mscale d _ _ => [d]
  | .mld d _ _ _ => [d]
  | .mst d _ _ _ => [d]
  | .smxa _ d s _ _ _ => [d, s]
  | .smxfin d _ _ => [d]
  | .smxmerge x y _ => [x, y]
  | .smxld d _ _ _ => [d]
  | .smxst d _ _ _ => [d]
  | .smxinit d _ => [d]

/-- Whether ranges meet a byte range. -/
def rangesMeet (rs : List Range) (off n : Nat) : Bool := rs.any (fun r => meets r.1 r.2 off n)

/-- ACC_IN_FLIGHT: the position of the most recently issued command that names an accumulator (R193). -/
def Core.accBusy (k : Core) (a : Nat) : Option Nat := (k.mq.reverse.find? (fun q => q.op.accs.contains a)).map (fun q => q.pos)

end Sys2Proof.Machine
end

