-- ==== Sys2Proof/Machine/MatrixVal.lean ====
section
/-!
DEFINITION. The values of the matrix unit: what every command makes of the accumulators and the tile store, the stores and reads that meet
a command before it completes, and the poison of a tile store (R142 to R145, R151 to R158, R191, R204, R205, R208, R216 to R231, R372).
-/

namespace Sys2Proof.Machine

/-! ### Accumulators (R197) -/

/-- An accumulator. -/
def Core.accOf (k : Core) (n : Nat) : Acc := tget Acc.zero k.acc n

/-- A row of an accumulator, and the element of a row. -/
def Acc.row (a : Acc) (i : Nat) : AccRow := nth default a.rows i
def AccRow.el (r : AccRow) (j : Nat) : FC := nth default r.els j

/-- The exact value of an accumulator part. -/
def FC.fv (a : FC) : FV := FV.ofBits .s a.v.toNat

/-- Applies a function to every row with its number. -/
def Acc.mapRows (a : Acc) (f : Nat → AccRow → AccRow) : Acc := { a with rows := tabulate 32 (fun i => f i (a.row i)) }

/-! ### Elements and scales (R142 to R145, R203) -/

/-- The value of an S8 element; the code 0x80 reads as NaN (R142). -/
def s8Val (x : Nat) : FV := if x = 128 then .nan false else FV.ofInt (if x < 128 then (x : Int) else (x : Int) - 256) 0 false

/-- The magnitude of an F4 code in halves (R143). -/
def f4Halves (x : Nat) : Nat := nth 0 [0, 1, 2, 3, 4, 6, 8, 12] (x % 8)

/-- The value of an F4 element; the code 8 is −0 (R143). -/
def f4Val (x : Nat) : FV := .fin (nbit x 3) (f4Halves x) (-1)

/-- S24VAL (R144). -/
def s24Val (s : Nat) : FV :=
  let e := nfld s 23 16
  let fr := s % 2 ^ 16
  if e = 255 ∨ (e = 0 ∧ fr ≠ 0) then .nan false
  else if e = 0 then .fin false 0 0
  else .fin false (65536 + fr) ((e : Int) - 143)

/-- The value of an element's bits. -/
def OFmt.val : OFmt → Nat → FV
  | .hf, x => FV.ofBits .hf x
  | .bf, x => FV.ofBits .bf x
  | .q8, x => s8Val x
  | .q4, x => f4Val x

/-- The count of a tile-store or QB element (R158). -/
def OFmt.count : OFmt → Nat
  | .hf => 11
  | .bf => 8
  | .q8 => 7
  | .q4 => 2

/-- Element k of packed bytes (R145, R191). -/
def packedAt (f : OFmt) (bs : List Byte) (k : Nat) : Nat :=
  match f with
  | .q8 => (nth 0 bs k).toNat
  | .q4 => (nth 0 bs (k / 2)).toNat / 2 ^ (4 * (k % 2)) % 16
  | _ => ofBytes (Machine.slice bs (2 * k) 2)

/-- An operand element with its count. -/
abbrev Elem := FV × Nat

/-- Element k of packed bytes with its count. -/
def packedElem (f : OFmt) (bs : List Byte) (k : Nat) : Elem := (f.val (packedAt f bs k), f.count)

/-- The count field of element j of a lane in a group register: R155's for FP16 and BF16. -/
def groupCount (f : OFmt) (v : VVal) (l j : Nat) : Nat :=
  match f with
  | .hf => v.count .hf (2 * l + j)
  | .bf => v.count .bf (2 * l + j)
  | _ => f.count

/-- Element k of row or column l of a register group (R203). -/
def groupElem (f : OFmt) (vs : List VVal) (l k : Nat) : Elem :=
  let per := 32 / f.bits
  let v := nth default vs (k / per)
  (f.val ((v.lane l).toNat / 2 ^ (f.bits * (k % per)) % 2 ^ f.bits), groupCount f v l (k % per))

/-- The rows of A, or the columns of B, of a step: each with its K elements. -/
def Core.operand (k : Core) (f : OFmt) (isB : Bool) (src : MatSrc) (depth : Nat) : List (List Elem) :=
  let n := dRows src.second
  match src.group with
  | some vs => tabulate n (fun l => tabulate depth (groupElem f vs l))
  | none =>
    let lines := (stepLines f isB false src.first src.second depth).map (fun r => k.store.readN (lineAddr src.first r.1) r.2)
    if nMajor isB false src.first then tabulate n (fun j => lines.map (fun bs => packedElem f bs j))
    else lines.map (fun bs => tabulate depth (packedElem f bs))

/-- The block scales of each row or column of a step. -/
def Core.scales (k : Core) (f : OFmt) (isB : Bool) (src : MatSrc) (depth : Nat) : List (List FV) :=
  tabulate (dRows src.second) (fun i => tabulate (depth / 32) (fun b =>
    s24Val (ofBytes (k.store.readN (scaleAt f isB src.group.isSome src.first src.second depth i b) 3))))

/-! ### A step (R151 to R153, R158) -/

/-- An FP32 result with its count as an accumulator keeps it. -/
def fcOf (y c : Nat) : FC := ⟨BitVec.ofNat 32 y, c⟩

/-- The exact sum of a list of values, the first one first. -/
def sumOf : List FV → FV
  | [] => .fin false 0 0
  | v :: vs => vs.foldl (FV.add 0) v

/-- The term of a block: the sum of its products times the scales. A zero sum keeps its sign, which is − only where every product is −0; a
zero scale makes the term of any other sum +0 (R148, R153; DEDUCED, log 41). -/
def blockTerm (t scale : FV) : FV :=
  if scale.isNan then .nan false
  else if t.isZero then t
  else if (t.mul scale).isZero then .fin false 0 0
  else t.mul scale

/-- One granule or block: r plus the exact sum of the products, times the scales where there are any. -/
def addTerm (f : OFmt) (scale : FV) (r : FC) (prods : List Elem) : FC :=
  let t := sumOf (prods.map (fun p => p.1))
  let term := if f.quant then blockTerm t scale else t
  let terms := if f.quant then prods.map (fun p => (p.1.mul scale, p.2)) else prods
  let y := rne .s (r.fv.add 0 term)
  fcOf y (addCount .s (FV.ofBits .s y) ((r.fv, r.c) :: terms))

/-- The products of two runs of elements. -/
def products (a b : List Elem) : List Elem := (a.zip b).map (fun p => (p.1.1.mul p.2.1, Nat.min p.1.2 p.2.2))

/-- The granules or blocks of an element of the result, in order: their number, the scales of the row and of the column. -/
def stepElem (f : OFmt) : Nat → List FV → List FV → List Elem → List Elem → FC → FC
  | 0, _, _, _, _, r => r
  | n + 1, sa, sb, a, b, r =>
    let scale := (sa.headD (.fin false 0 0)).mul (sb.headD (.fin false 0 0))
    stepElem f n (sa.drop 1) (sb.drop 1) (a.drop f.step) (b.drop f.step) (addTerm f scale r (products (a.take f.step) (b.take f.step)))

/-- The accumulator after a step. -/
def Core.stepAcc (k : Core) (f : OFmt) (acc : Acc) (a b : MatSrc) (depth : Nat) : Acc :=
  let as := k.operand f false a depth
  let bs := k.operand f true b depth
  let sa := if f.quant then k.scales f false a depth else []
  let sb := if f.quant then k.scales f true b depth else []
  acc.mapRows (fun i r =>
    if i < dRows a.second then
      { r with els := tabulate 32 (fun j =>
          if j < dRows b.second then stepElem f (depth / f.step) (nth [] sa i) (nth [] sb j) (nth [] as i) (nth [] bs j) (r.el j)
          else r.el j) }
    else r)

/-- Whether a QB step meets a NaN element or a NaN block (R215). -/
def Core.stepNan (k : Core) (f : OFmt) (a b : MatSrc) (depth : Nat) : Bool :=
  f.quant && ((k.operand f false a depth ++ k.operand f true b depth).any (fun l => l.any (fun e => e.1.isNan)) ||
    (k.scales f false a depth ++ k.scales f true b depth).any (fun l => l.any FV.isNan))

/-! ### MLD and MST (R218 to R220) -/

/-- The format of a data code without scales. -/
def mdataFmt : MData → Fmt
  | .hf => .hf
  | .bf => .bf
  | _ => .s

/-- The quantised format of a data code. -/
def mdataQ : MData → OFmt
  | .q4 => .q4
  | _ => .q8

/-- An element that MLD loads (R219). A NaN of FP16 or BF16 becomes the default NaN (DESIGN CHOICE, log 80). -/
def mldElem (dc : MData) (bs : List Byte) (scale : FV) (j : Nat) : FC :=
  if MDataQuant dc then
    let v := (mdataQ dc).val (packedAt (mdataQ dc) bs j)
    if v.isNan || scale.isNan then fcOf (Fmt.nan .s) 0
    else
      let y := rne .s (v.mul scale)
      fcOf y (overrides .s (FV.ofBits .s y) (mdataQ dc).count)
  else
    let f := mdataFmt dc
    let x := ofBytes (Machine.slice bs (f.bytes * j) f.bytes)
    let y := if f = .s then x else rne .s (FV.ofBits f x)
    fcOf y (loadCount f x)

/-- A count with the byte of a count plane. -/
def planeCount (k : Core) (plane : Option Word) (at' c : Nat) : Nat :=
  match plane with
  | none => c
  | some p => Nat.min ((k.store.read (p.toNat + at')).toNat % 64) c

/-- The scale of a row of MLD. -/
def Core.rowScale (k : Core) (w2 : Word) (i : Nat) : FV := s24Val (ofBytes (k.store.readN (dScale w2 + 3 * i) 3))

/-- The accumulator after MLD. -/
def Core.mldAcc (k : Core) (acc : Acc) (a : MatSrc) (dc : MData) (plane : Option Word) : Acc :=
  acc.mapRows (fun i r =>
    if i < dRows a.second then
      let bs := k.store.readN (lineAddr a.first i) (MDataBytes dc)
      let sc := k.rowScale a.second i
      { r with els := tabulate 32 (fun j =>
          let e := mldElem dc bs sc j
          { e with c := planeCount k plane (32 * i + j) e.c }) }
    else r)

/-- Whether MLD meets a NaN under `.q8` or `.q4`. -/
def Core.mldNan (k : Core) (a : MatSrc) (dc : MData) : Bool :=
  MDataQuant dc && (List.range (dRows a.second)).any (fun i =>
    let bs := k.store.readN (lineAddr a.first i) (MDataBytes dc)
    (k.rowScale a.second i).isNan || (List.range 32).any (fun j => ((mdataQ dc).val (packedAt (mdataQ dc) bs j)).isNan))

/-- Q of R220. -/
def qMax (f : OFmt) : Nat := if f = .q8 then 127 else 6

/-- Whether m × 2^e is at least n × 2^g. -/
def geExp (m : Nat) (e : Int) (n : Nat) (g : Int) : Bool :=
  let low := if e ≤ g then e else g
  decide (n * 2 ^ (g - low).toNat ≤ m * 2 ^ (e - low).toNat)

/-- The smallest S24 value with exponent field at least 1 that is at least m × 2^e / q, as its code. -/
def scaleFor (m : Nat) (e : Int) (q : Nat) : Nat :=
  let k : Int := (ilog2 m : Int) - ilog2 q + e
  let top := if geExp m e q k then k else k - 1
  if top < -126 then 0x10000
  else
    let sh : Int := e - (top - 16)
    let up := if 0 ≤ sh then (m * 2 ^ sh.toNat + q - 1) / q else (m + q * 2 ^ (-sh).toNat - 1) / (q * 2 ^ (-sh).toNat)
    if up = 131072 then (top + 128).toNat * 65536 else (top + 127).toNat * 65536 + (up - 65536)

/-- The code of an element under a scale (R220). -/
def quantCode (f : OFmt) (x scale : FV) : Nat :=
  match x, scale with
  | .fin n m e, .fin _ sm se =>
    if f = .q8 then
      match quot n false m sm e se with
      | .fin _ qm qe =>
        let r := (roundAt 0 n qm qe 0).1
        if n then (256 - r) % 256 else r
      | _ => 0
    else
      let v : FV := .fin false (4 * m) e
      let code := ((List.range 7).filter (fun j =>
        let mid : FV := .fin false ((f4Halves j + f4Halves (j + 1)) * sm) se
        mid.lt v || (!v.lt mid && decide (j % 2 = 1)))).length
      code + (if n && code != 0 then 8 else 0)
  | _, _ => 0

/-- The codes of a row packed into bytes. -/
def packCodes (f : OFmt) (cs : List Nat) : List Byte :=
  if f = .q8 then cs.map (BitVec.ofNat 8) else tabulate 16 (fun i => BitVec.ofNat 8 (nth 0 cs (2 * i) + 16 * nth 0 cs (2 * i + 1)))

/-- A row as MST writes it: its bytes, its scale code, its counts, whether it held an infinity (R220). -/
structure MstRow where
  bytes : List Byte
  scale : Nat
  counts : List Nat
  inf : Bool

/-- The largest magnitude of a row of finite elements. -/
def amax (es : List FC) : FV := es.foldl (fun m e => let v : FV := match e.fv with
    | .fin _ k g => .fin false k g
    | v => v
  if m.lt v then v else m) (.fin false 0 0)

/-- A row of MST. -/
def mstRow (dc : MData) (r : AccRow) : MstRow :=
  if MDataQuant dc then
    let f := mdataQ dc
    let inf := r.els.any (fun e => e.fv.isInf)
    if inf || r.els.any (fun e => e.fv.isNan) then ⟨packCodes f (List.replicate 32 0), 0xFF0000, List.replicate 32 0, inf⟩
    else
      let counts := r.els.map (fun e => Nat.min e.c f.count)
      match amax r.els with
      | .fin _ m e =>
        if m = 0 then ⟨packCodes f (List.replicate 32 0), 0, counts, false⟩
        else
          let sc := scaleFor m e (qMax f)
          ⟨packCodes f (r.els.map (fun x => quantCode f x.fv (s24Val sc))), sc, counts, false⟩
      | _ => ⟨packCodes f (List.replicate 32 0), 0, counts, false⟩
  else if dc = .s then ⟨r.els.flatMap (fun e => toBytes 4 e.v.toNat), 0, r.els.map (fun e => Nat.min e.c 24), false⟩
  else
    let rs := r.els.map (fun e => opCvt (mdataFmt dc) .s 0 ⟨e.v.toNat, e.c⟩)
    ⟨rs.flatMap (fun x => toBytes 2 x.y), 0, rs.map (fun x => x.c), false⟩

/-- The cells that MST writes for a row. -/
def mstCells (a : MatSrc) (dc : MData) (plane : Option Word) (i : Nat) (r : MstRow) : List Host.Cell :=
  cellsAt (lineAddr a.first i) r.bytes ++
  (if MDataQuant dc then cellsAt (dScale a.second + 3 * i) (toBytes 3 r.scale) else []) ++
  plane.elim [] (fun p => cellsAt (p.toNat + 32 * i) (r.counts.map (BitVec.ofNat 8)))

/-- The rows of MST. -/
def mstRows (acc : Acc) (a : MatSrc) (dc : MData) : List MstRow := tabulate (dRows a.second) (fun i => mstRow dc (acc.row i))

/-! ### Softmax helpers (R225) -/

/-- An accumulator part as an operand. -/
def FC.two (a : FC) : FC2 := ⟨a.v.toNat, a.c⟩

/-- The result of an operation as an accumulator part. -/
def FR.fc (r : FR) : FC := fcOf r.y r.c

/-- The constants −Inf with count 0, +0 and 1.0 with count 24. -/
def fcNegInf : FC := fcOf 0xFF800000 0
def fcZero : FC := fcOf 0 24
def fcOne : FC := fcOf 0x3F800000 24

/-- MUL. -/
def smxMul (u w : FC) : FC := (opMul .s 0 u.two w.two).fc

/-- NODE. -/
def smxNode (u w : FC) : FC := (opAdd .s 0 false u.two w.two).fc

/-- NMAX. Of equal elements, which R225 does not tell apart, the first stands with its count and its sign (DESIGN CHOICE, log 38). -/
def nmax (xs : List FC) : FC :=
  if xs.any (fun x => x.fv.isNan) then fcOf (Fmt.nan .s) 0
  else xs.foldl (fun m x => if m.fv.lt x.fv then x else m) fcNegInf

/-- Whether a part is −Inf, and whether it is finite. -/
def FC.isNegInf (a : FC) : Bool := a.v == 0xFF800000
def FC.isFin (a : FC) : Bool := !a.fv.isNan && !a.fv.isInf

/-- SDEXP. -/
def sdexp (u w : FC) : FC :=
  if u.isNegInf && w.isFin then fcZero
  else if u.isFin && u.fv.eq w.fv then fcOne
  else
    let d := opAdd .s 0 true u.two w.two
    (opExp2 ⟨d.y, d.c⟩).fc

/-- One level of the pairwise sum. -/
def nodeLevel : List FC → List FC
  | a :: b :: rest => smxNode a b :: nodeLevel rest
  | rest => rest

/-! ### SMXA (R226, R227) -/

/-- The fields of the position word. -/
def posCausal (e : Word) : Bool := bit e 62
def posCols (e : Word) : Nat := fld e 61 56
def posCol0 (e : Word) : Nat := fld e 55 28
def posRow0 (e : Word) : Nat := fld e 27 0

/-- The scaled and masked score of a column. -/
def smxScore (e : Word) (sc : FC) (scores : AccRow) (i j : Nat) : FC :=
  if posCols e ≤ j ∨ (posCausal e ∧ posRow0 e + i < posCol0 e + j) then fcNegInf else smxMul (scores.el j) sc

/-- What SMXA does to a row of O, given the row of S: the row and the rounded probabilities. -/
def smxRow (f : MmaFmt) (e : Word) (sc : FC) (i : Nat) (scores o : AccRow) : AccRow × List FR :=
  let x := tabulate 32 (smxScore e sc scores i)
  let mnew := nmax [o.m, nmax x]
  let low := mnew.isNegInf
  let alpha := if low then fcOne else sdexp o.m mnew
  let p := if low then List.replicate 32 fcZero else x.map (fun u => sdexp u mnew)
  let ff : Fmt := match f with
    | .hf => .hf
    | .bf => .bf
  let pr := p.map (fun u => let y := rne ff u.fv; (⟨y, Nat.min u.c ff.p, 0⟩ : FR))
  let back := pr.map (fun r => fcOf (rne .s (FV.ofBits ff r.y)) r.c)
  let sum := (nodeLevel (nodeLevel (nodeLevel (nodeLevel (nodeLevel back))))).headD fcZero
  if low then (o, pr)
  else (⟨tabulate 32 (fun j => smxMul (o.el j) alpha), mnew, smxNode (smxMul o.l alpha) sum⟩, pr)

/-- The accumulator O after SMXA, and the cells of P. -/
def smxaAcc (f : MmaFmt) (d s : Acc) (p : MatSrc) (sc : FC) (e : Word) : Acc × List Host.Cell :=
  let rows := tabulate (dRows p.second) (fun i => smxRow f e sc i (s.row i) (d.row i))
  (d.mapRows (fun i r => (rows[i]?).elim r (fun x => x.1)),
   (List.range (dRows p.second)).flatMap (fun i =>
     cellsAt (lineAddr p.first i) (((rows[i]?).elim [] (fun x => x.2)).flatMap (fun r => toBytes 2 r.y))))

/-! ### SMXFIN, SMXMERGE, SMXLD, SMXST, SMXINIT, MZERO, MSCALE (R217, R228 to R231) -/

/-- Whether a row's denominator is a zero. -/
def AccRow.empty (r : AccRow) : Bool := r.l.fv.isZero

/-- A row divided by its denominator. -/
def finRow (reset : Bool) (r : AccRow) : AccRow :=
  let els := if r.empty then List.replicate 32 (fcOf 0 0) else tabulate 32 (fun j => (opDiv .s 0 (r.el j).two r.l.two).fc)
  if reset then ⟨els, fcNegInf, fcZero⟩ else { r with els := els }

/-- The rows of a mask that SMXFIN makes empty. -/
def madeEmpty (a : Acc) (mask : BitVec 32) : BitVec 32 := maskOf (fun i => nbit mask.toNat i && (a.row i).empty)

/-- The accumulator after SMXFIN. -/
def finAcc (a : Acc) (mask : BitVec 32) (reset : Bool) : Acc :=
  { a.mapRows (fun i r => if nbit mask.toNat i then finRow reset r else r) with
    st := a.st ||| madeEmpty a mask, known := a.known ||| madeEmpty a mask }

/-- Whether partial y goes before partial x in the canonical order: the larger m, of equal m the larger l; a NaN m is below every
other. -/
def mergeFirst (x y : AccRow) : Bool :=
  if y.m.fv.isNan then false
  else if x.m.fv.isNan then true
  else x.m.fv.lt y.m.fv || (x.m.fv.eq y.m.fv && x.l.fv.lt y.l.fv)

/-- The merged row. -/
def mergeRow (x y : AccRow) : AccRow :=
  let f := if mergeFirst x y then y else x
  let g := if mergeFirst x y then x else y
  let m := nmax [f.m, g.m]
  let af := if m.isNegInf then fcOne else sdexp f.m m
  let ag := if m.isNegInf then fcOne else sdexp g.m m
  let join (u w : FC) : FC := (opFma .s 0 false false w.two ag.two (smxMul u af).two).fc
  ⟨tabulate 32 (fun j => join (f.el j) (g.el j)), m, join f.l g.l⟩

/-- The accumulator x after SMXMERGE: a status bit of y that nothing has written since dispatch adds nothing (R229, R236; DEDUCED, log 79). -/
def mergeAcc (x y : Acc) (mask : BitVec 32) : Acc :=
  { x.mapRows (fun i r => if nbit mask.toNat i then mergeRow r (y.row i) else r) with
    st := x.st ||| (y.st &&& y.known &&& mask), known := x.known ||| (y.known &&& mask) }

/-- A value of the row state as SMXLD reads it. -/
def Core.loadPart (k : Core) (a : Nat) (plane : Option Word) (at' : Nat) : FC :=
  let x := ofBytes (k.store.readN a 4)
  fcOf x (planeCount k plane at' (loadCount .s x))

/-- The accumulator after SMXLD. -/
def Core.smxldAcc (k : Core) (acc : Acc) (off : Word) (mask : BitVec 32) (plane : Option Word) : Acc :=
  acc.mapRows (fun i r =>
    if nbit mask.toNat i then
      { r with m := k.loadPart (off.toNat + 8 * i) plane (2 * i), l := k.loadPart (off.toNat + 8 * i + 4) plane (2 * i + 1) }
    else r)

/-- The cells that SMXST writes. -/
def smxstCells (acc : Acc) (off : Word) (mask : BitVec 32) (plane : Option Word) : List Host.Cell :=
  (maskRows mask).flatMap (fun i =>
    let r := acc.row i
    cellsAt (off.toNat + 8 * i) (toBytes 4 r.m.v.toNat ++ toBytes 4 r.l.v.toNat) ++
    plane.elim [] (fun p => cellsAt (p.toNat + 2 * i) (toBytes 1 (Nat.min r.m.c 24) ++ toBytes 1 (Nat.min r.l.c 24))))

/-- The accumulator after SMXINIT. -/
def initAcc (a : Acc) (mask : BitVec 32) : Acc :=
  { a.mapRows (fun i r => if nbit mask.toNat i then { r with m := fcNegInf, l := fcZero } else r) with
    st := a.st &&& ~~~mask, known := a.known ||| mask }

/-- The accumulator after MZERO. -/
def zeroAcc (a : Acc) : Acc := a.mapRows (fun _ r => { r with els := List.replicate 32 fcZero })

/-- The accumulator after MSCALE. -/
def scaleAcc (a : Acc) (sc : FC) (mask : BitVec 32) : Acc :=
  a.mapRows (fun i r => if nbit mask.toNat i then { r with els := tabulate 32 (fun j => smxMul (r.el j) sc) } else r)

/-! ### The effect of a command at its turn (R204) -/

/-- Sets an accumulator. -/
def Core.putAcc (k : Core) (n : Nat) (a : Acc) : Core := { k with acc := tput k.acc n a }

/-- The accumulators after a command, and the cells that it writes to the tile store. -/
def Core.effect (k : Core) : QOp → Core × List Host.Cell
  | .mma f d a b n => (k.putAcc d (k.stepAcc (ofMma f) (k.accOf d) a b n), [])
  | .mmaq f d a b n => (k.putAcc d (k.stepAcc (ofQ f) (k.accOf d) a b n), [])
  | .mzero d => (k.putAcc d (zeroAcc (k.accOf d)), [])
  | .mscale d sc m => (k.putAcc d (scaleAcc (k.accOf d) sc m), [])
  | .mld d a dc pl => (k.putAcc d (k.mldAcc (k.accOf d) a dc pl), [])
  | .mst d a dc pl =>
    let rows := mstRows (k.accOf d) a dc
    (k, (List.range rows.length).flatMap (fun i => (rows[i]?).elim [] (fun r => mstCells a dc pl i r)))
  | .smxa f d s p sc e =>
    let r := smxaAcc f (k.accOf d) (k.accOf s) p sc e
    (k.putAcc d r.1, r.2)
  | .smxfin d m reset => (k.putAcc d (finAcc (k.accOf d) m reset), [])
  | .smxmerge x y m => (k.putAcc x (mergeAcc (k.accOf x) (k.accOf y) m), [])
  | .smxld d off m pl => (k.putAcc d (k.smxldAcc (k.accOf d) off m pl), [])
  | .smxst d off m pl => (k, smxstCells (k.accOf d) off m pl)
  | .smxinit d m => (k.putAcc d (initAcc (k.accOf d) m), [])

/-- The accumulators and the tile store after a command that no store of a thread has met. -/
def Core.perform (k : Core) (op : QOp) : Core := { (k.effect op).1 with store := k.store.writeCells (k.effect op).2 }

/-- The report besides POISON_OPERAND that a command gives rise to: cause, enable bit of FPCTL, TSTAT (R215). -/
def Core.reportOf (k : Core) : QOp → Option (Nat × Nat × Nat)
  | .mmaq f d a b n => if k.stepNan (ofQ f) a b n then some (Cause.qbNanInput, 2, d) else none
  | .mld d a dc _ => if k.mldNan a dc then some (Cause.qbNanInput, 2, d) else none
  | .mst d a dc _ => if (mstRows (k.accOf d) a dc).any (fun r => r.inf) then some (Cause.scaleRange, 4, d) else none
  | .smxfin d m _ =>
    if madeEmpty (k.accOf d) m = 0 then none else some (Cause.smxEmptyRow, 8, d + 256 * (madeEmpty (k.accOf d) m).toNat)
  | _ => none

/-! ### Poison (R208, R372) -/

/-- Whether bytes of a tile store lie in a poisoned piece (R372). -/
def Core.poisoned (k : Core) (off n : Nat) : Bool := k.storePoison.any (fun p => meets (64 * p) 64 off n)

/-- The source ranges of a command: A or the sole source, and B. -/
def QOp.sourceA : QOp → List Range
  | .mma f _ a _ k => srcRanges (ofMma f) false a k
  | .mmaq f _ a _ k => srcRanges (ofQ f) false a k
  | op => op.reads
def QOp.sourceB : QOp → List Range
  | .mma f _ _ b k => srcRanges (ofMma f) true b k
  | .mmaq f _ _ b k => srcRanges (ofQ f) true b k
  | _ => []

/-- The poisoned source of a command: 0 for A or the sole one, 1 for B; A where both are poisoned (DESIGN CHOICE, log 80). -/
def Core.badSource (k : Core) (op : QOp) : Option Nat :=
  if op.sourceA.any (fun r => k.poisoned r.1 r.2) then some 0
  else if op.sourceB.any (fun r => k.poisoned r.1 r.2) then some 1
  else none

/-! ### Stores and reads that meet what uncompleted commands write (R205) -/

/-- The byte of a cell that stores of threads have hit in what a command writes, where the free value leaves the store standing: one choice
for each 4-byte element (R8, R205). -/
def QCmd.keeps (q : QCmd) (ctr : Nat) (c : Host.Cell) : Bool := q.hits.contains c.1 && (Config.freeBits ctr (c.1 / 4)).getLsbD 0

/-- Cells written to a tile store: what a copy engine has left open there is over (R269). -/
def Core.wrote (k : Core) (cells : List Host.Cell) : Core :=
  { k with store := k.store.writeCells cells, fresh := k.fresh.filter (fun b => !cells.any (fun c => c.1 = b.off)) }

/-- The tile after a command at its turn: of each 4-byte element that a store has hit, either the store or the command's value remains
(R205). -/
def Core.complete (k : Core) (ctr : Nat) (q : QCmd) : Core :=
  (k.effect q.op).1.wrote ((k.effect q.op).2.filter (fun c => !q.keeps ctr c))

/-- Notes, at the uncompleted commands that write them, the bytes that a store hits; not at a command that must follow the store. -/
def Core.hit (k : Core) (cells : List Host.Cell) (id : Option Nat) : Core :=
  { k with mq := k.mq.map (fun q =>
      if id.any q.after.contains then q
      else { q with hits := q.hits ++ (cells.map (·.1)).filter (fun a => rangesMeet q.op.stores a 1 && !q.hits.contains a) }) }

/-- Whether an uncompleted command writes any of n bytes. -/
def Core.unsettled (k : Core) (off n : Nat) : Bool := k.mq.any (fun q => rangesMeet q.op.stores off n)

/-- The tile store after each of the queued commands, as if they ran on from here (R204). -/
def Core.ahead (k : Core) : List Mem :=
  (k.mq.foldl (fun (r : Core × List Mem) q =>
    let k' := if (r.1.badSource q.op).isSome then r.1 else r.1.perform q.op
    (k', r.2 ++ [k'.store])) (k, [])).2

/-- n bytes as a read finds them: of each 4-byte element that an uncompleted command writes, the old value or a new one (R8, R205). -/
def Core.seen (k : Core) (ctr off n : Nat) : List Byte :=
  if k.unsettled off n then
    tabulate n (fun i =>
      Mem.read (nth [] (k.store :: k.ahead) ((Config.freeBits ctr ((off + i) / 4)).toNat % (k.mq.length + 1))) (off + i))
  else k.store.readN off n

/-- A read that had a choice has used up a free value. -/
def State.readStep (s : State) (c off n : Nat) : State := if (s.core c).unsettled off n then s.freeNext else s

/-! ### Writing a tile store (R372) -/

/-- Writes cells to a tile store; a poisoned piece keeps its mark, and the store hits what uncompleted commands write (R205, R372). `id` is the
message of a store that stood in a write queue. -/
def Core.storeWrite (k : Core) (cells : List Host.Cell) (id : Option Nat := none) : Core :=
  (k.wrote cells).hit cells id

/-- Notes the bytes of a store that core c's copy engine is about to write (R269). -/
def Core.freshen (k : Core) (c : Nat) (cells : List Host.Cell) : List FreshByte :=
  cells.map (fun b => ⟨b.1, k.store.read b.1, c, none⟩)

/-- Writes cells to a tile store in units that clear the mark of a piece they cover whole (R372). -/
def Core.storeWhole (k : Core) (cells : List Host.Cell) (id : Option Nat := none) : Core :=
  { k.storeWrite cells id with storePoison := k.storePoison.filter (fun p => !wholePiece (64 * p) cells) }

end Sys2Proof.Machine
end

