-- ==== Sys2Proof/Machine/Access.lean ====
section
/-!
DEFINITION. One memory access from its checks to its answer (R95 to R113, R117, R118, R126 to R129): the units of an instruction, the
checks over all of them, the requests sent, and the collection of what comes back.
-/

namespace Sys2Proof.Machine

/-! ### Atomic operations (R127 to R129) -/

/-- Bytes of an atomic's width. -/
def atBytes : AtW → Nat
  | .d => 8
  | _ => 4

/-- The format of AMOF. -/
def amofFmt : AmofFmt → Fmt
  | .s => .s
  | .d => .d

/-- Bytes that an atomic operation reads and writes. -/
def atomBytes : AtomOp → Nat
  | .amo _ w _ => atBytes w
  | .cas w _ _ => atBytes w
  | .amof _ f _ => (amofFmt f).bytes

/-- NEW of AMO on n-bit values (R127). -/
def amoNew (op : AmoOp) (n old c : Nat) : Nat :=
  match op with
  | .add => (old + c) % 2 ^ n
  | .and => old &&& c
  | .or => old ||| c
  | .xor => old ^^^ c
  | .min => if signed n old ≤ signed n c then old else c
  | .max => if signed n old ≤ signed n c then c else old
  | .minn => if old ≤ c then old else c
  | .maxn => if old ≤ c then c else old
  | .swap => c

/-- NEW of an atomic operation (R127 to R129). -/
def atomNew (op : AtomOp) (old : Nat) : Nat :=
  let n := 8 * atomBytes op
  match op with
  | .amo o _ c => amoNew o n old (c.toNat % 2 ^ n)
  | .cas _ e v => if old = e.toNat % 2 ^ n then v.toNat % 2 ^ n else old
  | .amof o f c => (opAmof o (amofFmt f) old (c.toNat % 2 ^ n)).1

/-- The cells that an atomic writes over old bytes at an address. -/
def atomCells (op : AtomOp) (a : Nat) (old : List Byte) : List Host.Cell := cellsAt a (toBytes (atomBytes op) (atomNew op (ofBytes old)))

/-! ### Units and where they lead -/

/-- Check 1 on every unit (R95, R96, R99). -/
def State.spaces (s : State) : List AUnit → Except Trap (List (AUnit × Loc))
  | [] => .ok []
  | u :: us =>
    match s.spaceOf s.cur.1 s.cur.2 u.kind u.ea u.size with
    | .error t => .error t
    | .ok l => match State.spaces s us with
      | .error t => .error t
      | .ok ls => .ok ((u, l) :: ls)

/-- Check 2: the first unit out of its alignment. -/
def misaligned (us : List AUnit) : Option Trap :=
  (us.find? (fun u => u.ea.toNat % u.align != 0)).map (fun u =>
    ⟨if u.kind = .atomic then Cause.atomicMisaligned else Cause.misaligned, u.ea, 0⟩)

/-- Check 3: an atomic or ordered access to domain space at a scope that is not `.dom`. -/
def scopeTrap (sc : Option Scope) (us : List (AUnit × Loc)) : Option Trap :=
  match sc with
  | none => none
  | some .dom => none
  | some _ => (us.find? (fun u => match u.2 with
      | .domain _ _ => true
      | _ => false)).map (fun u => ⟨Cause.atomicScope, u.1.ea, 0⟩)

/-- Check 4 on every unit: the entries found, none for a place that needs none. A zero-size unit touches no page. -/
def State.lookups (s : State) (c : Nat) : List (AUnit × Loc) → Except Trap (List (AUnit × Loc × Option TbEntry)) × State
  | [] => (.ok [], s)
  | (u, l) :: us =>
    let r : Except Trap (Option TbEntry) × State := match l with
      | .virt va =>
        if u.size = 0 then (.ok none, s)
        else match s.lookup c va with
          | (none, s) => (.error ⟨u.kind.miss, u.ea, 0⟩, s)
          | (some e, s) => (.ok (some e), s)
      | _ => (.ok none, s)
    match r.1 with
    | .error t => (.error t, r.2)
    | .ok e => match State.lookups r.2 c us with
      | (.error t, s) => (.error t, s)
      | (.ok es, s) => (.ok ((u, l, e) :: es), s)

/-- Check 5 (R242). -/
def permTrap (sup : Bool) (us : List (AUnit × Loc × Option TbEntry)) : Option Trap :=
  (us.find? (fun u => u.2.2.any (fun e => !e.grants u.1.kind sup))).map (fun u => ⟨u.1.kind.prot, u.1.ea, 0⟩)

/-- The place of a unit after translation. -/
def State.atOf (s : State) (c part : Nat) (l : Loc) (e : Option TbEntry) : At :=
  match l with
  | .virt va => match e with
    | none => .mem part 0
    | some e => if e.fw then .fw (e.pa va) else .mem part (e.pa va)
  | .mem p pa => .raw p pa
  | .sys p off => .sys p off
  | .fw off => .fw off
  | .store t off r => if r.isSome then .role t off else if t = c then .own off else .tile t off
  | .stall r off => .stall r off
  | .domain d off => .domain d off

/-- Check 6: an address that no window maps (R357). -/
def State.windowTrap (s : State) (us : List (AUnit × At)) : Option Trap :=
  (us.find? (fun u => match u.2 with
    | .mem p pa => u.1.size != 0 && ((s.part p).place pa).isNone
    | .raw p pa => ((s.part p).place pa).isNone
    | _ => false)).map (fun u => ⟨Cause.deckleViolation, u.1.ea, 0⟩)

/-- Checks 1 to 6 of R117 over all units of an instruction, each check over all of them before the next. -/
def State.checks (s : State) (sc : Option Scope) (us : List AUnit) : Except Trap (List (AUnit × At)) × State :=
  let c := s.cur.1
  match s.spaces us with
  | .error t => (.error t, s)
  | .ok ls =>
    match orTrap (misaligned us) (scopeTrap sc ls) with
    | some t => (.error t, s)
    | none =>
      match s.lookups c ls with
      | (.error t, s) => (.error t, s)
      | (.ok es, s) =>
        let ps := es.map (fun u => (u.1, s.atOf c s.myPart u.2.1 u.2.2))
        match orTrap (permTrap (s.isSup s.cur.1 s.cur.2) es) (s.windowTrap ps) with
        | some t => (.error t, s)
        | none => (.ok ps, s)

/-- The stalled role that a load or an atomic must wait for (R311, R317). -/
def stalledRole (us : List (AUnit × At)) : Option Nat :=
  us.findSome? (fun u => match u.2 with
    | .stall r _ => if u.1.kind = .store then none else some r
    | _ => none)

/-- Whether a unit lies in a bank of the own store that waits for a SPLIT change (R100). -/
def State.closedBank (s : State) (us : List (AUnit × At)) : Bool :=
  us.any (fun u => match u.2 with
    | .own off => s.bankWait s.cur.1 off u.1.size
    | _ => false)

/-- Runs the checks, waits for a stalled role, and goes on with the units of nonzero size and their places. -/
def State.checked' (s : State) (sc : Option Scope) (us : List AUnit) (k : State → List (AUnit × At) → Res) : Res :=
  match s.checks sc us with
  | (.error t, s) => .raise s t
  | (.ok ps, s) => match stalledRole ps with
    | some r => .park (.lookup r) s
    | none => if s.closedBank ps then .park .split s else k s (ps.filter (fun u => u.1.size != 0))

/-- The position of the most recently issued step whose operand range bytes of a tile's store meet (R193). -/
def Core.latestMet (k : Core) (rs : List (Nat × Nat)) : Option Nat :=
  (k.mq.reverse.find? (fun q => rs.any (fun r => rangesMeet q.op.reads r.1 r.2))).map (fun q => q.pos)

/-- Check 7 at issue, on the own store (R193). -/
def State.ownOpbuf (s : State) (us : List (AUnit × At)) : Option Nat :=
  s.myCore.latestMet (us.filterMap (fun u => match u.2 with
    | .own off => some (off, u.1.size)
    | _ => none))

/-! ### The place of virtual accesses (R98, R104, R108, R109) -/

/-- The request type that an access is made with (R98, R104, R108). -/
def State.effType (s : State) (c part pa : Nat) (ty : ReqType) : ReqType :=
  if !s.cached c then .nc
  else
    let other := !s.ownsFor (dieOf c) (((s.part part).place pa).elim 0 (fun p => p.stack))
    match ty with
    | .own => if other then .wt else .own
    | .si => if other then .wt else if (s.core c).pool then .si else .own
    | t => t

/-- Whether an atomic or an ordered access to virtual memory goes to the home slice (R98, R109). -/
def State.atSlice (s : State) (c : Nat) (sc : Scope) : Bool :=
  !s.cached c || (match sc with
    | .tile => false
    | .gang => !(s.core c).pool
    | _ => true)

/-- The stores of a context that travel to a line or wait for it. -/
def State.lineStores (s : State) (c x line : Nat) : List Msg :=
  s.net.filter (fun m => m.core == c && m.ctx == x && m.addr / 64 == line && m.kind.toLine)

/-- Whether an XFENCE has marked a write of a core: a copy waits for it, or will (R268). -/
def Core.fenced (k : Core) (id : Nat) : Bool := k.xmarks.contains id || k.fifo.any (fun q => q.marks.contains id)

/-- Puts a write in the place of another among the marks. -/
def Core.remark (k : Core) (old new : Nat) : Core :=
  let f (ids : List Nat) : List Nat := ids.map (fun i => if i = old then new else i)
  { k with xmarks := f k.xmarks, fifo := k.fifo.map (fun q => { q with marks := f q.marks }) }

/-- A store has reached its line: where an XFENCE has marked it, the line is written back and that write is marked (R268). -/
def State.fenceLine (s : State) (m : Msg) (h : Nat) : State :=
  if (s.core m.core).fenced m.id then
    (s.writeBack h (fun l => l.line = m.addr / 64)).modCore m.core (fun k => k.remark m.id s.msgCtr)
  else s

/-- A store at its home portion goes into the line, which is dirty then: whether the die owns the stack was tested when it issued (R104,
R108). -/
def State.cacheApply (s : State) (m : Msg) (h : Nat) : State := (s.updateLine h (m.addr / 64) false m.bytes true).fenceLine m h

/-- A write-through at the portion that homes its line: a copy there is updated, and the bytes go to the home slice (R104, R109). The unit keeps
the entry of the store, and an XFENCE's mark on it (R268). -/
def State.through (s : State) (m : Msg) (h : Nat) : State :=
  let id := s.msgCtr
  let s := (s.updateLine h (m.addr / 64) false m.bytes false).send
    (s.memMsg m.core m.ctx m.entry (.unit false true false) m.part m.addr m.bytes)
  if (s.core m.core).fenced m.id then s.modCore m.core (fun k => k.remark m.id id) else s

/-- Applies a store to a line that its home portion holds (R104). -/
def State.applyStore (s : State) (m : Msg) : State :=
  match m.kind with
  | .cacheStore h => ({ s with net := s.net.filter (fun e => decide (e.id ≠ m.id)) }).cacheApply m h
  | .cacheUpdate h =>
    { s with net := s.net.filter (fun e => decide (e.id ≠ m.id)) }.through m h
  | _ => s

/-- Applies the stores of a context that wait for a line, in issue order. -/
def State.applyStores (s : State) (c x line : Nat) : State := (s.lineStores c x line).foldl State.applyStore s

/-- R110: the caches of a core that are narrower than the place of execution write a line back and discard it. -/
def State.narrow (s : State) (c x pa : Nat) (sc : Scope) : State :=
  if !s.cached c then s
  else
    let line := pa / 64
    let s := s.modCore c (fun k => k.dropLine line true)
    if s.atSlice c sc then
      let h := s.lineHome c line
      match (s.core h).lineAt line false with
      | none => s
      | some l => (if l.dirty then s.sendBackFor c x l else s).modCore h (fun k => k.dropLine line false)
    else s

/-! ### Requests -/

/-- Cells that only name the bytes to be read. -/
def blanks (a n : Nat) : List Host.Cell := cellsAt a (List.replicate n 0)

/-- Takes the number of a request. -/
def State.reserve (s : State) : State := { s with msgCtr := s.msgCtr + 1 }

/-- The answer to the issuing thread's request of a number. -/
def State.instantAs (s : State) (id : Nat) (data : List Byte) (poison : Bool) : State := s.answer s.cur.1 s.cur.2 ⟨id, data, poison, 0, 0⟩

/-- An answer that is there at once. -/
def State.instant (s : State) (data : List Byte) (poison : Bool) : State := s.reserve.instantAs s.msgCtr data poison

/-- Whether a thread of core r may still read a byte that a copy engine has written as it was: no tile of its gang has acquired at device scope
since the transfer completed (R269, R300; DEDUCED, log 81). -/
def State.unacquired (s : State) (r : Nat) (b : FreshByte) : Bool :=
  b.ended.all (fun n => (s.gangCores r).all (fun g => decide ((s.core g).acq ≤ n)))

/-- Whether n bytes of the store of core h hold such a byte for a thread of core r. -/
def State.freshFor (s : State) (h r off n : Nat) : Bool :=
  (s.core h).fresh.any (fun b => decide (off ≤ b.off) && decide (b.off < off + n) && s.unacquired r b)

/-- n bytes of the store of core h as a thread of core r finds them: of each 4-byte element that a queued command or a copy engine writes, the
old value or a new one (R8, R205, R269). -/
def State.threadSees (s : State) (h r off n : Nat) : List Byte :=
  let bs := (s.core h).seen s.freeCtr off n
  if s.freshFor h r off n then
    tabulate n (fun i => match (s.core h).fresh.find? (fun b => b.off = off + i && s.unacquired r b) with
      | some b => if (Config.freeBits (s.freeCtr + 1) ((off + i) / 4)).getLsbD 1 then b.old else nth 0 bs i
      | none => nth 0 bs i)
  else bs

/-- A thread's read that had a choice has used up a free value. -/
def State.threadRead (s : State) (h r off n : Nat) : State :=
  if s.freshFor h r off n then { s with freeCtr := s.freeCtr + 2 } else s.readStep h off n

/-- The stores of a thread to its own tile's store that stand in its write queue, in issue order (R118, R291). -/
def State.ownPend (s : State) (c x : Nat) : List Msg :=
  s.net.filter (fun m => m.core == c && m.ctx == x && (match m.kind with
    | .tileStore h _ _ => h == c
    | _ => false))

/-- The bytes a thread reads from its own tile's store: those of its own standing stores over what the store holds, or an uncompleted
command or a copy engine is writing (R205, R269, R296). -/
def State.ownRead (s : State) (c x off n : Nat) : List Byte :=
  (s.ownPend c x).foldl (fun bs m => overlay off bs m.bytes) (s.threadSees c c off n)

/-- The standing stores of a thread that an access to bytes of its own tile's store must follow: those that meet the bytes, and those that
meet one of these (R296). -/
def State.ownBefore (s : State) (c x off n : Nat) : List Msg :=
  ((s.ownPend c x).foldr (fun m r =>
    if m.bytes.any (fun b => r.2.contains b.1) then (m :: r.1, r.2 ++ m.bytes.map (·.1)) else r) ([], (List.range n).map (off + ·))).1

/-- Applies those stores. -/
def State.ownApply (s : State) (c x off n : Nat) : State :=
  (s.ownBefore c x off n).foldl (fun s m =>
    ({ s with net := s.net.filter (fun e => decide (e.id ≠ m.id)) }).modCore c (fun k => match m.kind with
      | .tileStore _ _ true => k.storeWhole m.bytes (some m.id)
      | _ => k.storeWrite m.bytes (some m.id))) s

/-- Sends a message of the issuing context to a tile. -/
def State.sendTile (s : State) (entry : Nat) (kind : MKind) (addr : Nat) (bytes : List Host.Cell) : State :=
  s.send (s.tileMsg s.cur.1 s.cur.2 entry kind s.myPart addr bytes)

/-- Sends a message of the issuing context to a home slice. -/
def State.sendMem (s : State) (entry : Nat) (kind : MKind) (part pa : Nat) (bytes : List Host.Cell) : State :=
  s.send (s.memMsg s.cur.1 s.cur.2 entry kind part pa bytes)

/-! ### Collective offsets (R388) -/

/-- Where the collective offsets begin; no window lies from there on. -/
def collectiveBase : Nat := 0x3FFF00000000

/-- Whether a domain offset is a collective offset. -/
def isCollective (off : Nat) : Bool := decide (collectiveBase ≤ off) && decide (off < 0x3FFF10000000)

/-- The element sizes of a reduction by an integer atomic. -/
def sizeReduces : AtW → Bool
  | .w => true
  | .d => true
  | .wn => false

/-- Whether an operation at a collective offset is a reduction. -/
def reduces : AtomOp → Bool
  | .amo .add w _ => sizeReduces w
  | .amo .min w _ => sizeReduces w
  | .amo .max w _ => sizeReduces w
  | .amof .fadd _ _ => true
  | _ => false

/-- Whether an atomic at an address is a reduction flit. -/
def collectiveAt (ea : Word) (op : AtomOp) : Bool := fld ea 63 60 == 0xC && isCollective (fld ea 45 0) && reduces op

/-- Whether a domain operation at an offset is a reduction flit. -/
def flitAt (off : Nat) : DomOp → Bool
  | .atomic op => isCollective off && reduces op
  | _ => false

/-- The interval of a partition cannot be rolled back (R379). -/
def State.noRollback (s : State) (part : Nat) : State := s.modPart part (fun p => { p with ckptctl := setBit p.ckptctl 10 })

/-- Whether a domain operation acts at its destination: all but a load. -/
def DomActs : DomOp → Bool
  | .load _ => false
  | _ => true

/-- Sends a domain operation (R287); one that acts on another device ends the chance of a rollback (R379), and so does a reduction flit, which
leaves the device whatever device number its address carries (R388). -/
def State.sendDomain (s : State) (dev off : Nat) (op : DomOp) : State :=
  let s := if DomActs op && (dev != s.devnum.toNat || flitAt off op) then s.noRollback s.myPart else s
  { s with outbox := s.outbox ++ [⟨s.msgCtr, s.agent s.cur.1 s.cur.2, dev, off, op⟩], msgCtr := s.msgCtr + 1 }

/-- Whether a fetch of a line for a portion is on its way. -/
def State.fetching (s : State) (h line : Nat) : Bool :=
  let isFetch (e : Msg) : Bool := e.core == h && e.addr / 64 == line && (match e.kind with
    | .fetch _ false => true
    | _ => false)
  s.inFlight.any isFetch || s.dies.any (fun d => d.2.inbox.any (fun u => u.reply.any isFetch))

/-- A read of a line's bytes: at once where the own portion holds it, with the own stores that wait for it applied first; otherwise a
request to the home tile (R102, R118, R296). -/
def State.readLine (s : State) (pa n : Nat) (loc : Bool) : State :=
  let c := s.cur.1
  let line := pa / 64
  let h := s.lineHome c line
  let mine := if loc || h == c then (s.core c).lineAt line loc else none
  match mine with
  | some _ =>
    let t := if loc then s.reserve else s.reserve.applyStores c s.cur.2 line
    match (t.core c).lineAt line loc with
    | some l => t.instantAs s.msgCtr (Machine.slice l.data (pa % 64) n) l.poison
    | none => t
  | none => s.sendTile s.msgCtr (.cacheRead h n loc) pa []

/-- A read of one unit (R104, R118, R119): its request has the number the message counter stood at. -/
def State.readUnit (s : State) (u : AUnit) (a : At) (ty : ReqType) : State :=
  let c := s.cur.1
  match a with
  | .own off => (s.instant (s.ownRead c s.cur.2 off u.size) ((s.core c).poisoned off u.size)).threadRead c c off u.size
  | .tile t off => s.sendTile s.msgCtr (.tileRead t) off (blanks off u.size)
  | .role t off => s.sendTile s.msgCtr (.tileRead t) off (blanks off u.size)
  | .sys p off => s.sendMem s.msgCtr (.read u.size) p (sysPa + off) []
  | .fw off => s.instant (s.fwMem.readN off u.size) false
  | .raw p pa => s.sendMem s.msgCtr (.read u.size) p pa []
  | .domain d off => s.sendDomain d off (.load u.size)
  | .stall _ _ => s
  | .mem p pa =>
    match s.effType c p pa ty with
    | .nc => s.sendMem s.msgCtr (.read u.size) p pa []
    | .si => s.readLine pa u.size true
    | _ => s.readLine pa u.size false

/-- A write-through: a copy in the own portion is updated and the bytes go to the home slice at once; where the line is homed elsewhere, is on
its way or has stores of the thread before it, both happen when the store reaches the portion that homes the line (R104; DESIGN CHOICE, log
47). -/
def State.throughLine (s : State) (entry part pa : Nat) (cells : List Host.Cell) : State :=
  let c := s.cur.1
  let line := pa / 64
  let h := s.lineHome c line
  if h = c && !s.fetching h line && (s.lineStores c s.cur.2 line).isEmpty then
    (s.sendMem entry (.unit false true false) part pa cells).updateLine h line false cells false
  else s.sendTile entry (.cacheUpdate h) pa cells

/-- A store of one unit as it is accepted into the write queue (R104, R118, R119). A `.wt` store also updates a local copy of the issuing tile
(DESIGN CHOICE, log 47). -/
def State.writeUnit (s : State) (entry : Nat) (a : At) (ty : ReqType) (bs : List Byte) : State :=
  let c := s.cur.1
  match a with
  | .own off => s.sendTile entry (.tileStore c false false) off (cellsAt off bs)
  | .tile t off => s.sendTile entry (.tileStore t true false) off (cellsAt off bs)
  | .role t off => s.sendTile entry (.tileStore t false false) off (cellsAt off bs)
  | .sys p off => s.sendMem entry (.unit false false false) p (sysPa + off) (cellsAt (sysPa + off) bs)
  | .fw off => { s with fwMem := s.fwMem.writeN off bs }
  | .raw p pa => s.sendMem entry (.unit false false false) p pa (cellsAt pa bs)
  | .domain d off => (s.sendDomain d off (.store bs)).modMe (fun t => { t with rfcount := t.rfcount + 1 })
  | .stall r off => s.sendTile entry (.roleStore r false) off (cellsAt off bs)
  | .mem p pa =>
    let line := pa / 64
    let h := s.lineHome c line
    let cells := cellsAt pa bs
    match s.effType c p pa ty with
    | .nc => s.sendMem entry (.unit false false false) p pa cells
    | .wt => (s.throughLine entry p pa cells).updateLine c line true cells false
    | .si => (s.sendTile entry (.cacheStore h) pa cells).updateLine c line true cells false
    | .own => s.sendTile entry (.cacheStore h) pa cells

/-! ### What comes back -/

/-- The answers to the requests of the phase: the first that is missing, or all of them in order. -/
def Ctx.allReplies (t : Ctx) : List Nat → Except Nat (List Reply)
  | [] => .ok []
  | i :: is => match t.replyOf i with
    | none => .error i
    | some r => match Ctx.allReplies t is with
      | .error j => .error j
      | .ok rs => .ok (r :: rs)

/-- The cause that an answer carries, check 8 and a refusal of check 7 (R117, R190): a refusal of a store names its address. -/
def replyTrap : List (Reply × Nat) → Option Trap
  | [] => none
  | (r, ea) :: rs =>
    if r.code ≠ 0 then some ⟨r.code, if r.data.isEmpty then w64 ea else w64 (ofBytes r.data), w64 r.pos⟩
    else if r.poison then some ⟨Cause.poisonLoad, w64 ea, 0⟩
    else replyTrap rs

/-- Waits for the answers of the phase, raises the cause they carry, or goes on with them. -/
def State.collect (s : State) (k : State → List Reply → Res) : Res :=
  match s.me.allReplies s.me.phase.ids with
  | .error i => .park (.reply i) s
  | .ok rs => match replyTrap (rs.zip s.me.phase.eas) with
    | some t => .raise s t
    | none => k s rs

/-- Notes the requests sent, with the addresses they concern. -/
def State.sent (s : State) (step : Nat) (ids eas : List Nat) : State :=
  s.modMe (fun t => { t with phase := { t.phase with step := step, ids := ids, eas := eas } })

/-- Sends the reads of units, in order. -/
def State.readAll (s : State) (ty : ReqType) (us : List (AUnit × At)) : State :=
  let r := us.foldl (fun (r : List Nat × State) u => (r.1 ++ [r.2.msgCtr], r.2.readUnit u.1 u.2 ty)) ([], s)
  r.2.sent 4 r.1 (us.map (fun u => u.1.ea.toNat))

/-- Step 4 of the phases: requests are out. -/
def State.out (s : State) : Bool := decide (4 ≤ s.me.phase.step)

/-- An instruction that another place carries out: its operands go there, the thread parks, and once that place has replied it completes with
the effect there (R28, R259, R262, R305; DEDUCED, log 53). -/
def State.remote (s : State) (ops : List Nat) (k : State → List Nat → Res) : Res :=
  if s.out then k s s.me.phase.eas else .park .served (s.sent 4 [] ops)

/-- A load of units: the checks, the reads, the answers (R117, R118). -/
def State.load (s : State) (us : List AUnit) (ty : ReqType) (k : State → List Reply → Res) : Res :=
  if s.out then s.collect k
  else s.checked' none us (fun s ps => (s.readAll ty ps).collect k)

/-! ### Stores -/

/-- A plane of a store: the address that a refusal on the own store names, units, bytes. -/
abbrev Plane := Option Word × List AUnit × List (List Byte)

/-- The other gang tile a piece goes to. -/
def Piece.far (p : Piece) : Option Nat :=
  match p.2.1 with
  | .tile t _ => some t
  | _ => none

/-- The other gang tiles that pieces go to. -/
def farCores (ps : List Piece) : List Nat := dedup (ps.filterMap Piece.far)

/-- The cells that go to a gang tile. -/
def farCells (t : Nat) (ps : List Piece) : List Host.Cell :=
  ps.flatMap (fun p => match p.2.1 with
    | .tile u off => if u = t then cellsAt off p.2.2 else []
    | _ => [])

/-- What a check at a gang tile must know of the units of a plane that go there: offset, size, address. -/
def farUnits (t : Nat) (ps : List Piece) : List (Nat × Nat × Word) :=
  ps.filterMap (fun p => match p.2.1 with
    | .tile u off => if u = t then some (off, p.1.size, p.1.ea) else none
    | _ => none)

/-- The same for the own store. -/
def ownUnits (ps : List Piece) : List (Nat × Nat × Word) :=
  ps.filterMap (fun p => match p.2.1 with
    | .own off => some (off, p.1.size, p.1.ea)
    | _ => none)

/-- The refusal of a store by a tile's queue: the lowest address of a unit that meets a range, in the first plane that has one, and the
position of the most recent step that the store meets (R190, R193; DEDUCED, log 43). -/
def Core.refusal (k : Core) (planes : List (List (Nat × Nat × Word))) : Option (Word × Nat) :=
  (k.latestMet (planes.flatMap (fun us => us.map (fun u => (u.1, u.2.1))))).map (fun pos =>
    (w64 ((planes.findSome? (fun us => ((us.filter (fun u => (k.latestMet [(u.1, u.2.1)]).isSome)).map (fun u => u.2.2.toNat)).min?)).getD 0), pos))

/-- The refusal at issue by the own tile's queue; a plane with an address of its own names that. -/
def Core.refusalAt (k : Core) (planes : List (Option Word × List Piece)) : Option (Word × Nat) :=
  (k.refusal (planes.map (fun p => ownUnits p.2))).map (fun r =>
    ((planes.findSome? (fun p =>
      if (k.latestMet ((ownUnits p.2).map (fun u => (u.1, u.2.1)))).isSome then some (p.1.getD r.1) else none)).getD r.1, r.2))

/-- Sends one message to each gang tile that a store goes to. -/
def State.sendFar (s : State) (step : Nat) (kind : Nat → MKind) (ps : List Piece) : State :=
  let r := (farCores ps).foldl (fun (r : List Nat × State) t =>
    (r.1 ++ [r.2.msgCtr], r.2.sendTile r.2.msgCtr (kind t) ((farCells t ps).head?.elim 0 (·.1)) (farCells t ps))) ([], s)
  r.2.sent step r.1 ((farCores ps).map (fun _ => 0))

/-- Where a piece of a store lies in a tile's store that is written without an answer: the own one, or that of a role; the offset. -/
def At.quiet : At → Option (At × Nat)
  | .own off => some (.own 0, off)
  | .role t off => some (.role t 0, off)
  | .stall r off => some (.stall r 0, off)
  | _ => none

/-- The units in which a store to such a tile's store stands in the write queue: element by element, but as one unit for each piece that a
VST covers whole (R185, R372). -/
def quietWrites (clr : Bool) (to_ : At) (ps : List Piece) : List (Bool × List Host.Cell) :=
  let us := ps.filterMap (fun p => p.2.1.quiet.bind (fun q => if q.1 = to_ then some (cellsAt q.2 p.2.2) else none))
  let all := us.flatten
  let whole := if clr then (dedup (all.map (fun b => b.1 / 64))).filter (fun p => wholePiece (64 * p) all) else []
  (us.filter (fun u => !u.any (fun b => whole.contains (b.1 / 64)))).map (fun u => (false, u)) ++
    whole.map (fun p => (true, all.filter (fun b => b.1 / 64 = p)))

/-- The message that carries such a unit. -/
def State.quietKind (s : State) (to_ : At) (whole : Bool) : MKind :=
  match to_ with
  | .role t _ => .tileStore t false whole
  | .stall r _ => .roleStore r whole
  | _ => .tileStore s.cur.1 false whole

/-- Accepts the pieces of one write-queue entry that do not go to another gang tile (R118). -/
def State.storeNear (s : State) (ty : ReqType) (clr : Bool) (ps : List Piece) : State :=
  let entry := s.msgCtr
  let s := (dedup (ps.filterMap (fun p => p.2.1.quiet.map (·.1)))).foldl (fun s to_ =>
    (quietWrites clr to_ ps).foldl (fun s u => s.sendTile entry (s.quietKind to_ u.1) (u.2.head?.elim 0 (·.1)) u.2) s) s
  ps.foldl (fun s p => match p.2.1 with
    | .own _ => s
    | .tile _ _ => s
    | .role _ _ => s
    | .stall _ _ => s
    | a => s.writeUnit entry a ty p.2.2) s

/-- Accepts the near pieces of every plane, each plane one entry. -/
def State.storeNears (s : State) (ty : ReqType) (clr : Bool) (planes : List (Option Word × List Piece)) : State :=
  planes.foldl (fun s p => s.storeNear ty clr p.2) s

/-- The bytes joined to the places of units. -/
def pieces (ps : List (AUnit × At)) (bs : List (List Byte)) : List Piece := (ps.zip bs).map (fun p => (p.1.1, p.1.2, p.2))

/-- The pieces of every plane. -/
def planesAt (planes : List Plane) (ps : List (AUnit × At)) : List (Option Word × List Piece) :=
  planes.map (fun p => (p.1, pieces (ps.filter (fun u => p.2.1.contains u.1)) p.2.2))

/-- Keeps the planes of a store that have passed their checks: what a register holds later does not change them. -/
def State.keepPlanes (s : State) (planes : List (Option Word × List Piece)) : State :=
  s.modMe (fun t => { t with phase := { t.phase with planes := planes } })

/-- A store whose planes have passed checks 1 to 6, on to its acceptance: check 7 on the own store; the pieces for one other gang tile travel
there together, are checked and applied there, and then the rest is accepted; where pieces go to several other tiles, these are asked
first, and once every one has passed the store nothing refuses it any more (R117, R122, R186, R190; DEDUCED, log 43). Step 4: the tiles
have been asked; step 5: the pieces are sent. -/
def State.storeAt (s : State) (ty : ReqType) (clr : Bool) (split : List (Option Word × List Piece)) (k : State → Res) : Res :=
  let all := split.flatMap (fun p => p.2)
  match s.myCore.refusalAt split with
  | some (a, pos) => .trap Cause.opbufInUse a (w64 pos) s
  | none =>
    if (farCores all).isEmpty then k (s.storeNears ty clr split)
    else
      let s := s.keepPlanes split
      if (farCores all).length = 1 then
        (s.sendFar 5 (fun t => .farStore t (split.map (fun p => farUnits t p.2)) clr) all).collect (fun s _ => k s)
      else (s.sendFar 4 (fun t => .farProbe t (split.map (fun p => farUnits t p.2))) all).collect (fun s _ => k s)

/-- A store that other gang tiles have answered: step 4, where they have passed the check, its pieces are sent and accepted; step 5, where they
have applied them, what the one tile was asked with is accepted (R118, R190). -/
def State.storeOn (s : State) (ty : ReqType) (clr : Bool) (k : State → Res) : Res :=
  let split := s.me.phase.planes
  if s.me.phase.step = 4 then
    (((s.storeNears ty clr split).keepPlanes []).sendFar 5 (fun t => .tileStore t true clr) (split.flatMap (fun p => p.2))).collect
      (fun s _ => k s)
  else k (s.storeNears ty clr split)

/-- A store of one or two planes, each with its units and bytes and one write-queue entry: room in the queue, checks 1 to 6, check 7, the
acceptance (R117, R118, R190). `clr` marks a VST, which clears the mark of a piece of a tile store that it covers whole (R372). -/
def State.store (s : State) (planes : List Plane) (ty : ReqType) (clr : Bool) (k : State → Res) : Res :=
  let go (s : State) : Res := s.checked' none (planes.flatMap (fun p => p.2.1)) (fun s ps => s.storeAt ty clr (planesAt planes ps) k)
  if s.out then s.collect (fun s _ => s.storeOn ty clr k)
  else if !s.queueRoom s.cur.1 s.cur.2 planes.length then .bubble s
  else go s

/-! ### Releases and acquires (R112, R113, R120) -/

/-- Puts the phase on a step with the present mark. -/
def State.mark (s : State) (step : Nat) : State :=
  s.modMe (fun t => { t with phase := { t.phase with step := step, mark := s.msgCtr } })

/-- Second half of a release: the write-backs. -/
def State.releaseEnd (s : State) (sc : Scope) (k : State → Res) : Res :=
  let c := s.cur.1
  let x := s.cur.2
  if s.widerThanCache c sc && !s.writesDone c x s.me.phase.mark then .park (.writes s.me.phase.mark) s
  else if sc = .dom ∧ s.me.rfcount ≠ 0 then .park .remote s
  else k (s.mark 3)

/-- RELEASE(S): waits for the issuer's stores, then writes the dirty lines back and waits for those and, at `.dom`, for RFCOUNT (R112,
R120). It goes through the phases 1 and 2 and leaves phase 3. -/
def State.release (s : State) (sc : Scope) (k : State → Res) : Res :=
  if 3 ≤ s.me.phase.step then k s
  else if s.me.phase.step = 2 then s.releaseEnd sc k
  else
    let s := if s.me.phase.step = 0 then s.mark 1 else s
    let wide := decide (sc ≠ .tile)
    if !s.storesDone s.cur.1 s.cur.2 wide s.me.phase.mark then .park (.stores wide s.me.phase.mark) s
    else ((s.releaseLines s.cur.1 sc).mark 2).releaseEnd sc k

/-- RELEASE before an access whose kind asks for one. -/
def State.releaseIf (s : State) (kind : FenceKind) (sc : Scope) (k : State → Res) : Res :=
  match kind with
  | .rel => s.release sc k
  | .ar => s.release sc k
  | _ => k s

/-- ACQUIRE after an access whose kind asks for one. -/
def State.acquireIf (s : State) (kind : FenceKind) (sc : Scope) : State :=
  match kind with
  | .acq => s.acquire s.cur.1 sc
  | .ar => s.acquire s.cur.1 sc
  | _ => s

/-! ### Atomics and ordered accesses (R109, R110, R120, R126) -/

/-- Sends an atomic to its place, or executes it at once in the own store or on a line of the own portion (R109, R118, R126). -/
def State.atomUnit (s : State) (a : At) (sc : Scope) (op : AtomOp) : State :=
  let c := s.cur.1
  let n := atomBytes op
  match a with
  | .own off =>
    let s := s.ownApply c s.cur.2 off n
    let old := (s.core c).seen s.freeCtr off n
    let pz := (s.core c).poisoned off n
    ((if pz then s else s.modCore c (fun k => k.storeWrite (atomCells op off old))).instant old pz).readStep c off n
  | .tile t off => s.sendTile s.msgCtr (.tileAtomic t op) off (blanks off n)
  | .role t off => s.sendTile s.msgCtr (.tileAtomic t op) off (blanks off n)
  | .sys p off => s.sendMem s.msgCtr (.atomic op) p (sysPa + off) []
  | .fw off =>
    let old := s.fwMem.readN off n
    { s with fwMem := s.fwMem.writeCells (atomCells op off old) }.instant old false
  | .raw p pa => s.sendMem s.msgCtr (.atomic op) p pa []
  | .domain d off =>
    if isCollective off && reduces op then
      ((s.instant (List.replicate n 0) false).sendDomain d off (.atomic op)).modMe (fun t => { t with rfcount := t.rfcount + 1 })
    else s.sendDomain d off (.atomic op)
  | .stall _ _ => s
  | .mem p pa =>
    if s.atSlice c sc then s.sendMem s.msgCtr (.atomic op) p pa []
    else
      let line := pa / 64
      let h := s.lineHome c line
      let through := s.effType c p pa .own == .wt
      match (if h = c then (s.core c).lineAt line false else none) with
      | some _ =>
        let t := s.reserve.applyStores c s.cur.2 line
        match (t.core c).lineAt line false with
        | none => t
        | some l =>
          let old := Machine.slice l.data (pa % 64) n
          if l.poison then t.instantAs s.msgCtr old true
          else
            let cells := atomCells op pa old
            let t := t.instantAs s.msgCtr old false
            let t := if through then t.sendMem t.msgCtr (.unit false true false) p pa cells else t
            t.updateLine c line false cells (!through)
      | none => s.sendTile s.msgCtr (.cacheAtomic h op through) pa []

/-- The write-backs of a line by the cache a core uses that have not been applied at the home slice. -/
def State.lineBacks (s : State) (c part pa : Nat) : List Msg :=
  s.inFlight.filter (fun m => m.kind.isWb && m.part == part && m.addr / 64 == pa / 64 && (s.cacheCores c).contains m.core)

/-- What an access that goes beyond the cache that holds its line must wait for: the thread's stores that travel to the line, and the
write-backs of the line (R110). -/
def State.blockers (s : State) (a : At) (sc : Scope) : List Nat :=
  match a with
  | .mem p pa =>
    if s.atSlice s.cur.1 sc then (s.lineStores s.cur.1 s.cur.2 (pa / 64) ++ s.lineBacks s.cur.1 p pa).map (fun m => m.id) else []
  | _ => []

/-- R110 for the place of an access. -/
def State.narrowAt (s : State) (a : At) (sc : Scope) : State :=
  match a with
  | .mem _ pa => s.narrow s.cur.1 s.cur.2 pa sc
  | _ => s

/-- An atomic from its checks to its answer (R117, R126): the release, R110, the access, the acquire. -/
def State.atom (s : State) (ea : Word) (op : AtomOp) (sc : Scope) (kind : FenceKind) (k : State → Nat → Res) : Res :=
  let n := atomBytes op
  let fin (s : State) (rs : List Reply) : Res := k (s.acquireIf kind sc) (ofBytes ((rs.head?.elim [] (fun r => r.data))))
  if s.out then s.collect fin
  else s.checked' (some sc) [⟨.atomic, ea, n, n⟩] (fun s ps =>
    match ps with
    | [] => .bubble s
    | (u, a) :: _ =>
      match s.ownOpbuf [(u, a)] with
      | some pos => .trap Cause.opbufInUse ea (w64 pos) s
      | none => s.releaseIf kind sc (fun s =>
        if !(s.blockers a sc).isEmpty then .park (.gone (s.blockers a sc)) s
        else
          let s := s.narrowAt a sc
          ((s.atomUnit a sc op).sent 4 [s.msgCtr] [ea.toNat]).collect fin))

/-- `ld.acq`: a load at the place of an atomic, then an acquire (R120). -/
def State.loadAcq (s : State) (ea : Word) (n : Nat) (sc : Scope) (k : State → List Reply → Res) : Res :=
  let fin (s : State) (rs : List Reply) : Res := k (s.acquire s.cur.1 sc) rs
  if s.out then s.collect fin
  else s.checked' (some sc) [⟨.load, ea, n, n⟩] (fun s ps =>
    match ps with
    | [] => .bubble s
    | (u, a) :: _ =>
      if !(s.blockers a sc).isEmpty then .park (.gone (s.blockers a sc)) s
      else
        let s := s.narrowAt a sc
        let ty : ReqType := if s.atSlice s.cur.1 sc then .nc else .own
        ((s.readUnit u a ty).sent 4 [s.msgCtr] [ea.toNat]).collect fin)

/-- `st.rel`: a release, then a store at the place of an atomic (R120). -/
def State.storeRel (s : State) (ea : Word) (bs : List Byte) (sc : Scope) (k : State → Res) : Res :=
  if s.out then s.collect (fun s _ => k s)
  else if s.me.phase.step = 0 && !s.queueRoom s.cur.1 s.cur.2 1 then .bubble s
  else s.checked' (some sc) [⟨.store, ea, bs.length, bs.length⟩] (fun s ps =>
    match ps with
    | [] => .bubble s
    | (u, a) :: _ =>
      match s.ownOpbuf [(u, a)] with
      | some pos => .trap Cause.opbufInUse ea (w64 pos) s
      | none => s.release sc (fun s =>
        if !(s.blockers a sc).isEmpty then .park (.gone (s.blockers a sc)) s
        else
          let s := s.narrowAt a sc
          let ty : ReqType := if s.atSlice s.cur.1 sc then .nc else .own
          match a with
          | .tile t off =>
            ((s.sendTile s.msgCtr (.farStore t [[(off, u.size, ea)]] false) off (cellsAt off bs)).sent 4 [s.msgCtr] [ea.toNat]).collect
              (fun s _ => k s)
          | _ => k (s.writeUnit s.msgCtr a ty bs)))

end Sys2Proof.Machine
end

