-- ==== Sys2Proof/Machine/Clock.lean ====
section
/-!
DEFINITION. Time: what happens at a tick of GTIME, and GTIME running on, which passes no such tick before it has happened (R1, R23, R306,
R307, R311, R318, R319, R323, R352).
-/

namespace Sys2Proof.Machine

/-- GTIME in the issue cycle. -/
def State.now (s : State) : Nat := s.gtime.toNat

/-- The census interval in ticks that a CENSUSCTL value sets (R318). -/
def censusTicks (w : Word) : Nat := 1000 * Nat.min 10000 (Nat.max 50 (fld w 15 0))

/-- Whether a census tick has come and has not been taken. -/
def State.censusDue (s : State) (p : Nat) : Bool :=
  (s.part p).present && decide (s.now % censusTicks (s.part p).censusctl = 0) && decide ((s.part p).lastCensus < s.now)

/-- The checkpoint interval in ticks of a CKPTCTL value (R376). -/
def ckptTicks (w : Word) : Nat := ticksMs * Nat.min 100 (Nat.max 1 (fld w 6 0))

/-- Whether the tick of a checkpoint has come and the checkpoint has not begun (R376); one that is still being captured leaves the next to the
following multiple (DESIGN CHOICE, log 84). -/
def State.ckptDue (s : State) (p : Nat) : Bool :=
  let q := s.part p
  q.present && !q.stopped && !q.inReset && q.capture.isNone && decide (s.now % ckptTicks q.ckptctl = 0) && q.ckpt.any (fun k => decide (k.tick < s.now))

/-- A task that waits for a gang: ready, or switched out (R264). -/
def Task.waits (t : Task) : Bool := t.phase == .ready || t.phase == .saved

/-- The tick at which a waiting task rises to the next level (R23). -/
def Task.riseTick (t : Task) : Option Nat := if t.waits && decide (t.level < 7) then some (t.since + 1000000) else none

/-- The ticks of the events of a lease that have not been raised (R306). -/
def Role.leaseTicks (r : Role) : List Nat :=
  r.expiry.elim [] (fun e => (if r.warn && !r.warned then [e - 20000] else []) ++ [e])

/-- The tick of a change that has not begun (R321). -/
def Change.dueTick (c : Change) : Option Nat := if c.begun then none else some c.tick

/-- The next ticks at which something happens in partition p. -/
def State.partTicks (s : State) (p : Nat) : List Nat :=
  let q := s.part p
  let i := censusTicks q.censusctl
  if !q.present then []
  else
    (if s.censusDue p then s.now else (s.now / i + 1) * i) ::
    (if s.ckptDue p then s.now else (s.now / ckptTicks q.ckptctl + 1) * ckptTicks q.ckptctl) ::
      (q.window.filterMap Task.riseTick ++ q.roles.flatMap Role.leaseTicks ++ q.changes.filterMap Change.dueTick)

/-- The tick of a stack's armed switch (R352). -/
def Stack.switchTick (k : Stack) : Option Nat := k.armed.map (fun _ => fld k.dswitch 61 0)

/-- The next ticks at which something happens: census points, checkpoints, changes, lease events, priority rises, domain switches. -/
def State.dueTicks (s : State) : List Nat :=
  s.parts.flatMap (fun e => s.partTicks e.1) ++ s.memStacks.filterMap (fun e => e.2.switchTick)

/-- Whether something whose tick has come has not happened yet: nothing else happens before it. -/
def State.timeDue (s : State) : Bool := s.dueTicks.any (fun t => decide (t ≤ s.now))

/-- Whether an event is one that happens at a tick. -/
def timedEvent : Instr → Bool
  | .censusPoint _ => true
  | .checkpointCapture _ => true
  | .roleChange _ _ => true
  | .leaseExpiring _ _ => true
  | .leaseExpired _ _ => true
  | .priorityRise _ _ => true
  | .domainSwitch _ => true
  | _ => false

/-- The accesses of a partition that wait at a role-map lookup: of threads, on tiles and on Atelier cores, of copy engines, and stores on their
way (R278, R311, R319). -/
def State.stalledThreads (s : State) (p : Nat) : Nat :=
  let stalled (r : Nat) : Bool := (s.part p).roles.any (fun e => e.num == r && e.stalled)
  ((s.cores.flatMap (fun e => e.2.ctxs.filter (fun t => s.partOf e.1 t.1 == p))).filter (fun t => t.2.park.any (fun k => match k.w with
    | .lookup _ => true
    | _ => false))).length +
  (s.cores.filter (fun e => decide (s.tilePart e.1 = p) && (e.2.fifo.head?.bind (fun q => q.lookup)).any stalled)).length +
  (s.net.filter (fun m => match m.kind with
    | .roleStore r _ => decide (m.part = p) && stalled r
    | _ => false)).length

/-- The waits that the census sums, over n ticks (R319). -/
def State.sumWaits (s : State) (n : Nat) : State :=
  { s with parts := s.parts.map (fun e => (e.1, { e.2 with
      queueWait := e.2.queueWait + n * (e.2.window.filter Task.waits).length
      storeWait := e.2.storeWait + n * s.stalledThreads e.1 })) }

/-- Of n ticks, those after which something happens first. -/
def State.clip (s : State) (n : Nat) : Nat := s.dueTicks.foldl (fun n t => Nat.min n (t - s.now)) n

/-- GTIME runs on, at most to the next tick at which something happens (R1, R319). -/
def State.advance (s : State) (n : Nat) : State := { s.sumWaits (s.clip n) with gtime := s.gtime + w64 (s.clip n) }

/-- Whether a step of levelling of a tile is due before its cycle goes on: the sampling at every 4,096th cycle, the arrival of a move within
64 cycles (R32). -/
def Core.levelDue (k : Core) : Bool :=
  k.tstate == .bound && (decide (k.lvlNext ≤ k.cycle) || (!k.wlSent.isEmpty && decide (k.lvlNext ≤ k.cycle + 4032)))

end Sys2Proof.Machine
end

