-- ==== Sys2Proof/Machine/Wait.lean ====
section
/-!
DEFINITION. When a parked thread's condition holds (R28), taking a pending event (R249), and one issue cycle of a core up to the
instruction it issues (R27, R51).
-/

namespace Sys2Proof.Machine

/-- Whether a barrier generation is over for those who arrived in it: complete or aborted (R89, R90). -/
def Barrier.over (b : Barrier) (gen : Nat) : Bool := decide (gen < b.gen) || b.aborted.isSome

/-- The barrier of a kind that a core's contexts meet at. -/
def State.barrierOf (s : State) (c : Nat) : BarKind → Barrier
  | .tile => (s.core c).bar
  | .gang => (s.taskOf c).elim (s.core c).bar (fun t => t.gbar)

/-- Whether a closed batch has completed (R206). -/
def Core.batchDone (k : Core) (n : Nat) : Bool := !k.closed.any (fun b => b.num = n)

/-- Whether a message goes through a deckle window of a partition (R358). -/
def Part.through (p : Part) (w : Nat) (m : Msg) : Bool :=
  (m.kind.atSlice || (match m.kind with
    | .cacheStore _ => true
    | .cacheRead _ _ _ => true
    | .cacheUpdate _ => true
    | .cacheAtomic _ _ _ => true
    | _ => false)) &&
  { windowOf (tget 0 p.deckle w) with valid := true }.holds m.addr

/-- Whether the condition a thread parks on holds (R28). -/
def State.waitOk (s : State) (c x : Nat) : Wait → Bool
  | .mods cs => { s with cur := (c, x) }.modsOk cs
  | .stores wide mark => s.storesDone c x wide mark
  | .writes mark => s.writesDone c x mark
  | .remote => (s.ctx c x).rfcount == 0
  | .reply id => ((s.ctx c x).replyOf id).isSome
  | .gone ids => s.gone ids
  | .line d l => ((s.core d).lineAt l false).isSome
  | .batch n => (s.core c).batchDone n
  | .barrier k gen => (s.barrierOf c k).over gen
  | .ended y => ((s.core c).ctx y).state == .ended
  | .others => (List.range 16).all (fun y => y == x || ((s.core c).ctx y).state == .free || ((s.core c).ctx y).state == .ended)
  | .fifo => decide ((s.core c).fifo.length < 8)
  | .split => (s.core c).splitChange.isNone
  | .ckpt n => decide (n ≤ fld (s.part (s.partOf c x)).ckptctl 63 32)
  | .lookup r => !((s.part (s.partOf c x)).role r).any (fun e => e.stalled)
  | .deckle p w => s.inFlight.all (fun m => m.part != p || !(s.part p).through w m)
  | .delivered mark => s.deliveredAll mark
  | .served => false
  | .acks gs => gs.all (fun g => !(s.slice g.1).filter.any (fun e => e.1 = g.2))

/-- Takes the pending event that comes first, before the instruction not yet issued (R249). -/
def State.takeEvent (s : State) (c x : Nat) : State :=
  let t := s.ctx c x
  match pickEvent t.events 0 none 0 with
  | none => s
  | some k =>
    match t.events[k]? with
    | none => s
    | some e =>
      let s := s.modCtx c x (fun t => { t with
        events := dropAt t.events k
        xferid := (e.xfer.map (·.1)).getD t.xferid
        xferstat := (e.xfer.map (·.2)).getD t.xferstat
        dbgctl := if e.code = Cause.debugHalt then clearBit t.dbgctl 1 else t.dbgctl })
      s.raise c x e.code e.tval e.tstat (s.following c x t.pc) e.entry

/-- Whether a context takes an event before its next instruction: running, not parked, at level 0, one pending (R28, R249). -/
def Ctx.eventDue (t : Ctx) : Bool := t.state == .running && t.park.isNone && t.level == .l0 && !t.events.isEmpty

/-- What the issue port of a core finds in its cycle. -/
inductive Slot where
  /-- nothing issues: the state after, the cycle used -/
  | idle (s : State)
  /-- an event is taken: the state after, the cycle not used -/
  | entry (s : State)
  /-- this instruction issues in this state -/
  | issue (i : Instr) (s : State)
  deriving Repr

/-- Whether what fell out at a task's switch has not reached its tiles again (R330). -/
def State.reinjecting (s : State) (t : Task) : Bool := t.flits.any (fun f => s.net.any (fun m => m.id == f.id && m.core == f.core))

/-- Whether a core issues nothing: its task's switch tick has come (R328) or its flits are being re-injected (R330), or its partition is stopped
or being captured (R363, R374, R377, R380). -/
def State.frozen (s : State) (c : Nat) : Bool :=
  !isAtelier c && ((s.part (s.tilePart c)).stopped || (s.part (s.tilePart c)).capture.isSome ||
    (s.taskOf c).any (fun t => t.switchAt.any (fun n => decide (n ≤ s.gtime.toNat)) || s.reinjecting t))

/-- The address in the resident firmware to which a module returns: a free value, a multiple of 4 (R346; DESIGN CHOICE, log 30). -/
def fwReturn : Word := w64 (4 * ((Config.freeBits 0 999).toNat % 2 ^ 55))

/-- Whether context x of an Atelier core has returned from a module (R346). -/
def State.moduleBack (s : State) (c x : Nat) : Bool := isAtelier c && x == 0 && s.modstat == 1 && (s.ctx c x).pc == fwReturn

/-- The module has returned: MODSTAT reads 2, and the context is the firmware's again (R346, R386). -/
def State.endModule (s : State) (c x : Nat) : State := { s.modCtx c x (fun t => { t with state := .free }) with modstat := 2 }

/-- The instruction that a context issues again without checks 1 to 11: one at the present level that raised TB_MISS_COPY, where the handler
has returned to it (R233). -/
def Ctx.again (t : Ctx) : Option (Option Instr) :=
  (t.retry.find? (fun e => e.1 = t.level)).map (fun e => if e.2.1 = t.pc then some e.2.2 else none)

/-- The instruction that a context issues anew: the fetch and the decoding (R27, R39, R51). -/
def State.slotFetch (s : State) (c x : Nat) : Slot :=
  match s.fetch c x s.me.pc with
  | .wait s => .idle s
  | .trap e s => .idle (s.raise c x e.code e.tval e.tstat s.me.pc)
  | .bytes bs poison s =>
    if poison then .idle (s.raise c x Cause.poisonLoad s.me.pc 0 s.me.pc)
    else match decodeChecked bs s.me.pc (s.isSup c x) (isAtelier c) with
      | .error e => .idle (s.raise c x e.code e.tval e.tstat s.me.pc)
      | .ok (i, _) => .issue i s

/-- The slot of a core's cycle: writes to shared registers land, then the context whose turn it is bubbles, takes an event, issues
again from check 12, or fetches and decodes (R27, R28, R30, R51, R233). A thread parked on a shared register whose plain write lands in the cycle
of the thread's own slot wakes in that cycle, in which an instruction sees the new bit (DESIGN CHOICE, log 83). -/
def State.slot (s : State) (c : Nat) : Slot :=
  let s := s.modCore c Core.land
  let x := (s.core c).cycle % 16
  let s := { s with cur := (c, x) }
  let t := s.me
  if t.state != .running || s.frozen c then .idle s
  else if s.moduleBack c x then .idle (s.endModule c x)
  else match t.park with
  | some p => if p.awake || s.waitOk c x p.w then .issue p.i s else .idle s
  | none =>
    if t.eventDue then .entry (s.takeEvent c x)
    else match t.again with
    | none => s.slotFetch c x
    | some i? =>
      let s := s.modMe (fun t => { t with retry := t.retry.filter (fun e => decide (e.1 ≠ t.level)) })
      i?.elim (s.slotFetch c x) (fun i => .issue i s)

/-- The core's cycle ends. -/
def State.tick (s : State) (c : Nat) : State := s.modCore c (fun k => { k with cycle := k.cycle + 1 })

/-- The end of the cycle in which an instruction issued; a pad word uses no slot (R37). -/
def endSlot (c : Nat) (i : Instr) : Outcome → Outcome
  | .next s => .next (if i = .padWord then s else s.tick c)
  | .fault r => .fault r
  | .refused r => .refused r

/-- The turn that is taken next, and the state without it: the head of the agenda, or a free value (DESIGN CHOICE, log 1). -/
def State.nextTurn (s : State) : Turn × State :=
  match s.agenda with
  | t :: ts => (t, { s with agenda := ts })
  | [] => (Config.freeTurn s.freeCtr, s.freeNext)

/-! ### Placing an instruction where the next step fetches it -/

/-- The layout of the placement: partition 0 with band 0 and half-stack 0, a window of 1 GiB at partition-physical 0. -/
def Part.forFetch (p : Part) : Part :=
  { p with present := true, bands := p.bands ||| 1, halves := p.halves ||| 1, deckle := tput p.deckle 0 0x8000000000000000 }

/-- The context of the placement: running at virtual 0, nothing pending; in the supervisor's handler for an opcode that issues there
only (R54). -/
def Ctx.forFetch (t : Ctx) (priv : Bool) : Ctx :=
  { t with state := .running, pc := 0, park := none, phase := .none, events := [], level := if priv then .l2 else t.level }

/-- The bytes of an instruction placed at virtual address 0 of tile 0, which issues next. -/
def State.placeFirst (s : State) (bs : List Byte) : State :=
  let x := (s.core 0).cycle % 16
  let w := leNat (bs.take 4)
  let s := (s.modPart 0 Part.forFetch).modCore 0 (fun k =>
    ({ k with tstate := .bound, fbuf := [], tbHist := [], tb := [⟨0, 0x7, false⟩] }).setCtx x ((k.ctx x).forFetch (privilegedOp (nfld w 11 2))))
  let s := { s with agenda := .issue 0 :: s.agenda }
  let s := (s.modSlice (s.homeSlice ⟨0, 0⟩ 0) (fun l => l.freeTag 0)).modStack 0 (fun k => { k with mem := k.mem.writeN 0 bs })
  s

end Sys2Proof.Machine
end

