-- ==== Sys2Proof/Machine/Deliver.lean ====
section
/-!
DEFINITION. The steps that carry memory requests to their places: tile-space arrivals, gang-cache homes, slices, stacks, die views; and the
wake of a parked thread and the entry of an event (R28, R102, R105, R118, R190, R249, R297, R298, R350, R352, R365, R366, R378).
-/

namespace Sys2Proof.Machine

/-- The message at a place of the net, and the state without it. -/
def State.takeMsg (s : State) (k : Nat) : Option (Msg × State) := (s.net[k]?).map (fun m => (m, { s with net := dropAt s.net k }))

/-- A step that has nothing to do yet leaves the state as it is. -/
def orStay (s : State) (t : Option State) : Outcome := .next (t.getD s)

/-! ### Tile stores of other tiles (R118, R190) -/

/-- The tile whose store a message addresses. -/
def MKind.store? : MKind → Option Nat
  | .tileStore h _ _ => some h
  | .farStore h _ _ => some h
  | .farProbe h _ => some h
  | .tileRead h => some h
  | .tileAtomic h _ => some h
  | .probe h _ => some h
  | _ => none

/-- Whether two messages name a common byte. -/
def Msg.overlaps (a b : Msg) : Bool := a.bytes.any (fun x => b.bytes.any (fun y => x.1 = y.1))

/-- Whether an earlier access of the same thread to the same bytes of a tile store is still on its way (R296). -/
def State.tileFirst (s : State) (m : Msg) : Bool :=
  s.net.any (fun e => decide (e.id < m.id) && e.core == m.core && e.ctx == m.ctx && e.kind.store? == m.kind.store? && e.overlaps m)

/-- The role whose bytes a storage tile holds. -/
def Core.roleNum (k : Core) : Option Nat :=
  match k.tstate with
  | .storage r => some r
  | _ => none

/-- The role-space address of an offset. -/
def roleAddr (r off : Nat) : Word := w64 (0xD * 2 ^ 60 + r * 2 ^ 21 + off)

/-- Logs the pieces of a storage role that a write is about to change (R378). None: a segment is full. -/
def State.logRole (s : State) (h : Nat) (cells : List Host.Cell) : Option State :=
  match (s.core h).roleNum with
  | none => some s
  | some r =>
    (dedup (cells.map (fun c => c.1 / 64))).foldl (fun s? pc => s?.bind (fun s =>
      let p := s.part (s.tilePart h)
      let a := roleAddr r (64 * pc)
      if p.logRoom a 0 then
        some (s.modPart (s.tilePart h) (fun q => q.logOld a 0 0 (64 * pc) (some r) ((s.core h).store.readN (64 * pc) 64)
          ((s.core h).storePoison.contains pc)))
      else none)) (some s)

/-- A partition asks for an immediate checkpoint (R378). -/
def State.wantCkpt (s : State) (part : Nat) : State := s.modPart part (fun p => { p with ckptWanted := true })

/-- Whether a segment of the undo log is full: the writes that need room wait for the capture (R378). -/
def Part.logTight (p : Part) : Bool :=
  (List.range (popcount p.halves.toNat 16)).any (fun k => decide (p.segLen ≤ (p.undo.filter (fun u => u.seg = k)).length))

/-- A write that waits, where a segment of the undo log is full, asks for an immediate checkpoint (R378). -/
def State.wantTight (s : State) (part : Nat) : State := if (s.part part).logTight then s.wantCkpt part else s

/-- A step that writes memory, or waits to (R378). -/
def orWant (s : State) (part : Nat) (t : Option State) : Outcome := .next (t.getD (s.wantTight part))

/-- A write that its segment of the undo log has no room for asks for a checkpoint (R378). -/
def State.wantRoom (s : State) (part pa : Nat) : State :=
  match (s.part part).place pa with
  | none => s
  | some p => if (s.part part).logRoom (w64 (alignDown pa 64)) p.half then s else s.wantCkpt part

/-- Writes cells into a tile's store, logging them where it carries a role; `clr` as in `MKind.tileStore`, `id` as in `Core.storeWrite`. -/
def State.tileWrite (s : State) (h : Nat) (cells : List Host.Cell) (clr : Bool) (id : Option Nat := none) : Option State :=
  (s.logRole h cells).map (fun s => s.modCore h (fun k => if clr then k.storeWhole cells id else k.storeWrite cells id))

/-- What a request does at the tile whose store it addresses; none where it must wait. -/
def State.atTile (s : State) (m : Msg) : Option State :=
  let off := m.addr
  match m.kind with
  | .tileStore h ack clr =>
    (s.tileWrite h m.bytes clr (some m.id)).map (fun s => if ack then s.answer m.core m.ctx ⟨m.id, [], false, 0, 0⟩ else s)
  | .farStore h planes clr =>
    match (s.core h).refusal planes with
    | some (a, pos) => some (s.answer m.core m.ctx ⟨m.id, toBytes 8 a.toNat, false, Cause.opbufInUse, pos⟩)
    | none => (s.tileWrite h m.bytes clr).map (fun s => s.answer m.core m.ctx ⟨m.id, [], false, 0, 0⟩)
  | .farProbe h planes =>
    match (s.core h).refusal planes with
    | some (a, pos) => some (s.answer m.core m.ctx ⟨m.id, toBytes 8 a.toNat, false, Cause.opbufInUse, pos⟩)
    | none => some (s.answer m.core m.ctx ⟨m.id, [], false, 0, 0⟩)
  | .probe h rs =>
    let met := (s.core h).latestMet rs
    some (s.answer m.core m.ctx ⟨m.id, [], false, if met.isSome then Cause.opbufInUse else 0, met.getD 0⟩)
  | .tileRead h =>
    let n := m.bytes.length
    some ((s.answer m.core m.ctx ⟨m.id, s.threadSees h m.core off n, (s.core h).poisoned off n, 0, 0⟩).threadRead h m.core off n)
  | .tileAtomic h op =>
    match (s.core h).latestMet [(off, atomBytes op)] with
    | some pos => some (s.answer m.core m.ctx ⟨m.id, [], false, Cause.opbufInUse, pos⟩)
    | none =>
      let n := atomBytes op
      let old := (s.core h).seen s.freeCtr off n
      let s := s.readStep h off n
      if (s.core h).poisoned off n then some (s.answer m.core m.ctx ⟨m.id, old, true, 0, 0⟩)
      else (s.tileWrite h (atomCells op off old) false).map (fun s => s.answer m.core m.ctx ⟨m.id, old, false, 0, 0⟩)
  | _ => none

/-- A store that waited for a change of its role goes to where the role is now; bytes of a role that is gone are discarded (R311, R326). -/
def State.roleStoreOn (s : State) (m : Msg) (r : Nat) (clr : Bool) : State :=
  match (s.part m.part).role r with
  | none => s
  | some e => match e.tile, e.backing with
    | some t, _ => { s with net := s.net ++ [{ m with kind := .tileStore t false clr }] }
    | none, some b =>
      let n := s.memMsg m.core m.ctx m.entry (.unit false false false) m.part (b + m.addr) (m.bytes.map (fun c => (c.1 + b, c.2)))
      { s with net := s.net ++ [{ n with id := m.id }] }
    | none, none => s

/-- A store waiting for a role: it goes on when the role's change is over and no earlier store of its thread to the role waits. -/
def State.roleStoreStep (s t : State) (m : Msg) (r : Nat) (clr : Bool) : State :=
  if ((s.part m.part).role r).any (fun e => e.stalled) ||
    s.net.any (fun e => decide (e.id < m.id) && e.core == m.core && e.ctx == m.ctx && (match e.kind with
      | .roleStore q _ => q == r
      | _ => false)) then s
  else t.roleStoreOn m r clr

/-- Whether a store that has passed its check at a gang tile meets the operands of a step queued there since: it waits for the step (R190, R193;
DEDUCED, log 43). -/
def State.behindStep (s : State) (m : Msg) : Bool :=
  match m.kind with
  | .tileStore h true _ => ((s.core h).latestMet (m.bytes.map (fun b => (b.1, 1)))).isSome
  | _ => false

/-- TILE_SPACE_ARRIVAL (R118, R190, R311). -/
def execTileSpaceArrival (k : Nat) (s : State) : Outcome :=
  match s.takeMsg k with
  | none => .next s
  | some (m, t) =>
    match m.kind with
    | .roleStore r clr => .next (s.roleStoreStep t m r clr)
    | _ =>
    if m.kind.store?.isNone || s.tileFirst m || s.behindStep m || m.bytes.any (fun b => s.bankWait (m.kind.store?.getD 0) b.1 1) then .next s
    else match t.atTile m with
      | some t => .next t
      | none => .next (s.wantCkpt (s.tilePart (m.kind.store?.getD 0)))

/-! ### Gang-cache homes (R102, R104, R108, R118) -/

/-- Whether an earlier access of the same thread to the line is still on its way. -/
def State.lineFirst (s : State) (m : Msg) : Bool :=
  s.net.any (fun e => decide (e.id < m.id) && e.core == m.core && e.ctx == m.ctx && e.kind.cache?.isSome && e.addr / 64 == m.addr / 64)

/-- What a request does to a line that its home portion holds. No local copy is made while a store of the reading tile travels to the
line: the copy would lack it. -/
def State.onLine (s : State) (m : Msg) (l : Line) : State :=
  match m.kind with
  | .cacheStore h => s.cacheApply m h
  | .cacheUpdate h => s.through m h
  | .cacheRead _ n loc =>
    let late := s.net.any (fun e => e.core == m.core && e.addr / 64 == l.line && e.kind.toLine)
    let s := if loc && !late then s.install m.core { l with dirty := false, loc := true } else s
    s.answer m.core m.ctx ⟨m.id, Machine.slice l.data (m.addr % 64) n, l.poison, 0, 0⟩
  | .cacheAtomic h op through =>
    let old := Machine.slice l.data (m.addr % 64) (atomBytes op)
    if l.poison then s.answer m.core m.ctx ⟨m.id, old, true, 0, 0⟩
    else
      let cells := atomCells op m.addr old
      let s := s.answer m.core m.ctx ⟨m.id, old, false, 0, 0⟩
      let s := if through then s.send (s.memMsg m.core m.ctx s.msgCtr (.unit false true false) m.part m.addr cells) else s
      s.updateLine h l.line false cells (!through)
  | _ => s

/-- GANG_CACHE_HOME_APPLY: on a line the portion lacks, the line is sent for and the request stays; a write-through's update allocates
nothing (R104, R118). -/
def execGangCacheHomeApply (k : Nat) (s : State) : Outcome :=
  match s.takeMsg k with
  | none => .next s
  | some (m, t) =>
    match m.kind.cache? with
    | none => .next s
    | some h =>
      if s.lineFirst m then .next s
      else match (s.core h).lineAt (m.addr / 64) false with
        | some l => .next (t.onLine m l)
        | none =>
          if s.fetching h (m.addr / 64) then .next s
          else if m.kind == .cacheUpdate h then .next (t.through m h)
          else .next (s.send (s.memMsg h noCtx s.msgCtr (.fetch h false) m.part (m.addr / 64 * 64) []))

/-! ### Slices (R103, R105, R349, R350, R352, R364 to R366) -/

/-- The place a message names. -/
def Msg.place (m : Msg) : SPlace := ⟨m.stack, m.sbyte⟩

/-- The effect of a request whose piece is present, or which needs no read: the unit applied, the data returned, the atomic executed.
None: it must wait. -/
def State.perform (s : State) (m : Msg) : Option State :=
  let n := m.slice
  let cur := s.current n m.place
  match m.kind with
  | .unit _ _ pz => s.applyUnit n m.part m.addr m.place m.bytes pz false (some { m with bytes := [] })
  | .read k => some ((s.touch n m.sbyte).respond m (Machine.slice cur.1 (m.addr % 64) k) cur.2 cur.1 cur.2)
  | .fetch _ _ => some ((s.touch n m.sbyte).respond m [] cur.2 cur.1 cur.2)
  | .atomic op =>
    let old := Machine.slice cur.1 (m.addr % 64) (atomBytes op)
    if cur.2 then some ((s.touch n m.sbyte).respond m old true cur.1 true)
    else
      let cells := atomCells op m.addr old
      (s.applyUnit n m.part m.addr m.place cells false false (some { m with bytes := [] })).map (fun s =>
        s.respond m old false (overlay (alignDown m.addr 64) cur.1 cells) false)
  | _ => none

/-- Whether a message is an atomic that must let another one go first at a slice: an earlier one of its bank, PA[7:6], waits in an MSHR (R365). -/
def Msg.behindBank (m : Msg) (mshrs : List Msg) : Bool :=
  m.kind.isAtomic && mshrs.any (fun e => e.kind.isAtomic && nfld e.addr 7 6 == nfld m.addr 7 6)

/-- A request at a slice that homes it and holds nothing back: a hit, an MSHR, a bypass, or a wait. A store of a whole piece reads nothing; an atomic
waits in an MSHR also behind an earlier one of its bank (R365, R366). -/
def State.serveHere (s : State) (m : Msg) : Option State :=
  let n := m.slice
  let whole := match m.kind with
    | .unit _ _ _ => wholePiece (alignDown m.addr 64) m.bytes
    | _ => false
  if ((s.onSlice n m.sbyte).isSome || whole) && !m.behindBank (s.slice n).mshrs then s.perform m
  else if (s.onSlice n m.sbyte).isNone && s.moveHold m.place m.addr then none
  else if (s.slice n).mshrs.length < 64 then some (s.modSlice n (fun l => { l with mshrs := l.mshrs ++ [m] }))
  else if m.kind.writes || (s.slice n).filter.any (fun e => e.1 = granOf m.sbyte) then none
  else (s.perform m).map (fun s => s.modSlice n Slice.countBypass)

/-- Counts a replay, saturating at 2^32 − 1 (R348). -/
def Slice.countReplay (l : Slice) : Slice := { l with replay := Nat.min (l.replay + 1) (2 ^ 32 - 1) }

/-- A request at the slice it was sent to: replayed, with the number it was issued with, where that is no longer its home (R103, R350, R352). -/
def State.serve (s : State) (m : Msg) : Option State :=
  let h := s.homeSlice m.place m.addr
  if h = m.slice then s.serveHere m
  else some ({ s with net := s.net ++ [{ m with slice := h }] }.modSlice m.slice Slice.countReplay)

/-- The segment that a write needs room in, and its partition, where the log has none (R378). -/
def State.logFull (s : State) (m : Msg) : Bool :=
  m.kind.writes && !s.canLog m.part m.addr m.place

/-- Serves the requests of a queue in order; from the first that cannot be served on they stay queued (R350). -/
def State.serveAll (s : State) (n : Nat) : List Msg → State
  | [] => s
  | m :: ms => match s.serve m with
    | some t => State.serveAll t n ms
    | none => (if s.logFull m then s.wantCkpt m.part else s).modSlice n (fun l => { l with queue := m :: ms })

/-- What a slice still has queued from a hold that is over is served, as far as it can be. -/
def State.drainQueue (s : State) (n : Nat) : State :=
  if (s.slice n).hold || (s.slice n).queue.isEmpty then s
  else (s.modSlice n (fun l => { l with queue := [] })).serveAll n (s.slice n).queue

/-- A request that reaches a slice: queued under hold, or behind what is still queued, otherwise served (R350). -/
def State.reach (s : State) (m : Msg) : Option State :=
  let s := s.drainQueue m.slice
  if (s.slice m.slice).hold || !(s.slice m.slice).queue.isEmpty then
    (if (s.slice m.slice).queue.length < 64 then some (s.modSlice m.slice (fun l => { l with queue := l.queue ++ [m] })) else none)
  else s.serve m

/-- A step of a slice on a message of one kind. -/
def State.sliceStep (s : State) (k : Nat) (want : MKind → Bool) : Outcome :=
  match s.takeMsg k with
  | none => .next s
  | some (m, t) =>
    if !want m.kind || !s.canArrive m then .next s
    else match t.reach m with
      | some t => .next t
      | none => .next (if s.logFull m then s.wantCkpt m.part else s)

/-- SLICE_WRITE_APPLY (R105). -/
def execSliceWriteApply (k : Nat) (s : State) : Outcome :=
  s.sliceStep k (fun kd => match kd with
    | .unit _ _ _ => true
    | _ => false)

/-- SLICE_ATOMIC (R365). -/
def execSliceAtomic (k : Nat) (s : State) : Outcome :=
  s.sliceStep k (fun kd => match kd with
    | .atomic _ => true
    | _ => false)

/-- Whether a unit of a requester to its piece has not been delivered to the requester's die (R296). -/
def State.ownUndelivered (s : State) (m : Msg) : Bool :=
  (s.undelivered (dieOf m.core)).any (fun e => e.samePiece m &&
    ((e.core == m.core && e.ctx == m.ctx) || (m.kind.forCache && (s.cacheCores m.core).contains e.core)))

/-- SLICE_READ: a read from a die that does not own the stack is answered by the die's view where that holds the piece; any other is
served at the home slice, a prefetch and a read of a system area always (R124, R297, R347, R359, R366). -/
def execSliceRead (k : Nat) (s : State) : Outcome :=
  match s.takeMsg k with
  | none => .next s
  | some (m, t) =>
    let d := dieOf m.core
    let isRead := match m.kind with
      | .read _ => true
      | .fetch _ _ => true
      | _ => false
    if !isRead || s.ownUndelivered m then .next s
    else match (if s.ownerDie m.stack = d || (sysByte m.sbyte).isSome || m.ctx = noCtx && m.kind == .read 0 || s.inFlight.any (fun e => s.mustFollow m e) then none else (s.die d).viewOf m.stack (m.sbyte / 64)) with
      | some v => .next (t.deliver m (match m.kind with
          | .read n => Machine.slice v.data (m.addr % 64) n
          | _ => []) v.poison v.data)
      | none => s.sliceStep k (fun kd => match kd with
          | .read _ => true
          | .fetch _ _ => true
          | _ => false)

/-- STACK_READ_RETURN: the data of a missed piece comes back, the piece is present and clean, and the request has its effect (R349, R366).
The first request of a piece goes first, and the first atomic of a bank (R365). -/
def execStackReadReturn (n k : Nat) (s : State) : Outcome :=
  match ((s.slice n).mshrs)[k]? with
  | none => .next s
  | some m =>
    if ((s.slice n).mshrs.take k).any (fun e => e.samePiece m) || m.behindBank ((s.slice n).mshrs.take k) then .next s
    else
      let t := s.modSlice n (fun l => { l with mshrs := dropAt l.mshrs k })
      if s.homeSlice m.place m.addr ≠ n then orStay s (t.serve m)
      else if (s.onSlice n m.sbyte).isNone && s.moveHold m.place m.addr then .next s
      else match (t.allocClean n m.addr m.place).bind (fun t => t.perform m) with
        | some t => .next t
        | none => .next (if s.logFull m then s.wantCkpt m.part else s)

/-- STACK_WRITE_ACK: a filter entry clears, and what was queued at the slice goes on (R350, R366). -/
def execStackWriteAck (n k : Nat) (s : State) : Outcome :=
  .next ((s.modSlice n (fun l => { l with filter := dropAt l.filter k })).drainQueue n)

/-- DIE_VIEW_DELIVERY (R297, R298). -/
def execDieViewDelivery (d k : Nat) (s : State) : Outcome := .next (if s.deliverable d k then s.deliverAt d k else s)

/-! ### Parked threads and events (R28, R249) -/

/-- PARKED_THREAD_WAKE (R28). A reply of another place comes at any time (DEDUCED, log 53). -/
def execParkedThreadWake (c x : Nat) (s : State) : Outcome :=
  match (s.ctx c x).park with
  | none => .next s
  | some p => if s.waitOk c x p.w || p.w == .served then .next (s.modCtx c x (fun t => { t with park := some { p with awake := true } })) else .next s

/-- EVENT_ENTRY (R249). -/
def execEventEntry (c x : Nat) (s : State) : Outcome := .next (if (s.ctx c x).eventDue then s.takeEvent c x else s)

end Sys2Proof.Machine
end

