-- ==== Sys2Proof/Machine/Memory.lean ====
section
/-!
DEFINITION. Loads, stores, cache-range instructions, atomics and fences: rows 4 and 5 (R114 to R133).
-/

namespace Sys2Proof.Machine

/-! ### Values and widths (R119, R121, R122) -/

/-- Bytes of a load width. -/
def memBytes : MemW → Nat
  | .b => 1
  | .bn => 1
  | .h => 2
  | .hn => 2
  | .w => 4
  | .wn => 4
  | .d => 8

/-- The extension of a load. -/
def extend (w : MemW) (v : Nat) : Word :=
  match w with
  | .b => sextW 8 v
  | .h => sextW 16 v
  | .w => sextW 32 v
  | _ => w64 v

/-- Bytes of a store width. -/
def stBytes : StW → Nat
  | .b => 1
  | .h => 2
  | .w => 4
  | .d => 8

/-- The value of the k-th answer. -/
def valAt (rs : List Reply) (k : Nat) : Nat := ofBytes ((rs[k]?).elim [] (fun r => r.data))

/-- The count address K (R122). -/
def State.countAddr (s : State) (m : MemOp) (c : GReg) (w : Nat) : Word := s.g c + BitVec.ofInt 64 ((s.off m.off).toInt / w)

/-- The one unit of a naturally aligned access. -/
def unitAt (k : AccKind) (ea : Word) (n : Nat) : AUnit := ⟨k, ea, n, n⟩

/-- The unit of a count byte, which needs no alignment (R122). -/
def countUnit (k : AccKind) (ea : Word) : AUnit := ⟨k, ea, 1, 1⟩

/-! ### Row 4 -/

/-- LD (R119, R120). -/
def execLd (g : Guard) (d : GReg) (m : MemOp) (w : MemW) (ty : ReqType) (sc : Scope) (k : FenceKind) (s : State) : Outcome :=
  s.run (.ld g d m w ty sc k) 12 g (.dst d :: opndsM m) (fun s =>
    let fin (s : State) (rs : List Reply) : Res := .done (s.putG d (extend w (valAt rs 0)))
    match k with
    | .acq => s.loadAcq (s.ea m) (memBytes w) sc fin
    | _ => s.load [unitAt .load (s.ea m) (memBytes w)] ty fin)

/-- ST (R119, R120). -/
def execSt (g : Guard) (d : GReg) (m : MemOp) (w : StW) (ty : ReqType) (sc : Scope) (k : FenceKind) (s : State) : Outcome :=
  s.run (.st g d m w ty sc k) 12 g (.src d :: opndsM m) (fun s =>
    let bs := toBytes (stBytes w) (s.g d).toNat
    match k with
    | .rel => s.storeRel (s.ea m) bs sc .done
    | _ => s.store [(some (s.ea m), [unitAt .store (s.ea m) (stBytes w)], [bs])] ty false .done)

/-- LDF (R121). -/
def execLdf (g : Guard) (d : FReg) (m : MemOp) (f : Fmt) (ty : ReqType) (s : State) : Outcome :=
  s.run (.ldf g d m f ty) 12 g (.dstF d :: opndsM m) (fun s =>
    s.load [unitAt .load (s.ea m) f.bytes] ty (fun s rs => .done (s.putFp d f (valAt rs 0) (loadCount f (valAt rs 0)))))

/-- STF (R121). -/
def execStf (g : Guard) (d : FReg) (m : MemOp) (f : Fmt) (ty : ReqType) (s : State) : Outcome :=
  s.run (.stf g d m f ty) 12 g (.srcF d :: opndsM m) (fun s =>
    s.store [(some (s.ea m), [unitAt .store (s.ea m) f.bytes], [toBytes f.bytes (s.fval d).val.toNat])] ty false .done)

/-- LDFC (R122). -/
def execLdfc (g : Guard) (d : FReg) (m : MemOp) (c : GReg) (f : Fmt) (ty : ReqType) (s : State) : Outcome :=
  s.run (.ldfc g d m c f ty) 12 g (.dstF d :: .src c :: opndsM m) (fun s =>
    s.load [unitAt .load (s.ea m) f.bytes, countUnit .load (s.countAddr m c f.bytes)] ty (fun s rs =>
      let x := valAt rs 0
      .done (s.putFp d f x (Nat.min (valAt rs 1 % 64) (loadCount f x)))))

/-- STFC (R122). -/
def execStfc (g : Guard) (d : FReg) (m : MemOp) (c : GReg) (f : Fmt) (ty : ReqType) (s : State) : Outcome :=
  s.run (.stfc g d m c f ty) 12 g (.srcF d :: .src c :: opndsM m) (fun s =>
    let k := s.countAddr m c f.bytes
    s.store [(some (s.ea m), [unitAt .store (s.ea m) f.bytes], [toBytes f.bytes (s.fval d).val.toNat]),
      (some k, [countUnit .store k], [toBytes 1 (Nat.min (s.fval d).cnt f.p)])] ty false .done)

/-- LDP (R123). -/
def execLdp (g : Guard) (d : GReg) (m : MemOp) (c : GReg) (ty : ReqType) (s : State) : Outcome :=
  s.run (.ldp g d m c ty) 12 g (.dst d :: .dst c :: opndsM m) (fun s =>
    s.load [unitAt .load (s.ea m) 16] ty (fun s rs =>
      .done ((s.putG d (w64 (valAt rs 0))).putG c (w64 (valAt rs 0 / 2 ^ 64)))))

/-- STP (R123). -/
def execStp (g : Guard) (d : GReg) (m : MemOp) (c : GReg) (ty : ReqType) (s : State) : Outcome :=
  s.run (.stp g d m c ty) 12 g (.src d :: .src c :: opndsM m) (fun s =>
    s.store [(some (s.ea m), [unitAt .store (s.ea m) 16], [toBytes 8 (s.g d).toNat ++ toBytes 8 (s.g c).toNat])] ty false .done)

/-! ### PREF (R124) -/

/-- Sends for a line with no thread waiting, unless the place holds it. -/
def State.prefetchLine (s : State) (part pa : Nat) (loc : Bool) : State :=
  let c := s.cur.1
  let line := pa / 64
  let h := s.lineHome c line
  if loc then
    if ((s.core c).lineAt line true).isSome then s
    else s.send (s.tileMsg c noCtx s.msgCtr (.cacheRead h 0 true) part pa [])
  else if ((s.core h).lineAt line false).isSome then s
  else s.send (s.memMsg h noCtx s.msgCtr (.fetch h false) part (line * 64) [])

/-- Brings the granule of an address into its home slice, piece by piece (R124, R364). -/
def State.prefetchHome (s : State) (part pa : Nat) : State :=
  (List.range 32).foldl (fun s i => s.send (s.memMsg s.cur.1 noCtx s.msgCtr (.read 0) part (alignDown pa 2048 + 64 * i) [])) s

/-- The effect of a prefetch after check 1; every later failure ends it silently. -/
def State.prefetch (s : State) (l : Loc) (ty : ReqType) : State :=
  let c := s.cur.1
  match l with
  | .virt va =>
    match s.lookup c va with
    | (none, s) => s
    | (some e, s) =>
      if e.fw || !e.grants .pref (s.isSup c s.cur.2) || ((s.part s.myPart).place (e.pa va)).isNone then s
      else match s.effType c s.myPart (e.pa va) ty with
        | .nc => s.prefetchHome s.myPart (e.pa va)
        | .si => s.prefetchLine s.myPart (e.pa va) true
        | _ => s.prefetchLine s.myPart (e.pa va) false
  | .mem p pa => if ((s.part p).place pa).isNone then s else s.prefetchHome p pa
  | _ => s

/-- PREF (R124). -/
def execPref (g : Guard) (m : MemOp) (ty : ReqType) (s : State) : Outcome :=
  s.run (.pref g m ty) 12 g (opndsM m) (fun s =>
    match s.spaceOf s.cur.1 s.cur.2 .pref (s.ea m) 1 with
    | .error t => .raise s t
    | .ok l => .done (s.prefetch l ty))

/-! ### INVAL and CWB (R125) -/

/-- A part of a range within one page. -/
structure Seg where
  va : Nat
  n : Nat
  e : TbEntry

/-- The pages of a range of n bytes from an address up (check 4); the fuel bounds the entries of a buffer. A range that runs past virtual address
2^57 raises PROT_STORE there, once its lower pages have been looked up (R125; DESIGN CHOICE, log 76). -/
def State.rangePages (s : State) (c va n : Nat) : Nat → Except Trap (List Seg) × State
  | 0 => (.ok [], s)
  | k + 1 =>
    if n = 0 then (.ok [], s)
    else if 2 ^ 57 ≤ va then (.error ⟨Cause.protStore, w64 va, 0⟩, s)
    else match s.lookup c va with
      | (none, s) => (.error ⟨Cause.tbMissStore, w64 va, 0⟩, s)
      | (some e, s) =>
        let here := Nat.min n (e.va + e.size - va)
        match State.rangePages s c (va + here) (n - here) k with
        | (.error t, s) => (.error t, s)
        | (.ok ps, s) => (.ok (⟨va, here, e⟩ :: ps), s)

/-- The first address of a part that no window maps: its start, or the start of a window's 1 GiB within it (R357). -/
def Part.segHole (p : Part) (g : Seg) : Option Nat :=
  if g.e.fw then none
  else
    let pa := g.e.pa g.va
    let cuts := pa :: ((List.range 3).map (fun i => (pa / 2 ^ 30 + i + 1) * 2 ^ 30)).filter (fun b => decide (b < pa + g.n))
    (cuts.find? (fun b => (p.place b).isNone)).map (fun b => g.va + (b - pa))

/-- Checks 5 and 6 of a range. -/
def State.rangeTrap (s : State) (sup : Bool) (ps : List Seg) : Option Trap :=
  orTrap ((ps.find? (fun g => !g.e.grants .range sup)).map (fun g => ⟨Cause.protStore, w64 g.va, 0⟩))
    ((ps.findSome? (fun g => (s.part s.myPart).segHole g)).map (fun a => ⟨Cause.deckleViolation, w64 a, 0⟩))

/-- Whether a range holds a byte of a line. -/
def inRange (ps : List Seg) (line : Nat) : Bool := ps.any (fun g => !g.e.fw && meets (g.e.pa g.va) g.n (64 * line) 64)

/-- The checks of INVAL and CWB, then their effect on the parts of the range. -/
def State.range (s : State) (m : MemOp) (c : GReg) (k : State → List Seg → Res) : Res :=
  if 2 ^ 30 < (s.g c).toNat then .trap Cause.boundCheck (s.g c) 0 s
  else if fld (s.ea m) 63 57 ≠ 0 then .trap Cause.protStore (s.ea m) 0 s
  else match s.rangePages s.cur.1 (s.ea m).toNat (s.g c).toNat 512 with
    | (.error t, s) => .raise s t
    | (.ok ps, s) => match s.rangeTrap (s.isSup s.cur.1 s.cur.2) ps with
      | some t => .raise s t
      | none => k s ps

/-- The own stores that wait for a line of a range. -/
def State.rangeStores (s : State) (ps : List Seg) : List Nat :=
  (s.net.filter (fun m => m.core == s.cur.1 && m.ctx == s.cur.2 && inRange ps (m.addr / 64) && m.kind.toLine)).map (fun m => m.id)

/-- INVAL: the thread's own stores to the lines come first (R296); then every line that meets the range is discarded. -/
def execInval (g : Guard) (m : MemOp) (c : GReg) (s : State) : Outcome :=
  s.run (.inval g m c) 12 g (.src c :: opndsM m) (fun s => s.range m c (fun s ps =>
    if !(s.rangeStores ps).isEmpty then .park (.gone (s.rangeStores ps)) s
    else
      let s := s.discard s.cur.1 (fun l => l.loc && inRange ps l.line)
      .done ((s.cacheCores s.cur.1).foldl (fun s k => s.discard k (fun l => !l.loc && inRange ps l.line)) s)))

/-- The write-backs of the caches a core uses that are on their way to lines of a range. -/
def State.rangeBacks (s : State) (ps : List Seg) : List Nat :=
  (s.inFlight.filter (fun m => m.kind.isWb && (s.cacheCores s.cur.1).contains m.core && inRange ps (m.addr / 64))).map (fun m => m.id)

/-- CWB: the dirty lines of the range are written back; the thread parks until every write-back is applied. -/
def execCwb (g : Guard) (m : MemOp) (c : GReg) (s : State) : Outcome :=
  s.run (.cwb g m c) 12 g (.src c :: opndsM m) (fun s =>
    if s.out then (if s.gone s.me.phase.ids then .done s else .park (.gone s.me.phase.ids) s)
    else s.range m c (fun s ps =>
      if !(s.rangeStores ps).isEmpty then .park (.gone (s.rangeStores ps)) s
      else
        let s := (s.cacheCores s.cur.1).foldl (fun s k => s.writeBack k (fun l => inRange ps l.line)) s
        let ids := s.rangeBacks ps
        if ids.isEmpty then .done s else .park (.gone ids) (s.sent 4 ids [])))

/-! ### Row 5 -/

/-- The extension of an atomic's old value (R126). -/
def atExtend (w : AtW) (v : Nat) : Word :=
  match w with
  | .w => sextW 32 v
  | _ => w64 v

/-- AMO (R127). -/
def execAmo (g : Guard) (d : GReg) (m : MemOp) (c : GReg) (w : AtW) (sc : Scope) (k : FenceKind) (op : AmoOp) (s : State) : Outcome :=
  s.run (.amo g d m c w sc k op) 12 g (.dst d :: .src c :: opndsM m) (fun s =>
    s.atom (s.ea m) (.amo op w (s.g c)) sc k (fun s old => .done (s.putG d (atExtend w old))))

/-- AMOCAS (R128). -/
def execAmocas (g : Guard) (d : GReg) (m : MemOp) (c : GReg) (w : AtW) (sc : Scope) (k : FenceKind) (s : State) : Outcome :=
  s.run (.amocas g d m c w sc k) 12 g (.dst d :: .src c :: opndsM m) (fun s =>
    s.atom (s.ea m) (.cas w (s.g d) (s.g c)) sc k (fun s old => .done (s.putG d (atExtend w old))))

/-- AMOF (R129). -/
def execAmof (g : Guard) (d : FReg) (m : MemOp) (c : FReg) (f : AmofFmt) (sc : Scope) (k : FenceKind) (op : AmofOp) (s : State) :
    Outcome :=
  s.run (.amof g d m c f sc k op) 12 g (.dstF d :: .srcF c :: opndsM m) (fun s =>
    let v := (s.fval c).val
    let ff := amofFmt f
    s.atom (s.ea m) (.amof op f v) sc k (fun s old =>
      let s := if collectiveAt (s.ea m) (.amof op f v) then s else s.orFlags (opAmof op ff old (v.toNat % 2 ^ ff.bits)).2
      .done (s.putFp d ff old (loadCount ff old))))

/-- FENCE (R130). -/
def execFence (g : Guard) (sc : Scope) (k : FenceKind) (s : State) : Outcome :=
  s.run (.fence g sc k) 8 g [] (fun s => s.releaseIf k sc (fun s => .done (s.acquireIf k sc)))

/-- FENCESC: `fence.dev.ar`, and delivery of every write that precedes it to every die; the step in which it completes is its place in
the total order (R131). -/
def execFencesc (g : Guard) (s : State) : Outcome :=
  s.run (.fencesc g) 8 g [] (fun s => s.release .dev (fun s =>
    if s.deliveredAll s.me.phase.mark then .done { s.acquire s.cur.1 .dev with fenceSc := s.fenceSc + 1 }
    else .park (.delivered s.me.phase.mark) s))

/-- The refusal record (R132). -/
def Ctx.refusals (t : Ctx) : Word := w64 (t.refCode + Nat.min t.refCount (2 ^ 24 - 1) * 2 ^ 8)

/-- RFENCE (R132). -/
def execRfence (g : Guard) (d : GReg) (s : State) : Outcome :=
  s.run (.rfence g d) 8 g [.dst d] (fun s =>
    if s.me.rfcount ≠ 0 then .park .remote s
    else
      let r := s.me.refusals
      let s := s.modMe (fun t => { t with refCount := 0, refCode := 0 })
      if d.num = 0 ∧ r ≠ 0 then .trap Cause.remoteRefused r 0 s else .done (s.putG d r))

end Sys2Proof.Machine
end

