-- ==== Sys2Proof/Machine/Copy.lean ====
section
/-!
DEFINITION. The copy engine: row 13, and the steps of its transfers (R243, R267 to R269, R272 to R284).
-/

namespace Sys2Proof.Machine

/-! ### The four words (R267, R273, R274) -/

/-- Modes of a transfer. -/
inductive CopyMode where
  | copy | fill | gather | scatter
  deriving DecidableEq, Repr

/-- Mode, completion mode, fill target, parameter block and scatter fields of a control word. -/
def ctlMode (w : Word) : CopyMode := nth .copy [.copy, .fill, .gather, .scatter] (fld w 1 0)
def ctlDone (w : Word) : Nat := fld w 3 2
def ctlReg (w : Word) : Nat := fld w 9 4
def ctlCtx (w : Word) : Nat := fld w 13 10
def ctlTile (w : Word) : Nat := fld w 25 14
def ctlElse (w : Word) : Bool := bit w 26
def ctlCombine (w : Word) : Bool := bit w 28
def ctlOp (w : Word) : Nat := fld w 31 29
def ctlHasBlock (w : Word) : Bool := bit w 32
def ctlBlock (w : Word) : Nat := fld w 47 33 * 64
def ctlId (w : Word) : Nat := fld w 63 48

/-- Whether a mode walks an index list. -/
def CopyMode.indexed : CopyMode → Bool
  | .gather => true
  | .scatter => true
  | _ => false

/-- Rows, bytes of a row, strides of a copy or fill. -/
structure CopyDims where
  rows : Nat
  bytes : Nat
  sstride : Nat
  dstride : Nat
  deriving DecidableEq, Repr

/-- The dimensions that a shape word gives. -/
def shapeDims (w : Word) : CopyDims :=
  if bit w 63 then ⟨fld w 62 51 + 1, fld w 50 34 + 1, fld w 33 17, fld w 16 0⟩ else ⟨1, fld w 31 0, 0, 0⟩

/-- Bytes of a transfer. -/
def CopyDims.total (d : CopyDims) : Nat := d.rows * d.bytes

/-- Element size and count of a gather or scatter. -/
def shapeElem (w : Word) : Nat := nth 4 [4, 8, 64] (fld w 33 32)
def shapeCount (w : Word) : Nat := fld w 31 0

/-- The rows of a side as address and length; none for a transfer of length 0. -/
def rowsAt (base : Word) (d : CopyDims) (stride : Nat) : List (Word × Nat) :=
  if d.bytes = 0 then [] else tabulate d.rows (fun r => (base + w64 (r * stride), d.bytes))

/-- The checked ranges of the source and of the destination (R276). -/
def srcRows (src shape : Word) (m : CopyMode) : List (Word × Nat) :=
  match m with
  | .copy => rowsAt src (shapeDims shape) (shapeDims shape).sstride
  | .scatter => rowsAt src ⟨1, shapeElem shape * shapeCount shape, 0, 0⟩ 0
  | _ => []
def dstRows (dst shape : Word) (m : CopyMode) : List (Word × Nat) :=
  match m with
  | .gather => rowsAt dst ⟨1, shapeElem shape * shapeCount shape, 0, 0⟩ 0
  | .scatter => []
  | _ => rowsAt dst (shapeDims shape) (shapeDims shape).dstride

/-! ### Checks 1 to 7 (R276) -/

/-- A BOUND_CHECK with its TSTAT. -/
def boundTrap (w : Word) (k : Nat) : Option Trap := some ⟨Cause.boundCheck, w, w64 k⟩

/-- Check 1. -/
def ctlBad (ctl shape : Word) : Bool :=
  bit ctl 27 || ctlDone ctl == 3 || decide (5 ≤ ctlOp ctl) ||
    (ctlMode ctl == .scatter && ctlCombine ctl && fld shape 33 32 == 2)

/-- Check 2. -/
def shapeBad (shape : Word) (m : CopyMode) : Bool :=
  match m with
  | .copy => !bit shape 63 && fld shape 62 32 != 0
  | .fill => (!bit shape 63 && fld shape 62 32 != 0) || (shapeDims shape).bytes % 8 != 0
  | _ => fld shape 63 34 != 0 || fld shape 33 32 == 3

/-- Check 3. -/
def alignTrap (src dst shape : Word) (m : CopyMode) : Option Trap :=
  match m with
  | .copy => none
  | .fill => failIf (dst.toNat % 8 != 0) (boundTrap dst 3)
  | _ => orTrap (failIf (src.toNat % shapeElem shape != 0) (boundTrap src 3)) (failIf (dst.toNat % shapeElem shape != 0) (boundTrap dst 3))

/-- Check 4. -/
def State.targetBad (s : State) (ctl : Word) : Bool :=
  if ctlDone ctl = 1 then
    decide (47 < ctlReg ctl) ||
      (if ctlElse ctl then decide (s.myCore.gangSize ≤ ctlTile ctl) || decide (s.threadCount s.cur.1 ≤ ctlCtx ctl) else fld ctl 25 10 != 0)
  else fld ctl 26 4 != 0

/-- A word of the parameter block as the issuing thread would read it (R275; DEDUCED, log 49). -/
def State.blockWord (s : State) (ctl : Word) (off : Nat) : Word := wordOf (s.ownRead s.cur.1 s.cur.2 (ctlBlock ctl + off) 8)

/-- Check 5. -/
def State.blockBad (s : State) (ctl : Word) : Bool :=
  let m := ctlMode ctl
  if m.indexed || ctlDone ctl == 2 then
    !ctlHasBlock ctl || decide (s.scratch s.cur.1 < ctlBlock ctl + 64) ||
      fld (s.blockWord ctl 0) 1 0 != 0 || fld (s.blockWord ctl 0) 63 60 != 0 ||
      (m.indexed && (fld (s.blockWord ctl 8) 1 0 != 0 || fld (s.blockWord ctl 8) 63 60 == 0xC))
  else false

/-- Check 6 on one side: wraps, or leaves the 2 MiB of its tile. -/
def rangeWraps (base : Word) (d : CopyDims) (stride : Nat) : Bool :=
  let last := (d.rows - 1) * stride + d.bytes
  d.bytes != 0 && (decide (2 ^ 64 < base.toNat + last) ||
    ((fld base 63 60 == 0xD || fld base 63 60 == 0xE) && decide (2 ^ 21 < fld base 20 0 + last)))

/-- Check 6. -/
def wrapTrap (src dst shape : Word) (m : CopyMode) : Option Trap :=
  let d := shapeDims shape
  let packed : CopyDims := ⟨1, shapeElem shape * shapeCount shape, 0, 0⟩
  match m with
  | .copy => orTrap (failIf (rangeWraps src d d.sstride) (boundTrap src 6)) (failIf (rangeWraps dst d d.dstride) (boundTrap dst 6))
  | .fill => failIf (rangeWraps dst d d.dstride) (boundTrap dst 6)
  | .gather => failIf (rangeWraps dst packed 0) (boundTrap dst 6)
  | .scatter => failIf (rangeWraps src packed 0) (boundTrap src 6)

/-- Check 7. -/
def overlapBad (src dst shape : Word) (m : CopyMode) : Bool :=
  (srcRows src shape m).any (fun a => (dstRows dst shape m).any (fun b => meets a.1.toNat a.2 b.1.toNat b.2))

/-- Checks 1 to 7. -/
def State.copyWords (s : State) (src dst shape ctl : Word) : Option Trap :=
  let m := ctlMode ctl
  orTrap (failIf (ctlBad ctl shape) (boundTrap ctl 1))
    (orTrap (failIf (shapeBad shape m) (boundTrap shape 2))
      (orTrap (alignTrap src dst shape m)
        (orTrap (failIf (s.targetBad ctl) (boundTrap ctl 4))
          (orTrap (failIf (s.blockBad ctl) (boundTrap ctl 5))
            (orTrap (wrapTrap src dst shape m) (failIf (overlapBad src dst shape m) (boundTrap dst 7)))))))

/-! ### Checks 8 to 11 -/

/-- Check 8 on an address; domain space is refused. -/
def State.copySpace (s : State) (k : AccKind) (a : Word) (n : Nat) : Except Trap Loc :=
  match s.spaceOf s.cur.1 s.cur.2 k a n with
  | .ok (.domain _ _) => .error ⟨k.prot, a, 0⟩
  | r => r

/-- Check 8 on the ranges of a side: both ends of each. -/
def State.sideSpaces (s : State) (k : AccKind) (rs : List (Word × Nat)) : Except Trap (List (Word × Nat × Loc)) :=
  rs.foldr (fun r acc =>
    match s.copySpace k r.1 r.2, s.copySpace k (r.1 + w64 (r.2 - 1)) 1, acc with
    | .error t, _, _ => .error t
    | _, .error t, _ => .error t
    | _, _, .error t => .error t
    | .ok l, .ok _, .ok ls => .ok ((r.1, r.2, l) :: ls)) (.ok [])

/-- The parts of a virtual range by pages, or the first missing address; the fuel bounds the entries of a buffer. -/
def tbWalk (tb : List TbEntry) (va n : Nat) : Nat → Except Nat (List Seg)
  | 0 => .ok []
  | k + 1 =>
    if n = 0 then .ok []
    else match tb.find? (fun e => e.holds va) with
      | none => .error va
      | some e =>
        let here := Nat.min n (e.va + e.size - va)
        match tbWalk tb (va + here) (n - here) k with
        | .error a => .error a
        | .ok ps => .ok (⟨va, here, e⟩ :: ps)

/-- The walks of the virtual ranges of a side. -/
def sideWalks (tb : List TbEntry) (rs : List (Word × Nat × Loc)) : List (Except Nat (List Seg)) :=
  rs.filterMap (fun r => match r.2.2 with
    | .virt va => some (tbWalk tb va r.2.1 512)
    | _ => none)

/-- The missing addresses, and the parts found. -/
def walkMisses (ws : List (Except Nat (List Seg))) : List Nat := ws.filterMap (fun w => match w with
  | .error a => some a
  | .ok _ => none)
def walkSegs (ws : List (Except Nat (List Seg))) : List Seg := ws.flatMap (fun w => match w with
  | .error _ => []
  | .ok ps => ps)

/-- The first address of a partition-physical range that no window maps (R357). -/
def Part.rangeHole (p : Part) (pa n : Nat) : Option Nat :=
  let cuts := pa :: ((List.range 5).map (fun i => (pa / 2 ^ 30 + i + 1) * 2 ^ 30)).filter (fun b => decide (b < pa + n))
  (cuts.find? (fun b => (p.place b).isNone)).map (fun b => b - pa)

/-- Check 11 on a side. -/
def State.sideHole (s : State) (rs : List (Word × Nat × Loc)) (ps : List Seg) : Option Trap :=
  let p := s.part s.myPart
  let a := orTrap ((ps.findSome? p.segHole).map (fun a => ⟨Cause.deckleViolation, w64 a, 0⟩))
    ((rs.findSome? (fun r => match r.2.2 with
      | .mem q pa => ((s.part q).rangeHole pa r.2.1).map (fun o => r.1 + w64 o)
      | _ => none)).map (fun a => ⟨Cause.deckleViolation, a, 0⟩))
  a

/-- The translation buffer that a copy is checked with and holds (R243). -/
def State.copyTb (s : State) : List TbEntry := s.myCore.tbNow s.freeCtr

/-- Checks 8 to 11. -/
def State.copyPlaces (s : State) (src dst shape ctl : Word) : Except Trap (List (Word × Nat × Loc)) :=
  let m := ctlMode ctl
  let sup := s.isSup s.cur.1 s.cur.2
  match s.sideSpaces .load (srcRows src shape m), s.sideSpaces .store (dstRows dst shape m) with
  | .error t, _ => .error t
  | _, .error t => .error t
  | .ok ss, .ok ds =>
    let ws := sideWalks s.copyTb ss
    let wd := sideWalks s.copyTb ds
    match (walkMisses ws ++ walkMisses wd).min? with
    | some a => .error ⟨Cause.tbMissCopy, w64 a, 0⟩
    | none =>
      let perm (k : AccKind) (ps : List Seg) : Option Trap :=
        (ps.find? (fun g => !g.e.grants k sup)).map (fun g => ⟨k.prot, w64 g.va, 0⟩)
      match orTrap (perm .load (walkSegs ws)) (orTrap (perm .store (walkSegs wd))
          (orTrap (s.sideHole ss (walkSegs ws)) (s.sideHole ds (walkSegs wd)))) with
      | some t => .error t
      | none => .ok ds

/-- The entries used become the most recently used ones, and a choice of R261 is made. -/
def State.copyTouch (s : State) (src dst shape ctl : Word) : State :=
  let m := ctlMode ctl
  let es := (srcRows src shape m ++ dstRows dst shape m).flatMap (fun r => match tbWalk s.copyTb r.1.toNat r.2 512 with
    | .ok ps => ps.map (fun g => g.e)
    | .error _ => [])
  let s := s.modMyCore (fun k => { k with tb := es.foldl tbTouch k.tb })
  if s.myCore.tbOpen then { s with freeCtr := s.freeCtr + s.myCore.cycle + 1 } else s

/-! ### Check 12 and the queue (R276, R277) -/

/-- The store ranges of the destination on a tile. -/
def destOn (t : Nat) (ds : List (Word × Nat × Loc)) : List (Nat × Nat) :=
  ds.filterMap (fun r => match r.2.2 with
    | .store u off none => if u = t then some (off, r.2.1) else none
    | _ => none)

/-- The other gang tiles that a destination lies on. -/
def destFar (c : Nat) (ds : List (Word × Nat × Loc)) : List Nat :=
  dedup (ds.filterMap (fun r => match r.2.2 with
    | .store u _ none => if u = c then none else some u
    | _ => none))

/-- The command as it enters the FIFO. -/
def State.copyCmd (s : State) (src dst shape ctl : Word) : CopyCmd where
  ctx := s.cur.2
  src := src
  dst := dst
  shape := shape
  ctl := ctl
  handler := s.blockWord ctl 0
  ilist := s.blockWord ctl 8
  tb := s.copyTb
  sup := s.isSup s.cur.1 s.cur.2
  marks := []
  started := false
  done := 0
  buf := []
  bufBad := []
  elem := none
  lookup := none
  poisonAt := none
  exempt := []
  cancel := false
  status := none

/-- Sends the queries of check 12 to the other gang tiles. -/
def State.sendProbes (s : State) (ds : List (Word × Nat × Loc)) (dst : Word) : State :=
  let r := (destFar s.cur.1 ds).foldl (fun (r : List Nat × State) t =>
    (r.1 ++ [r.2.msgCtr], r.2.sendTile r.2.msgCtr (.probe t (destOn t ds)) 0 [])) ([], s)
  r.2.sent 4 r.1 ((destFar s.cur.1 ds).map (fun _ => dst.toNat))

/-- Notes the issuing instruction as one that issues again from check 12 after the handler (R233). -/
def State.againAt12 (s : State) (i : Instr) : State :=
  s.modMe (fun t => { t with retry := t.retry.filter (fun e => decide (e.1 ≠ t.level)) ++ [(t.level, t.pc, i)] })

/-- The guard that always holds (R50). -/
def guardAlways : Guard := ⟨0, false⟩

/-- COPYQ and COPYQT up to the FIFO: the checks of R276, then what is left to do with the command, which keeps what it was checked with while
it waits for another tile (R277). Where a page is absent, the instruction, as `i` gives it without its guard, issues again from check 12
once the handler has returned (R233). -/
def State.copyIssue (s : State) (i : Instr) (a b c e : GReg) (k : State → CopyCmd → Res) : Res :=
  let src := s.g a
  let dst := s.g b
  let shape := s.g c
  let ctl := s.g e
  match s.me.phase.copy with
  | some q => s.collect (fun s _ => k s q)
  | none => match s.copyWords src dst shape ctl with
    | some t => .raise s t
    | none => match s.copyPlaces src dst shape ctl with
      | .error t => .raise (if t.code = Cause.tbMissCopy then s.againAt12 i else s) t
      | .ok ds => match s.myCore.latestMet (destOn s.cur.1 ds) with
        | some pos => .trap Cause.opbufInUse dst (w64 pos) s
        | none =>
          let q := s.copyCmd src dst shape ctl
          let s := s.copyTouch src dst shape ctl
          if (destFar s.cur.1 ds).isEmpty then k s q
          else ((s.sendProbes ds dst).modMe (fun t => { t with phase := { t.phase with copy := some q } })).collect (fun s _ => k s q)

/-- A command enters the FIFO, held by the writes that the last XFENCE before it has marked (R268). -/
def State.enqueueCopy (s : State) (q : CopyCmd) : State :=
  s.modMyCore (fun k => { k with fifo := k.fifo ++ [{ q with marks := k.xmarks }] })

/-- Whether the FIFO holds 8 commands. -/
def Core.fifoFull (k : Core) : Bool := decide (8 ≤ k.fifo.length)

/-- COPYQ (R276, R277): parks while the FIFO is full, and issues again from its checks. -/
def execCopyq (g : Guard) (a b c e : GReg) (s : State) : Outcome :=
  s.run (.copyq g a b c e) 16 g [.src a, .src b, .src c, .src e] (fun s => s.copyIssue (.copyq guardAlways a b c e) a b c e (fun s q =>
    if s.myCore.fifoFull then .park .fifo (s.modMe (fun t => { t with phase := .none, replies := [] }))
    else .done (s.enqueueCopy q)))

/-- COPYQT (R277). -/
def execCopyqt (g : Guard) (d a b c e : GReg) (s : State) : Outcome :=
  s.run (.copyqt g d a b c e) 16 g [.dst d, .src a, .src b, .src c, .src e] (fun s => s.copyIssue (.copyqt guardAlways d a b c e) a b c e (fun s q =>
    if s.myCore.fifoFull then .done (s.putG d 1)
    else .done ((s.enqueueCopy q).putG d 0)))

/-! ### COPYS, COPYK, XFENCE (R268, R282, R283) -/

/-- Whether A names a transfer. -/
def names (a : Word) (q : CopyCmd) : Bool := bit a 16 || ctlId q.ctl == fld a 15 0

/-- What COPYS writes for a transfer. -/
def CopyCmd.report (q : CopyCmd) : Word := if q.started then w64 (2 + q.done * 2 ^ 8) else 1

/-- COPYS (R282). -/
def execCopys (g : Guard) (d a : GReg) (s : State) : Outcome :=
  s.run (.copys g d a) 8 g [.dst d, .src a] (fun s =>
    if fld (s.g a) 63 17 ≠ 0 then .trap Cause.boundCheck (s.g a) 1 s
    else .done (s.putG d ((s.myCore.fifo.find? (names (s.g a))).elim 0 CopyCmd.report)))

/-- The status word of a code and a position (R280). -/
def copyStatus (code pos : Nat) : Word := w64 (code + pos % 2 ^ 40 * 2 ^ 8)

/-- A transfer that COPYK names: it ends at once where no piece or element is begun, otherwise after that one (R282). -/
def CopyCmd.cancelled (q : CopyCmd) : CopyCmd :=
  if q.buf.isEmpty then { q with status := some (copyStatus 5 q.done) } else { q with cancel := true }

/-- COPYK (R282). -/
def execCopyk (g : Guard) (d a : GReg) (s : State) : Outcome :=
  s.run (.copyk g d a) 8 g [.dst d, .src a] (fun s =>
    if fld (s.g a) 63 17 ≠ 0 then .trap Cause.boundCheck (s.g a) 1 s
    else
      let hit (q : CopyCmd) : Bool := names (s.g a) q && q.status.isNone && !q.cancel
      let n := (s.myCore.fifo.filter hit).length
      .done ((s.modMyCore (fun k => { k with fifo := k.fifo.map (fun q => if hit q then q.cancelled else q) })).putG d (w64 n)))

/-- The context number of the copy engine's writes. -/
def engineCtx : Nat := 17

/-- The writes of a tile that an XFENCE marks besides the dirty lines: those that its threads have issued, and stores that have not reached
their lines; what its copy engine writes is not among them. -/
def State.fenceMarks (s : State) (c : Nat) : List Nat :=
  ((s.unfinished c).filter (fun m => match m.kind with
    | .unit _ _ _ => (m.core == c && m.ctx != engineCtx) || (m.kind.isWb && (s.cacheCores c).contains m.core)
    | .cacheStore _ => m.core == c
    | .cacheUpdate _ => m.core == c
    | _ => false)).map (fun m => m.id)

/-- XFENCE (R268). -/
def execXfence (g : Guard) (s : State) : Outcome :=
  s.run (.xfence g) 8 g [] (fun s =>
    let c := s.cur.1
    let s := (s.cacheCores c).foldl (fun s k => s.writeBack k (fun _ => true)) s
    .done (s.modCore c (fun k => { k with xmarks := s.fenceMarks c })))

/-! ### The engine (R278, R279, R284) -/

/-- Changes the command at the head of the FIFO. -/
def State.modHead (s : State) (c : Nat) (f : CopyCmd → CopyCmd) : State :=
  s.modCore c (fun k => { k with fifo := match k.fifo with
    | [] => []
    | q :: qs => f q :: qs })

/-- Where the engine finds an address: its place, a missing page, a failed check. -/
inductive Reach where
  | at (a : At)
  | stall
  | absent
  | bad

/-- The entry that translates an address for the engine: of the checked ranges one of those held since issue; of an element or an index-list
entry the one in force when the engine reaches it (R243, R279). -/
def State.engineEntry (s : State) (c : Nat) (q : CopyCmd) (va : Nat) (anew : Bool) : Option TbEntry × State :=
  if anew then s.lookup c va else (q.tb.find? (fun e => e.holds va), s)

/-- The place of tile-space bytes for the engine. Bytes of a checked range passed at issue; an element passes under the split code its gang
knows, or, for a transfer that a SPLIT change does not concern, under the one before the change (R99, R100, R284). -/
def State.engineTile (s : State) (c : Nat) (q : CopyCmd) (a : Word) (n : Nat) (anew : Bool) : Reach :=
  match s.gangTile c (fld a 59 48) with
  | none => .bad
  | some t =>
    let off := fld a 20 0
    let old := q.exempt.contains t
    if anew && (fld a 47 21 != 0 || decide ((if old then scratchOf (s.core t).split else s.scratch t) < off + n)) then .bad
    else if s.bankWait t off n then .stall
    else .at (if t = c then .own off else .tile t off)

/-- Resolves an address for the engine in the mode of the command (R95, R96, R242, R243, R276, R279); `anew` marks an element or an index-list
entry, which is checked when it is reached. -/
def State.engineAt (s : State) (c : Nat) (q : CopyCmd) (k : AccKind) (a : Word) (n : Nat) (anew : Bool) : Reach × State :=
  let part := s.partOf c q.ctx
  let s' := s.modCtx c q.ctx (fun t => { t with level := if q.sup then .l2 else .l0 })
  if fld a 63 60 = 0xE then (s.engineTile c q a n anew, s)
  else match s'.spaceOf c q.ctx k a n with
    | .error _ => (.bad, s)
    | .ok (.domain _ _) => (.bad, s)
    | .ok (.stall r _) => (.stall, s.modHead c (fun q => { q with lookup := some r }))
    | .ok (.virt va) =>
      match s.engineEntry c q va anew with
      | (none, s) => (.absent, s)
      | (some e, s) =>
        (if !e.grants k q.sup || (!e.fw && ((s.part part).place (e.pa va)).isNone) then .bad else .at (s.atOf c part (.virt va) (some e)), s)
    | .ok (.mem p pa) => (if ((s.part p).place pa).isNone then .bad else .at (.raw p pa), s)
    | .ok l => (.at (s.atOf c part l none), s)

/-- The engine's read of bytes within a piece: bytes and poison mark; of what a queued command writes, old or new (R278). None: it must wait. -/
def State.engineRead (s : State) (c : Nat) (a : At) (n : Nat) : Option (List Byte × Bool × State) :=
  let onStore (t off : Nat) : Option (List Byte × Bool × State) :=
    some ((s.core t).seen s.freeCtr off n, (s.core t).poisoned off n, s.readStep t off n)
  match a with
  | .mem p pa => s.devRead (dieOf c) p pa 2 n
  | .raw p pa => s.devRead (dieOf c) p pa 2 n
  | .sys p off => s.devRead (dieOf c) p (sysPa + off) 2 n
  | .fw off => some (s.fwMem.readN off n, false, s)
  | .own off => onStore c off
  | .tile t off => onStore t off
  | .role t off => onStore t off
  | _ => none

/-- Marks the pieces of a range of a tile store as poisoned. -/
def Core.poisonStore (k : Core) (off n : Nat) : Core :=
  { k with storePoison := dedup (k.storePoison ++ (List.range (n / 64 + 2)).filterMap (fun i =>
      if meets (off / 64 * 64 + 64 * i) 64 off n then some (off / 64 + i) else none)) }

/-- Where thread stores that have not been applied meet bytes that the engine writes to a tile's store, either value is left in each 4-byte
element: the free value says which elements of the stores come before the engine's (R8, R284). -/
def State.raceStores (s : State) (t off n : Nat) : State :=
  let mine (m : Msg) : Bool := match m.kind with
    | .tileStore h _ _ => h == t
    | .farStore h _ _ => h == t
    | _ => false
  if s.net.any (fun m => mine m && m.bytes.any (fun b => decide (off ≤ b.1) && decide (b.1 < off + n))) then
    { s with net := s.net.map (fun m => if mine m then
        { m with bytes := m.bytes.filter (fun b =>
          !(decide (off ≤ b.1) && decide (b.1 < off + n) && (Config.freeBits s.freeCtr (b.1 / 4)).getLsbD 0)) } else m) }.freeNext
  else s

/-- The writer that the engine's units carry. -/
def State.engineMsg (s : State) (c part pa : Nat) : Msg :=
  { s.memMsg c engineCtx s.msgCtr (.unit false false false) part pa [] with vec := [] }

/-- The write of core c's engine to a tile's store: not while a matrix step reads the piece (R284); a thread may read the bytes as they were until
it has acquired (R269). None: it must wait. -/
def State.engineStore (s : State) (c t off : Nat) (cells : List Host.Cell) (poison clr : Bool) : Option State :=
  let n := cells.length
  if ((s.core t).latestMet [(alignDown off 64, 64)]).isSome then none
  else ((s.raceStores t off n).tileWrite t cells clr).map (fun s' => s'.modCore t (fun k =>
    { (if poison then k.poisonStore off n else k) with fresh := k.fresh ++ (s.core t).freshen c cells }))

/-- The engine's write of bytes within a piece, with their poison mark; `clr` marks a copy or a fill (R372). None: it must wait. -/
def State.engineWrite (s : State) (c : Nat) (a : At) (bs : List Byte) (poison clr : Bool) : Option State :=
  match a with
  | .mem p pa => s.devUnit (dieOf c) p pa (cellsAt pa bs) poison (some (s.engineMsg c p pa)) clr
  | .raw p pa => s.devUnit (dieOf c) p pa (cellsAt pa bs) poison (some (s.engineMsg c p pa)) clr
  | .sys p off => s.devUnit (dieOf c) p (sysPa + off) (cellsAt (sysPa + off) bs) poison (some (s.engineMsg c p (sysPa + off))) clr
  | .fw off => some { s with fwMem := s.fwMem.writeN off bs }
  | .own off => s.engineStore c c off (cellsAt off bs) poison clr
  | .tile t off => s.engineStore c t off (cellsAt off bs) poison clr
  | .role t off => s.engineStore c t off (cellsAt off bs) poison clr
  | _ => none

/-- The engine's read-modify-write of an element (R279): whether the old bytes were poisoned. None: it must wait. -/
def State.engineAtomic (s : State) (c : Nat) (a : At) (n : Nat) (cells : Nat → List Byte → List Host.Cell) : Option (Bool × State) :=
  let onStore (t off : Nat) : Option (Bool × State) :=
    if (s.core t).poisoned off n then some (true, s)
    else ((s.readStep t off n).engineStore c t off (cells off ((s.core t).seen s.freeCtr off n)) false false).map (fun s => (false, s))
  match a with
  | .mem p pa => (s.devAtomic (dieOf c) p pa n (cells pa) (some (s.engineMsg c p pa))).map (fun r => (r.2.1, r.2.2))
  | .raw p pa => (s.devAtomic (dieOf c) p pa n (cells pa) (some (s.engineMsg c p pa))).map (fun r => (r.2.1, r.2.2))
  | .own off => onStore c off
  | .tile t off => onStore t off
  | .role t off => onStore t off
  | .sys p off => (s.devAtomic (dieOf c) p (sysPa + off) n (cells (sysPa + off)) (some (s.engineMsg c p (sysPa + off)))).map (fun r => (r.2.1, r.2.2))
  | .fw off => some (false, { s with fwMem := s.fwMem.writeCells (cells off (s.fwMem.readN off n)) })
  | _ => none

/-- A write of the engine that the undo log has no room for asks for a checkpoint (R378). -/
def State.engineWants (s : State) (c : Nat) (a : At) : State :=
  match a with
  | .mem p pa => s.wantRoom p pa
  | .raw p pa => s.wantRoom p pa
  | .role t off => if (s.logRole t [(off, 0)]).isNone then s.wantCkpt (s.tilePart t) else s
  | _ => s

/-- Ends a transfer with a code at a position. -/
def State.endCopy (s : State) (c code pos : Nat) : State := s.modHead c (fun q => { q with status := some (copyStatus code pos) })

/-- The status when the last byte is written: 0, or 3 where a poisoned byte was read (R280). -/
def CopyCmd.finalStatus (q : CopyCmd) : Word :=
  match q.poisonAt with
  | none => 0
  | some p => copyStatus 3 p

/-- Notes n bytes or elements done of a total, k bytes of the buffer written with them, and the end (R280, R282). -/
def State.moved (s : State) (c n total k : Nat) (pz : Option Nat) : State :=
  s.modHead c (fun q =>
    let q := { q with done := q.done + n, buf := q.buf.drop k, bufBad := q.bufBad.filterMap (fun b => if k ≤ b then some (b - k) else none)
                      elem := none, poisonAt := if q.poisonAt.isSome then q.poisonAt else pz }
    if q.cancel then { q with status := some (copyStatus 5 q.done) }
    else if total ≤ q.done then { q with status := some q.finalStatus } else q)

/-- The code of a place that cannot be reached (R280). -/
def Reach.code : Reach → Nat
  | .absent => 1
  | _ => 2

/-- Resolves the element or index-list entry of `size` bytes that is reached: checked once, with the entry in force then, which serves until the
element is done (R243, R279). -/
def State.engineElem (s : State) (c : Nat) (q : CopyCmd) (k : AccKind) (a : Word) (size : Nat) : Reach × State :=
  match q.elem with
  | some e => s.engineAt c { q with tb := e.toList } k a size false
  | none =>
    match s.engineAt c q k a size true with
    | (.at p, t) => (.at p, t.modHead c (fun q => { q with
        elem := some (if fld a 63 60 = 0 then (s.lookup c (fld a 56 0)).1 else none) }))
    | r => r

/-- Resolves an address of the engine: of a checked range, or of the element under way, of `size` bytes. -/
def State.engineReach (s : State) (c : Nat) (q : CopyCmd) (k : AccKind) (a : Word) (n : Nat) (anew : Bool) (size : Nat) : Reach × State :=
  if anew then s.engineElem c q k a size else s.engineAt c q k a n false

/-- Reads the next bytes from an address on into the buffer of the command at the head, no more than a 4-byte element at a turn, so that each
is old or new by itself (R8, R269, R278): the state, or what ends the transfer. `left` bytes of the piece, element or entry are unread. -/
def State.engineFill (s : State) (c : Nat) (q : CopyCmd) (anew : Bool) (a : Word) (left : Nat) : Except Reach State :=
  let n := Nat.min left (4 - a.toNat % 4)
  match s.engineReach c q .load a n anew left with
  | (.at p, s) => match s.engineRead c p n with
    | none => .ok s
    | some (bs, pz, s) => .ok (s.modHead c (fun q =>
        { q with
          buf := q.buf ++ bs, bufBad := q.bufBad ++ (if pz then (List.range bs.length).map (q.buf.length + ·) else [])
          elem := if n = left then none else q.elem }))
  | (.stall, s) => .ok s
  | (r, _) => .error r

/-- The addresses of byte `pos` of a copy or fill at its source and its destination. -/
def CopyCmd.srcAt (q : CopyCmd) (pos : Nat) : Word :=
  let d := shapeDims q.shape
  q.src + w64 (pos / d.bytes * d.sstride + pos % d.bytes)
def CopyCmd.dstAt (q : CopyCmd) (pos : Nat) : Word :=
  let d := shapeDims q.shape
  q.dst + w64 (pos / d.bytes * d.dstride + pos % d.bytes)

/-- The byte that a place is, whatever space named it: kind, owner, offset. -/
def At.spot (c : Nat) : At → Nat × Nat × Nat
  | .mem p pa => (0, p, pa)
  | .raw p pa => (0, p, pa)
  | .sys p off => (1, p, off)
  | .fw off => (2, 0, off)
  | .own off => (3, c, off)
  | .tile t off => (3, t, off)
  | .role t off => (3, t, off)
  | .domain d off => (4, d, off)
  | .stall r off => (5, r, off)

/-- The byte that the engine finds at an address of a checked range. -/
def State.copySpot (s : State) (c : Nat) (q : CopyCmd) (k : AccKind) (a : Word) : Option (Nat × Nat × Nat) :=
  match (s.engineAt c q k a 1 false).1 with
  | .at p => some (p.spot c)
  | _ => none

/-- The byte of the transfer, not yet written, whose destination is the byte at which source byte `pos` lies under another address (R276). -/
def State.copyAlias (s : State) (c : Nat) (q : CopyCmd) (pos : Nat) : Option Nat :=
  match s.copySpot c q .load (q.srcAt pos) with
  | none => none
  | some x => ((List.range ((shapeDims q.shape).total - q.done)).map (q.done + ·)).find? (fun j =>
      decide (j ≠ pos) && s.copySpot c q .store (q.dstAt j) == some x)

/-- Reads on in a copy, n bytes at most: a source byte that is also a destination byte to come holds, at the free value's choice, what it holds now
or what the transfer leaves there (R8, R276; DEDUCED, log 81). -/
def State.copyRead (s : State) (c : Nat) (q : CopyCmd) (n : Nat) : Except Reach State :=
  let pos := q.done + q.buf.length
  match s.copyAlias c q pos with
  | none => s.engineFill c q false (q.srcAt pos) n
  | some j =>
    let t := s.freeNext
    if !Config.freeBool s.freeCtr then t.engineFill c q false (q.srcAt pos) n
    else if j < pos then
      let k := Nat.min (Nat.min n 4) (pos - j)
      .ok (t.modHead c (fun q => { q with
        buf := q.buf ++ (q.buf.drop (j - q.done)).take k
        bufBad := q.bufBad ++ (q.bufBad.filterMap (fun b => if j - q.done ≤ b ∧ b < j - q.done + k then some (b + (pos - j)) else none)) }))
    else t.engineFill c q false (q.srcAt j) (Nat.min n ((shapeDims q.shape).bytes - j % (shapeDims q.shape).bytes))

/-- A step of a copy or a fill: bytes are read, and those of one destination piece within one row are then written as one unit. Where more are
left, the free value says whether the engine reads on before it writes (R8, R276; DEDUCED, log 81). -/
def State.copyPiece (s : State) (c : Nat) (q : CopyCmd) : State :=
  let d := shapeDims q.shape
  let x := q.done % d.bytes
  let pos := q.done + q.buf.length
  let dest := q.dstAt q.done
  let n := Nat.min (d.bytes - x) (64 - dest.toNat % 64)
  let fill := ctlMode q.ctl == .fill
  let short := decide (q.buf.length < n)
  let more := decide (pos < d.total) && !q.cancel
  let s' := if more && !short && !fill then s.freeNext else s
  if !fill && (short || (more && Config.freeBool s.freeCtr)) then
    match s'.copyRead c q (if short then n - q.buf.length else d.bytes - pos % d.bytes) with
    | .ok s => s
    | .error r => s'.endCopy c r.code q.done
  else
    let bs := if fill then tabulate n (fun i => BitVec.ofNat 8 (q.src.toNat / 2 ^ (8 * ((x + i) % 8)))) else q.buf.take n
    let bad := q.bufBad.find? (fun b => decide (b < n))
    match s'.engineAt c q .store dest n false with
    | (.at p, s) => match s.engineWrite c p bs bad.isSome true with
      | some s => s.moved c n d.total n (bad.map (· + q.done))
      | none => s.engineWants c p
    | (.stall, s) => s
    | (r, s) => s.endCopy c r.code q.done

/-- The engine stops at an element: the failing address goes to the parameter block (R275, R279). -/
def State.stopAt (s : State) (c : Nat) (q : CopyCmd) (code : Nat) (a : Word) : State :=
  match s.engineStore c c (ctlBlock q.ctl + 16) (cellsAt (ctlBlock q.ctl + 16) (toBytes 8 a.toNat)) false false with
  | some s => s.endCopy c code q.done
  | none => s

/-- The operator of a scatter with duplicate mode 1 (R274). -/
def scatterOp (op n : Nat) (v : Word) : AtomOp :=
  let w : AtW := if n = 8 then .d else .w
  match op with
  | 0 => .amo .add w v
  | 1 => .amo .min w v
  | 2 => .amo .max w v
  | 3 => .amo .or w v
  | _ => .amof .fadd (if n = 8 then .d else .s) v

/-- Writes the element that the buffer holds behind its index (R279). -/
def State.putElem (s : State) (c : Nat) (q : CopyCmd) (dest : Word) (n : Nat) (anew : Bool) : State :=
  let bs := q.buf.drop 4
  match s.engineReach c q .store dest n anew n with
  | (.at p, s) =>
    if anew && ctlCombine q.ctl then
      match s.engineAtomic c p n (fun a old => atomCells (scatterOp (ctlOp q.ctl) n (wordOf bs)) a old) with
      | some (pz, s) => if pz then s.stopAt c q 3 dest else s.moved c 1 (shapeCount q.shape) (4 + n) none
      | none => s.engineWants c p
    else match s.engineWrite c p bs false false with
      | some s => s.moved c 1 (shapeCount q.shape) (4 + n) none
      | none => s.engineWants c p
  | (.stall, s) => s
  | (r, s) => s.stopAt c q r.code dest

/-- A step of a gather or a scatter: the index-list entry of an element is read, then the element, then it is written (R279). -/
def State.copyElem (s : State) (c : Nat) (q : CopyCmd) : State :=
  let n := shapeElem q.shape
  let gather := ctlMode q.ctl == .gather
  let entry := q.ilist + w64 (4 * q.done)
  let ea := (if gather then q.src else q.dst) + w64 (ofBytes (q.buf.take 4) * n)
  let packed := (if gather then q.dst else q.src) + w64 (q.done * n)
  let from' := if gather then ea else packed
  let get (anew : Bool) (a stop : Word) (left : Nat) : State := match s.engineFill c q anew a left with
    | .ok s => s
    | .error r => s.stopAt c q r.code stop
  if q.buf.length < 4 then get true (entry + w64 q.buf.length) entry (4 - q.buf.length)
  else if q.bufBad.any (fun b => decide (b < 4)) then s.stopAt c q 3 entry
  else if q.buf.length < 4 + n then get gather (from' + w64 (q.buf.length - 4)) from' (4 + n - q.buf.length)
  else if !q.bufBad.isEmpty then s.stopAt c q 3 from'
  else s.putElem c q (if gather then packed else ea) n (!gather)

/-- Whether every write that an XFENCE marked for a command has been applied (R268; DEDUCED, log 26). -/
def State.unheld (s : State) (c : Nat) (q : CopyCmd) : Bool := (s.unfinished c).all (fun m => !q.marks.contains m.id)

/-- COPY_TRANSFER_START: the engine starts the head of the FIFO once it is not held, no transfer of a gang that is about to be saved, and at
each turn reads on, or writes a piece or an element of it (R278, R284, R328). -/
def execCopyTransferStart (c : Nat) (s : State) : Outcome :=
  match (s.core c).fifo with
  | [] => .next s
  | q :: _ =>
    if q.status.isSome || (!q.started && (!s.unheld c q || s.frozen c)) then .next s
    else
      let s := s.modHead c (fun q => { q with started := true, lookup := none })
      let total := if (ctlMode q.ctl).indexed then shapeCount q.shape else (shapeDims q.shape).total
      if total ≤ q.done then .next (s.modHead c (fun q => { q with status := some 0 }))
      else .next (if (ctlMode q.ctl).indexed then s.copyElem c q else s.copyPiece c q)

/-- The event of a transfer that ends with one (R250, R281). -/
def copyEvent (q : CopyCmd) (st : Word) : Ev :=
  let id := w64 (ctlId q.ctl)
  if st = 0 then ⟨Cause.copyDone, id, st, some q.handler, some (id, st)⟩ else ⟨Cause.copyError, id, st, none, some (id, st)⟩

/-- Delivers the status of a transfer (R281). -/
def State.deliverCopy (s : State) (c : Nat) (q : CopyCmd) (st : Word) : State :=
  match ctlDone q.ctl with
  | 0 => if st = 0 then s else s.post c q.ctx (copyEvent q st)
  | 1 =>
    if ctlElse q.ctl then (s.gangTile c (ctlTile q.ctl)).elim s (fun t => s.fill t (ctlCtx q.ctl) (ctlReg q.ctl) st)
    else s.fill c q.ctx (ctlReg q.ctl) st
  | _ => s.post c q.ctx (copyEvent q st)

/-- Whether the engine's writes have reached the views that a release waits for (R269; DEDUCED, log 26). -/
def State.engineDone (s : State) (c : Nat) : Bool := (s.undelivered (dieOf c)).all (fun m => !(m.core == c && m.ctx == engineCtx))

/-- Whether the event of a transfer finds the queue of its thread full: the transfer waits for it (R249). -/
def State.eventWaits (s : State) (c : Nat) (q : CopyCmd) (st : Word) : Bool :=
  (ctlDone q.ctl == 2 || (ctlDone q.ctl == 0 && st != 0)) && (s.ctx c q.ctx).live && (s.ctx c q.ctx).queueFull

/-- The transfer of core c's engine is over: an acquire that comes after this number settles what it wrote (R269). -/
def State.settleCopy (s : State) (c : Nat) : State :=
  let settle (b : FreshByte) : FreshByte := if b.by_ = c && b.ended.isNone then { b with ended := some s.msgCtr } else b
  if s.cores.any (fun e => e.2.fresh.any (fun b => b.by_ == c && b.ended.isNone)) then
    { s with cores := s.cores.map (fun e => (e.1, { e.2 with fresh := e.2.fresh.map settle })), msgCtr := s.msgCtr + 1 }
  else s

/-- COPY_TRANSFER_COMPLETE: the release, then the status (R249, R269, R278, R281). -/
def execCopyTransferComplete (c : Nat) (s : State) : Outcome :=
  match (s.core c).fifo with
  | [] => .next s
  | q :: qs => match q.status with
    | none => .next s
    | some st =>
      if !s.engineDone c || s.eventWaits c q st then .next s
      else .next (((s.modCore c (fun k => { k with fifo := qs })).settleCopy c).deliverCopy c q st)

end Sys2Proof.Machine
end

