-- ==== Sys2Proof/Machine/Slices.lean ====
section
/-!
DEFINITION. The slice and stack registers, hold and release, the domain switch, and the maintenance of a range at its home slices (R262,
R263, R348 to R352, R366, R367).
-/

namespace Sys2Proof.Machine

/-! ### Which registers there are (R348, R367) -/

/-- Whether an index names a slice register. -/
def scfgAssigned (i : Nat) : Bool :=
  [0, 1, 2, 3, 4, 5, 8, 9, 10, 11, 32, 33, 34, 35, 36, 40, 41, 42, 43, 44, 45, 46].contains i

/-- The half-stack of a slice number (R355). -/
def sliceHalf (n : Nat) : Nat := 2 * (n / 16) + n % 16 / 8

/-- Whether a partition holds a half-stack. -/
def Part.hasHalf (p : Part) (h : Nat) : Bool := p.halves.getLsbD h

/-- The partition that holds a half-stack, if any does. -/
def State.halfOwner (s : State) (h : Nat) : Option Nat := (List.range 16).find? (fun p => (s.part p).present && (s.part p).hasHalf h)

/-- The tag that STAGSEL selects. -/
def Slice.selected (l : Slice) : Option Tag := l.tags.find? (fun t => t.set = l.tagset && t.way = l.tagway)

/-- A map as DMAP shows it. -/
def DMap.word (m : DMap) : Word := w64 (m.map.toNat + m.seq * 2 ^ 16)

/-- Reads register i of slice n. -/
def State.scfgRead (s : State) (n i : Nat) : Word :=
  let l := s.slice n
  let st := s.stack (n / 16)
  match i with
  | 0 => match s.halfOwner (sliceHalf n) with
    | some p => w64 (n + p * 2 ^ 8 + n % 16 / 8 * 2 ^ 12)
    | none => w64 (n + n % 16 / 8 * 2 ^ 12 + 2 ^ 13)
  | 1 => w64 (l.mshrs.length + l.filter.length * 2 ^ 8 + l.tags.length * 2 ^ 16)
  | 2 => w64 (b2n l.hold)
  | 3 => w64 l.queue.length
  | 4 => w64 l.replay
  | 5 => w64 l.bypass
  | 8 => w64 (l.tagset + l.tagway * 2 ^ 8)
  | 9 => l.selected.elim 0 (fun t => w64 (2 ^ 63 + t.gran))
  | 10 => l.selected.elim 0 (fun t => w64 (t.dirty.toNat * 2 ^ 32 + t.pres.toNat))
  | 11 => l.selected.elim 0 (fun t => w64 t.poison.toNat)
  | 32 => st.dmap.word
  | 40 => st.nmap.setWidth 64
  | 45 => st.dswitch
  | 46 => w64 st.swept
  | _ =>
    if 33 ≤ i ∧ i ≤ 36 then (nth 0 st.dmap.rows (i - 33)).setWidth 64
    else if 41 ≤ i ∧ i ≤ 44 then (nth 0 st.nrows (i - 41)).setWidth 64
    else 0

/-! ### Hold and release (R350) -/

/-- The hold of a slice is over: its queue is served in order. -/
def State.serveQueue (s : State) (n : Nat) : State := (s.modSlice n (fun l => { l with hold := false })).drainQueue n

/-- Writes SHOLD. -/
def State.setHold (s : State) (n : Nat) (b : Bool) : State :=
  if b then s.modSlice n (fun l => { l with hold := true }) else s.serveQueue n

/-- SHOLD_HOLD (R350). -/
def execSholdHold (n : Nat) (s : State) : Outcome := .next (s.setHold n true)

/-- SHOLD_RELEASE (R350). -/
def execSholdRelease (n : Nat) (s : State) : Outcome := .next (s.setHold n false)

/-! ### The domain switch (R348, R351, R352) -/

/-- Rows that a map uses. -/
def mapRows (m : Nat) : Nat := Nat.max (nfld m 6 4) (nfld m 14 12)

/-- Whether a next map is valid: one domain of 16 or two of 8. -/
def mapValid (m : Nat) : Bool := m == 0x4040 || m == 0x3830 || m == 0x3038

/-- Whether an arming of a stack's switch is refused (R351). -/
def State.armRefused (s : State) (stack part : Nat) (v : Word) : Bool :=
  let st := s.stack stack
  decide (v.toNat < s.gtime.toNat + 1000) || !mapValid st.nmap.toNat || (st.nrows.take (mapRows st.nmap.toNat)).any (fun r => r = 0) ||
    st.armed.isSome || st.switching || !((s.part part).hasHalf (2 * stack) && (s.part part).hasHalf (2 * stack + 1)) ||
    fld v 63 62 != 0

/-- A write to DSWITCH by a context of a partition (R351). -/
def State.arm (s : State) (stack part : Nat) (v : Word) : State :=
  if s.armRefused stack part v then s.modStack stack (fun st => { st with dswitch := setBit st.dswitch 62 })
  else s.modStack stack (fun st =>
    { st with dswitch := v, armed := some ⟨st.nmap.setWidth 16, st.nrows, (st.inForce.seq + 1) % 16⟩ })

/-- DSWITCH_ARM (R351). -/
def execDswitchArm (n p : Nat) (v : Word) (s : State) : Outcome := .next (s.arm (n / 16) p v)

/-- The pieces of a tag that are present and not homed on slice n. -/
def State.strayPieces (s : State) (n : Nat) (t : Tag) : List Nat :=
  (mapBits t.pres).filter (fun i => s.homeSlice ⟨n / 16, t.base + 64 * i⟩ (t.gran + 64 * i) ≠ n)

/-- Drops pieces of a tag; a tag left empty is freed. -/
def Slice.dropPieces (l : Slice) (base : Nat) (is : List Nat) : Slice :=
  match l.tags.find? (fun t => t.base = base) with
  | none => l
  | some t =>
    let t' := is.foldl Tag.drop t
    if t'.pres = 0 then l.freeTag base else l.setTag t'

/-- Sweeps one tag: its stray dirty pieces are written to the stack, its stray pieces discarded (R352 step 2). -/
def State.sweepTag (s : State) (n : Nat) (t : Tag) : State :=
  let stray := s.strayPieces n t
  let dirty := stray.filter (fun i => nbit t.dirty.toNat i)
  let s := dirty.foldl (fun s i => s.toStack n (t.base + 64 * i) (tget [] t.data i) (nbit t.poison.toNat i) true) s
  let s := s.modStack (n / 16) (fun st => { st with swept := st.swept + dirty.length })
  if stray.isEmpty then s else s.modSlice n (fun l => l.dropPieces t.base stray)

/-- DOMAIN_SWITCH: at the armed tick the requesters and the slices take the new map, rows and number, and the slices sweep (R352 steps 1
and 2). -/
def execDomainSwitch (stack : Nat) (s : State) : Outcome :=
  let st := s.stack stack
  match st.armed with
  | none => .next s
  | some m =>
    if s.gtime.toNat < fld st.dswitch 61 0 then .next s
    else
      let s := s.setStack stack { st with req := m, inForce := m, armed := none, switching := true, swept := 0 }
      .next ((List.range 16).foldl (fun s k =>
        ((s.slice (16 * stack + k)).tags).foldl (fun s t => s.sweepTag (16 * stack + k) t) s) s)

/-- Whether sweep writes of a stack have not been acknowledged. -/
def State.sweeping (s : State) (stack : Nat) : Bool := (List.range 16).any (fun k => (s.slice (16 * stack + k)).filter.any (fun e => e.2))

/-- DOMAIN_SWITCH_COMPLETE (R352 step 4). -/
def execDomainSwitchComplete (stack : Nat) (s : State) : Outcome :=
  if (s.stack stack).switching && !s.sweeping stack then
    .next (s.modStack stack (fun st => { st with dmap := st.inForce, switching := false, dswitch := setBit st.dswitch 63 }))
  else .next s

/-! ### Writes of slice registers (R262) -/

/-- Writes register i of slice n for a partition; a read-only one changes nothing. -/
def State.scfgWrite (s : State) (part n i : Nat) (v : Word) : State :=
  let st := n / 16
  match i with
  | 2 => s.setHold n (bit v 0)
  | 8 => s.modSlice n (fun l => { l with tagset := fld v 6 0, tagway := fld v 11 8 })
  | 40 => s.modStack st (fun t => { t with nmap := BitVec.ofNat 20 (fld v 14 8 * 2 ^ 8 + fld v 6 0) })
  | 45 => s.arm st part v
  | _ =>
    if 41 ≤ i ∧ i ≤ 44 then s.modStack st (fun t => { t with nrows := setAt t.nrows (i - 41) (v.setWidth 37) })
    else s

/-! ### Ranges at the home slices (R263) -/

/-- The partition-physical addresses at which the windows of a partition map a stack byte (R357). -/
def Part.addrsOf (p : Part) (stack sb : Nat) : List Nat :=
  (List.range 16).filterMap (fun i =>
    let w := windowOf (tget 0 p.deckle i)
    let from' := w.half % 2 * 2 ^ 35 + w.off
    if w.valid && w.half / 2 == stack && decide (from' ≤ sb) && decide (sb < from' + w.len) then some (w.base + (sb - from')) else none)

/-- The present pieces of a tag of slice n that lie, through any window, in a partition-physical range of a partition whose home slice n is. -/
def State.piecesIn (s : State) (part n a len : Nat) (t : Tag) : List Nat :=
  (mapBits t.pres).filter (fun i => ((s.part part).addrsOf (n / 16) (t.base + 64 * i)).any (fun pa =>
    decide (a ≤ pa) && decide (pa < a + len) && ((s.stack (n / 16)).switching || s.homeSlice ⟨n / 16, t.base + 64 * i⟩ pa == n)))

/-- Applies a function to every tag of every slice. -/
def State.eachTag (s : State) (f : State → Nat → Tag → State) : State :=
  s.slices.foldl (fun s e => e.2.tags.foldl (fun s t => f s e.1 t) s) s

/-- Writes the dirty pieces of a range to their stacks and leaves them clean, or discards the pieces (CWBR). -/
def State.flushRange (s : State) (part a len : Nat) (inval : Bool) : State :=
  s.eachTag (fun s n t =>
    let ps := s.piecesIn part n a len t
    let dirty := ps.filter (fun i => nbit t.dirty.toNat i)
    let s := dirty.foldl (fun s i => s.toStack n (t.base + 64 * i) (tget [] t.data i) (nbit t.poison.toNat i) false) s
    let s := if dirty.isEmpty then s else s.modSlice n (fun l => l.setTag { t with dirty := dirty.foldl (fun m i => mapBit m i false) t.dirty })
    if inval && !ps.isEmpty then s.modSlice n (fun l => l.dropPieces t.base ps) else s)

/-- Discards the pieces of a range (SLINV). -/
def State.dropRange (s : State) (part a len : Nat) : State :=
  s.eachTag (fun s n t =>
    let ps := s.piecesIn part n a len t
    if ps.isEmpty then s else s.modSlice n (fun l => l.dropPieces t.base ps))

/-- The granules of a range that hold dirty pieces: the acknowledgements CWBR waits for. -/
def State.dirtyIn (s : State) (part a len : Nat) : List (Nat × Nat) :=
  s.slices.flatMap (fun e => (e.2.tags.filter (fun t =>
    (s.piecesIn part e.1 a len t).any (fun i => nbit t.dirty.toNat i))).map (fun t => (e.1, t.base)))

end Sys2Proof.Machine
end

