-- ==== Sys2Proof/Machine/Record.lean ====
section
/-!
DEFINITION. Task records: their fields, and the first byte at which a record is invalid (R16 to R18, R87).
-/

namespace Sys2Proof.Machine

/-- An n-byte field of a record. -/
def recField (bs : List Byte) (off n : Nat) : Nat := ofBytes (slice bs off n)

/-- The word of variants 1 to 3. -/
def varWord (bs : List Byte) (v : Nat) : Nat := recField bs (0x04 + 4 * v) 4

/-- Gang size of a variant; 0 marks it absent (R16). -/
def varGang (bs : List Byte) (v : Nat) : Nat := if v = 0 then nfld (recField bs 0 8) 63 55 else nfld (varWord bs v) 31 23

/-- Bound-code byte of a variant. -/
def varCode (bs : List Byte) (v : Nat) : Nat := recField bs (0x14 + v) 1

/-- Whether a variant is present: no variant up to it is absent (R16). -/
def varPresent (bs : List Byte) : Nat → Bool
  | 0 => varGang bs 0 != 0
  | v + 1 => varPresent bs v && varGang bs (v + 1) != 0

/-- Entry PC of a variant (R16). -/
def varEntry (bs : List Byte) (v : Nat) : Word :=
  let e0 := w64 (4 * (recField bs 0 8 % 2 ^ 55))
  if v = 0 then e0 else e0 + 4 * (BitVec.ofNat 23 (varWord bs v)).signExtend 64

/-- A footprint entry (R17): base in bytes, length and offset in 64-byte units. -/
def footOf (bs : List Byte) (i : Nat) : Foot :=
  let a := recField bs (0x38 + 12 * i) 8
  let b := recField bs (0x40 + 12 * i) 4
  let place := nbit a 61
  ⟨nfld a 63 62, place, nfld a 56 6 * 64, if place then nfld b 16 0 else b, if place then nfld b 31 17 else 0⟩

/-- Whether two placed regions share a byte of the tile store. -/
def placedMeet (f g : Foot) : Bool := f.mode != 0 && g.mode != 0 && f.place && g.place && meets f.off f.len g.off g.len

/-- Whether a footprint entry is valid (R17, R18). -/
def footOk (bs : List Byte) (i : Nat) : Bool :=
  let f := footOf bs i
  let a := recField bs (0x38 + 12 * i) 8
  if f.mode = 0 then a == 0 && recField bs (0x40 + 12 * i) 4 == 0
  else nfld a 60 57 == 0 && nfld a 5 0 == 0 && decide (1 ≤ f.len) && (!f.place || decide (f.off + f.len ≤ 28672)) &&
    !(List.range i).any (fun j => placedMeet (footOf bs j) f)

/-- A pointer field that is 0, or 8-byte aligned with bits 63:57 zero (R18). -/
def pointerOk (a : Nat) : Bool := nfld a 63 57 == 0 && a % 8 == 0

/-- The checks of R18, each with the lowest byte of its field, in order of those bytes (R87). -/
def recChecks (bs : List Byte) : List (Nat × Bool) :=
  [(0x06, decide (1 ≤ varGang bs 0) && decide (varGang bs 0 ≤ 288))] ++
  ([1, 2, 3].flatMap (fun v =>
    [(0x04 + 4 * v, varPresent bs v || varWord bs v == 0), (0x06 + 4 * v, !varPresent bs v || decide (varGang bs v ≤ 288))])) ++
  ([0, 1, 2, 3].map (fun v => (0x14 + v, if varPresent bs v || v == 0 then decide (varCode bs v ≤ 64) else varCode bs v == 0))) ++
  [(0x18, decide (1 ≤ recField bs 0x18 1) && decide (recField bs 0x18 1 ≤ 16)),
   (0x19, decide (recField bs 0x19 1 < 8)),
   (0x1A, decide (recField bs 0x1A 1 < 2)),
   (0x1B, recField bs 0x1B 5 == 0),
   (0x20, pointerOk (recField bs 0x20 8)),
   (0x30, pointerOk (recField bs 0x30 8))] ++
  ((List.range 6).map (fun i => (0x38 + 12 * i, footOk bs i)))

/-- The lowest failing byte of a record; none where it is valid. -/
def recFail (bs : List Byte) : Option Nat := ((recChecks bs).find? (fun c => !c.2)).map (·.1)

/-- The record that bytes hold. -/
def recOf (bs : List Byte) : TaskRec where
  variants := ((List.range 4).filter (varPresent bs)).map (fun v => ⟨varGang bs v, varEntry bs v, 2 ^ varCode bs v - 1⟩)
  threads := recField bs 0x18 1
  prio := recField bs 0x19 1
  pool := recField bs 0x1A 1 == 1
  sizePtr := recField bs 0x20 8
  args := w64 (recField bs 0x28 8)
  target := recField bs 0x30 8
  foots := (tabulate 6 (footOf bs)).filter (fun f => f.mode != 0)

/-- Whether an address may be that of a record: 64-byte aligned, bits 63:57 zero (R19, R87). -/
def recAddrOk (a : Word) : Bool := fld a 63 57 == 0 && fld a 5 0 == 0

end Sys2Proof.Machine
end

