-- ==== Sys2Proof/Machine/Threads.lean ====
section
/-!
DEFINITION. Threads, barriers, register bits and work lists: row 3 (R82 to R94).
-/

namespace Sys2Proof.Machine

/-! ### Undefined contents (R8, R24, R84; DESIGN CHOICE, log 2) -/

/-- The value of a register that the manual leaves undefined. -/
def freeWord (ctr place : Nat) : Word := Config.freeBits ctr place

/-- Registers of a started context: undefined values, full bits (R24, R84). -/
def freeG (ctr : Nat) : Table GVal := tabulate 31 (fun i => (i + 1, ⟨freeWord ctr i, true⟩))
/-- The f registers of a started context. -/
def freeF (ctr : Nat) : Table FVal := tabulate 32 (fun i => (i, ⟨freeWord ctr (100 + i), (freeWord ctr (200 + i)).toNat % 54, true⟩))
/-- The v registers of a started context. -/
def freeV (ctr : Nat) : Table VVal :=
  tabulate 16 (fun i => (i, ⟨tabulate 32 (fun l => (freeWord ctr (1000 + 64 * i + l)).setWidth 32),
    tabulate 32 (fun l => (freeWord ctr (1032 + 64 * i + l)).setWidth 8)⟩))
/-- The q registers of a started context. -/
def freeQ (ctr : Nat) : Table (BitVec 32) := tabulate 8 (fun i => (i, (freeWord ctr (300 + i)).setWidth 32))
/-- The user shadow set of a started context (R84, R247). -/
def freeShadow (ctr : Nat) : Table GVal := tabulate 8 (fun i => (24 + i, ⟨freeWord ctr (400 + i), bit (freeWord ctr (500 + i)) 0⟩))

/-- A context as a start leaves it: registers and user shadow set undefined, bits full, controls as given (R84); what its trap, transfer and
H registers hold is free but for TCAUSE, which reads 0 (R138, R250). The supervisor shadow set stays (R247). The exit word before TEND or
HALT writes one, which TREAP reads where R375 ends the context, and FPFLAGS and SIGLANES at dispatch are 0 (DESIGN CHOICE, log 20). -/
def Ctx.start (t : Ctx) (ctr : Nat) (pc : Word) : Ctx :=
  { t with
    state := .running, pc := pc, g := freeG ctr, f := freeF ctr, p := (freeWord ctr 600).setWidth 8, v := freeV ctr, q := freeQ ctr
    ushadow := freeShadow ctr, level := .l0, tcause := 0, tval := freeWord ctr 601, tepc := freeWord ctr 602, tstat := freeWord ctr 603
    fpflags := 0, siglanes := 0, xferid := freeWord ctr 604, xferstat := freeWord ctr 605
    hcause := freeWord ctr 606, hval := freeWord ctr 607, hepc := freeWord ctr 608, hstat := freeWord ctr 609
    rfcount := 0, refCount := 0, refCode := 0, dbgctl := 0, events := [], retry := [], park := none, phase := .none, replies := []
    exitWord := 0 }

/-- Controls that TSTART copies from context 0 (R84). -/
def Ctx.inherit (t z : Ctx) : Ctx := { t with fpctl := z.fpctl, sigmin := z.sigmin, tvec := z.tvec, tdeleg := z.tdeleg }

/-! ### TSTART, TREAP, TEND (R84 to R86) -/

/-- The entry that TSTART names. -/
def State.entryOf (s : State) : RegImm → Word
  | .reg r => s.g r
  | .imm v => s.me.pc + 4 * v.signExtend 64

/-- The TSTAT of a context that TSTART may not start. -/
def startFault : CtxState → Option Word
  | .free => none
  | .running => some 2
  | .ended => some 3
  | .held => some 4

/-- TSTART (R84). -/
def execTstart (g : Guard) (a : GReg) (b : RegImm) (s : State) : Outcome :=
  s.run (.tstart g a b) 8 g (.src a :: opndsB b) (fun s =>
    let c := s.cur.1
    let u := (s.g a).toNat
    if s.cur.2 ≠ 0 then .trap Cause.privileged (s.g a) 1 s
    else if u = 0 ∨ s.threadCount c ≤ u then .trap Cause.boundCheck (s.g a) 1 s
    else match startFault (s.ctx c u).state with
      | some k => .trap Cause.boundCheck (s.g a) k s
      | none =>
        let pc := s.entryOf b
        if fld pc 1 0 ≠ 0 then .trap Cause.pcMisaligned pc 0 s
        else .done ((s.modCtx c u (fun t => (t.start s.freeCtr pc).inherit s.me)).freeNext))

/-- TREAP (R86). TVAL of its two BOUND_CHECK causes is A (R86 gives TVAL for PRIVILEGED only; DESIGN CHOICE, log 83). -/
def execTreap (g : Guard) (d a : GReg) (s : State) : Outcome :=
  s.run (.treap g d a) 8 g [.dst d, .src a] (fun s =>
    let c := s.cur.1
    let u := (s.g a).toNat
    if s.cur.2 ≠ 0 then .trap Cause.privileged (s.g a) 1 s
    else if u = 0 ∨ s.threadCount c ≤ u then .trap Cause.boundCheck (s.g a) 1 s
    else match (s.ctx c u).state with
      | .free => .trap Cause.boundCheck (s.g a) 5 s
      | .ended => .done ((s.putG d (s.ctx c u).exitWord).modCtx c u (fun t => { t with state := .free }))
      | _ => .park (.ended u) s)

/-- A context ends: the supervisor shadow set goes back to its place, pending events are discarded (R85, R247). -/
def Ctx.ending (t : Ctx) (exit : Word) : Ctx :=
  { t with
    state := .ended, exitWord := exit, events := [], retry := [], park := none, phase := .none, replies := [], level := .l0
    g := if t.level = .l2 then (exchange t.g t.sshadow).1 else t.g
    sshadow := if t.level = .l2 then (exchange t.g t.sshadow).2 else t.sshadow }

/-- The thread of a context is over for the queue: its reports other than POISON_OPERAND are discarded, and its queued commands have no
thread to report to (R208, R215). -/
def Core.disown (k : Core) (x : Nat) : Core :=
  { k with
    reports := (k.reports.filter (fun r => r.ctx ≠ x || r.cause = Cause.poisonOperand)).map (fun r => if r.ctx = x then { r with ctx := noCtx } else r)
    mq := k.mq.map (fun q => if q.ctx = x then { q with ctx := noCtx } else q) }

/-- Ends a context, and its barriers abort (R85, R90). -/
def State.endContext (s : State) (c x : Nat) (exit : Word) : State :=
  ((s.modCore c (fun k => k.disown x)).modCtx c x (fun t => t.ending exit)).abortBarriers c x

/-- The POISON_OPERAND report that a context has not received (R208). -/
def Core.poisonReport (k : Core) (x : Nat) : Option Report := k.reports.find? (fun r => r.ctx = x && r.cause = Cause.poisonOperand)

/-- Clears a report. -/
def Core.dropReport (k : Core) (r : Report) : Core := { k with reports := k.reports.filter (fun e => decide (e ≠ r)) }

/-- TEND (R85, R208): thread 0 waits for the others. -/
def execTend (g : Guard) (a : GReg) (s : State) : Outcome :=
  s.run (.tend g a) 8 g [.src a] (fun s =>
    let c := s.cur.1
    let x := s.cur.2
    if x = 0 ∧ !s.waitOk c 0 .others then .park .others s
    else match s.myCore.poisonReport x with
      | some r => .trap Cause.poisonOperand r.tval r.tstat (s.modMyCore (fun k => k.dropReport r))
      | none => .done (s.endContext c x (s.g a)))

/-! ### TSPAWN (R87) -/

/-- The two pieces of a record, read as a global load at device scope. -/
def recordUnits (a : Word) : List AUnit := [⟨.load, a, 64, 1⟩, ⟨.load, a + 64, 64, 1⟩]

/-- TSPAWN (R87): A is what the register held when it first issued. -/
def execTspawn (g : Guard) (d a : GReg) (s : State) : Outcome :=
  s.run (.tspawn g d a) 8 g [.dst d, .src a] (fun s =>
    let s := if s.me.phase.step = 0 then s.modMe (fun t => { t with phase := { t.phase with val := s.g a } }) else s
    let addr := s.me.phase.val
    let fin (s : State) (rs : List Reply) : Res :=
      match recFail (rs.flatMap (fun r => r.data)) with
      | some b => .trap Cause.taskRecord addr (w64 b) s
      | none =>
        if 64 ≤ (s.part s.myPart).enq.length then .done (s.putG d 2)
        else .done ((s.modPart s.myPart (fun p => { p with enq := p.enq ++ [addr] })).putG d 0)
    if !recAddrOk addr then .trap Cause.taskRecord addr 0 s
    else if s.out then s.collect fin
    else s.release .dev (fun s => s.load (recordUnits addr) .nc fin))

/-! ### BAR (R89, R90) -/

/-- The kind of generation an arrival counts toward, and its scope. -/
def barKind : BarScope → BarKind
  | .tile => .tile
  | _ => .gang
/-- The scope of its release and acquire. -/
def barScope : BarScope → Scope
  | .tile => .tile
  | .gang => .gang
  | .dev => .dev

/-- Arrivals that complete a generation (R89). -/
def State.barWidth (s : State) (c : Nat) : BarKind → Nat
  | .tile => s.threadCount c
  | .gang => (s.core c).gangSize * s.threadCount c

/-- Applies a function to the barrier that the contexts of a core meet at. -/
def State.modBarrier (s : State) (c : Nat) (k : BarKind) (f : Barrier → Barrier) : State :=
  match k, s.taskOf c with
  | .gang, some t => s.modPart (s.tilePart c) (fun p => p.modTask t.id (fun t => { t with gbar := f t.gbar }))
  | _, _ => s.modCore c (fun k => { k with bar := f k.bar })

/-- Counts an arrival; the last one of the width starts the next generation. -/
def Barrier.arrive (b : Barrier) (idx width : Nat) : Barrier :=
  if width ≤ b.arrived.length + 1 then { b with gen := b.gen + 1, arrived := [] } else { b with arrived := b.arrived ++ [idx] }

/-- BAR: a release, the arrival, the wait, an acquire (R89, R90). -/
def execBar (g : Guard) (sc : BarScope) (s : State) : Outcome :=
  s.run (.bar g sc) 8 g [] (fun s =>
    let c := s.cur.1
    let k := barKind sc
    let wait (s : State) (gen : Nat) : Res :=
      let b := s.barrierOf c k
      if gen < b.gen then .done (s.acquire c (barScope sc))
      else match b.aborted with
        | some r => .trap Cause.barrierAborted (w64 r.1) (w64 r.2) s
        | none => .park (.barrier k gen) s
    if s.out then wait s s.me.phase.val.toNat
    else match (s.barrierOf c k).refused with
      | some r => .trap Cause.barrierAborted (w64 r.1) (w64 r.2) s
      | none => s.release (barScope sc) (fun s =>
        let gen := (s.barrierOf c k).gen
        let s := s.modBarrier c k (fun b => b.arrive (s.gangWide c s.cur.2) (s.barWidth c k))
        wait (s.modMe (fun t => { t with phase := ⟨4, 0, [], [], w64 gen, none, []⟩ })) gen))

/-! ### FEMPTY, FFULL, FTEST (R91) -/

/-- Sets the bit of a register, after a plain write pending to it has landed. -/
def State.setBitOf (s : State) (a : PlainGF) (b : Bool) : Res :=
  match a with
  | .f n => .done (s.setFullF n.toNat b)
  | .g n => if s.pending n.toNat then .park (.mods [⟨false, n.toNat, .landed⟩]) s else .done (s.setFullG n.toNat b)

def execFempty (g : Guard) (a : PlainGF) (s : State) : Outcome := s.run (.fempty g a) 8 g [] (fun s => s.setBitOf a false)
def execFfull (g : Guard) (a : PlainGF) (s : State) : Outcome := s.run (.ffull g a) 8 g [] (fun s => s.setBitOf a true)

/-- FTEST (R91). -/
def execFtest (g : Guard) (d : PReg) (a : PlainGF) (s : State) : Outcome :=
  s.run (.ftest g d a) 8 g [] (fun s => .done (s.putP d (match a with
    | .f n => (tget FVal.zero s.me.f n.toNat).full
    | .g n => (s.gval n.toNat).full)))

/-! ### Work lists (R31, R32, R92 to R94) -/

/-- W: entries held and entries sent and not yet received (R31). -/
def Core.wcount (k : Core) : Nat := k.wl.length + (k.wlSent.flatMap (fun e => e.2)).length

/-- WPUSH (R92). -/
def execWpush (g : Guard) (a : GReg) (s : State) : Outcome :=
  s.run (.wpush g a) 8 g [.src a] (fun s =>
    if 256 ≤ s.myCore.wcount then .trap Cause.worklistFull (s.g a) 256 s
    else .done (s.modMyCore (fun k => { k with wl := k.wl ++ [s.g a] })))

/-- WTAKE (R93). -/
def execWtake (g : Guard) (d : GReg) (k : BitVec 3) (s : State) : Outcome :=
  s.run (.wtake g d k) 8 g [.dst d] (fun s =>
    match s.myCore.wl with
    | [] => .done (s.putP k false)
    | w :: ws => .done (((s.modMyCore (fun k => { k with wl := ws })).putG d w).putP k true))

/-- WCOUNT (R94). -/
def execWcount (g : Guard) (d : GReg) (s : State) : Outcome :=
  s.run (.wcount g d) 8 g [.dst d] (fun s => .done (s.putG d (w64 s.myCore.wcount)))

/-- The tiles beside a tile in the mesh of its die (R25). -/
def neighbours (c : Nat) : List Nat :=
  let d := c / 288 * 288
  let r := c % 288 / 16
  let q := c % 16
  (if r = 0 then [] else [c - 16]) ++ (if r = 17 then [] else [c + 16]) ++ (if q = 0 then [] else [d + r * 16 + q - 1]) ++
    (if q = 15 then [] else [c + 1])

/-- The neighbour of the gang with the smallest count, the lowest GANGIDX of equals (R32). -/
def State.leastLoaded (s : State) (c : Nat) : Option Nat :=
  let ns := sortBy (fun n => (s.core n).gangIdx) ((neighbours c).filter (fun n => (s.gangCores c).contains n))
  (sortBy (fun n => (s.core n).wl.length) ns).head?

/-- LEVELLING_STEP (R32). -/
def execLevellingStep (c : Nat) (s : State) : Outcome :=
  let k := s.core c
  if k.tstate ≠ .bound ∨ k.cycle < k.lvlNext then .next s
  else
    let s := s.modCore c (fun k => { k with lvlNext := k.lvlNext + 4096 })
    match s.leastLoaded c with
    | none => .next s
    | some n =>
      let gap := k.wl.length - (s.core n).wl.length
      if gap < 2 then .next s
      else
        let keep := k.wl.length - Nat.min 16 (gap / 2)
        .next (s.modCore c (fun k => { k with wl := k.wl.take keep, wlSent := k.wlSent ++ [(n, k.wl.drop keep)] }))

/-- LEVELLING_RECEIVE: the k-th move that a tile has sent is taken as far as there is room; the rest returns (R32). -/
def execLevellingReceive (c k : Nat) (s : State) : Outcome :=
  match ((s.core c).wlSent)[k]? with
  | none => .next s
  | some (n, ws) =>
    let room := 256 - (s.core n).wcount
    let s := s.modCore c (fun t => { t with wlSent := dropAt t.wlSent k, wl := t.wl ++ ws.drop room })
    .next (s.modCore n (fun t => { t with wl := t.wl ++ ws.take room }))

end Sys2Proof.Machine
end

