-- ==== Sys2Proof/Machine/Csr.lean ====
section
/-!
DEFINITION. The control registers: what each reads, who may access it, what a write changes (R4, R98, R100, R207, R246, R256 to R258, R281,
R312, R318, R324, R357, R358, R376).
-/

namespace Sys2Proof.Machine

/-! ### Reading (R256) -/

/-- MQSTAT and MBATCH (R207). -/
def Core.mqstat (k : Core) : Word :=
  w64 (k.mq.length + k.mqPos * 2 ^ 5 + k.closed.length * 2 ^ 9 + b2n (k.mqOpen != 0) * 2 ^ 12 +
    ((List.range 8).foldl (fun m n => if (k.accBusy n).isSome then m + 2 ^ n else m) 0) * 2 ^ 16)
def Core.mbatch (k : Core) : Word := w64 (k.nextBatch.toNat * 2 ^ 32 + k.lastBatch.toNat)

/-- COPYOCC (R281). -/
def State.copyOcc (s : State) (c : Nat) : Word :=
  let q := (s.core c).fifo
  w64 (q.length + 16 * b2n (q.any (fun e => !e.started && e.status.isNone && !s.unheld c e)))

/-- The roles of a partition that a task holds under a running lease, by number and expiry. -/
def Part.leased (p : Part) (now task : Nat) : List (Nat × Nat) :=
  p.roles.filterMap (fun r => if r.runs now && r.holder == some task then r.expiry.map (fun e => (r.num, e)) else none)

/-- LEASES (R324): of equal expiries the lowest role number. -/
def State.leases (s : State) (c : Nat) : Word :=
  let ls := sortBy (fun l => l.2) (sortBy (fun l => l.1) ((s.part (s.tilePart c)).leased s.gtime.toNat (s.core c).taskId))
  match ls with
  | [] => 0
  | l :: _ => w64 (l.1 * 2 ^ 32 + 2 ^ 16 + ls.length)

/-- STACKOWN (R256). -/
def State.stackOwn (s : State) : Word := w64 ((List.range 8).foldl (fun m n => m + b2n (s.stack n).own * 2 ^ n) 0)

/-- A window register with its route bit, which follows STACKOWN (R357): a couch switches it at step 4 (R341). -/
def State.deckleRead (s : State) (p w : Nat) : Word :=
  let v := tget 0 (s.part p).deckle w
  if (s.stack (fld v 55 53)).route then setBit v 56 else clearBit v 56

/-- CKPTCTL: the fields last written, the number and bit 10 of now (R376). -/
def Part.ckptRead (p : Part) : Word := (p.ckptNext &&& 0xFF00037F) ||| (p.ckptctl &&& 0xFFFFFFFF00000400)

/-- The value of a register for a context (R256). TILEID, GANGIDX, GANGSIZE, TASKID and ARGS of an Atelier core have no value. -/
def State.csr (s : State) (c x n : Nat) : Word :=
  let k := s.core c
  let t := k.ctx x
  let p := s.partOf c x
  let tile (v : Nat) : Word := if isAtelier c then freeWord s.freeCtr (700 + n) else w64 v
  match n with
  | 0x000 => w64 x
  | 0x001 => tile c
  | 0x002 => tile k.gangIdx
  | 0x003 => tile k.gangSize
  | 0x004 => tile k.taskId
  | 0x005 => tile k.args.toNat
  | 0x006 => s.gtime
  | 0x007 => w64 p
  | 0x008 => s.devnum.setWidth 64
  | 0x010 => t.tcause
  | 0x011 => t.tval
  | 0x012 => t.tepc
  | 0x013 => t.tvec
  | 0x014 => t.tstat
  | 0x015 => t.tdeleg
  | 0x020 => t.fpctl
  | 0x021 => t.fpflags
  | 0x022 => t.sigmin
  | 0x023 => t.siglanes
  | 0x030 => k.split.setWidth 64
  | 0x031 => w64 (b2n k.pool)
  | 0x032 => k.mqstat
  | 0x033 => k.mbatch
  | 0x040 => t.xferid
  | 0x041 => t.xferstat
  | 0x043 => s.copyOcc c
  | 0x050 => k.notices.head?.elim 0 (fun e => e.1)
  | 0x051 => s.leases c
  | 0x060 => w64 t.rfcount
  | 0x070 => w64 k.wcount
  | 0x100 => (s.part p).svcvec
  | 0x101 => s.stackOwn
  | 0x102 => (s.part p).stackright.setWidth 64
  | 0x103 => (s.part p).ckptRead
  | 0x104 => (s.part p).censusNext
  | 0x105 => t.dbgctl
  | 0x108 => t.hcause
  | 0x109 => t.hval
  | 0x10A => t.hepc
  | 0x10B => t.hstat
  | _ => if 0x110 ≤ n ∧ n ≤ 0x11F then s.deckleRead p (n - 0x110) else 0

/-! ### Who may access (R251, R256) -/

/-- A register that only the supervisor reads. -/
def csrSup (n : Nat) : Bool := decide (0x100 ≤ n)
/-- A register that only the supervisor writes, though every mode reads it. -/
def csrSupWrite (n : Nat) : Bool := n == 0x015
/-- A register that only the Atelier writes. -/
def csrAtelier (n : Nat) : Bool := n == 0x100 || n == 0x102 || n == 0x103 || n == 0x104 || (decide (0x110 ≤ n) && decide (n ≤ 0x11F))

/-- The PRIVILEGED cause of a read. -/
def State.csrReadTrap (s : State) (n : Nat) : Option Trap :=
  failIf (csrSup n && !s.isSup s.cur.1 s.cur.2) (some ⟨Cause.privileged, w64 n, 1⟩)

/-- The PRIVILEGED cause of a write: supervisor mode first, then the Atelier. -/
def State.csrWriteTrap (s : State) (n : Nat) : Option Trap :=
  orTrap (failIf ((csrSup n || csrSupWrite n) && !s.isSup s.cur.1 s.cur.2) (some ⟨Cause.privileged, w64 n, 1⟩))
    (failIf (csrAtelier n && !isAtelier s.cur.1) (some ⟨Cause.privileged, w64 n, 3⟩))

/-- CLOCK_UNSYNC of a read of GTIME (R250). -/
def State.clockTrap (s : State) (n : Nat) : Option Trap :=
  if n = 0x006 then
    orTrap (failIf (!s.pkgSync) (some ⟨Cause.clockUnsync, s.gtime, 1⟩)) (failIf (!s.domSync) (some ⟨Cause.clockUnsync, s.gtime, 2⟩))
  else none

/-! ### Writing (R4, R246, R256) -/

/-- Bits of TDELEG that read 1 (R246). -/
def tdelegFixed : Word := 0x6080000000008200

/-- Fields of TCAUSE and HCAUSE (R247). -/
def causeMask : Word := 0x33F3F

/-- Writes DBGCTL: a new halt request posts DEBUG_HALT, a cleared one withdraws it (R258). -/
def Ctx.setDbg (t : Ctx) (v : Word) : Ctx :=
  let v := v &&& 3
  let others := t.events.filter (fun e => decide (e.code ≠ Cause.debugHalt))
  let events := if bit v 1 then (if bit t.dbgctl 1 then t.events else t.events ++ [.plain Cause.debugHalt 0 0]) else others
  { t with dbgctl := v, events := events }

/-- The fields of CENSUSCTL (R318) and those of CKPTCTL that are written (R376). -/
def censusMask : Word := 0x1FFFFFFFFFF
def ckptMask : Word := 0xFF00037F

/-- The zero fields and the route bit of a window register (R357). -/
def deckleMask : Word := 0xC0FFBFFFFF800000

/-- Whether a range meets that of a valid window. -/
def Window.overlaps (a b : Window) : Bool := a.valid && meets a.base a.len b.base b.len

/-- Whether a write of v to window w of a partition is discarded (R358). -/
def Part.deckleRefused (p : Part) (w : Nat) (v : Word) : Bool :=
  let old := tget 0 p.deckle w
  let n := windowOf v
  (n.valid && !p.hasHalf n.half) || decide (2 ^ 35 < n.off + n.len) || decide (2 ^ 48 < n.base + n.len) ||
    (List.range 16).any (fun i => i != w && (windowOf (tget 0 p.deckle i)).overlaps n) ||
    (bit old 63 && (old &&& deckleMask &&& 0x3FFFFFFFFFFFFFFF) != (v &&& deckleMask &&& 0x3FFFFFFFFFFFFFFF))

/-- A line that was left cached under a range which a window maps again: its bytes are free values (R358; DESIGN CHOICE, log 2). -/
def Line.remapped (l : Line) (ctr core : Nat) : Line :=
  { l with data := tabulate 64 (fun i => (Config.freeBits ctr (2 ^ 48 * core + 64 * (l.line % 2 ^ 42) + i)).setWidth 8) }

/-- The lines of a partition's caches under a range that is mapped again. -/
def State.remap (s : State) (p base len : Nat) : State :=
  { s.freeNext with cores := s.cores.map (fun e => if s.tilePart e.1 = p then
      (e.1, { e.2 with cache := e.2.cache.map (fun l => if meets base len (64 * l.line) 64 then l.remapped s.freeCtr e.1 else l) }) else e) }

/-- Writes window w of a partition: the interval cannot be rolled back (R358, R379). -/
def State.deckleWrite (s : State) (p w : Nat) (v : Word) : State :=
  if (s.part p).deckleRefused w v then s
  else
    let n := windowOf v
    let s := if n.valid && !bit (tget 0 (s.part p).deckle w) 63 then s.remap p n.base n.len else s
    (s.modPart p (fun q => { q with deckle := tput q.deckle w (v &&& deckleMask) })).noRollback p

/-- Whether a write clears V of a window. -/
def State.deckleClears (s : State) (p w : Nat) (v : Word) : Bool :=
  bit (tget 0 (s.part p).deckle w) 63 && !bit v 63 && !(s.part p).deckleRefused w v

/-- Writes a register, SPLIT apart; read-only ones stay. A write of TDELEG by the Atelier also sets the partition's default (R246). -/
def State.csrWrite (s : State) (c x n : Nat) (v : Word) : State :=
  let p := s.partOf c x
  let ctx (f : Ctx → Ctx) : State := s.modCtx c x f
  match n with
  | 0x010 => ctx (fun t => { t with tcause := v &&& causeMask })
  | 0x011 => ctx (fun t => { t with tval := v })
  | 0x012 => ctx (fun t => { t with tepc := v })
  | 0x013 => ctx (fun t => { t with tvec := v &&& ~~~3 })
  | 0x014 => ctx (fun t => { t with tstat := v })
  | 0x015 =>
    let s := ctx (fun t => { t with tdeleg := v ||| tdelegFixed })
    if isAtelier c then s.modPart p (fun q => { q with tdeleg := v ||| tdelegFixed }) else s
  | 0x020 => ctx (fun t => { t with fpctl := v &&& 0x1FF })
  | 0x021 => ctx (fun t => { t with fpflags := v &&& 0x1F })
  | 0x022 => ctx (fun t => { t with sigmin := v &&& 0x3F })
  | 0x023 => ctx (fun t => { t with siglanes := v &&& 0xFFFFFFFF })
  | 0x100 => s.modPart p (fun q => { q with svcvec := v &&& ~~~3 })
  | 0x102 => (s.modPart p (fun q => { q with stackright := v.setWidth 8 })).noRollback p
  | 0x103 => s.modPart p (fun q => { q with ckptNext := v &&& ckptMask })
  | 0x104 => s.modPart p (fun q => { q with censusNext := v &&& censusMask })
  | 0x105 => ctx (fun t => t.setDbg v)
  | 0x108 => ctx (fun t => { t with hcause := v &&& causeMask })
  | 0x109 => ctx (fun t => { t with hval := v })
  | 0x10A => ctx (fun t => { t with hepc := v })
  | 0x10B => ctx (fun t => { t with hstat := v })
  | _ => if 0x110 ≤ n ∧ n ≤ 0x11F then s.deckleWrite p (n - 0x110) v else s

/-! ### SPLIT (R98 to R100) -/

/-- The offsets that a change between two split codes converts. -/
def splitLow (a b : BitVec 2) : Nat := Nat.min (scratchOf a) (scratchOf b)
def splitHigh (a b : BitVec 2) : Nat := Nat.max (scratchOf a) (scratchOf b)

/-- Whether ranges of store bytes meet the converted banks. -/
def inBanks (a b : BitVec 2) (rs : List (Nat × Nat)) : Bool := rs.any (fun r => meets r.1 r.2 (splitLow a b) (splitHigh a b - splitLow a b))

/-- SPLIT_CONFLICT of a change to a code (R100 step 1). TVAL has every bit of the value as the instruction computed it, the register's zero
fields among them (DESIGN CHOICE, log 74). -/
def Core.splitTrap (k : Core) (code : BitVec 2) (v : Word) : Option Trap :=
  let shrink := decide (scratchOf code < scratchOf k.split)
  let t (n : Nat) : Option Trap := some ⟨Cause.splitConflict, v, w64 n⟩
  orTrap (failIf (shrink && inBanks k.split code k.pins) (t 1))
    (orTrap (failIf (shrink && k.mq.any (fun q => inBanks k.split code q.op.reads)) (t 2)) (failIf (k.pool && code == 0) (t 3)))

/-- Bytes of a copy command of core c on the store of core d, of address and length. -/
def State.rangesOn (s : State) (c d : Nat) (rs : List (Word × Nat)) : List (Nat × Nat) :=
  rs.filterMap (fun r => if fld r.1 63 60 = 0xE ∧ s.gangTile c (fld r.1 59 48) = some d then some (fld r.1 20 0, r.2) else none)

/-- The base of the indexed elements with the bytes of one (R273; DEDUCED, log 50). -/
def CopyCmd.indexed (q : CopyCmd) : List (Word × Nat) :=
  match ctlMode q.ctl with
  | .gather => [(q.src, shapeElem q.shape)]
  | .scatter => [(q.dst, shapeElem q.shape)]
  | _ => []

/-- The source and the destination of a copy command of core c on the store of core d. -/
def State.copyOn (s : State) (c d : Nat) (q : CopyCmd) : List (Nat × Nat) :=
  let m := ctlMode q.ctl
  s.rangesOn c d (srcRows q.src q.shape m ++ dstRows q.dst q.shape m ++ q.indexed)

/-- Whether a copy of core c that has started may touch converted banks of core d: its checked ranges, its parameter block or its index list
lie there, or its indexed elements lie on that store at all (R100 step 3). -/
def State.copyMay (s : State) (c d : Nat) (old code : BitVec 2) (q : CopyCmd) : Bool :=
  q.started && (inBanks old code (s.copyOn c d q) ||
    (ctlHasBlock q.ctl && c == d && inBanks old code [(ctlBlock q.ctl, 64)]) || !(s.rangesOn c d q.indexed).isEmpty ||
    ((ctlMode q.ctl).indexed && inBanks old code (s.rangesOn c d [(q.ilist, 4 * shapeCount q.shape)])))

/-- Begins a change: gang tiles take the new code, all of them at this turn (DESIGN CHOICE, log 74); started copies that may touch the
converted banks run on as without it; queued ones that lie there end with code 4 (R100 steps 2 to 4). -/
def State.splitBegin (s : State) (c x : Nat) (code : BitVec 2) : State :=
  let old := (s.core c).split
  let s := (s.gangCores c).foldl (fun s g => s.modCore g (fun k =>
    { k with fifo := k.fifo.map (fun q =>
        if s.copyMay g c old code q then { q with exempt := q.exempt ++ [c] }
        else if !q.started && q.status.isNone && inBanks old code (s.copyOn g c q) then { q with status := some (copyStatus 4 0) } else q) })) s
  s.modCore c (fun k => { k with splitSeen := code, splitChange := some ⟨code, x, []⟩ })

/-- Whether accesses already in flight into the converted banks are left (R100 step 3). -/
def State.splitBusy (s : State) (c : Nat) (code : BitVec 2) : Bool :=
  let old := (s.core c).split
  (s.gangCores c).any (fun g => (s.core g).fifo.any (fun q => q.exempt.contains c)) ||
  (decide (scratchOf code < scratchOf old) &&
   (s.net.any (fun m => m.kind.store? == some c && (inBanks old code (m.bytes.map (fun b => (b.1, 1))))) ||
    (s.core c).mq.any (fun q => inBanks old code (q.op.reads ++ q.op.stores))))

/-- Whether requests to the cache portion, or lines on their way to it, are left. -/
def State.portionBusy (s : State) (c : Nat) : Bool :=
  let fetch (m : Msg) : Bool := m.core == c && (match m.kind with
    | .fetch _ _ => true
    | _ => false)
  s.net.any (fun m => m.kind.cache? == some c) || s.inFlight.any fetch || s.dies.any (fun d => d.2.inbox.any (fun u => u.reply.any fetch))

/-- The new code takes effect: the converted banks hold nothing, and read as zero as scratch (R100 step 6). -/
def Core.splitEnd (k : Core) (code : BitVec 2) : Core :=
  let low := splitLow k.split code
  { k with
    store := k.store.filter (fun b => decide (b.1 < low))
    storePoison := k.storePoison.filter (fun p => decide (64 * p < low))
    split := code
    splitSeen := code
    splitChange := none }

/-- SPLIT_WRITE: the steps of a change after its first two: the accesses in flight complete, the lines of the portion are written back
and discarded, and when the write-backs are applied the code takes effect (R100). -/
def execSplitWrite (c : Nat) (s : State) : Outcome :=
  match (s.core c).splitChange with
  | none => .next s
  | some ch =>
    if s.splitBusy c ch.code || s.portionBusy c then .next s
    else if !(s.core c).cache.isEmpty then
      let s := (s.writeBack c (fun _ => true)).discard c (fun _ => true)
      .next (s.modCore c (fun k => { k with splitChange := some { ch with
        marks := (s.unfinished c).filterMap (fun m => if m.kind.isWb && m.core == c then some m.id else none) } }))
    else if (s.unfinished c).any (fun m => ch.marks.contains m.id) then .next s
    else .next (s.modCore c (fun k => k.splitEnd ch.code))

/-- DECKLE_WRITE (R358). -/
def execDeckleWrite (p w : Nat) (v : Word) (s : State) : Outcome := .next (if w < 16 then s.deckleWrite p w v else s)

/-- DBGCTL_WRITE: the read-back port (R258, R392). -/
def execDbgctlWrite (c x : Nat) (v : Word) (s : State) : Outcome := .next (s.modCtx c x (fun t => t.setDbg v))

/-! ### The CSR instructions (R257) -/

/-- CSRR. -/
def execCsrr (g : Guard) (d : GReg) (num : BitVec 12) (s : State) : Outcome :=
  s.run (.csrr g d num) 8 g [.dst d] (fun s =>
    match orTrap (s.csrReadTrap num.toNat) (s.clockTrap num.toNat) with
    | some t => .raise s t
    | none => .done (s.putG d (s.csr s.cur.1 s.cur.2 num.toNat)))

/-- A write of SPLIT: no effect where the code stays, otherwise the change of R100, the writer parked until it is over. Another thread's write
while a change is under way waits until it is over (DESIGN CHOICE, log 74). -/
def State.splitCsr (s : State) (d : GReg) (v : Word) : Res :=
  let code : BitVec 2 := v.setWidth 2
  let k := s.myCore
  if s.out then
    (if k.splitChange.isNone then .done (s.putG d s.me.phase.val) else .park .split s)
  else if isAtelier s.cur.1 then .done (s.putG d (k.split.setWidth 64))
  else if k.splitChange.isSome then .park .split s
  else if code = k.split then .done (s.putG d (k.split.setWidth 64))
  else match k.splitTrap code v with
    | some t => .raise s t
    | none =>
      .park .split ((s.splitBegin s.cur.1 s.cur.2 code).modMe (fun t => { t with phase := { t.phase with step := 4, val := k.split.setWidth 64 } }))

/-- A write of a window register: the writer of a cleared V parks until the accesses through the window have completed. -/
def State.deckleCsr (s : State) (d : GReg) (w : Nat) (v : Word) : Res :=
  let p := s.myPart
  if s.out then
    (if s.waitOk s.cur.1 s.cur.2 (.deckle p w) then .done (s.putG d s.me.phase.val) else .park (.deckle p w) s)
  else
    let old := s.deckleRead p w
    let clears := s.deckleClears p w v
    let s := s.deckleWrite p w v
    if clears then
      let s := s.modMe (fun t => { t with phase := { t.phase with step := 4, val := old } })
      if s.waitOk s.cur.1 s.cur.2 (.deckle p w) then .done (s.putG d old) else .park (.deckle p w) s
    else .done (s.putG d old)

/-- CSRW, CSRS and CSRC, given the new value that the old one makes. -/
def State.csrMod (s : State) (d : GReg) (n : Nat) (new : Word → Word) : Res :=
  match s.csrWriteTrap n with
  | some t => .raise s t
  | none =>
    let old := s.csr s.cur.1 s.cur.2 n
    if n = 0x030 then s.splitCsr d (new old)
    else if 0x110 ≤ n ∧ n ≤ 0x11F then s.deckleCsr d (n - 0x110) (new old)
    else .done ((s.csrWrite s.cur.1 s.cur.2 n (new old)).putG d old)

/-- CSRW. -/
def execCsrw (g : Guard) (d a : GReg) (num : BitVec 12) (s : State) : Outcome :=
  s.run (.csrw g d a num) 8 g [.dst d, .src a] (fun s => s.csrMod d num.toNat (fun _ => s.g a))

/-- CSRS. -/
def execCsrs (g : Guard) (d a : GReg) (num : BitVec 12) (s : State) : Outcome :=
  s.run (.csrs g d a num) 8 g [.dst d, .src a] (fun s => s.csrMod d num.toNat (fun old => old ||| s.g a))

/-- CSRC. -/
def execCsrc (g : Guard) (d a : GReg) (num : BitVec 12) (s : State) : Outcome :=
  s.run (.csrc g d a num) 8 g [.dst d, .src a] (fun s => s.csrMod d num.toNat (fun old => old &&& ~~~(s.g a)))

end Sys2Proof.Machine
end

