-- ==== Sys2Proof/Machine/Roles.lean ====
section
/-!
DEFINITION. Row 14: signals, leases, role queries and requests, notices, couches (R305 to R309, R332 to R344).
-/

namespace Sys2Proof.Machine

/-! ### Fills and events of other agents (R331, R336, R343) -/

/-- Bytes of the signal area, as the header of the system area gives them (R359). -/
def Part.signalLen (p : Part) : Nat := ofBytes (p.sys.readN 0x1010 8)

/-- Whether the signal area has room for one entry more (R331). -/
def Part.holdRoom (p : Part) : Bool := decide (p.held.length < Config.holdRoom p.signalLen)

/-- Holds a fill or an event for a gang that is switched out. None: the area is full. -/
def State.holdFor (s : State) (h : HeldFill) : Option State :=
  if (s.part h.to_.part).holdRoom then some (s.modPart h.to_.part (fun p => { p with held := p.held ++ [h] })) else none

/-- A fill of an agent's register: applied, discarded where the context has no thread, held where the gang is switched out. None: it must
wait. -/
def State.fillAgent (s : State) (a : Agent) (reg : Nat) (v : Word) (sig : Bool) : Option State :=
  match s.seat a with
  | some c => some (s.fill c a.ctx reg v)
  | none => if s.away a then s.holdFor ⟨a, some reg, v, none, sig⟩ else some s

/-- An event of an agent, held where the gang is switched out. None: it must wait. -/
def State.eventAgent (s : State) (a : Agent) (e : Ev) : Option State :=
  match s.seat a with
  | some c => some (s.post c a.ctx e)
  | none => if s.away a then s.holdFor ⟨a, none, 0, some e, false⟩ else some s

/-! ### SIGNAL (R332 to R335) -/

/-- Fields of a target word (R333). -/
def sigTask (a : Word) : Nat := fld a 63 32
def sigTile (a : Word) : Nat := fld a 29 18
def sigCtx (a : Word) : Nat := fld a 13 10
def sigReg (a : Word) : Nat := fld a 9 4
def sigReach (a : Word) : Nat := fld a 1 0

/-- The zero fields, the reach and the register number of a target word. -/
def sigWordOk (a : Word) : Bool :=
  fld a 31 30 == 0 && fld a 17 14 == 0 && fld a 3 2 == 0 && sigReach a != 3 && decide (sigReg a ≤ 47)

/-- The TSTAT of the first check of R334 that fails. -/
def State.signalFail (s : State) (a c : Word) : Option Nat :=
  let near := sigReach a != 2
  if !sigWordOk a then some 1
  else if (sigReach a = 0 ∧ sigTile a ≠ 0xFFF) ∨ (near ∧ sigTask a ≠ 0) ∨ (!near ∧ sigTask a = 0) then some 2
  else if (sigReach a = 1 ∧ sigTile a ≠ 0xFFF ∧ s.myCore.gangSize ≤ sigTile a) ∨ (near ∧ s.threadCount s.cur.1 ≤ sigCtx a) then some 3
  else if (near ∧ c ≠ 0) ∨ (!near ∧ fld c 63 14 ≠ 0) then some 4
  else none

/-- Runs an instruction whose effect ends with a fill of a register of the issuer itself: the consumed registers are emptied before that
effect, since the fill comes after the issue cycle's reads (R29, R335). -/
def State.runFill (s : State) (i : Instr) (size : Nat) (g : Guard) (os : List Opnd) (eff : State → Res) : Outcome :=
  if s.guard g then
    if s.modsOk (condsOf os) then .next (s.finish i size [] (eff s))
    else .next (s.parkOn i (.mods (condsOf os)))
  else .next (s.complete s (s.me.pc + w64 size))

/-- The effect of a SIGNAL whose checks have passed, with the operands read at its issue (R335). -/
def State.signal (s : State) (os : List Opnd) (w v c : Word) : Res :=
  match sigReach w with
  | 0 => s.release .tile (fun s => .done ((s.consumeAll os).fill s.cur.1 (sigCtx w) (sigReg w) v))
  | 1 =>
    s.release .gang (fun s =>
      let t := (s.gangTile s.cur.1 (sigTile w)).getD s.cur.1
      ((s.sendTile s.msgCtr (.fill t (sigCtx w) (sigReg w) v) 0 []).sent 4 [s.msgCtr] [w.toNat]).collect
        (fun s _ => .done (s.consumeAll os)))
  | _ =>
    let s := (s.sendDomain c.toNat 0 (.signal w v)).modMe (fun t => { t with rfcount := t.rfcount + 1 })
    .done (s.consumeAll os)

/-- SIGNAL (R335): the operands are those of the issue, also where the release or the other tile lets the thread park. -/
def execSignal (g : Guard) (a b c : GReg) (s : State) : Outcome :=
  let os : List Opnd := [.src a, .src b, .src c]
  s.runFill (.signal g a b c) 12 g os (fun s =>
    if s.out then s.collect (fun s _ => .done (s.consumeAll os))
    else if s.me.phase.step ≠ 0 then s.signal os (w64 (nth 0 s.me.phase.eas 0)) (w64 (nth 0 s.me.phase.eas 1)) 0
    else match s.signalFail (s.g a) (s.g c) with
      | some k => .trap Cause.boundCheck (s.g a) (w64 k) s
      | none => (s.sent 0 [] [(s.g a).toNat, (s.g b).toNat]).signal os (s.g a) (s.g b) (s.g c))

/-! ### Leases (R306, R338, R339) -/

/-- The TASKID under which the issuing core holds roles. -/
def State.myTask (s : State) : Nat := s.myCore.taskId

/-- Applies a function to a role of the issuer's partition. -/
def State.modRole (s : State) (n : Nat) (f : Role → Role) : State := s.modPart s.myPart (fun p => p.modRole n f)

/-- A request of the role map: BOUND_CHECK 1 on a nonzero A[63:16], then the operands go to the map, and the thread parks until it replies
(R28, R305). `k` has the role number, the second operand and GTIME in the issue cycle (R306). -/
def State.roleRequest (s : State) (a b : Word) (k : State → Nat → Word → Nat → Res) : Res :=
  if !s.out && fld a 63 16 != 0 then .trap Cause.boundCheck a 1 s
  else s.remote [fld a 15 0, b.toNat, s.now] (fun s ops => k s (nth 0 ops 0) (w64 (nth 0 ops 1)) (nth 0 ops 2))

/-- Whether a role is under a running lease of the issuing task. -/
def State.leasedMine (s : State) (r : Role) : Bool := r.runs s.now && r.holder == some s.myTask

/-- Whether an expiry tick is too near to a tick or too far from it (R306). -/
def badExpiry (now : Nat) (b : Word) : Bool := decide (b.toNat < now + 20000) || decide (now + 50000000 < b.toNat)

/-- The status of LEASE, issued at tick `now` (R306, R338). -/
def State.leaseStatus (s : State) (n : Nat) (b : Word) (now : Nat) : Nat :=
  match (s.part s.myPart).role n with
  | none => 1
  | some r =>
    if r.holder.isSome && r.holder != some s.myTask then 2
    else if s.leasedMine r then 4
    else if badExpiry now b then 3
    else if 64 ≤ ((s.part s.myPart).leased s.now s.myTask).length then 6
    else 0

/-- LEASE (R306, R338). -/
def execLease (g : Guard) (d a b : GReg) (warn : Bool) (s : State) : Outcome :=
  s.run (.lease g d a b warn) 8 g [.dst d, .src a, .src b] (fun s =>
    s.roleRequest (s.g a) (s.g b) (fun s n b now =>
      let st := s.leaseStatus n b now
      let t := if st = 0 then s.modRole n (fun r => { r with
        holder := some s.myTask, expiry := some b.toNat, warn := warn, warned := false, leaser := s.agent s.cur.1 s.cur.2 }) else s
      .done (t.putG d (w64 st))))

/-- The status of RENEW, issued at tick `now` (R306). -/
def State.renewStatus (s : State) (n : Nat) (b : Word) (now : Nat) : Nat :=
  match (s.part s.myPart).role n with
  | none => 5
  | some r => if !s.leasedMine r then 5 else if badExpiry now b then 3 else 0

/-- Ends a lease (R339). -/
def Role.endLease (r : Role) : Role := { r with expiry := none, warn := false, warned := false }

/-- A queue of events without those that warn of the running lease of role n, which are the ones raised since an earlier lease of the role expired
(R306, R339). -/
def withdrawn (n : Nat) : List Ev → List Ev
  | [] => []
  | e :: es =>
    if e.code == Cause.leaseExpiring && e.tval == w64 n && !es.any (fun x => x.code == Cause.leaseExpired && x.tval == w64 n) then withdrawn n es
    else e :: withdrawn n es

/-- The warnings of a role's running lease are withdrawn from the queue of its thread, from place k of the queue on (R339); those from the 17th on
count as not raised (R249). -/
def State.withdraw (s : State) (r : Role) (k : Nat) : State :=
  if r.runs s.now then s.modAgent r.leaser (fun t => { t with events := t.events.take k ++ withdrawn r.num (t.events.drop k) }) else s

/-- The warnings of a lease that have not been raised are withdrawn (R249, R306, R308). -/
def State.unraise (s : State) (r : Role) : State := s.withdraw r 16

/-- Moves the expiry of a lease: events not yet raised are scheduled again (R306). -/
def Role.renew (r : Role) (e : Nat) : Role := if r.expiry = some e then r else { r with expiry := some e, warned := false }

/-- The warnings that a renewal which moves the expiry withdraws (R306). -/
def State.renewing (s : State) (n : Nat) (b : Word) : State :=
  ((s.part s.myPart).role n).elim s (fun r => if r.expiry = some b.toNat then s else s.unraise r)

/-- RENEW (R306). -/
def execRenew (g : Guard) (d a b : GReg) (s : State) : Outcome :=
  s.run (.renew g d a b) 8 g [.dst d, .src a, .src b] (fun s =>
    s.roleRequest (s.g a) (s.g b) (fun s n b now =>
      let st := s.renewStatus n b now
      let t := if st = 0 then (s.renewing n b).modRole n (fun r => r.renew b.toNat) else s
      .done (t.putG d (w64 st))))

/-- Whether a request for a role is recorded and not yet acted on (R308). -/
def Role.pending (r : Role) : Bool := r.req.isSome

/-- The status of UNLEASE (R339). -/
def State.unleaseStatus (s : State) (n : Nat) (drop : Bool) : Nat :=
  match (s.part s.myPart).role n with
  | none => if drop then 6 else 5
  | some r =>
    if drop then (if r.holder ≠ some s.myTask then 6 else if r.pending then 7 else 0)
    else if s.leasedMine r then 0 else 5

/-- UNLEASE (R339). -/
def execUnlease (g : Guard) (d a : GReg) (drop : Bool) (s : State) : Outcome :=
  s.run (.unlease g d a drop) 8 g [.dst d, .src a] (fun s =>
    s.roleRequest (s.g a) 0 (fun s n _ _ =>
      let st := s.unleaseStatus n drop
      let w := ((s.part s.myPart).role n).elim s (fun r => s.withdraw r 0)
      let t := if st = 0 then w.modRole n (fun r => { r.endLease with holder := if drop then none else r.holder }) else s
      .done (t.putG d (w64 st))))

/-! ### ROLEQ, ROLEREQ, NOTEACK (R308, R309, R312) -/

/-- The entry word of a role as a task of a partition reads it; none for a reader that holds no role (R309, R317). -/
def State.roleWordOf (s : State) (p : Nat) (task : Option Nat) (n : Nat) : Word :=
  match (s.part p).role n with
  | none => 0
  | some r =>
    let mine := task.isSome && r.holder == task
    w64 ((if r.storage then 1 else 2) * 2 ^ 62 + b2n (r.runs s.now && mine) * 2 ^ 61 + b2n r.changing * 2 ^ 60 + r.refusals * 2 ^ 56 +
      r.tile.getD 0x7FF * 2 ^ 32 + b2n mine * 2 ^ 31)
def State.roleWord (s : State) (n : Nat) : Word := s.roleWordOf s.myPart (some s.myTask) n

/-- ROLEQ (R309). -/
def execRoleq (g : Guard) (d a : GReg) (s : State) : Outcome :=
  s.run (.roleq g d a) 8 g [.dst d, .src a] (fun s => s.roleRequest (s.g a) 0 (fun s n _ _ => .done (s.putG d (s.roleWord n))))

/-- The first census point at or after a tick. -/
def censusAfter (w : Word) (t : Nat) : Nat := (t + censusTicks w - 1) / censusTicks w * censusTicks w

/-- Whether a request word is one of R308. -/
def roleReqOk (b : Word) : Bool := fld b 63 32 == 0 && fld b 15 2 == 0 && (fld b 1 0 == 1 || fld b 1 0 == 2)

/-- The refusal of ROLEREQ. -/
def State.roleReqRefusal (s : State) (n : Nat) (b : Word) : Option Nat :=
  let p := s.part s.myPart
  let mine (r : Role) : Bool := r.holder == some s.myTask
  match p.role n with
  | none => some 1
  | some r =>
    if !mine r then some 1
    else if fld b 1 0 = 2 ∧ !(p.role (fld b 31 16)).any (fun m => m.storage && mine m) then some 2
    else if r.pending then some 3
    else none

/-- ROLEREQ (R308). -/
def execRolereq (g : Guard) (d a b : GReg) (s : State) : Outcome :=
  s.run (.rolereq g d a b) 8 g [.dst d, .src a, .src b] (fun s =>
    if !s.out && fld (s.g a) 63 16 == 0 && !roleReqOk (s.g b) then .trap Cause.boundCheck (s.g b) 2 s
    else s.roleRequest (s.g a) (s.g b) (fun s n w now =>
      match s.roleReqRefusal n w with
      | some k => .done (s.putG d (w64 (2 ^ 63 + k)))
      | none =>
        let c := censusAfter (s.part s.myPart).censusctl (now + 10000)
        .done ((s.modRole n (fun r => { r with req := some ⟨fld w 1 0, fld w 31 16, c⟩ })).putG d (w64 c))))

/-- NOTEACK (R312). -/
def execNoteack (g : Guard) (a : GReg) (s : State) : Outcome :=
  s.run (.noteack g a) 8 g [.src a] (fun s =>
    .done (s.modMyCore (fun k => { k with notices := k.notices.filter (fun e => decide (fld e.1 15 0 ≠ fld (s.g a) 15 0)) })))

/-! ### COUCH, COUCHS (R340, R343, R344) -/

/-- The status word of a couch (R343). -/
def State.couchStatus (s : State) (code n : Nat) : Word := w64 (code + n * 2 ^ 8 + b2n (s.stack n).own * 2 ^ 11)

/-- Delivers the status of a couch: the fill, or COUCH_DONE (R343). None: it must wait. -/
def State.couchDone (s : State) (a : Agent) (reg : Option Nat) (code n : Nat) : Option State :=
  match reg with
  | some r => s.fillAgent a r (s.couchStatus code n) false
  | none => s.eventAgent a (.plain Cause.couchDone (w64 n) (s.couchStatus code n))

/-- COUCH (R340). -/
def execCouch (g : Guard) (d a : GReg) (ev : Bool) (s : State) : Outcome :=
  let os : List Opnd := [.dst d, .src a]
  s.runFill (.couch g d a ev) 8 g os (fun s =>
    let n := (s.g a).toNat
    if 7 < n then .trap Cause.boundCheck (s.g a) 1 s
    else if !(s.part s.myPart).stackright.getLsbD n then .trap Cause.stackRight (s.g a) 0 s
    else
      let me := s.agent s.cur.1 s.cur.2
      let reg := if ev then none else some d.num.toNat
      let s := s.consumeAll os
      let s := if ev then s else s.setFullG d.num.toNat false
      if (s.stack n).couch.isSome then .done ((s.couchDone me reg 1 n).getD s)
      else .done (s.modStack n (fun k => { k with couch := some ⟨1, me, reg, s.msgCtr, []⟩ })))

/-- COUCHS (R344). -/
def execCouchs (g : Guard) (d a : GReg) (s : State) : Outcome :=
  s.run (.couchs g d a) 8 g [.dst d, .src a] (fun s =>
    let n := (s.g a).toNat
    if 7 < n then .trap Cause.boundCheck (s.g a) 1 s
    else
      let k := s.stack n
      .done (s.putG d (w64 (b2n ((s.part s.myPart).stackright.getLsbD n) * 2 ^ 5 + (k.couch.elim 0 (fun q => q.step)) * 2 ^ 2 +
        b2n k.couch.isSome * 2 + b2n k.own))))

end Sys2Proof.Machine
end

