-- ==== Sys2Proof/Machine/Census.lean ====
section
/-!
DEFINITION. Roles of tiles: the census, its proposals and offers, the changes it accepts, notices, lease events; and the steps of a couch
(R307, R308, R310 to R312, R315 to R327, R341 to R343).
-/

namespace Sys2Proof.Machine

/-! ### Notices (R312, R331) -/

/-- The notice word (R312). -/
def noticeWord (change role seq : Nat) : Word := w64 (2 ^ 63 + change * 2 ^ 56 + role * 2 ^ 32 + seq % 2 ^ 16)

/-- Posts a notice on a core: the queue of the tile and the event of context 0. -/
def Core.notify (k : Core) (change role tick : Nat) : Core :=
  let w := noticeWord change role k.nextNotice
  let k := { k with notices := k.notices ++ [(w, w64 tick)], nextNotice := k.nextNotice + 1 }
  let t := k.ctx 0
  if t.live then k.setCtx 0 { t with events := t.events ++ [.plain Cause.roleNotice w (w64 tick)] } else k

/-- Posts a notice on every tile of a task, bound or saved. -/
def State.notifyTask (s : State) (part task change role tick : Nat) : State :=
  match (s.part part).task task with
  | none => s
  | some t =>
    let s := t.tiles.foldl (fun s c => s.modCore c (fun k => k.notify change role tick)) s
    s.modPart part (fun p => p.modTask task (fun t => { t with saved := t.saved.map (fun k => k.notify change role tick) }))

/-- Posts a notice to the task that holds a role. -/
def State.notifyHolder (s : State) (part change tick : Nat) (r : Role) : State :=
  match r.holder with
  | none => s
  | some h => s.notifyTask part h change r.num tick

/-- The tiles that hold a task, bound or saved. -/
def State.taskCores (s : State) (part task : Nat) : List Core :=
  match (s.part part).task task with
  | none => []
  | some t => t.tiles.map s.core ++ t.saved

/-- Whether notices for roles would give a tile a seventeenth unacknowledged one (R321, outcome 4). -/
def State.noticesFull (s : State) (part : Nat) (rs : List Role) : Bool :=
  rs.any (fun r => r.holder.any (fun h =>
    (s.taskCores part h).any (fun k => decide (16 < k.notices.length + (rs.filter (fun q => q.holder = some h)).length))))

/-! ### Proposals (R319 to R321) -/

/-- A proposal word taken apart (R320). -/
def propAction (w : Word) : Nat := fld w 62 60
def propRole (w : Word) : Nat := fld w 47 32
def propDest (w : Word) : Nat := fld w 26 16
def propTile (w : Word) : Nat := fld w 10 0

/-- The storage role on a tile, and the routing role on it. -/
def TileState.storageRole : TileState → Option Nat
  | .storage r => some r
  | _ => none
def TileState.routingRole : TileState → Option Nat
  | .routing r => some r
  | _ => none
/-- The role a tile carries. -/
def TileState.role (t : TileState) : Option Nat := t.storageRole.orElse (fun _ => t.routingRole)

/-- The role numbers that a change names, and the tiles it will use beside its own. -/
def ChangeKind.roles : ChangeKind → List Nat
  | .idleToIdle => []
  | .absent r => [r]
  | .idleToRouting r => [r]
  | .idleToStorage r => [r]
  | .leaveStorage r _ next => r :: next.role.toList
  | .leaveRouting r next => r :: next.role.toList
def ChangeKind.dest : ChangeKind → Option Nat
  | .leaveStorage _ d _ => d
  | _ => none

/-- Whether a tile carries a change not yet complete: its own, one that brings a role to it, or one that takes its role (R321). -/
def State.changing (s : State) (p tile : Nat) : Bool :=
  let r := (s.core tile).tstate.role
  (s.part p).changes.any (fun c => c.tile == tile || c.kind.dest == some tile || r.any (fun n => c.kind.roles.contains n))

/-- Whether a change not yet complete names a role. -/
def Part.roleChanging (p : Part) (n : Nat) : Bool := p.changes.any (fun c => c.kind.roles.contains n)

/-- Whether a tile lies in a partition's bands. -/
def State.inBands (s : State) (p tile : Nat) : Bool := decide (tile < numTiles) && nbit (s.part p).bands.toNat (bandOf tile)

/-- Whether a tile is an idle compute tile of a partition that no change touches. -/
def State.idleTile (s : State) (p tile : Nat) : Bool := s.inBands p tile && (s.core tile).tstate == .idle && !s.changing p tile

/-- The destination of a storage role: the tile reserved for it, or the idle tile that the word names (R321). -/
def State.destOf (s : State) (p role dest : Nat) : Option Nat :=
  match (s.part p).reserves.find? (fun r => r.role = role && (s.core r.tile).tstate == .reserved && !s.changing p r.tile) with
  | some r => some r.tile
  | none => if s.idleTile p dest then some dest else none

/-- Whether a word is malformed (outcome 6). -/
def Part.malformed (p : Part) (w : Word) : Bool :=
  let n := propRole w
  decide (3 ≤ propAction w) || fld w 55 48 != 0 || fld w 31 27 != 0 || fld w 15 11 != 0 || (propAction w == 0 && n != 0) ||
    (propAction w == 1 && (p.role n).isSome) || (propAction w == 2 && (p.role n).any (fun r => !r.storage))

/-- The roles whose running lease refuses a word (outcome 2): the tile's present role and an existing role n. -/
def State.leaseBars (s : State) (p : Nat) (w : Word) : List Nat :=
  let here := (s.core (propTile w)).tstate.role.toList
  let n := if propAction w = 0 then [] else [propRole w]
  (dedup (here ++ n)).filter (fun r => ((s.part p).role r).any (fun e => e.runs s.now))

/-- Whether the tile's storage role is unbacked and has nowhere to go (outcome 3). -/
def State.strands (s : State) (p : Nat) (w : Word) : Bool :=
  (s.core (propTile w)).tstate.storageRole.any (fun r =>
    ((s.part p).role r).any (fun e => e.backing.isNone) && (s.destOf p r (propDest w)).isNone)

/-- The roles a word gives notice of, each with the change code: the tile's present role, and role n where it moves (R312, R322). -/
def State.propNotices (s : State) (p : Nat) (w : Word) : List (Role × Nat) :=
  let here := match (s.core (propTile w)).tstate with
    | .storage r => (((s.part p).role r).toList).map (fun e => (e, if (s.destOf p r (propDest w)).isSome then 1 else 2))
    | .routing r => (((s.part p).role r).toList).map (fun e => (e, 0))
    | _ => []
  here ++ (if propAction w = 2 then (((s.part p).role (propRole w)).toList).map (fun e => (e, 1)) else [])

/-- The state a tile has after an accepted word. -/
def propState (w : Word) : TileState :=
  match propAction w with
  | 1 => .routing (propRole w)
  | 2 => .storage (propRole w)
  | _ => .idle

/-- The outcome of a valid word; `left` recasts may still be accepted (R321). -/
def State.outcome (s : State) (p left : Nat) (w : Word) : Nat :=
  let t := propTile w
  if (s.part p).malformed w then 6
  else if !s.inBands p t || (s.core t).tstate == .retired || (s.core t).tstate == .reserved || s.changing p t then 5
  else if (s.core t).tstate == .bound then 1
  else if !(s.leaseBars p w).isEmpty then 2
  else if s.strands p w then 3
  else if left = 0 then 7
  else if s.noticesFull p ((s.propNotices p w).map (·.1)) then 4
  else 0

/-- The change of an accepted word. -/
def State.propKind (s : State) (p : Nat) (w : Word) : ChangeKind :=
  match (s.core (propTile w)).tstate with
  | .storage r => .leaveStorage r (s.destOf p r (propDest w)) (propState w)
  | .routing r => .leaveRouting r (propState w)
  | _ => match propState w with
    | .routing n => .idleToRouting n
    | .storage n => .idleToStorage n
    | _ => .idleToIdle

/-- Adds 1 to the refusals of roles, saturating at 15 (R307). -/
def Part.refuse (p : Part) (rs : List Nat) : Part :=
  rs.foldl (fun p n => p.modRole n (fun r => { r with refusals := Nat.min 15 (r.refusals + 1) })) p

/-- Records an accepted change with its notices (R312, R321). -/
def State.accept (s : State) (p tile tick : Nat) (kind : ChangeKind) (notes : List (Role × Nat)) : State :=
  let s := notes.foldl (fun (s : State) (n : Role × Nat) => (s.notifyHolder p n.2 tick n.1).modPart p (fun q => q.modRole n.1.num (fun r => { r with changing := true }))) s
  s.modPart p (fun q => { q with changes := q.changes ++ [Change.mk tile kind tick false none 0] })

/-- What the census has counted at a point: accepted, refused. -/
abbrev Tally := Nat × Nat

/-- The lead in ticks that a CENSUSCTL value sets, and the limit (R318). -/
def censusLead (w : Word) : Nat := 1000 * Nat.max 20 (fld w 31 16)
def censusLimit (w : Word) : Nat := fld w 39 32

/-- A proposal word of the partition's census area. -/
def Part.propAt (p : Part) (i : Nat) : Word := wordOf (p.sys.readN (64 + 8 * i) 8)

/-- Acts on proposal word i (R321). -/
def State.actOn (s : State) (p i : Nat) (n : Tally) : State × Tally :=
  let w := (s.part p).propAt i
  if !bit w 63 then (s, n)
  else
    let ctl := (s.part p).censusctl
    let o := s.outcome p (censusLimit ctl - n.1) w
    let bars := if o = 2 then s.leaseBars p w else if o = 3 then (s.core (propTile w)).tstate.storageRole.toList else []
    let keep := o == 4 || o == 7
    let word := w64 (b2n keep * 2 ^ 63 + fld w 62 60 * 2 ^ 60 + o * 2 ^ 56 + fld w 55 0)
    let s := s.modPart p (fun q => { q.refuse bars with sys := q.sys.writeN (64 + 8 * i) (toBytes 8 word.toNat) })
    if o = 0 then
      (s.accept p (propTile w) (s.now + censusLead ctl) (s.propKind p w) (s.propNotices p w), (n.1 + 1, n.2))
    else (s, if keep then n else (n.1, n.2 + 1))

/-! ### Offers (R308) -/

/-- Whether the offer of a role can be acted on: its point has come and nothing changes the role or its tile. -/
def State.offerDue (s : State) (p : Nat) (r : Role) : Bool :=
  r.req.any (fun q => decide (q.point ≤ s.now)) && !(s.part p).roleChanging r.num && !r.tile.any (fun t => s.changing p t) &&
    !s.noticesFull p [r]

/-- Acts on the offer of a role: the hold and lease end, the notice is posted, the change is recorded (R308). -/
def State.takeOffer (s : State) (p : Nat) (r : Role) (q : RoleReq) : State :=
  let tick := s.now + censusLead (s.part p).censusctl
  let next : TileState := if q.kind = 2 then .reserved else .idle
  let code := if r.storage then 2 else 0
  let kind : ChangeKind := if r.tile.isNone then .absent r.num else if r.storage then .leaveStorage r.num none next else .leaveRouting r.num next
  let s := s.accept p (r.tile.getD numTiles) tick kind [(r, code)]
  let s := match r.tile, r.holder with
    | some t, some h => if q.kind = 2 then s.modPart p (fun x => { x with reserves := x.reserves ++ [Reserve.mk t q.target h] }) else s
    | _, _ => s
  (s.unraise r).modPart p (fun x => x.modRole r.num (fun e => { e.endLease with holder := none, req := none }))

/-- Acts on the offers, lowest role number first, while the limit allows. -/
def State.takeOffers (s : State) (p : Nat) (n : Tally) : State × Tally :=
  (sortBy (fun r => r.num) (s.part p).roles).foldl (fun (x : State × Tally) r =>
    match r.req with
    | none => x
    | some q =>
      if x.1.offerDue p r ∧ x.2.1 < censusLimit (x.1.part p).censusctl then (x.1.takeOffer p r q, (x.2.1 + 1, x.2.2)) else x) (s, n)

/-! ### The census point (R307, R318, R319, R323) -/

/-- Tiles of a partition in a state. -/
def State.countTiles (s : State) (p : Nat) (f : TileState → Bool) : Nat :=
  ((List.range numTiles).filter (fun t => s.inBands p t && f (s.core t).tstate)).length

/-- A sum of ticks in units of 1,024, saturating (R319). -/
def waitUnits (n : Nat) : Nat := Nat.min (n / 1024) (2 ^ 64 - 1)

/-- The tile counts of the census record. -/
def State.tileCounts (s : State) (p : Nat) : Nat :=
  s.countTiles p (fun t => t == .idle) + s.countTiles p (fun t => t.storageRole.isSome) * 2 ^ 16 +
    s.countTiles p (fun t => t.routingRole.isSome) * 2 ^ 32 + s.countTiles p (fun t => t == .reserved) * 2 ^ 48

/-- The bytes of the census record (R319). The router occupancy is a free value of at most 65,536 (DESIGN CHOICE, log 17). -/
def State.censusRecord (s : State) (p c : Nat) (n : Tally) : List Byte :=
  let q := s.part p
  toBytes 8 c ++ toBytes 8 (waitUnits q.queueWait) ++ toBytes 8 (waitUnits q.storeWait) ++
    toBytes 8 ((freeWord s.freeCtr 900).toNat % 65537) ++ toBytes 8 (s.tileCounts p) ++ toBytes 8 (n.1 + n.2 * 2 ^ 32) ++ List.replicate 16 0

/-- CENSUS_POINT: the lease events of its tick come first, since the point reads the map as it stood before (R306, R323); CENSUSCTL as last
written takes effect; unless disabled, offers and then proposals are acted on, and the record is
written (R307, R318, R319, R321). -/
def execCensusPoint (p : Nat) (s : State) : Outcome :=
  if !s.censusDue p || (s.part p).roles.any (fun r => r.leaseTicks.any (fun t => decide (t ≤ s.now))) then .next s
  else
    let c := s.now
    let s := s.modPart p (fun q => { q with censusctl := q.censusNext, lastCensus := c })
    if !bit (s.part p).censusctl 40 then .next s
    else
      let counts := s
      let r := s.takeOffers p (0, 0)
      let r := (List.range 32).foldl (fun (x : State × Tally) i => x.1.actOn p i x.2) r
      .next ((r.1.modPart p (fun q => { q with
        sys := q.sys.writeN 0 (counts.censusRecord p c r.2), queueWait := 0, storeWait := 0 })).freeNext)

/-! ### Changes (R308, R310, R311, R322, R325, R326) -/

/-- Whether the role map of 2,048 entries has one for a role number (R316). -/
def Part.roleRoom (p : Part) (n : Nat) : Bool := decide ((p.roles.filter (fun e => decide (e.num ≠ n))).length < 2048)
/-- The role map with an entry added or replaced. -/
def Part.putRole (p : Part) (r : Role) : Part := { p with roles := p.roles.filter (fun e => decide (e.num ≠ r.num)) ++ [r] }
/-- The role map without an entry. -/
def Part.dropRole (p : Part) (n : Nat) : Part := { p with roles := p.roles.filter (fun e => decide (e.num ≠ n)) }

/-- A new entry: held by nobody, without a lease. -/
def Role.fresh (n : Nat) (storage : Bool) (tile backing : Option Nat) : Role :=
  ⟨n, storage, tile, backing, none, none, false, false, default, none, 0, false, false⟩

/-- Whether a tile is to be retired when it next falls idle (R374). -/
def Core.doomed (k : Core) : Bool := tget 0 k.faults 1 != 0

/-- Puts a tile into a state. -/
def State.setTile (s : State) (c : Nat) (t : TileState) : State :=
  s.modCore c (fun k => { k with tstate := if t == .idle && k.doomed then .retired else t })

/-- Stalls the lookups of a role (R311). -/
def State.stallRole (s : State) (p n : Nat) (b : Bool) : State := s.modPart p (fun q => q.modRole n (fun r => { r with stalled := b }))

/-- The end of change k as far as role n goes: what a further change of the role has posted or begun stands (R309, R311). -/
def State.settleRole (s : State) (p k n : Nat) : State :=
  let others := (dropAt (s.part p).changes k).filter (fun c => c.kind.roles.contains n)
  s.modPart p (fun q => q.modRole n (fun r => { r with stalled := others.any (fun c => c.begun), changing := !others.isEmpty }))

/-- Gives a tile its state after a drain or a flip. None where that state is reached at once; otherwise the change that goes on: a
storage role whose bytes must first come (R322, R325). A tile for whose role the map has no entry becomes idle (DESIGN CHOICE, log 78). -/
def State.nextState (s : State) (p tile : Nat) (next : TileState) : State × Option ChangeKind :=
  if !next.role.all (s.part p).roleRoom then (s.setTile tile .idle, none)
  else match next with
  | .routing n => ((s.setTile tile next).modPart p (fun q => (q.putRole (.fresh n false (some tile) none))), none)
  | .storage n =>
    if ((s.part p).role n).isSome then (s.stallRole p n true, some (.idleToStorage n))
    else
      (((s.setTile tile next).modCore tile (fun k => { k with store := [], storePoison := [] })).modPart p
        (fun q => q.putRole (.fresh n true (some tile) none)), none)
  | .reserved =>
    match (s.part p).reserves.find? (fun r => r.tile = tile) with
    | some r =>
      if ((s.part p).task r.task).isSome then (s.setTile tile .reserved, none)
      else ((s.setTile tile .idle).modPart p (fun q => { q with reserves := q.reserves.filter (fun e => decide (e.tile ≠ tile)) }), none)
    | none => (s.setTile tile .idle, none)
  | t => (s.setTile tile t, none)

/-- Ends change k of a partition, or puts the change that goes on in its place. -/
def State.endChange (s : State) (p k : Nat) (more : Option ChangeKind) : State :=
  s.modPart p (fun q => { q with changes := match more with
    | none => dropAt q.changes k
    | some kd => match q.changes[k]? with
      | none => q.changes
      | some c => setAt q.changes k { c with kind := kd, begun := true, mark := some s.msgCtr } })

/-- The tile leaves a role and takes its next state, and the change ends. -/
def State.moveOn (s : State) (p k tile : Nat) (next : TileState) : State :=
  let r := s.nextState p tile next
  r.1.endChange p k r.2

/-- Marks a change as begun. -/
def State.beginChange (s : State) (p k : Nat) : State :=
  s.modPart p (fun q => { q with changes := match q.changes[k]? with
    | none => q.changes
    | some c => setAt q.changes k { c with begun := true } })

/-- Whether an earlier change of a role is still going on: the next one of the role waits. -/
def Part.earlier (p : Part) (k n : Nat) : Bool := (p.changes.take k).any (fun c => c.begun && c.kind.roles.contains n)

/-- Whether accesses to a backing region that were past the lookup at a mark are still on their way to the region, or to the view of a die
(R311, R322). -/
def State.backingBusy (s : State) (p b mark : Nat) : Bool :=
  s.inFlight.any (fun m => decide (m.id < mark) && m.kind.atSlice && m.part == p && decide (b ≤ m.addr) && decide (m.addr < b + 2 ^ 21)) ||
    !s.deliveredAll mark

/-- A storage role that is to move to the tile stalls from the change's tick on, also where the tile must first leave another role (R311, R322). -/
def State.stallNext (s : State) (p : Nat) (next : TileState) : State :=
  match next.storageRole with
  | some n => s.stallRole p n true
  | none => s

/-- ROLE_CHANGE: a change begins at its tick; what needs no copy, drain or write-back is complete at once, and a role that has moved off the
tile meanwhile leaves only the tile's next state. A census point of the same tick comes first (R308, R322, R323, R325). -/
def execRoleChange (p k : Nat) (s : State) : Outcome :=
  match (s.part p).changes[k]? with
  | none => .next s
  | some c =>
    if c.begun || decide (s.now < c.tick) || s.censusDue p then .next s
    else match c.kind with
    | .idleToIdle => .next (s.endChange p k none)
    | .absent n => .next ((s.settleRole p k n).endChange p k none)
    | .idleToRouting n => .next (s.moveOn p k c.tile (.routing n))
    | .idleToStorage n => .next (s.moveOn p k c.tile (.storage n))
    | .leaveStorage n dest next =>
      let s := s.stallNext p next
      if !((s.part p).role n).any (fun r => r.tile == some c.tile) then .next (s.moveOn p k c.tile next)
      else if dest.isNone && ((s.part p).role n).any (fun r => r.backing.isNone) then
        .next ((s.modPart p (fun q => q.dropRole n)).beginChange p k)
      else .next ((s.stallRole p n true).beginChange p k)
    | .leaveRouting n next =>
      let s := ((s.part p).role n).elim s s.unraise
      .next (((s.stallNext p next).modPart p (fun q => q.modRole n (fun r => { r.endLease with holder := none, req := none }))).beginChange p k)

/-- ROUTING_DRAIN_COMPLETE: once the tile has emitted what it held for combining, the role is unmapped and the tile takes its next state (R310, R325). -/
def execRoutingDrainComplete (p k : Nat) (s : State) : Outcome :=
  match (s.part p).changes[k]? with
  | none => .next s
  | some c => match c.begun, c.kind with
    | true, .leaveRouting n next =>
      if s.partials.any (fun e => e.1 = c.tile) then .next s else .next ((s.modPart p (fun q => q.dropRole n)).moveOn p k c.tile next)
    | _, _ => .next s

/-- Whether accesses past the lookup are still on their way to the store of a storage tile (R311). -/
def State.roleBusy (s : State) (tile : Nat) : Bool := s.net.any (fun m => m.kind.store? == some tile)

/-- The whole of a tile's store as bytes. -/
def Core.piecesOf (k : Core) : List (Nat × List Byte × Bool) :=
  (List.range 32768).map (fun i => (i, k.store.readN (64 * i) 64, k.storePoison.contains i))

/-- Fills a tile's store from a backing region at device scope, poison marks with the bytes (R322). None: it must wait. -/
def State.fillBacking (s : State) (tile p base : Nat) : Option State :=
  (List.range 32768).foldl (fun s? i => s?.bind (fun s => (s.devPiece (dieOf tile) p (base + 64 * i)).map (fun r =>
    r.2.2.modCore tile (fun k => { k with
      store := k.store.writeN (64 * i) r.1, storePoison := if r.2.1 then k.storePoison ++ [i] else k.storePoison }))))
    (some (s.modCore tile (fun k => { k with store := [], storePoison := [] })))

/-- The role's entry on its new tile. -/
def State.landRole (s : State) (p k n tile : Nat) : State :=
  ((s.setTile tile (.storage n)).modPart p (fun q => { q.modRole n (fun r => { r with tile := some tile }) with
    reserves := q.reserves.filter (fun e => decide (e.tile ≠ tile)) })).settleRole p k n

/-- Copies the store of a tile to another (R311). -/
def State.copyStore (s : State) (a b : Nat) : State :=
  s.modCore b (fun k => { k with store := (s.core a).store, storePoison := (s.core a).storePoison })

/-- RESEAT_FLIP: once every access past the lookup has been applied, the copy is made and the entry flips (R311, R322). -/
def execReseatFlip (p k : Nat) (s : State) : Outcome :=
  match (s.part p).changes[k]? with
  | none => .next s
  | some c => match c.begun, c.kind with
    | true, .leaveStorage n (some d) next =>
      if s.roleBusy c.tile || (s.part p).earlier k n then .next s else .next (((s.copyStore c.tile d).landRole p k n d).moveOn p k c.tile next)
    | true, .idleToStorage n =>
      match (s.part p).role n with
      | none => .next (s.moveOn p k c.tile (.storage n))
      | some r => match r.tile, r.backing with
        | some t, _ =>
          if s.roleBusy t || (s.part p).earlier k n then .next s
          else .next ((((s.copyStore t c.tile).setTile t .idle).landRole p k n c.tile).endChange p k none)
        | none, some b =>
          if (s.part p).earlier k n || s.backingBusy p b (c.mark.getD 0) then .next s
          else orStay s ((s.fillBacking c.tile p b).map (fun s => (s.landRole p k n c.tile).endChange p k none))
        | none, none => .next s
    | _, _ => .next s

/-- Writes a tile's store to a backing region at device scope, as masked units of 64 bytes from a piece on, up to the first that must wait: the
state, and the piece that comes next (R326, R378). -/
def State.writeBacking (s : State) (tile p base pos : Nat) : State × Nat :=
  let r := s.putUnits (dieOf tile) p true (((s.core tile).piecesOf.drop pos).map (fun e => (base + 64 * e.1, e.2.1, e.2.2)))
  (r.1, pos + r.2)

/-- The stack writes that a written-back role waits for: granules of its backing region that a slice still holds dirty, or whose write the
stack has not acknowledged (R326). -/
def State.backingDirty (s : State) (p b : Nat) : Bool := !(s.dirtyIn p b (2 ^ 21)).isEmpty
def State.backingUnacked (s : State) (p b : Nat) : Bool :=
  s.slices.any (fun e => e.2.filter.any (fun g => ((s.part p).addrsOf (e.1 / 16) g.1).any (fun pa => decide (b ≤ pa) && decide (pa < b + 2 ^ 21))))

/-- The tile has lost its role and goes on to its next state. -/
def State.leaveRole (s : State) (p k n tile : Nat) (next : TileState) : State :=
  ((s.modPart p (fun q => q.modRole n (fun r => { r with tile := none }))).settleRole p k n).moveOn p k tile next

/-- ROLE_WRITEBACK_COMPLETE: the bytes go to the backing region, from its home slices to the stack, and once the stack has acknowledged every
write the role is backed-absent (R326). Of a role without a backing region, which is unmapped already, what was past the lookup falls to
the bytes that are discarded (R308). -/
def execRoleWritebackComplete (p k : Nat) (s : State) : Outcome :=
  match (s.part p).changes[k]? with
  | none => .next s
  | some c => match c.begun, c.kind with
    | true, .leaveStorage n none next =>
      if s.roleBusy c.tile || (s.part p).earlier k n then .next s
      else match (((s.part p).role n).filter (fun r => r.tile == some c.tile)).bind (fun r => r.backing), c.mark with
      | none, _ => .next (s.moveOn p k c.tile next)
      | some b, none =>
        let r := s.writeBacking c.tile p b c.pos
        let put (c : Change) : State := r.1.modPart p (fun q => { q with changes := setAt q.changes k c })
        .next (if r.2 = 32768 then put { c with mark := some r.1.msgCtr } else (put { c with pos := r.2 }).wantTight p)
      | some b, some m =>
        if !s.deliveredAll m then .next s
        else if s.backingDirty p b then .next (s.flushRange p b (2 ^ 21) false)
        else if s.backingUnacked p b then .next s
        else .next (s.leaveRole p k n c.tile next)
    | _, _ => .next s

/-! ### Lease events (R306) -/

/-- LEASE_EXPIRING (R306). -/
def execLeaseExpiring (p n : Nat) (s : State) : Outcome :=
  match (s.part p).role n with
  | none => .next s
  | some r => match r.expiry with
    | none => .next s
    | some e =>
      if r.warn && !r.warned && decide (e ≤ s.now + 20000) then
        .next ((s.postAgent r.leaser (.plain Cause.leaseExpiring (w64 n) (w64 e))).modPart p (fun q =>
          q.modRole n (fun r => { r with warned := true })))
      else .next s

/-- LEASE_EXPIRED (R306). -/
def execLeaseExpired (p n : Nat) (s : State) : Outcome :=
  match (s.part p).role n with
  | none => .next s
  | some r => match r.expiry with
    | none => .next s
    | some e =>
      if decide (e ≤ s.now) && (!r.warn || r.warned) then
        .next ((s.postAgent r.leaser (.plain Cause.leaseExpired (w64 n) 0)).modPart p (fun q => q.modRole n (fun r => { r with expiry := none })))
      else .next s

/-! ### The steps of a couch (R341 to R343) -/

/-- Whether a message asks stack n. -/
def Msg.toStack (m : Msg) (n : Nat) : Bool := m.kind.atSlice && m.stack == n

/-- Whether a line of a core is homed on stack n. -/
def State.lineOn (s : State) (c n : Nat) (l : Line) : Bool :=
  ((s.part (s.tilePart c)).place (l.line * 64)).any (fun p => p.stack == n)

/-- Step 3: the caches of a die write back and lose their lines of the stack. -/
def State.couchFlush (s : State) (d n : Nat) : State :=
  ((s.cores.map (·.1)).filter (fun c => dieOf c = d && !isAtelier c)).foldl
    (fun s c => (s.writeBack c (s.lineOn c n)).discard c (s.lineOn c n)) s

/-- Step 6: the held requests carry the clocks of their dies (R298). -/
def State.couchRelease (s : State) (n : Nat) : State :=
  { s with net := s.net.map (fun m => if m.toStack n && m.vec.isEmpty then { m with vec := s.carry m.core n } else m) }

/-- Whether a write of the old owner die to a line homed on the stack, issued as `.own` before the couch, is still on its way to its portion: it
must reach the line before step 3 writes the line back (R341, R342). -/
def State.couchStores (s : State) (n start : Nat) : Bool :=
  s.net.any (fun m => decide (m.id < start) && dieOf m.core == s.ownerDie n && ((s.part m.part).place m.addr).any (fun p => p.stack == n) &&
    (match m.kind with
    | .cacheStore _ => true
    | .cacheAtomic _ _ thru => !thru
    | _ => false))

/-- The next step of a couch, when the present one is complete. Ownership flips once the new owner has had all that the old one has applied: its clock
covers the old owner's, and its view, which ends, has nothing to come (R297, R298; DEDUCED, log 68). -/
def State.couchStep (s : State) (n : Nat) (k : Couch) : Option State :=
  let to_ (s : State) (step : Nat) (marks : List Nat) : Option State :=
    some (s.modStack n (fun t => { t with couch := some { k with step := step, marks := marks } }))
  match k.step with
  | 1 => to_ s 2 []
  | 2 =>
    if s.inFlight.any (fun m => m.toStack n && m.kind.writes && (decide (m.id < k.start) || m.kind.isWb)) || s.couchStores n k.start then none
    else
      let from_ := s.msgCtr
      let t := s.couchFlush (s.ownerDie n) n
      to_ t 3 (t.net.filterMap (fun m => if m.toStack n && decide (from_ ≤ m.id) then some m.id else none))
  | 3 => if s.inFlight.any (fun m => k.marks.contains m.id) then none else to_ s 4 []
  | 4 => to_ (s.modStack n (fun t => { t with route := !t.own })) 5 []
  | 5 =>
    let flip (s : State) : State := s.modStack n (fun t => { t with own := !t.own })
    let new := (flip s).ownerDie n
    let s := s.caughtUp new (s.die (s.ownerDie n)).clock
    if !covers (s.die new).clock (s.die (s.ownerDie n)).clock || (s.die new).inbox.any (fun e => e.piece.stack == n) then some s
    else to_ (((flip s).modDie new (fun d => { d with view := d.view.filter (fun v => decide (v.stack ≠ n)) })).couchRelease n) 6 []
  | 6 => to_ s 7 []
  | _ => (s.couchDone k.by_ k.reg 0 n).map (fun s => s.modStack n (fun t => { t with couch := none }))

/-- COUCH_DRAIN_STEP (R341, R343). -/
def execCouchDrainStep (n : Nat) (s : State) : Outcome :=
  match (s.stack n).couch with
  | none => .next s
  | some k => orStay s (s.couchStep n k)

end Sys2Proof.Machine
end

