-- ==== Sys2Proof/Machine/Control.lean ====
section
/-!
DEFINITION. Branches, calls, loops, predicates, NOP and the pad word: row 2 and R37 (R75 to R81).
-/

namespace Sys2Proof.Machine

/-- A branch target: the PC plus four times a signed offset (R46). -/
def branchTo {n : Nat} (pc : Word) (imm : BitVec n) : Word := pc + 4 * imm.signExtend 64

/-- PC_MISALIGNED where bits 1:0 of a new PC are not zero (R46). -/
def pcAligned (pc : Word) : Bool := fld pc 1 0 == 0

/-- A pad word moves the PC on without a slot and without any effect (R37). -/
def execPadWord (s : State) : Outcome := .next (s.modMe (fun t => { t with pc := t.pc + 4 }))

def execBr (g : Guard) (imm : BitVec 23) (s : State) : Outcome :=
  s.run (.br g imm) 8 g [] (fun s => .jump (branchTo s.me.pc imm) s)

def execJmp (g : Guard) (imm : BitVec 55) (s : State) : Outcome :=
  s.run (.jmp g imm) 12 g [] (fun s => .jump (branchTo s.me.pc imm) s)

/-- PC := A, checked (R76). -/
def State.jumpReg (s : State) (i : Instr) (g : Guard) (a : GReg) : Outcome :=
  s.run i 8 g [.src a] (fun s => if pcAligned (s.g a) then .jump (s.g a) s else .trap Cause.pcMisaligned (s.g a) 0 s)

def execJr (g : Guard) (a : GReg) (s : State) : Outcome := s.jumpReg (.jr g a) g a
def execRet (g : Guard) (a : GReg) (s : State) : Outcome := s.jumpReg (.ret g a) g a

/-- CALL (R77). -/
def execCall (g : Guard) (d : GReg) (imm : BitVec 23) (s : State) : Outcome :=
  s.run (.call g d imm) 8 g [.dst d] (fun s => .jump (branchTo s.me.pc imm) (s.putG d (s.me.pc + 8)))

/-- CALLR (R77). -/
def execCallr (g : Guard) (d a : GReg) (s : State) : Outcome :=
  s.run (.callr g d a) 8 g [.dst d, .src a] (fun s =>
    if pcAligned (s.g a) then .jump (s.g a) (s.putG d (s.me.pc + 8)) else .trap Cause.pcMisaligned (s.g a) 0 s)

/-- LOOP (R78). -/
def execLoop (g : Guard) (d : GReg) (imm : BitVec 23) (s : State) : Outcome :=
  s.run (.loop g d imm) 8 g [.dst d] (fun s =>
    if s.g d - 1 ≠ 0 then .jump (branchTo s.me.pc imm) (s.putG d (s.g d - 1)) else .done (s.putG d (s.g d - 1)))

/-- BSIG branches on the stored count (R79). -/
def execBsig (g : Guard) (a : FReg) (n : BitVec 6) (off : BitVec 17) (s : State) : Outcome :=
  s.run (.bsig g a n off) 8 g [.srcF a] (fun s =>
    if (s.fval a).cnt < n.toNat then .jump (branchTo s.me.pc off) s else .done s)

/-- d := f(a, b) on predicates (R80). -/
def State.predOp (s : State) (i : Instr) (g : Guard) (d a b : PReg) (f : Bool → Bool → Bool) : Outcome :=
  s.run i 8 g [] (fun s => .done (s.putP d (f (s.p a) (s.p b))))

def execPand (g : Guard) (d a b : PReg) (s : State) : Outcome := s.predOp (.pand g d a b) g d a b (fun x y => x && y)
def execPor (g : Guard) (d a b : PReg) (s : State) : Outcome := s.predOp (.por g d a b) g d a b (fun x y => x || y)
def execPxor (g : Guard) (d a b : PReg) (s : State) : Outcome := s.predOp (.pxor g d a b) g d a b (fun x y => x != y)
def execPnot (g : Guard) (d a : PReg) (s : State) : Outcome := s.predOp (.pnot g d a) g d a a (fun x _ => !x)
def execPmov (g : Guard) (d a : PReg) (s : State) : Outcome := s.predOp (.pmov g d a) g d a a (fun x _ => x)

def execNop (g : Guard) (s : State) : Outcome := s.run (.nop g) 8 g [] (fun s => .done s)

end Sys2Proof.Machine
end

