-- ==== Sys2Proof/Machine/Tasks.lean ====
section
/-!
DEFINITION. The task scheduler and the completion ring: rows ENQUEUE to COMPLETION_MESSAGE, and the gang switch (R11, R16 to R26, R244, R264,
R302, R328 to R331, R383, R384).
-/

namespace Sys2Proof.Machine

/-! ### Reports (R20, R383, R384) -/

/-- A report word (R20). -/
def reportWord (id status : Nat) : Word := w64 (id + status * 2 ^ 32)

/-- Queues a report for the completion ring. -/
def State.queueReport (s : State) (part id status : Nat) : State :=
  s.modPart part (fun p => { p with reports := p.reports ++ [reportWord id status] })

/-- ENQUEUE: the host writes the enqueue register (R19, R363). -/
def execEnqueue (part : Nat) (addr : Word) (s : State) : Outcome :=
  let p := s.part part
  if !p.present then .next s
  else if p.inReset then .next (s.queueReport part 0 5)
  else if p.capture.isSome then .next s
  else if 64 ≤ p.enq.length then .next ((s.queueReport part 0 2).modPart part (fun p => { p with enqLog := p.enqLog ++ [addr] }))
  else .next (s.modPart part (fun p => { p with enq := p.enq ++ [addr], enqLog := p.enqLog ++ [addr] }))

/-- Whether CRSIZE enables the completion ring (R383). -/
def Part.ringOn (p : Part) : Bool := decide (4 ≤ fld p.crsize 4 0) && decide (fld p.crsize 4 0 ≤ 16)

/-- Whether the completion ring takes a report (R384). -/
def Part.ringRoom (p : Part) : Bool := p.ringOn && (p.crtail.toNat + 1) % 2 ^ fld p.crsize 4 0 != p.crhead.toNat

/-- A report has gone to the host: where CKPTCTL bit 9 is clear, the interval cannot be rolled back (R379). -/
def Part.messageSent (p : Part) : Part :=
  if bit p.ckptctl 9 then p else { p with ckptctl := setBit p.ckptctl 10 }

/-- COMPLETION_MESSAGE: the oldest report goes to the ring with MSI-X vector 0; with no room, reports with TASKID 0 are dropped and counted;
under CKPTCTL bit 9 only reports from before the last checkpoint go or are dropped (R379, R383, R384). -/
def execCompletionMessage (part : Nat) (s : State) : Outcome :=
  let p := s.part part
  match p.reports with
  | [] => .next s
  | r :: rs =>
    if !p.present || p.inReset || (bit p.ckptctl 9 && p.released == 0) then .next s
    else if p.ringRoom then
      let a := p.crbase.toNat + 8 * p.crtail.toNat
      let s := { s with hostMem := s.hostMem.writeN a (toBytes 8 r.toNat), msix := s.msix ++ [part] }
      .next (s.modPart part (fun p => { p.messageSent with
        reports := rs, released := p.released - 1, crtail := w64 ((p.crtail.toNat + 1) % 2 ^ fld p.crsize 4 0) }))
    else
      let may := if bit p.ckptctl 9 then p.reports.take p.released else p.reports
      let kept (l : List Word) : List Word := l.filter (fun r => decide (fld r 31 0 ≠ 0))
      .next (s.modPart part (fun p => { p with
        released := (kept (p.reports.take p.released)).length
        reports := kept may ++ p.reports.drop may.length
        crdrop := w64 (Nat.min (p.crdrop.toNat + (may.length - (kept may).length)) (2 ^ 64 - 1)) }))

/-! ### The scheduler's accesses (R19, R244) -/

/-- Translation through the dispatch set: none is a miss (R244). -/
def Part.dsetPa (p : Part) (va : Nat) : Option Nat :=
  (p.dset.find? (fun e => e.holds va)).bind (fun e => if e.fw || (p.place (e.pa va)).isNone then none else some (e.pa va))

/-- What a read of the scheduler comes to: it must wait, it fails with status 0x04, or it has its bytes. -/
inductive SRead where
  | wait
  | bad
  | ok (bs : List Byte) (s : State)

/-- The die that owns the stack of a partition-physical address. -/
def State.homeDie (s : State) (part pa : Nat) : Nat := ((s.part part).place pa).elim 0 (fun p => s.ownerDie p.stack)

/-- Reads n bytes of virtual memory at device scope, at the home slices. -/
def State.schedRead (s : State) (part va : Nat) : Nat → Nat → SRead
  | 0, _ => .ok [] s
  | k + 1, n =>
    if n = 0 then .ok [] s
    else match (s.part part).dsetPa va with
      | none => .bad
      | some pa =>
        let here := Nat.min n (64 - pa % 64)
        match s.devPiece (s.homeDie part pa) part pa with
        | none => .wait
        | some (bs, pz, s) =>
          if pz then .bad
          else match State.schedRead s part (va + here) k (n - here) with
            | .ok rest s => .ok (Machine.slice bs (pa % 64) here ++ rest) s
            | r => r

/-- Sends the report of a task: to its completion target, written by an agent of die d, behind the writes of the task that a clock covers
(R20, R26, R302). None: it must wait. -/
def State.report (s : State) (part : Nat) (d : Option Nat) (target id status : Nat) (vec : List Nat := []) : Option State :=
  if target = 0 then some (s.queueReport part id status)
  else match (s.part part).dsetPa target with
    | none => some (s.queueReport part id 4)
    | some pa =>
      let o := s.homeDie part pa
      let s := s.caughtUp o vec
      if !covers (s.die o).clock vec then none
      else (s.modDie o (fun x => { x with clock := joinClock x.clock vec })).devUnit (d.getD o) part pa
        (cellsAt pa (toBytes 8 (reportWord id status).toNat)) false

/-! ### The window (R19, R21, R22) -/

/-- Whether regions share a 64-byte piece. -/
def Foot.touches (a b : Foot) : Bool := meets a.base (64 * a.len) b.base (64 * b.len)
/-- W or RW. -/
def Foot.writes (f : Foot) : Bool := decide (2 ≤ f.mode)

/-- Whether a new record depends on an earlier task (R21). -/
def dependsOn (n e : TaskRec) : Bool := n.foots.any (fun f => e.foots.any (fun g => f.touches g && (f.writes || g.writes)))

/-- Ends a task's hold on roles, its leases and its reservations (R308, R316). -/
def State.endHolds (s : State) (part id : Nat) : State :=
  let mine := (s.part part).reserves.filter (fun r => decide (r.task = id))
  let s := mine.foldl (fun s r => if (s.core r.tile).tstate == .reserved then s.setTile r.tile .idle else s) s
  s.modPart part (fun p => { p with
    reserves := p.reserves.filter (fun r => decide (r.task ≠ id))
    roles := p.roles.map (fun r => if r.holder = some id then { r.endLease with holder := none, req := none } else r) })

/-- A task leaves the window: its dependences are resolved, and the tasks that had them take over its vector (R21, R302). -/
def State.leaveWindow (s : State) (part id : Nat) (vec : List Nat) : State :=
  (s.endHolds part id).modPart part (fun p => { p with
    held := p.held.filter (fun h => decide (h.to_.task ≠ id))
    window := (p.window.filter (fun t => decide (t.id ≠ id))).map (fun t =>
      if t.deps.contains id then { t with deps := t.deps.filter (fun x => decide (x ≠ id)), vec := joinClock t.vec vec } else t) })

/-- Ends a task that does not run (R20). -/
def State.endUnrun (s : State) (part : Nat) (t : Task) (status : Nat) : Option State :=
  (s.leaveWindow part t.id t.vec).report part none t.record.target t.id status

/-- The greatest number of tiles that the partition's bands give on one die. -/
def Part.widest (p : Part) : Nat := ([0, 1, 2, 3].map (fun d => 36 * popcount (p.bands.toNat / 2 ^ (8 * d)) 8)).foldl Nat.max 0

/-- Makes a task ready with a variant, or ends it (R22). -/
def State.choose (s : State) (part : Nat) (t : Task) (v : Option Nat) : Option State :=
  match v.bind (fun v => t.record.variants[v]?.map (fun r => (v, r))) with
  | none => s.endUnrun part t 3
  | some (v, r) =>
    if (s.part part).widest < r.gang then s.endUnrun part t 6
    else some (s.modPart part (fun p => p.modTask t.id (fun t => { t with
      phase := .ready, variant := v, level := t.record.prio, since := s.now })))

/-- A task with no unresolved dependence becomes ready (R22). None: it must wait. -/
def State.becomeReady (s : State) (part : Nat) (t : Task) : Option State :=
  if t.record.sizePtr = 0 then s.choose part t (some 0)
  else match s.schedRead part t.record.sizePtr 2 8 with
    | .wait => none
    | .bad => s.endUnrun part t 4
    | .ok bs s => s.choose part t (firstIdx (fun v => decide (ofBytes bs ≤ v.bound)) t.record.variants)

/-- Makes every waiting task without dependences ready, in order, up to the first that must wait (R22, R378). -/
def State.readyAll (s : State) (part : Nat) : Nat → State
  | 0 => s
  | k + 1 =>
    match (s.part part).window.find? (fun t => t.phase == .waiting && t.deps.isEmpty) with
    | none => s
    | some t => match s.becomeReady part t with
      | none => s.wantTight part
      | some s => State.readyAll s part k

/-- The TASKID after one (R19). -/
def nextId (n : BitVec 32) : BitVec 32 := if n + 1 = 0 then 1 else n + 1

/-- A new task. -/
def Part.newTask (p : Part) (r : TaskRec) : Task :=
  ⟨p.nextTask.toNat, r, .waiting, (p.window.filter (fun e => dependsOn r e.record)).map (fun e => e.id), r.prio, 0, 0, [], .reset, none, [], 0,
    [], [0, 0, 0, 0], false, false, [], [], 0⟩

/-- TASK_CREATE (R19, R21, R22). With nothing enqueued, tasks that had to wait for memory on becoming ready go on. -/
def execTaskCreate (part : Nat) (s : State) : Outcome :=
  let p := s.part part
  if !p.present || p.inReset || p.stopped then .next s
  else match p.enq with
  | [] => .next (s.readyAll part 1025)
  | a :: rest =>
    if 1024 ≤ p.window.length then .next s
    else
      let s := s.modPart part (fun p => { p with enq := rest })
      if !recAddrOk a then .next (s.queueReport part 0 1)
      else match s.schedRead part a.toNat 3 128 with
        | .wait => .next (s.modPart part (fun q => { q with enq := p.enq }))
        | .bad => .next (s.queueReport part 0 4)
        | .ok bs t =>
          match recFail bs with
          | some _ => .next (t.queueReport part 0 1)
          | none =>
            .next ((t.modPart part (fun p => { p with
              window := p.window ++ [p.newTask (recOf bs)], nextTask := nextId p.nextTask })).readyAll part 1025)

/-! ### Order of ready tasks (R23) -/

/-- The head: highest level, then earliest in the window. -/
def headOf : List Task → Option Task
  | [] => none
  | t :: ts => match headOf ts with
    | none => if t.waits then some t else none
    | some u => if t.waits && decide (u.level ≤ t.level) then some t else some u

/-- PRIORITY_RISE (R23). -/
def execPriorityRise (part id : Nat) (s : State) : Outcome :=
  match (s.part part).task id with
  | none => .next s
  | some t =>
    if t.riseTick.any (fun n => decide (n ≤ s.now)) then
      .next (s.modPart part (fun p => p.modTask id (fun t => { t with level := t.level + 1, since := t.since + 1000000 })))
    else .next s

/-! ### Dispatch (R11, R24, R244, R302) -/

/-- Whether a band is leaving the partition (R362). -/
def Part.leaving (p : Part) (tile : Nat) : Bool := p.resize.any (fun r => nbit r.bands.toNat (bandOf tile))

/-- Whether tiles of a die can be bound to a gang of n. -/
def State.bindable (s : State) (part die n : Nat) (tiles : List Nat) : Bool :=
  tiles.length == n && (dedup tiles).length == n &&
  tiles.all (fun c => decide (dieOf c = die) && s.idleTile part c && !(s.part part).leaving c)

/-- Whether a die's clock covers a vector in every die. -/
def State.clockCovers (s : State) (die : Nat) (vec : List Nat) : Bool :=
  (List.range 4).all (fun k => decide (nth 0 vec k ≤ nth 0 (s.die die).clock k))

/-- The stretches of a placed region: store offset, partition-physical address, bytes, whether it is written back. None: a miss. -/
def Part.stretches (p : Part) (w : Bool) (va off : Nat) : Nat → Nat → Option (List (Nat × Nat × Nat × Bool))
  | 0, _ => some []
  | k + 1, n =>
    if n = 0 then some []
    else match p.dset.find? (fun e => e.holds va), p.dsetPa va with
      | some e, some pa =>
        let m := Nat.min n (Nat.min (e.va + e.size - va) (2 ^ 30 - pa % 2 ^ 30))
        (Part.stretches p w (va + m) (off + m) k (n - m)).map (fun r => (off, pa, m, w) :: r)
      | _, _ => none

/-- The stretches of every placed region of a record. -/
def Part.placed (p : Part) (r : TaskRec) : Option (List (Nat × Nat × Nat × Bool)) :=
  (r.foots.filter (fun f => f.place)).foldl (fun acc f => acc.bind (fun a =>
    (p.stretches f.writes f.base (64 * f.off) (f.len + 1) (64 * f.len)).map (fun b => a ++ b))) (some [])

/-- Reads the placed regions at device scope on a die: store offsets with bytes. -/
def State.readPlaced (s : State) (part die : Nat) : List (Nat × Nat × Nat × Bool) → Option (Option (List (Nat × List Byte)) × State)
  | [] => some (some [], s)
  | (off, pa, n, _) :: ps =>
    match s.devRead die part pa (n / 64 + 1) n with
    | none => none
    | some (bs, pz, s) =>
      if pz then some (none, s)
      else (State.readPlaced s part die ps).map (fun r => (r.1.map (fun x => (off, bs) :: x), r.2))

/-- Entries by rising page address. -/
def byVa (es : List TbEntry) : List TbEntry := sortBy (fun e => e.va) es

/-- Adds entries that are not there yet; of the locked ones no more than 16 stand in a buffer (R243). -/
def addNew (tb es : List TbEntry) : List TbEntry :=
  es.foldl (fun t e => if t.contains e || (e.locked && decide (16 ≤ (t.filter TbEntry.locked).length)) then t else t ++ [e]) tb

/-- The translation buffer at dispatch (R244). -/
def Part.tbLoad (p : Part) (pc : Word) (r : TaskRec) : List TbEntry :=
  let locked := (byVa (p.dset.filter (fun e => e.locked))).take 16
  let tb := addNew locked (p.dset.filter (fun e => e.holds pc.toNat))
  (r.foots.foldl (fun tb f => addNew tb (byVa (p.dset.filter (fun e => e.meets f.base (64 * f.len))))) tb).take 96

/-- The accumulators at dispatch: undefined, and no row-status word is known (R197; log 79). -/
def freeAcc (ctr : Nat) : Table Acc :=
  tabulate 8 (fun a =>
    let fc (k : Nat) : FC := ⟨(freeWord ctr (20000 + k)).setWidth 32, (freeWord ctr (20000 + k)).toNat / 2 ^ 32 % 25⟩
    (a, ⟨tabulate 32 (fun i => ⟨tabulate 32 (fun j => fc (a * 2000 + i * 40 + j)), fc (a * 2000 + i * 40 + 32), fc (a * 2000 + i * 40 + 33)⟩),
      (freeWord ctr (20000 + a * 2000 + 1999)).setWidth 32, 0⟩))

/-- The scratch of a tile at dispatch: undefined (R315). -/
def freeStore (ctr : Nat) : Mem :=
  (List.range (scratchOf 1)).foldl (fun m i => m.write i ((freeWord ctr (100000 + i)).setWidth 8)) []

/-- A context that no thread has: nothing of the task's registers survives but the supervisor shadow set, in its place (R83, R138, R247). -/
def Ctx.freed (t : Ctx) : Ctx := { Ctx.reset with sshadow := (t.ending t.exitWord).sshadow, partid := t.partid }

/-- A tile that the scheduler has freed (R26, R315). -/
def Core.freed (k : Core) : Core :=
  { Core.reset with
    tstate := if k.doomed then .retired else .idle
    cycle := k.cycle, store := k.store, storePoison := k.storePoison, faults := k.faults, mcLast := k.mcLast, mcMore := k.mcMore
    ctxs := k.ctxs.map (fun e => (e.1, e.2.freed)) }

/-- Context 0 of a dispatched tile (R24, R246). -/
def Ctx.dispatched (t : Ctx) (ctr : Nat) (pc tdeleg : Word) : Ctx :=
  { t.start ctr pc with fpctl := 0, sigmin := 0, tvec := 0, tdeleg := tdeleg }

/-- A tile as dispatch leaves it (R11, R24). -/
def Core.dispatched (k : Core) (ctr i n id : Nat) (r : TaskRec) (pc tdeleg : Word) (tb : List TbEntry) (placed : List (Nat × List Byte)) :
    Core :=
  { k.freed with
    tstate := .bound, gangIdx := i, gangSize := n, taskId := id, args := r.args, pool := r.pool, tb := tb, lvlNext := k.cycle + 4096
    acc := freeAcc ctr
    storePoison := k.storePoison.filter (fun pc => !placed.any (fun p => decide (p.1 ≤ 64 * pc) && decide (64 * pc < p.1 + p.2.length)))
    store := placed.foldl (fun m p => m.writeN p.1 p.2) (freeStore ctr)
    pins := placed.map (fun p => (p.1, p.2.length))
    ctxs := tput k.freed.ctxs 0 ((k.freed.ctx 0).dispatched ctr pc tdeleg) }

/-- Binds the tiles of a gang (R24). -/
def State.startGang (s : State) (part : Nat) (t : Task) (v : Variant) (tiles : List Nat) (st : List (Nat × Nat × Nat × Bool))
    (placed : List (Nat × List Byte)) : State :=
  let p := s.part part
  let tb := p.tbLoad v.entry t.record
  let s := (List.range tiles.length).foldl (fun s i =>
    s.modCore (nth 0 tiles i) (fun k => k.dispatched (s.freeCtr + i) i tiles.length t.id t.record v.entry p.tdeleg tb placed)) s
  { s with freeCtr := s.freeCtr + tiles.length }.modPart part (fun p => p.modTask t.id (fun t => { t with
    phase := .running, tiles := tiles, gbar := .reset, place := st, switchAt := none }))

/-- TASK_DISPATCH: the head, if ready, is bound to the tiles named, when they are free and the die's clock covers the tasks it depended on
(R23, R24, R302). -/
def execTaskDispatch (part die : Nat) (tiles : List Nat) (s : State) : Outcome :=
  let p := s.part part
  match headOf p.window with
  | none => .next s
  | some t => match t.record.variants[t.variant]? with
    | none => .next s
    | some v =>
      if t.phase ≠ .ready || p.stopped || !s.bindable part die v.gang tiles || !s.clockCovers die t.vec then .next s
      else match p.placed t.record with
        | none => orWant s part ((s.endUnrun part t 4).map (fun s => s.readyAll part 1025))
        | some st => match s.readPlaced part die st with
          | none => .next s
          | some (none, s') => orWant s part ((s'.endUnrun part t 4).map (fun s => s.readyAll part 1025))
          | some (some placed, s') => .next (s'.startGang part t v tiles st placed)

/-! ### Retire (R26) -/

/-- Whether a message of a list of cores is still on its way, or its answer, or its delivery to the cores' own die (R328). -/
def State.gangBusy (s : State) (cs : List Nat) : Bool :=
  s.inFlight.any (fun m => cs.contains m.core) ||
  s.dies.any (fun d => d.2.inbox.any (fun u => u.reply.any (fun m => cs.contains m.core))) ||
  [0, 1, 2, 3].any (fun d => (s.undelivered d).any (fun m => dieOf m.core == d && cs.contains m.core))

/-- Whether a line of these cores is dirty. -/
def State.dirtyGang (s : State) (cs : List Nat) : Bool := cs.any (fun c => (s.core c).cache.any (fun l => l.dirty && !l.loc))

/-- Whether thread 0 of every tile has ended and step 1 of R26 is complete. -/
def State.gangOver (s : State) (t : Task) : Bool :=
  t.tiles.all (fun c =>
    let k := s.core c
    (k.ctx 0).state == .ended && k.mq.isEmpty && k.fifo.isEmpty && k.splitChange.isNone && k.ctxs.all (fun x => x.2.rfcount == 0))

/-- The units of the W and RW placed regions, from gang tile 0 (R26 step 3). -/
def Core.placedUnits (k : Core) (st : List (Nat × Nat × Nat × Bool)) : List (Nat × List Byte × Bool) :=
  (st.filter (fun x => x.2.2.2)).flatMap (fun x => (List.range (x.2.2.1 / 64)).map (fun i =>
    (x.2.1 + 64 * i, k.store.readN (x.1 + 64 * i) 64, k.storePoison.contains (x.1 / 64 + i))))

/-- The clock that covers the writes of units: those of the die and of the stacks' owners. -/
def State.unitsClock (s : State) (part d : Nat) (us : List (Nat × List Byte × Bool)) : List Nat :=
  us.foldl (fun v u => joinClock v (s.die (s.homeDie part u.1)).clock) (s.die d).clock

/-- Whether a POISON_OPERAND report reached no thread (R26, R208). -/
def State.poisonLost (s : State) (t : Task) : Bool :=
  t.lost || t.tiles.any (fun c => (s.core c).reports.any (fun r => r.cause == Cause.poisonOperand))

/-- TASK_RETIRE: once the gang is over, its caches are written back; once that is applied, the placed regions are, unit by unit, the task leaves
the window, and the report is sent (R26, R378). The write-back of a placed region is none of the writes that clear a mark (R372). -/
def execTaskRetire (part id : Nat) (s : State) : Outcome :=
  match (s.part part).task id with
  | none => .next s
  | some t =>
    if t.phase ≠ .running || !s.gangOver t || s.gangBusy t.tiles then .next s
    else if s.dirtyGang t.tiles then .next (t.tiles.foldl (fun s c => s.writeBack c (fun _ => true)) s)
    else
      let c := t.tiles.headD 0
      let us := (s.core c).placedUnits t.place
      let r := s.putUnits (dieOf c) part false (us.drop t.placed)
      let s := r.1.modPart part (fun p => p.modTask id (fun t => { t with placed := t.placed + r.2 }))
      if t.placed + r.2 < us.length then .next (s.wantTight part)
      else
        let vec := s.unitsClock part (dieOf c) us
        let status := if s.poisonLost t then 7 else 0
        let gone := (t.tiles.foldl (fun s c => s.modCore c Core.freed) s).leaveWindow part id vec
        orWant s part ((gone.report part (some (dieOf c)) t.record.target id status vec).map (fun s => s.readyAll part 1025))

/-! ### Gang switch (R328 to R331) -/

/-- The flits of a gang's stores and fills to other tiles and to role space that no destination has accepted, and its requests that a couch holds:
at a stop they fall out into the save area. A store to the own tile's store has been accepted and completes before the save (R133, R328
steps 1 and 3, R345). -/
def State.fallen (s : State) (cs : List Nat) : List Msg :=
  (s.net.filter (fun m => cs.contains m.core && (s.couchHeld m || (match m.kind with
    | .tileStore h _ _ => h != m.core
    | .farStore _ _ _ => true
    | .farProbe _ _ => true
    | .roleStore _ _ => true
    | .fill _ _ _ _ => true
    | _ => false)))).map (fun m => match m.kind with
    | .tileStore h _ clr => (s.core h).roleNum.elim m (fun r => { m with kind := .roleStore r clr })
    | _ => m)

/-- Whether the running parts of a gang are still at work: a copy that has started, a SPLIT change, moves of work lists (R32, R284). -/
def State.gangMoving (s : State) (cs : List Nat) : Bool :=
  cs.any (fun c =>
    let k := s.core c
    k.fifo.head?.any (fun q => q.started || q.status.isSome) || k.splitChange.isSome || !k.wlSent.isEmpty)

/-- The save record of a tile (R329): every parked thread issues again from check 12 on resume. -/
def Core.saved (k : Core) : Core :=
  { k with
    cache := [], fbuf := []
    ctxs := k.ctxs.map (fun e => (e.1, { e.2 with park := e.2.park.map (fun p => { p with awake := true }) })) }

/-- Writes a gang's caches back and discards them. None where it has nothing left there. -/
def State.emptyCaches (s : State) (cs : List Nat) : Option State :=
  if cs.any (fun c => !(s.core c).cache.isEmpty) then
    some (cs.foldl (fun s c => (s.writeBack c (fun _ => true)).discard c (fun _ => true)) s)
  else none

/-- Saves a gang with the flits that have fallen out: its tiles become idle, the task waits as ready at its priority (R264, R328). -/
def State.saveGang (s : State) (part : Nat) (t : Task) (tick : Nat) : State :=
  let saved := t.tiles.map (fun c => (s.core c).saved)
  let vec := joinClock t.vec (s.die (dieOf (t.tiles.headD 0))).clock
  let out := s.fallen t.tiles
  let s := t.tiles.foldl (fun s c => s.modCore c Core.freed) { s with net := s.net.filter (fun m => !out.any (fun e => e.id == m.id && e.core == m.core)) }
  s.modPart part (fun p => p.modTask t.id (fun t => { t with
    phase := .saved, tiles := [], saved := saved, stopped := tick, switchAt := none, level := t.record.prio, since := s.now, vec := vec
    flits := out, was := t.tiles }))

/-- Brings a gang to its stop: what is in flight completes, but for flits that fall out, the caches are written back, the state is saved
(R328). -/
def State.stopGang (s : State) (part : Nat) (t : Task) (tick : Nat) : State :=
  if { s with net := s.net.filter (fun m => !(s.fallen t.tiles).any (fun e => e.id == m.id && e.core == m.core)) }.gangBusy t.tiles ||
    s.gangMoving t.tiles then s
  else match s.emptyCaches t.tiles with
    | some s => s
    | none => s.saveGang part t tick

/-- GANG_SWITCH_STOP (R328). -/
def execGangSwitchStop (part id : Nat) (s : State) : Outcome :=
  match (s.part part).task id with
  | none => .next s
  | some t => match t.phase, t.switchAt with
    | .running, some ts => if ts ≤ s.now then .next (s.stopGang part t ts) else .next s
    | _, _ => .next s

/-- The tile that takes the place of another. -/
def placeOf (was tiles : List Nat) (c : Nat) : Nat := ((firstIdx (fun w => w == c) was).bind (fun i => tiles[i]?)).getD c

/-- A place of a piece once the tiles of its gang are others. -/
def At.moved (f : Nat → Nat) : At → At
  | .tile t off => .tile (f t) off
  | a => a

/-- A context whose gang's tiles are others: a store that was to go on goes to where they are. -/
def Ctx.moved (t : Ctx) (f : Nat → Nat) : Ctx :=
  { t with phase := { t.phase with planes := t.phase.planes.map (fun p => (p.1, p.2.map (fun u => (u.1, u.2.1.moved f, u.2.2)))) } }

/-- A tile restored from a save record, its gang on other tiles (R329, R330). -/
def Core.restored (k old : Core) (f : Nat → Nat) : Core :=
  { k with
    tstate := .bound, faults := old.faults, mcLast := old.mcLast, mcMore := old.mcMore
    ctxs := k.ctxs.map (fun e => (e.1, e.2.moved f)) }

/-- Gives a resumed gang one held fill or event. -/
def State.giveHeld (s : State) (tiles : List Nat) (h : HeldFill) : State :=
  let c := nth 0 tiles h.to_.who
  let s := match h.reg with
    | some r => s.fill c h.to_.ctx r h.val
    | none => s
  match h.ev with
  | some e => s.post c h.to_.ctx e
  | none => s

/-- Raises an event on every context of these tiles that was running or parked. -/
def State.postRunning (s : State) (tiles : List Nat) (e : Ev) : State :=
  tiles.foldl (fun s c => (List.range 16).foldl (fun s x => if (s.ctx c x).state == .running then s.post c x e else s) s) s

/-- A request re-injected for tiles other than it left (R330). -/
def Msg.moved (m : Msg) (was tiles : List Nat) : Msg :=
  let f := placeOf was tiles
  { m with
    core := f m.core
    kind := match m.kind with
      | .cacheStore h => .cacheStore (f h)
      | .cacheRead h n l => .cacheRead (f h) n l
      | .cacheUpdate h => .cacheUpdate (f h)
      | .cacheAtomic h op thru => .cacheAtomic (f h) op thru
      | .fetch h l => .fetch (f h) l
      | .tileStore h a clr => .tileStore (f h) a clr
      | .farStore h us clr => .farStore (f h) us clr
      | .farProbe h us => .farProbe (f h) us
      | .tileRead h => .tileRead (f h)
      | .tileAtomic h op => .tileAtomic (f h) op
      | .fill h x r v => .fill (f h) x r v
      | .probe h rs => .probe (f h) rs
      | k => k }

/-- Whether a message goes to a tile: what fell out of it is applied before the gang issues (R330). -/
def MKind.toTile : MKind → Bool
  | .tileStore _ _ _ => true
  | .farStore _ _ _ => true
  | .farProbe _ _ => true
  | .fill _ _ _ _ => true
  | _ => false

/-- Restores a gang on tiles: what was on its way goes on, and its tiles issue once that has reached the gang's tiles (`Task.flits`); what was held
for it is applied, and its contexts are told (R330); after a rollback they have been told (R380). -/
def State.resumeGang (s : State) (part : Nat) (t : Task) (tiles : List Nat) : State :=
  let s := (List.range tiles.length).foldl (fun s i =>
    s.modCore (nth 0 tiles i) (fun old => (nth Core.reset t.saved i).restored old (placeOf t.was tiles))) s
  let back := t.flits.map (fun m => m.moved t.was tiles)
  let held := (s.part part).held.filter (fun h => decide (h.to_.task = t.id))
  let s := s.modPart part (fun p => { p.modTask t.id (fun t => { t with
      phase := .running, tiles := tiles, saved := [], rolled := false, was := []
      flits := back.filter (fun m => m.kind.toTile) }) with
    held := p.held.filter (fun h => decide (h.to_.task ≠ t.id)) })
  let s := held.foldl (fun s h => s.giveHeld tiles h) s
  let s := { s with net := s.net ++ back }
  let s := if t.rolled then s else s.postRunning tiles (.plain Cause.gangResumed (w64 t.stopped) s.gtime)
  (List.range tiles.length).foldl (fun s i =>
    let n := (held.filter (fun h => h.sig && h.to_.who == i)).length
    if n = 0 then s else s.post (nth 0 tiles i) 0 (.plain Cause.signalHeld (w64 n) 0)) s

/-- GANG_RESUME (R264, R330). -/
def execGangResume (part id : Nat) (tiles : List Nat) (s : State) : Outcome :=
  match headOf (s.part part).window with
  | none => .next s
  | some t =>
    let die := dieOf (tiles.headD 0)
    if t.id ≠ id || t.phase ≠ .saved || (s.part part).stopped || !s.bindable part die t.saved.length tiles || !s.clockCovers die t.vec then .next s
    else .next (s.resumeGang part t tiles)

end Sys2Proof.Machine
end

