-- ==== Sys2Proof/Machine/Domain.lean ====
section
/-!
DEFINITION. The message executor and the domain fabric: domain operations at their destination, acknowledgements and refusals, signal fills,
reduction flits and collectives (R132, R287, R303, R327, R335, R336, R387, R388).
-/

namespace Sys2Proof.Machine

/-! ### What comes back to a thread (R118, R132, R287) -/

/-- Applies a function to an agent's context, and to its record in the checkpoint where the operation was sent before that (R329, R380). -/
def State.settleAgent (s : State) (a : Agent) (id : Nat) (f : Ctx → Ctx) : State :=
  (s.modAgent a f).modPart a.part (fun p => { p with ckpt := p.ckpt.map (fun k =>
    if id < k.mark then
      { k with window := k.window.map (fun t => if t.id = a.task then
        { t with saved := t.saved.map (fun c => if c.gangIdx = a.who then c.setCtx a.ctx (f (c.ctx a.ctx)) else c) } else t) }
    else k) })

/-- An acknowledgement of a posted operation (R287). -/
def Ctx.acked (t : Ctx) : Ctx := { t with rfcount := t.rfcount - 1 }

/-- A refusal of a posted operation, recorded (R132). -/
def Ctx.refused (t : Ctx) (code : Nat) : Ctx :=
  { t with
    rfcount := t.rfcount - 1
    refCount := Nat.min (t.refCount + 1) 0xFFFFFF
    refCode := if t.refCount = 0 then code else t.refCode }

/-- An answer to a request that the thread waits for. -/
def Ctx.answered (t : Ctx) (r : Reply) : Ctx := { t with replies := t.replies ++ [r] }

/-- Bytes that a load or an atomic waits for; none for a posted operation. -/
def waitsFor : DomOp → Option Nat
  | .load n => some n
  | .atomic op => some (atomBytes op)
  | _ => none

/-- Whether an operation of the outbox is a reduction flit (R388). -/
def OutMsg.isFlit (m : OutMsg) : Bool := flitAt m.off m.op

/-- Whether every answer to an operation is a refusal with code 2: it names a collective offset without being a reduction, or an offset that
no window and no group covers (R388). -/
def OutMsg.barred (m : OutMsg) : Bool :=
  !m.isFlit && decide (collectiveBase ≤ m.off) && (match m.op with
    | .signal _ _ => false
    | _ => true)

/-- The effect of an acknowledgement, with the data that a load or an atomic waits for. -/
def OutMsg.ack (m : OutMsg) (data : List Byte) (poison : Bool) (t : Ctx) : Ctx :=
  match waitsFor m.op with
  | some n => t.answered ⟨m.id, Machine.slice data 0 n, poison, 0, 0⟩
  | none => t.acked

/-- The effect of a refusal: a waiting thread raises REMOTE_REFUSED (R117, R126). -/
def OutMsg.refuse (m : OutMsg) (code : Nat) (t : Ctx) : Ctx :=
  match waitsFor m.op with
  | some _ => t.answered ⟨m.id, [], false, Cause.remoteRefused, code⟩
  | none => t.refused code

/-- The entry of the outbox at a place, if it is the kind of operation asked for. -/
def State.outAt (s : State) (k : Nat) (own flit : Bool) : Option OutMsg :=
  (s.outbox[k]?).bind (fun m => if m.isFlit == flit && (flit || (m.dev == s.devnum.toNat) == own) then some m else none)

/-- The state without an entry of the outbox. -/
def State.dropOut (s : State) (k : Nat) : State := { s with outbox := dropAt s.outbox k }

/-- REMOTE_ACK: the acknowledgement of an operation on another device, with the data of a load or an atomic and its poison mark (R117, R118,
R287); what the fabric does not carry comes back refused (R388). -/
def execRemoteAck (k : Nat) (data : AckData) (s : State) : Outcome :=
  match s.outAt k false false with
  | none => .next s
  | some m => .next ((s.dropOut k).settleAgent m.by_ m.id (if m.barred then m.refuse 2 else m.ack data.bytes data.poison))

/-- REMOTE_REFUSAL (R132, R388). -/
def execRemoteRefusal (k : Nat) (code : BitVec 8) (s : State) : Outcome :=
  match s.outAt k false false with
  | none => .next s
  | some m => .next ((s.dropOut k).settleAgent m.by_ m.id (m.refuse (if m.barred then 2 else code.toNat)))

/-! ### Signals (R336) -/

/-- SIGNAL_FILL_ARRIVAL: a fill reaches its gang tile, which accepts it (R335, R336). -/
def execSignalFillArrival (k : Nat) (s : State) : Outcome :=
  match s.takeMsg k with
  | none => .next s
  | some (m, t) => match m.kind with
    | .fill home ctx reg v => .next ((t.fill home ctx reg v).answer m.core m.ctx ⟨m.id, [], false, 0, 0⟩)
    | _ => .next s

/-- What an operation comes to at a message executor: it must wait, it is refused, or it has its effect and an answer. -/
inductive Exec where
  | wait
  | refused (code : Nat)
  | done (data : List Byte) (poison : Bool) (s : State)

/-- A remote signal at the partition that it names (R336, R387). An index that no tile of the gang has names no context. -/
def State.remoteSignal (s : State) (part : Nat) (w v : Word) : Exec :=
  if (s.part part).inReset then .refused 1
  else match (s.part part).task (sigTask w) with
    | none => .refused 4
    | some t =>
      if t.phase ≠ .running ∧ t.phase ≠ .saved then .refused 4
      else if t.tiles.length ≤ sigTile w ∧ t.saved.length ≤ sigTile w then .done [] false s
      else match s.fillAgent ⟨part, t.id, sigTile w, sigCtx w⟩ (sigReg w) v true with
        | some s => .done [] false s
        | none => .wait

/-! ### The message executor (R287, R303, R387) -/

/-- Whether a partition's export window holds an offset. -/
def Part.exports (p : Part) (off n : Nat) : Bool :=
  p.present && decide (p.exportBase ≤ off) && decide (off + n ≤ p.exportBase + p.exportLen)

/-- The partition on which an operation from outside acts: that of its port and its window. -/
def State.exportPart (s : State) (port off n : Nat) : Option Nat :=
  (List.range 16).find? (fun p => nbit (s.part p).ports.toNat port && (s.part p).exports off n)

/-- The partition that holds a port. -/
def State.portPart (s : State) (port : Nat) : Option Nat :=
  (List.range 16).find? (fun p => (s.part p).present && nbit (s.part p).ports.toNat port)

/-- Bytes that an operation touches. -/
def domBytes : DomOp → Nat
  | .load n => n
  | .store bs => bs.length
  | .atomic op => atomBytes op
  | .signal _ _ => 0

/-- The effect of an operation on a partition, at device scope on the die that owns the stack (R303). -/
def State.domainAccess (s : State) (part off : Nat) (op : DomOp) : Exec :=
  let p := s.part part
  let pa := p.exportPa + (off - p.exportBase)
  let d := s.homeDie part pa
  if p.inReset then .refused 1
  else if (p.place pa).isNone then .refused 2
  else match op with
    | .load n => match s.devRead d part pa (n + 1) n with
      | none => .wait
      | some (bs, pz, s) => .done bs pz s
    | .store bs => match s.devWrite d part pa (bs.length + 1) bs with
      | none => .wait
      | some s => .done [] false s
    | .atomic op => match s.devAtomic d part pa (atomBytes op) (fun old => atomCells op pa old) with
      | none => .wait
      | some (bs, pz, s) => .done bs pz s
    | .signal _ _ => .refused 2

/-- An operation of this device to itself: it acts on the issuer's own partition. -/
def State.ownAccess (s : State) (m : OutMsg) : Exec :=
  match m.op with
  | .signal w v => s.remoteSignal m.by_.part w v
  | op => if (s.part m.by_.part).exports m.off (domBytes op) then s.domainAccess m.by_.part m.off op else .refused 2

/-- An operation from outside. -/
def State.extAccess (s : State) (m : DomMsg) : Option Nat × Exec :=
  match m.op with
  | .signal w v => match s.portPart m.port with
    | some p => (some p, s.remoteSignal p w v)
    | none => (none, .refused 4)
  | op => match s.exportPart m.port m.off.toNat (domBytes op) with
    | some p => (some p, s.domainAccess p m.off.toNat op)
    | none => (none, .refused 2)

/-- What the executor does with an operation of this device: none where it must wait (R287). -/
def State.runOwn (s : State) (id : Nat) : Option State :=
  match firstIdx (fun m => m.id == id) s.outbox with
  | none => some s
  | some k => match s.outbox[k]? with
    | none => some s
    | some m => match s.ownAccess m with
      | .wait => none
      | .refused c => some ((s.dropOut k).settleAgent m.by_ m.id (m.refuse c))
      | .done bs pz t => some ((t.dropOut k).settleAgent m.by_ m.id (m.ack bs pz))

/-- The data that an answer to an operation carries. -/
def DomOp.answerData : DomOp → List Byte → List Byte
  | .load n, bs => bs.take n
  | .atomic op, bs => bs.take (atomBytes op)
  | _, _ => []

/-- What the executor does with an operation from outside, whose answer leaves the device: none where it must wait (R132, R287, R379). -/
def State.runExt (s : State) (m : DomMsg) : Option State :=
  match s.extAccess m with
  | (_, .wait) => none
  | (_, .refused c) => some { s with answers := s.answers ++ [⟨m, some c, [], false⟩] }
  | (p, .done bs pz t) =>
    let t := { t with answers := t.answers ++ [⟨m, none, DomOp.answerData m.op bs, pz⟩] }
    some (if DomActs m.op then p.elim t t.noRollback else t)

/-- What the executor does with an operation. -/
def State.runOne (s : State) : DomArrival → Option State
  | .own id => s.runOwn id
  | .ext m => s.runExt m

/-- Every partition that has a full segment of its undo log asks for a checkpoint: a write to one of them waits (R378). -/
def State.wantFull (s : State) : State :=
  { s with parts := s.parts.map (fun e => (e.1, if e.2.logTight then { e.2 with ckptWanted := true } else e.2)) }

/-- The executor runs its operations in arrival order, each to completion before the next; one that must wait holds those behind it (R287,
R336). -/
def State.runExecutor (s : State) : List DomArrival → State
  | [] => { s with executor := [] }
  | a :: as => match s.runOne a with
    | none => { s.wantFull with executor := a :: as }
    | some t => State.runExecutor t as

/-- An operation that arrives: one of this device's own once those of its thread to this device before it have arrived, one from outside on a
port whose link has not failed (R287, R374). -/
def State.arrival (s : State) : DomSource → List DomArrival
  | .own k => match s.outAt k true false with
    | none => []
    | some m =>
      let here (id : Nat) : Bool := s.executor.contains (.own id)
      if here m.id || (s.outbox.take k).any (fun e => e.by_ == m.by_ && e.dev == m.dev && !here e.id) then [] else [.own m.id]
  | .ext m => if s.linkFailed.contains (9 * 2 ^ 16 + m.port) then [] else [.ext m]

/-- DOMAIN_MESSAGE_ARRIVAL: an operation joins those at the message executor, which applies or refuses them in order (R287, R303, R336). -/
def execDomainMessageArrival (src : DomSource) (s : State) : Outcome := .next (s.runExecutor (s.executor ++ s.arrival src))

/-! ### Collectives (R327, R388) -/

/-- The operand of a reduction, and the operation with another. -/
def atomArg : AtomOp → Word
  | .amo _ _ c => c
  | .cas _ _ v => v
  | .amof _ _ c => c
def setArg (op : AtomOp) (v : Word) : AtomOp :=
  match op with
  | .amo o w _ => .amo o w v
  | .cas w e _ => .cas w e v
  | .amof o f _ => .amof o f v

/-- The element a collective offset names: group and offset in the area. -/
def groupOf (off : Nat) : Nat := nfld off 27 20
def elemOf (off : Nat) : Nat := nfld off 19 0

/-- The collective in progress on an element. -/
def State.collective (s : State) (g e : Nat) : Option Collective := s.collectives.find? (fun c => c.group = g && c.elem == e)

/-- Two flits of one reduction in one: the operator applied, the counts added (R327). -/
def Collective.merge (c : Collective) (op : AtomOp) (count : Nat) (by_ : List Agent) : Collective :=
  ⟨c.group, c.elem, setArg c.op (w64 (atomNew op ((atomArg c.op).toNat % 2 ^ (8 * atomBytes op)))), c.count + count, c.issuers ++ by_⟩

/-- Merges a flit into the entry of its element, or makes one. -/
def mergeFlit (cs : List Collective) (f : Flit) (by_ : List Agent) : List Collective :=
  if cs.any (fun c => c.group = f.group && c.elem == f.elem) then
    cs.map (fun c => if c.group = f.group && c.elem == f.elem then c.merge f.op f.count by_ else c)
  else cs ++ [⟨f.group, f.elem, f.op, f.count, by_⟩]

/-- Applies a flit to its element at the destination (R327). -/
def State.addFlit (s : State) (f : Flit) (by_ : List Agent) : State := { s with collectives := mergeFlit s.collectives f by_ }

/-- Whether the element has room for a flit: its collective is not complete yet. -/
def State.flitRoom (s : State) (f : Flit) : Bool :=
  (s.collective f.group f.elem).all (fun c => decide (c.count + f.count ≤ tget 0 s.groups f.group))

/-- The tiles that route for a partition and take new flits: a tile whose role is leaving takes none from its change's tick on (R310). -/
def State.routingTiles (s : State) (p : Nat) : List Nat :=
  ((s.part p).roles.filterMap (fun r => if r.storage then none else r.tile)).filter (fun t =>
    !(s.part p).changes.any (fun c => c.begun && c.tile == t))

/-- The partials that a routing tile holds. -/
def State.partialsAt (s : State) (t : Nat) : List Collective := (s.partials.filter (fun e => e.1 = t)).map (·.2)

/-- A partial that a routing tile holds, as a flit. -/
def Collective.flit (c : Collective) : Flit := ⟨c.group, c.elem, c.op, c.count⟩

/-- Where a flit may go on its way: the routing tiles but the one it stands on, where what it meets makes no more than a collective. -/
def State.hops (s : State) (p : Nat) (here : Option Nat) (f : Flit) : List Nat :=
  (s.routingTiles p).filter (fun t => here != some t && (s.partialsAt t).all (fun c =>
    !(c.group == f.group && c.elem == f.elem) || decide (c.count + f.count ≤ tget 0 s.groups f.group)))

/-- A flit comes to a routing tile, which combines it with the one of its element that it holds (R327). -/
def State.addPartial (s : State) (t : Nat) (f : Flit) (by_ : List Agent) : State :=
  { s with partials := s.partials.filter (fun e => decide (e.1 ≠ t)) ++ (mergeFlit (s.partialsAt t) f by_).map (fun c => (t, c)) }

/-- A flit goes on, to a routing tile or to its destination, as the free value says (R8, R327). None: it must wait. -/
def State.sendFlit (s : State) (p : Nat) (here : Option Nat) (f : Flit) (by_ : List Agent) : Option State :=
  let ts := s.hops p here f
  let s' := if ts.isEmpty then s else s.freeNext
  match ts[(freeWord s.freeCtr 901).toNat % (ts.length + 1)]? with
  | some t => some (s'.addPartial t f by_)
  | none => if s.flitRoom f then some (s'.addFlit f by_) else none

/-- REDUCTION_FLIT_ARRIVAL (R310, R327, R388): an own flit leaves its tile; behind the flits of the outbox stand the partials that routing tiles
hold, of which one goes on with its count, to another routing tile or to the destination. To a group that is not set up, an operation is
refused with code 2. -/
def execReductionFlitArrival (src : FlitSource) (s : State) : Outcome :=
  match src with
  | .own k =>
    match s.outAt k false true, s.partials[k - s.outbox.length]? with
    | some m, _ => match m.op with
      | .atomic op =>
        let f : Flit := ⟨groupOf m.off, elemOf m.off, op, 1⟩
        if tget 0 s.groups f.group = 0 then .next ((s.dropOut k).settleAgent m.by_ m.id (fun t => t.refused 2))
        else orStay s ((s.dropOut k).sendFlit m.by_.part none f [m.by_])
      | _ => .next s
    | none, some (t, c) =>
      if k < s.outbox.length then .next s
      else orStay s ({ s with partials := dropAt s.partials (k - s.outbox.length) }.sendFlit (s.tilePart t) (some t) c.flit c.issuers)
    | none, none => .next s
  | .ext f => .next (if s.flitRoom f then s.addFlit f [] else s)

/-- Writes a result to the area of every member partition of this device. None: it must wait. -/
def State.writeMembers (s : State) (c : Collective) : Option State :=
  (List.range 16).foldl (fun s? p => s?.bind (fun s =>
    match (s.part p).present, (s.part p).collective.find? (fun e => e.1 = c.group) with
    | true, some e =>
      let pa := e.2 + c.elem
      if ((s.part p).place pa).isNone then some s
      else (s.devWrite (s.homeDie p pa) p pa 3 (toBytes (atomBytes c.op) (atomArg c.op).toNat)).map (fun s => s.noRollback p)
    | _, _ => some s)) (some s)

/-- COLLECTIVE_COMPLETE: the result is written to the members, then the issuers are acknowledged (R388). -/
def execCollectiveComplete (g e : Nat) (s : State) : Outcome :=
  match s.collective g e with
  | none => .next s
  | some c =>
    if c.count ≠ tget 0 s.groups g then .next s
    else orStay s.wantFull ((s.writeMembers c).map (fun s =>
      c.issuers.foldl (fun s a => s.modAgent a Ctx.acked) { s with collectives := s.collectives.filter (fun x => decide (x ≠ c)) }))

end Sys2Proof.Machine
end

