-- ==== Sys2Proof/Machine/Matrix.lean ====
section
/-!
DEFINITION. The instructions that enter a command in the matrix queue, close and wait for batches, and copy accumulator parts at issue:
rows 11 and 12 (R191 to R193, R201, R204, R206, R211 to R232).
-/

namespace Sys2Proof.Machine

/-! ### Entering a command (R192, R213) -/

/-- The command takes its position and joins the open batch, behind its thread's standing stores to the tile's store. -/
def Core.enqueue (k : Core) (x : Nat) (fpctl : Word) (op : QOp) (after : List Nat) : Core :=
  { k with
    mq := k.mq ++ [⟨op, k.mqPos, x, k.cycle, k.nextBatch.toNat, fpctl, [], after⟩]
    mqPos := (k.mqPos + 1) % 16
    mqOpen := k.mqOpen + 1 }

/-- Whether all 16 entries are in use. -/
def Core.queueFull (k : Core) : Bool := decide (16 ≤ k.mq.length)

/-- The stages after the modifiers: the full queue, the checks, the capture (R213). -/
def State.command (s : State) (bad : Option Trap) (op : QOp) : Res :=
  if s.myCore.queueFull then .bubble s
  else match bad with
    | some t => .raise s t
    | none => .done (s.modMyCore (fun k => k.enqueue s.cur.2 s.me.fpctl op ((s.ownPend s.cur.1 s.cur.2).map (·.id))))

/-- The registers of a group, copied at issue (R203). -/
def State.groupOf (s : State) (first : Word) (n : Nat) : List VVal := tabulate n (fun j => tget VVal.zero s.me.v (fld first 3 0 + j))

/-- An operand of a step as captured. -/
def State.matSrc (s : State) (f : OFmt) (grp : Bool) (a b : GReg) (k : Nat) : MatSrc :=
  ⟨s.g a, s.g b, if grp then some (s.groupOf (s.g a) (f.groupRegs k)) else none⟩

/-- A pair that names tile-store lines. -/
def State.pair (s : State) (a b : GReg) : MatSrc := ⟨s.g a, s.g b, none⟩

/-- Scratch of the issuing tile under its current SPLIT (R201). -/
def State.myScratch (s : State) : Nat := Nat.min (scratchOf s.myCore.split) (scratchOf s.myCore.splitSeen)

/-- The check of a step. -/
def State.stepTrap (s : State) (f : OFmt) (ag bg : Bool) (a b c e : GReg) (k : Nat) : Option Trap :=
  checkStep f ag bg (s.g a) (s.g b) (s.g c) (s.g e) k s.myScratch

/-- A count-plane operand. -/
def planeOf (s : State) (pl : Bool) (c : GReg) : Option Word := if pl then some (s.g c) else none

/-- The count-plane register as the modifier rules see it. -/
def opndsPlane (pl : Bool) (c : GReg) : List Opnd := if pl then [.src c] else []

/-- A row mask: bits 31:0 of b (R211). -/
def State.mask (s : State) (b : RegImm) : BitVec 32 := (s.b b).setWidth 32

/-! ### Row 11: commands -/

/-- MMA (R216). -/
def execMma (g : Guard) (d : AReg) (a b c e : GReg) (f : MmaFmt) (bg ag : Bool) (kk : BitVec 10) (s : State) : Outcome :=
  s.run (.mma g d a b c e f bg ag kk) 16 g [.src a, .src b, .src c, .src e] (fun s =>
    let k := kk.toNat
    s.command (s.stepTrap (ofMma f) ag bg a b c e k)
      (.mma f d.toNat (s.matSrc (ofMma f) ag a b k) (s.matSrc (ofMma f) bg c e k) k))

/-- MMAQ (R216). -/
def execMmaq (g : Guard) (d : AReg) (a b c e : GReg) (f : QFmt) (bg ag : Bool) (kk : BitVec 10) (s : State) : Outcome :=
  s.run (.mmaq g d a b c e f bg ag kk) 16 g [.src a, .src b, .src c, .src e] (fun s =>
    let k := kk.toNat
    s.command (s.stepTrap (ofQ f) ag bg a b c e k)
      (.mmaq f d.toNat (s.matSrc (ofQ f) ag a b k) (s.matSrc (ofQ f) bg c e k) k))

/-- MZERO (R217). -/
def execMzero (g : Guard) (d : AReg) (s : State) : Outcome :=
  s.run (.mzero g d) 8 g [] (fun s => s.command none (.mzero d.toNat))

/-- MLD (R218, R219). -/
def execMld (g : Guard) (d : AReg) (a b c : GReg) (dc : MData) (pl : Bool) (s : State) : Outcome :=
  s.run (.mld g d a b c dc pl) 12 g (.src a :: .src b :: opndsPlane pl c) (fun s =>
    s.command (checkRows dc (s.g a) (s.g b) (planeOf s pl c) s.myScratch) (.mld d.toNat (s.pair a b) dc (planeOf s pl c)))

/-- MST (R218, R220). -/
def execMst (g : Guard) (d : AReg) (a b c : GReg) (dc : MData) (pl : Bool) (s : State) : Outcome :=
  s.run (.mst g d a b c dc pl) 12 g (.src a :: .src b :: opndsPlane pl c) (fun s =>
    s.command (checkRows dc (s.g a) (s.g b) (planeOf s pl c) s.myScratch) (.mst d.toNat (s.pair a b) dc (planeOf s pl c)))

/-- MSCALE: the scale is bits 31:0 of f, count at most 24 (R217). -/
def execMscale (g : Guard) (d : AReg) (a : FReg) (b : RegImm) (s : State) : Outcome :=
  s.run (.mscale g d a b) 8 g (.srcF a :: opndsB b) (fun s =>
    let v := s.fval a
    s.command none (.mscale d.toNat ⟨v.val.setWidth 32, Nat.min v.cnt 24⟩ (s.mask b)))

/-! ### Row 12: commands -/

/-- The entry checks of SMXA on its position word (R226). -/
def posTrap (e : Word) : Option Trap :=
  orTrap (failIf (bit e 63) (some ⟨Cause.boundCheck, e, 1⟩)) (failIf (decide (32 < fld e 61 56)) (some ⟨Cause.boundCheck, e, 2⟩))

/-- SMXA (R226). -/
def execSmxa (g : Guard) (d a : AReg) (b c e : GReg) (f : MmaFmt) (fs : BitVec 5) (s : State) : Outcome :=
  s.run (.smxa g d a b c e f fs) 16 g [.src b, .src c, .src e] (fun s =>
    let v := tget FVal.zero s.me.f fs.toNat
    s.command (orTrap (posTrap (s.g e)) (checkProb (s.g b) (s.g c) s.myScratch))
      (.smxa f d.toNat a.toNat (s.pair b c) ⟨v.val.setWidth 32, Nat.min v.cnt 24⟩ (s.g e)))

/-- SMXFIN (R228). -/
def execSmxfin (g : Guard) (d : AReg) (b : RegImm) (rst : Bool) (s : State) : Outcome :=
  s.run (.smxfin g d b rst) 12 g (opndsB b) (fun s => s.command none (.smxfin d.toNat (s.mask b) rst))

/-- SMXMERGE (R229). -/
def execSmxmerge (g : Guard) (d a : AReg) (b : RegImm) (s : State) : Outcome :=
  s.run (.smxmerge g d a b) 8 g (opndsB b) (fun s =>
    s.command (failIf (d == a) (some ⟨Cause.boundCheck, w64 d.toNat, 3⟩)) (.smxmerge d.toNat a.toNat (s.mask b)))

/-- SMXLD (R230). -/
def execSmxld (g : Guard) (d : AReg) (a : GReg) (b : RegImm) (c : GReg) (pl : Bool) (s : State) : Outcome :=
  s.run (.smxld g d a b c pl) 12 g (.src a :: opndsB b ++ opndsPlane pl c) (fun s =>
    s.command (checkState (s.g a) (s.mask b) (planeOf s pl c) s.myScratch) (.smxld d.toNat (s.g a) (s.mask b) (planeOf s pl c)))

/-- SMXST (R230). -/
def execSmxst (g : Guard) (d : AReg) (a : GReg) (b : RegImm) (c : GReg) (pl : Bool) (s : State) : Outcome :=
  s.run (.smxst g d a b c pl) 12 g (.src a :: opndsB b ++ opndsPlane pl c) (fun s =>
    s.command (checkState (s.g a) (s.mask b) (planeOf s pl c) s.myScratch) (.smxst d.toNat (s.g a) (s.mask b) (planeOf s pl c)))

/-- SMXINIT (R231). -/
def execSmxinit (g : Guard) (d : AReg) (b : RegImm) (s : State) : Outcome :=
  s.run (.smxinit g d b) 8 g (opndsB b) (fun s => s.command none (.smxinit d.toNat (s.mask b)))

/-! ### Batches (R206, R221, R222) -/

/-- The number after a batch number: 0 is skipped (R221). -/
def nextNum (n : BitVec 32) : BitVec 32 := if n + 1 = 0 then 1 else n + 1

/-- Closes the open batch. -/
def Core.closeBatch (k : Core) (fill : Option (Nat × Nat)) : Core :=
  { k with closed := k.closed ++ [⟨k.nextBatch.toNat, fill⟩], nextBatch := nextNum k.nextBatch, mqOpen := 0 }

/-- MCOMMIT: with the fill bit, d is set empty and the fill is armed (R221); a fifth incomplete batch is not closed (R206). -/
def execMcommit (g : Guard) (d : GReg) (fill : Bool) (s : State) : Outcome :=
  s.run (.mcommit g d fill) 8 g [.dst d] (fun s =>
    if 4 ≤ s.myCore.closed.length then .bubble s
    else if fill then
      let arm := if d.num = 0 then none else some (s.cur.2, d.num.toNat)
      .done ((s.modMyCore (fun k => k.closeBatch arm)).setFullG d.num.toNat false)
    else .done ((s.modMyCore (fun k => k.closeBatch none)).putG d (w64 s.myCore.nextBatch.toNat)))

/-- Whether a batch number has not been closed (R222). -/
def Core.notClosed (k : Core) (n : BitVec 32) : Bool := decide (2 ^ 31 ≤ (k.nextBatch - n).toNat) || n == k.nextBatch

/-- The report of highest priority of a context that a wait on batch n takes, of one cause the one recorded first (R215; DESIGN CHOICE, log 80). -/
def Core.reportFor (k : Core) (x : Nat) (n : BitVec 32) : Option Report :=
  (sortBy (fun r => r.cause) (k.reports.filter (fun r => r.ctx = x && decide ((n - BitVec.ofNat 32 r.batch).toNat < 2 ^ 31)))).head?

/-- MWAIT (R222). -/
def execMwait (g : Guard) (a : GReg) (s : State) : Outcome :=
  s.run (.mwait g a) 8 g [.src a] (fun s =>
    let w := s.g a
    let n : BitVec 32 := w.setWidth 32
    if fld w 63 32 ≠ 0 then .trap Cause.boundCheck w 2 s
    else if n = 0 then .done s
    else if s.myCore.notClosed n then .trap Cause.boundCheck w 1 s
    else if !s.myCore.batchDone n.toNat then .park (.batch n.toNat) s
    else match s.myCore.reportFor s.cur.2 n with
      | some r => .trap r.cause r.tval r.tstat (s.modMyCore (fun k => { k with reports := k.reports.filter (fun e => decide (e ≠ r)) }))
      | none => .done s)

/-! ### Reads at issue (R223, R224) -/

/-- The elements of an accumulator. -/
def Acc.elems (a : Acc) : List FC := a.rows.flatMap (fun r => r.els)

/-- The byte of MTEST for an accumulator. -/
def Core.accByte (k : Core) (n : Nat) : Nat :=
  if (k.accBusy n).isSome then 128
  else
    let es := (k.accOf n).elems
    64 * b2n (es.any (fun e => e.fv.isInf)) + 32 * b2n (es.any (fun e => e.fv.isNan)) + es.foldl (fun m e => Nat.min m e.c) 24

/-- MTEST (R223). -/
def execMtest (g : Guard) (d : GReg) (s : State) : Outcome :=
  s.run (.mtest g d) 8 g [.dst d] (fun s =>
    .done (s.putG d (w64 (ofBytes (tabulate 8 (fun n => BitVec.ofNat 8 (s.myCore.accByte n)))))))

/-- A v register of 32 values with counts. -/
def vOfParts (p : Nat → FC) : VVal := ⟨tabulate 32 (fun l => (p l).v), tabulate 32 (fun l => BitVec.ofNat 8 (p l).c)⟩

/-- The part of an accumulator that VFROMA reads. -/
def Acc.part (a : Acc) (sl : AccSel) (i : Nat) : VVal :=
  match sl with
  | .row => vOfParts (fun l => (a.row i).el l)
  | .m => vOfParts (fun l => (a.row l).m)
  | .l => vOfParts (fun l => (a.row l).l)
  | .st => vOfParts (fun l => ⟨BitVec.ofNat 32 (b2n (nbit a.st.toNat l)), 0⟩)

/-- The value that VTOA takes from a lane. -/
def VVal.toFC (v : VVal) (l : Nat) : FC := ⟨v.lane l, Nat.min ((v.cnt l).toNat % 32) 24⟩

/-- The accumulator with a part set from a v register. -/
def Acc.putPart (a : Acc) (sl : AccSel) (i : Nat) (v : VVal) : Acc :=
  match sl with
  | .row => a.mapRows (fun k r => if k = i then { r with els := tabulate 32 v.toFC } else r)
  | .m => a.mapRows (fun k r => { r with m := v.toFC k })
  | .l => a.mapRows (fun k r => { r with l := v.toFC k })
  | .st => { a with st := maskOf (fun l => (v.lane l).getLsbD 0), known := BitVec.allOnes 32 }

/-- The checks of VFROMA and VTOA. -/
def State.partTrap (s : State) (acc : Nat) (b : GReg) (sl : AccSel) : Option Trap :=
  match s.myCore.accBusy acc with
  | some pos => some ⟨Cause.accInFlight, w64 acc, w64 pos⟩
  | none => failIf (sl == .row && decide (31 < (s.g b).toNat)) (some ⟨Cause.boundCheck, s.g b, 0⟩)

/-- The row index of VFROMA and VTOA as the modifier rules see it. -/
def opndsSel (sl : AccSel) (b : GReg) : List Opnd := if sl == .row then [.src b] else []

/-- VFROMA (R224). -/
def execVfroma (g : Guard) (d : VReg) (a : AReg) (b : GReg) (sl : AccSel) (s : State) : Outcome :=
  s.run (.vfroma g d a b sl) 8 g (opndsSel sl b) (fun s =>
    match s.partTrap a.toNat b sl with
    | some t => .raise s t
    | none => .done (s.putV d ((s.myCore.accOf a.toNat).part sl (s.g b).toNat)))

/-- VTOA (R224). -/
def execVtoa (g : Guard) (d : AReg) (a : VReg) (b : GReg) (sl : AccSel) (s : State) : Outcome :=
  s.run (.vtoa g d a b sl) 8 g (opndsSel sl b) (fun s =>
    match s.partTrap d.toNat b sl with
    | some t => .raise s t
    | none => .done (s.modMyCore (fun k =>
        { k with acc := tput k.acc d.toNat ((k.accOf d.toNat).putPart sl (s.g b).toNat (s.v a)) })))

end Sys2Proof.Machine
end

