-- ==== Sys2Proof/Machine/Faults.lean ====
section
/-!
DEFINITION. Machine checks: who is told of a fault, at what rate, and with what report (R373).
-/

namespace Sys2Proof.Machine

/-- Whom an event of the fabric is raised on: a hardware context, or the state that the resident firmware of a die keeps for a partition, 16 for
the provider's, while it is on no hardware context (R252, R355). -/
inductive Target where
  | ctx (c x : Nat)
  | resident (d p : Nat)
  deriving DecidableEq, Repr

/-- Raises an event on a target; one that the resident firmware keeps waits for the state to be on a hardware context (R249, R252). -/
def State.tell (s : State) (t : Target) (e : Ev) : State :=
  match t with
  | .ctx c x => s.post c x e
  | .resident d p => s.modDie d (fun k => { k with waiting := k.waiting ++ [(p, e)] })

/-- The hardware context of a die's Atelier core that runs the state of a partition: the lowest running one with its PARTID, or a held one
where none runs (R252, R355). -/
def State.atelierCtx (s : State) (d p : Nat) : Option (Nat × Nat) :=
  let at_ (f : Ctx → Bool) : Option Nat :=
    (List.range 16).find? (fun x => f (s.ctx (atelierCore d) x) && decide ((s.ctx (atelierCore d) x).partid = p))
  ((at_ (fun t => t.state == .running)).orElse (fun _ => at_ Ctx.live)).map (fun x => (atelierCore d, x))

/-- The Atelier context of a partition on a die (R252, R355). -/
def State.atelier (s : State) (d p : Nat) : Target :=
  match s.atelierCtx d p with
  | some x => .ctx x.1 x.2
  | none => .resident d p

/-- The provider's context on a die's Atelier core: context 0, from which modules are called (R346, R373; DESIGN CHOICE, log 77). -/
def State.provider (s : State) (d : Nat) : Target :=
  if (s.ctx (atelierCore d) 0).live then .ctx (atelierCore d) 0 else .resident d 16

/-- The partition whose bands hold a tile, if any does. -/
def State.bandOwner (s : State) (c : Nat) : Option Nat :=
  (List.range 16).find? (fun p => (s.part p).present && nbit (s.part p).bands.toNat (bandOf c))

/-- Who is told of a fault of a tile's unit: context 0 of the tile where it is bound to a gang, otherwise the partition's Atelier
context on its die. -/
def State.tileTarget (s : State) (c : Nat) : Target :=
  if (s.core c).tstate == .bound then .ctx c 0
  else if isAtelier c then s.provider (dieOf c)
  else match s.bandOwner c with
    | some p => s.atelier (dieOf c) p
    | none => s.provider (dieOf c)

/-- Reports a fault of a unit. `c` is the core that keeps the unit's counts and `key` the unit among them. A corrected fault within 1 ms
of the unit's last corrected report is only counted (R373). -/
def State.machineCheck (s : State) (c key : Nat) (targets : List Target) (corrected : Bool) (code : Nat) (tval : Word) : State :=
  let k := s.core c
  let last := k.mcLast.find? (fun e => e.1 = key)
  if corrected && last.any (fun e => decide (s.gtime.toNat < e.2 + ticksMs)) then
    s.modCore c (fun k => { k with mcMore := tmod 0 k.mcMore key (fun n => Nat.min (n + 1) 0xFFFFFF) })
  else
    let stat := w64 (code + tget 0 k.mcMore key * 256)
    let s := s.modCore c (fun k => { k with
      mcLast := if corrected then tput k.mcLast key s.gtime.toNat else k.mcLast
      mcMore := tput k.mcMore key 0 })
    let e : Ev := .plain (if corrected then Cause.machineCheckCorrected else Cause.machineCheckFatal) tval stat
    targets.foldl (fun s t => s.tell t e) s

/-- A machine check of a unit of a tile: unit code, and the low bits of TVAL beside the tile number. -/
def State.tileCheck (s : State) (c code : Nat) (corrected : Bool) (low : Nat) : State :=
  s.machineCheck c code [s.tileTarget c] corrected code (w64 (c * 2 ^ 48 + low))

end Sys2Proof.Machine
end

