-- ==== Sys2Proof/Machine/MatrixRun.lean ====
section
/-!
DEFINITION. The matrix queue at work: the value of every command at its turn, its occupancy of the unit, poison and residue, the reports of
a batch, and the completion of a batch (R142 to R145, R151 to R158, R191, R192, R202, R204 to R209, R215 to R231, R401).
-/

namespace Sys2Proof.Machine

/-! ### Occupancy (R202, R401) -/

/-- The ranges that granule or block g of an operand reads. -/
def granuleReads (f : OFmt) (isB : Bool) (src : MatSrc) (depth g : Nat) : List Range :=
  let grp := src.group.isSome
  (if grp then []
   else if nMajor isB grp src.first then
     tabulate f.step (fun i => (lineAddr src.first (f.step * g + i), f.bytes (dRows src.second)))
   else tabulate (dRows src.second) (fun i => (lineAddr src.first i + f.bytes (f.step * g), f.bytes f.step))) ++
  (if f.quant then tabulate (dRows src.second) (fun i => (scaleAt f isB grp src.first src.second depth i g, 3)) else [])

/-- The bytes of ranges that lie in a bank: lines that coincide count each (DESIGN CHOICE, log 80). -/
def bankBytes (rs : List Range) (b : Nat) : Nat :=
  rs.foldl (fun n r => n + (Nat.min (r.1 + r.2) ((b + 1) * 2 ^ 17) - Nat.max r.1 (b * 2 ^ 17))) 0

/-- Cycles of a granule or block. -/
def granuleCycles (f : OFmt) (rs : List Range) : Nat :=
  let n := (List.range 16).foldl (fun m b => Nat.max m (bankBytes rs b)) 0
  Nat.max 1 ((n + 63) / 64) * (if f = .q8 then 2 else 1)

/-- Cycles of a step. -/
def stepCycles (f : OFmt) (a b : MatSrc) (depth : Nat) : Nat :=
  (List.range (depth / f.step)).foldl (fun n g => n + granuleCycles f (granuleReads f false a depth g ++ granuleReads f true b depth g)) 0

/-- Cycles that a command occupies the unit at full rate. -/
def QOp.cycles : QOp → Nat
  | .mma f _ a b n => stepCycles (ofMma f) a b n
  | .mmaq f _ a b n => stepCycles (ofQ f) a b n
  | .mzero _ => 8
  | .mscale _ _ _ => 8
  | .mld _ a dc pl => dRows a.second * ((if dc = .s then 2 else 1) + b2n pl.isSome)
  | .mst _ a dc pl => dRows a.second * ((if dc = .hf ∨ dc = .bf then 1 else 2) + b2n pl.isSome)
  | .smxa _ _ _ p _ _ => 2 * dRows p.second
  | .smxfin _ m _ => Nat.max 1 (popcount m.toNat 32)
  | .smxmerge _ _ m => Nat.max 1 (2 * popcount m.toNat 32)
  | .smxld _ _ m _ => Nat.max 1 ((popcount m.toNat 32 + 7) / 8)
  | .smxst _ _ m _ => Nat.max 1 ((popcount m.toNat 32 + 7) / 8)
  | .smxinit _ _ => 1

/-- The cycle until which a command occupies the unit, the duty of a power limit counted (R2, R392). -/
def State.busyUntil (s : State) (c : Nat) (q : QCmd) : Nat :=
  Nat.max (s.core c).mqBusy q.cycle + (16 * q.op.cycles + (Nat.max 1 s.duty - 1)) / Nat.max 1 s.duty

/-- Whether a command may complete: at least 160 cycles after its issue, its occupancy over, and the stores it follows applied (R192, R202,
R296, R401). -/
def State.mayComplete (s : State) (c : Nat) (q : QCmd) : Bool :=
  decide (Nat.max (q.cycle + 160) (s.busyUntil c q) ≤ (s.core c).cycle) && s.net.all (fun m => !q.after.contains m.id)

/-! ### Poison, residue, reports (R208, R209, R215) -/

/-- TSTAT of POISON_OPERAND with one command more discarded. -/
def moreDiscards (w : Word) : Word := if fld w 7 4 = 15 then w else w + 16

/-- Whether a batch has recorded a report of a cause, be it still pending or not. -/
def Core.hasReported (k : Core) (batch cause : Nat) : Bool := k.reported.contains (batch, cause)

/-- Records a report: one per batch and cause, which belongs to the thread of the first command to raise it; further discards are counted
while it is pending. Of a thread that has ended only POISON_OPERAND is kept, for the task's status (R208, R215). -/
def Core.record (k : Core) (q : QCmd) (cause : Nat) (tstat : Word) : Core :=
  if k.hasReported q.batch cause then
    if cause = Cause.poisonOperand then
      { k with reports := k.reports.map (fun r => if r.batch = q.batch ∧ r.cause = cause then { r with tstat := moreDiscards r.tstat } else r) }
    else k
  else { k with
    reported := k.reported ++ [(q.batch, cause)]
    reports := if q.ctx = noCtx ∧ cause ≠ Cause.poisonOperand then k.reports else k.reports ++ [⟨cause, q.batch, q.ctx, w64 q.pos, tstat⟩] }

/-- A command is discarded whole. A report that reaches no thread marks the task (R26, R208). -/
def State.discardCmd (s : State) (c : Nat) (q : QCmd) (src : Nat) : State :=
  let first := !(s.core c).hasReported q.batch Cause.poisonOperand
  let s := s.modCore c (fun k => k.record q Cause.poisonOperand (w64 (q.op.accs.headD 0 + 8 * src)))
  if first && decide (q.ctx = noCtx) then
    s.modPart (s.tilePart c) (fun p => p.modTask (s.core c).taskId (fun t => { t with lost := true }))
  else s

/-- The effect of a command with its report. -/
def State.doCmd (s : State) (c : Nat) (q : QCmd) : State :=
  let k := s.core c
  let k' := k.complete s.freeCtr q
  let s := if q.hits.isEmpty then s else s.freeNext
  s.setCore c (match k.reportOf q.op with
    | some (cause, en, stat) => if bit q.fpctl en then k'.record q cause (w64 stat) else k'
    | none => k')

/-- The head of the queue leaves it. -/
def State.popCmd (s : State) (c : Nat) (q : QCmd) : State :=
  let until' := s.busyUntil c q
  s.modCore c (fun k => { k with mq := k.mq.drop 1, mqBusy := until' })

/-- A command's turn, for the rows that run one kind of command. A residue that does not agree has no A or B source: bit 3 of its report is 0
(DESIGN CHOICE, log 80). -/
def State.turn (s : State) (c : Nat) (want : QOp → Bool) (res : Residue) : Outcome :=
  match (s.core c).mq with
  | [] => .next s
  | q :: _ =>
    if !want q.op || !s.mayComplete c q then .next s
    else
      let bad := (s.core c).badSource q.op
      let s := s.popCmd c q
      match bad with
      | some src => .next (s.discardCmd c q src)
      | none => match res with
        | .ok => .next (s.doCmd c q)
        | .retried => .next ((s.doCmd c q).tileCheck c 3 true q.pos)
        | .failed => .next ((s.discardCmd c q 0).tileCheck c 3 false q.pos)

/-! ### The rows -/

/-- MMA_STEP_RUN (R216). -/
def execMmaStepRun (c : Nat) (res : Residue) (s : State) : Outcome :=
  s.turn c (fun o => match o with
    | .mma _ _ _ _ _ => true
    | _ => false) res

/-- MMAQ_STEP_RUN (R216). -/
def execMmaqStepRun (c : Nat) (res : Residue) (s : State) : Outcome :=
  s.turn c (fun o => match o with
    | .mmaq _ _ _ _ _ => true
    | _ => false) res

/-- MZERO_RUN (R217). -/
def execMzeroRun (c : Nat) (s : State) : Outcome :=
  s.turn c (fun o => match o with
    | .mzero _ => true
    | _ => false) .ok

/-- MSCALE_RUN (R217). -/
def execMscaleRun (c : Nat) (s : State) : Outcome :=
  s.turn c (fun o => match o with
    | .mscale _ _ _ => true
    | _ => false) .ok

/-- MLD_RUN (R219). -/
def execMldRun (c : Nat) (s : State) : Outcome :=
  s.turn c (fun o => match o with
    | .mld _ _ _ _ => true
    | _ => false) .ok

/-- MST_RUN (R220). -/
def execMstRun (c : Nat) (s : State) : Outcome :=
  s.turn c (fun o => match o with
    | .mst _ _ _ _ => true
    | _ => false) .ok

/-- SMXA_RUN (R227). -/
def execSmxaRun (c : Nat) (s : State) : Outcome :=
  s.turn c (fun o => match o with
    | .smxa _ _ _ _ _ _ => true
    | _ => false) .ok

/-- SMXFIN_RUN (R228). -/
def execSmxfinRun (c : Nat) (s : State) : Outcome :=
  s.turn c (fun o => match o with
    | .smxfin _ _ _ => true
    | _ => false) .ok

/-- SMXMERGE_RUN (R229). -/
def execSmxmergeRun (c : Nat) (s : State) : Outcome :=
  s.turn c (fun o => match o with
    | .smxmerge _ _ _ => true
    | _ => false) .ok

/-- SMXLD_RUN (R230). -/
def execSmxldRun (c : Nat) (s : State) : Outcome :=
  s.turn c (fun o => match o with
    | .smxld _ _ _ _ => true
    | _ => false) .ok

/-- SMXST_RUN (R230). -/
def execSmxstRun (c : Nat) (s : State) : Outcome :=
  s.turn c (fun o => match o with
    | .smxst _ _ _ _ => true
    | _ => false) .ok

/-- SMXINIT_RUN (R231). -/
def execSmxinitRun (c : Nat) (s : State) : Outcome :=
  s.turn c (fun o => match o with
    | .smxinit _ _ => true
    | _ => false) .ok

/-- MATRIX_BATCH_COMPLETE: the earliest closed batch completes once none of its commands is queued or running; its fill is made (R206,
R221). -/
def execMatrixBatchComplete (c : Nat) (s : State) : Outcome :=
  match (s.core c).closed with
  | [] => .next s
  | b :: bs =>
    if (s.core c).mq.any (fun q => q.batch = b.num) then .next s
    else
      let s := s.modCore c (fun k => { k with
        closed := bs, lastBatch := BitVec.ofNat 32 b.num, reported := k.reported.filter (fun r => decide (r.1 ≠ b.num)) })
      .next (match b.fill with
        | none => s
        | some (x, reg) => s.fill c x reg (w64 b.num))

end Sys2Proof.Machine
end

