-- ==== Sys2Proof/Machine/Recover.lean ====
section
/-!
DEFINITION. Faults and their containment, checkpoints and rollback, reset, resize, the watchdog and held contexts (R258, R356, R362, R363,
R371 to R381).
-/

namespace Sys2Proof.Machine

/-- The tiles of a partition's bands. -/
def Part.tiles (p : Part) : List Nat := (List.range numTiles).filter (fun t => nbit p.bands.toNat (bandOf t))

/-- The tiles that run gangs of a partition. -/
def Part.gangTiles (p : Part) : List Nat := p.window.flatMap (fun t => t.tiles)

/-! ### Host writes (R378, R379, R385) -/

/-- Whether every byte of a host access lies in windows open to the host. -/
def Part.hostOpen (p : Part) (a : Word) (n : Nat) : Bool :=
  p.present && fld a 63 48 == 0 && (List.range n).all (fun i => (p.windowAt (a.toNat + i)).any (fun w => w.2.host))

/-- Applies the units of a host write in order; those from the first that must wait are what is left of it, and a full segment of the log asks for a
checkpoint. A written unit ends the chance of a rollback (R378, R379). -/
def State.hostPut (s : State) (part a : Nat) (bs : List Byte) : State :=
  let us := unitsOf a (bs.length + 1) bs
  let r := s.putUnits (s.homeDie part a) part false us
  let s := if r.2 = 0 then r.1 else r.1.noRollback part
  match us.drop r.2 with
  | [] => s
  | u :: _ => { s with hostRest := some (part, u.1, bs.drop (u.1 - a)) }.wantTight part

/-- What is left of a host write goes on; no byte of it does while a capture runs (R377), and one whose window has closed is discarded (R385). -/
def State.hostGoOn (s : State) : State :=
  match s.hostRest with
  | none => s
  | some (part, a, bs) =>
    if (s.part part).capture.isSome then s
    else
      let t := { s with hostRest := none }
      if (s.part part).hostOpen (w64 a) bs.length then t.hostPut part a bs else t

/-! ### Checkpoints (R376 to R378) -/

/-- Whether a capture is due: asked for, or its tick has come. -/
def State.captureDue (s : State) (p : Nat) : Bool := (s.part p).ckptWanted || s.ckptDue p

/-- Answers that are on their way to the cores. -/
def State.repliesDue (s : State) (cs : List Nat) : Bool :=
  s.dies.any (fun d => d.2.inbox.any (fun u => u.reply.any (fun m => cs.contains m.core)))

/-- The requests of cores that are on their way. -/
def State.flitsOf (s : State) (cs : List Nat) : List Msg := s.inFlight.filter (fun m => cs.contains m.core)

/-- A save record with the entries of its work list that are in transit (R329). -/
def Core.captured (k : Core) : Core := { k.saved with wl := k.wl ++ k.wlSent.flatMap (fun e => e.2), wlSent := [] }

/-- A task as a capture at tick K saves it: one that runs is saved as a gang switch saves it (R377). -/
def State.capturedTask (s : State) (tick : Nat) (t : Task) : Task :=
  if t.phase = .running then
    { t with
      phase := .saved, tiles := [], saved := t.tiles.map (fun c => (s.core c).captured), stopped := tick, rolled := true
      flits := s.flitsOf t.tiles, was := t.tiles }
  else t

/-- CKPTCTL after a capture: the fields last written, the next number, bit 10 clear (R376). -/
def Part.ckptStep (p : Part) : Word := (p.ckptNext &&& ckptMask) ||| w64 ((fld p.ckptctl 63 32 + 1) * 2 ^ 32)

/-- Completes a capture at tick K: its number is current, the log of the interval before it is discarded, the reports that waited may go,
and the faults of the new interval count from zero (R374, R376 to R379). -/
def State.captureDone (s : State) (part tick : Nat) : State :=
  let p := s.part part
  let k : Ckpt := ⟨fld p.ckptStep 63 32, tick, p.window.map (s.capturedTask tick), p.enq, p.dset, p.roles, p.censusctl, p.censusNext, p.nextTask,
    p.held, s.msgCtr⟩
  let s := s.setPart part { p with
    ckptctl := p.ckptStep, undo := [], ckpt := some k, ckptWanted := false, capture := none, enqLog := [], released := p.reports.length }
  p.tiles.foldl (fun s c => s.modCore c (fun k => { k with faults := k.faults.filter (fun e => decide (e.1 ≠ 0)) })) s

/-- CHECKPOINT_CAPTURE: every gang of the partition stops, what is in flight completes, the caches are written back, and the state is saved;
the gangs go on where they are. Requests that wait for room in the log are saved as they stand, and what is left of a host write goes on in the
new interval (R377, R378). -/
def execCheckpointCapture (part : Nat) (s : State) : Outcome :=
  let p := s.part part
  if !p.present || p.stopped || p.inReset then .next s
  else match p.capture with
  | none => if s.captureDue part then .next (s.modPart part (fun p => { p with capture := some s.now })) else .next s
  | some tick =>
    let cs := p.gangTiles
    if p.logTight then
      (if s.repliesDue cs then .next s else .next ((((s.emptyCaches cs).getD s).captureDone part tick).hostGoOn))
    else if s.gangBusy cs || s.gangMoving cs then .next s
    else match s.emptyCaches cs with
      | some s => .next s
      | none => .next (s.captureDone part tick).hostGoOn

/-! ### Unabsorbable faults (R374, R381) -/

/-- Whether a partition can be rolled back (R374, R376, R379). -/
def Part.canRollback (p : Part) : Bool := bit p.ckptctl 8 && !bit p.ckptctl 10 && p.ckpt.isSome

/-- No thread of the partition issues any more: it will be rolled back, or is reset; a fault during a rollback resets it (R374, R381). -/
def State.stopPart (s : State) (part : Nat) : State :=
  s.modPart part (fun p =>
    if p.inRollback || (!p.stopped && !p.canRollback) then { p with stopped := true, inRollback := false, inReset := true, capture := none }
    else { p with stopped := true, capture := none })

/-! ### Faults of units (R371 to R374) -/

/-- Whether a fault is at a unit of a tile; a controller of code 11 belongs to a tile or to a slice (R373). -/
def FaultIn.atTile (f : FaultIn) : Bool := f.unit == 1 || f.unit == 2 || f.unit == 3 || f.unit == 7 || (f.unit == 11 && !f.slice)

/-- Whether a fault is at a unit of a slice. -/
def FaultIn.atSlice (f : FaultIn) : Bool := f.unit == 4 || f.unit == 5 || (f.unit == 11 && f.slice)

/-- The die of the unit that a fault names. -/
def State.faultDie (s : State) (f : FaultIn) : Nat :=
  if FaultIn.atTile f then dieOf f.inst
  else if FaultIn.atSlice f then s.ownerDie (f.inst / 16)
  else if f.unit = 6 then s.ownerDie f.inst
  else if f.unit = 8 then f.inst
  else if f.unit = 9 then f.inst / 8
  else 2 * f.inst

/-- The partitions that a fault of a unit concerns: its owner; for a link, every partition whose class uses it, which are all for a
die-to-die link, and for a host link those whose function appears on it (R360, R373, R374, R382). -/
def State.faultParts (s : State) (f : FaultIn) : List Nat :=
  let all := (List.range 16).filter (fun p => (s.part p).present)
  (if f.unit = 8 then all
   else if f.unit = 10 then all.filter (fun p => (s.part p).link == f.inst)
   else if f.unit = 9 then all.filter (fun p => nbit (s.part p).ports.toNat f.inst)
   else if FaultIn.atSlice f then (s.halfOwner (sliceHalf f.inst)).toList
   else if f.unit = 6 then (s.halfOwner (2 * f.inst + f.loc / 2 ^ 35)).toList
   else (s.bandOwner f.inst).toList) ++ f.state.toList

/-- Whether a fault is unabsorbable (R374). -/
def unabsorbable (f : FaultIn) : Bool :=
  f.state.isSome || (!f.corrected && (f.unit == 2 || f.unit == 5 || (decide (7 ≤ f.unit) && decide (f.unit ≤ 11))))

/-- TVAL of a report (R373). -/
def faultTval (f : FaultIn) : Word :=
  if f.unit = 8 ∨ f.unit = 9 ∨ f.unit = 10 then w64 f.inst
  else w64 (f.inst * 2 ^ 48 + f.loc % 2 ^ (nth 48 [0, 21, 8, 4, 48, 7, 48, 2, 0, 0, 0, 8] f.unit))

/-- Whether a unit belongs to no one partition: a link between dies or to the host. -/
def FaultIn.shared (f : FaultIn) : Bool := f.unit == 8 || f.unit == 10

/-- Who is told: context 0 of a bound tile, otherwise the Atelier context of the partition that owns the unit, or the provider's where none
does; for an unabsorbable fault the Atelier contexts of the partitions it concerns in place of any tile (R373, R374). -/
def State.faultTargets (s : State) (f : FaultIn) : List Target :=
  let d := s.faultDie f
  if unabsorbable f then
    (if (s.faultParts f).isEmpty then [s.provider d] else (dedup (s.faultParts f)).map (s.atelier d))
  else if FaultIn.atTile f then [s.tileTarget f.inst]
  else if FaultIn.shared f then [s.provider d]
  else match (s.faultParts f).head? with
    | some p => [s.atelier d p]
    | none => [s.provider d]

/-- The core that keeps a unit's counts, and its key there: each port of a tile's links is a unit. -/
def State.faultKey (s : State) (f : FaultIn) : Nat × Nat :=
  if FaultIn.atTile f then (f.inst, if f.unit = 7 then 16 + f.loc % 4 else f.unit) else (atelierCore (s.faultDie f), f.unit * 2 ^ 16 + f.inst)

/-- A tile counts a fault of codes 1, 2 and 11 in the interval; three, or a fatal one of 2 or 11, retire it, at once where it is idle
(R374). -/
def Core.countFault (k : Core) (f : FaultIn) : Core :=
  if f.unit = 1 ∨ f.unit = 2 ∨ f.unit = 11 then
    let n := tget 0 k.faults 0 + 1
    let dead := decide (3 ≤ n) || (!f.corrected && f.unit != 1)
    let faults := tput k.faults 0 n
    { k with
      faults := if dead then tput faults 1 1 else faults
      tstate := if dead && k.tstate == .idle then .retired else k.tstate }
  else k

/-- Marks a piece of a slice as poisoned. -/
def State.poisonSlice (s : State) (n pa : Nat) : State :=
  s.modSlice n (fun l => { l with tags := l.tags.map (fun t =>
    if t.gran = alignDown pa 2048 ∧ nbit t.pres.toNat (pa / 64 % 32) then { t with poison := mapBit t.poison (pa / 64 % 32) true } else t) })

/-- Marks the bytes of a tile store, or the line in its cache banks, as poisoned. Which line stands at an offset is a free choice. -/
def State.poisonTile (s : State) (c off : Nat) : State :=
  let k := s.core c
  if off < scratchOf k.split || isAtelier c then s.modCore c (fun k => k.poisonStore off 1)
  else match k.cache[Config.freeWay s.freeCtr % Nat.max 1 k.cache.length]? with
    | none => s
    | some l => s.freeNext.modCore c (fun k => k.setLine { l with poison := true })

/-- Uncorrectable data is marked poisoned where it lies (R372). -/
def State.poisonAt (s : State) (f : FaultIn) : State :=
  match f.unit with
  | 1 => s.poisonTile f.inst f.loc
  | 4 => s.poisonSlice f.inst f.loc
  | 6 => s.modStack f.inst (fun k => { k with poison := if k.poison.contains (f.loc / 64) then k.poison else k.poison ++ [f.loc / 64] })
  | _ => s

/-- A fault that a unit has detected: the report, the poison mark, the tile's count, and for an unabsorbable one the stop of the
partitions (R371 to R374). -/
def State.fault (s : State) (f : FaultIn) : State :=
  let key := s.faultKey f
  let s := s.machineCheck key.1 key.2 (s.faultTargets f) f.corrected f.unit (faultTval f)
  let s := if f.corrected then s else s.poisonAt f
  let s := if FaultIn.atTile f && !isAtelier f.inst then s.modCore f.inst (fun k => k.countFault f) else s
  if unabsorbable f then (dedup (s.faultParts f)).foldl State.stopPart s else s

/-- FAULT_DETECTED (R371 to R374). -/
def execFaultDetected (f : FaultIn) (s : State) : Outcome := .next (if f.unit = 0 ∨ 11 < f.unit then s else s.fault f)

/-- PROGRESS_TIMEOUT: a controller that does not advance is faulty (R371, unit code 11). -/
def execProgressTimeout (u : FaultIn) (s : State) : Outcome := .next (s.fault { u with unit := 11, corrected := false })

/-- The failures in a row of a link's present flit: one more where the flit was itself a retry (R371). -/
def State.linkTries (s : State) (key : Nat) (again : Bool) : Nat := if again then tget 0 s.linkRetries key + 1 else 1

/-- A link among all: each port of a tile's mesh links is one. -/
def linkKey (l : LinkRef) : Nat := l.unit * 2 ^ 16 + l.inst + (if l.unit = 7 then l.port % 4 * 2 ^ 24 else 0)

/-- FLIT_CRC_ERROR: up to 16 retries of a flit mask the error; the failure of the last retrains the link, and a link that does not come back is
failed (R371, R374). -/
def execFlitCrcError (link : LinkRef) (s : State) : Outcome :=
  let key := linkKey link
  let n := s.linkTries key link.again
  let f (ok : Bool) : FaultIn := ⟨link.unit, link.inst, if link.unit = 7 then link.port % 4 else 0, false, ok, none⟩
  if link.unit < 7 ∨ 10 < link.unit then .next s
  else if n ≤ 16 then .next ({ s with linkRetries := tput s.linkRetries key n }.fault (f true))
  else
    let s := { s with linkRetries := tput s.linkRetries key 0 }
    if link.retrainFails then .next ({ s with linkFailed := s.linkFailed ++ [key] }.fault (f false)) else .next (s.fault (f true))

/-- TILE_STORE_SCRUB: it corrects single flipped bits, so that the store goes on holding its bytes (R371). -/
def execTileStoreScrub (_c : Nat) (s : State) : Outcome := .next s

/-- SLICE_SCRUB: as the scrub of the tile stores, for slice data and tags (R371). -/
def execSliceScrub (_n : Nat) (s : State) : Outcome := .next s

/-- STACK_SCRUB: as the scrub of the tile stores, for a stack's channels (R371). -/
def execStackScrub (_n : Nat) (s : State) : Outcome := .next s

/-! ### Rollback (R380) -/

/-- Discards the requests and the answers of cores that are on their way. -/
def State.dropFlits (s : State) (p : Nat → Bool) : State :=
  { s with
    net := s.net.filter (fun m => !p m.core)
    slices := s.slices.map (fun e => (e.1, { e.2 with
      queue := e.2.queue.filter (fun m => !p m.core), mshrs := e.2.mshrs.filter (fun m => !p m.core) }))
    dies := s.dies.map (fun e => (e.1, { e.2 with inbox := e.2.inbox.map (fun u => { u with
      reply := u.reply.filter (fun m => !p m.core), writer := u.writer.filter (fun m => !p m.core) }) })) }

/-- Stops the gangs of a partition and discards their state (R363, R380). -/
def State.dropGangs (s : State) (part : Nat) : State :=
  let cs := (s.part part).gangTiles
  cs.foldl (fun s c => s.modCore c Core.freed) (s.dropFlits (fun c => cs.contains c))

/-- A whole piece of a tile's store, with its mark. -/
def Core.putPiece (k : Core) (off : Nat) (data : List Byte) (poison : Bool) : Core :=
  { k.storeWrite (cellsAt off data) with
    storePoison := k.storePoison.filter (fun x => decide (x ≠ off / 64)) ++ (if poison then [off / 64] else []) }

/-- The storage role whose backing region holds an address, with its place in the region. -/
def Part.backed (p : Part) (pa : Nat) : Option (Role × Nat) :=
  (p.roles.find? (fun e => e.backing.any (fun b => decide (b ≤ pa) && decide (pa < b + 2 ^ 21)))).map (fun e => (e, pa - e.backing.getD 0))

/-- Whether a role stood on a tile at the checkpoint. -/
def Part.wasPlaced (p : Part) (n : Nat) : Bool := p.ckpt.any (fun k => (k.roles.find? (fun q => q.num = n)).any (fun q => q.tile.isSome))

/-- Writes an old piece back: to its home slice as one whole-piece unit, or to the tile or the backing region of its role, with its old mark. A
role keeps its place: the bytes of one that has left its tile stand in its backing region, those of one that has come from there on its tile
as well (R380). None: it must wait. -/
def State.restorePiece (s : State) (part : Nat) (u : Undo) : Option State :=
  let p := s.part part
  let onHome (pa : Nat) : Option State := s.devUnit (s.homeDie part pa) part pa (cellsAt pa u.old) u.poison
  let onTile (t off : Nat) (s : State) : State := s.modCore t (fun k => k.putPiece off u.old u.poison)
  match u.role with
  | some r => match (p.role r).bind (fun e => e.tile), (p.role r).bind (fun e => e.backing) with
    | some t, _ => some (onTile t u.sbyte s)
    | none, some b => onHome (b + u.sbyte)
    | none, none => some s
  | none => match p.backed u.addr.toNat with
    | none => onHome u.addr.toNat
    | some (e, off) => match e.tile, p.wasPlaced e.num with
      | none, true => some s
      | some t, false => (onHome u.addr.toNat).map (onTile t off)
      | _, _ => onHome u.addr.toNat

/-- A role after a rollback: its placement stays; hold, lease and request are those captured (R377, R380). -/
def Role.restored (r : Role) (old : Option Role) : Role :=
  match old with
  | some o => { r with holder := o.holder, expiry := o.expiry, warn := o.warn, warned := o.warned, leaser := o.leaser, req := o.req }
  | none => { r with holder := none, expiry := none, req := none }

/-- The event of a rollback on every context that ran or was parked, and a translation buffer of the locked entries (R245, R380). -/
def Core.rolledBack (k : Core) (num tick : Nat) (tb : List TbEntry) : Core :=
  { k with
    tb := tb, tbHist := []
    ctxs := k.ctxs.map (fun e => (e.1, if e.2.state = .running then
      { e.2 with events := e.2.events ++ [.plain Cause.rollbackResumed (w64 num) (w64 tick)] } else e.2)) }

/-- A task after a rollback. -/
def Task.rolledBack (t : Task) (k : Ckpt) : Task :=
  let tb := (byVa (k.dset.filter (fun e => e.locked))).take 16
  { t with saved := t.saved.map (fun c => if t.rolled then c.rolledBack k.num k.tick tb else { c with tb := tb, tbHist := [] }) }

/-- A write-back that has begun starts anew: a rollback takes back what it wrote. -/
def Change.again (c : Change) : Change :=
  match c.kind with
  | .leaveStorage _ none _ => { c with mark := none, pos := 0 }
  | _ => c

/-- The partition's state of the checkpoint, with the host's enqueues since applied again (R377, R380). -/
def Part.restored (p : Part) (k : Ckpt) : Part :=
  { p with
    window := k.window.map (fun t => t.rolledBack k)
    enq := (k.enq ++ p.enqLog).take 64
    reports := p.reports.take p.released ++ ((k.enq ++ p.enqLog).drop 64).map (fun _ => reportWord 0 2)
    dset := k.dset
    roles := p.roles.map (fun r => r.restored (k.roles.find? (fun o => o.num = r.num)))
    changes := p.changes.map Change.again
    censusctl := k.censusctl
    censusNext := k.censusNext
    nextTask := k.nextTask
    held := k.held
    undo := []
    ckptWanted := false
    capture := none
    inRollback := false
    stopped := false }

/-- The logged pieces in the order of their restoration: those of role space first, since a role that was absent at the checkpoint had the bytes
of its backing region then. -/
def Part.oldPieces (p : Part) : List Undo := p.undo.filter (fun u => u.role.isSome) ++ p.undo.filter (fun u => u.role.isNone)

/-- ROLLBACK: the gangs' state is discarded; then the logged pieces and the captured state are restored, and the gangs wait to resume
(R380). -/
def execRollback (part : Nat) (s : State) : Outcome :=
  let p := s.part part
  if !p.present || !p.stopped || p.inReset then .next s
  else match p.ckpt with
  | none => .next s
  | some k =>
    if !p.inRollback then
      if p.canRollback then
        .next (({ s with outbox := s.outbox.filter (fun m => decide (m.by_.part ≠ part) || decide (m.id < k.mark)) }.dropGangs part).modPart part
          (fun p => { p with inRollback := true }))
      else .next s
    else orStay s ((p.oldPieces.foldl (fun s? u => s?.bind (fun s => s.restorePiece part u)) (some s)).map (fun s =>
      s.modPart part (fun p => p.restored k)))

/-! ### Reset of a partition (R363, R385) -/

/-- The first step of a reset: nothing issues, the enqueue queue is answered, the log is cleared (R363). -/
def State.resetBegin (s : State) (part : Nat) : State :=
  s.modPart part (fun p => { p with
    inReset := true, inRollback := false, stopped := true, capture := none, undo := [], enq := []
    reports := p.reports ++ p.enq.map (fun _ => reportWord 0 5) })

/-- Reports the tasks of the window with status 0x05. None: it must wait. -/
def State.resetReports (s : State) (part : Nat) : Option State :=
  (s.part part).window.foldl (fun s? t => s?.bind (fun s => s.report part none t.record.target t.id 5)) (some s)

/-- A tile after a reset; a retired one comes back only after repair (R315, R363). -/
def Core.cleared (k : Core) (repaired : Bool) : Core :=
  { Core.reset with
    cycle := k.cycle
    tstate := if (k.tstate == .retired || k.doomed) && !repaired then .retired else .idle
    faults := if (k.tstate == .retired || k.doomed) && !repaired then tput [] 1 1 else [] }

/-- The slices of a half-stack write their dirty pieces to the stack and free every tag; their registers are those of reset, and what they
held goes on (R348, R363, R367). -/
def State.clearHalf (s : State) (h : Nat) : State :=
  (List.range 8).foldl (fun s i =>
    let n := 8 * h + i
    let s := (s.slice n).tags.foldl (fun s t => s.flushTag n t false) s
    let s := { s with net := s.net ++ (s.slice n).queue }
    s.modSlice n (fun l => { Slice.reset with mshrs := l.mshrs, filter := l.filter })) s

/-- The switch and next-map registers of a stack after a reset of the partition that holds all of it that is held: no switch is armed, and one
under way has nothing left to sweep (R348, R363). -/
def State.clearSwitch (s : State) (p : Part) (n : Nat) : State :=
  let mine (h : Nat) : Bool := p.hasHalf h || (s.halfOwner h).isNone
  if (p.hasHalf (2 * n) || p.hasHalf (2 * n + 1)) && mine (2 * n) && mine (2 * n + 1) then
    s.modStack n (fun k => { k with
      dswitch := 0x8000000000000000, armed := none, switching := false, dmap := k.inForce, swept := 0, nmap := 0, nrows := Stack.reset.nrows })
  else s

/-- Bytes of a measurement: a hash of text that the manual does not give (R391). -/
def measured (ctr slot : Nat) : List Byte := tabulate 64 (fun i => Config.freeDoe ctr slot i)

/-- A partition as its reset leaves it: the granules, shares, ports, link, export window and areas that the provider assigned, its reports and
the contents of its stacks, and nothing else (R246, R318, R363, R376, R383; DEDUCED, log 65). -/
def Part.cleared (p : Part) (ctr : Nat) : Part :=
  { Part.reset with
    present := true, bands := p.bands, halves := p.halves, share := p.share, ports := p.ports, link := p.link, sys := p.sys, sysPoison := p.sysPoison, exportBase := p.exportBase, exportLen := p.exportLen, exportPa := p.exportPa
    collective := p.collective, reports := p.reports, resize := p.resize, lastCensus := p.lastCensus
    meas := tput (tput p.meas 2 (measured ctr 2)) 3 (measured ctr 3)
    ckpt := some ⟨1, 0, [], [], [], [], censusReset, censusReset, 1, [], 0⟩ }

/-- The last step of a reset (R363). A couch that the partition started runs on, its status discarded (R345). -/
def State.resetEnd (s : State) (part : Nat) : State :=
  let p := s.part part
  let cs := p.tiles
  let s := s.dropFlits (fun c => cs.contains c)
  let s := cs.foldl (fun s c => s.modCore c (fun k => k.cleared (Config.freeBool s.freeCtr))) s
  let s := (List.range 16).foldl (fun s h => if p.hasHalf h then s.clearHalf h else s) s
  let s := (List.range 8).foldl (fun s n => (s.clearSwitch p n).modStack n (fun k =>
    { k with couch := k.couch.map (fun q => if q.by_.part = part then { q with by_ := { q.by_ with task := 2 ^ 32 } } else q) })) s
  let s := { s with outbox := s.outbox.filter (fun m => decide (m.by_.part ≠ part ∨ m.by_.task = 0)) }
  (s.modPart part (fun p => p.cleared s.freeCtr)).freeNext

/-- Whether writes of a partition's tiles are still on their way to their slices. -/
def State.resetBusy (s : State) (part : Nat) : Bool :=
  s.inFlight.any (fun m => m.kind.writes && (s.part part).tiles.contains m.core)

/-- One step of a reset of a partition. -/
def State.resetStep (s : State) (part : Nat) : State :=
  if !(s.part part).present then s
  else if !(s.part part).inReset || !(s.part part).enq.isEmpty || !(s.part part).undo.isEmpty then s.resetBegin part
  else if s.resetBusy part then s
  else ((s.resetReports part).map (fun s => s.resetEnd part)).getD s

/-- PARTITION_RESET (R363). -/
def execPartitionReset (part : Nat) (s : State) : Outcome := .next (s.resetStep part)

/-- FUNCTION_LEVEL_RESET: virtual function n + 1 is partition n (R382, R385). -/
def execFunctionLevelReset (vf : Nat) (s : State) : Outcome := .next (if 1 ≤ vf ∧ vf ≤ 16 then s.resetStep (vf - 1) else s)

/-! ### Resize (R356, R362) -/

/-- Where the census puts a storage role of a leaving tile: an idle tile of the bands that stay (R362). -/
def State.refuge (s : State) (p : Nat) : Option Nat :=
  (s.part p).tiles.find? (fun t => s.idleTile p t && !(s.part p).leaving t)

/-- The change that takes a role off a leaving tile: a re-seat, a write-back, or a drain (R362). -/
def State.evict (s : State) (p tile : Nat) : State :=
  let tick := s.now + censusLead (s.part p).censusctl
  if s.changing p tile then s
  else match (s.core tile).tstate with
  | .storage r =>
    let dest := s.refuge p
    match (s.part p).role r with
    | none => s
    | some e =>
      if dest.isNone && e.backing.isNone then s
      else s.accept p tile tick (.leaveStorage r dest .idle) [(e, if dest.isSome then 1 else 2)]
  | .routing r => match (s.part p).role r with
    | none => s
    | some e => s.accept p tile tick (.leaveRouting r .idle) [(e, 0)]
  | _ => s

/-- The leaving tiles of a partition. -/
def Part.leavingTiles (p : Part) : List Nat := p.tiles.filter p.leaving

/-- Whether a resize may begin: the granules are the source's, some of each kind stay, and the deadline is 1 ms ahead or more (R355,
R362). -/
def State.resizeOk (s : State) (src dst : Nat) (bands : BitVec 32) (halves : BitVec 16) (deadline : Nat) : Bool :=
  let p := s.part src
  p.present && (s.part dst).present && src != dst && p.resize.isNone && !p.inReset && !p.stopped &&
  bands &&& ~~~p.bands == 0 && halves &&& ~~~p.halves == 0 && bands != p.bands && halves != p.halves && decide (s.now + ticksMs ≤ deadline)

/-- PARTITION_RESIZE: the supervisor of the source is told, its Atelier context on every die, its scheduler binds no leaving tile, its census moves the roles away, and the
interval cannot be rolled back (R362, R379). -/
def execPartitionResize (src dst : Nat) (bands : BitVec 32) (halves : BitVec 16) (deadline : Nat) (s : State) : Outcome :=
  if !s.resizeOk src dst bands halves deadline then .next s
  else
    let mask := w64 (bands.toNat + halves.toNat * 2 ^ 32)
    let s := [0, 1, 2, 3].foldl (fun s d => s.tell (s.atelier d src) (.plain Cause.partitionShrink mask (w64 deadline))) s
    let s := (s.noRollback src).modPart src (fun p => { p with resize := some ⟨dst, bands, halves, deadline⟩ })
    .next ((s.part src).leavingTiles.foldl (fun s t => s.evict src t) s)

/-- Whether a window of a partition maps a half-stack. -/
def Part.mapsHalf (p : Part) (h : Nat) : Bool :=
  (List.range 16).any (fun w => (windowOf (tget 0 p.deckle w)).valid && (windowOf (tget 0 p.deckle w)).half == h)

/-- Whether a stack has a map of two domains whose switch is complete, with no further switch armed (R356). -/
def Stack.split (k : Stack) : Bool :=
  (k.dmap.map == 0x3830 || k.dmap.map == 0x3038) && k.inForce.map == k.dmap.map && !k.switching && k.armed.isNone

/-- Whether a half-stack may pass to another partition: no window of the source maps it, and the map of its stack has two domains, unless
its other half goes too or is the receiver's (R356, R362). -/
def State.halfFree (s : State) (src : Nat) (r : Resize) (h : Nat) : Bool :=
  let other := 2 * (h / 2) + (1 - h % 2)
  !(s.part src).mapsHalf h &&
  ((s.stack (h / 2)).split || (nbit r.halves.toNat other && !(s.part src).mapsHalf other) || (s.part r.dst).hasHalf other)

/-- Whether a place lies in a half-stack. -/
def inHalf (h stack sb : Nat) : Bool := decide (stack = h / 2) && decide (sb / 2 ^ 35 = h % 2)

/-- A half-stack loses its tags and its bytes, which are written zero (R362). -/
def State.wipeHalf (s : State) (h : Nat) : State :=
  let s := (List.range 16).foldl (fun s i =>
    s.modSlice (16 * (h / 2) + i) (fun l => { l with tags := l.tags.filter (fun t => !inHalf h (h / 2) t.base) })) s
  let s := s.modStack (h / 2) (fun k => { k with
    mem := k.mem.filter (fun c => !inHalf h (h / 2) c.1), poison := k.poison.filter (fun p => !inHalf h (h / 2) (64 * p)) })
  [0, 1, 2, 3].foldl (fun s d => s.modDie d (fun x => { x with
    view := x.view.filter (fun v => !inHalf h v.stack (64 * v.piece)), inbox := x.inbox.map (fun u =>
      if inHalf h u.piece.stack (64 * u.piece.piece) then { u with piece := { u.piece with data := List.replicate 64 0, poison := false } } else u) })) s

/-- Passes the granules on (R362, R391). A half-stack that R356 or a window holds back stays where it was. Where a STACKRIGHT bit is cleared,
the interval of that tick cannot be rolled back (R379). -/
def State.passOn (s : State) (src : Nat) (r : Resize) : State :=
  let hs := (List.range 16).filter (fun h => nbit r.halves.toNat h && s.halfFree src r h)
  let halves := hs.foldl (fun (m : BitVec 16) h => m ||| BitVec.ofNat 16 (2 ^ h)) 0
  let s := hs.foldl State.wipeHalf s
  let s := (s.part src).leavingTiles.foldl (fun s t => s.modCore t (fun k => { k with store := [], storePoison := [] })) s
  let rights (v : BitVec 8) : BitVec 8 := hs.foldl (fun (m : BitVec 8) h => m &&& ~~~(BitVec.ofNat 8 (2 ^ (h / 2)))) v
  let s := s.modPart src (fun p => { p with
    bands := p.bands &&& ~~~r.bands, halves := p.halves &&& ~~~halves, stackright := rights p.stackright, resize := none
    meas := tput p.meas 3 (measured s.freeCtr 3) })
  let s := if hs.isEmpty then s else s.noRollback src
  (s.modPart r.dst (fun p => { p with
    bands := p.bands ||| r.bands, halves := p.halves ||| halves, meas := tput p.meas 3 (measured s.freeCtr 4) })).freeNext

/-- Whether requests to the half-stacks that leave are still on their way. -/
def State.halvesBusy (s : State) (r : Resize) : Bool :=
  s.inFlight.any (fun m => m.kind.atSlice && nbit r.halves.toNat (2 * m.stack + halfBit m.sbyte))

/-- A leaving tile that is reserved is reserved no more. -/
def State.unreserve (s : State) (p tile : Nat) : State :=
  if (s.core tile).tstate == .reserved then
    (s.setTile tile .idle).modPart p (fun q => { q with reserves := q.reserves.filter (fun r => decide (r.tile ≠ tile)) })
  else s

/-- RESIZE_DEADLINE: gangs on leaving tiles are switched off them; once the tiles are free, and what was on its way to the half-stacks has
arrived, the granules pass on (R362). -/
def execResizeDeadline (part : Nat) (s : State) : Outcome :=
  match (s.part part).resize with
  | none => .next s
  | some r =>
    let p := s.part part
    if s.now < r.deadline then .next s
    else if p.window.any (fun t => t.tiles.any p.leaving) then
      .next (s.modPart part (fun q => { q with window := q.window.map (fun t =>
        if t.tiles.any p.leaving && t.switchAt.all (fun n => decide (s.now < n)) then { t with switchAt := some s.now } else t) }))
    else if p.leavingTiles.any (fun t => (s.core t).tstate.role.isSome || s.changing part t) then
      .next (p.leavingTiles.foldl (fun s t => s.evict part t) s)
    else if s.halvesBusy r then .next s
    else .next ((p.leavingTiles.foldl (fun s t => s.unreserve part t) s).passOn part r)

/-! ### Held contexts and the watchdog (R375) -/

/-- HELD_CONTEXT_END: the context counts as having executed TEND, so that context 0 ends only once every other context of the tile is free or
has ended (R85). -/
def execHeldContextEnd (c x : Nat) (s : State) : Outcome :=
  .next (if (s.ctx c x).state = .held ∧ (x ≠ 0 ∨ s.waitOk c 0 .others) then s.endContext c x (s.ctx c x).exitWord else s)

/-- A held context starts in the supervisor's handler; the supervisor shadow set comes in unless it is in already. -/
def Ctx.startHeld (t : Ctx) (pc : Word) : Ctx :=
  { t with
    state := .running, pc := pc, level := .l2, park := none, phase := .none
    g := if t.level = .l2 then t.g else (exchange t.g t.sshadow).1
    sshadow := if t.level = .l2 then t.sshadow else (exchange t.g t.sshadow).2 }

/-- HELD_CONTEXT_START: at SVCVEC at level 2, the T registers as they stand. -/
def execHeldContextStart (c x : Nat) (s : State) : Outcome :=
  .next (if (s.ctx c x).state = .held then s.modCtx c x (fun t => t.startHeld (s.part (s.partOf c x)).svcvec) else s)

/-- The watchdog limit in ticks of a CKPTCTL value; 0 disables it (R376). -/
def watchdogTicks (w : Word) : Nat := ticksMs * fld w 31 24

/-- WATCHDOG: a thread parked longer than the limit is woken, its instruction not issued. An arrival that a parked BAR has counted stays counted,
and the BAR counts again where it is issued again (DESIGN CHOICE, log 75). -/
def execWatchdog (c x : Nat) (s : State) : Outcome :=
  let t := s.ctx c x
  let limit := watchdogTicks (s.part (s.partOf c x)).ckptctl
  match t.park with
  | none => .next s
  | some p =>
    if t.state ≠ .running || limit = 0 || decide (s.now ≤ p.since + limit) then .next s
    else .next ((s.modCtx c x (fun t => t.settle t.pc)).raise c x Cause.watchdog s.gtime 0 t.pc)

end Sys2Proof.Machine
end

