-- ==== Sys2Proof/Machine/Platform.lean ====
section
/-!
DEFINITION. Host, platform and boot: the registers of the functions, BAR2, firmware modules, SPDM, power-on, power and clocks (R250, R257,
R346, R355, R382 to R392).
-/

namespace Sys2Proof.Machine

/-! ### Registers (R257, R348, R383, R386, R392) -/

/-- Registers that rows of their own write: SPLIT, DBGCTL and the windows. -/
def csrElsewhere (n : Nat) : Bool := n == 0x030 || n == 0x105 || (decide (0x110 ≤ n) && decide (n ≤ 0x11F))

/-- The fields of MODCTL (R386). -/
def modctlMask : Word := 0x1F3

/-- A register of physical function 0 that has no row of its own; in recovery only MODADDR, MODCTL and MODSTAT respond (R386, R390). -/
def State.pf0Write (s : State) (off : Nat) (v : Word) : State :=
  match off with
  | 0x000 => { s with modaddr := v }
  | 0x008 => if bit v 8 then s else { s with modctl := v &&& modctlMask }
  | 0x030 => if s.recovery then s else { s with rbsel := v }
  | _ => s

/-- REGISTER_WRITE: a control register, a register of physical function 0, a slice register (R257, R348, R386). -/
def execRegisterWrite (r : RegRef) (v : Word) (s : State) : Outcome :=
  match r with
  | .csr c x n => .next (if csrElsewhere n then s else s.csrWrite c x n v)
  | .pf0 off => .next (s.pf0Write off v)
  | .slice part n i => .next (if n < 128 then s.scfgWrite part n i v else s)

/-- Whether a host write of a partition's ring registers takes effect: its function is present, and no capture runs, which holds it (R377,
R383). -/
def State.hostOpenReg (s : State) (part : Nat) : Bool := (s.part part).present && (s.part part).capture.isNone

/-- What the host reads at an offset of a virtual function's BAR0, with an access of n bytes on a link: all ones from a function that is not
present there; an access that is not one aligned 64-bit one reads nothing (R382, R383). -/
def State.bar0Read (s : State) (part link off n : Nat) : Option Word :=
  let p := s.part part
  if !p.present || p.link != link then some (BitVec.allOnes 64)
  else if n ≠ 8 ∨ off % 8 ≠ 0 then none
  else some (match off with
    | 0x008 => w64 (64 - p.enq.length)
    | 0x010 => p.crbase
    | 0x018 => p.crsize
    | 0x020 => p.crtail
    | 0x028 => p.crhead
    | 0x030 => p.crdrop
    | 0x038 => w64 (b2n (!p.inReset && !p.stopped) + 2 * b2n p.inReset + 4 * b2n (p.stopped && !p.inReset))
    | _ => 0)

/-- CRBASE_WRITE (R383). -/
def execCrbaseWrite (part : Nat) (v : Word) (s : State) : Outcome :=
  .next (if s.hostOpenReg part then s.modPart part (fun p => { p with crbase := v &&& ~~~0xFFF, crtail := 0 }) else s)

/-- CRSIZE_WRITE (R383). -/
def execCrsizeWrite (part : Nat) (v : Word) (s : State) : Outcome :=
  .next (if s.hostOpenReg part then s.modPart part (fun p => { p with crsize := v &&& 0x1F, crtail := 0 }) else s)

/-- CRHEAD_WRITE (R383). -/
def execCrheadWrite (part : Nat) (v : Word) (s : State) : Outcome :=
  .next (if s.hostOpenReg part then s.modPart part (fun p => { p with crhead := v }) else s)

/-- PWRCAP_WRITE: a value outside 1,000 to 3,800 acts as the nearer limit (R386, R392). -/
def execPwrcapWrite (v : Word) (s : State) : Outcome :=
  .next (if s.recovery then s else { s with pwrcap := w64 (Nat.max 1000 (Nat.min 3800 v.toNat)) })

/-- DEVNUMSET_WRITE: while the domain ports are untrained (R386, R387). -/
def execDevnumsetWrite (v : Word) (s : State) : Outcome :=
  .next (if s.recovery || s.portsTrained then s else { s with devnumset := v &&& 0x3FFF, devnum := v.setWidth 14 })

/-- The context that RBSEL selects: class 1, instance 16 × core + context, index of DBGCTL (R392; DESIGN CHOICE, log 31). -/
def rbContext (sel : Word) : Option (Nat × Nat) :=
  if fld sel 63 56 = 1 ∧ fld sel 39 0 = 0x105 then some (fld sel 55 40 / 16, fld sel 55 40 % 16) else none

/-- RBDATA_WRITE (R258, R392). -/
def execRbdataWrite (v : Word) (s : State) : Outcome :=
  match (if s.recovery then none else rbContext s.rbsel) with
  | none => .next s
  | some (c, x) => .next (if coreExists c then s.modCtx c x (fun t => t.setDbg v) else s)

/-- The partition that an item of the read-back port belongs to: that of the context or tile, of the slice, or the one that the instance names
(R392; DESIGN CHOICE, log 31). -/
def State.rbOwner (s : State) (sel : Word) : Option Nat :=
  let i := fld sel 55 40
  match fld sel 63 56 with
  | 1 => if isAtelier (i / 16) then some (s.partOf (i / 16) (i % 16)) else s.bandOwner (i / 16)
  | 2 => s.bandOwner i
  | 3 => s.bandOwner i
  | 4 => s.bandOwner i
  | 7 => s.halfOwner (sliceHalf i)
  | _ => some i

/-- The item that RBSEL selects. Where the manual lays the item down as a word of its own, that word stands; the layout of the other items, with their
full/empty bits and counts, is not given, and the word is a free value (R392; DESIGN CHOICE, log 31). -/
def State.rbItem (s : State) (sel : Word) : Word :=
  let i := fld sel 55 40
  let n := fld sel 39 0
  let free := freeWord s.freeCtr (902 + sel.toNat)
  match fld sel 63 56 with
  | 1 => if n < 0x120 then s.csr (i / 16) (i % 16) n else free
  | 2 => if n < 0x120 then s.csr i 0 n else free
  | 5 => if n < 8 then wordOf ((s.part i).sys.readN (8 * n) 8) else if n < 40 then (s.part i).propAt (n - 8) else free
  | 6 => if n < 2 ^ 16 then s.roleWordOf i none n else free
  | 8 => if n < 16 then w64 ((s.part i).undoAt n) else free
  | _ => if 1 ≤ fld sel 63 56 ∧ fld sel 63 56 ≤ 7 then free else 0

/-- What a read of RBDATA returns to the provider, or to the Atelier context of a partition, which sees its own partition's items only (R386,
R392). The read changes nothing. -/
def State.rbRead (s : State) (reader : Option Nat) : Word :=
  if reader.all (fun p => s.rbOwner s.rbsel == some p) then s.rbItem s.rbsel else 0

/-- What a read of a register of physical function 0 returns; in recovery only MODADDR, MODCTL and MODSTAT respond (R386, R390). -/
def State.pf0Read (s : State) (off : Nat) : Option Word :=
  match off with
  | 0x000 => some s.modaddr
  | 0x008 => some s.modctl
  | 0x010 => some s.modstat
  | _ => if s.recovery then none else match off with
    | 0x020 => some s.pwrcap
    | 0x028 => some s.devnumset
    | 0x030 => some s.rbsel
    | 0x038 => some (s.rbRead none)
    | _ => some 0

/-- DUTY_CYCLING: sixteenths of the matrix issue cycles (R392). -/
def execDutyCycling (n : Nat) (s : State) : Outcome := .next { s with duty := Nat.max 1 (Nat.min 16 n) }

/-- GTIME_TOLERANCE_CHANGE (R1, R250). -/
def execGtimeToleranceChange (pkg dom : Bool) (s : State) : Outcome := .next { s with pkgSync := pkg, domSync := dom }

/-! ### BAR2 (R385) -/

/-- A host read: the data, or all ones as an Unsupported Request. -/
def State.hostRead (s : State) (part : Nat) (a : Word) (n : Nat) : Option State :=
  if (s.part part).hostOpen a n then
    (s.devRead (s.homeDie part a.toNat) part a.toNat (n + 1) n).map (fun r => { r.2.2 with hostReply := r.2.2.hostReply ++ [r.1] })
  else some { s with hostReply := s.hostReply ++ [List.replicate n 0xFF] }

/-- A host write (R385); none while a capture runs (R377). -/
def State.hostWrite (s : State) (part : Nat) (a : Word) (bs : List Byte) : State :=
  if !(s.part part).hostOpen a bs.length || (s.part part).capture.isSome then s else s.hostPut part a.toNat bs

/-- HOST_MEMORY_ACCESS (R379, R385): what is left of an earlier write goes first, and where some of it still must wait, so does the access. -/
def execHostMemoryAccess (part : Nat) (addr : Word) (acc : HostAcc) (s : State) : Outcome :=
  let t := s.hostGoOn
  if t.hostRest.isSome then .next t
  else match acc with
  | .read n => orStay t (t.hostRead part addr n)
  | .write bs => .next (t.hostWrite part addr bs)

/-- Bytes of an AtomicOp, and what it writes over an old value (R385). -/
def hostBytes : HostAtom → Nat
  | .fetchAdd n _ => n
  | .swap n _ => n
  | .cas n _ _ => n
def hostNew (op : HostAtom) (old : Nat) : Nat :=
  match op with
  | .fetchAdd n v => (old + v.toNat) % 2 ^ (8 * n)
  | .swap n v => v.toNat % 2 ^ (8 * n)
  | .cas n c v => if old = c.toNat % 2 ^ (8 * n) then v.toNat % 2 ^ (8 * n) else old

/-- HOST_ATOMIC: 4 or 8 bytes at the home slice's atomics unit; outside an open window, or out of alignment, an Unsupported Request
(R379, R385). It goes behind what is left of an earlier write. -/
def execHostAtomic (part : Nat) (addr : Word) (op : HostAtom) (s : State) : Outcome :=
  let n := hostBytes op
  let a := addr.toNat
  let s := s.hostGoOn
  if s.hostRest.isSome then .next s
  else if !(s.part part).hostOpen addr n || (n != 4 && n != 8) || a % n != 0 then
    .next { s with hostReply := s.hostReply ++ [List.replicate n 0xFF] }
  else if (s.part part).capture.isSome then .next s
  else orWant s part ((s.devAtomic (s.homeDie part a) part a n (fun old => cellsAt a (toBytes n (hostNew op (ofBytes old))))).map (fun r =>
    { r.2.2.noRollback part with hostReply := r.2.2.hostReply ++ [r.1] }))

/-! ### Firmware modules (R346, R386) -/

/-- Pages of an image: number, text or data. -/
def modPages (img : ModImage) : List (Nat × Bool) :=
  (List.range ((img.bytes.length + 4095) / 4096)).map (fun i => (i, decide (4096 * i < img.textLen)))

/-- Where a die's firmware keeps a module. -/
def modHome (die : Nat) : Nat := die * 2 ^ 40

/-- The entry of a page of a module: text R, X and S, data R, W and S. -/
def modEntry (die : Nat) (img : ModImage) (p : Nat × Bool) : TbEntry :=
  ⟨img.base.toNat + 4096 * p.1, w64 (modHome die + 4096 * p.1 + (if p.2 then 13 else 11)), true⟩

/-- Context 0 as the module finds it: g29 the base, g30 the return address (R346). -/
def Ctx.called (t : Ctx) (ctr : Nat) (base : Word) : Ctx :=
  let t := t.start ctr base
  { t with g := tput (tput t.g 29 ⟨base, true⟩) 30 ⟨fwReturn, true⟩ }

/-- An Atelier core with a module loaded, its contexts acting for a partition, with the events that waited for the partition's state and the
provider's to be on the core (R249, R252, R346). -/
def Core.loaded (k : Core) (ctr die part : Nat) (img : ModImage) (evs : List Ev) : Core :=
  let ctxs := (List.range 16).foldl (fun t x => tput t x { (k.ctx x).freed with partid := part }) k.ctxs
  { k with
    tb := (modPages img).foldl (fun tb p => tbInsert tb (modEntry die img p)) k.tb
    fbuf := []
    ctxs := tput ctxs 0 { ({ (k.ctx 0).freed with partid := part } : Ctx).called ctr img.base with events := evs } }

/-- MODCTL_GO: a module whose signature verifies is loaded and called; in recovery only a recovery image is accepted, and the device
leaves recovery with it (R346, R386, R390). The firmware measures the module into a record of its own, and the base it chooses is 4 KiB
aligned: the low bits of the input's base count for nothing. While a module runs, the write has no effect. -/
def execModctlGo (v : Word) (img : ModImage) (verdict : Bool) (s : State) : Outcome :=
  if s.modstat = 1 then .next s
  else
    let s := { s with modctl := (v &&& modctlMask) ||| 0x100 }
    if !verdict then .next { s with modstat := 3 }
    else if s.recovery then .next { s with modstat := 2, recovery := false }
    else
      let die := fld v 1 0
      let img := { img with base := img.base &&& ~~~0xFFF }
      let s := { s with fwMem := s.fwMem.writeN (modHome die) img.bytes, modstat := 1, modMeas := measured s.freeCtr 9 }
      let part := fld v 7 4
      let due (e : Nat × Ev) : Bool := e.1 == part || e.1 == 16
      let evs := ((s.die die).waiting.filter due).map (·.2)
      .next (((s.modDie die (fun d => { d with waiting := d.waiting.filter (fun e => !due e) })).modCore (atelierCore die) (fun k =>
        k.loaded s.freeCtr die part img evs)).freeNext)

/-! ### SPDM (R391) -/

/-- An answer of a virtual function's mailbox: bytes that the manual does not give, after the measurements asked for. -/
def State.spdm (s : State) (vf code : Nat) (body : List Byte) : State :=
  if !s.booted || vf = 0 || 16 < vf || !(s.part (vf - 1)).present then s
  else
    let n := (Config.freeBits s.freeCtr 901).toNat % 4097
    { s.freeNext with doe := s.doe ++ [(vf, code, body ++ tabulate n (fun i => Config.freeDoe s.freeCtr code i))] }

/-- GET_VERSION. -/
def execGetVersion (vf : Nat) (s : State) : Outcome := .next (s.spdm vf 10 [])
/-- GET_CAPABILITIES. -/
def execGetCapabilities (vf : Nat) (s : State) : Outcome := .next (s.spdm vf 11 [])
/-- NEGOTIATE_ALGORITHMS. -/
def execNegotiateAlgorithms (vf : Nat) (s : State) : Outcome := .next (s.spdm vf 12 [])
/-- GET_DIGESTS. -/
def execGetDigests (vf : Nat) (s : State) : Outcome := .next (s.spdm vf 13 [])
/-- GET_CERTIFICATE. -/
def execGetCertificate (vf : Nat) (s : State) : Outcome := .next (s.spdm vf 14 [])
/-- CHALLENGE. -/
def execChallenge (vf : Nat) (s : State) : Outcome := .next (s.spdm vf 15 [])
/-- GET_MEASUREMENTS: slots 1 to 3 of the function's partition. -/
def execGetMeasurements (vf : Nat) (s : State) : Outcome :=
  let m := (s.part (vf - 1)).meas
  .next (s.spdm vf 16 (tget [] m 1 ++ tget [] m 2 ++ tget [] m 3))

/-! ### Power-on (R355, R390) -/

/-- The windows of a layout, each written under the rules of R358 into a partition that has its half-stacks. -/
def Part.withWindows (p : Part) (ws : List Word) : Part :=
  (List.range (Nat.min 16 ws.length)).foldl (fun p i =>
    if p.deckleRefused i (nth 0 ws i) then p else { p with deckle := tput p.deckle i (nth 0 ws i &&& deckleMask) }) p

/-- Whether a backing region may be named for a role: 2 MiB aligned, inside the windows (R316). -/
def Part.backingOk (p : Part) (b : Word) : Bool :=
  b.toNat % 2 ^ 21 == 0 && (p.windowAt b.toNat).isSome && (p.windowAt (b.toNat + 2 ^ 21 - 1)).isSome

/-- Whether a role may be created: room in the map of 2,048, a number of 16 bits that is not mapped, a tile of the bands that carries no other
role, a backing region for a storage role only, and one of the two (R316). -/
def Part.roleOk (p : Part) (r : RoleInit) : Bool :=
  decide (p.roles.length < 2048) && decide (r.num < 2 ^ 16) && (p.role r.num).isNone &&
  r.tile.all (fun t => decide (t < numTiles) && nbit p.bands.toNat (bandOf t) && !p.roles.any (fun e => e.tile == some t)) &&
  r.backing.all (fun b => r.storage && p.backingOk b) && (r.tile.isSome || r.backing.isSome)

/-- Creates a role in a partition's map (R316). -/
def Part.withRole (p : Part) (r : RoleInit) : Part :=
  if p.roleOk r then { p with roles := p.roles ++ [Role.fresh r.num r.storage r.tile (r.backing.map (fun b => b.toNat))] } else p

/-- Takes a page of the layout into the dispatch set as TBW takes one: a valid word, an aligned address, no more than 256 entries, and none that it
meets stays (R242, R244, R259). -/
def Part.withPage (p : Part) (e : PageInit) : Part :=
  let t : TbEntry := ⟨e.va.toNat, e.word, false⟩
  let apart := p.dset.filter (fun x => !x.meets t.va t.size)
  if fld e.va 63 57 == 0 && entryValid e.word && t.va % t.size == 0 && decide (apart.length < 256) then { p with dset := apart ++ [t] } else p

/-- A partition as the layout builds it (R355, R359, R376, R387, R388). -/
def Part.built (l : PartLayout) (ctr now : Nat) : Part :=
  let p := l.pages.foldl Part.withPage (l.roles.foldl Part.withRole (Part.withWindows { Part.reset with
    present := true, bands := l.bands, halves := l.halves, share := l.share, ports := l.ports, link := l.link % 2
    svcvec := l.svcvec &&& ~~~3, stackright := l.stackright, sys := Mem.writeN [] 0x1000 (l.header.flatMap (fun w => toBytes 8 w.toNat))
    exportBase := l.exportBase, exportLen := l.exportLen, exportPa := l.exportPa.toNat
    collective := l.collective.map (fun e => (e.1, e.2.1.toNat)), lastCensus := now
    meas := [(1, measured ctr 1), (2, measured (ctr + l.num) 2), (3, measured (ctr + l.num) 3)] } l.windows))
  { p with ckpt := some ⟨1, now, [], [], p.dset, p.roles, censusReset, censusReset, 1, [], 0⟩ }

/-- Whether the device can build a partition of a layout beside those there are: a number below 16 that is free, at least one band and one
half-stack, an export window in units of 1 GiB below the collective offsets, no granule, port or export range of another partition (R355,
R387). -/
def State.layoutOk (s : State) (l : PartLayout) : Bool :=
  decide (l.num < 16) && !(s.part l.num).present && l.bands != 0 && l.halves != 0 && decide (l.exportBase + l.exportLen ≤ collectiveBase) &&
  l.exportBase % 2 ^ 30 == 0 && l.exportLen % 2 ^ 30 == 0 &&
  (List.range 16).all (fun q => !(s.part q).present || ((s.part q).bands &&& l.bands == 0 && (s.part q).halves &&& l.halves == 0 &&
    (s.part q).ports &&& l.ports == 0 && !meets (s.part q).exportBase (s.part q).exportLen l.exportBase l.exportLen))

/-- Puts a layout's partition, its roles' tiles and its groups in place; one that R355 rules out is not built. -/
def State.build (s : State) (l : PartLayout) : State :=
  if !s.layoutOk l then s
  else
    let s := s.setPart l.num (Part.built l s.freeCtr s.now)
    let s := (s.part l.num).roles.foldl (fun s r => match r.tile with
      | some t => s.setTile t (if r.storage then .storage r.num else .routing r.num)
      | none => s) s
    { s with groups := l.collective.foldl (fun g e => tput g e.1 e.2.2) s.groups }

/-- The map of two domains that the firmware gives a stack whose halves do not belong to one partition, half h on slices 8h to 8h + 7
(R355, R356; DESIGN CHOICE, log 14). -/
def DMap.halves : DMap := { DMap.launch with map := 0x3830 }

/-- The stacks whose halves have been given to different partitions, or of which one half has no partition, have a map of two domains
(R356). -/
def State.splitStacks (s : State) : State :=
  (List.range 8).foldl (fun s n =>
    if s.halfOwner (2 * n) = s.halfOwner (2 * n + 1) then s
    else s.modStack n (fun k => { k with dmap := .halves, req := .halves, inForce := .halves })) s

/-- POWER_ON: after verification the memory and the links are trained and the partitions are built; a failed verification leaves the device
in recovery (R390). -/
def execPowerOn (lay : List PartLayout) (verdict : Bool) (s : State) : Outcome :=
  if s.booted || s.recovery then .next s
  else if !verdict then .next { s with recovery := true }
  else
    let s := { s with booted := true, portsTrained := true }
    .next { (lay.foldl State.build s).splitStacks with freeCtr := s.freeCtr + 17 }

end Sys2Proof.Machine
end

