-- ==== Sys2Proof/Machine/Scalar.lean ====
section
/-!
DEFINITION. Scalar floating point: rows 6 and 7 (R160 to R171).
-/

namespace Sys2Proof.Machine

/-- d := OP(a) (R161). -/
def State.fp1 (s : State) (i : Instr) (g : Guard) (d a : FReg) (f : Fmt) (op : Nat → FC2 → FR) : Outcome :=
  s.run i 8 g [.dstF d, .srcF a] (fun s => s.fpScalar d f (op s.fpMode (s.fop f a)))

/-- d := OP(a, b) (R161). -/
def State.fp2 (s : State) (i : Instr) (g : Guard) (d a b : FReg) (f : Fmt) (op : Nat → FC2 → FC2 → FR) : Outcome :=
  s.run i 8 g [.dstF d, .srcF a, .srcF b] (fun s => s.fpScalar d f (op s.fpMode (s.fop f a) (s.fop f b)))

/-- d := OP(a, b, c) (R161). -/
def State.fp3 (s : State) (i : Instr) (g : Guard) (d a b c : FReg) (f : Fmt) (op : Nat → FC2 → FC2 → FC2 → FR) : Outcome :=
  s.run i 12 g [.dstF d, .srcF a, .srcF b, .srcF c] (fun s => s.fpScalar d f (op s.fpMode (s.fop f a) (s.fop f b) (s.fop f c)))

/-- d := compare(a, b) (R164). -/
def State.fpCmp (s : State) (i : Instr) (g : Guard) (d : PReg) (a b : FReg) (f : Fmt) (k : Cond) : Outcome :=
  s.run i 8 g [.srcF a, .srcF b] (fun s =>
    let r := opCmp f k (s.fop f a) (s.fop f b)
    s.fpEnd .p d.toNat r.2 0 (fun s => .done (s.putP d r.1)))

def execFadd (g : Guard) (d a b : FReg) (f : Fmt) (s : State) : Outcome := s.fp2 (.fadd g d a b f) g d a b f (fun m => opAdd f m false)
def execFsub (g : Guard) (d a b : FReg) (f : Fmt) (s : State) : Outcome := s.fp2 (.fsub g d a b f) g d a b f (fun m => opAdd f m true)
def execFmul (g : Guard) (d a b : FReg) (f : Fmt) (s : State) : Outcome := s.fp2 (.fmul g d a b f) g d a b f (opMul f)
def execFdiv (g : Guard) (d a b : FReg) (f : Fmt) (s : State) : Outcome := s.fp2 (.fdiv g d a b f) g d a b f (opDiv f)
def execFsqrt (g : Guard) (d a : FReg) (f : Fmt) (s : State) : Outcome := s.fp1 (.fsqrt g d a f) g d a f (opSqrt f)
def execFma (g : Guard) (d a b c : FReg) (f : Fmt) (s : State) : Outcome :=
  s.fp3 (.fma g d a b c f) g d a b c f (fun m => opFma f m false false)
def execFms (g : Guard) (d a b c : FReg) (f : Fmt) (s : State) : Outcome :=
  s.fp3 (.fms g d a b c f) g d a b c f (fun m => opFma f m false true)
def execFnma (g : Guard) (d a b c : FReg) (f : Fmt) (s : State) : Outcome :=
  s.fp3 (.fnma g d a b c f) g d a b c f (fun m => opFma f m true true)
def execFnms (g : Guard) (d a b c : FReg) (f : Fmt) (s : State) : Outcome :=
  s.fp3 (.fnms g d a b c f) g d a b c f (fun m => opFma f m true false)
def execFmin (g : Guard) (d a b : FReg) (f : Fmt) (s : State) : Outcome :=
  s.fp2 (.fmin g d a b f) g d a b f (fun _ => opMinMax f false)
def execFmax (g : Guard) (d a b : FReg) (f : Fmt) (s : State) : Outcome :=
  s.fp2 (.fmax g d a b f) g d a b f (fun _ => opMinMax f true)
def execFabs (g : Guard) (d a : FReg) (f : Fmt) (s : State) : Outcome := s.fp1 (.fabs g d a f) g d a f (fun _ => opAbs f)
def execFneg (g : Guard) (d a : FReg) (f : Fmt) (s : State) : Outcome := s.fp1 (.fneg g d a f) g d a f (fun _ => opNeg f)
def execFcpys (g : Guard) (d a b : FReg) (f : Fmt) (s : State) : Outcome := s.fp2 (.fcpys g d a b f) g d a b f (fun _ => opCpys f)
def execFcmpeq (g : Guard) (d : PReg) (a b : FReg) (f : Fmt) (s : State) : Outcome := s.fpCmp (.fcmpeq g d a b f) g d a b f .eq
def execFcmplt (g : Guard) (d : PReg) (a b : FReg) (f : Fmt) (s : State) : Outcome := s.fpCmp (.fcmplt g d a b f) g d a b f .lt
def execFcmple (g : Guard) (d : PReg) (a b : FReg) (f : Fmt) (s : State) : Outcome := s.fpCmp (.fcmple g d a b f) g d a b f .le
def execFcmpun (g : Guard) (d : PReg) (a b : FReg) (f : Fmt) (s : State) : Outcome := s.fpCmp (.fcmpun g d a b f) g d a b f .un

/-- FCLASS (R164). -/
def execFclass (g : Guard) (d : GReg) (a : FReg) (f : Fmt) (s : State) : Outcome :=
  s.run (.fclass g d a f) 8 g [.dst d, .srcF a] (fun s => .done (s.putG d (w64 (opClass f (s.fop f a).x))))

/-- FROUND (R165). -/
def execFround (g : Guard) (d a : FReg) (f : Fmt) (rm : Rnd) (s : State) : Outcome :=
  s.run (.fround g d a f rm) 8 g [.dstF d, .srcF a] (fun s => s.fpScalar d f (opRound f (s.rndMode rm) (s.fop f a)))

/-- FCVT (R167). -/
def execFcvt (g : Guard) (d a : FReg) (df sf : Fmt) (s : State) : Outcome :=
  s.run (.fcvt g d a df sf) 8 g [.dstF d, .srcF a] (fun s => s.fpScalar d df (opCvt df sf s.fpMode (s.fop sf a)))

/-- FTOI (R168): `.w` is sign-extended, `.wn` zero-extended. -/
def execFtoi (g : Guard) (d : GReg) (a : FReg) (f : Fmt) (ic : IntCode) (rm : Rnd) (s : State) : Outcome :=
  s.run (.ftoi g d a f ic rm) 8 g [.dst d, .srcF a] (fun s =>
    let r := opFtoi f ic (s.rndMode rm) (s.fop f a).x
    s.fpEnd .g d.num.toNat r.2 0 (fun s => .done (s.putG d (BitVec.ofInt 64 r.1))))

/-- ITOF (R168). -/
def execItof (g : Guard) (d : FReg) (a : GReg) (f : Fmt) (ic : IntCode) (s : State) : Outcome :=
  s.run (.itof g d a f ic) 8 g [.dstF d, .src a] (fun s => s.fpScalar d f (opItof f s.fpMode (ic.read (s.g a))))

/-- FMOV copies value and stored count (R169). -/
def execFmov (g : Guard) (d a : FReg) (s : State) : Outcome :=
  s.run (.fmov g d a) 8 g [.dstF d, .srcF a] (fun s => .done (s.putF d (s.fval a).val (s.fval a).cnt))

/-- FMVG (R169). -/
def execFmvg (g : Guard) (d : GReg) (a : FReg) (s : State) : Outcome :=
  s.run (.fmvg g d a) 8 g [.dst d, .srcF a] (fun s => .done (s.putG d (s.fval a).val))

/-- FMVF sets the count as LDF does (R169). -/
def execFmvf (g : Guard) (d : FReg) (a : GReg) (f : Fmt) (s : State) : Outcome :=
  s.run (.fmvf g d a f) 8 g [.dstF d, .src a] (fun s =>
    let x := (s.g a).toNat % 2 ^ f.bits
    .done (s.putFp d f x (loadCount f x)))

/-- EXP2 (R170). -/
def execExp2 (g : Guard) (d a : FReg) (s : State) : Outcome := s.fp1 (.exp2 g d a) g d a .s (fun _ => opExp2)

/-- SGET (R171). -/
def execSget (g : Guard) (d : GReg) (a : FReg) (s : State) : Outcome :=
  s.run (.sget g d a) 8 g [.dst d, .srcF a] (fun s => .done (s.putG d (w64 (s.fval a).cnt)))

/-- SSET (R171). -/
def execSset (g : Guard) (d : FReg) (a : GReg) (s : State) : Outcome :=
  s.run (.sset g d a) 8 g [.dstF d, .src a] (fun s => .done (s.putF d (s.fval d).val (Nat.min (s.g a).toNat 53)))

end Sys2Proof.Machine
end

