-- ==== Sys2Proof/Machine/System.lean ====
section
/-!
DEFINITION. Calls, breakpoints, return, translation, slices, ranges, gang switch, checkpoint and halt: row 15 without the control
registers (R244, R253 to R255, R259 to R266).
-/

namespace Sys2Proof.Machine

/-! ### SVC, BRK, TRET (R254, R255) -/

/-- SVC: completes, then SERVICE_CALL with TEPC at the next instruction. -/
def execSvc (g : Guard) (imm : BitVec 23) (s : State) : Outcome :=
  s.run (.svc g imm) 8 g [] (fun s => .after Cause.serviceCall (imm.signExtend 64) 0 s)

/-- BRK: BREAKPOINT with TEPC at the BRK. -/
def execBrk (g : Guard) (imm : BitVec 23) (s : State) : Outcome :=
  s.run (.brk g imm) 8 g [] (fun s => .trap Cause.breakpoint (imm.signExtend 64) 0 s)

/-- TRET. -/
def execTret (g : Guard) (s : State) : Outcome :=
  s.run (.tret g) 8 g [] (fun s =>
    let t := s.me
    if t.level = .l0 then .trap Cause.boundCheck t.tepc 1 s
    else if t.level = .l2 ∧ 1 < fld t.tcause 17 16 then .trap Cause.boundCheck t.tcause 2 s
    else if fld t.tepc 1 0 ≠ 0 then .trap Cause.pcMisaligned t.tepc 0 s
    else .jump t.tepc (s.modMe (fun t => t.trapReturn)))

/-! ### TBW, TBI, TBP (R259 to R261) -/

/-- PRIVILEGED on the dispatch set in user mode (R253), and the bounds that the three instructions share: the address, the gang index. -/
def State.dsTrap (s : State) (t : TbTarget) : Option Trap :=
  failIf (t == .ds && !s.isSup s.cur.1 s.cur.2) (some ⟨Cause.privileged, 2, 2⟩)
def addrTrap (a : Word) : Option Trap := failIf (fld a 63 57 != 0) (some ⟨Cause.boundCheck, a, 3⟩)
def State.gangTrap (s : State) (t : TbTarget) (c : Word) : Option Trap :=
  failIf (t == .gang && decide (s.myCore.gangSize ≤ c.toNat)) (some ⟨Cause.boundCheck, c, 4⟩)

/-- The core whose buffer a target names. -/
def State.tbCore (s : State) (t : TbTarget) (c : Word) : Nat :=
  match t with
  | .gang => (s.gangTile s.cur.1 c.toNat).getD s.cur.1
  | _ => s.cur.1

/-- The entries of a target. -/
def State.tbOf (s : State) (t : TbTarget) (c : Word) : List TbEntry :=
  match t with
  | .ds => (s.part s.myPart).dset
  | _ => (s.core (s.tbCore t c)).tb

/-- Replaces the buffer of a core; lookups of the next 15 cycles may still use what it held (R261). -/
def Core.setTb (k : Core) (tb : List TbEntry) : Core :=
  { k with tb := tb, tbHist := k.tbHist.filter (fun h => decide (k.cycle < h.1 + 16)) ++ [(k.cycle, k.tb)] }

/-- Writes the entries of a target back. -/
def State.putTb (s : State) (t : TbTarget) (c : Word) (tb : List TbEntry) : State :=
  match t with
  | .ds => s.modPart s.myPart (fun p => { p with dset := tb })
  | _ => s.modCore (s.tbCore t c) (fun k => k.setTb tb)

/-- The checks of TBW after those on the target (R259). -/
def State.tbwTrap (s : State) (t : TbTarget) (a b c : Word) : Option Trap :=
  let sup := s.isSup s.cur.1 s.cur.2
  let tb := s.tbOf t c
  let apart := tb.filter (fun e => !e.meets a.toNat (wordPage b))
  orTrap (addrTrap a)
    (orTrap (failIf (!entryValid b) (some ⟨Cause.boundCheck, b, 1⟩))
      (orTrap (failIf (a.toNat % wordPage b != 0) (some ⟨Cause.boundCheck, a, 2⟩))
        (orTrap (failIf (!sup && bit b 3) (some ⟨Cause.privileged, b, 1⟩))
          (orTrap (s.gangTrap t c)
            (orTrap (failIf (!sup && tb.any (fun e => e.locked && e.meets a.toNat (wordPage b))) (some ⟨Cause.privileged, a, 2⟩))
              (orTrap (failIf (t != .ds && bit b 3 && decide (16 ≤ (apart.filter TbEntry.locked).length)) (some ⟨Cause.boundCheck, a, 6⟩))
                (failIf (t == .ds && decide (256 ≤ apart.length)) (some ⟨Cause.boundCheck, a, 5⟩))))))))

/-- Whether a target is the buffer of another gang tile: the instruction parks until that tile has replied (R259, R260). -/
def State.tbFar (s : State) (t : TbTarget) (c : Word) : Bool := decide (s.tbCore t c ≠ s.cur.1)

/-- Goes on with the operands of a TBW, TBI or TBP: at once where the target is here, at the other gang tile otherwise. -/
def State.tbAt (s : State) (t : TbTarget) (c : Word) (ops : List Nat) (k : State → List Nat → Res) : Res :=
  if s.tbFar t c || s.out then s.remote ops k else k s ops

/-- Inserts an entry into a target (R243, R259). -/
def State.tbWrite (s : State) (t : TbTarget) (c : Word) (e : TbEntry) : State :=
  let tb := s.tbOf t c
  s.putTb t c (if t == .ds then tb.filter (fun x => !x.meets e.va e.size) ++ [e] else tbInsert tb e)

/-- Removes entries of a target: those over an address or all, in user mode but for the locked ones (R260). -/
def State.tbRemove (s : State) (t : TbTarget) (c : Word) (va : Nat) (all : Bool) : State :=
  let sup := s.isSup s.cur.1 s.cur.2
  s.putTb t c ((s.tbOf t c).filter (fun e => !((all || e.holds va) && (sup || !e.locked))))

/-- What TBP reports of an address in a target (R260). -/
def State.tbReport (s : State) (t : TbTarget) (c : Word) (va : Nat) : Word :=
  ((s.tbOf t c).find? (fun e => e.holds va)).elim 0 (fun e => w64 (2 ^ 63) + e.word)

/-- The k-th captured operand. -/
def opAt (ops : List Nat) (k : Nat) : Word := w64 (nth 0 ops k)

/-- TBW (R259): at another gang tile it is checked again when it acts there, for the locked entries of that moment (R243). -/
def execTbw (g : Guard) (a b c : GReg) (t : TbTarget) (s : State) : Outcome :=
  s.run (.tbw g a b c t) 12 g [.src a, .src b, .src c] (fun s =>
    match (if s.out then none else orTrap (s.dsTrap t) (s.tbwTrap t (s.g a) (s.g b) (s.g c))) with
    | some e => .raise s e
    | none => s.tbAt t (s.g c) [(s.g a).toNat, (s.g b).toNat, (s.g c).toNat] (fun s ops =>
        match (if s.out then s.tbwTrap t (opAt ops 0) (opAt ops 1) (opAt ops 2) else none) with
        | some e => .raise s e
        | none => .done (s.tbWrite t (opAt ops 2) ⟨nth 0 ops 0, opAt ops 1, false⟩)))

/-- TBI (R260). -/
def execTbi (g : Guard) (a b : GReg) (t : TbTarget) (all : Bool) (s : State) : Outcome :=
  s.run (.tbi g a b t all) 8 g [.src a, .src b] (fun s =>
    match (if s.out then none else orTrap (s.dsTrap t) (orTrap (addrTrap (s.g a)) (s.gangTrap t (s.g b)))) with
    | some e => .raise s e
    | none => s.tbAt t (s.g b) [(s.g a).toNat, (s.g b).toNat] (fun s ops => .done (s.tbRemove t (opAt ops 1) (nth 0 ops 0) all)))

/-- TBP (R260). -/
def execTbp (g : Guard) (d a b : GReg) (t : TbTarget) (s : State) : Outcome :=
  s.run (.tbp g d a b t) 8 g [.dst d, .src a, .src b] (fun s =>
    match (if s.out then none else orTrap (s.dsTrap t) (orTrap (addrTrap (s.g a)) (s.gangTrap t (s.g b)))) with
    | some e => .raise s e
    | none => s.tbAt t (s.g b) [(s.g a).toNat, (s.g b).toNat] (fun s ops => .done (s.putG d (s.tbReport t (opAt ops 1) (nth 0 ops 0)))))

/-! ### SCFGR, SCFGW (R262) -/

/-- The causes of SCFGR and SCFGW. -/
def State.scfgTrap (s : State) (a : Word) (idx : Nat) : Option Trap :=
  orTrap (failIf (decide (127 < a.toNat)) (some ⟨Cause.boundCheck, a, 1⟩))
    (orTrap (failIf (!(s.part s.myPart).hasHalf (sliceHalf a.toNat)) (some ⟨Cause.deckleViolation, a, 0⟩))
      (failIf (!scfgAssigned idx) (some ⟨Cause.boundCheck, w64 idx, 2⟩)))

/-- SCFGR. -/
def execScfgr (g : Guard) (d a : GReg) (idx : BitVec 12) (s : State) : Outcome :=
  s.run (.scfgr g d a idx) 8 g [.dst d, .src a] (fun s =>
    match (if s.out then none else s.scfgTrap (s.g a) idx.toNat) with
    | some t => .raise s t
    | none => s.remote [(s.g a).toNat] (fun s ops => .done (s.putG d (s.scfgRead (nth 0 ops 0) idx.toNat))))

/-- Whether a slice has served every request that it received before a message number (R262). -/
def Slice.servedTo (l : Slice) (mark : Nat) : Bool :=
  l.mshrs.all (fun m => decide (mark ≤ m.id)) && (l.hold || l.queue.all (fun m => decide (mark ≤ m.id)))

/-- SCFGW: it applies after the requests that the slice received before it. -/
def execScfgw (g : Guard) (a b : GReg) (idx : BitVec 12) (s : State) : Outcome :=
  s.run (.scfgw g a b idx) 8 g [.src a, .src b] (fun s =>
    match (if s.out then none else s.scfgTrap (s.g a) idx.toNat) with
    | some t => .raise s t
    | none => s.remote [(s.g a).toNat, (s.g b).toNat, s.msgCtr] (fun s ops =>
        if !(s.slice (nth 0 ops 0)).servedTo (nth 0 ops 2) then .park .served s
        else .done (s.scfgWrite s.myPart (nth 0 ops 0) idx.toNat (opAt ops 1))))

/-! ### CWBR, SLINV (R263) -/

/-- The first piece of a range that lies in no window of the partition. -/
def Part.pieceHole (p : Part) (pa n : Nat) : Option Nat :=
  let cuts := pa :: ((List.range 65).map (fun i => (pa / 2 ^ 30 + i + 1) * 2 ^ 30)).filter (fun b => decide (b < pa + n))
  if n = 0 then none else cuts.find? (fun b => (p.place b).isNone)

/-- The causes of CWBR and SLINV. -/
def State.pieceTrap (s : State) (a c : Word) : Option Trap :=
  orTrap (failIf (fld a 63 48 != 0) (some ⟨Cause.boundCheck, a, 1⟩))
    (orTrap (failIf (a.toNat % 64 != 0) (some ⟨Cause.boundCheck, a, 2⟩))
      (orTrap (failIf (c.toNat % 64 != 0) (some ⟨Cause.boundCheck, c, 2⟩))
        (orTrap (failIf (decide (2 ^ 36 < c.toNat)) (some ⟨Cause.boundCheck, c, 3⟩))
          (((s.part s.myPart).pieceHole a.toNat c.toNat).map (fun pa => ⟨Cause.deckleViolation, w64 pa, 0⟩)))))

/-- The writes of the issuer's caches to a range that must reach the home slices first: its own stores that wait for a line, and the
write-backs. -/
def State.linesOut (s : State) (a len : Nat) : List Nat :=
  let hit (pa : Nat) : Bool := meets a len (pa / 64 * 64) 64
  (s.inFlight.filter (fun m => hit m.addr && (match m.kind with
    | .cacheStore _ => m.core == s.cur.1 && m.ctx == s.cur.2
    | .cacheUpdate _ => m.core == s.cur.1 && m.ctx == s.cur.2
    | .unit wb _ _ => wb && (s.cacheCores s.cur.1).contains m.core
    | _ => false))).map (fun m => m.id)

/-- CWBR, with the operands that it was checked with (log 53): the own stores reach their lines, the dirty lines are written back, then the
pieces at the home slices; it parks until the stack has acknowledged every write. -/
def execCwbr (g : Guard) (a c : GReg) (iv : Bool) (s : State) : Outcome :=
  s.run (.cwbr g a c iv) 12 g [.src a, .src c] (fun s =>
    let base := if 3 ≤ s.me.phase.step then nth 0 s.me.phase.eas 0 else (s.g a).toNat
    let len := if 3 ≤ s.me.phase.step then nth 0 s.me.phase.eas 1 else (s.g c).toNat
    let flush (s : State) : Res :=
      let gs := s.dirtyIn s.myPart base len
      let s := s.flushRange s.myPart base len iv
      if gs.isEmpty then .done s else .park (.acks gs) (s.sent 5 [] [])
    if s.me.phase.step = 5 then .done s
    else if s.me.phase.step = 4 then (if s.gone s.me.phase.ids then flush s else .park (.gone s.me.phase.ids) s)
    else match (if s.me.phase.step = 3 then none else s.pieceTrap (s.g a) (s.g c)) with
      | some t => .raise s t
      | none =>
        if len = 0 then .done s
        else if !(s.linesOut base len).isEmpty then .park (.gone (s.linesOut base len)) (s.sent 3 [] [base, len])
        else
          let s := (s.cacheCores s.cur.1).foldl (fun s k => s.writeBack k (fun l => meets base len (l.line * 64) 64)) s
          let ids := s.linesOut base len
          if ids.isEmpty then flush s else .park (.gone ids) (s.sent 4 ids [base, len]))

/-- SLINV. -/
def execSlinv (g : Guard) (a c : GReg) (s : State) : Outcome :=
  s.run (.slinv g a c) 12 g [.src a, .src c] (fun s =>
    match s.pieceTrap (s.g a) (s.g c) with
    | some t => .raise s t
    | none => .done (s.dropRange s.myPart (s.g a).toNat (s.g c).toNat))

/-! ### GSWITCH, CKPT, HALT (R264 to R266) -/

/-- The status of GSWITCH. -/
def State.gswitchStatus (s : State) (a b : Word) : Nat :=
  if b.toNat < s.gtime.toNat + 10000 then 1
  else match (s.part s.myPart).task a.toNat with
    | none => 2
    | some t => if t.phase ≠ .running then 2 else if t.switchAt.isSome then 3 else 0

/-- GSWITCH. -/
def execGswitch (g : Guard) (d a b : GReg) (s : State) : Outcome :=
  s.run (.gswitch g d a b) 8 g [.dst d, .src a, .src b] (fun s =>
    let st := s.gswitchStatus (s.g a) (s.g b)
    let t := s.putG d (w64 st)
    if st = 0 then .done (t.modPart s.myPart (fun p => p.modTask (s.g a).toNat (fun k => { k with switchAt := some (s.g b).toNat })))
    else .done t)

/-- The number of the last completed checkpoint. -/
def Part.ckptNum (p : Part) : Nat := fld p.ckptctl 63 32

/-- CKPT: asks for a capture and parks until one has completed (R265). -/
def execCkpt (g : Guard) (d : GReg) (s : State) : Outcome :=
  s.run (.ckpt g d) 8 g [.dst d] (fun s =>
    let p := s.part s.myPart
    if s.out then
      (if s.me.phase.val.toNat ≤ p.ckptNum then .done (s.putG d s.me.phase.val) else .park (.ckpt s.me.phase.val.toNat) s)
    else
      let n := p.ckptNum + 1
      .park (.ckpt n) ((s.wantCkpt s.myPart).modMe (fun t => { t with phase := { t.phase with step := 4, val := w64 n } })))

/-- HALT (R266). -/
def execHalt (g : Guard) (a : GReg) (s : State) : Outcome :=
  s.run (.halt g a) 8 g [.src a] (fun s =>
    .done ((s.modMe (fun t => { t with exitWord := s.g a, state := .held })).abortBarriers s.cur.1 s.cur.2))

end Sys2Proof.Machine
end

