-- ==== Sys2Proof/Machine/VectorFp.lean ====
section
/-!
DEFINITION. Vector floating point: row 8 (R174 to R179).
-/

namespace Sys2Proof.Machine

/-- d := OP(a) element by element (R174). -/
def State.vfp1 (s : State) (i : Instr) (g : Guard) (d a : VReg) (f : Fmt) (gm : GMask) (op : Nat → FC2 → FR) : Outcome :=
  s.run i 8 g [] (fun s => s.vecEnd d f (s.onElems gm f (fun e => op s.fpMode ((s.v a).elem f e))))

/-- d := OP(a, b) element by element (R174). -/
def State.vfp2 (s : State) (i : Instr) (g : Guard) (d a b : VReg) (f : Fmt) (gm : GMask) (op : Nat → FC2 → FC2 → FR) : Outcome :=
  s.run i 8 g [] (fun s => s.vecEnd d f (s.onElems gm f (fun e => op s.fpMode ((s.v a).elem f e) ((s.v b).elem f e))))

/-- d := OP(a, b, c) element by element (R174). -/
def State.vfp3 (s : State) (i : Instr) (g : Guard) (d a b c : VReg) (f : Fmt) (gm : GMask) (op : Nat → FC2 → FC2 → FC2 → FR) :
    Outcome :=
  s.run i 12 g [] (fun s =>
    s.vecEnd d f (s.onElems gm f (fun e => op s.fpMode ((s.v a).elem f e) ((s.v b).elem f e) ((s.v c).elem f e))))

def execVadd (g : Guard) (d a b : VReg) (f : Fmt) (gm : GMask) (s : State) : Outcome :=
  s.vfp2 (.vadd g d a b f gm) g d a b f gm (fun m => opAdd f m false)
def execVsub (g : Guard) (d a b : VReg) (f : Fmt) (gm : GMask) (s : State) : Outcome :=
  s.vfp2 (.vsub g d a b f gm) g d a b f gm (fun m => opAdd f m true)
def execVmul (g : Guard) (d a b : VReg) (f : Fmt) (gm : GMask) (s : State) : Outcome :=
  s.vfp2 (.vmul g d a b f gm) g d a b f gm (opMul f)
def execVfma (g : Guard) (d a b c : VReg) (f : Fmt) (gm : GMask) (s : State) : Outcome :=
  s.vfp3 (.vfma g d a b c f gm) g d a b c f gm (fun m => opFma f m false false)
def execVfms (g : Guard) (d a b c : VReg) (f : Fmt) (gm : GMask) (s : State) : Outcome :=
  s.vfp3 (.vfms g d a b c f gm) g d a b c f gm (fun m => opFma f m false true)
def execVmin (g : Guard) (d a b : VReg) (f : Fmt) (gm : GMask) (s : State) : Outcome :=
  s.vfp2 (.vmin g d a b f gm) g d a b f gm (fun _ => opMinMax f false)
def execVmax (g : Guard) (d a b : VReg) (f : Fmt) (gm : GMask) (s : State) : Outcome :=
  s.vfp2 (.vmax g d a b f gm) g d a b f gm (fun _ => opMinMax f true)
def execVabs (g : Guard) (d a : VReg) (f : Fmt) (gm : GMask) (s : State) : Outcome :=
  s.vfp1 (.vabs g d a f gm) g d a f gm (fun _ => opAbs f)
def execVneg (g : Guard) (d a : VReg) (f : Fmt) (gm : GMask) (s : State) : Outcome :=
  s.vfp1 (.vneg g d a f gm) g d a f gm (fun _ => opNeg f)
def execVdiv (g : Guard) (d a b : VReg) (f : Fmt) (gm : GMask) (s : State) : Outcome :=
  s.vfp2 (.vdiv g d a b f gm) g d a b f gm (opDiv f)
def execVsqrt (g : Guard) (d a : VReg) (f : Fmt) (gm : GMask) (s : State) : Outcome :=
  s.vfp1 (.vsqrt g d a f gm) g d a f gm (opSqrt f)
def execVexp2 (g : Guard) (d a : VReg) (gm : GMask) (s : State) : Outcome :=
  s.vfp1 (.vexp2 g d a gm) g d a .s gm (fun _ => opExp2)

/-- The element that VCMP compares for lane L (R176). -/
def cmpElem (f : Fmt) (half : Bool) (l : Nat) : Nat :=
  match f with
  | .s => l
  | .d => l / 2
  | _ => 2 * l + b2n half

/-- The lanes VCMP governs in: for `.d` by the even lane of the pair (R172, R176). -/
def State.cmpOn (s : State) (gm : GMask) (f : Fmt) (l : Nat) : Bool := s.laneOn gm (if f = .d then l / 2 * 2 else l)

/-- VCMP (R176). -/
def execVcmp (g : Guard) (d : QReg) (a b : VReg) (f : Fmt) (gm : GMask) (k : Cond) (half : Bool) (s : State) : Outcome :=
  s.run (.vcmp g d a b f gm k half) 8 g [] (fun s =>
    let r (l : Nat) : Bool × Nat := opCmp f k ((s.v a).elem f (cmpElem f half l)) ((s.v b).elem f (cmpElem f half l))
    let on := (List.range 32).filter (s.cmpOn gm f)
    let fl := on.foldl (fun m l => m ||| (r l).2) 0
    let bad := on.foldl (fun m l => if (r l).2 &&& s.fpEnabled ≠ 0 then m + 2 ^ l else m) 0
    s.fpEnd .q d.toNat fl bad (fun s => .done (s.putQ d (maskOf (fun l => s.cmpOn gm f l && (r l).1)))))

/-- Elements 0 to n − 1 with their results, masked on the destination lane. -/
def State.cvtRes (s : State) (gm : GMask) (df : Fmt) (n first : Nat) (op : Nat → FR) : List (Nat × FR) :=
  ((List.range n).filter (fun k => s.active gm df (first + k))).map (fun k => (first + k, op k))

/-- A conversion between FP formats. -/
def State.cvtFp (s : State) (d a : VReg) (gm : GMask) (df sf : Fmt) (n dFirst sFirst : Nat) : Res :=
  s.vecEnd d df (s.cvtRes gm df n dFirst (fun k => opCvt df sf s.fpMode ((s.v a).elem sf (sFirst + k))))

/-- A conversion from integer lanes. -/
def State.cvtFromInt (s : State) (d a : VReg) (gm : GMask) (ic : IntCode) : Res :=
  s.vecEnd d .s (s.cvtRes gm .s 32 0 (fun k => opItof .s s.fpMode (ic.read (w64 ((s.v a).lane k).toNat))))

/-- A conversion to integer lanes. -/
def State.cvtToInt (s : State) (d a : VReg) (gm : GMask) (ic : IntCode) : Res :=
  s.vecEndInt d (s.cvtRes gm .s 32 0 (fun k =>
    let r := opFtoi .s ic s.fpMode ((s.v a).lane k).toNat
    ⟨(r.1 % 2 ^ 32).toNat, 0, r.2⟩))

/-- VCVT (R177). Conversions lane for lane ignore the half (DESIGN CHOICE, log 83). -/
def execVcvt (g : Guard) (d a : VReg) (gm : GMask) (cv : CvtOp) (half : Bool) (s : State) : Outcome :=
  s.run (.vcvt g d a gm cv half) 8 g [] (fun s =>
    let h := b2n half
    match cv with
    | .sHf => s.cvtFp d a gm .s .hf 32 0 (32 * h)
    | .sBf => s.cvtFp d a gm .s .bf 32 0 (32 * h)
    | .hfS => s.cvtFp d a gm .hf .s 32 (32 * h) 0
    | .bfS => s.cvtFp d a gm .bf .s 32 (32 * h) 0
    | .dS => s.cvtFp d a gm .d .s 16 0 (16 * h)
    | .sD => s.cvtFp d a gm .s .d 16 (16 * h) 0
    | .sW => s.cvtFromInt d a gm .w
    | .wS => s.cvtToInt d a gm .w
    | .sWn => s.cvtFromInt d a gm .wn
    | .wnS => s.cvtToInt d a gm .wn)

/-- The format VRED works in (R178). -/
def redFmt (f : Fmt) : Fmt := if f = .d then .d else .s

/-- NODE (R178): absent values, then the operation, its flags ORed. -/
def redNode (op : FC2 → FC2 → FR) : Option FC2 → Option FC2 → Option FC2 × Nat
  | none, w => (w, 0)
  | u, none => (u, 0)
  | some u, some w => (some ⟨(op u w).y, (op u w).c⟩, (op u w).fl)

/-- One level of the tree. -/
def redLevel (op : FC2 → FC2 → FR) : List (Option FC2) → List (Option FC2) × Nat
  | u :: w :: xs => ((redNode op u w).1 :: (redLevel op xs).1, (redNode op u w).2 ||| (redLevel op xs).2)
  | xs => (xs, 0)

/-- The tree: k levels, from flags already raised. -/
def redTree (op : FC2 → FC2 → FR) : Nat → List (Option FC2) → Nat → Option FC2 × Nat
  | 0, xs, fl => ((xs.head?).join, fl)
  | k + 1, xs, fl => redTree op k (redLevel op xs).1 (fl ||| (redLevel op xs).2)

/-- The operation of VRED in its format. -/
def redOp (f : Fmt) (mode : Nat) : RedOp → FC2 → FC2 → FR
  | .sum => opAdd f mode false
  | .min => opMinMax f false
  | .max => opMinMax f true

/-- The result of a reduction without elements (R178). -/
def redEmpty (f : Fmt) : RedOp → FC2
  | .sum => ⟨0, f.p⟩
  | .min => ⟨f.inf false, 0⟩
  | .max => ⟨f.inf true, 0⟩

/-- An element of a packed format exactly in FP32 (R178); a NaN keeps its payload, and so stays signalling (DEDUCED, log 36). -/
def widened (f : Fmt) (x : Nat) : Nat :=
  if (FV.ofBits f x).isNan then
    Fmt.inf .s (nbit x (f.bits - 1)) + x % 2 ^ (f.p - 1) * 2 ^ (24 - f.p)
  else rne .s (FV.ofBits f x)

/-- The result of a reduction (R178). -/
def State.redRes (s : State) (a : VReg) (f : Fmt) (gm : GMask) (op : RedOp) : FR :=
  let r := redFmt f
  let widen (x : FC2) : FC2 := if f = r then x else ⟨widened f x.x, x.c⟩
  let xs := (List.range (elems f)).map (fun e => if s.active gm f e then some (widen ((s.v a).elem f e)) else none)
  let t := redTree (redOp r s.fpMode op) (Nat.log2 (elems f)) xs 0
  let y := t.1.getD (redEmpty r op)
  ⟨y.x, y.c, t.2⟩

/-- VRED (R178). -/
def execVred (g : Guard) (d : FReg) (a : VReg) (f : Fmt) (gm : GMask) (op : RedOp) (s : State) : Outcome :=
  s.run (.vred g d a f gm op) 8 g [.dstF d] (fun s => s.fpScalar d (redFmt f) (s.redRes a f gm op))

/-- VSGET (R179). -/
def execVsget (g : Guard) (d a : VReg) (gm : GMask) (s : State) : Outcome :=
  s.run (.vsget g d a gm) 8 g [] (fun s => .done (s.putLanes d gm (fun l => BitVec.ofNat 32 ((s.v a).cnt l).toNat)))

/-- VSSET: the packed halves of a lane take the same value, the odd lane of a pair 0 (R179). -/
def execVsset (g : Guard) (d a : VReg) (f : Fmt) (gm : GMask) (s : State) : Outcome :=
  s.run (.vsset g d a f gm) 8 g [] (fun s =>
    .done (s.putV d ((s.actives gm f).foldl
      (fun v e => v.setCount f e (Nat.min (((s.v a).lane (laneOf f e)).toNat % 256) f.p)) (s.v d))))

end Sys2Proof.Machine
end

