-- ==== Sys2Proof/Machine/VectorInt.lean ====
section
/-!
DEFINITION. Vector integer and mask operations, row 9 (R180 to R183), and the lane movement of row 10 (R188, R189).
-/

namespace Sys2Proof.Machine

/-- Bits of an element width (R173). -/
def vwBits : VW → Nat
  | .b => 8
  | .h => 16
  | .w => 32

/-- An operation on every element of n bits of a lane. -/
def laneWise (n : Nat) (f : Nat → Nat → Nat) (a b : BitVec 32) : BitVec 32 :=
  BitVec.ofNat 32 ((List.range (32 / n)).foldl
    (fun acc k => acc + f (a.toNat / 2 ^ (n * k) % 2 ^ n) (b.toNat / 2 ^ (n * k) % 2 ^ n) % 2 ^ n * 2 ^ (n * k)) 0)

/-- d := f(a, b) element by element, on the governed lanes (R180). -/
def State.vint (s : State) (i : Instr) (g : Guard) (d a b : VReg) (n : Nat) (gm : GMask) (f : Nat → Nat → Nat) : Outcome :=
  s.run i 8 g [] (fun s => .done (s.putLanes d gm (fun l => laneWise n f ((s.v a).lane l) ((s.v b).lane l))))

/-- Whether x is at most y, read as unsigned or as signed numbers of n bits. -/
def leBits (un : Bool) (n x y : Nat) : Bool := if un then decide (x ≤ y) else decide (signed n x ≤ signed n y)

def execViadd (g : Guard) (d a b : VReg) (w : VW) (gm : GMask) (s : State) : Outcome :=
  s.vint (.viadd g d a b w gm) g d a b (vwBits w) gm (fun x y => x + y)
def execVisub (g : Guard) (d a b : VReg) (w : VW) (gm : GMask) (s : State) : Outcome :=
  s.vint (.visub g d a b w gm) g d a b (vwBits w) gm (fun x y => x + 2 ^ vwBits w - y)
def execVimul (g : Guard) (d a b : VReg) (w : VW) (gm : GMask) (s : State) : Outcome :=
  s.vint (.vimul g d a b w gm) g d a b (vwBits w) gm (fun x y => x * y)
def execVand (g : Guard) (d a b : VReg) (gm : GMask) (s : State) : Outcome :=
  s.vint (.vand g d a b gm) g d a b 32 gm (fun x y => x &&& y)
def execVor (g : Guard) (d a b : VReg) (gm : GMask) (s : State) : Outcome :=
  s.vint (.vor g d a b gm) g d a b 32 gm (fun x y => x ||| y)
def execVxor (g : Guard) (d a b : VReg) (gm : GMask) (s : State) : Outcome :=
  s.vint (.vxor g d a b gm) g d a b 32 gm (fun x y => x ^^^ y)
def execVshl (g : Guard) (d a b : VReg) (w : VW) (gm : GMask) (s : State) : Outcome :=
  s.vint (.vshl g d a b w gm) g d a b (vwBits w) gm (fun x y => x * 2 ^ (y % vwBits w))
def execVshr (g : Guard) (d a b : VReg) (w : VW) (gm : GMask) (s : State) : Outcome :=
  s.vint (.vshr g d a b w gm) g d a b (vwBits w) gm (fun x y => x / 2 ^ (y % vwBits w))
def execVsar (g : Guard) (d a b : VReg) (w : VW) (gm : GMask) (s : State) : Outcome :=
  s.vint (.vsar g d a b w gm) g d a b (vwBits w) gm
    (fun x y => (signed (vwBits w) x / 2 ^ (y % vwBits w) % 2 ^ vwBits w).toNat)
def execVimin (g : Guard) (d a b : VReg) (w : VW) (un : Bool) (gm : GMask) (s : State) : Outcome :=
  s.vint (.vimin g d a b w un gm) g d a b (vwBits w) gm (fun x y => if leBits un (vwBits w) x y then x else y)
def execVimax (g : Guard) (d a b : VReg) (w : VW) (un : Bool) (gm : GMask) (s : State) : Outcome :=
  s.vint (.vimax g d a b w un gm) g d a b (vwBits w) gm (fun x y => if leBits un (vwBits w) x y then y else x)

/-- The conditions of VICMP (R181). -/
def icond (k : ICond) (un : Bool) (x y : Nat) : Bool :=
  match k with
  | .eq => x == y
  | .ne => x != y
  | .lt => !leBits un 32 y x
  | .le => leBits un 32 x y

/-- VICMP (R181). -/
def execVicmp (g : Guard) (d : QReg) (a b : VReg) (w : VWw) (un : Bool) (gm : GMask) (k : ICond) (s : State) : Outcome :=
  s.run (.vicmp g d a b w un gm k) 8 g [] (fun s =>
    .done (s.putQ d (maskOf (fun l => s.laneOn gm l && icond k un ((s.v a).lane l).toNat ((s.v b).lane l).toNat))))

/-- A register whose lanes and count bytes come from a function. -/
def lanesFrom (f : Nat → BitVec 32 × Byte) : VVal := ⟨tabulate 32 (fun l => (f l).1), tabulate 32 (fun l => (f l).2)⟩

/-- VSEL (R182). -/
def execVsel (g : Guard) (d a b : VReg) (c : QReg) (s : State) : Outcome :=
  s.run (.vsel g d a b c) 12 g [] (fun s =>
    .done (s.putV d (lanesFrom (fun l =>
      if nbit (s.q c).toNat l then ((s.v a).lane l, (s.v a).cnt l) else ((s.v b).lane l, (s.v b).cnt l)))))

def execQand (g : Guard) (d a b : QReg) (s : State) : Outcome :=
  s.run (.qand g d a b) 8 g [] (fun s => .done (s.putQ d (s.q a &&& s.q b)))
def execQor (g : Guard) (d a b : QReg) (s : State) : Outcome :=
  s.run (.qor g d a b) 8 g [] (fun s => .done (s.putQ d (s.q a ||| s.q b)))
def execQxor (g : Guard) (d a b : QReg) (s : State) : Outcome :=
  s.run (.qxor g d a b) 8 g [] (fun s => .done (s.putQ d (s.q a ^^^ s.q b)))
def execQnot (g : Guard) (d a : QReg) (s : State) : Outcome :=
  s.run (.qnot g d a) 8 g [] (fun s => .done (s.putQ d (~~~(s.q a))))

/-- QPOP (R183). -/
def execQpop (g : Guard) (d : GReg) (a : QReg) (s : State) : Outcome :=
  s.run (.qpop g d a) 8 g [.dst d] (fun s => .done (s.putG d (w64 (popcount (s.q a).toNat 32))))

/-- QMOV to a mask register (R183). -/
def execQmovToQ (g : Guard) (d : QReg) (a : GReg) (s : State) : Outcome :=
  s.run (.qmovToQ g d a) 8 g [.src a] (fun s => .done (s.putQ d ((s.g a).setWidth 32)))

/-- QMOV from a mask register (R183). -/
def execQmovToG (g : Guard) (d : GReg) (a : QReg) (s : State) : Outcome :=
  s.run (.qmovToG g d a) 8 g [.dst d] (fun s => .done (s.putG d ((s.q a).setWidth 64)))

/-! ### Lane movement (R188, R189) -/

/-- The governed lanes of d, with their count bytes, from a function. -/
def State.moveLanes (s : State) (d : VReg) (gm : GMask) (f : Nat → BitVec 32 × Byte) : State :=
  s.putV d ((s.lanesOn gm).foldl (fun v l => v.setLane l (f l).1 (f l).2) (s.v d))

/-- VSHUF (R188). -/
def execVshuf (g : Guard) (d a b c : VReg) (gm : GMask) (s : State) : Outcome :=
  s.run (.vshuf g d a b c gm) 12 g [] (fun s =>
    .done (s.moveLanes d gm (fun l =>
      let x := ((s.v c).lane l).toNat
      let j := x % 64
      if nbit x 7 then (0, 0)
      else if j < 32 then ((s.v a).lane j, (s.v a).cnt j) else ((s.v b).lane (j - 32), (s.v b).cnt (j - 32)))))

/-- VMOV (R189). -/
def execVmov (g : Guard) (d a : VReg) (gm : GMask) (s : State) : Outcome :=
  s.run (.vmov g d a gm) 8 g [] (fun s => .done (s.moveLanes d gm (fun l => ((s.v a).lane l, (s.v a).cnt l))))

/-- VIOTA (R189). -/
def execViota (g : Guard) (d : VReg) (a b : GReg) (gm : GMask) (s : State) : Outcome :=
  s.run (.viota g d a b gm) 8 g [.src a, .src b] (fun s =>
    .done (s.putLanes d gm (fun l => ((s.g a) + w64 l * (s.g b)).setWidth 32)))

/-- The FP format of a data code; none for `.w` (R184). -/
def vfmt : VData → Option Fmt
  | .s => some .s
  | .d => some .d
  | .hf => some .hf
  | .bf => some .bf
  | .w => none

/-- Elements of a data code (R172). -/
def vcount (dc : VData) : Nat := ((vfmt dc).map elems).getD 32

/-- The scalar operand of row 10 as the modifiers see it. -/
def anySrc : AnyGF → Opnd
  | .g r => .src r
  | .f r => .srcF r

/-- The scalar destination of row 10 as the modifiers see it. -/
def anyDst : AnyGF → Opnd
  | .g r => .dst r
  | .f r => .dstF r

/-- The scalar operand's value and stored count. -/
def State.anyVal (s : State) : AnyGF → Word × Nat
  | .g r => (s.g r, 0)
  | .f r => ((s.fval r).val, (s.fval r).cnt)

/-- An element of d replaced by a scalar with its count (R189). -/
def VVal.insert (v : VVal) (dc : VData) (e : Nat) (x : Word × Nat) : VVal :=
  match vfmt dc with
  | none => v.setLane e (x.1.setWidth 32) 0
  | some f => v.setElem f e (x.1.toNat % 2 ^ f.bits) x.2

/-- VBCAST (R189). -/
def execVbcast (g : Guard) (d : VReg) (a : AnyGF) (dc : VData) (gm : GMask) (s : State) : Outcome :=
  s.run (.vbcast g d a dc gm) 8 g [anySrc a] (fun s =>
    let es := (s.actives gm ((vfmt dc).getD .s))
    .done (s.putV d (es.foldl (fun v e => v.insert dc e (s.anyVal a)) (s.v d))))

/-- Element Bu, or VECTOR_LENGTH (R189). -/
def State.elemIndex (s : State) (dc : VData) (b : GReg) (k : Nat → Res) : Res :=
  if (s.g b).toNat < vcount dc then k (s.g b).toNat else .trap Cause.vectorLength (s.g b) (w64 (vcount dc)) s

/-- VEXT (R189). -/
def execVext (g : Guard) (d : AnyGF) (a : VReg) (b : GReg) (dc : VData) (s : State) : Outcome :=
  s.run (.vext g d a b dc) 8 g [anyDst d, .src b] (fun s => s.elemIndex dc b (fun e =>
    match d with
    | .g r => .done (s.putG r (w64 ((s.v a).lane e).toNat))
    | .f r =>
      let f := (vfmt dc).getD .s
      .done (s.putFp r f ((s.v a).bits f e) ((s.v a).count f e))))

/-- VINS (R189). -/
def execVins (g : Guard) (d : VReg) (a : AnyGF) (b : GReg) (dc : VData) (s : State) : Outcome :=
  s.run (.vins g d a b dc) 8 g [anySrc a, .src b] (fun s => s.elemIndex dc b (fun e =>
    .done (s.putV d ((s.v d).insert dc e (s.anyVal a)))))

end Sys2Proof.Machine
end

