-- ==== Sys2Proof/Machine/VectorMem.lean ====
section
/-!
DEFINITION. Vector memory: the loads and stores of row 10 (R184 to R187, R190).
-/

namespace Sys2Proof.Machine

/-- Bytes of an element in memory (R185). -/
def vbytes : VData → Nat
  | .s => 4
  | .w => 4
  | .d => 8
  | _ => 2

/-- The format whose elements a data code governs and counts: that of 32-bit lanes for `.w`. -/
def vdfmt (dc : VData) : Fmt := (vfmt dc).getD .s

/-- A loaded element with the count that LDF gives; count byte zero for `.w` (R185). -/
def VVal.loadElem (v : VVal) (dc : VData) (e x : Nat) : VVal :=
  match vfmt dc with
  | none => v.setLane e (BitVec.ofNat 32 x) 0
  | some f => v.setElem f e x (loadCount f x)

/-- The bytes of an element. -/
def VVal.elemBytes (v : VVal) (dc : VData) (e : Nat) : List Byte := toBytes (vbytes dc) (v.bits (vdfmt dc) e)

/-- The address of a plane itself: checks 1 and 2 are made on it whatever the mask (R185). -/
def planeUnit (k : AccKind) (ea : Word) (dc : VData) : AUnit := ⟨k, ea, 0, if dc = .d then 8 else 4⟩

/-- The units of the active elements of a plane. -/
def planeUnits (k : AccKind) (ea : Word) (n : Nat) (es : List Nat) : List AUnit := es.map (fun e => ⟨k, ea + w64 (n * e), n, 1⟩)

/-- PROT_LOAD or PROT_STORE for a domain-space address (R185, R186). -/
def domainTrap (k : AccKind) (as : List Word) : Option Trap := (as.find? (fun a => fld a 63 60 == 0xC)).map (fun a => ⟨k.prot, a, 0⟩)

/-- VLD (R185). -/
def execVld (g : Guard) (d : VReg) (m : MemOp) (dc : VData) (ty : ReqType) (gm : GMask) (s : State) : Outcome :=
  s.run (.vld g d m dc ty gm) 12 g (opndsM m) (fun s =>
    let ea := s.ea m
    let es := s.actives gm (vdfmt dc)
    match (if s.out then none else domainTrap .load [ea]) with
    | some t => .raise s t
    | none => s.load (planeUnit .load ea dc :: planeUnits .load ea (vbytes dc) es) ty (fun s rs =>
        .done (s.putV d ((es.zip rs).foldl (fun v r => v.loadElem dc r.1 (ofBytes r.2.data)) (s.v d)))))

/-- VST (R185, R190). -/
def execVst (g : Guard) (d : VReg) (m : MemOp) (dc : VData) (ty : ReqType) (gm : GMask) (s : State) : Outcome :=
  s.run (.vst g d m dc ty gm) 12 g (opndsM m) (fun s =>
    let ea := s.ea m
    let es := s.actives gm (vdfmt dc)
    match (if s.out then none else domainTrap .store [ea]) with
    | some t => .raise s t
    | none => s.store [(some ea, planeUnit .store ea dc :: planeUnits .store ea (vbytes dc) es, es.map ((s.v d).elemBytes dc))] ty
        true .done)

/-- VLDC (R186). -/
def execVldc (g : Guard) (d : VReg) (m : MemOp) (c : GReg) (f : Fmt) (ty : ReqType) (gm : GMask) (s : State) : Outcome :=
  s.run (.vldc g d m c f ty gm) 12 g (.src c :: opndsM m) (fun s =>
    let ea := s.ea m
    let es := s.actives gm f
    let dc : VData := match f with
      | .s => .s
      | .d => .d
      | .hf => .hf
      | .bf => .bf
    let ks := planeUnits .load (s.countAddr m c f.bytes) 1 es
    match (if s.out then none else domainTrap .load (ea :: ks.map (fun u => u.ea))) with
    | some t => .raise s t
    | none => s.load (planeUnit .load ea dc :: planeUnits .load ea f.bytes es ++ ks) ty (fun s rs =>
        .done (s.putV d ((es.zip ((rs.take es.length).zip (rs.drop es.length))).foldl (fun v r =>
          let x := ofBytes r.2.1.data
          v.setElem f r.1 x (Nat.min (ofBytes r.2.2.data % 64) (loadCount f x))) (s.v d)))))

/-- VSTC (R186, R190). -/
def execVstc (g : Guard) (d : VReg) (m : MemOp) (c : GReg) (f : Fmt) (ty : ReqType) (gm : GMask) (s : State) : Outcome :=
  s.run (.vstc g d m c f ty gm) 12 g (.src c :: opndsM m) (fun s =>
    let ea := s.ea m
    let es := s.actives gm f
    let dc : VData := match f with
      | .s => .s
      | .d => .d
      | .hf => .hf
      | .bf => .bf
    let k := s.countAddr m c f.bytes
    let ks := planeUnits .store k 1 es
    match (if s.out then none else domainTrap .store (ea :: ks.map (fun u => u.ea))) with
    | some t => .raise s t
    | none => s.store [(some ea, planeUnit .store ea dc :: planeUnits .store ea f.bytes es, es.map ((s.v d).elemBytes dc)),
        (some k, ks, es.map (fun e => toBytes 1 ((s.v d).count f e)))] ty false .done)

/-! ### Gather and scatter (R187) -/

/-- Bytes that a gather moves for an element: whole lanes, or pairs for `.d`. -/
def lanBytes (dc : VData) : Nat := if dc = .d then 8 else 4

/-- The active elements of a gather, each a lane or, for `.d`, a pair. -/
def State.gatherOn (s : State) (gm : GMask) (dc : VData) : List Nat := s.actives gm (if dc = .d then .d else .s)

/-- The address of an element. -/
def State.gatherEa (s : State) (m : MemIdx) (dc : VData) (e : Nat) : Word :=
  s.g m.base + w64 (((s.v m.idx).lane (if dc = .d then 2 * e else e)).toNat * 2 ^ m.s.toNat)

/-- Why an element's address is refused, if it is. -/
def State.gatherTrap (s : State) (k : AccKind) (m : MemIdx) (dc : VData) (e : Nat) : Option Trap :=
  let a := s.g m.base
  let x := s.gatherEa m dc e
  let bad : Option Trap := some ⟨k.prot, x, w64 e⟩
  if (fld a 63 60 ≠ 0xD ∧ fld a 63 60 ≠ 0xE) ∨ fld x 63 21 ≠ fld a 63 21 ∨ x.toNat % lanBytes dc ≠ 0 then bad
  else match s.spaceOf s.cur.1 s.cur.2 k x (lanBytes dc) with
    | .ok _ => none
    | .error t => if t.code = k.prot then bad else some t

/-- The units of a gather or scatter. -/
def State.gatherUnits (s : State) (k : AccKind) (m : MemIdx) (dc : VData) (es : List Nat) : List AUnit :=
  es.map (fun e => ⟨k, s.gatherEa m dc e, lanBytes dc, 1⟩)

/-- An element of a gather put into its lanes, with the counts that VLD gives. -/
def VVal.loadLane (v : VVal) (dc : VData) (e x : Nat) : VVal :=
  match dc with
  | .hf => (v.loadElem dc (2 * e) (x % 2 ^ 16)).loadElem dc (2 * e + 1) (x / 2 ^ 16)
  | .bf => (v.loadElem dc (2 * e) (x % 2 ^ 16)).loadElem dc (2 * e + 1) (x / 2 ^ 16)
  | _ => v.loadElem dc e x

/-- VLDX (R187). -/
def execVldx (g : Guard) (d : VReg) (m : MemIdx) (dc : VData) (ty : ReqType) (gm : GMask) (s : State) : Outcome :=
  s.run (.vldx g d m dc ty gm) 12 g [.src m.base] (fun s =>
    let es := s.gatherOn gm dc
    match (if s.out then none else es.findSome? (s.gatherTrap .load m dc)) with
    | some t => .raise s t
    | none => s.load (s.gatherUnits .load m dc es) ty (fun s rs =>
        .done (s.putV d ((es.zip rs).foldl (fun v r => v.loadLane dc r.1 (ofBytes r.2.data)) (s.v d)))))

/-- VSTX: elements in increasing order, so that the higher one stays (R187, R190). -/
def execVstx (g : Guard) (d : VReg) (m : MemIdx) (dc : VData) (ty : ReqType) (gm : GMask) (s : State) : Outcome :=
  s.run (.vstx g d m dc ty gm) 12 g [.src m.base] (fun s =>
    let es := s.gatherOn gm dc
    let f : Fmt := if dc = .d then .d else .s
    match (if s.out then none else es.findSome? (s.gatherTrap .store m dc)) with
    | some t => .raise s t
    | none => s.store [(none, s.gatherUnits .store m dc es, es.map (fun e => toBytes (lanBytes dc) ((s.v d).bits f e)))] ty
        false .done)

end Sys2Proof.Machine
end

