-- ==== Sys2Proof/Machine/Dispatch.lean ====
section
/-!
DEFINITION. One arm per instruction: each is one call of its meaning.
-/

namespace Sys2Proof.Machine

/-- The effect of an instruction, or of a step of another agent. -/
def exec (i : Instr) (s : State) : Host.Outcome State Fault Refusal :=
  match i with
  | .padWord => Sys2Proof.Machine.execPadWord s
  | .add g d a b => Sys2Proof.Machine.execAdd g d a b s
  | .sub g d a b => Sys2Proof.Machine.execSub g d a b s
  | .mul g d a b => Sys2Proof.Machine.execMul g d a b s
  | .mulh g d a b => Sys2Proof.Machine.execMulh g d a b s
  | .mulhn g d a b => Sys2Proof.Machine.execMulhn g d a b s
  | .div g d a b => Sys2Proof.Machine.execDiv g d a b s
  | .divn g d a b => Sys2Proof.Machine.execDivn g d a b s
  | .rem g d a b => Sys2Proof.Machine.execRem g d a b s
  | .remn g d a b => Sys2Proof.Machine.execRemn g d a b s
  | .and g d a b => Sys2Proof.Machine.execAnd g d a b s
  | .or g d a b => Sys2Proof.Machine.execOr g d a b s
  | .xor g d a b => Sys2Proof.Machine.execXor g d a b s
  | .andn g d a b => Sys2Proof.Machine.execAndn g d a b s
  | .orn g d a b => Sys2Proof.Machine.execOrn g d a b s
  | .shl g d a b => Sys2Proof.Machine.execShl g d a b s
  | .shr g d a b => Sys2Proof.Machine.execShr g d a b s
  | .sar g d a b => Sys2Proof.Machine.execSar g d a b s
  | .rot g d a b => Sys2Proof.Machine.execRot g d a b s
  | .min g d a b => Sys2Proof.Machine.execMin g d a b s
  | .max g d a b => Sys2Proof.Machine.execMax g d a b s
  | .minn g d a b => Sys2Proof.Machine.execMinn g d a b s
  | .maxn g d a b => Sys2Proof.Machine.execMaxn g d a b s
  | .abs g d a => Sys2Proof.Machine.execAbs g d a s
  | .neg g d a => Sys2Proof.Machine.execNeg g d a s
  | .clz g d a => Sys2Proof.Machine.execClz g d a s
  | .ctz g d a => Sys2Proof.Machine.execCtz g d a s
  | .popc g d a => Sys2Proof.Machine.execPopc g d a s
  | .brev g d a => Sys2Proof.Machine.execBrev g d a s
  | .bswap g d a => Sys2Proof.Machine.execBswap g d a s
  | .sext g d a w => Sys2Proof.Machine.execSext g d a w s
  | .zext g d a w => Sys2Proof.Machine.execZext g d a w s
  | .li g d imm => Sys2Proof.Machine.execLi g d imm s
  | .lih g d imm => Sys2Proof.Machine.execLih g d imm s
  | .lea g d m => Sys2Proof.Machine.execLea g d m s
  | .mov g d a => Sys2Proof.Machine.execMov g d a s
  | .sel g d a b k => Sys2Proof.Machine.execSel g d a b k s
  | .cmpeq g d a b => Sys2Proof.Machine.execCmpeq g d a b s
  | .cmpne g d a b => Sys2Proof.Machine.execCmpne g d a b s
  | .cmplt g d a b => Sys2Proof.Machine.execCmplt g d a b s
  | .cmple g d a b => Sys2Proof.Machine.execCmple g d a b s
  | .cmpltn g d a b => Sys2Proof.Machine.execCmpltn g d a b s
  | .cmplen g d a b => Sys2Proof.Machine.execCmplen g d a b s
  | .tstbit g d a b => Sys2Proof.Machine.execTstbit g d a b s
  | .bfx g d a pos len => Sys2Proof.Machine.execBfx g d a pos len s
  | .bfxn g d a pos len => Sys2Proof.Machine.execBfxn g d a pos len s
  | .bfi g d a pos len => Sys2Proof.Machine.execBfi g d a pos len s
  | .addv g d a b => Sys2Proof.Machine.execAddv g d a b s
  | .subv g d a b => Sys2Proof.Machine.execSubv g d a b s
  | .mulv g d a b => Sys2Proof.Machine.execMulv g d a b s
  | .chk g a b => Sys2Proof.Machine.execChk g a b s
  | .madd g d a b c => Sys2Proof.Machine.execMadd g d a b c s
  | .br g imm => Sys2Proof.Machine.execBr g imm s
  | .jmp g imm => Sys2Proof.Machine.execJmp g imm s
  | .jr g a => Sys2Proof.Machine.execJr g a s
  | .call g d imm => Sys2Proof.Machine.execCall g d imm s
  | .callr g d a => Sys2Proof.Machine.execCallr g d a s
  | .ret g a => Sys2Proof.Machine.execRet g a s
  | .loop g d imm => Sys2Proof.Machine.execLoop g d imm s
  | .bsig g a n off => Sys2Proof.Machine.execBsig g a n off s
  | .pand g d a b => Sys2Proof.Machine.execPand g d a b s
  | .por g d a b => Sys2Proof.Machine.execPor g d a b s
  | .pxor g d a b => Sys2Proof.Machine.execPxor g d a b s
  | .pnot g d a => Sys2Proof.Machine.execPnot g d a s
  | .pmov g d a => Sys2Proof.Machine.execPmov g d a s
  | .nop g => Sys2Proof.Machine.execNop g s
  | .tstart g a b => Sys2Proof.Machine.execTstart g a b s
  | .treap g d a => Sys2Proof.Machine.execTreap g d a s
  | .tend g a => Sys2Proof.Machine.execTend g a s
  | .tspawn g d a => Sys2Proof.Machine.execTspawn g d a s
  | .bar g sc => Sys2Proof.Machine.execBar g sc s
  | .fempty g a => Sys2Proof.Machine.execFempty g a s
  | .ffull g a => Sys2Proof.Machine.execFfull g a s
  | .ftest g d a => Sys2Proof.Machine.execFtest g d a s
  | .wpush g a => Sys2Proof.Machine.execWpush g a s
  | .wtake g d k => Sys2Proof.Machine.execWtake g d k s
  | .wcount g d => Sys2Proof.Machine.execWcount g d s
  | .ld g d m w ty sc k => Sys2Proof.Machine.execLd g d m w ty sc k s
  | .st g d m w ty sc k => Sys2Proof.Machine.execSt g d m w ty sc k s
  | .ldf g d m f ty => Sys2Proof.Machine.execLdf g d m f ty s
  | .stf g d m f ty => Sys2Proof.Machine.execStf g d m f ty s
  | .ldfc g d m c f ty => Sys2Proof.Machine.execLdfc g d m c f ty s
  | .stfc g d m c f ty => Sys2Proof.Machine.execStfc g d m c f ty s
  | .ldp g d m c ty => Sys2Proof.Machine.execLdp g d m c ty s
  | .stp g d m c ty => Sys2Proof.Machine.execStp g d m c ty s
  | .pref g m ty => Sys2Proof.Machine.execPref g m ty s
  | .inval g m c => Sys2Proof.Machine.execInval g m c s
  | .cwb g m c => Sys2Proof.Machine.execCwb g m c s
  | .amo g d m c w sc k op => Sys2Proof.Machine.execAmo g d m c w sc k op s
  | .amocas g d m c w sc k => Sys2Proof.Machine.execAmocas g d m c w sc k s
  | .amof g d m c f sc k op => Sys2Proof.Machine.execAmof g d m c f sc k op s
  | .fence g sc k => Sys2Proof.Machine.execFence g sc k s
  | .fencesc g => Sys2Proof.Machine.execFencesc g s
  | .rfence g d => Sys2Proof.Machine.execRfence g d s
  | .fadd g d a b f => Sys2Proof.Machine.execFadd g d a b f s
  | .fsub g d a b f => Sys2Proof.Machine.execFsub g d a b f s
  | .fmul g d a b f => Sys2Proof.Machine.execFmul g d a b f s
  | .fdiv g d a b f => Sys2Proof.Machine.execFdiv g d a b f s
  | .fsqrt g d a f => Sys2Proof.Machine.execFsqrt g d a f s
  | .fma g d a b c f => Sys2Proof.Machine.execFma g d a b c f s
  | .fms g d a b c f => Sys2Proof.Machine.execFms g d a b c f s
  | .fnma g d a b c f => Sys2Proof.Machine.execFnma g d a b c f s
  | .fnms g d a b c f => Sys2Proof.Machine.execFnms g d a b c f s
  | .fmin g d a b f => Sys2Proof.Machine.execFmin g d a b f s
  | .fmax g d a b f => Sys2Proof.Machine.execFmax g d a b f s
  | .fabs g d a f => Sys2Proof.Machine.execFabs g d a f s
  | .fneg g d a f => Sys2Proof.Machine.execFneg g d a f s
  | .fcpys g d a b f => Sys2Proof.Machine.execFcpys g d a b f s
  | .fcmpeq g d a b f => Sys2Proof.Machine.execFcmpeq g d a b f s
  | .fcmplt g d a b f => Sys2Proof.Machine.execFcmplt g d a b f s
  | .fcmple g d a b f => Sys2Proof.Machine.execFcmple g d a b f s
  | .fcmpun g d a b f => Sys2Proof.Machine.execFcmpun g d a b f s
  | .fclass g d a f => Sys2Proof.Machine.execFclass g d a f s
  | .fround g d a f rm => Sys2Proof.Machine.execFround g d a f rm s
  | .fcvt g d a df sf => Sys2Proof.Machine.execFcvt g d a df sf s
  | .ftoi g d a f ic rm => Sys2Proof.Machine.execFtoi g d a f ic rm s
  | .itof g d a f ic => Sys2Proof.Machine.execItof g d a f ic s
  | .fmov g d a => Sys2Proof.Machine.execFmov g d a s
  | .fmvg g d a => Sys2Proof.Machine.execFmvg g d a s
  | .fmvf g d a f => Sys2Proof.Machine.execFmvf g d a f s
  | .exp2 g d a => Sys2Proof.Machine.execExp2 g d a s
  | .sget g d a => Sys2Proof.Machine.execSget g d a s
  | .sset g d a => Sys2Proof.Machine.execSset g d a s
  | .vadd g d a b f gm => Sys2Proof.Machine.execVadd g d a b f gm s
  | .vsub g d a b f gm => Sys2Proof.Machine.execVsub g d a b f gm s
  | .vmul g d a b f gm => Sys2Proof.Machine.execVmul g d a b f gm s
  | .vfma g d a b c f gm => Sys2Proof.Machine.execVfma g d a b c f gm s
  | .vfms g d a b c f gm => Sys2Proof.Machine.execVfms g d a b c f gm s
  | .vmin g d a b f gm => Sys2Proof.Machine.execVmin g d a b f gm s
  | .vmax g d a b f gm => Sys2Proof.Machine.execVmax g d a b f gm s
  | .vabs g d a f gm => Sys2Proof.Machine.execVabs g d a f gm s
  | .vneg g d a f gm => Sys2Proof.Machine.execVneg g d a f gm s
  | .vdiv g d a b f gm => Sys2Proof.Machine.execVdiv g d a b f gm s
  | .vsqrt g d a f gm => Sys2Proof.Machine.execVsqrt g d a f gm s
  | .vexp2 g d a gm => Sys2Proof.Machine.execVexp2 g d a gm s
  | .vcmp g d a b f gm cond half => Sys2Proof.Machine.execVcmp g d a b f gm cond half s
  | .vcvt g d a gm cv half => Sys2Proof.Machine.execVcvt g d a gm cv half s
  | .vred g d a f gm op => Sys2Proof.Machine.execVred g d a f gm op s
  | .vsget g d a gm => Sys2Proof.Machine.execVsget g d a gm s
  | .vsset g d a f gm => Sys2Proof.Machine.execVsset g d a f gm s
  | .viadd g d a b w gm => Sys2Proof.Machine.execViadd g d a b w gm s
  | .visub g d a b w gm => Sys2Proof.Machine.execVisub g d a b w gm s
  | .vimul g d a b w gm => Sys2Proof.Machine.execVimul g d a b w gm s
  | .vand g d a b gm => Sys2Proof.Machine.execVand g d a b gm s
  | .vor g d a b gm => Sys2Proof.Machine.execVor g d a b gm s
  | .vxor g d a b gm => Sys2Proof.Machine.execVxor g d a b gm s
  | .vshl g d a b w gm => Sys2Proof.Machine.execVshl g d a b w gm s
  | .vshr g d a b w gm => Sys2Proof.Machine.execVshr g d a b w gm s
  | .vsar g d a b w gm => Sys2Proof.Machine.execVsar g d a b w gm s
  | .vimin g d a b w un gm => Sys2Proof.Machine.execVimin g d a b w un gm s
  | .vimax g d a b w un gm => Sys2Proof.Machine.execVimax g d a b w un gm s
  | .vicmp g d a b w un gm cond => Sys2Proof.Machine.execVicmp g d a b w un gm cond s
  | .vsel g d a b c => Sys2Proof.Machine.execVsel g d a b c s
  | .qand g d a b => Sys2Proof.Machine.execQand g d a b s
  | .qor g d a b => Sys2Proof.Machine.execQor g d a b s
  | .qxor g d a b => Sys2Proof.Machine.execQxor g d a b s
  | .qnot g d a => Sys2Proof.Machine.execQnot g d a s
  | .qpop g d a => Sys2Proof.Machine.execQpop g d a s
  | .qmovToQ g d a => Sys2Proof.Machine.execQmovToQ g d a s
  | .qmovToG g d a => Sys2Proof.Machine.execQmovToG g d a s
  | .vld g d m dc ty gm => Sys2Proof.Machine.execVld g d m dc ty gm s
  | .vst g d m dc ty gm => Sys2Proof.Machine.execVst g d m dc ty gm s
  | .vldx g d m dc ty gm => Sys2Proof.Machine.execVldx g d m dc ty gm s
  | .vstx g d m dc ty gm => Sys2Proof.Machine.execVstx g d m dc ty gm s
  | .vldc g d m c dc ty gm => Sys2Proof.Machine.execVldc g d m c dc ty gm s
  | .vstc g d m c dc ty gm => Sys2Proof.Machine.execVstc g d m c dc ty gm s
  | .vshuf g d a b c gm => Sys2Proof.Machine.execVshuf g d a b c gm s
  | .vbcast g d a dc gm => Sys2Proof.Machine.execVbcast g d a dc gm s
  | .vext g d a b dc => Sys2Proof.Machine.execVext g d a b dc s
  | .vins g d a b dc => Sys2Proof.Machine.execVins g d a b dc s
  | .viota g d a b gm => Sys2Proof.Machine.execViota g d a b gm s
  | .vmov g d a gm => Sys2Proof.Machine.execVmov g d a gm s
  | .mma g d a b c e f bg ag kk => Sys2Proof.Machine.execMma g d a b c e f bg ag kk s
  | .mmaq g d a b c e f bg ag kk => Sys2Proof.Machine.execMmaq g d a b c e f bg ag kk s
  | .mzero g d => Sys2Proof.Machine.execMzero g d s
  | .mld g d a b c dc pl => Sys2Proof.Machine.execMld g d a b c dc pl s
  | .mst g d a b c dc pl => Sys2Proof.Machine.execMst g d a b c dc pl s
  | .mcommit g d fill => Sys2Proof.Machine.execMcommit g d fill s
  | .mwait g a => Sys2Proof.Machine.execMwait g a s
  | .mtest g d => Sys2Proof.Machine.execMtest g d s
  | .vfroma g d a b sl => Sys2Proof.Machine.execVfroma g d a b sl s
  | .vtoa g d a b sl => Sys2Proof.Machine.execVtoa g d a b sl s
  | .mscale g d a b => Sys2Proof.Machine.execMscale g d a b s
  | .smxa g d a b c e f fs => Sys2Proof.Machine.execSmxa g d a b c e f fs s
  | .smxfin g d b rst => Sys2Proof.Machine.execSmxfin g d b rst s
  | .smxmerge g d a b => Sys2Proof.Machine.execSmxmerge g d a b s
  | .smxld g d a b c pl => Sys2Proof.Machine.execSmxld g d a b c pl s
  | .smxst g d a b c pl => Sys2Proof.Machine.execSmxst g d a b c pl s
  | .smxinit g d b => Sys2Proof.Machine.execSmxinit g d b s
  | .copyq g a b c e => Sys2Proof.Machine.execCopyq g a b c e s
  | .copyqt g d a b c e => Sys2Proof.Machine.execCopyqt g d a b c e s
  | .copys g d a => Sys2Proof.Machine.execCopys g d a s
  | .copyk g d a => Sys2Proof.Machine.execCopyk g d a s
  | .xfence g => Sys2Proof.Machine.execXfence g s
  | .signal g a b c => Sys2Proof.Machine.execSignal g a b c s
  | .lease g d a b warn => Sys2Proof.Machine.execLease g d a b warn s
  | .renew g d a b => Sys2Proof.Machine.execRenew g d a b s
  | .unlease g d a drop => Sys2Proof.Machine.execUnlease g d a drop s
  | .roleq g d a => Sys2Proof.Machine.execRoleq g d a s
  | .rolereq g d a b => Sys2Proof.Machine.execRolereq g d a b s
  | .noteack g a => Sys2Proof.Machine.execNoteack g a s
  | .couch g d a ev => Sys2Proof.Machine.execCouch g d a ev s
  | .couchs g d a => Sys2Proof.Machine.execCouchs g d a s
  | .svc g imm => Sys2Proof.Machine.execSvc g imm s
  | .brk g imm => Sys2Proof.Machine.execBrk g imm s
  | .tret g => Sys2Proof.Machine.execTret g s
  | .csrr g d num => Sys2Proof.Machine.execCsrr g d num s
  | .csrw g d a num => Sys2Proof.Machine.execCsrw g d a num s
  | .csrs g d a num => Sys2Proof.Machine.execCsrs g d a num s
  | .csrc g d a num => Sys2Proof.Machine.execCsrc g d a num s
  | .tbw g a b c t => Sys2Proof.Machine.execTbw g a b c t s
  | .tbi g a b t all => Sys2Proof.Machine.execTbi g a b t all s
  | .tbp g d a b t => Sys2Proof.Machine.execTbp g d a b t s
  | .scfgr g d a idx => Sys2Proof.Machine.execScfgr g d a idx s
  | .scfgw g a b idx => Sys2Proof.Machine.execScfgw g a b idx s
  | .cwbr g a c iv => Sys2Proof.Machine.execCwbr g a c iv s
  | .slinv g a c => Sys2Proof.Machine.execSlinv g a c s
  | .gswitch g d a b => Sys2Proof.Machine.execGswitch g d a b s
  | .ckpt g d => Sys2Proof.Machine.execCkpt g d s
  | .halt g a => Sys2Proof.Machine.execHalt g a s
  | .mmaStepRun core res => Sys2Proof.Machine.execMmaStepRun core res s
  | .mmaqStepRun core res => Sys2Proof.Machine.execMmaqStepRun core res s
  | .mzeroRun core => Sys2Proof.Machine.execMzeroRun core s
  | .mscaleRun core => Sys2Proof.Machine.execMscaleRun core s
  | .mldRun core => Sys2Proof.Machine.execMldRun core s
  | .mstRun core => Sys2Proof.Machine.execMstRun core s
  | .smxaRun core => Sys2Proof.Machine.execSmxaRun core s
  | .smxfinRun core => Sys2Proof.Machine.execSmxfinRun core s
  | .smxmergeRun core => Sys2Proof.Machine.execSmxmergeRun core s
  | .smxldRun core => Sys2Proof.Machine.execSmxldRun core s
  | .smxstRun core => Sys2Proof.Machine.execSmxstRun core s
  | .smxinitRun core => Sys2Proof.Machine.execSmxinitRun core s
  | .matrixBatchComplete core => Sys2Proof.Machine.execMatrixBatchComplete core s
  | .parkedThreadWake core ctx => Sys2Proof.Machine.execParkedThreadWake core ctx s
  | .eventEntry core ctx => Sys2Proof.Machine.execEventEntry core ctx s
  | .enqueue part addr => Sys2Proof.Machine.execEnqueue part addr s
  | .taskCreate part => Sys2Proof.Machine.execTaskCreate part s
  | .taskDispatch part die tiles => Sys2Proof.Machine.execTaskDispatch part die tiles s
  | .priorityRise part task => Sys2Proof.Machine.execPriorityRise part task s
  | .taskRetire part task => Sys2Proof.Machine.execTaskRetire part task s
  | .completionMessage part => Sys2Proof.Machine.execCompletionMessage part s
  | .levellingStep core => Sys2Proof.Machine.execLevellingStep core s
  | .levellingReceive core k => Sys2Proof.Machine.execLevellingReceive core k s
  | .tileSpaceArrival k => Sys2Proof.Machine.execTileSpaceArrival k s
  | .gangCacheHomeApply k => Sys2Proof.Machine.execGangCacheHomeApply k s
  | .sliceWriteApply k => Sys2Proof.Machine.execSliceWriteApply k s
  | .sliceRead k => Sys2Proof.Machine.execSliceRead k s
  | .sliceAtomic k => Sys2Proof.Machine.execSliceAtomic k s
  | .stackReadReturn slice k => Sys2Proof.Machine.execStackReadReturn slice k s
  | .stackWriteAck slice k => Sys2Proof.Machine.execStackWriteAck slice k s
  | .dieViewDelivery die k => Sys2Proof.Machine.execDieViewDelivery die k s
  | .copyTransferStart core => Sys2Proof.Machine.execCopyTransferStart core s
  | .copyTransferComplete core => Sys2Proof.Machine.execCopyTransferComplete core s
  | .domainMessageArrival m => Sys2Proof.Machine.execDomainMessageArrival m s
  | .remoteAck k data => Sys2Proof.Machine.execRemoteAck k data s
  | .remoteRefusal k code => Sys2Proof.Machine.execRemoteRefusal k code s
  | .signalFillArrival k => Sys2Proof.Machine.execSignalFillArrival k s
  | .reductionFlitArrival f => Sys2Proof.Machine.execReductionFlitArrival f s
  | .collectiveComplete group elem => Sys2Proof.Machine.execCollectiveComplete group elem s
  | .censusPoint part => Sys2Proof.Machine.execCensusPoint part s
  | .roleChange part k => Sys2Proof.Machine.execRoleChange part k s
  | .routingDrainComplete part k => Sys2Proof.Machine.execRoutingDrainComplete part k s
  | .reseatFlip part k => Sys2Proof.Machine.execReseatFlip part k s
  | .roleWritebackComplete part k => Sys2Proof.Machine.execRoleWritebackComplete part k s
  | .leaseExpiring part role => Sys2Proof.Machine.execLeaseExpiring part role s
  | .leaseExpired part role => Sys2Proof.Machine.execLeaseExpired part role s
  | .gangSwitchStop part task => Sys2Proof.Machine.execGangSwitchStop part task s
  | .gangResume part task tiles => Sys2Proof.Machine.execGangResume part task tiles s
  | .checkpointCapture part => Sys2Proof.Machine.execCheckpointCapture part s
  | .faultDetected f => Sys2Proof.Machine.execFaultDetected f s
  | .rollback part => Sys2Proof.Machine.execRollback part s
  | .partitionReset part => Sys2Proof.Machine.execPartitionReset part s
  | .functionLevelReset vf => Sys2Proof.Machine.execFunctionLevelReset vf s
  | .partitionResize src dst bands halves deadline => Sys2Proof.Machine.execPartitionResize src dst bands halves deadline s
  | .resizeDeadline part => Sys2Proof.Machine.execResizeDeadline part s
  | .heldContextEnd core ctx => Sys2Proof.Machine.execHeldContextEnd core ctx s
  | .heldContextStart core ctx => Sys2Proof.Machine.execHeldContextStart core ctx s
  | .watchdog core ctx => Sys2Proof.Machine.execWatchdog core ctx s
  | .couchDrainStep stack => Sys2Proof.Machine.execCouchDrainStep stack s
  | .splitWrite core => Sys2Proof.Machine.execSplitWrite core s
  | .deckleWrite part w v => Sys2Proof.Machine.execDeckleWrite part w v s
  | .dbgctlWrite core ctx v => Sys2Proof.Machine.execDbgctlWrite core ctx v s
  | .registerWrite r v => Sys2Proof.Machine.execRegisterWrite r v s
  | .sholdHold slice => Sys2Proof.Machine.execSholdHold slice s
  | .sholdRelease slice => Sys2Proof.Machine.execSholdRelease slice s
  | .dswitchArm slice part v => Sys2Proof.Machine.execDswitchArm slice part v s
  | .domainSwitch stack => Sys2Proof.Machine.execDomainSwitch stack s
  | .domainSwitchComplete stack => Sys2Proof.Machine.execDomainSwitchComplete stack s
  | .crbaseWrite part v => Sys2Proof.Machine.execCrbaseWrite part v s
  | .crsizeWrite part v => Sys2Proof.Machine.execCrsizeWrite part v s
  | .crheadWrite part v => Sys2Proof.Machine.execCrheadWrite part v s
  | .modctlGo v img verdict => Sys2Proof.Machine.execModctlGo v img verdict s
  | .pwrcapWrite v => Sys2Proof.Machine.execPwrcapWrite v s
  | .devnumsetWrite v => Sys2Proof.Machine.execDevnumsetWrite v s
  | .rbdataWrite v => Sys2Proof.Machine.execRbdataWrite v s
  | .hostMemoryAccess part addr acc => Sys2Proof.Machine.execHostMemoryAccess part addr acc s
  | .hostAtomic part addr op => Sys2Proof.Machine.execHostAtomic part addr op s
  | .getVersion vf => Sys2Proof.Machine.execGetVersion vf s
  | .getCapabilities vf => Sys2Proof.Machine.execGetCapabilities vf s
  | .negotiateAlgorithms vf => Sys2Proof.Machine.execNegotiateAlgorithms vf s
  | .getDigests vf => Sys2Proof.Machine.execGetDigests vf s
  | .getCertificate vf => Sys2Proof.Machine.execGetCertificate vf s
  | .challenge vf => Sys2Proof.Machine.execChallenge vf s
  | .getMeasurements vf => Sys2Proof.Machine.execGetMeasurements vf s
  | .powerOn lay verdict => Sys2Proof.Machine.execPowerOn lay verdict s
  | .flitCrcError link => Sys2Proof.Machine.execFlitCrcError link s
  | .tileStoreScrub core => Sys2Proof.Machine.execTileStoreScrub core s
  | .sliceScrub slice => Sys2Proof.Machine.execSliceScrub slice s
  | .stackScrub stack => Sys2Proof.Machine.execStackScrub stack s
  | .progressTimeout u => Sys2Proof.Machine.execProgressTimeout u s
  | .dutyCycling n => Sys2Proof.Machine.execDutyCycling n s
  | .gtimeToleranceChange pkg dom => Sys2Proof.Machine.execGtimeToleranceChange pkg dom s

end Sys2Proof.Machine
end

