-- ==== Sys2Proof/Machine/Step.lean ====
section
/-!
DEFINITION. One step of the machine: one turn of one agent, and the placement of a first instruction.
-/

namespace Sys2Proof.Machine

/-- One step: the turn taken next is an issue cycle of a core, a step of another agent, or time (DESIGN CHOICE, log 1). What falls due at a tick
or a cycle comes before everything else (R23, R32, R306, R307, R311, R352). -/
def step (s : State) : Host.Outcome State Fault Refusal :=
  match s.nextTurn with
  | (.issue c, s) =>
    if !coreExists c then .fault (.noSuchCore c)
    else if s.timeDue || (s.core c).levelDue then .next s
    else match s.slot c with
    | .idle s => .next (s.tick c)
    | .entry s => .next s
    | .issue i s => endSlot c i (exec i s)
  | (.event i, s) =>
    if !i.isEvent then .refused .notAnEvent
    else if s.timeDue && !timedEvent i then .next s
    else exec i s
  | (.advance n, s) => .next (s.advance n)

/-- The state with an instruction of `nbits` bits, its higher bits zero up to four words, where `step` fetches next (DESIGN CHOICE, log 4). -/
def State.withFetchWord (s : State) (nbits w : Nat) : State := s.placeFirst (leBytes 16 (w % 2 ^ nbits) ++ List.replicate 16 0)

end Sys2Proof.Machine
end

