-- ==== Sys2Proof/Certificates/Slice0/Frame.lean ====
section
/-!
DEFINITION. The words the statements use: what an instruction writes, and what it leaves as it was.
-/

namespace Sys2Proof.Machine

/-! ### Memory as it was -/

/-- Every byte of every memory reads as before: tile stores, stacks, system areas, the firmware's memory, the host's memory. -/
structure SameMemory (s t : State) : Prop where
  store : ∀ c a, (t.core c).store.read a = (s.core c).store.read a
  stack : ∀ n a, (t.stack n).mem.read a = (s.stack n).mem.read a
  sys : ∀ p a, (t.part p).sys.read a = (s.part p).sys.read a
  fw : ∀ a, t.fwMem.read a = s.fwMem.read a
  host : ∀ a, t.hostMem.read a = s.hostMem.read a

/-! ### What an instruction writes -/

/-- The registers an instruction writes in its own context: g-class ones in order, an f register with its count, a predicate, a vector, a
mask, and the flags it adds to FPFLAGS. -/
structure Effect where
  g : List (GReg × Word) := []
  f : Option (FReg × Word × Nat) := none
  p : Option (PReg × Bool) := none
  v : Option (VReg × VVal) := none
  q : Option (QReg × BitVec 32) := none
  flags : Nat := 0
  deriving DecidableEq, Repr

/-- Whether a write to a g-class register shows at once: every write but a plain one to a shared register (R30). -/
def GReg.now (r : GReg) : Bool := decide (r.num.toNat < 32) || r.md == .deposit

/-- A g-class register after an instruction with operands `os` that writes `ds`: g0 reads 0; a register written reads its value and is
full; one consumed and not written is empty; every other one is as it was (R29, R30, R61). -/
def State.gAfter (s : State) (os : List Opnd) (ds : List (GReg × Word)) (n : Nat) : GVal :=
  if n = 0 then GVal.zero
  else match ds.reverse.find? (fun d => d.1.num.toNat == n && GReg.now d.1) with
    | some d => ⟨d.2, true⟩
    | none => if consumes os (false, n) then ⟨(s.gval n).val, false⟩ else s.gval n

/-- The plain writes to shared registers that wait after an instruction writes `ds` (R30). -/
def State.spendAfter (s : State) (ds : List (GReg × Word)) : List SWrite :=
  s.myCore.spend ++ (ds.filter (fun d => !GReg.now d.1)).map (fun d => ⟨d.1.num.toNat - 32, d.2, s.myCore.cycle + 5⟩)

/-- f register n as it stands. -/
def State.fAt (s : State) (n : Nat) : FVal := tget FVal.zero s.me.f n

/-- An f register after an instruction with operands `os` that writes `d` (R29, R61, R141). -/
def State.fAfter (s : State) (os : List Opnd) (d : Option (FReg × Word × Nat)) (n : Nat) : FVal :=
  match d.filter (fun d => d.1.num.toNat == n) with
  | some d => ⟨d.2.1, d.2.2, true⟩
  | none => if consumes os (true, n) then { s.fAt n with full := false } else s.fAt n

/-- A register of another class after an instruction that writes `d`. -/
def after {ρ α : Type} [BEq ρ] (d : Option (ρ × α)) (r : ρ) (old : α) : α :=
  match d.filter (fun d => d.1 == r) with
  | some d => d.2
  | none => old

/-- A core without its contexts and its shared registers. -/
def Core.rest (k : Core) : Core := { k with ctxs := [], s := [], spend := [] }

/-- A context without its registers, its PC, its FPFLAGS and what an instruction's end resets: the trap and control registers, the level,
the shadow sets and the state are left. -/
def Ctx.rest (t : Ctx) : Ctx :=
  { t with pc := 0, g := [], f := [], p := 0, v := [], q := [], fpflags := 0, events := [], park := none, phase := .none, replies := [] }

/-- The events of the issuing context after an instruction completes: single-step adds its own at level 0 (R258). -/
def State.eventsAfter (s : State) : List Ev :=
  if s.me.live && s.me.level == .l0 && bit s.me.dbgctl 0 then s.me.events ++ [.plain Cause.singleStep s.me.pc 0] else s.me.events

/-- A REGISTER INSTRUCTION'S COMPLETION: `t` is `s` with the effect `e` of an instruction with operands `os`, the PC at `pc`, and nothing
else changed: no other context, no other core, no byte of memory, no other part of the device. -/
structure Completes (s t : State) (os : List Opnd) (pc : Word) (e : Effect) : Prop where
  device : { t with cores := s.cores } = s
  cores : ∀ c, c ≠ s.cur.1 → t.core c = s.core c
  ctxs : ∀ y, y ≠ s.cur.2 → t.ctx s.cur.1 y = s.ctx s.cur.1 y
  core : t.myCore.rest = s.myCore.rest
  spend : t.myCore.spend = s.spendAfter e.g
  rest : t.me.rest = s.me.rest
  pc : t.me.pc = pc
  park : t.me.park = none
  phase : t.me.phase = .none
  replies : t.me.replies = []
  events : t.me.events = s.eventsAfter
  fpflags : t.me.fpflags = s.me.fpflags ||| w64 e.flags
  g : ∀ n, t.gval n = s.gAfter os e.g n
  f : ∀ n, t.fAt n = s.fAfter os e.f n
  p : ∀ r, t.p r = if r = 0 then true else after e.p r (s.p r)
  v : ∀ r, t.v r = after e.v r (s.v r)
  q : ∀ r, t.q r = after e.q r (s.q r)
  memory : SameMemory s t

/-- An instruction completes at once with an effect: `exec` answers a next state that is `s` with it, the PC `size` bytes on. -/
def Runs (i : Instr) (s : State) (size : Nat) (os : List Opnd) (e : Effect) : Prop :=
  ∃ t, exec i s = .next t ∧ Completes s t os (s.me.pc + w64 size) e

/-- An instruction completes at once with an effect and a new PC. -/
def Jumps (i : Instr) (s : State) (pc : Word) (os : List Opnd) (e : Effect) : Prop :=
  ∃ t, exec i s = .next t ∧ Completes s t os pc e

/-- An instruction raises a cause with nothing else done: TEPC is its own address (R33). -/
def Traps (i : Instr) (s : State) (code : Nat) (tval tstat : Word) : Prop :=
  exec i s = .next ((s.modMe (fun t => t.settle s.me.pc)).raise s.cur.1 s.cur.2 code tval tstat s.me.pc)

/-- An instruction completes at once with an effect beside its registers: `u` is `s` with that effect, and `exec` answers `u` with the
registers written and the PC on. -/
def RunsWith (i : Instr) (s u : State) (size : Nat) (os : List Opnd) (e : Effect) : Prop :=
  ∃ t, exec i s = .next t ∧ Completes u t os (s.me.pc + w64 size) e

/-- An instruction raises a cause after the effect that makes `u` of `s`. -/
def TrapsWith (i : Instr) (s u : State) (code : Nat) (tval tstat : Word) : Prop :=
  exec i s = .next ((u.modMe (fun t => t.settle s.me.pc)).raise s.cur.1 s.cur.2 code tval tstat s.me.pc)

/-- An instruction raises the cause of a failed check. -/
def Raises (i : Instr) (s : State) (t : Trap) : Prop := Traps i s t.code t.tval t.tstat

/-- An instruction parks its thread with nothing else done (R28). -/
def Parks (i : Instr) (s : State) (w : Wait) : Prop := exec i s = .next (s.parkOn i w)

/-- An instruction does not issue in this cycle; it issues again in a later one (R51). -/
def Bubbles (i : Instr) (s : State) : Prop := exec i s = .next (s.modMe (fun t => { t with park := none }))

/-- The operand that a byte of a word is under its slot, as the modifier rules see it. -/
def slotOpnd (b : BitVec 8) : Sys2Proof.Slot → List Opnd
  | .src .g => [.src (.ofByte b)]
  | .dst .g => [.dst (.ofByte b)]
  | .src .f => [.srcF (.ofByte b)]
  | .dst .f => [.dstF (.ofByte b)]
  | _ => []

/-- The operands of a word that carry modifiers, by the slots of its shape (R29, R48); with bit I set, operand b is an immediate (R44). -/
def rawOpnds (r : Raw) (sh : Shape) : List Opnd :=
  slotOpnd r.d sh.d ++ slotOpnd r.a sh.a ++ (if r.i = 1 then [] else slotOpnd r.b sh.b) ++ slotOpnd r.c sh.c ++ slotOpnd r.e sh.e

/-! ### Steps of other agents: what changes, and what does not -/

/-- Nothing changes outside core c. -/
structure CoreOnly (s t : State) (c : Nat) : Prop where
  device : { t with cores := s.cores } = s
  cores : ∀ d, d ≠ c → t.core d = s.core d

/-- Every core but c stays as it was, but for the note that the barrier of another tile of its gang has been aborted (R90). -/
def CoresKept (s t : State) (c : Nat) : Prop :=
  ∀ d, d ≠ c → { t.core d with bar := { (t.core d).bar with barred := (s.core d).bar.barred } } = s.core d

/-- Core c has aborted its tile's barrier with r, and every other tile of its gang knows it (R90). -/
def BarsTile (s t : State) (c : Nat) (r : Nat × Nat) : Prop :=
  (t.core c).bar.aborted = some r ∧
  ∀ g ∈ s.gangCores c, g ≠ c → (t.core g).bar.barred = (s.core g).bar.barred.or (some r)

/-- Nothing changes outside context x of core c. -/
structure CtxOnly (s t : State) (c x : Nat) : Prop where
  device : { t with cores := s.cores } = s
  cores : ∀ d, d ≠ c → t.core d = s.core d
  core : { t.core c with ctxs := [] } = { s.core c with ctxs := [] }
  ctxs : ∀ y, y ≠ x → t.ctx c y = s.ctx c y

/-- Nothing changes outside partition p. -/
structure PartOnly (s t : State) (p : Nat) : Prop where
  device : { t with parts := s.parts } = s
  parts : ∀ q, q ≠ p → t.part q = s.part q

/-- Nothing changes outside slice n. -/
structure SliceOnly (s t : State) (n : Nat) : Prop where
  device : { t with slices := s.slices } = s
  slices : ∀ m, m ≠ n → t.slice m = s.slice m

/-- Nothing changes outside the registers and the switch of stack n. -/
structure StackOnly (s t : State) (n : Nat) : Prop where
  device : { t with memStacks := s.memStacks } = s
  others : ∀ m, m ≠ n → t.stack m = s.stack m

/-- An event has its effect: `exec` answers a next state of which `P` holds. -/
def Makes (i : Instr) (s : State) (P : State → Prop) : Prop := ∃ t, exec i s = .next t ∧ P t

end Sys2Proof.Machine
end

