-- ==== Sys2Proof/Safety.lean ====
section
/-!
DEFINITION. What counts as a safe run: every memory of the device keeps its canonical form.
-/

namespace Sys2Proof.Machine

/-- Every tile store a core table holds is in canonical form. -/
def coresWf (t : Table Core) : Bool := t.all (fun e => e.2.store.wf)

/-- Every tile store of the saved gangs of a window is in canonical form. -/
def savedWf (w : List Task) : Bool := w.all (fun t => t.saved.all (fun k => k.store.wf))

/-- The system area of a partition, and the saved gangs of its window and of its checkpoint, are in canonical form. -/
def Part.memWf (p : Part) : Bool := p.sys.wf && savedWf p.window && p.ckpt.all (fun k => savedWf k.window)

/-- Every memory the state holds is in canonical form: tile stores, stacks, the partitions', the firmware's and the host's memory. -/
def State.memWf (s : State) : Bool :=
  coresWf s.cores && s.memStacks.all (fun e => e.2.mem.wf) && s.parts.all (fun e => e.2.memWf) && s.fwMem.wf && s.hostMem.wf

end Sys2Proof.Machine
end

