-- ==== Sys2Proof/Certificates/Slice0/Obligations.lean ====
section
/-!
DEFINITION. The statements for the provers.
-/

namespace Sys2Proof.Machine

/-- A shift amount: a register's value mod 64, or the immediate as it stands (R66). -/
def State.shiftBy (s : State) : RegImm → Nat
  | .reg r => (s.g r).toNat % 64
  | .imm v => v.toNat

/-- A shift immediate within 0 to 63, which decoding grants (R64). -/
def shiftOk : RegImm → Bool
  | .reg _ => true
  | .imm v => decide (v.toNat < 64)

end Sys2Proof.Machine

open Sys2Proof Sys2Proof.Machine

/-- ROW 0, R65 and R66: every function of row 0, of two operands and of one, writes its result and nothing else; the four divisions raise
INT_DIVZERO where B is 0. -/
def Obligations.IntegerRowComputes : Prop :=
  (∀ (s : State) (g : Guard) (d a : GReg) (b : RegImm),
     s.guard g = true → s.modsOk (condsOf (.dst d :: .src a :: opndsB b)) = true →
     let A := s.g a
     let B := s.b b
     let n := s.shiftBy b
     (∀ q ∈ ([(.add g d a b, A + B), (.sub g d a b, A - B), (.mul g d a b, A * B),
         (.mulh g d a b, BitVec.ofInt 64 (A.toInt * B.toInt / 2 ^ 64)), (.mulhn g d a b, BitVec.ofNat 64 (A.toNat * B.toNat / 2 ^ 64)),
         (.and g d a b, A &&& B), (.or g d a b, A ||| B), (.xor g d a b, A ^^^ B), (.andn g d a b, A &&& ~~~B), (.orn g d a b, A ||| ~~~B),
         (.min g d a b, if A.toInt ≤ B.toInt then A else B), (.max g d a b, if A.toInt ≤ B.toInt then B else A),
         (.minn g d a b, if A.toNat ≤ B.toNat then A else B), (.maxn g d a b, if A.toNat ≤ B.toNat then B else A)] : List (Instr × Word)),
       Runs q.1 s 8 (.dst d :: .src a :: opndsB b) { g := [(d, q.2)] }) ∧
     (shiftOk b = true → ∀ q ∈ ([(.shl g d a b, A <<< n), (.shr g d a b, A >>> n), (.sar g d a b, A.sshiftRight n),
         (.rot g d a b, A.rotateLeft n)] : List (Instr × Word)),
       Runs q.1 s 8 (.dst d :: .src a :: opndsB b) { g := [(d, q.2)] }) ∧
     (B ≠ 0 → ∀ q ∈ ([(.div g d a b, BitVec.ofInt 64 (A.toInt.tdiv B.toInt)), (.divn g d a b, BitVec.ofNat 64 (A.toNat / B.toNat)),
         (.rem g d a b, BitVec.ofInt 64 (A.toInt - B.toInt * A.toInt.tdiv B.toInt)),
         (.remn g d a b, BitVec.ofNat 64 (A.toNat % B.toNat))] : List (Instr × Word)),
       Runs q.1 s 8 (.dst d :: .src a :: opndsB b) { g := [(d, q.2)] }) ∧
     (B = 0 → ∀ i ∈ ([.div g d a b, .divn g d a b, .rem g d a b, .remn g d a b] : List Instr), Traps i s Cause.intDivzero A 0)) ∧
  (∀ (s : State) (g : Guard) (d a : GReg), s.guard g = true → s.modsOk (condsOf [.dst d, .src a]) = true →
     let A := s.g a
     (∀ q ∈ ([(.abs g d a, BitVec.ofNat 64 A.toInt.natAbs), (.neg g d a, -A), (.bswap g d a, wordOf (toBytes 8 A.toNat).reverse),
         (.sext g d a .b, (A.setWidth 8).signExtend 64), (.sext g d a .h, (A.setWidth 16).signExtend 64),
         (.sext g d a .w, (A.setWidth 32).signExtend 64), (.zext g d a .b, (A.setWidth 8).setWidth 64),
         (.zext g d a .h, (A.setWidth 16).setWidth 64), (.zext g d a .w, (A.setWidth 32).setWidth 64),
         (.mov g d a, A)] : List (Instr × Word)),
       Runs q.1 s 8 [.dst d, .src a] { g := [(d, q.2)] }) ∧
     (∃ c z n r : Word, Runs (.clz g d a) s 8 [.dst d, .src a] { g := [(d, c)] } ∧ Runs (.ctz g d a) s 8 [.dst d, .src a] { g := [(d, z)] } ∧
       Runs (.popc g d a) s 8 [.dst d, .src a] { g := [(d, n)] } ∧ Runs (.brev g d a) s 8 [.dst d, .src a] { g := [(d, r)] } ∧
       (A = 0 → c = 64 ∧ z = 64) ∧
       (A ≠ 0 → c.toNat < 64 ∧ z.toNat < 64 ∧ A.getLsbD (63 - c.toNat) = true ∧ A.getLsbD z.toNat = true) ∧
       (∀ k, k < 64 → 63 - c.toNat < k → c.toNat < 64 → A.getLsbD k = false) ∧ (∀ k, k < z.toNat → A.getLsbD k = false) ∧
       n.toNat = ((List.range 64).filter (fun k => A.getLsbD k)).length ∧ (∀ k, k < 64 → r.getLsbD k = A.getLsbD (63 - k))))

/-- ROW 1 without compares and checks, R67 to R69, R71, R74: constants, addresses, moves, bit fields, MADD. -/
def Obligations.ConstantsAndFieldsCompute : Prop :=
  ∀ (s : State) (g : Guard) (d a b c : GReg) (m : MemOp) (k : RegImm47) (i55 : BitVec 55) (pk : BitVec 3) (pos len : BitVec 6),
    s.guard g = true →
    (s.modsOk (condsOf [.dst d]) = true →
      Runs (.li g d i55) s 12 [.dst d] { g := [(d, i55.signExtend 64)] } ∧
      (i55.toNat < 2 ^ 32 → Runs (.lih g d i55) s 12 [.dst d] { g := [(d, i55.setWidth 32 ++ (s.g d).setWidth 32)] })) ∧
    (s.modsOk (condsOf (.dst d :: opndsM m)) = true → Runs (.lea g d m) s 8 (.dst d :: opndsM m) { g := [(d, s.ea m)] }) ∧
    (s.modsOk (condsOf [.dst d, .src a, .src b]) = true →
      Runs (.sel g d a b pk) s 8 [.dst d, .src a, .src b] { g := [(d, if s.p pk then s.g a else s.g b)] }) ∧
    (s.modsOk (condsOf [.dst d, .src a]) = true → pos.toNat + len.toNat + 1 ≤ 64 →
      ∃ x xn i : Word, Runs (.bfx g d a pos len) s 8 [.dst d, .src a] { g := [(d, x)] } ∧
        Runs (.bfxn g d a pos len) s 8 [.dst d, .src a] { g := [(d, xn)] } ∧
        Runs (.bfi g d a pos len) s 8 [.dst d, .src a] { g := [(d, i)] } ∧
        (∀ j, j ≤ len.toNat → x.getLsbD j = (s.g a).getLsbD (pos.toNat + j) ∧ xn.getLsbD j = (s.g a).getLsbD (pos.toNat + j)) ∧
        (∀ j, len.toNat < j → j < 64 → x.getLsbD j = (s.g a).getLsbD (pos.toNat + len.toNat) ∧ xn.getLsbD j = false) ∧
        (∀ j, j < 64 → i.getLsbD j =
          if pos.toNat ≤ j ∧ j ≤ pos.toNat + len.toNat then (s.g a).getLsbD (j - pos.toNat) else (s.g d).getLsbD j)) ∧
    (s.modsOk (condsOf (.dst d :: .src a :: .src c :: opndsK k)) = true →
      Runs (.madd g d a k c) s 12 (.dst d :: .src a :: .src c :: opndsK k) { g := [(d, s.g a * s.b47 k + s.g c)] })

/-- COMPARES AND PREDICATES, R70 and R80: d takes the truth value, every other register stays.
CHECKED ARITHMETIC, R72 and R73: the exact result where it fits, otherwise INT_OVERFLOW with d unchanged; CHK raises BOUND_CHECK where
A is at least B, and does nothing otherwise. -/
def Obligations.ComparesAndChecks : Prop :=
  (∀ (s : State) (g : Guard) (d x y : PReg) (a : GReg) (b : RegImm), s.guard g = true →
     (s.modsOk (condsOf (.src a :: opndsB b)) = true →
       let A := s.g a
       let B := s.b b
       ∀ q ∈ ([(.cmpeq g d a b, decide (A = B)), (.cmpne g d a b, decide (A ≠ B)), (.cmplt g d a b, decide (A.toInt < B.toInt)),
         (.cmple g d a b, decide (A.toInt ≤ B.toInt)), (.cmpltn g d a b, decide (A.toNat < B.toNat)),
         (.cmplen g d a b, decide (A.toNat ≤ B.toNat)), (.tstbit g d a b, A.getLsbD (B.toNat % 64))] : List (Instr × Bool)),
         Runs q.1 s 8 (.src a :: opndsB b) { p := some (d, q.2) }) ∧
     (∀ q ∈ ([(.pand g d x y, s.p x && s.p y), (.por g d x y, s.p x || s.p y), (.pxor g d x y, xor (s.p x) (s.p y)),
       (.pnot g d x, !s.p x), (.pmov g d x, s.p x)] : List (Instr × Bool)), Runs q.1 s 8 [] { p := some (d, q.2) })) ∧
  (∀ (s : State) (g : Guard) (d a : GReg) (b : RegImm), s.guard g = true →
     let A := s.g a
     let B := s.b b
     (s.modsOk (condsOf (.dst d :: .src a :: opndsB b)) = true →
       ∀ q ∈ ([(.addv g d a b, A.toInt + B.toInt), (.subv g d a b, A.toInt - B.toInt), (.mulv g d a b, A.toInt * B.toInt)] : List (Instr × Int)),
         (-2 ^ 63 ≤ q.2 → q.2 < 2 ^ 63 → Runs q.1 s 8 (.dst d :: .src a :: opndsB b) { g := [(d, BitVec.ofInt 64 q.2)] }) ∧
         (q.2 < -2 ^ 63 ∨ 2 ^ 63 ≤ q.2 → Traps q.1 s Cause.intOverflow (BitVec.ofInt 64 q.2) 0)) ∧
     (s.modsOk (condsOf (.src a :: opndsB b)) = true →
       (B.toNat ≤ A.toNat → Traps (.chk g a b) s Cause.boundCheck A B) ∧
       (A.toNat < B.toNat → Runs (.chk g a b) s 8 (.src a :: opndsB b) {})))

/-- BRANCHES, R75 to R79 and R81: the new PC, the link, the loop count, and nothing else. -/
def Obligations.BranchesJump : Prop :=
  ∀ (s : State) (g : Guard) (d a : GReg) (f : FReg) (i23 : BitVec 23) (i55 : BitVec 55) (n : BitVec 6) (i17 : BitVec 17),
    s.guard g = true →
    let pc := s.me.pc
    Jumps (.br g i23) s (pc + 4 * i23.signExtend 64) [] {} ∧ Jumps (.jmp g i55) s (pc + 4 * i55.signExtend 64) [] {} ∧
    Runs (.nop g) s 8 [] {} ∧
    (s.modsOk (condsOf [.src a]) = true →
      ((s.g a).toNat % 4 = 0 → Jumps (.jr g a) s (s.g a) [.src a] {} ∧ Jumps (.ret g a) s (s.g a) [.src a] {}) ∧
      ((s.g a).toNat % 4 ≠ 0 → Traps (.jr g a) s Cause.pcMisaligned (s.g a) 0 ∧ Traps (.ret g a) s Cause.pcMisaligned (s.g a) 0)) ∧
    (s.modsOk (condsOf [.dst d]) = true →
      Jumps (.call g d i23) s (pc + 4 * i23.signExtend 64) [.dst d] { g := [(d, pc + 8)] } ∧
      (s.g d ≠ 1 → Jumps (.loop g d i23) s (pc + 4 * i23.signExtend 64) [.dst d] { g := [(d, s.g d - 1)] }) ∧
      (s.g d = 1 → Runs (.loop g d i23) s 8 [.dst d] { g := [(d, 0)] })) ∧
    (s.modsOk (condsOf [.dst d, .src a]) = true →
      ((s.g a).toNat % 4 = 0 → Jumps (.callr g d a) s (s.g a) [.dst d, .src a] { g := [(d, pc + 8)] }) ∧
      ((s.g a).toNat % 4 ≠ 0 → Traps (.callr g d a) s Cause.pcMisaligned (s.g a) 0)) ∧
    (s.modsOk (condsOf [.srcF f]) = true →
      ((s.fval f).cnt < n.toNat → Jumps (.bsig g f n i17) s (pc + 4 * i17.signExtend 64) [.srcF f] {}) ∧
      (n.toNat ≤ (s.fval f).cnt → Runs (.bsig g f n i17) s 8 [.srcF f] {}))

/-! ### Floating point -/

namespace Sys2Proof.Machine

/-- THE END OF A SCALAR FP INSTRUCTION with an f destination (R135, R150, R161): an enabled flag raises its cause and writes nothing;
otherwise value, count and flags are written, and a count below SIGMIN raises SIG_THRESHOLD after that. -/
def FpEnds (i : Instr) (s : State) (size : Nat) (os : List Opnd) (d : FReg) (f : Fmt) (r : FR) : Prop :=
  let v : Word := BitVec.ofNat 64 (r.y + (2 ^ 64 - 2 ^ f.bits))
  (r.fl &&& s.fpEnabled ≠ 0 → Traps i s (fpCause (r.fl &&& s.fpEnabled)) (w64 r.fl) (destStat .f d.num.toNat)) ∧
  (r.fl &&& s.fpEnabled = 0 → s.belowSig r.c = false → Runs i s size os { f := some (d, v, r.c), flags := r.fl }) ∧
  (r.fl &&& s.fpEnabled = 0 → s.belowSig r.c = true → ∃ u, exec i s = .next (u.raise s.cur.1 s.cur.2 Cause.sigThreshold s.me.pc
      (destStat .f d.num.toNat) (u.following s.cur.1 s.cur.2 (s.me.pc + w64 size))) ∧
    (∀ n, u.fAt n = s.fAfter os (some (d, v, r.c)) n) ∧ u.me.fpflags = s.me.fpflags ||| w64 r.fl ∧ u.me.siglanes = 1 ∧
    (∀ n, u.gval n = s.gAfter os [] n) ∧ SameMemory s u)

/-- THE END OF A VECTOR FP INSTRUCTION (R135, R150, R174): any active element with an enabled flag raises and no lane is written. -/
def VecEnds (i : Instr) (s : State) (size : Nat) (d : VReg) (f : Fmt) (rs : List (Nat × FR)) : Prop :=
  let fl := allFlags rs
  let bad := lanesWhere f (fun r => r.fl &&& s.fpEnabled != 0) rs
  let low := lanesWhere f (fun r => s.belowSig (Nat.min r.c f.p)) rs
  let v := rs.foldl (fun v r => v.setElem f r.1 r.2.y r.2.c) (s.v d)
  (fl &&& s.fpEnabled ≠ 0 → Traps i s (fpCause (fl &&& s.fpEnabled)) (w64 (fl + bad * 2 ^ 32)) (destStat .v d.toNat)) ∧
  (fl &&& s.fpEnabled = 0 → low = 0 → Runs i s size [] { v := some (d, v), flags := fl }) ∧
  (fl &&& s.fpEnabled = 0 → low ≠ 0 → ∃ u, exec i s = .next (u.raise s.cur.1 s.cur.2 Cause.sigThreshold s.me.pc
      (destStat .v d.toNat) (u.following s.cur.1 s.cur.2 (s.me.pc + w64 size))) ∧
    (∀ r, u.v r = after (some (d, v)) r (s.v r)) ∧ u.me.fpflags = s.me.fpflags ||| w64 fl ∧ u.me.siglanes = w64 low ∧
    (∀ n, u.gval n = s.gval n) ∧ (∀ n, u.fAt n = s.fAt n) ∧ SameMemory s u)

/-- Every source element with its results, in increasing order, as R174 orders them. -/
def State.each (s : State) (gm : GMask) (f : Fmt) (op : Nat → FR) : List (Nat × FR) :=
  ((List.range (1024 / f.bits)).filter (fun e => s.laneOn gm (laneOf f e))).map (fun e => (e, op e))

end Sys2Proof.Machine

/-- SCALAR FLOATING POINT, R161 to R168 and R170: each instruction with an f destination ends as R161 says, with the value,
count and flags of its operation. The readings of log 34 and 35 are the model's. -/
def Obligations.ScalarFpComputes : Prop :=
  ∀ (s : State) (g : Guard) (d a b c : FReg) (f sf : Fmt) (rm : Rnd) (ga : GReg) (ic : IntCode), s.guard g = true →
    let m := s.fpMode
    let A := s.fop f a
    let B := s.fop f b
    let C := s.fop f c
    (s.modsOk (condsOf [.dstF d, .srcF a, .srcF b]) = true →
      ∀ q ∈ ([(.fadd g d a b f, opAdd f m false A B), (.fsub g d a b f, opAdd f m true A B), (.fmul g d a b f, opMul f m A B),
        (.fdiv g d a b f, opDiv f m A B), (.fmin g d a b f, opMinMax f false A B), (.fmax g d a b f, opMinMax f true A B),
        (.fcpys g d a b f, opCpys f A B)] : List (Instr × FR)), FpEnds q.1 s 8 [.dstF d, .srcF a, .srcF b] d f q.2) ∧
    (s.modsOk (condsOf [.dstF d, .srcF a]) = true →
      (∀ q ∈ ([(.fsqrt g d a f, opSqrt f m A), (.fabs g d a f, opAbs f A), (.fneg g d a f, opNeg f A),
        (.fround g d a f rm, opRound f (s.rndMode rm) A), (.fcvt g d a f sf, opCvt f sf m (s.fop sf a))] : List (Instr × FR)),
        FpEnds q.1 s 8 [.dstF d, .srcF a] d f q.2) ∧
      FpEnds (.exp2 g d a) s 8 [.dstF d, .srcF a] d .s (opExp2 (s.fop .s a))) ∧
    (s.modsOk (condsOf [.dstF d, .srcF a, .srcF b, .srcF c]) = true →
      ∀ q ∈ ([(.fma g d a b c f, opFma f m false false A B C), (.fms g d a b c f, opFma f m false true A B C),
        (.fnma g d a b c f, opFma f m true true A B C), (.fnms g d a b c f, opFma f m true false A B C)] : List (Instr × FR)),
        FpEnds q.1 s 12 [.dstF d, .srcF a, .srcF b, .srcF c] d f q.2) ∧
    (s.modsOk (condsOf [.dstF d, .src ga]) = true → FpEnds (.itof g d ga f ic) s 8 [.dstF d, .src ga] d f (opItof f m (ic.read (s.g ga))))

/-- SCALAR FP WITHOUT AN FP RESULT, R164, R168, R169, R171: compares, FCLASS, FTOI, the moves and the counts. The reading of log
34 is the model's. -/
def Obligations.ScalarFpMovesAndCompares : Prop :=
  ∀ (s : State) (g : Guard) (p : PReg) (d : GReg) (fd a b : FReg) (ga : GReg) (f : Fmt) (ic : IntCode) (rm : Rnd), s.guard g = true →
    (s.modsOk (condsOf [.srcF a, .srcF b]) = true →
      ∀ q ∈ ([(.fcmpeq g p a b f, opCmp f .eq (s.fop f a) (s.fop f b)), (.fcmplt g p a b f, opCmp f .lt (s.fop f a) (s.fop f b)),
        (.fcmple g p a b f, opCmp f .le (s.fop f a) (s.fop f b)), (.fcmpun g p a b f, opCmp f .un (s.fop f a) (s.fop f b))] :
          List (Instr × Bool × Nat)),
        (q.2.2 &&& s.fpEnabled = 0 → Runs q.1 s 8 [.srcF a, .srcF b] { p := some (p, q.2.1), flags := q.2.2 }) ∧
        (q.2.2 &&& s.fpEnabled ≠ 0 → Traps q.1 s (fpCause (q.2.2 &&& s.fpEnabled)) (w64 q.2.2) (destStat .p p.toNat))) ∧
    (s.modsOk (condsOf [.dst d, .srcF a]) = true →
      Runs (.fclass g d a f) s 8 [.dst d, .srcF a] { g := [(d, w64 (opClass f (s.fop f a).x))] } ∧
      Runs (.fmvg g d a) s 8 [.dst d, .srcF a] { g := [(d, (s.fval a).val)] } ∧
      Runs (.sget g d a) s 8 [.dst d, .srcF a] { g := [(d, w64 (s.fval a).cnt)] } ∧
      (let r := opFtoi f ic (s.rndMode rm) (s.fop f a).x
       (r.2 &&& s.fpEnabled = 0 → Runs (.ftoi g d a f ic rm) s 8 [.dst d, .srcF a] { g := [(d, BitVec.ofInt 64 r.1)], flags := r.2 }) ∧
       (r.2 &&& s.fpEnabled ≠ 0 →
         Traps (.ftoi g d a f ic rm) s (fpCause (r.2 &&& s.fpEnabled)) (w64 r.2) (destStat .g d.num.toNat)))) ∧
    (s.modsOk (condsOf [.dstF fd, .srcF a]) = true →
      Runs (.fmov g fd a) s 8 [.dstF fd, .srcF a] { f := some (fd, (s.fval a).val, (s.fval a).cnt) }) ∧
    (s.modsOk (condsOf [.dstF fd, .src ga]) = true →
      Runs (.fmvf g fd ga f) s 8 [.dstF fd, .src ga] { f := some (fd, w64 ((s.g ga).toNat % 2 ^ f.bits + (2 ^ 64 - 2 ^ f.bits)),
        loadCount f ((s.g ga).toNat % 2 ^ f.bits)) } ∧
      Runs (.sset g fd ga) s 8 [.dstF fd, .src ga] { f := some (fd, (s.fval fd).val, Nat.min (s.g ga).toNat 53) })

/-- ROUND, R147: a value brought to a multiple of 2^q is the neighbour its mode chooses: the nearer one, on a tie the even one, for RNE;
toward zero for RZ; up or down for RUP and RDN; and it is exact where the value is such a multiple.
EXP2, R154: an integer n from −126 to 127 gives exactly 2^n, with no flag; `bits` is n as FP32. -/
def Obligations.RoundingAndExp2 : Prop :=
  (∀ (mode : Nat) (neg : Bool) (m : Nat) (e q : Int), mode < 4 → e < q →
     let k := (q - e).toNat
     let r := (roundAt mode neg m e q).1
     let exact := (roundAt mode neg m e q).2
     (exact = true ↔ r * 2 ^ k = m) ∧ m < (r + 1) * 2 ^ k ∧ r * 2 ^ k < m + 2 ^ k ∧
     (mode = 0 → 2 * m ≤ (2 * r + 1) * 2 ^ k ∧ 2 * r * 2 ^ k ≤ 2 * m + 2 ^ k ∧
       ((2 * m = (2 * r + 1) * 2 ^ k ∨ 2 * r * 2 ^ k = 2 * m + 2 ^ k) → r % 2 = 0)) ∧
     (mode = 1 → r * 2 ^ k ≤ m) ∧
     (mode = 2 → if neg then r * 2 ^ k ≤ m else m ≤ r * 2 ^ k) ∧ (mode = 3 → if neg then m ≤ r * 2 ^ k else r * 2 ^ k ≤ m)) ∧
  (∀ (n : Int) (c : Nat), -126 ≤ n → n ≤ 127 →
     let bits := (round .s 0 (FV.ofInt n 0 false)).1
     (opExp2 ⟨bits, c⟩).y = (n + 127).toNat * 2 ^ 23 ∧ (opExp2 ⟨bits, c⟩).fl = 0)

/-! ### Vectors and masks -/

/-- VECTOR FLOATING POINT, R174: each instruction ends as R174 says, element by element. VECTOR FP WITH OTHER RESULTS, R176 to
R179: VCMP, VCVT, VRED and the counts. The reading of log 36 is the model's. -/
def Obligations.VectorFpComputes : Prop :=
  (∀ (s : State) (g : Guard) (d a b c : VReg) (f : Fmt) (gm : GMask), s.guard g = true →
     let m := s.fpMode
     let A := fun e => (s.v a).elem f e
     let B := fun e => (s.v b).elem f e
     let C := fun e => (s.v c).elem f e
     (∀ q ∈ ([(.vadd g d a b f gm, fun e => opAdd f m false (A e) (B e)), (.vsub g d a b f gm, fun e => opAdd f m true (A e) (B e)),
         (.vmul g d a b f gm, fun e => opMul f m (A e) (B e)), (.vdiv g d a b f gm, fun e => opDiv f m (A e) (B e)),
         (.vmin g d a b f gm, fun e => opMinMax f false (A e) (B e)), (.vmax g d a b f gm, fun e => opMinMax f true (A e) (B e)),
         (.vabs g d a f gm, fun e => opAbs f (A e)), (.vneg g d a f gm, fun e => opNeg f (A e)),
         (.vsqrt g d a f gm, fun e => opSqrt f m (A e))] : List (Instr × (Nat → FR))), VecEnds q.1 s 8 d f (s.each gm f q.2)) ∧
     VecEnds (.vexp2 g d a gm) s 8 d .s (s.each gm .s (fun e => opExp2 ((s.v a).elem .s e))) ∧
     (∀ q ∈ ([(.vfma g d a b c f gm, fun e => opFma f m false false (A e) (B e) (C e)),
         (.vfms g d a b c f gm, fun e => opFma f m false true (A e) (B e) (C e))] : List (Instr × (Nat → FR))),
       VecEnds q.1 s 12 d f (s.each gm f q.2))) ∧
  (∀ (s : State) (g : Guard) (d a b : VReg) (q : QReg) (fd : FReg) (f : Fmt) (gm : GMask) (k : Cond) (half : Bool) (op : RedOp),
     s.guard g = true →
     (let r := fun l => opCmp f k ((s.v a).elem f (cmpElem f half l)) ((s.v b).elem f (cmpElem f half l))
      let on := (List.range 32).filter (s.cmpOn gm f)
      let fl := on.foldl (fun m l => m ||| (r l).2) 0
      let bad := on.foldl (fun m l => if (r l).2 &&& s.fpEnabled ≠ 0 then m + 2 ^ l else m) 0
      (fl &&& s.fpEnabled = 0 → Runs (.vcmp g q a b f gm k half) s 8 []
        { q := some (q, maskOf (fun l => s.cmpOn gm f l && (r l).1)), flags := fl }) ∧
      (fl &&& s.fpEnabled ≠ 0 →
        Traps (.vcmp g q a b f gm k half) s (fpCause (fl &&& s.fpEnabled)) (w64 (fl + bad * 2 ^ 32)) (destStat .q q.toNat))) ∧
     Runs (.vsget g d a gm) s 8 [] { v := some (d, ((List.range 32).filter (s.laneOn gm)).foldl
       (fun v l => v.setLane l (BitVec.ofNat 32 ((s.v a).cnt l).toNat) 0) (s.v d)) } ∧
     Runs (.vsset g d a f gm) s 8 [] { v := some (d, (s.actives gm f).foldl
       (fun v e => v.setCount f e (Nat.min (((s.v a).lane (laneOf f e)).toNat % 256) f.p)) (s.v d)) } ∧
     (∀ w ∈ ([(.sHf, .s, .hf, 32, 0, 32 * b2n half), (.sBf, .s, .bf, 32, 0, 32 * b2n half), (.hfS, .hf, .s, 32, 32 * b2n half, 0),
         (.bfS, .bf, .s, 32, 32 * b2n half, 0), (.dS, .d, .s, 16, 0, 16 * b2n half), (.sD, .s, .d, 16, 16 * b2n half, 0)] :
           List (CvtOp × Fmt × Fmt × Nat × Nat × Nat)),
       VecEnds (.vcvt g d a gm w.1 half) s 8 d w.2.1 (s.cvtRes gm w.2.1 w.2.2.2.1 w.2.2.2.2.1
         (fun e => opCvt w.2.1 w.2.2.1 s.fpMode ((s.v a).elem w.2.2.1 (w.2.2.2.2.2 + e))))) ∧
     (∀ w ∈ ([(.sW, .w), (.sWn, .wn)] : List (CvtOp × IntCode)), VecEnds (.vcvt g d a gm w.1 half) s 8 d .s
       (s.cvtRes gm .s 32 0 (fun l => opItof .s s.fpMode (w.2.read (w64 ((s.v a).lane l).toNat))))) ∧
     (∀ w ∈ ([(.wS, .w), (.wnS, .wn)] : List (CvtOp × IntCode)),
       let rs := s.cvtRes gm .s 32 0 (fun l =>
         let r := opFtoi .s w.2 s.fpMode ((s.v a).lane l).toNat
         ⟨(r.1 % 2 ^ 32).toNat, 0, r.2⟩)
       (allFlags rs &&& s.fpEnabled = 0 → Runs (.vcvt g d a gm w.1 half) s 8 []
         { v := some (d, rs.foldl (fun v r => v.setLane r.1 (BitVec.ofNat 32 r.2.y) 0) (s.v d)), flags := allFlags rs }) ∧
       (allFlags rs &&& s.fpEnabled ≠ 0 → Traps (.vcvt g d a gm w.1 half) s (fpCause (allFlags rs &&& s.fpEnabled))
         (w64 (allFlags rs + lanesWhere .s (fun r => r.fl &&& s.fpEnabled != 0) rs * 2 ^ 32)) (destStat .v d.toNat))) ∧
     (s.modsOk (condsOf [.dstF fd]) = true → FpEnds (.vred g fd a f gm op) s 8 [.dstF fd] fd (redFmt f) (s.redRes a f gm op)) ∧
     ((∀ e, s.active gm f e = false) → s.redRes a f gm op = ⟨(redEmpty (redFmt f) op).x, (redEmpty (redFmt f) op).c, 0⟩))

/-- VECTOR INTEGERS, R180: wherever the guard holds, each of VIADD, VISUB, VIMUL, VAND, VOR, VXOR, VSHL, VSHR, VSAR, VIMIN and VIMAX
completes and writes d alone: element by element in the lanes that the mask lets through, whose count bytes become zero, while every
other lane keeps its bits and its count byte; for `.w` elements as 32-bit arithmetic. -/
def Obligations.VectorIntegerComputes : Prop :=
  ∀ (s : State) (g : Guard) (d a b : VReg) (un : Bool) (gm : GMask), s.guard g = true →
    let X := fun l => (s.v a).lane l
    let Y := fun l => (s.v b).lane l
    let put := fun (f : Nat → BitVec 32) => ((List.range 32).filter (s.laneOn gm)).foldl (fun v l => v.setLane l (f l) 0) (s.v d)
    (∀ q ∈ ([(.viadd g d a b .w gm, fun l => X l + Y l), (.visub g d a b .w gm, fun l => X l - Y l),
        (.vimul g d a b .w gm, fun l => X l * Y l), (.vand g d a b gm, fun l => X l &&& Y l), (.vor g d a b gm, fun l => X l ||| Y l),
        (.vxor g d a b gm, fun l => X l ^^^ Y l), (.vshl g d a b .w gm, fun l => X l <<< ((Y l).toNat % 32)),
        (.vshr g d a b .w gm, fun l => X l >>> ((Y l).toNat % 32)), (.vsar g d a b .w gm, fun l => (X l).sshiftRight ((Y l).toNat % 32)),
        (.vimin g d a b .w un gm, fun l => if leBits un 32 (X l).toNat (Y l).toNat then X l else Y l),
        (.vimax g d a b .w un gm, fun l => if leBits un 32 (X l).toNat (Y l).toNat then Y l else X l)] : List (Instr × (Nat → BitVec 32))),
      Runs q.1 s 8 [] { v := some (d, put q.2) }) ∧
    (∀ (w : VW), ∀ q ∈ ([(.viadd g d a b w gm, fun x y => x + y), (.visub g d a b w gm, fun x y => x + 2 ^ vwBits w - y),
        (.vimul g d a b w gm, fun x y => x * y), (.vshl g d a b w gm, fun x y => x * 2 ^ (y % vwBits w)),
        (.vshr g d a b w gm, fun x y => x / 2 ^ (y % vwBits w)),
        (.vsar g d a b w gm, fun x y => (signed (vwBits w) x / 2 ^ (y % vwBits w) % 2 ^ vwBits w).toNat),
        (.vimin g d a b w un gm, fun x y => if leBits un (vwBits w) x y then x else y),
        (.vimax g d a b w un gm, fun x y => if leBits un (vwBits w) x y then y else x)] : List (Instr × (Nat → Nat → Nat))),
      ∃ v, Runs q.1 s 8 [] { v := some (d, v) } ∧
        (∀ l, l < 32 → (s.v d).cnts.length = 32 → v.cnt l = if s.laneOn gm l then 0 else (s.v d).cnt l) ∧
        ∀ l j, l < 32 → (s.v d).lanes.length = 32 → j < 32 / vwBits w → (v.lane l).toNat / 2 ^ (vwBits w * j) % 2 ^ vwBits w =
          if s.laneOn gm l then q.2 ((X l).toNat / 2 ^ (vwBits w * j) % 2 ^ vwBits w) ((Y l).toNat / 2 ^ (vwBits w * j) % 2 ^ vwBits w)
              % 2 ^ vwBits w
          else ((s.v d).lane l).toNat / 2 ^ (vwBits w * j) % 2 ^ vwBits w)

/-- MASKS AND LANE MOVEMENT, R181 to R183, R188, R189: VICMP and VSEL lane by lane; the q registers combine as bits, QPOP counts
their ones, QMOV moves them; VMOV, VSHUF, VBCAST, VIOTA move values with their counts into the active elements and leave the others;
VINS and VEXT move one element, or raise VECTOR_LENGTH for an index not below the element count. A vector integer operation (R180)
completes under any mask, in any width, with d its only write. -/
def Obligations.MasksAndLanesMove : Prop :=
  ∀ (s : State) (g : Guard) (d a b c : VReg) (q x y : QReg) (gd ga gb : GReg) (fd : FReg) (sc : AnyGF) (w : VWw) (vw : VW) (un : Bool) (gm : GMask) (k : ICond)
    (dc : VData), s.guard g = true →
    (∀ i ∈ ([.viadd g d a b vw gm, .visub g d a b vw gm, .vimul g d a b vw gm, .vand g d a b gm, .vor g d a b gm, .vxor g d a b gm,
        .vshl g d a b vw gm, .vshr g d a b vw gm, .vsar g d a b vw gm, .vimin g d a b vw un gm, .vimax g d a b vw un gm] : List Instr),
      ∃ v, Runs i s 8 [] { v := some (d, v) }) ∧
    Runs (.vicmp g q a b w un gm k) s 8 []
      { q := some (q, maskOf (fun l => s.laneOn gm l && icond k un ((s.v a).lane l).toNat ((s.v b).lane l).toNat)) } ∧
    Runs (.vsel g d a b x) s 12 [] { v := some (d, lanesFrom (fun l =>
      if nbit (s.q x).toNat l then ((s.v a).lane l, (s.v a).cnt l) else ((s.v b).lane l, (s.v b).cnt l))) } ∧
    (∀ r ∈ ([(.qand g q x y, s.q x &&& s.q y), (.qor g q x y, s.q x ||| s.q y), (.qxor g q x y, s.q x ^^^ s.q y),
      (.qnot g q x, ~~~(s.q x))] : List (Instr × BitVec 32)), Runs r.1 s 8 [] { q := some (q, r.2) }) ∧
    (s.modsOk (condsOf [.dst gd]) = true →
      Runs (.qpop g gd x) s 8 [.dst gd] { g := [(gd, w64 ((List.range 32).filter (fun k => (s.q x).getLsbD k)).length)] } ∧
      Runs (.qmovToG g gd x) s 8 [.dst gd] { g := [(gd, (s.q x).setWidth 64)] }) ∧
    (s.modsOk (condsOf [.src ga]) = true → Runs (.qmovToQ g q ga) s 8 [.src ga] { q := some (q, (s.g ga).setWidth 32) }) ∧
    (let put := fun (f : Nat → BitVec 32 × Byte) => ((List.range 32).filter (s.laneOn gm)).foldl (fun v l => v.setLane l (f l).1 (f l).2) (s.v d)
     Runs (.vmov g d a gm) s 8 [] { v := some (d, put (fun l => ((s.v a).lane l, (s.v a).cnt l))) } ∧
     Runs (.vshuf g d a b c gm) s 12 [] { v := some (d, put (fun l =>
       let z := ((s.v c).lane l).toNat
       if nbit z 7 then (0, 0)
       else if z % 64 < 32 then ((s.v a).lane (z % 64), (s.v a).cnt (z % 64)) else ((s.v b).lane (z % 64 - 32), (s.v b).cnt (z % 64 - 32)))) } ∧
     (s.modsOk (condsOf [.src ga, .src gb]) = true →
       Runs (.viota g d ga gb gm) s 8 [.src ga, .src gb] { v := some (d, put (fun l => ((s.g ga + w64 l * s.g gb).setWidth 32, 0))) })) ∧
    (s.modsOk (condsOf [anySrc sc]) = true → Runs (.vbcast g d sc dc gm) s 8 [anySrc sc]
      { v := some (d, (s.actives gm ((vfmt dc).getD .s)).foldl (fun v e => v.insert dc e (s.anyVal sc)) (s.v d)) }) ∧
    (s.modsOk (condsOf [anySrc sc, .src gb]) = true →
      ((s.g gb).toNat < vcount dc →
        Runs (.vins g d sc gb dc) s 8 [anySrc sc, .src gb] { v := some (d, (s.v d).insert dc (s.g gb).toNat (s.anyVal sc)) }) ∧
      (vcount dc ≤ (s.g gb).toNat → Traps (.vins g d sc gb dc) s Cause.vectorLength (s.g gb) (w64 (vcount dc)))) ∧
    (s.modsOk (condsOf [.dst gd, .src gb]) = true →
      ((s.g gb).toNat < vcount dc → Runs (.vext g (.g gd) a gb dc) s 8 [.dst gd, .src gb]
        { g := [(gd, w64 ((s.v a).lane (s.g gb).toNat).toNat)] }) ∧
      (vcount dc ≤ (s.g gb).toNat → Traps (.vext g (.g gd) a gb dc) s Cause.vectorLength (s.g gb) (w64 (vcount dc)))) ∧
    (s.modsOk (condsOf [.dstF fd, .src gb]) = true →
      ((s.g gb).toNat < vcount dc → let e := (s.g gb).toNat
        let f := (vfmt dc).getD .s
        Runs (.vext g (.f fd) a gb dc) s 8 [.dstF fd, .src gb]
          { f := some (fd, w64 ((s.v a).bits f e + (2 ^ 64 - 2 ^ f.bits)), (s.v a).count f e) }) ∧
      (vcount dc ≤ (s.g gb).toNat → Traps (.vext g (.f fd) a gb dc) s Cause.vectorLength (s.g gb) (w64 (vcount dc))))

/-! ### Memory -/

namespace Sys2Proof.Machine

/-- Whether n bytes at an address lie in scratch of the own tile store, named by the index 0xFFF, in alignment, in no bank that waits for a
SPLIT change (R96, R99, R100, R117). -/
def State.ownAt (s : State) (ea : Word) (n al : Nat) : Bool :=
  fld ea 63 60 == 0xE && fld ea 59 48 == 0xFFF && fld ea 47 21 == 0 && decide (fld ea 20 0 + n ≤ s.scratch s.cur.1) &&
    ea.toNat % al == 0 && !s.bankWait s.cur.1 (fld ea 20 0) n

/-- The state before the first issue of an instruction of a context: no requests out, no answers held. -/
def State.fresh (s : State) : Bool := s.me.phase.step == 0 && s.me.replies.isEmpty && decide (s.cur.2 < 16)

/-- The value of n bytes of the own tile store at the offset of an address, as the issuing thread reads them. -/
def State.ownVal (s : State) (ea : Word) (n : Nat) : Nat := ofBytes (s.ownRead s.cur.1 s.cur.2 (fld ea 20 0) n)

/-- The value of n bytes of the own tile store itself. -/
def State.storeVal (s : State) (ea : Word) (n : Nat) : Nat := ofBytes (s.myCore.seen s.freeCtr (fld ea 20 0) n)

/-- The state after a thread's read of n bytes of the own tile store that had a choice. -/
def State.afterRead (s : State) (ea : Word) (n : Nat) : State := s.threadRead s.cur.1 s.cur.1 (fld ea 20 0) n

/-- The state after an atomic has read them. -/
def State.afterSeen (s : State) (ea : Word) (n : Nat) : State := s.readStep s.cur.1 (fld ea 20 0) n

/-- The state in which the thread's standing stores that an access to n bytes must follow have been applied. -/
def State.ownSettled (s : State) (ea : Word) (n : Nat) : State := s.ownApply s.cur.1 s.cur.2 (fld ea 20 0) n

/-- The position of the most recent queued matrix step whose operand range n bytes at the offset of an address meet (R193). -/
def State.ownMet (s : State) (ea : Word) (n : Nat) : Option Nat := s.myCore.latestMet [(fld ea 20 0, n)]

/-- Whether they lie in a poisoned piece. -/
def State.ownPoison (s : State) (ea : Word) (n : Nat) : Bool := s.myCore.poisoned (fld ea 20 0) n

/-- The state after k answers that were there at once. -/
def State.numbered (s : State) (k : Nat) : State := { s with msgCtr := s.msgCtr + k }

/-- The state after a store to the own tile store at the offset of an address has entered the write queue. -/
def State.ownQueue (s : State) (ea : Word) (bs : List Byte) : State :=
  s.sendTile s.msgCtr (.tileStore s.cur.1 false false) (fld ea 20 0) (cellsAt (fld ea 20 0) bs)

/-- The state after bytes have been stored to the own tile store at the offset of an address. -/
def State.ownStore (s : State) (ea : Word) (bs : List Byte) : State := s.modMyCore (fun k => k.storeWrite (cellsAt (fld ea 20 0) bs))

/-- A register value as an f register holds x of a format: the bits above are ones (R141). -/
def boxed (f : Fmt) (x : Nat) : Word := w64 (x + (2 ^ 64 - 2 ^ f.bits))

end Sys2Proof.Machine

/-- LOADS FROM THE OWN TILE STORE, R118, R119, R121 to R123, R296: LD of every width with its extension, LDF, LDFC, LDP return in the
issue cycle with the bytes that stand there, the lowest first; from a poisoned piece they raise POISON_LOAD. A byte is that of the thread's
latest store to it that stands in the write queue; with none it is the byte of the tile store, where no uncompleted matrix command writes
it and no copy engine has written it since the gang's last acquire (R205, R269). The readings of log 2, 5 and 81 are the model's. -/
def Obligations.OwnStoreLoads : Prop :=
  ∀ (s : State) (g : Guard) (d c : GReg) (fd : FReg) (f : Fmt) (m : MemOp) (ty : ReqType) (sc : Scope), s.guard g = true → s.fresh = true →
    let ea := s.ea m
    let v := fun n => w64 (s.ownVal ea n)
    (s.modsOk (condsOf (.dst d :: opndsM m)) = true →
      ∀ q ∈ ([(.b, 1, ((v 1).setWidth 8).signExtend 64), (.h, 2, ((v 2).setWidth 16).signExtend 64), (.w, 4, ((v 4).setWidth 32).signExtend 64),
        (.d, 8, v 8), (.bn, 1, v 1), (.hn, 2, v 2), (.wn, 4, v 4)] : List (MemW × Nat × Word)), s.ownAt ea q.2.1 q.2.1 = true →
        (s.ownPoison ea q.2.1 = false →
          RunsWith (.ld g d m q.1 ty sc .none) s ((s.numbered 1).afterRead ea q.2.1) 12 (.dst d :: opndsM m) { g := [(d, q.2.2)] }) ∧
        (s.ownPoison ea q.2.1 = true →
          TrapsWith (.ld g d m q.1 ty sc .none) s ((s.numbered 1).afterRead ea q.2.1) Cause.poisonLoad ea 0)) ∧
    (s.modsOk (condsOf (.dstF fd :: opndsM m)) = true → s.ownAt ea f.bytes f.bytes = true → s.ownPoison ea f.bytes = false →
      let x := s.ownVal ea f.bytes
      RunsWith (.ldf g fd m f ty) s ((s.numbered 1).afterRead ea f.bytes) 12 (.dstF fd :: opndsM m) { f := some (fd, boxed f x, loadCount f x) }) ∧
    (s.modsOk (condsOf (.dstF fd :: .src c :: opndsM m)) = true → s.ownAt ea f.bytes f.bytes = true → s.ownPoison ea f.bytes = false →
      let k := s.g c + BitVec.ofInt 64 ((s.off m.off).toInt / f.bytes)
      let x := s.ownVal ea f.bytes
      s.ownAt k 1 1 = true → s.ownPoison k 1 = false →
      RunsWith (.ldfc g fd m c f ty) s (((s.numbered 2).afterRead ea f.bytes).afterRead k 1) 12 (.dstF fd :: .src c :: opndsM m)
        { f := some (fd, boxed f x, Nat.min ((s.afterRead ea f.bytes).ownVal k 1 % 64) (loadCount f x)) }) ∧
    (s.modsOk (condsOf (.dst d :: .dst c :: opndsM m)) = true → s.ownAt ea 16 16 = true → s.ownPoison ea 16 = false →
      let bs := s.ownRead s.cur.1 s.cur.2 (fld ea 20 0) 16
      RunsWith (.ldp g d m c ty) s ((s.numbered 1).afterRead ea 16) 12 (.dst d :: .dst c :: opndsM m)
        { g := [(d, wordOf (bs.take 8)), (c, wordOf (bs.drop 8))] }) ∧
    (∀ n i, i < n → let off := fld ea 20 0
      let read := nth 0 (s.ownRead s.cur.1 s.cur.2 off n) i
      (s.myCore.unsettled off n = false → s.freshFor s.cur.1 s.cur.1 off n = false → (∀ e ∈ s.ownPend s.cur.1 s.cur.2, ∀ b ∈ e.bytes, b.1 ≠ off + i) →
        read = s.myCore.store.read (off + i)) ∧
      (∀ es e b, s.ownPend s.cur.1 s.cur.2 = es ++ [e] → b ∈ e.bytes → b.1 = off + i → (∀ b' ∈ e.bytes, b'.1 = off + i → b' = b) →
        read = b.2))

/-- STORES TO THE OWN TILE STORE, R118, R119, R121 to R123, R291: ST of every width, STF, STFC and STP each complete in the issue cycle with
exactly their bytes in the write queue, no byte of any memory written; a read by the thread gives the new bytes there and what it gave
before elsewhere, and once the store is applied the tile store holds exactly them. Over an operand range of a queued matrix step they raise
OPBUF_IN_USE with the position of the latest one (R193); without room in the write queue they do not issue. The readings of log 5 and 43 are
the model's. -/
def Obligations.OwnStoreStores : Prop :=
  ∀ (s : State) (g : Guard) (d c : GReg) (fd : FReg) (f : Fmt) (m : MemOp) (ty : ReqType) (sc : Scope), s.guard g = true → s.fresh = true →
    s.memWf = true →
    let ea := s.ea m
    let os1 : List Opnd := .src d :: opndsM m
    let osF : List Opnd := .srcF fd :: opndsM m
    let osP : List Opnd := .src d :: .src c :: opndsM m
    (∀ q ∈ ([(.st g d m .b ty sc .none, os1, toBytes 1 (s.g d).toNat), (.st g d m .h ty sc .none, os1, toBytes 2 (s.g d).toNat),
        (.st g d m .w ty sc .none, os1, toBytes 4 (s.g d).toNat), (.st g d m .d ty sc .none, os1, toBytes 8 (s.g d).toNat),
        (.stf g fd m f ty, osF, toBytes f.bytes (s.fval fd).val.toNat),
        (.stp g d m c ty, osP, toBytes 8 (s.g d).toNat ++ toBytes 8 (s.g c).toNat)] : List (Instr × List Opnd × List Byte)),
      let bs := q.2.2
      let off := fld ea 20 0
      s.modsOk (condsOf q.2.1) = true → s.ownAt ea bs.length bs.length = true →
      (s.queueRoom s.cur.1 s.cur.2 1 = false → Bubbles q.1 s) ∧
      (s.queueRoom s.cur.1 s.cur.2 1 = true → ∀ pos, s.ownMet ea bs.length = some pos → Traps q.1 s Cause.opbufInUse ea (w64 pos)) ∧
      (s.queueRoom s.cur.1 s.cur.2 1 = true → s.ownMet ea bs.length = none →
        let u := s.ownQueue ea bs
        RunsWith q.1 s u 12 q.2.1 {} ∧ SameMemory s u ∧ u.ownVal ea bs.length = ofBytes bs ∧
        (∀ a n, a + n ≤ off ∨ off + bs.length ≤ a → u.ownRead s.cur.1 s.cur.2 a n = s.ownRead s.cur.1 s.cur.2 a n) ∧
        (s.ownPend s.cur.1 s.cur.2 = [] → ∀ a, (u.ownSettled ea bs.length).myCore.store.read a =
          if off ≤ a ∧ a < off + bs.length then nth 0 bs (a - off) else s.myCore.store.read a))) ∧
    (let os : List Opnd := .srcF fd :: .src c :: opndsM m
     let k := s.g c + BitVec.ofInt 64 ((s.off m.off).toInt / f.bytes)
     let bs := toBytes f.bytes (s.fval fd).val.toNat
     let n : List Byte := [BitVec.ofNat 8 (Nat.min (s.fval fd).cnt f.p)]
     s.modsOk (condsOf os) = true → s.ownAt ea f.bytes f.bytes = true → s.ownAt k 1 1 = true → s.queueRoom s.cur.1 s.cur.2 2 = true →
     s.ownMet ea f.bytes = none → s.ownMet k 1 = none → RunsWith (.stfc g fd m c f ty) s ((s.ownQueue ea bs).ownQueue k n) 12 os {})

/-- ATOMICS ON THE OWN TILE STORE, R126 to R129: the thread's standing stores to the bytes come first; d takes the old value, the new one is
stored, and nothing else changes; `.w` sign-extends and `.wn` zero-extends the old value. The reading of log 5 is the model's. -/
def Obligations.OwnStoreAtomics : Prop :=
  ∀ (s : State) (g : Guard) (d c : GReg) (fd fc : FReg) (m : MemOp) (sc : Scope), s.guard g = true → s.fresh = true →
    let ea := s.ea m
    let C := s.g c
    let os : List Opnd := .dst d :: .src c :: opndsM m
    (s.modsOk (condsOf os) = true →
      (s.ownAt ea 8 8 = true → (s.ownSettled ea 8).ownPoison ea 8 = false → s.ownMet ea 8 = none →
        let u := s.ownSettled ea 8
        let old := w64 (u.storeVal ea 8)
        (∀ q ∈ ([(.add, old + C), (.and, old &&& C), (.or, old ||| C), (.xor, old ^^^ C), (.min, if old.toInt ≤ C.toInt then old else C),
            (.max, if old.toInt ≤ C.toInt then C else old), (.minn, if old.toNat ≤ C.toNat then old else C),
            (.maxn, if old.toNat ≤ C.toNat then C else old), (.swap, C)] : List (AmoOp × Word)),
          RunsWith (.amo g d m c .d sc .none q.1) s (((u.ownStore ea (toBytes 8 q.2.toNat)).numbered 1).afterSeen ea 8) 12 os { g := [(d, old)] }) ∧
        RunsWith (.amocas g d m c .d sc .none) s 
          (((u.ownStore ea (toBytes 8 (if old = s.g d then C else old).toNat)).numbered 1).afterSeen ea 8) 12 os
          { g := [(d, old)] }) ∧
      (s.ownAt ea 4 4 = true → (s.ownSettled ea 4).ownPoison ea 4 = false → s.ownMet ea 4 = none →
        let u := s.ownSettled ea 4
        let old : BitVec 32 := BitVec.ofNat 32 (u.storeVal ea 4)
        let c32 : BitVec 32 := C.setWidth 32
        ∀ w ∈ ([(.w, old.signExtend 64), (.wn, old.setWidth 64)] : List (AtW × Word)),
          (∀ q ∈ ([(.add, old + c32), (.and, old &&& c32), (.or, old ||| c32), (.xor, old ^^^ c32),
              (.min, if old.toInt ≤ c32.toInt then old else c32), (.max, if old.toInt ≤ c32.toInt then c32 else old),
              (.minn, if old.toNat ≤ c32.toNat then old else c32), (.maxn, if old.toNat ≤ c32.toNat then c32 else old),
              (.swap, c32)] : List (AmoOp × BitVec 32)),
            RunsWith (.amo g d m c w.1 sc .none q.1) s (((u.ownStore ea (toBytes 4 q.2.toNat)).numbered 1).afterSeen ea 4) 12 os { g := [(d, w.2)] }) ∧
          RunsWith (.amocas g d m c w.1 sc .none) s
            (((u.ownStore ea (toBytes 4 (if old = (s.g d).setWidth 32 then c32 else old).toNat)).numbered 1).afterSeen ea 4) 12 os { g := [(d, w.2)] })) ∧
    (∀ (ff : AmofFmt) (op : AmofOp), let f := amofFmt ff
      let osF : List Opnd := .dstF fd :: .srcF fc :: opndsM m
      s.modsOk (condsOf osF) = true → s.ownAt ea f.bytes f.bytes = true → (s.ownSettled ea f.bytes).ownPoison ea f.bytes = false →
      s.ownMet ea f.bytes = none →
      let u := s.ownSettled ea f.bytes
      let old := u.storeVal ea f.bytes
      let r := opAmof op f old ((s.fval fc).val.toNat % 2 ^ f.bits)
      RunsWith (.amof g fd m fc ff sc .none op) s (((u.ownStore ea (toBytes f.bytes r.1)).numbered 1).afterSeen ea f.bytes) 12 osF
        { f := some (fd, boxed f old, loadCount f old), flags := r.2 })

/-- ANSWERS, R117, R118, R126, R287: a load or an atomic, in domain space too, whose answers have come writes what they hold; while one
is missing the thread parks on it; a poisoned one raises POISON_LOAD and a refused one its cause. A reduction (R388) sets no flag. The
readings of log 3 and 5 are the model's. -/
def Obligations.LoadsTakeTheirAnswers : Prop :=
  ∀ (s : State) (g : Guard) (d c : GReg) (fd fc : FReg) (vd : VReg) (m : MemOp) (mx : MemIdx) (f : Fmt) (w : MemW) (dc : VData) (ty : ReqType)
    (sc : Scope) (k : FenceKind) (aw : AtW) (op : AmoOp) (ff : AmofFmt) (fo : AmofOp) (gm : GMask) (rs : List Reply), s.guard g = true →
    s.out = true →
    let x := fun i => ofBytes ((rs[i]?).elim [] (fun r => r.data))
    let osF : List Opnd := .dstF fd :: opndsM m
    let osC : List Opnd := .dst d :: .src c :: opndsM m
    let vals := fun (es : List Nat) => es.zip (rs.map (fun r => ofBytes r.data))
    ∀ q ∈ ([(.ld g d m w ty sc .none, s, .dst d :: opndsM m, { g := [(d, extend w (x 0))] }),
        (.ld g d m w ty sc .acq, s.acquire s.cur.1 sc, .dst d :: opndsM m, { g := [(d, extend w (x 0))] }),
        (.ldf g fd m f ty, s, osF, { f := some (fd, boxed f (x 0), loadCount f (x 0)) }),
        (.ldfc g fd m c f ty, s, .dstF fd :: .src c :: opndsM m, { f := some (fd, boxed f (x 0), Nat.min (x 1 % 64) (loadCount f (x 0))) }),
        (.ldp g d m c ty, s, .dst d :: .dst c :: opndsM m, { g := [(d, w64 (x 0)), (c, w64 (x 0 / 2 ^ 64))] }),
        (.vld g vd m dc ty gm, s, opndsM m,
          { v := some (vd, (vals (s.actives gm (vdfmt dc))).foldl (fun v r => v.loadElem dc r.1 r.2) (s.v vd)) }),
        (.vldx g vd mx dc ty gm, s, [.src mx.base],
          { v := some (vd, (vals (s.gatherOn gm dc)).foldl (fun v r => v.loadLane dc r.1 r.2) (s.v vd)) }),
        (.vldc g vd m c f ty gm, s, .src c :: opndsM m, { v := some (vd, (List.range (s.actives gm f).length).foldl (fun v i =>
            if i + (s.actives gm f).length < rs.length then
              v.setElem f (nth 0 (s.actives gm f) i) (x i) (Nat.min (x (i + (s.actives gm f).length) % 64) (loadCount f (x i)))
            else v) (s.v vd)) }),
        (.amo g d m c aw sc k op, s.acquireIf k sc, osC, { g := [(d, atExtend aw (x 0))] }),
        (.amocas g d m c aw sc k, s.acquireIf k sc, osC, { g := [(d, atExtend aw (x 0))] }),
        (.amof g fd m fc ff sc k fo, s.acquireIf k sc, .dstF fd :: .srcF fc :: opndsM m,
          { f := some (fd, boxed (amofFmt ff) (x 0), loadCount (amofFmt ff) (x 0)),
            flags := if collectiveAt (s.ea m) (.amof fo ff (s.fval fc).val) then 0
              else (opAmof fo (amofFmt ff) (x 0) ((s.fval fc).val.toNat % 2 ^ (amofFmt ff).bits)).2 })] :
        List (Instr × State × List Opnd × Effect)),
      s.modsOk (condsOf q.2.2.1) = true →
      (s.me.allReplies s.me.phase.ids = .ok rs → replyTrap (rs.zip s.me.phase.eas) = none → RunsWith q.1 s q.2.1 12 q.2.2.1 q.2.2.2) ∧
      (s.me.allReplies s.me.phase.ids = .ok rs → ∀ t, replyTrap (rs.zip s.me.phase.eas) = some t → Raises q.1 s t) ∧
      (∀ i, s.me.allReplies s.me.phase.ids = .error i → Parks q.1 s (.reply i))

/-- STORES ARE ACCEPTED, R117, R118, R185 to R187, R190: where the write queue has room and checks 1 to 6 give the places of the units, none of
them in another gang tile, ST, STF, STFC, STP, VST, VSTC and VSTX each complete: every unit is accepted at its place in order, and the thread
goes on; where a unit meets an operand range of the own tile's queue they raise OPBUF_IN_USE instead; without room they do not issue. The
third component is the planes: the address that a refusal names, the units, their bytes, one write-queue entry each. The readings of log
5, 43 and 46 are the model's. -/
def Obligations.StoresAreAccepted : Prop :=
  ∀ (s : State) (g : Guard) (d c : GReg) (fd : FReg) (vd : VReg) (m : MemOp) (mx : MemIdx) (f : Fmt) (w : StW) (dc : VData) (ty : ReqType)
    (sc : Scope) (gm : GMask), s.guard g = true → s.fresh = true →
    let ea := s.ea m
    let k := s.countAddr m c f.bytes
    let vf : VData := match f with
      | .s => .s
      | .d => .d
      | .hf => .hf
      | .bf => .bf
    let es := s.actives gm (vdfmt dc)
    let ec := s.actives gm f
    let ex := s.gatherOn gm dc
    ∀ q ∈ ([(.st g d m w ty sc .none, .src d :: opndsM m, [(some ea, [unitAt .store ea (stBytes w)], [toBytes (stBytes w) (s.g d).toNat])], true),
        (.stf g fd m f ty, .srcF fd :: opndsM m, [(some ea, [unitAt .store ea f.bytes], [toBytes f.bytes (s.fval fd).val.toNat])], true),
        (.stfc g fd m c f ty, .srcF fd :: .src c :: opndsM m, [(some ea, [unitAt .store ea f.bytes], [toBytes f.bytes (s.fval fd).val.toNat]),
          (some k, [countUnit .store k], [toBytes 1 (Nat.min (s.fval fd).cnt f.p)])], true),
        (.stp g d m c ty, .src d :: .src c :: opndsM m,
          [(some ea, [unitAt .store ea 16], [toBytes 8 (s.g d).toNat ++ toBytes 8 (s.g c).toNat])], true),
        (.vst g vd m dc ty gm, opndsM m, [(some ea, planeUnit .store ea dc :: planeUnits .store ea (vbytes dc) es, es.map ((s.v vd).elemBytes dc))],
          fld ea 63 60 != 0xC),
        (.vstc g vd m c f ty gm, .src c :: opndsM m, [(some ea, planeUnit .store ea vf :: planeUnits .store ea f.bytes ec,
            ec.map ((s.v vd).elemBytes vf)), (some k, planeUnits .store k 1 ec, ec.map (fun e => toBytes 1 ((s.v vd).count f e)))],
          fld ea 63 60 != 0xC && ec.all (fun e => fld (k + w64 e) 63 60 != 0xC)),
        (.vstx g vd mx dc ty gm, [.src mx.base], [(none, s.gatherUnits .store mx dc ex, ex.map (fun e =>
            toBytes (lanBytes dc) ((s.v vd).bits (if dc = .d then .d else .s) e)))], ex.all (fun e => (s.gatherTrap .store mx dc e).isNone))] :
        List (Instr × List Opnd × List Plane × Bool)),
      s.modsOk (condsOf q.2.1) = true → q.2.2.2 = true →
      let clr := match q.1 with
        | .vst _ _ _ _ _ _ => true
        | _ => false
      (s.queueRoom s.cur.1 s.cur.2 q.2.2.1.length = false → Bubbles q.1 s) ∧
      (s.queueRoom s.cur.1 s.cur.2 q.2.2.1.length = true →
        ∀ (ps : List (AUnit × At)) (u : State), s.checks none (q.2.2.1.flatMap (fun p => p.2.1)) = (.ok ps, u) → stalledRole ps = none →
        u.closedBank ps = false →
        let split := planesAt q.2.2.1 (ps.filter (fun x => x.1.size != 0))
        (u.myCore.refusalAt split = none → farCores (split.flatMap (fun p => p.2)) = [] →
          RunsWith q.1 s (u.storeNears ty clr split) 12 q.2.1 {}) ∧
        (∀ a pos, u.myCore.refusalAt split = some (a, pos) → TrapsWith q.1 s u Cause.opbufInUse a (w64 pos)))

/-- WHERE A STORE GOES, R104, R118, R372: a store to memory is one message with exactly its bytes, to the home slice under `.nc`, to the
line's home portion under `.own` and `.si`; under `.wt` to the home slice where the own portion homes the line and nothing to the line is
on its way, and otherwise to the home portion, which sends it on; one to the own tile's or a role's store travels there, as a unit that
clears the mark where a VST covers a piece whole; one to domain space adds 1 to RFCOUNT. The readings of log 3, 5 and 47 are the
model's. -/
def Obligations.StoresTravelToTheirPlace : Prop :=
  ∀ (s : State) (u : AUnit) (ty : ReqType) (bs : List Byte) (p pa off dev role : Nat) (tile : Nat) (clr : Bool),
    let sent := fun (t : State) => t.net.drop s.net.length
    (s.effType s.cur.1 p pa ty = .nc → sent (s.storeNear ty clr [(u, .mem p pa, bs)]) =
      [s.memMsg s.cur.1 s.cur.2 s.msgCtr (.unit false false false) p pa (cellsAt pa bs)]) ∧
    (s.effType s.cur.1 p pa ty = .wt →
      let h := s.lineHome s.cur.1 (pa / 64)
      let now := h = s.cur.1 ∧ s.lineStores s.cur.1 s.cur.2 (pa / 64) = [] ∧ s.fetching h (pa / 64) = false
      (now → sent (s.storeNear ty clr [(u, .mem p pa, bs)]) =
        [s.memMsg s.cur.1 s.cur.2 s.msgCtr (.unit false true false) p pa (cellsAt pa bs)]) ∧
      (¬now → sent (s.storeNear ty clr [(u, .mem p pa, bs)]) =
        [s.tileMsg s.cur.1 s.cur.2 s.msgCtr (.cacheUpdate h) s.myPart pa (cellsAt pa bs)])) ∧
    (s.effType s.cur.1 p pa ty = .own ∨ s.effType s.cur.1 p pa ty = .si → sent (s.storeNear ty clr [(u, .mem p pa, bs)]) =
      [s.tileMsg s.cur.1 s.cur.2 s.msgCtr (.cacheStore (s.lineHome s.cur.1 (pa / 64))) s.myPart pa (cellsAt pa bs)]) ∧
    (∀ whole, (whole = false ∧ clr = false ∧ bs ≠ []) ∨ (whole = true ∧ clr = true ∧ off % 64 = 0 ∧ bs.length = 64) →
      ∀ q ∈ ([(.own off, .tileStore s.cur.1 false whole), (.role tile off, .tileStore tile false whole),
          (.stall role off, .roleStore role whole)] : List (At × MKind)),
        sent (s.storeNear ty clr [(u, q.1, bs)]) = [s.tileMsg s.cur.1 s.cur.2 s.msgCtr q.2 s.myPart off (cellsAt off bs)]) ∧
    ((s.storeNear ty clr [(u, .domain dev off, bs)]).me.rfcount = s.me.rfcount + 1 ∧
      (s.storeNear ty clr [(u, .domain dev off, bs)]).outbox = s.outbox ++ [⟨s.msgCtr, s.agent s.cur.1 s.cur.2, dev, off, .store bs⟩])

/-- ADDRESS CHECKS, R96, R99, R117: LD and ST, LDF and STF, the pair forms and the forms with a count raise the cause of check 1, then
MISALIGNED, then a miss, each with the address in TVAL and with no effect; a count's address is checked as its value's is. An access that
runs past the end of scratch fails check 1 where it starts inside too: that is the model's reading, log 76. -/
def Obligations.MemoryChecksTrap : Prop :=
  ∀ (s : State) (g : Guard) (d c : GReg) (fd : FReg) (f : Fmt) (m : MemOp) (ty : ReqType) (sc : Scope), s.guard g = true → s.fresh = true →
    let ea := s.ea m
    let k := s.countAddr m c f.bytes
    (∀ q ∈ ([(.ld g d m .h ty sc .none, .dst d :: opndsM m, .load, 2), (.ld g d m .w ty sc .none, .dst d :: opndsM m, .load, 4),
        (.ld g d m .d ty sc .none, .dst d :: opndsM m, .load, 8), (.ld g d m .b ty sc .none, .dst d :: opndsM m, .load, 1),
        (.st g d m .b ty sc .none, .src d :: opndsM m, .store, 1), (.st g d m .h ty sc .none, .src d :: opndsM m, .store, 2),
        (.st g d m .w ty sc .none, .src d :: opndsM m, .store, 4), (.st g d m .d ty sc .none, .src d :: opndsM m, .store, 8),
        (.ldf g fd m f ty, .dstF fd :: opndsM m, .load, f.bytes), (.stf g fd m f ty, .srcF fd :: opndsM m, .store, f.bytes),
        (.ldp g d m c ty, .dst d :: .dst c :: opndsM m, .load, 16), (.stp g d m c ty, .src d :: .src c :: opndsM m, .store, 16)] :
        List (Instr × List Opnd × AccKind × Nat)),
      s.modsOk (condsOf q.2.1) = true → (q.2.2.1 = .store → s.queueRoom s.cur.1 s.cur.2 1 = true) →
      (1 ≤ fld ea 63 60 → fld ea 63 60 ≤ 0xB → Traps q.1 s q.2.2.1.prot ea 0) ∧
      (fld ea 63 60 = 0xF → s.isSup s.cur.1 s.cur.2 = false → Traps q.1 s q.2.2.1.prot ea 0) ∧
      (fld ea 63 60 = 0xE → s.scratch s.cur.1 < fld ea 20 0 + q.2.2.2 → fld ea 59 48 = 0xFFF → Traps q.1 s q.2.2.1.prot ea 0) ∧
      (fld ea 63 57 = 0 → ea.toNat % q.2.2.2 ≠ 0 → Traps q.1 s Cause.misaligned ea 0) ∧
      (fld ea 63 57 = 0 → ea.toNat % q.2.2.2 = 0 → s.myCore.tbOpen = false → s.myCore.tb.any (fun e => e.holds ea.toNat) = false →
        Traps q.1 s q.2.2.1.miss ea 0)) ∧
    (∀ q ∈ ([(.ldfc g fd m c f ty, .dstF fd :: .src c :: opndsM m, .load), (.stfc g fd m c f ty, .srcF fd :: .src c :: opndsM m, .store)] :
        List (Instr × List Opnd × AccKind)),
      s.modsOk (condsOf q.2.1) = true → (q.2.2 = .store → s.queueRoom s.cur.1 s.cur.2 2 = true) →
      (1 ≤ fld ea 63 60 → fld ea 63 60 ≤ 0xB → Traps q.1 s q.2.2.prot ea 0) ∧
      (fld ea 63 60 = 0xF → s.isSup s.cur.1 s.cur.2 = false → Traps q.1 s q.2.2.prot ea 0) ∧
      (fld ea 63 60 = 0xE → s.scratch s.cur.1 < fld ea 20 0 + f.bytes → fld ea 59 48 = 0xFFF → Traps q.1 s q.2.2.prot ea 0) ∧
      (fld ea 63 57 = 0 → 1 ≤ fld k 63 60 → fld k 63 60 ≤ 0xB → Traps q.1 s q.2.2.prot k 0) ∧
      (fld ea 63 57 = 0 → fld k 63 57 = 0 → ea.toNat % f.bytes ≠ 0 → Traps q.1 s Cause.misaligned ea 0) ∧
      (fld ea 63 57 = 0 → fld k 63 57 = 0 → ea.toNat % f.bytes = 0 → s.myCore.tbOpen = false →
        s.myCore.tb.any (fun e => e.holds ea.toNat) = false → Traps q.1 s q.2.2.miss ea 0))

/-- FENCES AND ORDERED ACCESSES, R112, R113, R120, R130 to R132: an acquire completes at once; a release at tile scope completes
when the thread's stores are applied and parks before that; a wider one, in the issue that finds the write-backs applied too;
FENCESC when every write is delivered to every die and counts itself; RFENCE when RFCOUNT is 0, with the refusal record, which
it clears. AN ACQUIRE, R113, R120: it discards every clean line and every local copy in the caches narrower than the scope,
leaves dirty lines in place, at device and domain scope empties the fetch buffer, and changes nothing else. The readings of log
25 and 26 are the model's. -/
def Obligations.FencesWaitAndAcquiresDiscard : Prop :=
  (∀ (s : State) (g : Guard) (d : GReg) (sc : Scope) (k : FenceKind) (m : MemOp) (w : StW) (ty : ReqType), s.guard g = true →
     let c := s.cur.1
     let x := s.cur.2
     RunsWith (.fence g sc .acq) s (s.acquire c sc) 8 [] {} ∧
     (s.me.phase.step = 0 → s.storesDone c x false s.msgCtr = true →
       RunsWith (.fence g .tile .rel) s s 8 [] {} ∧ RunsWith (.fence g .tile .ar) s (s.acquire c .tile) 8 [] {}) ∧
     (s.me.phase.step = 0 → s.storesDone c x (decide (sc ≠ .tile)) s.msgCtr = false → k = .rel ∨ k = .ar →
       exec (.fence g sc k) s = .next ((s.mark 1).parkOn (.fence g sc k) (.stores (decide (sc ≠ .tile)) s.msgCtr))) ∧
     (s.me.phase.step = 2 → (sc = .dom → s.me.rfcount = 0) → s.widerThanCache c sc = false ∨ s.writesDone c x s.me.phase.mark = true →
       RunsWith (.fence g sc .rel) s s 8 [] {} ∧ RunsWith (.fence g sc .ar) s (s.acquire c sc) 8 [] {}) ∧
     (s.me.phase.step = 2 → s.widerThanCache c sc = true → s.writesDone c x s.me.phase.mark = false → k = .rel ∨ k = .ar →
       Parks (.fence g sc k) s (.writes s.me.phase.mark)) ∧
     (s.me.phase.step = 3 → s.deliveredAll s.me.phase.mark = true →
       RunsWith (.fencesc g) s { s.acquire c .dev with fenceSc := s.fenceSc + 1 } 8 [] {}) ∧
     (s.me.phase.step = 3 → s.deliveredAll s.me.phase.mark = false → Parks (.fencesc g) s (.delivered s.me.phase.mark)) ∧
     (s.modsOk (condsOf [.dst d]) = true → s.me.rfcount ≠ 0 → Parks (.rfence g d) s .remote) ∧
     (s.modsOk (condsOf [.dst d]) = true → s.me.rfcount = 0 →
       let r := w64 (s.me.refCode + Nat.min s.me.refCount 0xFFFFFF * 0x100)
       let u := s.modMe (fun t => { t with refCount := 0, refCode := 0 })
       (d.num ≠ 0 ∨ r = 0 → RunsWith (.rfence g d) s u 8 [.dst d] { g := [(d, r)] }) ∧
       (d.num = 0 → r ≠ 0 → TrapsWith (.rfence g d) s u Cause.remoteRefused r 0)) ∧
     (let ea := s.ea m
      let bs := toBytes (stBytes w) (s.g d).toNat
      s.modsOk (condsOf (.src d :: opndsM m)) = true → s.fresh = true → s.ownAt ea bs.length bs.length = true →
      s.ownMet ea bs.length = none → s.storesDone c x false s.msgCtr = true → s.queueRoom c x 1 = true →
      RunsWith (.st g d m w ty .tile .rel) s (s.ownQueue ea bs) 12 (.src d :: opndsM m) {})) ∧
  (∀ (s : State) (c d : Nat) (sc : Scope) (l : Line),
     let t := s.acquire c sc
     { t with cores := s.cores } = s ∧ { t.core d with cache := (s.core d).cache, fbuf := (s.core d).fbuf, acq := (s.core d).acq } = s.core d ∧
     (l ∈ (t.core d).cache → l ∈ (s.core d).cache) ∧
     (l ∈ (s.core d).cache → l.loc = false → l.dirty = true → l ∈ (t.core d).cache) ∧
     (sc ≠ .tile → l ∈ (t.core c).cache → l.loc = false) ∧
     (s.widerThanCache c sc = true → d ∈ s.cacheCores c → l ∈ (t.core d).cache → l.loc = false → l.dirty = true) ∧
     (s.widerThanCache c sc = false → l.loc = false → (l ∈ (t.core d).cache ↔ l ∈ (s.core d).cache)) ∧
     (t.core c).fbuf = (if sc = .dev ∨ sc = .dom then [] else (s.core c).fbuf) ∧
     (∀ b, sc = .dev ∨ sc = .dom → c ∈ s.gangCores c → b.ended.all (fun n => decide (n < s.msgCtr)) = true → b.ended.isSome = true →
       t.unacquired c b = false))

/-- PREF, INVAL AND CWB, R124, R125: PREF completes wherever check 1 passes, writes no register and never parks; INVAL completes once the
thread's own stores to the range are applied, and discards every line of the range, dirty ones unwritten; CWB completes at once where the
length is 0 or the range has no dirty line and no write-back on its way, and otherwise once its write-backs are applied; both refuse a
length above 2^30 and an address that is not virtual. No byte of memory changes in the issue cycle. The reading of log 48 is the
model's. -/
def Obligations.CacheRangesActOnLines : Prop :=
  ∀ (s : State) (g : Guard) (m : MemOp) (c : GReg) (ty : ReqType), s.guard g = true →
    let ea := s.ea m
    let os : List Opnd := .src c :: opndsM m
    (s.modsOk (condsOf (opndsM m)) = true →
      (∀ l, s.spaceOf s.cur.1 s.cur.2 .pref ea 1 = .ok l →
        RunsWith (.pref g m ty) s (s.prefetch l ty) 12 (opndsM m) {} ∧ SameMemory s (s.prefetch l ty) ∧ (s.prefetch l ty).me = s.me) ∧
      (∀ t, s.spaceOf s.cur.1 s.cur.2 .pref ea 1 = .error t → Raises (.pref g m ty) s t)) ∧
    (s.modsOk (condsOf os) = true → s.out = false →
      (∀ i ∈ ([.inval g m c, .cwb g m c] : List Instr),
        (2 ^ 30 < (s.g c).toNat → Traps i s Cause.boundCheck (s.g c) 0) ∧
        ((s.g c).toNat ≤ 2 ^ 30 → fld ea 63 57 ≠ 0 → Traps i s Cause.protStore ea 0) ∧
        (s.g c = 0 → fld ea 63 57 = 0 → Makes i s (fun t => t.me.pc = s.me.pc + 12 ∧ t.me.park = none ∧ t.net = s.net ∧ SameMemory s t ∧
          ∀ k l, l ∈ (t.core k).cache ↔ l ∈ (s.core k).cache))) ∧
      (∀ ps s1, (s.g c).toNat ≤ 2 ^ 30 → fld ea 63 57 = 0 → s.rangePages s.cur.1 ea.toNat (s.g c).toNat 512 = (.ok ps, s1) →
        s1.rangeTrap (s.isSup s.cur.1 s.cur.2) ps = none → s1.rangeStores ps = [] →
        ∃ u, RunsWith (.inval g m c) s u 12 os {} ∧ SameMemory s u ∧ u.net = s.net ∧
          (∀ k ∈ s.cacheCores s.cur.1, ∀ l ∈ (u.core k).cache, l.loc = false → inRange ps l.line = false) ∧
          (∀ l ∈ (u.core s.cur.1).cache, inRange ps l.line = false) ∧
          (∀ k l, l ∈ (s.core k).cache → inRange ps l.line = false → l ∈ (u.core k).cache)) ∧
      (∀ ps s1, (s.g c).toNat ≤ 2 ^ 30 → fld ea 63 57 = 0 → s.rangePages s.cur.1 ea.toNat (s.g c).toNat 512 = (.ok ps, s1) →
        s1.rangeTrap (s.isSup s.cur.1 s.cur.2) ps = none → s1.rangeStores ps = [] → s1.rangeBacks ps = [] →
        (∀ k ∈ s.cacheCores s.cur.1, ∀ l ∈ (s.core k).cache, l.dirty = true → l.loc = false → inRange ps l.line = false) →
        RunsWith (.cwb g m c) s s1 12 os {})) ∧
    (s.modsOk (condsOf os) = true → s.out = true →
      (s.gone s.me.phase.ids = true → RunsWith (.cwb g m c) s s 12 os {}) ∧
      (s.gone s.me.phase.ids = false → Parks (.cwb g m c) s (.gone s.me.phase.ids)))

/-! ### Threads, barriers, register bits, work lists, records -/

/-- TSTART, R84: the causes in their order, and the context it starts: running at the entry, every bit full, the controls of
context 0, FPFLAGS, SIGLANES and RFCOUNT 0; no other context, no core and no memory changes. The readings of log 2 and 44 are
the model's. -/
def Obligations.TstartStartsAContext : Prop :=
  ∀ (s : State) (g : Guard) (a : GReg) (b : RegImm), s.guard g = true → s.modsOk (condsOf (.src a :: opndsB b)) = true →
    let i := Instr.tstart g a b
    let A := s.g a
    let u := A.toNat
    let c := s.cur.1
    let entry := match b with
      | .reg r => s.g r
      | .imm v => s.me.pc + 4 * v.signExtend 64
    (s.cur.2 ≠ 0 → Traps i s Cause.privileged A 1) ∧
    (s.cur.2 = 0 → u = 0 ∨ s.threadCount c ≤ u → Traps i s Cause.boundCheck A 1) ∧
    (s.cur.2 = 0 → u ≠ 0 → u < s.threadCount c →
      ((s.ctx c u).state = .running → Traps i s Cause.boundCheck A 2) ∧ ((s.ctx c u).state = .ended → Traps i s Cause.boundCheck A 3) ∧
      ((s.ctx c u).state = .held → Traps i s Cause.boundCheck A 4) ∧
      ((s.ctx c u).state = .free → entry.toNat % 4 ≠ 0 → Traps i s Cause.pcMisaligned entry 0) ∧
      ((s.ctx c u).state = .free → entry.toNat % 4 = 0 → ∃ v, RunsWith i s v 8 (.src a :: opndsB b) {} ∧
        CtxOnly { s with freeCtr := v.freeCtr } v c u ∧
        (let t := v.ctx c u
         t.state = .running ∧ t.pc = entry ∧ t.level = .l0 ∧ t.park = none ∧ t.events = [] ∧ t.fpctl = s.me.fpctl ∧
         t.sigmin = s.me.sigmin ∧ t.tvec = s.me.tvec ∧ t.tdeleg = s.me.tdeleg ∧ t.fpflags = 0 ∧ t.siglanes = 0 ∧ t.rfcount = 0 ∧
         t.sshadow = (s.ctx c u).sshadow ∧ ∀ n < 32, (tget GVal.zero t.g n).full = true ∧ (tget FVal.zero t.f n).full = true)))

/-- TREAP, R86: the causes, the wait, and the exit word of an ended context, which becomes free. That TVAL of the two BOUND_CHECK causes is A is
the model's choice, log 83. -/
def Obligations.TreapReapsAContext : Prop :=
  ∀ (s : State) (g : Guard) (d a : GReg), s.guard g = true → s.modsOk (condsOf [.dst d, .src a]) = true →
    let i := Instr.treap g d a
    let A := s.g a
    let u := A.toNat
    let c := s.cur.1
    (s.cur.2 ≠ 0 → Traps i s Cause.privileged A 1) ∧
    (s.cur.2 = 0 → u = 0 ∨ s.threadCount c ≤ u → Traps i s Cause.boundCheck A 1) ∧
    (s.cur.2 = 0 → u ≠ 0 → u < s.threadCount c →
      ((s.ctx c u).state = .free → Traps i s Cause.boundCheck A 5) ∧
      ((s.ctx c u).state = .running ∨ (s.ctx c u).state = .held → Parks i s (.ended u)) ∧
      ((s.ctx c u).state = .ended → RunsWith i s (s.modCtx c u (fun t => { t with state := .free })) 8 [.dst d, .src a]
        { g := [(d, (s.ctx c u).exitWord)] }))

/-- TEND, R85, R90, R208, R247: context 0 parks until every other context is free or ended; otherwise, with no unreceived
POISON_OPERAND report, the context ends with exit word A, its pending events go, an unreached barrier of its tile is aborted, which
the gang's other tiles know, and nothing else of another context or core changes. The reading of log 44 is the model's. -/
def Obligations.TendEndsAThread : Prop :=
  ∀ (s : State) (g : Guard) (a : GReg), s.guard g = true → s.modsOk (condsOf [.src a]) = true →
    let i := Instr.tend g a
    let others := (List.range 16).all (fun y => y == 0 || (s.ctx s.cur.1 y).state == .free || (s.ctx s.cur.1 y).state == .ended)
    (s.cur.2 = 0 → others = false → Parks i s .others) ∧
    (s.cur.2 ≠ 0 ∨ others = true →
      (∀ r, s.myCore.poisonReport s.cur.2 = some r → TrapsWith i s (s.modMyCore (fun k => k.dropReport r)) Cause.poisonOperand r.tval r.tstat) ∧
      (s.myCore.poisonReport s.cur.2 = none → Makes i s (fun t =>
        t.me.state = .ended ∧ t.me.exitWord = s.g a ∧ t.me.events = [] ∧ t.me.park = none ∧ t.me.replies = [] ∧
        (∀ y, y ≠ s.cur.2 → t.ctx s.cur.1 y = s.ctx s.cur.1 y) ∧ CoresKept s t s.cur.1 ∧
        t.myCore.mq.map (fun q => q.op) = s.myCore.mq.map (fun q => q.op) ∧ t.myCore.fifo = s.myCore.fifo ∧ t.net = s.net ∧
        t.outbox = s.outbox ∧ SameMemory s t ∧
        (s.cur.2 < s.threadCount s.cur.1 → s.myCore.bar.aborted = none → s.myCore.bar.arrived.contains (s.gangWide s.cur.1 s.cur.2) = false →
          BarsTile s t s.cur.1 (s.myCore.bar.gen, s.gangWide s.cur.1 s.cur.2)))))

/-- TSPAWN, R87: a bad address or record raises TASK_RECORD; a full enqueue queue gives 2; otherwise the address enters the
queue behind every earlier entry and d takes 0, in the issue that has the 128 bytes. Where it waits, its address stays the one it issued
with. The reading of log 52 is the model's. -/
def Obligations.TspawnEnqueuesARecord : Prop :=
  ∀ (s : State) (g : Guard) (d a : GReg) (rs : List Reply), s.guard g = true → s.modsOk (condsOf [.dst d, .src a]) = true →
    let i := Instr.tspawn g d a
    let A := if s.me.phase.step = 0 then s.g a else s.me.phase.val
    let p := s.part s.myPart
    (fld A 63 57 ≠ 0 ∨ A.toNat % 64 ≠ 0 → Traps i s Cause.taskRecord A 0) ∧
    (s.me.phase.step = 0 → fld A 63 57 = 0 → A.toNat % 64 = 0 → s.storesDone s.cur.1 s.cur.2 true s.msgCtr = false → Makes i s (fun t =>
      t.me.phase.val = A ∧ t.me.park.map (fun p => p.w) = some (.stores true s.msgCtr) ∧ t.me.pc = s.me.pc ∧ SameMemory s t)) ∧
    (fld A 63 57 = 0 → A.toNat % 64 = 0 → s.out = true → s.me.allReplies s.me.phase.ids = .ok rs →
      replyTrap (rs.zip s.me.phase.eas) = none →
      (∀ b, recFail (rs.flatMap (fun r => r.data)) = some b → Traps i s Cause.taskRecord A (w64 b)) ∧
      (recFail (rs.flatMap (fun r => r.data)) = none → 64 ≤ p.enq.length → RunsWith i s s 8 [.dst d, .src a] { g := [(d, 2)] }) ∧
      (recFail (rs.flatMap (fun r => r.data)) = none → p.enq.length < 64 →
        RunsWith i s (s.modPart s.myPart (fun q => { q with enq := q.enq ++ [A] })) 8 [.dst d, .src a] { g := [(d, 0)] }))

/-- BAR, R89, R90: at each scope the last arrival at the barrier starts the next generation, acquires and goes on, an earlier one parks in
its generation; a thread whose generation is over acquires and goes on; one whose generation was aborted raises BARRIER_ABORTED, as does
every later BAR, of the tile kind on each tile of the gang. The readings of log 44 and 75 are the model's. -/
def Obligations.BarriersMeet : Prop :=
  ∀ (s : State) (g : Guard) (sc : BarScope), s.guard g = true →
    let k := barKind sc
    let b := s.barrierOf s.cur.1 k
    let t := s.myCore.bar
    (∀ r, s.out = false → b.aborted.or b.barred = some r → Traps (.bar g sc) s Cause.barrierAborted (w64 r.1) (w64 r.2)) ∧
    (s.out = true → s.me.phase.val.toNat < b.gen → RunsWith (.bar g sc) s (s.acquire s.cur.1 (barScope sc)) 8 [] {}) ∧
    (∀ r, s.out = true → b.gen ≤ s.me.phase.val.toNat → b.aborted = some r → Traps (.bar g sc) s Cause.barrierAborted (w64 r.1) (w64 r.2)) ∧
    (s.out = true → b.gen ≤ s.me.phase.val.toNat → b.aborted = none → Parks (.bar g sc) s (.barrier k s.me.phase.val.toNat)) ∧
    (s.me.phase.step = 0 → s.storesDone s.cur.1 s.cur.2 false s.msgCtr = true → t.aborted = none → t.barred = none →
      (s.threadCount s.cur.1 ≤ t.arrived.length + 1 →
        RunsWith (.bar g .tile) s (s.modMyCore (fun k => { k with bar := ⟨t.gen + 1, [], none, none⟩ })) 8 [] {}) ∧
      (t.arrived.length + 1 < s.threadCount s.cur.1 → Makes (.bar g .tile) s (fun u =>
        u.myCore.bar = ⟨t.gen, t.arrived ++ [s.gangWide s.cur.1 s.cur.2], none, none⟩ ∧
        u.me.park.map (fun p => p.w) = some (.barrier .tile t.gen) ∧ u.me.pc = s.me.pc ∧ SameMemory s u))) ∧
    (s.me.phase.step = 2 → k = .gang → b.aborted = none → b.barred = none →
      s.widerThanCache s.cur.1 (barScope sc) = false ∨ s.writesDone s.cur.1 s.cur.2 s.me.phase.mark = true →
      let n := s.myCore.gangSize * s.threadCount s.cur.1
      let u := s.modBarrier s.cur.1 .gang (fun x => x.arrive (s.gangWide s.cur.1 s.cur.2) n)
      (n ≤ b.arrived.length + 1 → RunsWith (.bar g sc) s (u.acquire s.cur.1 (barScope sc)) 8 [] {} ∧
        u.barrierOf s.cur.1 .gang = ⟨b.gen + 1, [], none, none⟩) ∧
      (b.arrived.length + 1 < n → Makes (.bar g sc) s (fun u =>
        u.barrierOf s.cur.1 .gang = ⟨b.gen, b.arrived ++ [s.gangWide s.cur.1 s.cur.2], none, none⟩ ∧ u.myCore.bar.gen = t.gen ∧
        u.me.park.map (fun p => p.w) = some (.barrier .gang b.gen) ∧ u.me.pc = s.me.pc ∧ SameMemory s u)))

/-- FEMPTY, FFULL, FTEST, R91: they act on the bit alone; on an s register with a plain write pending the first two park; g0 stays full. -/
def Obligations.RegisterBits : Prop :=
  ∀ (s : State) (g : Guard) (n : BitVec 6) (f : BitVec 5) (d : PReg), s.guard g = true →
    (s.pending n.toNat = false → ∀ q ∈ ([(.fempty g (.g n), false), (.ffull g (.g n), true)] : List (Instr × Bool)),
      ∃ u, RunsWith q.1 s u 8 [] {} ∧ (∀ j, u.gval j = if j = n.toNat ∧ j ≠ 0 then ⟨(s.gval j).val, q.2⟩ else s.gval j) ∧
        (∀ j, u.fAt j = s.fAt j) ∧ SameMemory s u ∧ CoreOnly s u s.cur.1) ∧
    (s.pending n.toNat = true → ∀ i ∈ ([.fempty g (.g n), .ffull g (.g n)] : List Instr), Parks i s (.mods [⟨false, n.toNat, .landed⟩])) ∧
    (∀ q ∈ ([(.fempty g (.f f), false), (.ffull g (.f f), true)] : List (Instr × Bool)),
      ∃ u, RunsWith q.1 s u 8 [] {} ∧ (∀ j, u.fAt j = if j = f.toNat then { s.fAt j with full := q.2 } else s.fAt j) ∧
        (∀ j, u.gval j = s.gval j) ∧ SameMemory s u ∧ CoreOnly s u s.cur.1) ∧
    Runs (.ftest g d (.g n)) s 8 [] { p := some (d, (s.gval n.toNat).full) } ∧
    Runs (.ftest g d (.f f)) s 8 [] { p := some (d, (s.fAt f.toNat).full) } ∧ (s.gval 0).full = true

/-- WORK LISTS, R92 to R94: WPUSH appends at the tail, or raises WORKLIST_FULL at 256; WTAKE takes the head and says whether it did; WCOUNT gives
W, the entries held and those sent and not yet received. -/
def Obligations.WorkListsHold : Prop :=
  ∀ (s : State) (g : Guard) (d a : GReg) (k : PReg), s.guard g = true →
    let W := s.myCore.wl.length + (s.myCore.wlSent.map (fun e => e.2.length)).sum
    (s.modsOk (condsOf [.src a]) = true →
      (256 ≤ W → Traps (.wpush g a) s Cause.worklistFull (s.g a) 256) ∧
      (W < 256 → RunsWith (.wpush g a) s (s.modMyCore (fun k => { k with wl := k.wl ++ [s.g a] })) 8 [.src a] {})) ∧
    (s.modsOk (condsOf [.dst d]) = true → d.md ≠ .consume →
      (s.myCore.wl = [] → Runs (.wtake g d k) s 8 [] { p := some (k, false) }) ∧
      (∀ w ws, s.myCore.wl = w :: ws → RunsWith (.wtake g d k) s (s.modMyCore (fun k => { k with wl := ws })) 8 [.dst d]
        { g := [(d, w)], p := some (k, true) }) ∧
      Runs (.wcount g d) s 8 [.dst d] { g := [(d, w64 W)] }) ∧
    (s.modsOk (condsOf [.dst d]) = false → Parks (.wtake g d k) s (.mods (condsOf [.dst d])))

/-! ### The matrix unit -/

/-- MATRIX COMMANDS, R192, R204, R213: with all 16 entries in use a command does not issue; a failed check raises its cause;
otherwise the command enters the queue at the next position with what it captured, behind the thread's standing stores to the tile's store,
joins the open batch, and changes nothing else. The readings of log 42 and 70 are the model's. -/
def Obligations.MatrixCommandsEnqueue : Prop :=
  ∀ (s : State) (g : Guard) (d x : AReg) (a b c e : GReg) (fa : FReg) (m : RegImm) (f : MmaFmt) (q : QFmt) (dc : MData) (ag bg pl rst : Bool)
    (kk : BitVec 10) (fs : BitVec 5), s.guard g = true →
    let k := kk.toNat
    let sc := s.myScratch
    let mask : BitVec 32 := (s.b m).setWidth 32
    let plane := if pl then some (s.g c) else none
    let os4 : List Opnd := [.src a, .src b, .src c, .src e]
    let osD : List Opnd := .src a :: .src b :: opndsPlane pl c
    let osM : List Opnd := .src a :: opndsB m ++ opndsPlane pl c
    let opnd := fun (on : Bool) (n : Nat) (r1 r2 : GReg) => (⟨s.g r1, s.g r2,
      if on then some (tabulate n (fun j => tget VVal.zero s.me.v (fld (s.g r1) 3 0 + j))) else none⟩ : MatSrc)
    let scale : FVal → FC := fun v => ⟨v.val.setWidth 32, Nat.min v.cnt 24⟩
    let posBad : Option Trap := if bit (s.g e) 63 then some ⟨Cause.boundCheck, s.g e, 1⟩
      else if 32 < fld (s.g e) 61 56 then some ⟨Cause.boundCheck, s.g e, 2⟩ else none
    ∀ r ∈ ([(.mma g d a b c e f bg ag kk, 16, os4, checkStep (ofMma f) ag bg (s.g a) (s.g b) (s.g c) (s.g e) k sc,
          .mma f d.toNat (opnd ag (k / 2) a b) (opnd bg (k / 2) c e) k),
        (.mmaq g d a b c e q bg ag kk, 16, os4, checkStep (ofQ q) ag bg (s.g a) (s.g b) (s.g c) (s.g e) k sc,
          .mmaq q d.toNat (opnd ag ((ofQ q).groupRegs k) a b) (opnd bg ((ofQ q).groupRegs k) c e) k),
        (.mzero g d, 8, [], none, .mzero d.toNat),
        (.mld g d a b c dc pl, 12, osD, checkRows dc (s.g a) (s.g b) plane sc, .mld d.toNat ⟨s.g a, s.g b, none⟩ dc plane),
        (.mst g d a b c dc pl, 12, osD, checkRows dc (s.g a) (s.g b) plane sc, .mst d.toNat ⟨s.g a, s.g b, none⟩ dc plane),
        (.mscale g d fa m, 8, .srcF fa :: opndsB m, none, .mscale d.toNat (scale (s.fval fa)) mask),
        (.smxa g d x b c e f fs, 16, [.src b, .src c, .src e], posBad.or (checkProb (s.g b) (s.g c) sc),
          .smxa f d.toNat x.toNat ⟨s.g b, s.g c, none⟩ (scale (s.fAt fs.toNat)) (s.g e)),
        (.smxfin g d m rst, 12, opndsB m, none, .smxfin d.toNat mask rst),
        (.smxmerge g d x m, 8, opndsB m, if d = x then some ⟨Cause.boundCheck, w64 d.toNat, 3⟩ else none, .smxmerge d.toNat x.toNat mask),
        (.smxld g d a m c pl, 12, osM, checkState (s.g a) mask plane sc, .smxld d.toNat (s.g a) mask plane),
        (.smxst g d a m c pl, 12, osM, checkState (s.g a) mask plane sc, .smxst d.toNat (s.g a) mask plane),
        (.smxinit g d m, 8, opndsB m, none, .smxinit d.toNat mask)] : List (Instr × Nat × List Opnd × Option Trap × QOp)),
      s.modsOk (condsOf r.2.2.1) = true →
      (16 ≤ s.myCore.mq.length → Bubbles r.1 s) ∧
      (s.myCore.mq.length < 16 → ∀ t, r.2.2.2.1 = some t → Raises r.1 s t) ∧
      (s.myCore.mq.length < 16 → r.2.2.2.1 = none → RunsWith r.1 s
        (s.modMyCore (fun k => { k with
          mq := k.mq ++ [⟨r.2.2.2.2, k.mqPos, s.cur.2, k.cycle, k.nextBatch.toNat, s.me.fpctl, [],
            (s.ownPend s.cur.1 s.cur.2).map (fun e => e.id)⟩]
          mqPos := (k.mqPos + 1) % 16
          mqOpen := k.mqOpen + 1 })) r.2.1 r.2.2.1 {})

namespace Sys2Proof.Machine

/-- The limits of a step's depth (R198): the multiple, the greatest from the tile store, the greatest from a register group. -/
def depthLimits : OFmt → Nat × Nat × Nat
  | .hf => (4, 128, 32)
  | .bf => (4, 128, 32)
  | .q8 => (32, 256, 64)
  | .q4 => (32, 512, 128)

/-- The register whose value a depth failure names, A's first and then B's first (R201). -/
def depthFault (f : OFmt) (ag bg : Bool) (k : Nat) (a b : Word) : Option (Word × Nat) :=
  let m := (depthLimits f).1
  let top := fun (grp : Bool) => if grp then (depthLimits f).2.2 else (depthLimits f).2.1
  if k < m ∨ top ag < k ∨ k % m ≠ 0 then some (a, 7) else if top bg < k then some (b, 7 + 16) else none

/-- The first failure of a descriptor pair in the order of R201, as the register's value and the TSTAT. `group` is the number of registers of a
group operand; `lines` gives the lines read and their lengths, `scales` the scale bytes, `sc` the scratch. LINEADDR is as R200 gives it. -/
def pairFault (isB quant : Bool) (group : Option Nat) (w1 w2 : Word) (lines scales : List (Nat × Nat)) (sc : Nat) : Option (Word × Nat) :=
  let x := fun i => fld w1 20 0 + fld w1 32 21 * 64 * i
  let addr := fun i => (x i / 2 ^ 17 % 16 + i * (([0, 1, 2, 4, 8, 3, 5, 7] : List Nat)[fld w1 35 33]?.getD 0)) % 16 * 2 ^ 17 + x i % 2 ^ 17
  let codes : Option (Word × Nat) :=
    if group.isSome ∧ fld w1 63 4 ≠ 0 then some (w1, 1)
    else if group.any (fun n => decide (16 < fld w1 3 0 + n)) = true then some (w1, 8)
    else if group = none ∧ fld w1 63 37 ≠ 0 then some (w1, 1)
    else if group = none ∧ fld w1 5 0 ≠ 0 then some (w1, 2)
    else if group = none ∧ bit w1 36 = true ∧ isB = false then some (w1, 3)
    else if fld w2 63 27 ≠ 0 then some (w2, 1 + 32)
    else if 31 < fld w2 5 0 then some (w2, 4 + 32)
    else if quant = false ∧ fld w2 26 6 ≠ 0 then some (w2, 9 + 32)
    else if lines.any (fun l => decide (2 ^ 21 ≤ x l.1 ∨ sc < addr l.1 + l.2)) = true then some (w1, 5)
    else if scales.any (fun r => decide (sc < r.1 + r.2)) = true then some (w2, 5 + 32)
    else if lines.any (fun l => decide (2 ^ 17 < addr l.1 % 2 ^ 17 + l.2)) = true then some (w1, 6)
    else none
  codes.map (fun c => (c.1, if isB then c.2 + 16 else c.2))

/-- The lines of a step's operand, and the bytes of each (R145, R198): none of a group. -/
def operandLines (f : OFmt) (isB grp : Bool) (w1 w2 : Word) (k : Nat) : List (Nat × Nat) :=
  let rows := fld w2 5 0 + 1
  if grp then []
  else if isB ∧ bit w1 36 = true then (List.range k).map (fun i => (i, (rows * f.bits + 7) / 8))
  else (List.range rows).map (fun i => (i, k * f.bits / 8))

/-- The first failure of a step: the depth, pair A, pair B (R201, R203). -/
def stepFault (f : OFmt) (ag bg : Bool) (a1 a2 b1 b2 : Word) (k sc : Nat) : Option (Word × Nat) :=
  let quant := decide (f = .q8 ∨ f = .q4)
  let pair := fun (isB grp : Bool) (w1 w2 : Word) =>
    pairFault isB quant (if grp then some (k * f.bits / 32) else none) w1 w2 (operandLines f isB grp w1 w2 k) (stepScales f isB grp w1 w2 k) sc
  ((depthFault f ag bg k a1 b1).or (pair false ag a1 a2)).or (pair true bg b1 b2)

/-- The bytes of a row, and whether it has a scale (R218). -/
def rowData : MData → Nat × Bool
  | .s => (128, false)
  | .hf => (64, false)
  | .bf => (64, false)
  | .q8 => (32, true)
  | .q4 => (16, true)

/-- The first failure of MLD or MST: the pair, then the count plane's offset (R214, R218). -/
def rowsFault (dc : MData) (w1 w2 : Word) (plane : Option Word) (sc : Nat) : Option (Word × Nat) :=
  let rows := fld w2 5 0 + 1
  (pairFault false (rowData dc).2 none w1 w2 ((List.range rows).map (fun i => (i, (rowData dc).1)))
    (if (rowData dc).2 then (List.range rows).map (fun i => (fld w2 26 6 + 3 * i, 3)) else []) sc).or
    (plane.bind (fun v => if sc < v.toNat + 32 * rows then some (v, 10) else none))

/-- The first failure of SMXLD or SMXST: the row state's offset, then the count plane's, for the rows of the mask (R214). -/
def stateFault (a : Word) (m : BitVec 32) (plane : Option Word) (sc : Nat) : Option (Word × Nat) :=
  let rows := (List.range 32).filter (fun i => m.getLsbD i)
  if fld a 2 0 ≠ 0 ∨ rows.any (fun i => decide (sc < a.toNat + 8 * i + 8)) = true then some (a, 10)
  else plane.bind (fun v => if rows.any (fun i => decide (sc < v.toNat + 2 * i + 2)) = true then some (v, 10) else none)

end Sys2Proof.Machine

/-- DESCRIPTOR CHECKS, R198 to R201, R203, R214, R218, R226, R230: each matrix command that names a descriptor pair or an offset raises
MATRIX_DESCRIPTOR with the first failure of its checks, in their order, and the register's value, and enters no command; with none it
enters the queue, SMXA after the checks on its position word. For MLD and MST of 32-bit elements the codes are written out; LINEADDR is as
R200 gives it. The readings of log 29 and 80 are the model's. -/
def Obligations.DescriptorFailuresTrap : Prop :=
  (∀ (s : State) (g : Guard) (d x : AReg) (a b c e : GReg) (m : RegImm) (f : MmaFmt) (q : QFmt) (dc : MData) (ag bg pl : Bool)
     (kk : BitVec 10) (fs : BitVec 5), s.guard g = true → s.myCore.mq.length < 16 →
     let k := kk.toNat
     let sc := s.myScratch
     let mask : BitVec 32 := (s.b m).setWidth 32
     let plane := if pl then some (s.g c) else none
     let os4 : List Opnd := [.src a, .src b, .src c, .src e]
     let osD : List Opnd := .src a :: .src b :: opndsPlane pl c
     let osM : List Opnd := .src a :: opndsB m ++ opndsPlane pl c
     let rows := fld (s.g c) 5 0 + 1
     let pos := !bit (s.g e) 63 && decide (fld (s.g e) 61 56 ≤ 32)
     ∀ r ∈ ([(.mma g d a b c e f bg ag kk, 16, os4, stepFault (ofMma f) ag bg (s.g a) (s.g b) (s.g c) (s.g e) k sc, true),
         (.mmaq g d a b c e q bg ag kk, 16, os4, stepFault (ofQ q) ag bg (s.g a) (s.g b) (s.g c) (s.g e) k sc, true),
         (.mld g d a b c dc pl, 12, osD, rowsFault dc (s.g a) (s.g b) plane sc, true),
         (.mst g d a b c dc pl, 12, osD, rowsFault dc (s.g a) (s.g b) plane sc, true),
         (.smxa g d x b c e f fs, 16, [.src b, .src c, .src e],
           pairFault false false none (s.g b) (s.g c) ((List.range rows).map (fun i => (i, 64))) [] sc, pos),
         (.smxld g d a m c pl, 12, osM, stateFault (s.g a) mask plane sc, true),
         (.smxst g d a m c pl, 12, osM, stateFault (s.g a) mask plane sc, true)] :
         List (Instr × Nat × List Opnd × Option (Word × Nat) × Bool)),
       s.modsOk (condsOf r.2.2.1) = true → r.2.2.2.2 = true →
       (∀ v code, r.2.2.2.1 = some (v, code) → Traps r.1 s Cause.matrixDescriptor v (w64 code)) ∧
       (r.2.2.2.1 = none → ∃ u, RunsWith r.1 s u r.2.1 r.2.2.1 {} ∧ CoreOnly s u s.cur.1 ∧ u.myCore.mq.length = s.myCore.mq.length + 1)) ∧
  (∀ (s : State) (g : Guard) (d : AReg) (a b c : GReg), s.guard g = true → s.modsOk (condsOf [.src a, .src b]) = true → s.myCore.mq.length < 16 →
    let A := s.g a
    let B := s.g b
    let sc := s.myScratch
    let rows := fld B 5 0 + 1
    let x := fun i => fld A 20 0 + fld A 32 21 * 64 * i
    let addr := fun i => (x i / 2 ^ 17 % 16 + i * (([0, 1, 2, 4, 8, 3, 5, 7] : List Nat)[fld A 35 33]?.getD 0)) % 16 * 2 ^ 17 + x i % 2 ^ 17
    ∀ j ∈ ([.mld g d a b c .s false, .mst g d a b c .s false] : List Instr),
      let fail := fun (v : Word) (code : Nat) => Traps j s Cause.matrixDescriptor v (w64 code)
      (fld A 63 37 ≠ 0 → fail A 1) ∧ (fld A 63 37 = 0 → fld A 5 0 ≠ 0 → fail A 2) ∧
      (fld A 63 37 = 0 → fld A 5 0 = 0 → bit A 36 = true → fail A 3) ∧
      (fld A 63 37 = 0 → fld A 5 0 = 0 → bit A 36 = false →
        (fld B 63 27 ≠ 0 → fail B 0x21) ∧ (fld B 63 27 = 0 → 31 < fld B 5 0 → fail B 0x24) ∧
        (fld B 63 27 = 0 → fld B 5 0 ≤ 31 → fld B 26 6 ≠ 0 → fail B 0x29) ∧
        (fld B 63 27 = 0 → fld B 5 0 ≤ 31 → fld B 26 6 = 0 →
          ((∃ i < rows, 2 ^ 21 ≤ x i ∨ sc < addr i + 128) → fail A 5) ∧
          ((∀ i < rows, x i < 2 ^ 21 ∧ addr i + 128 ≤ sc) → (∃ i < rows, 2 ^ 17 < addr i % 2 ^ 17 + 128) → fail A 6) ∧
          ((∀ i < rows, x i < 2 ^ 21 ∧ addr i + 128 ≤ sc ∧ addr i % 2 ^ 17 + 128 ≤ 2 ^ 17) → ∃ u, RunsWith j s u 12 [.src a, .src b] {} ∧
            CoreOnly s u s.cur.1 ∧ u.myCore.mq.length = s.myCore.mq.length + 1))))

/-- BATCHES AND READS AT ISSUE, R206, R208, R215, R221 to R224: MCOMMIT closes the open batch and writes or arms its number, at
most four standing closed; MWAIT parks until a batch completes and then takes its first report; MTEST, VFROMA and VTOA read and
write accumulators no queued command names, and raise ACC_IN_FLIGHT on the others. The readings of log 40 and 80 are the model's. -/
def Obligations.BatchesAndAccumulatorParts : Prop :=
  ∀ (s : State) (g : Guard) (d a b : GReg) (acc : AReg) (v : VReg), s.guard g = true →
    let k := s.myCore
    let next : BitVec 32 := if k.nextBatch + 1 = 0 then 1 else k.nextBatch + 1
    let close := fun (fill : Option (Nat × Nat)) => s.modMyCore (fun k =>
      { k with closed := k.closed ++ [⟨k.nextBatch.toNat, fill⟩], nextBatch := next, mqOpen := 0 })
    (s.modsOk (condsOf [.dst d]) = true →
      (4 ≤ k.closed.length → Bubbles (.mcommit g d false) s ∧ Bubbles (.mcommit g d true) s) ∧
      (k.closed.length < 4 →
        RunsWith (.mcommit g d false) s (close none) 8 [.dst d] { g := [(d, k.nextBatch.setWidth 64)] } ∧
        (d.num = 0 → RunsWith (.mcommit g d true) s (close none) 8 [.dst d] {}) ∧
        (d.num ≠ 0 → RunsWith (.mcommit g d true) s ((close (some (s.cur.2, d.num.toNat))).setFullG d.num.toNat false) 8 [.dst d] {})) ∧
      Makes (.mtest g d) s (fun t => CoreOnly s t s.cur.1 ∧ t.me.pc = s.me.pc + 8 ∧ (d.num ≠ 0 → d.num.toNat < 32 → d.md ≠ .consume →
        ∀ n < 8, (t.g d).toNat / 256 ^ n % 256 = k.accByte n))) ∧
    (s.modsOk (condsOf [.src a]) = true →
      let w := s.g a
      let n : BitVec 32 := w.setWidth 32
      (fld w 63 32 ≠ 0 → Traps (.mwait g a) s Cause.boundCheck w 2) ∧
      (w = 0 → Runs (.mwait g a) s 8 [.src a] {}) ∧
      (fld w 63 32 = 0 → w ≠ 0 →
        (2 ^ 31 ≤ (k.nextBatch - n).toNat ∨ n = k.nextBatch → Traps (.mwait g a) s Cause.boundCheck w 1) ∧
        ((k.nextBatch - n).toNat < 2 ^ 31 → n ≠ k.nextBatch →
          (k.closed.any (fun b => b.num = n.toNat) = true → Parks (.mwait g a) s (.batch n.toNat)) ∧
          (k.closed.any (fun b => b.num = n.toNat) = false →
            let mine := fun (r : Report) => r ∈ k.reports ∧ r.ctx = s.cur.2 ∧ (n - BitVec.ofNat 32 r.batch).toNat < 2 ^ 31
            ((∀ r, ¬mine r) → Runs (.mwait g a) s 8 [.src a] {}) ∧
            ((∃ r, mine r) → ∃ r, mine r ∧ (∀ r', mine r' → r.cause ≤ r'.cause) ∧
              TrapsWith (.mwait g a) s (s.modMyCore (fun k => { k with reports := k.reports.filter (fun e => decide (e ≠ r)) })) r.cause r.tval
                r.tstat))))) ∧
    (∀ (sl : AccSel), let os : List Opnd := if sl == .row then [.src b] else []
      s.modsOk (condsOf os) = true →
      (∀ pos, k.accBusy acc.toNat = some pos → Traps (.vfroma g v acc b sl) s Cause.accInFlight (w64 acc.toNat) (w64 pos) ∧
        Traps (.vtoa g acc v b sl) s Cause.accInFlight (w64 acc.toNat) (w64 pos)) ∧
      (k.accBusy acc.toNat = none → sl = .row → 31 < (s.g b).toNat →
        Traps (.vfroma g v acc b sl) s Cause.boundCheck (s.g b) 0 ∧ Traps (.vtoa g acc v b sl) s Cause.boundCheck (s.g b) 0) ∧
      (k.accBusy acc.toNat = none → (sl = .row → (s.g b).toNat ≤ 31) →
        let i := (s.g b).toNat
        let A := k.accOf acc.toNat
        (∃ x, Runs (.vfroma g v acc b sl) s 8 os { v := some (v, x) } ∧ ∀ l < 32,
          let y : FC := match sl with
            | .row => (A.row i).el l
            | .m => (A.row l).m
            | .l => (A.row l).l
            | .st => ⟨BitVec.ofNat 32 (b2n (A.st.getLsbD l)), 0⟩
          x.lane l = y.v ∧ x.cnt l = BitVec.ofNat 8 y.c) ∧
        (∃ u, RunsWith (.vtoa g acc v b sl) s u 8 os {} ∧ CoreOnly s u s.cur.1 ∧ u.me = s.me ∧
          (∀ n, n ≠ acc.toNat → u.myCore.accOf n = k.accOf n) ∧
          ∀ l < 32, ∀ j < 32,
            let x : FC := ⟨(s.v v).lane l, Nat.min (((s.v v).cnt l).toNat % 32) 24⟩
            let B := u.myCore.accOf acc.toNat
            (B.row l).m = (if sl = .m then x else (A.row l).m) ∧ (B.row l).l = (if sl = .l then x else (A.row l).l) ∧
            B.st.getLsbD l = (if sl = .st then ((s.v v).lane l).getLsbD 0 else A.st.getLsbD l) ∧
            (B.row j).el l = (if sl = .row ∧ j = i then x else (A.row j).el l))))

namespace Sys2Proof.Machine

/-- The row of the opcode table that runs a command. -/
def runOf (c : Nat) (res : Residue) : QOp → Instr
  | .mma _ _ _ _ _ => .mmaStepRun c res
  | .mmaq _ _ _ _ _ => .mmaqStepRun c res
  | .mzero _ => .mzeroRun c
  | .mscale _ _ _ => .mscaleRun c
  | .mld _ _ _ _ => .mldRun c
  | .mst _ _ _ _ => .mstRun c
  | .smxa _ _ _ _ _ _ => .smxaRun c
  | .smxfin _ _ _ => .smxfinRun c
  | .smxmerge _ _ _ => .smxmergeRun c
  | .smxld _ _ _ _ => .smxldRun c
  | .smxst _ _ _ _ => .smxstRun c
  | .smxinit _ _ => .smxinitRun c

/-- The accumulator that a command writes. -/
def QOp.target : QOp → Option Nat
  | .mst _ _ _ _ => none
  | .smxst _ _ _ _ => none
  | op => op.accs.head?

/-- What the run of the command at the head of a core's queue leaves as it was: every other core and the rest of the device, every accumulator
but the one written, every byte of the tile store outside the written ranges. A byte that a thread's store has hit meanwhile is that of the
store or the command's (R205); with no such byte no free value is used. -/
structure MatDone (s t : State) (c : Nat) (q : QCmd) : Prop where
  only : CoreOnly { s with freeCtr := t.freeCtr } t c
  free : q.hits = [] → t.freeCtr = s.freeCtr
  rest : { t.core c with
    acc := (s.core c).acc, store := (s.core c).store, fresh := (s.core c).fresh, mq := (s.core c).mq, mqBusy := (s.core c).mqBusy
    reports := (s.core c).reports, reported := (s.core c).reported } = s.core c
  fresh : ∀ b ∈ (t.core c).fresh, b ∈ (s.core c).fresh
  mq : (t.core c).mq = (s.core c).mq.drop 1
  accs : ∀ n, some n ≠ q.op.target → (t.core c).accOf n = (s.core c).accOf n
  store : ∀ a, q.op.stores.all (fun r => !(decide (r.1 ≤ a) && decide (a < r.1 + r.2))) = true →
    (t.core c).store.read a = (s.core c).store.read a
  hit : ∀ a, (t.core c).store.read a = ((s.core c).perform q.op).store.read a ∨
    (q.hits.contains a = true ∧ (t.core c).store.read a = (s.core c).store.read a)

/-- The head of a core's queue is about to complete with no poisoned source. -/
def State.ripe (s : State) (c : Nat) (q : QCmd) : Prop :=
  (s.core c).mq.head? = some q ∧ s.mayComplete c q = true ∧ (s.core c).badSource q.op = none

end Sys2Proof.Machine

/-- COMMANDS OF ROW 11 AT THEIR TURN, R204, R216 to R220: MZERO gives +0 with count 24, MSCALE the scaled rows, MLD the loaded
rows, MST the stored rows, MMA and MMAQ the step's sums; row state and row status stay. The readings of log 41 and 42 are the
model's. -/
def Obligations.MatrixRow11Runs : Prop :=
  ∀ (s : State) (c : Nat) (q : QCmd), s.ripe c q → (∀ n, ((s.core c).accOf n).rows.length = 32 ∧ ∀ r ∈ ((s.core c).accOf n).rows, r.els.length = 32) →
    s.memWf = true →
    let k := s.core c
    let keeps := fun (t : State) (d : Nat) => (∀ i < 32, (((t.core c).accOf d).row i).m = ((k.accOf d).row i).m ∧
      (((t.core c).accOf d).row i).l = ((k.accOf d).row i).l) ∧ ((t.core c).accOf d).st = (k.accOf d).st
    let el := fun (k : Core) (d i j : Nat) => ((k.accOf d).row i).el j
    (∀ d, q.op = .mzero d → Makes (.mzeroRun c) s (fun t => MatDone s t c q ∧ keeps t d ∧ ∀ i < 32, ∀ j < 32, el (t.core c) d i j = ⟨0, 24⟩)) ∧
    (∀ d x m, q.op = .mscale d x m → Makes (.mscaleRun c) s (fun t => MatDone s t c q ∧ keeps t d ∧ ∀ i < 32, ∀ j < 32,
      el (t.core c) d i j = if m.getLsbD i then smxMul (el k d i j) x else el k d i j)) ∧
    (∀ d a dc pl, q.op = .mld d a dc pl → Makes (.mldRun c) s (fun t => MatDone s t c q ∧ keeps t d ∧ ∀ i < 32, ∀ j < 32,
      let bs := k.store.readN (lineAddr a.first i) (MDataBytes dc)
      let e := mldElem dc bs (s24Val (ofBytes (k.store.readN (dScale a.second + 3 * i) 3))) j
      (i < dRows a.second → (el (t.core c) d i j).v = e.v ∧ (pl = none → (el (t.core c) d i j).c = e.c) ∧
        (∀ p, pl = some p → (el (t.core c) d i j).c = Nat.min ((k.store.read (p.toNat + (32 * i + j))).toNat % 64) e.c)) ∧
      (i < dRows a.second → dc = .s → (el (t.core c) d i j).v = BitVec.ofNat 32 (ofBytes (k.store.readN (lineAddr a.first i + 4 * j) 4))) ∧
      (dRows a.second ≤ i → el (t.core c) d i j = el k d i j))) ∧
    (∀ d a dc, q.op = .mst d a dc none → q.hits = [] → Makes (.mstRun c) s (fun t => MatDone s t c q ∧
      (dc = .s → ∀ i < dRows a.second, i < 32 → (∀ n, i < n → n < dRows a.second → meets (lineAddr a.first i) 128 (lineAddr a.first n) 128 = false) →
        ∀ j < 32, (t.core c).store.readN (lineAddr a.first i + 4 * j) 4 = toBytes 4 (el k d i j).v.toNat))) ∧
    (∀ d a pl dc, q.op = .mst d a dc pl → Makes (.mstRun c) s (fun t => MatDone s t c q)) ∧
    (∀ f d a b n res, q.op = .mma f d a b n ∧ res = .ok → Makes (.mmaStepRun c res) s (fun t => MatDone s t c q ∧ keeps t d ∧ ∀ i < 32, ∀ j < 32,
      (i < dRows a.second → j < dRows b.second → el (t.core c) d i j = stepElem (ofMma f) (n / 4) [] []
        (nth [] (k.operand (ofMma f) false a n) i) (nth [] (k.operand (ofMma f) true b n) j) (el k d i j)) ∧
      (dRows a.second ≤ i ∨ dRows b.second ≤ j → el (t.core c) d i j = el k d i j))) ∧
    (∀ f d a b n, q.op = .mmaq f d a b n → Makes (.mmaqStepRun c .ok) s (fun t => MatDone s t c q ∧ keeps t d ∧ ∀ i < 32, ∀ j < 32,
      (i < dRows a.second → j < dRows b.second → el (t.core c) d i j = stepElem (ofQ f) (n / 32)
        (nth [] (k.scales (ofQ f) false a n) i) (nth [] (k.scales (ofQ f) true b n) j)
        (nth [] (k.operand (ofQ f) false a n) i) (nth [] (k.operand (ofQ f) true b n) j) (el k d i j)) ∧
      (dRows a.second ≤ i ∨ dRows b.second ≤ j → el (t.core c) d i j = el k d i j)))

/-- COMMANDS OF ROW 12 AT THEIR TURN, R225 to R231: SMXA's new row of O and its probabilities, SMXFIN's quotients and row
status, SMXMERGE's joined rows, SMXLD and SMXST's row state, SMXINIT's −Inf and +0. A status bit of y that nothing has written since
dispatch adds nothing in SMXMERGE. The readings of log 37, 38, 39 and 79 are the model's. -/
def Obligations.MatrixRow12Runs : Prop :=
  ∀ (s : State) (c : Nat) (q : QCmd), s.ripe c q → s.memWf = true →
    let k := s.core c
    let row := fun (k : Core) (d i : Nat) => (k.accOf d).row i
    (∀ d m, q.op = .smxinit d m → Makes (.smxinitRun c) s (fun t => MatDone s t c q ∧ ((t.core c).accOf d).st = (k.accOf d).st &&& ~~~m ∧ ∀ i < 32,
      (row (t.core c) d i).els = (row k d i).els ∧
      (m.getLsbD i = true → (row (t.core c) d i).m = ⟨0xFF800000, 0⟩ ∧ (row (t.core c) d i).l = ⟨0, 24⟩) ∧
      (m.getLsbD i = false → row (t.core c) d i = row k d i))) ∧
    (∀ d m rst, q.op = .smxfin d m rst → Makes (.smxfinRun c) s (fun t => MatDone s t c q ∧ ∀ i < 32,
      let l := (row k d i).l
      ((t.core c).accOf d).st.getLsbD i = ((k.accOf d).st.getLsbD i || (m.getLsbD i && l.fv.isZero)) ∧
      (m.getLsbD i = false → row (t.core c) d i = row k d i) ∧
      (m.getLsbD i = true →
        (∀ j < 32, (row (t.core c) d i).el j = if l.fv.isZero then ⟨0, 0⟩ else (opDiv .s 0 ((row k d i).el j).two l.two).fc) ∧
        (row (t.core c) d i).m = (if rst then ⟨0xFF800000, 0⟩ else (row k d i).m) ∧
        (row (t.core c) d i).l = (if rst then ⟨0, 24⟩ else l)))) ∧
    (∀ x y m, q.op = .smxmerge x y m → Makes (.smxmergeRun c) s (fun t => MatDone s t c q ∧
      ((t.core c).accOf x).st = (k.accOf x).st ||| ((k.accOf y).st &&& (k.accOf y).known &&& m) ∧ ∀ i < 32,
      row (t.core c) x i = if m.getLsbD i then mergeRow (row k x i) (row k y i) else row k x i)) ∧
    (∀ d off m, q.op = .smxld d off m none → Makes (.smxldRun c) s (fun t => MatDone s t c q ∧ ((t.core c).accOf d).st = (k.accOf d).st ∧ ∀ i < 32,
      (row (t.core c) d i).els = (row k d i).els ∧ (m.getLsbD i = false → row (t.core c) d i = row k d i) ∧
      (m.getLsbD i = true →
        (row (t.core c) d i).m.v = BitVec.ofNat 32 (ofBytes (k.store.readN (off.toNat + 8 * i) 4)) ∧
        (row (t.core c) d i).l.v = BitVec.ofNat 32 (ofBytes (k.store.readN (off.toNat + 8 * i + 4) 4))))) ∧
    (∀ d off m pl, q.op = .smxld d off m pl → Makes (.smxldRun c) s (fun t => MatDone s t c q)) ∧
    (∀ d off m, q.op = .smxst d off m none → q.hits = [] → Makes (.smxstRun c) s (fun t => MatDone s t c q ∧ ∀ i < 32, m.getLsbD i = true →
      (t.core c).store.readN (off.toNat + 8 * i) 8 = toBytes 4 (row k d i).m.v.toNat ++ toBytes 4 (row k d i).l.v.toNat)) ∧
    (∀ d off m pl, q.op = .smxst d off m pl → Makes (.smxstRun c) s (fun t => MatDone s t c q)) ∧
    (∀ f d x p sc e, q.op = .smxa f d x p sc e → Makes (.smxaRun c) s (fun t => MatDone s t c q ∧ ((t.core c).accOf d).st = (k.accOf d).st ∧
      (∀ i < 32, row (t.core c) d i = if i < dRows p.second then (smxRow f e sc i (row k x i) (row k d i)).1 else row k d i) ∧
      (q.hits = [] → ∀ i < dRows p.second, (∀ n, i < n → n < dRows p.second → meets (lineAddr p.first i) 64 (lineAddr p.first n) 64 = false) →
        (t.core c).store.readN (lineAddr p.first i) 64 = (smxRow f e sc i (row k x i) (row k d i)).2.flatMap (fun r => toBytes 2 r.y))))

/-- POISON, RESIDUE, COMPLETION, R192, R206, R208, R209, R221: a command with a poisoned source is discarded whole and reported once per
batch, be the report pending or gone; a residue retry gives the values of the step; a failed one changes no accumulator and no byte; no
other kind's row and no command before its time changes anything; the earliest closed batch completes when none of its commands is left, and
fills the register it armed. The readings of log 42 and 70 are the model's. -/
def Obligations.MatrixDiscardsAndBatches : Prop :=
  ∀ (s : State) (c : Nat) (q : QCmd) (rest : List QCmd) (res : Residue),
    ((s.core c).mq = q :: rest → s.mayComplete c q = true →
      (∀ src, (s.core c).badSource q.op = some src → q.ctx ≠ noCtx → Makes (runOf c res q.op) s (fun t =>
        CoreOnly s t c ∧ { t.core c with
          mq := (s.core c).mq, mqBusy := (s.core c).mqBusy, reports := (s.core c).reports, reported := (s.core c).reported } = s.core c ∧
        (t.core c).mq = rest ∧
        ((s.core c).reported.contains (q.batch, Cause.poisonOperand) = false →
          (t.core c).reported = (s.core c).reported ++ [(q.batch, Cause.poisonOperand)] ∧
          (t.core c).reports = (s.core c).reports ++ [⟨Cause.poisonOperand, q.batch, q.ctx, w64 q.pos, w64 (q.op.accs.headD 0 + 8 * src)⟩]) ∧
        ((s.core c).reported.contains (q.batch, Cause.poisonOperand) = true →
          (t.core c).reported = (s.core c).reported ∧ (t.core c).reports.length = (s.core c).reports.length))) ∧
      ((s.core c).badSource q.op = none →
        (∀ u, exec (runOf c .ok q.op) s = .next u → Makes (runOf c .retried q.op) s (fun t =>
          (t.core c).acc = (u.core c).acc ∧ (t.core c).store = (u.core c).store ∧ (t.core c).mq = rest)) ∧
        (∀ f d a b n, q.op = .mma f d a b n → Makes (.mmaStepRun c .failed) s (fun t =>
          (t.core c).acc = (s.core c).acc ∧ (t.core c).store = (s.core c).store ∧ (t.core c).mq = rest)))) ∧
    ((s.core c).mq = [] → exec (runOf c res q.op) s = .next s) ∧
    ((s.core c).mq = q :: rest → s.mayComplete c q = false → exec (runOf c res q.op) s = .next s) ∧
    ((s.core c).mq = q :: rest → ∀ op, runOf c res op ≠ runOf c res q.op → exec (runOf c res op) s = .next s) ∧
    (s.mayComplete c q = true → q.cycle + 160 ≤ (s.core c).cycle) ∧
    ((s.core c).closed = [] → exec (.matrixBatchComplete c) s = .next s) ∧
    (∀ b bs, (s.core c).closed = b :: bs →
      ((s.core c).mq.any (fun q => q.batch = b.num) = true → exec (.matrixBatchComplete c) s = .next s) ∧
      ((s.core c).mq.any (fun q => q.batch = b.num) = false → Makes (.matrixBatchComplete c) s (fun t =>
        CoreOnly s t c ∧ (t.core c).closed = bs ∧ (t.core c).lastBatch = BitVec.ofNat 32 b.num ∧ (t.core c).acc = (s.core c).acc ∧
        (t.core c).store = (s.core c).store ∧ (t.core c).mq = (s.core c).mq ∧
        (t.core c).reported = (s.core c).reported.filter (fun r => decide (r.1 ≠ b.num)) ∧
        (b.fill = none → { t.core c with
          closed := (s.core c).closed, lastBatch := (s.core c).lastBatch, reported := (s.core c).reported } = s.core c) ∧
        (∀ x r, b.fill = some (x, r) → (s.ctx c x).live = true → 0 < r → r < 32 → tget GVal.zero (t.ctx c x).g r = ⟨w64 b.num, true⟩))))

/-! ### The copy engine -/

/-- COPY COMMANDS, R267, R268, R276, R277, R282: the failed checks in their order; a command that passes enters the FIFO with
what it captured and the marks of the last XFENCE, or finds 8 there: COPYQ then parks and COPYQT gives 1. COPYS, COPYK, XFENCE, R268, R282, R283: a reserved bit
raises BOUND_CHECK; COPYS gives 0 for no transfer, 1 for one that waits, 2 with the bytes done for one that runs; COPYK ends the
named transfers with code 5 and counts them; XFENCE cleans the lines of the tile's caches and marks the writes on their way. The
reading of log 49 is the model's. -/
def Obligations.CopyCommandsAndQueries : Prop :=
  (∀ (s : State) (g : Guard) (d a b c e : GReg), s.guard g = true →
     let src := s.g a
     let dst := s.g b
     let shape := s.g c
     let ctl := s.g e
     let k := s.myCore
     let m := ctlMode ctl
     ∀ i' ∈ ([((.copyq g a b c e, [.src a, .src b, .src c, .src e]), .copyq guardAlways a b c e),
         ((.copyqt g d a b c e, [.dst d, .src a, .src b, .src c, .src e]), .copyqt guardAlways d a b c e)] :
         List ((Instr × List Opnd) × Instr)), let i := i'.1
       s.modsOk (condsOf i.2) = true →
       (s.me.phase.copy = none →
         let ok1 := bit ctl 27 = false ∧ fld ctl 3 2 ≠ 3 ∧ fld ctl 31 29 < 5 ∧ ¬(m = .scatter ∧ bit ctl 28 = true ∧ fld shape 33 32 = 2)
         (¬ok1 → Traps i.1 s Cause.boundCheck ctl 1) ∧
         (ok1 → (m = .copy ∨ m = .fill) → bit shape 63 = false → fld shape 62 32 ≠ 0 → Traps i.1 s Cause.boundCheck shape 2) ∧
         (ok1 → (m = .gather ∨ m = .scatter) → fld shape 63 34 ≠ 0 ∨ fld shape 33 32 = 3 → Traps i.1 s Cause.boundCheck shape 2) ∧
         (ok1 → m = .fill → bit shape 63 = false → fld shape 62 32 = 0 → fld shape 31 0 % 8 = 0 → dst.toNat % 8 ≠ 0 →
           Traps i.1 s Cause.boundCheck dst 3) ∧
         (∀ t, s.copyWords src dst shape ctl = some t → Raises i.1 s t) ∧
         (∀ t, s.copyWords src dst shape ctl = none → s.copyPlaces src dst shape ctl = .error t →
           (t.code ≠ Cause.tbMissCopy → Raises i.1 s t) ∧
           (t.code = Cause.tbMissCopy → TrapsWith i.1 s
             (s.modMe (fun t => { t with retry := t.retry.filter (fun e => decide (e.1 ≠ t.level)) ++ [(t.level, t.pc, i'.2)] })) t.code t.tval
               t.tstat)) ∧
         (∀ ds pos, s.copyWords src dst shape ctl = none → s.copyPlaces src dst shape ctl = .ok ds →
           k.latestMet (destOn s.cur.1 ds) = some pos → Traps i.1 s Cause.opbufInUse dst (w64 pos))) ∧
       (∀ cmd, (s.me.phase.copy = none ∧ s.copyWords src dst shape ctl = none ∧ (∃ ds, s.copyPlaces src dst shape ctl = .ok ds ∧
             k.latestMet (destOn s.cur.1 ds) = none ∧ destFar s.cur.1 ds = []) ∧ cmd = ({
               ctx := s.cur.2, src := src, dst := dst, shape := shape, ctl := ctl, handler := s.blockWord ctl 0, ilist := s.blockWord ctl 8
               tb := k.tbNow s.freeCtr, sup := s.isSup s.cur.1 s.cur.2, marks := [], started := false, done := 0, buf := []
               bufBad := [], elem := none, lookup := none, poisonAt := none, exempt := [], cancel := false, status := none } : CopyCmd)) ∨
           (s.me.phase.copy = some cmd ∧ ∃ rs, s.me.allReplies s.me.phase.ids = .ok rs ∧ replyTrap (rs.zip s.me.phase.eas) = none) →
         (k.fifo.length < 8 → ∃ u, RunsWith i.1 s u 16 i.2 { g := match i.1 with
               | .copyqt _ _ _ _ _ _ => [(d, 0)]
               | _ => [] } ∧
             CoreOnly { s with freeCtr := u.freeCtr } u s.cur.1 ∧ SameMemory s u ∧ u.myCore.fifo = k.fifo ++ [{ cmd with marks := k.xmarks }]) ∧
         (8 ≤ k.fifo.length →
           (i.1 = .copyq g a b c e → Makes i.1 s (fun t => t.me.park = some ⟨i.1, .fifo, s.gtime.toNat, false⟩ ∧ t.me.pc = s.me.pc ∧
             t.myCore.fifo = k.fifo ∧ SameMemory s t)) ∧
           (i.1 = .copyqt g d a b c e → ∃ u, RunsWith i.1 s u 16 i.2 { g := [(d, 1)] } ∧ u.myCore.fifo = k.fifo ∧ SameMemory s u)))) ∧
  (∀ (s : State) (g : Guard) (d a : GReg), s.guard g = true →
     let A := s.g a
     let k := s.myCore
     let hit := fun (q : CopyCmd) => (bit A 16 = true ∨ fld q.ctl 63 48 = fld A 15 0)
     (s.modsOk (condsOf [.dst d, .src a]) = true →
       (fld A 63 17 ≠ 0 → Traps (.copys g d a) s Cause.boundCheck A 1 ∧ Traps (.copyk g d a) s Cause.boundCheck A 1) ∧
       (fld A 63 17 = 0 →
         ((∀ q ∈ k.fifo, ¬hit q) → Runs (.copys g d a) s 8 [.dst d, .src a] { g := [(d, 0)] }) ∧
         (∀ l q r, k.fifo = l ++ q :: r → (∀ x ∈ l, ¬hit x) → hit q → Runs (.copys g d a) s 8 [.dst d, .src a]
           { g := [(d, if q.started then w64 (2 + q.done * 2 ^ 8) else 1)] }) ∧
         (∃ u n, RunsWith (.copyk g d a) s u 8 [.dst d, .src a] { g := [(d, w64 n)] } ∧ CoreOnly s u s.cur.1 ∧ SameMemory s u ∧
           n = (k.fifo.filter (fun q => names A q && q.status.isNone && !q.cancel)).length ∧
           u.myCore.fifo.length = k.fifo.length ∧ (n = 0 → u.myCore.fifo = k.fifo) ∧
           ∀ (j : Nat) (q : CopyCmd), k.fifo[j]? = some q → let runs := hit q ∧ q.status = none ∧ q.cancel = false
             (runs → q.buf = [] → u.myCore.fifo[j]? = some { q with status := some (copyStatus 5 q.done) }) ∧
             (runs → q.buf ≠ [] → u.myCore.fifo[j]? = some { q with cancel := true }) ∧
             (¬runs → u.myCore.fifo[j]? = some q)))) ∧
     (∃ u, RunsWith (.xfence g) s u 8 [] {} ∧ SameMemory s u ∧ u.myCore.fifo = k.fifo ∧
       (∀ n ∈ s.cacheCores s.cur.1, ∀ l ∈ (u.core n).cache, l.loc = false → l.dirty = false) ∧
       (∀ n, (u.core n).cache.map (fun l => l.line) = (s.core n).cache.map (fun l => l.line)) ∧
       (∀ m ∈ u.inFlight, (∃ wb wt pz, m.kind = .unit wb wt pz) → m.core = s.cur.1 → m.ctx ≠ engineCtx → m.id ∈ u.myCore.xmarks) ∧
       (∀ m ∈ s.inFlight, m.kind.isWb = true → m.core ∈ s.cacheCores s.cur.1 → m.id ∈ u.myCore.xmarks)))

namespace Sys2Proof.Machine

/-- The place from which byte `pos` of a copy comes, and that to which it goes (R273): row and column by the shape's row length, rows by the
side's stride; a plain shape has one row. -/
def copySrc (src shape : Word) (pos : Nat) : Word :=
  if bit shape 63 then
    src + w64 (pos / (fld shape 50 34 + 1) * fld shape 33 17 + pos % (fld shape 50 34 + 1))
  else src + w64 pos
def copyDst (dst shape : Word) (pos : Nat) : Word :=
  if bit shape 63 then
    dst + w64 (pos / (fld shape 50 34 + 1) * fld shape 16 0 + pos % (fld shape 50 34 + 1))
  else dst + w64 pos

/-- Bytes of a row of a shape, and of the whole transfer (R273). -/
def copyRow (shape : Word) : Nat := if bit shape 63 then fld shape 50 34 + 1 else fld shape 31 0
def copyTotal (shape : Word) : Nat := if bit shape 63 then (fld shape 62 51 + 1) * (fld shape 50 34 + 1) else fld shape 31 0

/-- The engine of core c reads n bytes, the next of `left` that it wants there, from the place `r`, and keeps them with their poison; a place that
is away for now is tried again, one that is absent or refused ends the transfer as `stop` says (R278 to R280). -/
def EngineReads (s : State) (c left n : Nat) (r : Reach × State) (stop : Nat → State) : Prop :=
  match r.1 with
  | .at p => match r.2.engineRead c p n with
    | none => exec (.copyTransferStart c) s = .next r.2
    | some (bs, pz, u) => exec (.copyTransferStart c) s = .next (u.modHead c (fun q => { q with
        buf := q.buf ++ bs, bufBad := q.bufBad ++ (if pz then (List.range bs.length).map (q.buf.length + ·) else [])
        elem := if n = left then none else q.elem }))
  | .stall => exec (.copyTransferStart c) s = .next r.2
  | .absent => exec (.copyTransferStart c) s = .next (stop 1)
  | .bad => exec (.copyTransferStart c) s = .next (stop 2)

/-- The engine of core c writes bytes as one unit to the place `r`; `done` gives the state once they are written (R278 to R280, R372). -/
def EngineWrites (s : State) (c : Nat) (r : Reach × State) (bs : List Byte) (poison clr : Bool) (done : State → State)
    (stop : State → Nat → State) : Prop :=
  match r.1 with
  | .at p => match r.2.engineWrite c p bs poison clr with
    | none => exec (.copyTransferStart c) s = .next (r.2.engineWants c p)
    | some u => exec (.copyTransferStart c) s = .next (done u)
  | .stall => exec (.copyTransferStart c) s = .next r.2
  | .absent => exec (.copyTransferStart c) s = .next (stop r.2 1)
  | .bad => exec (.copyTransferStart c) s = .next (stop r.2 2)

/-- A unit of a transfer is done: n more bytes or elements of `total`, k bytes of the buffer used, a poisoned byte at `bad`; the status at the
end is 0, or 3 with the place of the first poisoned byte, or 5 with what is done where COPYK has ended it (R280, R282). -/
def CopyCmd.step (q : CopyCmd) (n total k : Nat) (bad : Option Nat) : CopyCmd :=
  let at' := if q.poisonAt.isSome then q.poisonAt else bad
  let done := q.done + n
  { q with
    done := done, buf := q.buf.drop k, elem := none, poisonAt := at'
    bufBad := q.bufBad.filterMap (fun b => if k ≤ b then some (b - k) else none)
    status := if q.cancel then some (w64 (5 + done % 2 ^ 40 * 2 ^ 8))
      else if total ≤ done then some (match at' with
        | none => 0
        | some p => w64 (3 + p % 2 ^ 40 * 2 ^ 8)) else q.status }

end Sys2Proof.Machine

/-- TRANSFERS, R268, R269, R272 to R275, R278 to R282: nothing moves before an XFENCE's writes are applied; a copy of any shape, from
and to any place, reads its bytes by 4-byte elements and writes those of one destination piece of a row at once, a fill writes its word; a
gather reads an index, the element that it names and writes that to the next packed place, a scatter reads the next packed element and writes
it to, or combines it with, the one named; what is read from memory is what a device-scope read finds, what is written to it stands at the home
slice; no other byte changes, the status is 0 at the end and says so where COPYK has ended it; a transfer of length 0 only ends; completion
waits for the engine's writes and for room in the event queue, and delivers the status by mode: none on success, a fill of a register, or an
event. The readings of log 26, 49 and 81 are the model's. -/
def Obligations.CopyTransfersMove : Prop :=
  (∀ (s : State) (c : Nat) (q : CopyCmd) (qs : List CopyCmd), (s.core c).fifo = q :: qs → q.status = none →
     q.started = true ∨ (s.unheld c q = true ∧ s.frozen c = false) →
     let h := s.modHead c (fun q => { q with started := true, lookup := none })
     let ended := fun (u : State) (code : Nat) => u.modHead c (fun r => { r with status := some (w64 (code + q.done % 2 ^ 40 * 2 ^ 8)) })
     (ctlMode q.ctl = .copy ∨ ctlMode q.ctl = .fill → q.done < copyTotal q.shape →
       let dest := copyDst q.dst q.shape q.done
       let pos := q.done + q.buf.length
       let n := Nat.min (copyRow q.shape - q.done % copyRow q.shape) (64 - dest.toNat % 64)
       let reads := fun (u : State) (left : Nat) =>
         let m := Nat.min left (4 - (copySrc q.src q.shape pos).toNat % 4)
         EngineReads s c left m (u.engineAt c q .load (copySrc q.src q.shape pos) m false) (ended u)
       let writes := fun (u : State) =>
         let bad := q.bufBad.find? (fun b => decide (b < n))
         let bs := if ctlMode q.ctl = .fill then (List.range n).map (fun i =>
           BitVec.ofNat 8 (q.src.toNat / 2 ^ (8 * ((q.done % copyRow q.shape + i) % 8)))) else q.buf.take n
         EngineWrites s c (u.engineAt c q .store dest n false) bs bad.isSome true
           (fun v => v.modHead c (fun r => r.step n (copyTotal q.shape) n (bad.map (· + q.done)))) ended
       (ctlMode q.ctl = .fill → writes h) ∧
       (ctlMode q.ctl = .copy → h.copyAlias c q pos = none →
         (q.buf.length < n → reads h (n - q.buf.length)) ∧
         (n ≤ q.buf.length → copyTotal q.shape ≤ pos ∨ q.cancel = true → writes h) ∧
         (n ≤ q.buf.length → pos < copyTotal q.shape → q.cancel = false →
           reads h.freeNext (copyRow q.shape - pos % copyRow q.shape) ∨ writes h.freeNext))) ∧
     (ctlMode q.ctl = .gather ∨ ctlMode q.ctl = .scatter → q.done < fld q.shape 31 0 → fld q.shape 33 32 ≠ 3 →
       let n := ([4, 8, 64] : List Nat)[fld q.shape 33 32]?.getD 4
       let gather := decide (ctlMode q.ctl = .gather)
       let entry := q.ilist + w64 (4 * q.done)
       let named := (if gather then q.src else q.dst) + w64 (ofBytes (q.buf.take 4) * n)
       let packed := (if gather then q.dst else q.src) + w64 (q.done * n)
       let from' := if gather then named else packed
       let b := q.buf.length
       (b < 4 →
         let m := Nat.min (4 - b) (4 - (entry + w64 b).toNat % 4)
         EngineReads s c (4 - b) m (h.engineElem c q .load (entry + w64 b) (4 - b)) (fun code => h.stopAt c q code entry)) ∧
       (4 ≤ b → (∃ x ∈ q.bufBad, x < 4) → exec (.copyTransferStart c) s = .next (h.stopAt c q 3 entry)) ∧
       (4 ≤ b → b < 4 + n → (∀ x ∈ q.bufBad, 4 ≤ x) →
         let a := from' + w64 (b - 4)
         let m := Nat.min (4 + n - b) (4 - a.toNat % 4)
         EngineReads s c (4 + n - b) m (if gather then h.engineElem c q .load a (4 + n - b) else h.engineAt c q .load a m false)
           (fun code => h.stopAt c q code from')) ∧
       (4 + n ≤ b → q.bufBad ≠ [] → (∀ x ∈ q.bufBad, 4 ≤ x) → exec (.copyTransferStart c) s = .next (h.stopAt c q 3 from')) ∧
       (4 + n ≤ b → q.bufBad = [] → gather = true ∨ bit q.ctl 28 = false →
         let to_ := if gather then packed else named
         EngineWrites s c (if gather then h.engineAt c q .store to_ n false else h.engineElem c q .store to_ n) (q.buf.drop 4) false false
           (fun u => u.modHead c (fun r => r.step 1 (fld q.shape 31 0) (4 + n) none)) (fun v code => v.stopAt c q code to_)) ∧
       (4 + n ≤ b → q.bufBad = [] → gather = false → bit q.ctl 28 = true →
         ∀ p u, h.engineElem c q .store named n = (.at p, u) →
           (u.engineAtomic c p n (fun a old => atomCells (scatterOp (fld q.ctl 31 29) n (wordOf (q.buf.drop 4))) a old) = none →
             exec (.copyTransferStart c) s = .next (u.engineWants c p)) ∧
           (∀ pz v, u.engineAtomic c p n (fun a old => atomCells (scatterOp (fld q.ctl 31 29) n (wordOf (q.buf.drop 4))) a old) = some (pz, v) →
             exec (.copyTransferStart c) s = .next (if pz then v.stopAt c q 3 named
               else v.modHead c (fun r => r.step 1 (fld q.shape 31 0) (4 + n) none)))))) ∧
  (∀ (s : State) (c t off n p pa : Nat) (bs : List Byte) (pz : Bool) (u : State),
     ((s.core t).unsettled off n = false → s.engineRead t (.own off) n = some ((s.core t).store.readN off n, (s.core t).poisoned off n, s) ∧
       ∀ a ∈ ([.tile t off, .role t off] : List At), s.engineRead c a n = some ((s.core t).store.readN off n, (s.core t).poisoned off n, s)) ∧
     (pa % 64 + n ≤ 64 → 0 < n → s.engineRead c (.mem p pa) n = some (bs, pz, u) →
       bs = ((s.peekPiece (dieOf c) p pa).1.drop (pa % 64)).take n ∧ pz = (s.peekPiece (dieOf c) p pa).2) ∧
     (∀ clr pl, (s.part p).place pa = some pl → pa % 64 + bs.length ≤ 64 → s.engineWrite c (.mem p pa) bs pz clr = some u →
       (u.current (s.homeSlice pl pa) pl).1 = overlay (pa / 64 * 64) (s.current (s.homeSlice pl pa) pl).1 (cellsAt pa bs))) ∧
  ∀ (s : State) (c : Nat) (q : CopyCmd) (qs : List CopyCmd),
    ((s.core c).fifo = [] → exec (.copyTransferStart c) s = .next s ∧ exec (.copyTransferComplete c) s = .next s) ∧
    ((s.core c).fifo = q :: qs →
      (q.status ≠ none → exec (.copyTransferStart c) s = .next s) ∧
      (q.started = false → s.unheld c q = false ∨ s.frozen c = true → exec (.copyTransferStart c) s = .next s) ∧
      (q.status = none → q.started = true ∨ (s.unheld c q = true ∧ s.frozen c = false) →
        let n := fld q.shape 31 0
        let so := fld q.src 20 0
        let o := fld q.dst 20 0
        let k := s.core c
        (ctlMode q.ctl = .copy → bit q.shape 63 = false → n = 0 → Makes (.copyTransferStart c) s (fun t => CoreOnly s t c ∧
          (t.core c).store = k.store ∧ (t.core c).fifo = { q with started := true, lookup := none, status := some 0 } :: qs)) ∧
        (bit q.shape 63 = false → 0 < n → q.done = 0 → ctlMode q.ctl = .copy → fld q.src 63 60 = 0xE → fld q.src 59 48 = 0xFFF →
          fld q.dst 63 60 = 0xE → fld q.dst 59 48 = 0xFFF → o % 64 + n ≤ 64 → so % 64 + n ≤ 64 → meets so n o n = false →
          q.buf.length < n → k.splitChange = none →
          let m := Nat.min (n - q.buf.length) (4 - (so + q.buf.length) % 4)
          k.unsettled (so + q.buf.length) m = false → Makes (.copyTransferStart c) s (fun t => CoreOnly s t c ∧ (t.core c).store = k.store ∧
            (t.core c).fifo = { q with
              started := true, lookup := none, buf := q.buf ++ k.store.readN (so + q.buf.length) m
              bufBad := q.bufBad ++ (if k.poisoned (so + q.buf.length) m then (List.range m).map (q.buf.length + ·) else [])
              elem := if m = n - q.buf.length then none else q.elem } :: qs)) ∧
        (bit q.shape 63 = false → 0 < n → q.done = 0 → q.poisonAt = none → q.bufBad = [] → fld q.dst 63 60 = 0xE → fld q.dst 59 48 = 0xFFF →
          o % 64 + n ≤ 64 → k.roleNum = none → k.splitChange = none → k.latestMet [(o / 64 * 64, 64)] = none →
          (∀ m ∈ s.net, m.kind.store? ≠ some c) → s.memWf = true →
          ctlMode q.ctl = .copy ∧ q.buf.length = n ∨ ctlMode q.ctl = .fill → Makes (.copyTransferStart c) s (fun t => CoreOnly s t c ∧
            (t.core c).fifo = { q with
              started := true, lookup := none, elem := none, done := n, buf := q.buf.drop n
              status := some (if q.cancel then copyStatus 5 n else 0) } :: qs ∧
            ∀ a, (t.core c).store.read a =
              if o ≤ a ∧ a < o + n then
                (if ctlMode q.ctl = .fill then BitVec.ofNat 8 (q.src.toNat / 2 ^ (8 * ((a - o) % 8))) else nth 0 q.buf (a - o))
              else k.store.read a))) ∧
      (q.status = none → exec (.copyTransferComplete c) s = .next s) ∧
      (∀ st, q.status = some st →
        (s.engineDone c = false ∨ s.eventWaits c q st = true → exec (.copyTransferComplete c) s = .next s) ∧
        (s.engineDone c = true → s.eventWaits c q st = false →
          let u := (s.modCore c (fun k => { k with fifo := qs })).settleCopy c
          { u with cores := s.cores, msgCtr := s.msgCtr } = s ∧
          (∀ d, { u.core d with fresh := (s.core d).fresh, fifo := (s.core d).fifo } = s.core d ∧
            (∀ b ∈ (u.core d).fresh, b.by_ = c → b.ended ≠ none) ∧
            (u.core d).fresh.map (fun b => b.off) = (s.core d).fresh.map (fun b => b.off)) ∧
          let id : Word := w64 (fld q.ctl 63 48)
          (fld q.ctl 3 2 = 0 → st = 0 → exec (.copyTransferComplete c) s = .next u) ∧
          (fld q.ctl 3 2 = 0 ∨ fld q.ctl 3 2 = 2 → st ≠ 0 →
            exec (.copyTransferComplete c) s = .next (u.post c q.ctx ⟨Cause.copyError, id, st, none, some (id, st)⟩)) ∧
          (fld q.ctl 3 2 = 2 → st = 0 →
            exec (.copyTransferComplete c) s = .next (u.post c q.ctx ⟨Cause.copyDone, id, 0, some q.handler, some (id, 0)⟩)) ∧
          (fld q.ctl 3 2 = 1 → bit q.ctl 26 = false → (s.ctx c q.ctx).live = true → 0 < fld q.ctl 9 4 → fld q.ctl 9 4 < 32 →
            Makes (.copyTransferComplete c) s (fun t => CoreOnly u t c ∧ (t.core c).fifo = qs ∧
              tget GVal.zero (t.ctx c q.ctx).g (fld q.ctl 9 4) = ⟨st, true⟩ ∧
              ∀ n, n ≠ fld q.ctl 9 4 → tget GVal.zero (t.ctx c q.ctx).g n = tget GVal.zero (s.ctx c q.ctx).g n)))))

/-! ### Signals, roles, couches -/

/-- SIGNAL, R333 to R336: the failed checks with their TSTAT; reach 0 waits for the thread's stores and then fills the register
of a context of the own tile, which a context without a thread discards; reach 1 sends the fill to the gang tile and completes
when it is accepted; reach 2 is a posted domain operation that adds 1 to RFCOUNT. Where it waits, the operands stay those of its issue. The
readings of log 53 and 66 are the model's. -/
def Obligations.SignalFillsOrTravels : Prop :=
  ∀ (s : State) (g : Guard) (a b c : GReg), s.guard g = true → s.modsOk (condsOf [.src a, .src b, .src c]) = true →
    let i := Instr.signal g a b c
    let os : List Opnd := [.src a, .src b, .src c]
    let w := s.g a
    let reach := fld w 1 0
    let tile := fld w 29 18
    let ctx := fld w 13 10
    let reg := fld w 9 4
    let form := fld w 31 30 = 0 ∧ fld w 17 14 = 0 ∧ fld w 3 2 = 0 ∧ reach ≠ 3 ∧ reg ≤ 47
    let place := (reach = 0 → tile = 0xFFF) ∧ (reach ≠ 2 → fld w 63 32 = 0) ∧ (reach = 2 → fld w 63 32 ≠ 0)
    let range := (reach = 1 → tile = 0xFFF ∨ tile < s.myCore.gangSize) ∧ (reach ≠ 2 → ctx < s.threadCount s.cur.1)
    let dev := (reach ≠ 2 → s.g c = 0) ∧ (reach = 2 → fld (s.g c) 63 14 = 0)
    let issues := s.me.phase.step = 0
    (issues → ¬form → Traps i s Cause.boundCheck w 1) ∧ (issues → form → ¬place → Traps i s Cause.boundCheck w 2) ∧
    (issues → form → place → ¬range → Traps i s Cause.boundCheck w 3) ∧
    (issues → form → place → range → ¬dev → Traps i s Cause.boundCheck w 4) ∧
    (issues → form → place → range → dev →
      (reach = 0 →
        (s.storesDone s.cur.1 s.cur.2 false s.msgCtr = false → Makes i s (fun t =>
          t.me.park.map (fun p => p.w) = some (.stores false s.msgCtr) ∧ t.me.phase.eas = [w.toNat, (s.g b).toNat] ∧
          t.me.pc = s.me.pc ∧ SameMemory s t ∧ ∀ n, t.gval n = s.gval n)) ∧
        (s.storesDone s.cur.1 s.cur.2 false s.msgCtr = true →
          RunsWith i s ((s.consumeAll os).fill s.cur.1 ctx reg (s.g b)) 12 [] {} ∧
          ((s.ctx s.cur.1 ctx).live = false → RunsWith i s (s.consumeAll os) 12 [] {}) ∧
          ((s.ctx s.cur.1 ctx).live = true → 0 < reg → reg < 32 → Makes i s (fun t =>
            tget GVal.zero (t.ctx s.cur.1 ctx).g reg = ⟨s.g b, true⟩)))) ∧
      (reach = 1 → s.fresh = true → s.storesDone s.cur.1 s.cur.2 true s.msgCtr = true → s.myCore.pool = true → Makes i s (fun t =>
        t.net = s.net ++ [s.tileMsg s.cur.1 s.cur.2 s.msgCtr (.fill ((s.gangTile s.cur.1 tile).getD s.cur.1) ctx reg (s.g b)) s.myPart 0 []] ∧
        t.me.park.map (fun p => p.w) = some (.reply s.msgCtr) ∧ t.me.pc = s.me.pc)) ∧
      (reach = 2 → RunsWith i s ((s.sendDomain (s.g c).toNat 0 (.signal w (s.g b))).modMe (fun t => { t with rfcount := t.rfcount + 1 })) 12 os {})) ∧
    (∀ w' v' : Word, s.me.phase.step = 1 → s.me.phase.eas = [w'.toNat, v'.toNat] → fld w' 1 0 = 0 →
      s.storesDone s.cur.1 s.cur.2 false s.me.phase.mark = true →
      RunsWith i s ((s.consumeAll os).fill s.cur.1 (fld w' 13 10) (fld w' 9 4) v') 12 [] {}) ∧
    (∀ rs, s.out = true → s.me.allReplies s.me.phase.ids = .ok rs → replyTrap (rs.zip s.me.phase.eas) = none → RunsWith i s s 12 os {})

/-- ROLE REQUESTS, R28, R305 to R309, R312, R338, R339: LEASE, RENEW, UNLEASE, ROLEQ and ROLEREQ raise BOUND_CHECK on a nonzero A[63:16],
ROLEREQ on a request that is none, and otherwise send their operands to the role map and park until it replies. The reply to role n, value
B and GTIME `at'`, which was that of the issue, gives the status and changes the entry only where it is 0 or the tick, a lease that ends or moves
taking back its warnings; ROLEQ gives the entry. NOTEACK removes the notices of its identifier. The readings of log 53 and 58 are the model's. -/
def Obligations.RoleRequestsAnswer : Prop :=
  ∀ (s : State) (g : Guard) (d a b : GReg) (warn drop : Bool), s.guard g = true →
    let A := s.g a
    let now := s.gtime.toNat
    let P := s.part s.myPart
    let me := s.myCore.taskId
    let osd : List Opnd := [.dst d, .src a]
    let osb : List Opnd := [.dst d, .src a, .src b]
    let two : List Instr := [.lease g d a b warn, .renew g d a b, .rolereq g d a b]
    let one : List Instr := [.unlease g d a drop, .roleq g d a]
    let request := fld (s.g b) 63 32 = 0 ∧ fld (s.g b) 15 2 = 0 ∧ (fld (s.g b) 1 0 = 1 ∨ fld (s.g b) 1 0 = 2)
    let sent := fun (B : Nat) => s.sent 4 [] [fld A 15 0, B, now]
    (s.out = false → s.modsOk (condsOf osb) = true →
      (fld A 63 16 ≠ 0 → ∀ i ∈ two, Traps i s Cause.boundCheck A 1) ∧
      (fld A 63 16 = 0 → ¬request → Traps (.rolereq g d a b) s Cause.boundCheck (s.g b) 2) ∧
      (fld A 63 16 = 0 → ∀ i ∈ two, i ≠ .rolereq g d a b ∨ request → exec i s = .next ((sent (s.g b).toNat).parkOn i .served))) ∧
    (s.out = false → s.modsOk (condsOf osd) = true →
      (fld A 63 16 ≠ 0 → ∀ i ∈ one, Traps i s Cause.boundCheck A 1) ∧
      (fld A 63 16 = 0 → ∀ i ∈ one, exec i s = .next ((sent 0).parkOn i .served))) ∧
    (∀ n B at', s.out = true → s.me.phase.eas = [n, B, at'] → B < 2 ^ 64 →
      let gives := fun (i : Instr) (os : List Opnd) (u : State) (v : Word) => RunsWith i s u 8 os { g := [(d, v)] }
      let role := fun (f : Role → Role) => s.modPart s.myPart (fun p => p.modRole n f)
      let near := B < at' + 20000 ∨ at' + 50000000 < B
      (P.role n = none →
        (s.modsOk (condsOf osb) = true → gives (.lease g d a b warn) osb s 1 ∧ gives (.renew g d a b) osb s 5 ∧
          gives (.rolereq g d a b) osb s 0x8000000000000001) ∧
        (s.modsOk (condsOf osd) = true → gives (.unlease g d a false) osd s 5 ∧ gives (.unlease g d a true) osd s 6 ∧
          gives (.roleq g d a) osd s 0)) ∧
      (∀ r, P.role n = some r → r.expiry.all (fun e => decide (now < e)) = true →
        let mine := r.holder = some me
        let leased := mine ∧ r.expiry.isSome = true
        let ended := fun (r : Role) => ({ r with expiry := none, warn := false, warned := false } : Role)
        let lapsed := fun (f : Role → Role) => (s.withdraw r 0).modPart s.myPart (fun p => p.modRole n f)
        (s.modsOk (condsOf osb) = true →
          (r.holder ≠ none → ¬mine → gives (.lease g d a b warn) osb s 2) ∧
          (leased → gives (.lease g d a b warn) osb s 4) ∧
          (r.holder = none ∨ mine → ¬leased → near → gives (.lease g d a b warn) osb s 3) ∧
          (r.holder = none ∨ mine → ¬leased → ¬near →
            (64 ≤ (P.leased now me).length → gives (.lease g d a b warn) osb s 6) ∧
            ((P.leased now me).length < 64 → gives (.lease g d a b warn) osb (role (fun r =>
              { r with holder := some me, expiry := some B, warn := warn, warned := false, leaser := s.agent s.cur.1 s.cur.2 })) 0)) ∧
          (¬leased → gives (.renew g d a b) osb s 5) ∧ (leased → near → gives (.renew g d a b) osb s 3) ∧
          (leased → ¬near →
            gives (.renew g d a b) osb ((if r.expiry = some B then s else s.unraise r).modPart s.myPart (fun p => p.modRole n (fun r =>
              if r.expiry = some B then r else { r with expiry := some B, warned := false }))) 0) ∧
          (¬mine → gives (.rolereq g d a b) osb s 0x8000000000000001) ∧
          (mine → nfld B 1 0 = 1 → r.req ≠ none → gives (.rolereq g d a b) osb s 0x8000000000000003) ∧
          (mine → nfld B 1 0 = 1 → r.req = none →
            ∃ tick, at' + 10000 ≤ tick ∧ tick < at' + 10000 + censusTicks P.censusctl ∧ tick % censusTicks P.censusctl = 0 ∧
              gives (.rolereq g d a b) osb (role (fun r => { r with req := some ⟨1, nfld B 31 16, tick⟩ })) (w64 tick))) ∧
        (s.modsOk (condsOf osd) = true →
          (¬leased → gives (.unlease g d a false) osd s 5) ∧ (leased → gives (.unlease g d a false) osd (lapsed ended) 0) ∧
          (¬mine → gives (.unlease g d a true) osd s 6) ∧ (mine → r.req ≠ none → gives (.unlease g d a true) osd s 7) ∧
          (mine → r.req = none → gives (.unlease g d a true) osd (lapsed (fun r => { ended r with holder := none })) 0) ∧
          (leased → ∀ c, s.seat r.leaser = some c →
            (∀ e ∈ (s.ctx c r.leaser.ctx).events, ¬(e.code = Cause.leaseExpired ∧ e.tval = w64 n)) →
            ∀ e ∈ ((lapsed ended).ctx c r.leaser.ctx).events, ¬(e.code = Cause.leaseExpiring ∧ e.tval = w64 n)) ∧
          ∃ v, gives (.roleq g d a) osd s v ∧ (r.refusals < 16 → r.tile.getD 0x7FF < 2048 →
            fld v 63 62 = (if r.storage then 1 else 2) ∧ (bit v 61 = true ↔ leased) ∧ bit v 60 = r.changing ∧ fld v 59 56 = r.refusals ∧
            fld v 42 32 = r.tile.getD 0x7FF ∧ (bit v 31 = true ↔ mine))))) ∧
    (s.modsOk (condsOf [.src a]) = true → RunsWith (.noteack g a) s (s.modMyCore (fun k =>
      { k with notices := k.notices.filter (fun e => decide (fld e.1 15 0 ≠ fld A 15 0)) })) 8 [.src a] {})

/-- COUCHES AT ISSUE, R340, R343, R344: a stack number above 7 and a missing right raise their causes; COUCH empties d and
begins step 1, or, where a couch is in progress, fills d with status 1; COUCHS gives the right, the step and the owner. The
reading of log 68 is the model's. -/
def Obligations.CouchesBegin : Prop :=
  ∀ (s : State) (g : Guard) (d a : GReg) (ev : Bool), s.guard g = true → s.modsOk (condsOf [.dst d, .src a]) = true →
    let A := s.g a
    let n := A.toNat
    let me := s.agent s.cur.1 s.cur.2
    let right := (s.part s.myPart).stackright.getLsbD n
    (7 < n → Traps (.couch g d a ev) s Cause.boundCheck A 1 ∧ Traps (.couchs g d a) s Cause.boundCheck A 1) ∧
    (n ≤ 7 → right = false → Traps (.couch g d a ev) s Cause.stackRight A 0) ∧
    (n ≤ 7 → right = true →
      let r := s.consumeAll [.dst d, .src a]
      let e := r.setFullG d.num.toNat false
      ((s.stack n).couch = none →
        RunsWith (.couch g d a true) s (r.modStack n (fun k => { k with couch := some ⟨1, me, none, s.msgCtr, []⟩ })) 8 [] {} ∧
        RunsWith (.couch g d a false) s (e.modStack n (fun k => { k with couch := some ⟨1, me, some d.num.toNat, s.msgCtr, []⟩ })) 8 [] {}) ∧
      ((s.stack n).couch ≠ none → s.seat me = some s.cur.1 → me.ctx = s.cur.2 →
        let st : Word := w64 (1 + n * 2 ^ 8 + b2n (s.stack n).own * 2 ^ 11)
        RunsWith (.couch g d a true) s (r.post s.cur.1 s.cur.2 ⟨Cause.couchDone, w64 n, st, none, none⟩) 8 [] {} ∧
        RunsWith (.couch g d a false) s (e.fill s.cur.1 s.cur.2 d.num.toNat st) 8 [] {})) ∧
    (n ≤ 7 → RunsWith (.couchs g d a) s s 8 [.dst d, .src a] { g := [(d, w64 (b2n right * 32 + ((s.stack n).couch.elim 0 (fun q => q.step)) * 4 +
      b2n (s.stack n).couch.isSome * 2 + b2n (s.stack n).own))] })

/-! ### Exceptions, control registers, translation, ranges -/

namespace Sys2Proof.Machine

/-- A context with g24 to g31 and a shadow set exchanged between `s` and `t`, every other g register as it was (R247). -/
def swapped (g g' sh sh' : Table GVal) : Prop :=
  (∀ n, 24 ≤ n → n ≤ 31 → tget GVal.zero g' n = tget GVal.zero sh n ∧ tget GVal.zero sh' n = tget GVal.zero g n) ∧
  (∀ n, n < 24 ∨ 31 < n → tget GVal.zero g' n = tget GVal.zero g n)

end Sys2Proof.Machine

/-- TAKING AN EXCEPTION, R33, R90, R246 to R248: at level 0 a cause goes to TVEC at level 1, or, delegated or with TVEC 0, to SVCVEC
at level 2 with the T registers saved in the H registers; at level 1 any cause is HANDLER_NESTED; with SVCVEC 0, or at level 2,
the context is held and the barriers it has not reached abort, which the gang's other tiles know. No other context, no other core, no
memory and nothing else of the device changes. The readings of log 23 and 51 are the model's. -/
def Obligations.ExceptionsAreTaken : Prop :=
  ∀ (s : State) (c x code : Nat) (tval tstat tepc : Word), code < 64 →
    let u := s.ctx c x
    let t := (s.raise c x code tval tstat tepc).ctx c x
    let vec := (s.part (s.partOf c x)).svcvec
    let sup := bit u.tdeleg code = true ∨ u.tvec = 0
    let saved := t.hcause = u.tcause ∧ t.hval = u.tval ∧ t.hepc = u.tepc ∧ t.hstat = u.tstat
    let kept := t.hcause = u.hcause ∧ t.hval = u.hval ∧ t.hepc = u.hepc ∧ t.hstat = u.hstat
    t.tval = tval ∧ t.tstat = tstat ∧ t.tepc = tepc ∧ SameMemory s (s.raise c x code tval tstat tepc) ∧
    (∀ d y, d ≠ c ∨ y ≠ x → (s.raise c x code tval tstat tepc).ctx d y = s.ctx d y) ∧
    (let w := s.raise c x code tval tstat tepc
     let holds := u.level = .l2 ∨ (vec = 0 ∧ (u.level = .l1 ∨ sup))
     let bare := fun (q : Part) => q.window.map (fun k => { k with gbar := ⟨0, [], none, none⟩ })
     (¬holds → CtxOnly s w c x) ∧
     (holds → CoresKept s w c ∧ { w.core c with ctxs := [], bar := (s.core c).bar } = { s.core c with ctxs := [] } ∧
       { w with cores := s.cores, parts := s.parts } = s ∧
       (∀ p, { w.part p with window := (s.part p).window } = s.part p ∧ bare (w.part p) = bare (s.part p)) ∧
       (x < s.threadCount c → (s.core c).bar.aborted = none → (s.core c).bar.arrived.contains (s.gangWide c x) = false →
         BarsTile s w c ((s.core c).bar.gen, s.gangWide c x)))) ∧
    (u.level = .l0 → ¬sup → t.tcause = w64 code ∧ t.level = .l1 ∧ t.pc = u.tvec ∧ kept ∧ swapped u.g t.g u.ushadow t.ushadow ∧
      t.sshadow = u.sshadow ∧ t.state = u.state) ∧
    (u.level = .l0 → sup → vec ≠ 0 → t.tcause = w64 code ∧ t.level = .l2 ∧ t.pc = vec ∧ saved ∧ swapped u.g t.g u.sshadow t.sshadow ∧
      t.ushadow = u.ushadow ∧ t.state = u.state) ∧
    (u.level = .l0 → sup → vec = 0 → t.tcause = w64 code ∧ t.state = .held ∧ t.level = .l0 ∧ t.g = u.g ∧ t.pc = u.pc) ∧
    (u.level = .l1 → vec ≠ 0 → t.tcause = w64 (0x0F + code * 0x100 + 0x10000) ∧ t.level = .l2 ∧ t.pc = vec ∧ saved ∧
      swapped u.g t.g u.sshadow t.sshadow ∧ t.ushadow = u.ushadow ∧ t.state = u.state) ∧
    (u.level = .l1 → vec = 0 → t.tcause = w64 (0x0F + code * 0x100 + 0x10000) ∧ t.state = .held) ∧
    (u.level = .l2 → t.tcause = w64 (code + 0x20000) ∧ t.state = .held ∧ t.level = .l2 ∧ kept ∧ t.g = u.g ∧ t.pc = u.pc)

/-- SVC, BRK, TRET, R247, R254, R255: SVC completes and then raises SERVICE_CALL with TEPC at the next instruction; BRK raises
BREAKPOINT at itself; TRET at level 0, with a bad return level or a misaligned TEPC, raises its cause, and otherwise restores
the level below. The reading of log 24 is the model's. -/
def Obligations.CallsAndReturns : Prop :=
  ∀ (s : State) (g : Guard) (i23 : BitVec 23), s.guard g = true →
    let u := s.me
    let next := s.modMe (fun t => t.settle (u.pc + 8))
    exec (.svc g i23) s = .next (next.raise s.cur.1 s.cur.2 Cause.serviceCall (i23.signExtend 64) 0 (next.following s.cur.1 s.cur.2 (u.pc + 8))) ∧
    Traps (.brk g i23) s Cause.breakpoint (i23.signExtend 64) 0 ∧
    (u.level = .l0 → Traps (.tret g) s Cause.boundCheck u.tepc 1) ∧
    (u.level = .l2 → 2 ≤ fld u.tcause 17 16 → Traps (.tret g) s Cause.boundCheck u.tcause 2) ∧
    (u.level ≠ .l0 → (u.level = .l2 → fld u.tcause 17 16 ≤ 1) → u.tepc.toNat % 4 ≠ 0 → Traps (.tret g) s Cause.pcMisaligned u.tepc 0) ∧
    (u.level ≠ .l0 → (u.level = .l2 → fld u.tcause 17 16 ≤ 1) → u.tepc.toNat % 4 = 0 → Makes (.tret g) s (fun w =>
      let t := w.me
      CtxOnly s w s.cur.1 s.cur.2 ∧ SameMemory s w ∧ t.pc = u.tepc ∧ t.park = none ∧ t.state = u.state ∧ t.f = u.f ∧ t.v = u.v ∧ t.q = u.q ∧
      t.p = u.p ∧ t.fpflags = u.fpflags ∧ t.events = u.events ∧
      (u.level = .l1 → t.level = .l0 ∧ swapped u.g t.g u.ushadow t.ushadow ∧ t.tcause = u.tcause ∧ t.tval = u.tval ∧ t.tepc = u.tepc ∧
        t.tstat = u.tstat ∧ t.sshadow = u.sshadow) ∧
      (u.level = .l2 → t.level = (if fld u.tcause 17 16 = 0 then .l0 else .l1) ∧ swapped u.g t.g u.sshadow t.sshadow ∧ t.tcause = u.hcause ∧
        t.tval = u.hval ∧ t.tepc = u.hepc ∧ t.tstat = u.hstat ∧ t.ushadow = u.ushadow)))

/-- CONTROL REGISTERS, R4, R246, R251, R256 to R258: reads give the register, writes keep the zero fields zero and give the old
value, read-only registers stay, a user access to a supervisor register and a tile's write to an Atelier register raise
PRIVILEGED before any effect. The readings of log 54, 55 and 74 are the model's. -/
def Obligations.ControlRegisters : Prop :=
  ∀ (s : State) (g : Guard) (d a : GReg), s.guard g = true →
    let t := s.me
    let k := s.myCore
    let P := s.part s.myPart
    let sup := s.isSup s.cur.1 s.cur.2
    let A := s.g a
    let os : List Opnd := [.dst d, .src a]
    (s.modsOk (condsOf [.dst d]) = true →
      (∀ q ∈ ([(0x000, w64 s.cur.2), (0x007, w64 s.myPart), (0x008, s.devnum.setWidth 64), (0x010, t.tcause), (0x011, t.tval), (0x012, t.tepc),
          (0x013, t.tvec), (0x014, t.tstat), (0x015, t.tdeleg), (0x020, t.fpctl), (0x021, t.fpflags), (0x022, t.sigmin), (0x023, t.siglanes),
          (0x030, k.split.setWidth 64), (0x031, w64 (b2n k.pool)), (0x040, t.xferid), (0x041, t.xferstat), (0x060, w64 t.rfcount)] :
          List (BitVec 12 × Word)), Runs (.csrr g d q.1) s 8 [.dst d] { g := [(d, q.2)] }) ∧
      (isAtelier s.cur.1 = false → ∀ q ∈ ([(0x001, w64 s.cur.1), (0x002, w64 k.gangIdx), (0x003, w64 k.gangSize), (0x004, w64 k.taskId),
          (0x005, k.args)] : List (BitVec 12 × Word)), Runs (.csrr g d q.1) s 8 [.dst d] { g := [(d, q.2)] }) ∧
      (s.pkgSync = true → s.domSync = true → Runs (.csrr g d 0x006) s 8 [.dst d] { g := [(d, s.gtime)] }) ∧
      (s.pkgSync = false → Traps (.csrr g d 0x006) s Cause.clockUnsync s.gtime 1) ∧
      (s.pkgSync = true → s.domSync = false → Traps (.csrr g d 0x006) s Cause.clockUnsync s.gtime 2) ∧
      (sup = true → ∀ q ∈ ([(0x100, P.svcvec), (0x102, P.stackright.setWidth 64), (0x105, t.dbgctl), (0x108, t.hcause), (0x109, t.hval),
          (0x10A, t.hepc), (0x10B, t.hstat)] : List (BitVec 12 × Word)), Runs (.csrr g d q.1) s 8 [.dst d] { g := [(d, q.2)] })) ∧
    (∀ n : BitVec 12, 0x100 ≤ n.toNat → sup = false →
      (s.modsOk (condsOf [.dst d]) = true → Traps (.csrr g d n) s Cause.privileged (w64 n.toNat) 1) ∧
      (s.modsOk (condsOf os) = true → ∀ i ∈ ([.csrw g d a n, .csrs g d a n, .csrc g d a n] : List Instr), Traps i s Cause.privileged (w64 n.toNat) 1)) ∧
    (s.modsOk (condsOf os) = true → isAtelier s.cur.1 = false → sup = true → ∀ n ∈ ([0x100, 0x102, 0x103, 0x104, 0x110, 0x11F] : List (BitVec 12)),
      ∀ i ∈ ([.csrw g d a n, .csrs g d a n, .csrc g d a n] : List Instr), Traps i s Cause.privileged (w64 n.toNat) 3) ∧
    (s.modsOk (condsOf os) = true →
      let new := fun (n : BitVec 12) (old : Word) => ([(.csrw g d a n, A), (.csrs g d a n, old ||| A), (.csrc g d a n, old &&& ~~~A)] : List (Instr × Word))
      let writes := fun (n : BitVec 12) (old : Word) (f : Word → Ctx → Ctx) =>
        ∀ q ∈ new n old, RunsWith q.1 s (s.modMe (f q.2)) 8 os { g := [(d, old)] }
      writes 0x010 t.tcause (fun v t => { t with tcause := v &&& 0x33F3F }) ∧ writes 0x011 t.tval (fun v t => { t with tval := v }) ∧
      writes 0x012 t.tepc (fun v t => { t with tepc := v }) ∧ writes 0x013 t.tvec (fun v t => { t with tvec := v &&& ~~~3 }) ∧
      writes 0x014 t.tstat (fun v t => { t with tstat := v }) ∧ writes 0x020 t.fpctl (fun v t => { t with fpctl := v &&& 0x1FF }) ∧
      writes 0x021 t.fpflags (fun v t => { t with fpflags := v &&& 0x1F }) ∧ writes 0x022 t.sigmin (fun v t => { t with sigmin := v &&& 0x3F }) ∧
      writes 0x023 t.siglanes (fun v t => { t with siglanes := v &&& 0xFFFFFFFF }) ∧
      (sup = true → writes 0x108 t.hcause (fun v t => { t with hcause := v &&& 0x33F3F }) ∧ writes 0x109 t.hval (fun v t => { t with hval := v }) ∧
        writes 0x10A t.hepc (fun v t => { t with hepc := v }) ∧ writes 0x10B t.hstat (fun v t => { t with hstat := v })) ∧
      (sup = true → isAtelier s.cur.1 = false → writes 0x015 t.tdeleg (fun v t => { t with tdeleg := v ||| 0x6080000000008200 })) ∧
      (sup = false → ∀ q ∈ new 0x015 t.tdeleg, Traps q.1 s Cause.privileged 0x015 1) ∧
      (∀ r ∈ ([(0x000, w64 s.cur.2), (0x007, w64 s.myPart), (0x031, w64 (b2n k.pool)), (0x040, t.xferid), (0x060, w64 t.rfcount)] :
        List (BitVec 12 × Word)), ∀ q ∈ new r.1 r.2, RunsWith q.1 s s 8 os { g := [(d, r.2)] }) ∧
      (sup = true → ∀ q ∈ new 0x105 t.dbgctl, Makes q.1 s (fun w => CoreOnly s w s.cur.1 ∧ w.me.dbgctl = q.2 &&& 3 ∧ w.me.pc = t.pc + 8)) ∧
      (sup = true → isAtelier s.cur.1 = true → ∀ q ∈ new 0x100 P.svcvec,
        RunsWith q.1 s (s.modPart s.myPart (fun p => { p with svcvec := q.2 &&& ~~~3 })) 8 os { g := [(d, P.svcvec)] }) ∧
      (sup = true → isAtelier s.cur.1 = true → ∀ q ∈ new 0x102 (P.stackright.setWidth 64),
        RunsWith q.1 s ((s.modPart s.myPart (fun p => { p with stackright := q.2.setWidth 8 })).noRollback s.myPart) 8 os
          { g := [(d, P.stackright.setWidth 64)] }) ∧
      (s.out = false → isAtelier s.cur.1 = false → k.splitChange = none → A.setWidth 2 = k.split →
        RunsWith (.csrw g d a 0x030) s s 8 os { g := [(d, k.split.setWidth 64)] }) ∧
      (s.out = false → isAtelier s.cur.1 = false → k.splitChange = none → A.setWidth 2 = (0 : BitVec 2) → k.split ≠ 0 → k.pool = true →
        Traps (.csrw g d a 0x030) s Cause.splitConflict A 3))

/-- TRANSLATION ENTRIES, R242, R244, R253, R259, R260: TBW checks address, entry, alignment, the S bit and the gang index in
order, removes every entry its page meets and inserts its own; TBI removes the entries of a page, or all, in user mode the
unlocked ones; TBP gives the entry or 0. On the buffer of another gang tile each sends its operands there and parks until that tile
replies; then it completes with the effect there, TBW after the checks for the entries that stand there then. The readings of log 33 and 53 are the model's. -/
def Obligations.TranslationEntries : Prop :=
  ∀ (s : State) (g : Guard) (d a b c : GReg) (all : Bool), s.guard g = true →
    let A := s.g a
    let B := s.g b
    let sup := s.isSup s.cur.1 s.cur.2
    let size := 2 ^ (12 + 4 * fld B 6 4)
    let valid := fld B 63 48 = 0 ∧ fld B 11 7 = 0 ∧ fld B 6 4 ≠ 7 ∧ fld B 47 0 / 0x1000 * 0x1000 % size = 0
    let tb := s.myCore.tb
    let apart := fun (e : TbEntry) => (!meets e.va e.size A.toNat size)
    (s.out = false → s.modsOk (condsOf [.src a, .src b, .src c]) = true →
      (fld A 63 57 ≠ 0 → Traps (.tbw g a b c .own) s Cause.boundCheck A 3) ∧
      (fld A 63 57 = 0 → ¬valid → Traps (.tbw g a b c .own) s Cause.boundCheck B 1) ∧
      (fld A 63 57 = 0 → valid → A.toNat % size ≠ 0 → Traps (.tbw g a b c .own) s Cause.boundCheck A 2) ∧
      (fld A 63 57 = 0 → valid → A.toNat % size = 0 →
        (sup = false → bit B 3 = true → Traps (.tbw g a b c .own) s Cause.privileged B 1) ∧
        (sup = true ∨ bit B 3 = false → s.myCore.gangSize ≤ (s.g c).toNat → Traps (.tbw g a b c .gang) s Cause.boundCheck (s.g c) 4) ∧
        (sup = false → bit B 3 = false → tb.any (fun e => e.locked && !apart e) = true → Traps (.tbw g a b c .own) s Cause.privileged A 2) ∧
        (sup = true → bit B 3 = true → 16 ≤ ((tb.filter apart).filter TbEntry.locked).length → Traps (.tbw g a b c .own) s Cause.boundCheck A 6) ∧
        ((bit B 3 = true → sup = true ∧ ((tb.filter apart).filter TbEntry.locked).length < 16) →
          sup = true ∨ tb.any (fun e => e.locked && !apart e) = false →
          ∃ u, RunsWith (.tbw g a b c .own) s u 12 [.src a, .src b, .src c] {} ∧
            { u.myCore with tb := tb, tbHist := s.myCore.tbHist } = s.myCore ∧ CoreOnly s u s.cur.1 ∧ SameMemory s u ∧
            ((tb.filter apart).length < 96 → u.myCore.tb = tb.filter apart ++ [⟨A.toNat, B, false⟩]) ∧
            (∀ k, 96 ≤ (tb.filter apart).length → firstIdx (fun e => !e.locked) (tb.filter apart) = some k →
              u.myCore.tb = dropAt (tb.filter apart) k ++ [⟨A.toNat, B, false⟩])) ∧
        (sup = true → let set := (s.part s.myPart).dset
          (256 ≤ (set.filter apart).length → Traps (.tbw g a b c .ds) s Cause.boundCheck A 5) ∧
          ((set.filter apart).length < 256 → RunsWith (.tbw g a b c .ds) s
            (s.modPart s.myPart (fun p => { p with dset := p.dset.filter apart ++ [⟨A.toNat, B, false⟩] })) 12 [.src a, .src b, .src c] {})) ∧
        (s.tbFar .gang (s.g c) = true → s.tbwTrap .gang A B (s.g c) = none →
          exec (.tbw g a b c .gang) s = .next ((s.sent 4 [] [A.toNat, B.toNat, (s.g c).toNat]).parkOn (.tbw g a b c .gang) .served)))) ∧
    (∀ va w n, s.out = true → s.me.phase.eas = [va, w, n] →
      s.modsOk (condsOf [.src a, .src b, .src c]) = true →
      (∀ t, s.tbwTrap .gang (w64 va) (w64 w) (w64 n) = some t → Raises (.tbw g a b c .gang) s t) ∧
      (s.tbwTrap .gang (w64 va) (w64 w) (w64 n) = none →
        RunsWith (.tbw g a b c .gang) s (s.tbWrite .gang (w64 n) ⟨va, w64 w, false⟩) 12 [.src a, .src b, .src c] {})) ∧
    (∀ va n, s.out = true → s.me.phase.eas = [va, n] →
      (s.modsOk (condsOf [.src a, .src b]) = true →
        RunsWith (.tbi g a b .gang all) s (s.tbRemove .gang (w64 n) va all) 8 [.src a, .src b] {}) ∧
      (s.modsOk (condsOf [.dst d, .src a, .src b]) = true →
        RunsWith (.tbp g d a b .gang) s s 8 [.dst d, .src a, .src b] { g := [(d, s.tbReport .gang (w64 n) va)] })) ∧
    (s.out = false → s.modsOk (condsOf [.src a, .src b]) = true →
      (fld A 63 57 ≠ 0 → Traps (.tbi g a b .own all) s Cause.boundCheck A 3) ∧
      (sup = false → Traps (.tbi g a b .ds all) s Cause.privileged 2 2) ∧
      (fld A 63 57 = 0 → ∃ u, RunsWith (.tbi g a b .own all) s u 8 [.src a, .src b] {} ∧ CoreOnly s u s.cur.1 ∧ SameMemory s u ∧
        ∀ e, e ∈ u.myCore.tb ↔ e ∈ tb ∧ (¬(all = true ∨ (e.va ≤ A.toNat ∧ A.toNat < e.va + e.size)) ∨ (sup = false ∧ e.locked = true))) ∧
      (fld A 63 57 = 0 → B.toNat < s.myCore.gangSize → s.tbFar .gang B = true →
        exec (.tbi g a b .gang all) s = .next ((s.sent 4 [] [A.toNat, B.toNat]).parkOn (.tbi g a b .gang all) .served))) ∧
    (s.out = false → s.modsOk (condsOf [.dst d, .src a, .src b]) = true →
      (fld A 63 57 ≠ 0 → Traps (.tbp g d a b .own) s Cause.boundCheck A 3) ∧
      (fld A 63 57 = 0 →
        ((∀ e ∈ tb, e.holds A.toNat = false) → Runs (.tbp g d a b .own) s 8 [.dst d, .src a, .src b] { g := [(d, 0)] }) ∧
        (∀ l e r, tb = l ++ e :: r → (∀ x ∈ l, x.holds A.toNat = false) → e.holds A.toNat = true →
          Runs (.tbp g d a b .own) s 8 [.dst d, .src a, .src b] { g := [(d, 0x8000000000000000 + e.word)] })) ∧
      (fld A 63 57 = 0 → B.toNat < s.myCore.gangSize → s.tbFar .gang B = true →
        exec (.tbp g d a b .gang) s = .next ((s.sent 4 [] [A.toNat, B.toNat]).parkOn (.tbp g d a b .gang) .served)))

/-- SLICES, RANGES, GANG SWITCH, CHECKPOINT, HALT, R262 to R266: the causes in their order; SCFGR and SCFGW send their operands to the slice
and park until it replies, then SCFGR has the register and SCFGW, once the slice has served what it received before it, has written it;
CWBR with nothing dirty in the range completes, otherwise it parks until the stacks acknowledge, the range that of its issue throughout;
SLINV only discards; GSWITCH gives its status and schedules on 0; CKPT parks until the next checkpoint is complete; HALT holds the context
with its exit word, and a barrier that it has not reached aborts, R90. The readings of log 23 and 53 are the model's. -/
def Obligations.SupervisorOperations : Prop :=
  ∀ (s : State) (g : Guard) (d a b : GReg) (idx : BitVec 12) (iv : Bool), s.guard g = true →
    let A := s.g a
    let B := s.g b
    let P := s.part s.myPart
    let bad := fun (i : Instr) =>
      (127 < A.toNat → Traps i s Cause.boundCheck A 1) ∧
      (A.toNat ≤ 127 → P.halves.getLsbD (2 * (A.toNat / 16) + A.toNat % 16 / 8) = false → Traps i s Cause.deckleViolation A 0) ∧
      (A.toNat ≤ 127 → P.halves.getLsbD (2 * (A.toNat / 16) + A.toNat % 16 / 8) = true → scfgAssigned idx.toNat = false →
        Traps i s Cause.boundCheck (w64 idx.toNat) 2)
    let good := A.toNat ≤ 127 ∧ P.halves.getLsbD (2 * (A.toNat / 16) + A.toNat % 16 / 8) = true ∧ scfgAssigned idx.toNat = true
    let range := fun (i : Instr) =>
      (fld A 63 48 ≠ 0 → Traps i s Cause.boundCheck A 1) ∧ (fld A 63 48 = 0 → A.toNat % 64 ≠ 0 → Traps i s Cause.boundCheck A 2) ∧
      (fld A 63 48 = 0 → A.toNat % 64 = 0 → B.toNat % 64 ≠ 0 → Traps i s Cause.boundCheck B 2) ∧
      (fld A 63 48 = 0 → A.toNat % 64 = 0 → B.toNat % 64 = 0 → 2 ^ 36 < B.toNat → Traps i s Cause.boundCheck B 3)
    (s.modsOk (condsOf [.dst d, .src a]) = true →
      (s.out = false → bad (.scfgr g d a idx) ∧
        (good → exec (.scfgr g d a idx) s = .next ((s.sent 4 [] [A.toNat]).parkOn (.scfgr g d a idx) .served))) ∧
      (∀ n, s.out = true → s.me.phase.eas = [n] →
        RunsWith (.scfgr g d a idx) s s 8 [.dst d, .src a] { g := [(d, s.scfgRead n idx.toNat)] })) ∧
    (s.modsOk (condsOf [.src a, .src b]) = true →
      (s.out = false → bad (.scfgw g a b idx) ∧
        (good → exec (.scfgw g a b idx) s = .next ((s.sent 4 [] [A.toNat, B.toNat, s.msgCtr]).parkOn (.scfgw g a b idx) .served))) ∧
      (∀ n v m, s.out = true → s.me.phase.eas = [n, v, m] →
        let before := (s.slice n).mshrs ++ (if (s.slice n).hold then [] else (s.slice n).queue)
        ((∀ e ∈ before, m ≤ e.id) → RunsWith (.scfgw g a b idx) s (s.scfgWrite s.myPart n idx.toNat (w64 v)) 8 [.src a, .src b] {}) ∧
        ((∃ e ∈ before, e.id < m) → Parks (.scfgw g a b idx) s .served)) ∧
      (s.me.phase.step = 0 → range (.cwbr g a b iv)) ∧ range (.slinv g a b) ∧
      (s.pieceTrap A B = none →
        let v := s.dropRange s.myPart A.toNat B.toNat
        RunsWith (.slinv g a b) s v 12 [.src a, .src b] {} ∧ SameMemory s v ∧ v.net = s.net ∧ v.cores = s.cores) ∧
      (∀ base len,
        let flushes := (s.dirtyIn s.myPart base len = [] → RunsWith (.cwbr g a b false) s s 12 [.src a, .src b] {}) ∧
          (s.dirtyIn s.myPart base len ≠ [] → Makes (.cwbr g a b iv) s (fun t =>
            t.me.park.map (fun p => p.w) = some (.acks (s.dirtyIn s.myPart base len)) ∧ t.me.phase.step = 5 ∧ t.me.pc = s.me.pc))
        ((s.me.phase.step = 0 ∧ s.pieceTrap A B = none ∧ base = A.toNat ∧ len = B.toNat) ∨ (s.me.phase.step = 3 ∧ s.me.phase.eas = [base, len]) →
          (len = 0 → RunsWith (.cwbr g a b iv) s s 12 [.src a, .src b] {}) ∧
          (len ≠ 0 → s.linesOut base len ≠ [] → Makes (.cwbr g a b iv) s (fun t => t.me.phase.step = 3 ∧ t.me.phase.eas = [base, len] ∧
            t.me.park.map (fun p => p.w) = some (.gone (s.linesOut base len)) ∧ t.me.pc = s.me.pc)) ∧
          (len ≠ 0 → s.linesOut base len = [] →
            (∀ k ∈ s.cacheCores s.cur.1, ∀ l ∈ (s.core k).cache, l.dirty = true → l.loc = true ∨ meets base len (l.line * 64) 64 = false) →
            flushes)) ∧
        (s.me.phase.step = 4 → s.me.phase.eas = [base, len] →
          (s.gone s.me.phase.ids = false → Parks (.cwbr g a b iv) s (.gone s.me.phase.ids)) ∧ (s.gone s.me.phase.ids = true → flushes))) ∧
      (s.me.phase.step = 5 → RunsWith (.cwbr g a b iv) s s 12 [.src a, .src b] {})) ∧
    (s.modsOk (condsOf [.dst d, .src a, .src b]) = true →
      let gives := fun (u : State) (v : Word) => RunsWith (.gswitch g d a b) s u 8 [.dst d, .src a, .src b] { g := [(d, v)] }
      (B.toNat < s.gtime.toNat + 10000 → gives s 1) ∧
      (s.gtime.toNat + 10000 ≤ B.toNat →
        (P.task A.toNat = none → gives s 2) ∧
        (∀ t, P.task A.toNat = some t → t.phase ≠ .running → gives s 2) ∧
        (∀ t, P.task A.toNat = some t → t.phase = .running → t.switchAt ≠ none → gives s 3) ∧
        (∀ t, P.task A.toNat = some t → t.phase = .running → t.switchAt = none →
          gives (s.modPart s.myPart (fun p => p.modTask A.toNat (fun k => { k with switchAt := some B.toNat }))) 0))) ∧
    (s.modsOk (condsOf [.dst d]) = true →
      let n := fld P.ckptctl 63 32
      (s.out = false → Makes (.ckpt g d) s (fun t => (t.part s.myPart).ckptWanted = true ∧ t.me.park.map (fun p => p.w) = some (.ckpt (n + 1)) ∧
        t.me.phase.val = w64 (n + 1) ∧ t.me.pc = s.me.pc ∧ SameMemory s t)) ∧
      (s.out = true → n < s.me.phase.val.toNat → Parks (.ckpt g d) s (.ckpt s.me.phase.val.toNat)) ∧
      (s.out = true → s.me.phase.val.toNat ≤ n → Runs (.ckpt g d) s 8 [.dst d] { g := [(d, s.me.phase.val)] })) ∧
    (s.modsOk (condsOf [.src a]) = true → Makes (.halt g a) s (fun t => t.me.state = .held ∧ t.me.exitWord = A ∧ t.me.pc = s.me.pc + 8 ∧
      t.me.park = none ∧ (∀ n, t.gval n = s.gAfter [.src a] [] n) ∧ SameMemory s t ∧ t.net = s.net ∧
      (∀ y, y ≠ s.cur.2 → t.ctx s.cur.1 y = s.ctx s.cur.1 y) ∧ CoresKept s t s.cur.1 ∧
      (s.cur.2 < s.threadCount s.cur.1 → s.myCore.bar.aborted = none → s.myCore.bar.arrived.contains (s.gangWide s.cur.1 s.cur.2) = false →
        BarsTile s t s.cur.1 (s.myCore.bar.gen, s.gangWide s.cur.1 s.cur.2))))

/-! ### Steps of other agents: threads, tasks, work lists -/

/-- THREADS UNDER SUPERVISION, R28, R85, R247, R249, R258, R375, R376: a parked thread wakes when its condition holds, one that waits for
the reply of another place at any time; an event due is the one of lowest code, the earliest of equals, and is taken as an exception with
TEPC at the next instruction; the watchdog raises WATCHDOG on a thread parked longer than its limit; a held context ends, context 0 only
once every other context of the tile is free or has ended, or starts at SVCVEC at level 2; DBGCTL's halt bit posts and withdraws DEBUG_HALT.
A BAR that WATCHDOG wakes stays counted: that, and the readings of log 23, 24, 53 and 75, are the model's. -/
def Obligations.ThreadEventsHappen : Prop :=
  ∀ (s : State) (c x : Nat) (v : Word),
    let u := s.ctx c x
    (u.park = none → exec (.parkedThreadWake c x) s = .next s ∧ exec (.watchdog c x) s = .next s) ∧
    (∀ p, u.park = some p →
      (s.waitOk c x p.w = false → p.w ≠ .served → exec (.parkedThreadWake c x) s = .next s) ∧
      (s.waitOk c x p.w = true ∨ p.w = .served → exec (.parkedThreadWake c x) s = .next (s.modCtx c x (fun t => { t with park := some { p with awake := true } }))) ∧
      (let limit := fld (s.part (s.partOf c x)).ckptctl 31 24 * 1000000
       (limit = 0 ∨ s.gtime.toNat ≤ p.since + limit → exec (.watchdog c x) s = .next s) ∧
       (u.state = .running → limit ≠ 0 → p.since + limit < s.gtime.toNat → exec (.watchdog c x) s =
         .next ((s.modCtx c x (fun t => t.settle t.pc)).raise c x Cause.watchdog s.gtime 0 u.pc)))) ∧
    (u.eventDue = false → exec (.eventEntry c x) s = .next s) ∧
    (∀ l e r, u.events = l ++ e :: r → u.events.length ≤ 16 → (∀ y ∈ l, e.code < y.code) → (∀ y ∈ r, e.code ≤ y.code) → u.eventDue = true →
      let t := s.modCtx c x (fun t => { t with
        events := l ++ r, xferid := (e.xfer.map (·.1)).getD t.xferid, xferstat := (e.xfer.map (·.2)).getD t.xferstat
        dbgctl := if e.code = Cause.debugHalt then clearBit t.dbgctl 1 else t.dbgctl })
      exec (.eventEntry c x) s = .next (t.raise c x e.code e.tval e.tstat (t.following c x u.pc) e.entry)) ∧
    (u.state ≠ .held → exec (.heldContextEnd c x) s = .next s ∧ exec (.heldContextStart c x) s = .next s) ∧
    (u.state = .held → x = 0 → s.waitOk c 0 .others = false → exec (.heldContextEnd c x) s = .next s) ∧
    (u.state = .held →
      (x ≠ 0 ∨ s.waitOk c 0 .others = true → Makes (.heldContextEnd c x) s (fun w => (w.ctx c x).state = .ended ∧ (w.ctx c x).exitWord = u.exitWord ∧ (w.ctx c x).events = [] ∧
        (w.ctx c x).park = none ∧ (∀ y, y ≠ x → w.ctx c y = s.ctx c y) ∧ CoresKept s w c ∧ SameMemory s w)) ∧
      Makes (.heldContextStart c x) s (fun w => CtxOnly s w c x ∧
        let t := w.ctx c x
        t.state = .running ∧ t.level = .l2 ∧ t.pc = (s.part (s.partOf c x)).svcvec ∧ t.tcause = u.tcause ∧ t.tval = u.tval ∧ t.tepc = u.tepc ∧
        t.tstat = u.tstat ∧ t.park = none ∧ (u.level = .l2 → t.g = u.g) ∧ (u.level ≠ .l2 → swapped u.g t.g u.sshadow t.sshadow))) ∧
    Makes (.dbgctlWrite c x v) s (fun w => CtxOnly s w c x ∧
      let t := w.ctx c x
      t.dbgctl = v &&& 3 ∧ (bit v 1 = true → bit u.dbgctl 1 = false → t.events = u.events ++ [⟨Cause.debugHalt, 0, 0, none, none⟩]) ∧
      (bit v 1 = true → bit u.dbgctl 1 = true → t.events = u.events) ∧
      (bit v 1 = false → t.events = u.events.filter (fun e => decide (e.code ≠ Cause.debugHalt))))

/-- TASKS ENTER THE WINDOW, R19 to R23, R363, R380: ENQUEUE queues an address, or reports status 2 on a full queue and 5 during a reset, and
notes the address for a rollback; TASK_CREATE reports status 1 for a bad address or record and 4 for an unreadable one, and otherwise puts a
task with the next TASKID and its dependences into the window, ready where it has none; a level rises after 1 ms. The readings of log 52 and
59 are the model's. -/
def Obligations.TasksEnterTheWindow : Prop :=
  ∀ (s : State) (part : Nat) (a : Word) (rest : List Word),
    let p := s.part part
    let report := fun (s : State) (id status : Nat) => s.modPart part (fun p => { p with reports := p.reports ++ [w64 (id + status * 2 ^ 32)] })
    (p.present = false → exec (.enqueue part a) s = .next s) ∧
    (p.present = true → p.inReset = true → exec (.enqueue part a) s = .next (report s 0 5)) ∧
    (p.present = true → p.inReset = false → p.capture = none →
      (64 ≤ p.enq.length → exec (.enqueue part a) s = .next ((report s 0 2).modPart part (fun p => { p with enqLog := p.enqLog ++ [a] }))) ∧
      (p.enq.length < 64 → exec (.enqueue part a) s = .next (s.modPart part (fun p =>
        { p with enq := p.enq ++ [a], enqLog := p.enqLog ++ [a] })))) ∧
    (p.enq = [] → (∀ e ∈ p.window, e.phase = .waiting → e.deps ≠ []) → exec (.taskCreate part) s = .next s) ∧
    (p.enq = [] → p.present = true → p.inReset = false → p.stopped = false → ∀ l t r v, p.window = l ++ t :: r →
      (∀ e ∈ l ++ r, e.phase ≠ .waiting ∧ e.id ≠ t.id) → t.phase = .waiting → t.deps = [] → t.record.sizePtr = 0 →
      t.record.variants.head? = some v → v.gang ≤ p.widest → Makes (.taskCreate part) s (fun w => PartOnly s w part ∧
        (w.part part).window = l ++ { t with phase := .ready, variant := 0, level := t.record.prio, since := s.gtime.toNat } :: r)) ∧
    (p.enq = a :: rest → p.present = true → p.inReset = false → p.stopped = false → p.window.length < 1024 →
      let q := s.modPart part (fun p => { p with enq := rest })
      (fld a 63 57 ≠ 0 ∨ a.toNat % 64 ≠ 0 → exec (.taskCreate part) s = .next (report q 0 1)) ∧
      (fld a 63 57 = 0 → a.toNat % 64 = 0 →
        (q.schedRead part a.toNat 3 128 = .bad → exec (.taskCreate part) s = .next (report q 0 4)) ∧
        (∀ bs t b, q.schedRead part a.toNat 3 128 = .ok bs t → recFail bs = some b → exec (.taskCreate part) s = .next (report t 0 1)) ∧
        (∀ bs t, q.schedRead part a.toNat 3 128 = .ok bs t → recFail bs = none →
          let P := t.part part
          let r := recOf bs
          let deps := (P.window.filter (fun e => dependsOn r e.record)).map (fun e => e.id)
          (∀ e ∈ P.window, e.phase ≠ .waiting ∧ e.id ≠ P.nextTask.toNat) →
          (deps ≠ [] → Makes (.taskCreate part) s (fun w => PartOnly t w part ∧ ∃ n, (w.part part).window = P.window ++ [n] ∧
            n.id = P.nextTask.toNat ∧ n.record = r ∧ n.phase = .waiting ∧ n.deps = deps ∧ n.level = r.prio ∧
            (w.part part).nextTask = (if P.nextTask + 1 = 0 then 1 else P.nextTask + 1))) ∧
          (∀ v, deps = [] → r.sizePtr = 0 → r.variants.head? = some v → v.gang ≤ P.widest →
            Makes (.taskCreate part) s (fun w => PartOnly t w part ∧ ∃ n, (w.part part).window = P.window ++ [n] ∧
              n.id = P.nextTask.toNat ∧ n.record = r ∧ n.phase = .ready ∧ n.variant = 0 ∧ n.level = r.prio)) ∧
          (∀ v, deps = [] → r.sizePtr = 0 → r.variants.head? = some v → P.widest < v.gang → r.target = 0 →
            Makes (.taskCreate part) s (fun w => (w.part part).window.map (fun e => e.id) = P.window.map (fun e => e.id) ∧
              (w.part part).reports = P.reports ++ [w64 (P.nextTask.toNat + 6 * 2 ^ 32)]))))) ∧
    (∀ id t, p.task id = some t →
      (t.waits = true → t.level < 7 → t.since + 1000000 ≤ s.gtime.toNat → exec (.priorityRise part id) s =
        .next (s.modPart part (fun p => p.modTask id (fun t => { t with level := t.level + 1, since := t.since + 1000000 })))) ∧
      (t.waits = false ∨ 7 ≤ t.level ∨ s.gtime.toNat < t.since + 1000000 → exec (.priorityRise part id) s = .next s))

/-- TASKS RUN AND REPORT, R11, R23 to R26, R31, R32, R383, R384: dispatch binds the tiles and starts context 0 at the variant's
entry with every other context free; retire frees the tiles, ends the task's holds and reports; a report goes to the ring with
MSI-X vector 0, and with no room those of TASKID 0 are dropped and counted; levelling moves the tail of a list, and returns what
has no room. FPFLAGS is 0 at dispatch: that, and the readings of log 2, 20, 45 and 59, are the model's. -/
def Obligations.TasksRunAndReport : Prop :=
  ∀ (s : State) (part die id c k : Nat) (tiles : List Nat) (t : Task) (r : Word) (rs : List Word),
    let p := s.part part
    (headOf p.window = none → exec (.taskDispatch part die tiles) s = .next s) ∧
    (∀ v st placed u, headOf p.window = some t → t.phase = .ready → t.record.variants[t.variant]? = some v → p.stopped = false →
      s.bindable part die v.gang tiles = true → s.clockCovers die t.vec = true → p.placed t.record = some st →
      s.readPlaced part die st = some (some placed, u) →
      Makes (.taskDispatch part die tiles) s (fun w =>
        (∀ i c, tiles[i]? = some c → let k := w.core c
          k.tstate = .bound ∧ k.gangIdx = i ∧ k.gangSize = tiles.length ∧ k.taskId = t.id ∧ k.args = t.record.args ∧ k.pool = t.record.pool ∧
          k.split = 1 ∧ k.mq = [] ∧ k.fifo = [] ∧ k.wl = [] ∧ k.nextBatch = 1 ∧ k.bar = ⟨0, [], none, none⟩ ∧
          (k.ctx 0).state = .running ∧ (k.ctx 0).pc = v.entry ∧ (k.ctx 0).level = .l0 ∧ (k.ctx 0).fpctl = 0 ∧ (k.ctx 0).fpflags = 0 ∧
          (k.ctx 0).sigmin = 0 ∧ (k.ctx 0).tvec = 0 ∧ (k.ctx 0).tdeleg = (u.part part).tdeleg ∧ (k.ctx 0).events = [] ∧
          (∀ n < 16, tget GVal.zero k.s n = ⟨0, true⟩) ∧ ∀ y, y ≠ 0 → (k.ctx y).state = .free) ∧
        (∀ c, c ∉ tiles → w.core c = u.core c) ∧ (∀ e ∈ (w.part part).window, e.id = t.id → e.phase = .running ∧ e.tiles = tiles))) ∧
    (p.task id = some t → t.phase = .running → s.gangOver t = true → s.gangBusy t.tiles = false → s.dirtyGang t.tiles = false →
      t.place.filter (fun x => x.2.2.2) = [] → t.record.target = 0 → (∀ e ∈ p.window, e.phase ≠ .waiting) →
      Makes (.taskRetire part id) s (fun w =>
        (w.part part).window.map (fun e => e.id) = (p.window.filter (fun e => decide (e.id ≠ id))).map (fun e => e.id) ∧
        (∀ e ∈ (w.part part).window, id ∉ e.deps) ∧ (∀ r ∈ (w.part part).roles, r.holder ≠ some id) ∧
        (w.part part).reports = p.reports ++ [w64 (id + (if s.poisonLost t then 7 else 0) * 2 ^ 32)] ∧
        ∀ c ∈ t.tiles, (w.core c).tstate = (if (s.core c).doomed then .retired else .idle) ∧ (w.core c).taskId = 0 ∧
          ∀ y, ((w.core c).ctx y).state = .free)) ∧
    (∀ t, p.task id = some t → t.phase ≠ .running ∨ s.gangOver t = false ∨ s.gangBusy t.tiles = true → exec (.taskRetire part id) s = .next s) ∧
    (p.reports = [] → exec (.completionMessage part) s = .next s) ∧
    (p.reports = r :: rs → p.present = true → p.inReset = false → bit p.ckptctl 9 = false ∨ p.released ≠ 0 →
      (p.ringRoom = true → s.hostMem.wf = true → Makes (.completionMessage part) s (fun w =>
        w.hostMem.readN (p.crbase.toNat + 8 * p.crtail.toNat) 8 = toBytes 8 r.toNat ∧
        (∀ a, a < p.crbase.toNat + 8 * p.crtail.toNat ∨ p.crbase.toNat + 8 * p.crtail.toNat + 8 ≤ a → w.hostMem.read a = s.hostMem.read a) ∧
        w.msix = s.msix ++ [part] ∧ (w.part part).reports = rs ∧
        (w.part part).crtail = w64 ((p.crtail.toNat + 1) % 2 ^ fld p.crsize 4 0) ∧ w.cores = s.cores)) ∧
      (p.ringRoom = false → Makes (.completionMessage part) s (fun w => PartOnly s w part ∧
        (w.part part).reports = p.reports.filter (fun r => decide (fld r 31 0 ≠ 0)) ∧
        (w.part part).crdrop = w64 (Nat.min (p.crdrop.toNat + (p.reports.filter (fun r => decide (fld r 31 0 = 0))).length) (2 ^ 64 - 1))))) ∧
    (let K := s.core c
     (K.tstate ≠ .bound ∨ K.cycle < K.lvlNext → exec (.levellingStep c) s = .next s) ∧
     (∀ n, K.tstate = .bound → K.lvlNext ≤ K.cycle → s.leastLoaded c = some n → (s.core n).wl.length + 2 ≤ K.wl.length → n ≠ c →
       let move := Nat.min 16 ((K.wl.length - (s.core n).wl.length) / 2)
       exec (.levellingStep c) s = .next (s.modCore c (fun k => { k with
         lvlNext := k.lvlNext + 4096, wl := k.wl.take (k.wl.length - move), wlSent := k.wlSent ++ [(n, k.wl.drop (k.wl.length - move))] }))) ∧
     (∀ n ws, K.wlSent[k]? = some (n, ws) → n ≠ c → Makes (.levellingReceive c k) s (fun w =>
       let room := 256 - ((s.core n).wl.length + ((s.core n).wlSent.map (fun e => e.2.length)).sum)
       (w.core n).wl = (s.core n).wl ++ ws.take room ∧ (w.core c).wl = K.wl ++ ws.drop room ∧ (w.core c).wlSent = dropAt K.wlSent k ∧
       (∀ d, d ≠ c → d ≠ n → w.core d = s.core d) ∧ SameMemory s w)))

/-! ### Steps of other agents: requests at their places -/

/-- REQUESTS AT TILES, R100, R104, R108, R118, R190, R193, R205, R372: a store to a tile writes its bytes there and nowhere else, and is
acknowledged where it asks for that; one that meets an operand range of the target's queue writes nothing and answers
OPBUF_IN_USE with an address and the queue position, and one that has passed that test and meets a step queued since waits for it; a read
answers with the bytes, each one as the store holds it, as an uncompleted command leaves it, or as it was before a copy engine wrote it; an
atomic answers with the old value and writes the new one; a request behind another of its thread, or in a bank that
changes hands, stays. At a gang-cache home a store or an atomic changes the line and a read answers from it; an atomic that goes through
leaves the line as clean as it was and sends its value on, and so does a write-through store, under its own entry, also where the line is
absent; for any other request an absent line is sent for, once. The readings of log 5, 43, 47 and 81 are the model's. -/
def Obligations.RequestsReachTiles : Prop :=
  ∀ (s : State) (k h : Nat) (ack clr thru : Bool) (m : Msg) (op : AtomOp) (l : Line) (a n : Nat) (bs : List Byte)
    (planes : List (List (Nat × Nat × Word))),
    (s.net[k]? = none → exec (.tileSpaceArrival k) s = .next s ∧ exec (.gangCacheHomeApply k) s = .next s) ∧
    (s.net[k]? = some m →
      let t := { s with net := dropAt s.net k }
      let H := s.core h
      let reply := fun (r : Reply) => if m.ctx < 16 then t.modCtx m.core m.ctx (fun x => { x with replies := x.replies ++ [r] }) else t
      let stores := fun (i : Instr) (b : Nat) (new : List Byte) (whole : Bool) (rs : List Reply) => Makes i s (fun w =>
        (w.core h).store.readN b new.length = new ∧ (∀ a, a < b ∨ b + new.length ≤ a → (w.core h).store.read a = H.store.read a) ∧
        (w.core h).storePoison = (if whole then H.storePoison.filter (fun p => !wholePiece (64 * p) (cellsAt b new)) else H.storePoison) ∧
        (∀ d, d ≠ h → (w.core d).store = (s.core d).store) ∧ w.net = dropAt s.net k ∧
        (w.ctx m.core m.ctx).replies = (s.ctx m.core m.ctx).replies ++ (if m.ctx < 16 then rs else []) ∧ { w with cores := s.cores, net := s.net } = s)
      let refused := fun (b : Word) (pos : Nat) =>
        exec (.tileSpaceArrival k) s = .next (reply ⟨m.id, toBytes 8 b.toNat, false, Cause.opbufInUse, pos⟩)
      let open_ := s.tileFirst m = false ∧ s.behindStep m = false ∧ m.bytes.any (fun b => s.bankWait h b.1 1) = false
      (m.kind.store? = some h → ¬open_ → exec (.tileSpaceArrival k) s = .next s) ∧
      (open_ →
        (m.kind = .tileStore h ack clr → m.bytes = cellsAt a bs → H.roleNum = none → H.store.wf = true →
          stores (.tileSpaceArrival k) a bs clr (if ack then [⟨m.id, [], false, 0, 0⟩] else [])) ∧
        (m.kind = .farStore h planes clr →
          (∀ b pos, H.refusal planes = some (b, pos) → refused b pos) ∧
          (H.refusal planes = none → m.bytes = cellsAt a bs → H.roleNum = none → H.store.wf = true →
            stores (.tileSpaceArrival k) a bs clr [⟨m.id, [], false, 0, 0⟩])) ∧
        (m.kind = .farProbe h planes →
          (∀ b pos, H.refusal planes = some (b, pos) → refused b pos) ∧
          (H.refusal planes = none → exec (.tileSpaceArrival k) s = .next (reply ⟨m.id, [], false, 0, 0⟩))) ∧
        (m.kind = .tileRead h →
          (H.unsettled m.addr m.bytes.length = false → s.freshFor h m.core m.addr m.bytes.length = false →
            exec (.tileSpaceArrival k) s = .next (reply ⟨m.id, H.store.readN m.addr m.bytes.length, H.poisoned m.addr m.bytes.length, 0, 0⟩)) ∧
          (m.ctx < 16 → Makes (.tileSpaceArrival k) s (fun w => ∃ r, (w.ctx m.core m.ctx).replies = (s.ctx m.core m.ctx).replies ++ [r] ∧
            r.id = m.id ∧ r.data.length = m.bytes.length ∧ SameMemory s w ∧
            ∀ i, i < m.bytes.length → (∃ M ∈ H.store :: H.ahead, nth 0 r.data i = M.read (m.addr + i)) ∨
              ∃ b ∈ H.fresh, b.off = m.addr + i ∧ s.unacquired m.core b = true ∧ nth 0 r.data i = b.old))) ∧
        (let size := atomBytes op
         let old := H.store.readN m.addr size
         m.kind = .tileAtomic h op →
          (∀ pos, H.latestMet [(m.addr, size)] = some pos →
            exec (.tileSpaceArrival k) s = .next (reply ⟨m.id, [], false, Cause.opbufInUse, pos⟩)) ∧
          (H.roleNum = none → H.store.wf = true → H.latestMet [(m.addr, size)] = none → H.unsettled m.addr size = false →
            (H.poisoned m.addr size = true → exec (.tileSpaceArrival k) s = .next (reply ⟨m.id, old, true, 0, 0⟩)) ∧
            (H.poisoned m.addr size = false → stores (.tileSpaceArrival k) m.addr (toBytes size (atomNew op (ofBytes old))) false
              [⟨m.id, old, false, 0, 0⟩])))) ∧
      let through := fun (Q : State → Prop) => Makes (.gangCacheHomeApply k) s (fun w => SameMemory s w ∧
        { w with cores := s.cores, net := s.net, msgCtr := s.msgCtr } = s ∧ (∀ d, (w.core d).ctxs = (s.core d).ctxs) ∧ Q w ∧
        ∃ f, w.net = dropAt s.net k ++ [f] ∧ f.kind = .unit false true false ∧ f.id = s.msgCtr ∧ f.core = m.core ∧ f.ctx = m.ctx ∧
          f.entry = m.entry ∧ f.part = m.part ∧ f.addr = m.addr ∧ f.bytes = m.bytes)
      (s.lineFirst m = true → exec (.gangCacheHomeApply k) s = .next s) ∧
      (s.lineFirst m = false → H.lineAt (m.addr / 64) false = some l →
        let laid := fun (cells : List Host.Cell) (d : Bool) => ({ l with data := overlay (m.addr / 64 * 64) l.data cells, dirty := d } : Line)
        (m.kind = .cacheStore h → (s.core m.core).fenced m.id = false → Makes (.gangCacheHomeApply k) s (fun w => CoreOnly t w h ∧
          (w.core h).lineAt (m.addr / 64) false = some (laid m.bytes true) ∧ (w.core h).store = H.store ∧ (w.core h).ctxs = H.ctxs)) ∧
        (m.kind = .cacheUpdate h → through (fun w => (w.core h).lineAt (m.addr / 64) false = some (laid m.bytes l.dirty) ∧
          ((s.core m.core).fenced m.id = true → (w.core m.core).fenced s.msgCtr = true) ∧
          ((s.core m.core).fenced m.id = false → ∀ d, d ≠ h → w.core d = s.core d))) ∧
        (m.kind = .cacheRead h n false → exec (.gangCacheHomeApply k) s =
          .next (reply ⟨m.id, Machine.slice l.data (m.addr % 64) n, l.poison, 0, 0⟩)) ∧
        (let old := Machine.slice l.data (m.addr % 64) (atomBytes op)
         let new := cellsAt m.addr (toBytes (atomBytes op) (atomNew op (ofBytes old)))
         m.kind = .cacheAtomic h op thru →
          (l.poison = true → exec (.gangCacheHomeApply k) s = .next (reply ⟨m.id, old, true, 0, 0⟩)) ∧
          (l.poison = false → Makes (.gangCacheHomeApply k) s (fun w => SameMemory s w ∧
            (w.core h).lineAt (m.addr / 64) false = some (laid new (if thru then l.dirty else true)) ∧
            (thru = false → w.net = dropAt s.net k) ∧
            (thru = true → ∃ f, w.net = dropAt s.net k ++ [f] ∧ f.kind = .unit false true false ∧ f.core = m.core ∧ f.ctx = m.ctx ∧
              f.part = m.part ∧ f.addr = m.addr ∧ f.bytes = new) ∧
            (m.ctx < 16 → (w.ctx m.core m.ctx).replies = (s.ctx m.core m.ctx).replies ++ [⟨m.id, old, false, 0, 0⟩]))))) ∧
      (s.lineFirst m = false → H.lineAt (m.addr / 64) false = none →
        (m.kind.cache? = some h → s.fetching h (m.addr / 64) = true → exec (.gangCacheHomeApply k) s = .next s) ∧
        (m.kind = .cacheUpdate h → s.fetching h (m.addr / 64) = false → through (fun w =>
          (s.core m.core).fenced m.id = false → w.cores = s.cores)) ∧
        (m.kind = .cacheStore h ∨ m.kind = .cacheRead h n false ∨ m.kind = .cacheAtomic h op thru → s.fetching h (m.addr / 64) = false →
          Makes (.gangCacheHomeApply k) s (fun w =>
            ∃ f, w.net = s.net ++ [f] ∧ f.kind = .fetch h false ∧ f.core = h ∧ f.part = m.part ∧ f.addr = m.addr / 64 * 64 ∧ f.id = s.msgCtr ∧
              w.cores = s.cores))))

/-- REQUESTS AT SLICES, R103, R105, R297, R298, R349, R350, R352, R364 to R366, R378: a write unit that may arrive changes its
piece at the home slice as one unit, leaves it dirty, goes to every other die, logs the old value first in an interval, and
changes no byte of a stack, and where the log has no room it asks for a checkpoint; a read and an atomic on a piece that is present
answer, a requester on another die through that die's forwarding; a request for an absent piece, and an atomic behind one of its bank, takes an
MSHR, and the stack's bytes make the piece present and clean, in arrival order; a store of a whole piece reads nothing, and a read that
finds no MSHR goes past; hold queues, and what is queued goes first; a slice that is no longer the home replays the request as it was
issued; a die's own view answers its reads; a unit is delivered in its sender's order when the clock covers it, and replaces an earlier one of
the home order only. A piece of a system area is read at its home slice from every die, and is not logged.
The readings of log 25, 27, 28, 69 and 85 are the model's. -/
def Obligations.RequestsReachSlices : Prop :=
  ∀ (s : State) (k e len : Nat) (m : Msg) (op : AtomOp) (wb wt pz mark : Bool) (old : List Byte) (u : DieUnit) (tg : Tag) (v : ViewPiece),
    (s.net[k]? = none → exec (.sliceWriteApply k) s = .next s ∧ exec (.sliceRead k) s = .next s ∧ exec (.sliceAtomic k) s = .next s) ∧
    (s.net[k]? = some m →
      let n := m.slice
      let o := s.ownerDie m.stack
      let P := s.part m.part
      let base := m.addr / 64 * 64
      let quiet := fun (w : State) => w.net = dropAt s.net k ∧ SameMemory s w ∧ ∀ j, j ≠ n → w.slice j = s.slice j
      let replies := fun (w : State) (r : Reply) =>
        (w.ctx m.core m.ctx).replies = (s.ctx m.core m.ctx).replies ++ (if m.ctx < 16 then [r] else [])
      let gone := { s with net := dropAt s.net k }
      let served := s.canArrive m = true ∧ (s.slice n).hold = false ∧ (s.slice n).queue = []
      let waits := fun (i : Instr) => Makes i s (fun w =>
        quiet w ∧ (w.slice n).mshrs = (s.slice n).mshrs ++ [m] ∧ (w.slice n).tags = (s.slice n).tags)
      let takes := fun (i : Instr) =>
        (s.canArrive m = false → exec i s = .next s) ∧
        (s.canArrive m = true → (s.slice n).hold = true → (s.slice n).queue.length < 64 → Makes i s (fun w =>
          w.net = dropAt s.net k ∧ (w.slice n).queue = (s.slice n).queue ++ [m] ∧ SameMemory s w)) ∧
        (s.canArrive m = true → ((gone.drainQueue n).slice n).queue ≠ [] → ((gone.drainQueue n).slice n).queue.length < 64 →
          exec i s = .next ((gone.drainQueue n).modSlice n (fun l => { l with queue := l.queue ++ [m] }))) ∧
        (served → s.homeSlice m.place m.addr ≠ n → Makes i s (fun w => SameMemory s w ∧
          w.net = dropAt s.net k ++ [{ m with slice := s.homeSlice m.place m.addr }] ∧
          (w.slice n).replay = Nat.min ((s.slice n).replay + 1) (2 ^ 32 - 1) ∧ (w.slice n).tags = (s.slice n).tags)) ∧
        (served → s.homeSlice m.place m.addr = n → s.onSlice n m.sbyte = none → s.moveHold m.place m.addr = false →
          (m.kind = .unit wb wt pz → wholePiece base m.bytes = false) → (s.slice n).mshrs.length < 64 → waits i) ∧
        (served → s.homeSlice m.place m.addr = n → (s.onSlice n m.sbyte).isSome = true → m.behindBank (s.slice n).mshrs = true →
          (s.slice n).mshrs.length < 64 → waits i)
      let here := served ∧ s.homeSlice m.place m.addr = n ∧ m.behindBank (s.slice n).mshrs = false ∧ s.onSlice n m.sbyte = some (old, mark)
      let applies := fun (i : Instr) (cells : List Host.Cell) (pz : Bool) (P2 : State → Prop) => Makes i s (fun w =>
        w.onSlice n m.sbyte = some (overlay base old cells, mark || pz) ∧ w.net = dropAt s.net k ∧
        (∀ j a, (w.stack j).mem.read a = (s.stack j).mem.read a) ∧ (∀ c a, (w.core c).store.read a = (s.core c).store.read a) ∧
        (∀ j, j ≠ n → w.slice j = s.slice j) ∧
        ((sysByte (pieceBase m.sbyte)).isSome = true → (w.part m.part).undo = P.undo ∧
          w.sysPiece m.sbyte = some (overlay base old cells, mark || pz)) ∧
        (P.logged (w64 base) = true → (w.part m.part).undo = P.undo) ∧
        (sysByte m.sbyte = none → P.logged (w64 base) = false → (w.part m.part).undo = P.undo ++ [⟨w64 base, P.segOf m.place.half, m.stack, m.sbyte / 64 * 64, none, old, mark⟩]) ∧
        (∀ d, d < 4 → d ≠ o → ∃ x, (w.die d).inbox = (s.die d).inbox ++ [x] ∧ x.sender = o ∧ x.piece.data = overlay base old cells ∧
          x.piece.stack = m.stack ∧ x.piece.piece = m.sbyte / 64 ∧ x.reply = none) ∧ P2 w)
      (m.kind = .unit wb wt pz → takes (.sliceWriteApply k)) ∧ (m.kind = .atomic op → takes (.sliceAtomic k)) ∧
      (m.kind = .read len → s.ownUndelivered m = false → o = dieOf m.core → takes (.sliceRead k)) ∧
      (m.kind = .unit wb wt pz → here → s.canLog m.part m.addr m.place = true → applies (.sliceWriteApply k) m.bytes pz (fun w =>
        w.cores = s.cores)) ∧
      (m.kind = .unit wb wt pz → served → s.homeSlice m.place m.addr = n → wholePiece base m.bytes = true →
        s.onSlice n m.sbyte = none → s.canLog m.part m.addr m.place = true → (s.ensureTag n m.addr (pieceBase m.sbyte)).isSome = true →
        Makes (.sliceWriteApply k) s (fun w => w.onSlice n m.sbyte =
          some (overlay base (s.onStack m.stack m.sbyte).1 m.bytes, (s.onStack m.stack m.sbyte).2 || pz) ∧
          (w.slice n).mshrs = (s.slice n).mshrs ∧ w.cores = s.cores)) ∧
      (m.kind = .unit wb wt pz → here → s.canLog m.part m.addr m.place = false →
        exec (.sliceWriteApply k) s = .next (s.modPart m.part (fun p => { p with ckptWanted := true }))) ∧
      (m.kind = .atomic op → here → o = dieOf m.core →
        let was := Machine.slice old (m.addr % 64) (atomBytes op)
        (mark = true → Makes (.sliceAtomic k) s (fun w => quiet w ∧ w.onSlice n m.sbyte = some (old, true) ∧ replies w ⟨m.id, was, true, 0, 0⟩)) ∧
        (mark = false → s.canLog m.part m.addr m.place = true → applies (.sliceAtomic k)
          (cellsAt m.addr (toBytes (atomBytes op) (atomNew op (ofBytes was)))) false (fun w => replies w ⟨m.id, was, false, 0, 0⟩))) ∧
      (m.kind = .read len → s.ownUndelivered m = true → exec (.sliceRead k) s = .next s) ∧
      (m.kind = .read len → s.ownUndelivered m = false →
        (here → o = dieOf m.core → Makes (.sliceRead k) s (fun w => quiet w ∧ w.onSlice n m.sbyte = some (old, mark) ∧
          replies w ⟨m.id, Machine.slice old (m.addr % 64) len, mark, 0, 0⟩)) ∧
        (served → s.homeSlice m.place m.addr = n → s.onSlice n m.sbyte = none → s.moveHold m.place m.addr = false →
          64 ≤ (s.slice n).mshrs.length → (s.slice n).filter.any (fun e => e.1 = granOf m.sbyte) = false → o = dieOf m.core →
          let st := s.onStack m.stack m.sbyte
          Makes (.sliceRead k) s (fun w => quiet w ∧ (w.slice n).mshrs = (s.slice n).mshrs ∧
            (w.slice n).bypass = Nat.min ((s.slice n).bypass + 1) (2 ^ 32 - 1) ∧
            replies w ⟨m.id, Machine.slice st.1 (m.addr % 64) len, st.2, 0, 0⟩)) ∧
        (m.ctx < 16 → o ≠ dieOf m.core → sysByte m.sbyte = none → s.inFlight.any (fun e => s.mustFollow m e) = false → (s.die (dieOf m.core)).viewOf m.stack (m.sbyte / 64) = some v →
          Makes (.sliceRead k) s (fun w => quiet w ∧ w.slice n = s.slice n ∧
            replies w ⟨m.id, Machine.slice v.data (m.addr % 64) len, v.poison, 0, 0⟩)) ∧
        (o ≠ dieOf m.core → (s.die (dieOf m.core)).viewOf m.stack (m.sbyte / 64) = none ∨ (sysByte m.sbyte).isSome = true → here → Makes (.sliceRead k) s (fun w =>
          quiet w ∧ w.cores = s.cores ∧ ∃ x y, (w.die (dieOf m.core)).inbox = (s.die (dieOf m.core)).inbox ++ [x] ∧ x.sender = o ∧
            x.piece.data = old ∧ x.reply = some y ∧ y.id = m.id ∧ y.bytes.map (·.2) = Machine.slice old (m.addr % 64) len)))) ∧
    (∀ n, ((s.slice n).mshrs)[k]? = some m →
      ((s.slice n).mshrs.take k).any (fun e => e.samePiece m) = true ∨ m.behindBank ((s.slice n).mshrs.take k) = true →
      exec (.stackReadReturn n k) s = .next s) ∧
    (((s.slice m.slice).mshrs)[k]? = some m → ((s.slice m.slice).mshrs.take k).any (fun e => e.samePiece m) = false →
      s.homeSlice m.place m.addr = m.slice → (s.slice m.slice).tagAt m.sbyte = some tg → s.onSlice m.slice m.sbyte = none →
      s.moveHold m.place m.addr = false → m.kind = .read len → s.ownerDie m.stack = dieOf m.core →
      let st := (s.onStack m.stack m.sbyte).1
      let pz := (s.onStack m.stack m.sbyte).2
      Makes (.stackReadReturn m.slice k) s (fun w => w.onSlice m.slice m.sbyte = some (st, pz) ∧
        (w.slice m.slice).mshrs = dropAt (s.slice m.slice).mshrs k ∧ SameMemory s w ∧
        (w.ctx m.core m.ctx).replies = (s.ctx m.core m.ctx).replies ++
          (if m.ctx < 16 then [⟨m.id, Machine.slice st (m.addr % 64) len, pz, 0, 0⟩] else []))) ∧
    (∀ n, (s.slice n).hold = true ∨ (s.slice n).queue = [] → Makes (.stackWriteAck n k) s (fun w => SliceOnly s w n ∧ (w.slice n).filter = dropAt (s.slice n).filter k ∧ (w.slice n).tags = (s.slice n).tags)) ∧
    (((s.die e).inbox)[k]? = none → exec (.dieViewDelivery e k) s = .next s) ∧
    (((s.die e).inbox)[k]? = some u →
      let first := ((s.die e).inbox.take k).any (fun x => x.sender = u.sender) = false ∧ coversBut (s.die e).clock u.vec u.sender = true
      let p := u.piece
      (¬first → exec (.dieViewDelivery e k) s = .next s) ∧
      (first → u.reply = none → Makes (.dieViewDelivery e k) s (fun w =>
        { w with dies := s.dies } = s ∧ (∀ d, d ≠ e → w.die d = s.die d) ∧ (w.die e).inbox = dropAt (s.die e).inbox k ∧
        (w.die e).clock = joinClock (s.die e).clock u.vec ∧
        (s.ownerDie p.stack = e → (w.die e).view = (s.die e).view) ∧
        (s.ownerDie p.stack ≠ e → (s.die e).viewOf p.stack p.piece = none → (w.die e).viewOf p.stack p.piece = some p) ∧
        (∀ v, s.ownerDie p.stack ≠ e → (s.die e).viewOf p.stack p.piece = some v →
          (w.die e).viewOf p.stack p.piece = some (if v.order < p.order then p else v)) ∧
        (∀ b c, ¬(b = p.stack ∧ c = p.piece) → (w.die e).viewOf b c = (s.die e).viewOf b c))) ∧
      (first → u.reply = some m → m.kind = .read len → Makes (.dieViewDelivery e k) s (fun w => SameMemory s w ∧
        (w.die e).inbox = dropAt (s.die e).inbox k ∧ (w.ctx m.core m.ctx).replies = (s.ctx m.core m.ctx).replies ++
          (if m.ctx < 16 then [⟨m.id, m.bytes.map (·.2), p.poison, 0, 0⟩] else []))))

/-! ### Steps of other agents: domain space -/

/-- DOMAIN OPERATIONS, R118, R132, R287, R303, R327, R335, R336, R387, R388: each of the six events has its effect as follows, or none where
there is nothing for it: an acknowledgement subtracts 1 from RFCOUNT, or
gives a load or an atomic its data and its mark; a refusal does the same and is recorded, the code of the first, and what the fabric does
not carry is always refused with code 2; operations of one thread go in order; at a message executor that is empty, one in an export window acts at device scope, any other is refused with code 2, one from
outside leaves an answer; one that must wait holds the executor, and what arrives stands behind it; a remote signal fills its register; a
fill at a gang tile fills a live context, and is discarded otherwise, the sender answered; a flit combines with its element, at any routing
tiles of the sender's partition on its way and at its destination, and a complete collective is written and acknowledged. The reading of log 66 is the
model's. -/
def Obligations.DomainOperationsActAndAnswer : Prop :=
  ∀ (s t : State) (k c n : Nat) (code : BitVec 8) (data bs : List Byte) (pz : Bool) (m : OutMsg) (e : DomMsg) (op : AtomOp) (word v : Word),
    let goes := fun (i : Instr) (u : State) (p : Nat) (here : Option Nat) (f : Flit) (by_ : List Agent) =>
      let ts := u.hops p here f
      let ends := fun (w : State) => w.partials = u.partials ∧ w.collectives = mergeFlit u.collectives f by_
      let hops := fun (w : State) => w.collectives = u.collectives ∧ ∃ y ∈ ts, w.partialsAt y = mergeFlit (u.partialsAt y) f by_ ∧
        ∀ z, z ≠ y → w.partialsAt z = u.partialsAt z
      (u.flitRoom f = true → Makes i s (fun w => w.outbox = u.outbox ∧ w.cores = s.cores ∧ SameMemory s w ∧ (ends w ∨ hops w) ∧
        (ts = [] → ends w))) ∧
      (u.flitRoom f = false → Makes i s (fun w => w = s ∨ (w.outbox = u.outbox ∧ w.cores = s.cores ∧ SameMemory s w ∧ hops w)))
    (s.outbox[k]? = none → exec (.remoteAck k ⟨data, pz⟩) s = .next s ∧ exec (.remoteRefusal k code) s = .next s ∧
      (s.executor = [] → exec (.domainMessageArrival (.own k)) s = .next s) ∧
      (s.partials[k - s.outbox.length]? = none → exec (.reductionFlitArrival (.own k)) s = .next s) ∧
      (∀ h q, s.partials[k - s.outbox.length]? = some (h, q) →
        goes (.reductionFlitArrival (.own k)) { s with partials := dropAt s.partials (k - s.outbox.length) } (s.tilePart h) (some h)
          ⟨q.group, q.elem, q.op, q.count⟩ q.issuers)) ∧
    (∀ r rs, s.executor = r :: rs → s.runOne r = none → s.linkFailed.contains (9 * 2 ^ 16 + e.port) = false →
      exec (.domainMessageArrival (.ext e)) s = .next { s.wantFull with executor := r :: rs ++ [.ext e] }) ∧
    (s.outbox[k]? = some m → s.seat m.by_ = some c → (s.part m.by_.part).ckpt.all (fun q => decide (q.mark ≤ m.id)) = true →
      let x := m.by_.ctx
      let settles := fun (i : Instr) (f : Ctx → Ctx) => Makes i s (fun w => w.ctx c x = f (s.ctx c x) ∧
        (∀ d y, ¬(d = c ∧ y = x) → w.ctx d y = s.ctx d y) ∧ w.outbox = dropAt s.outbox k ∧ SameMemory s w)
      let refusal := fun (code : Nat) (t : Ctx) => ({ t with
        rfcount := t.rfcount - 1, refCount := Nat.min (t.refCount + 1) 0xFFFFFF, refCode := if t.refCount = 0 then code else t.refCode } : Ctx)
      let gets := fun (r : Reply) (t : Ctx) => ({ t with replies := t.replies ++ [r] } : Ctx)
      let far := m.isFlit = false ∧ m.dev ≠ s.devnum.toNat
      let near := m.isFlit = false ∧ m.dev = s.devnum.toNat
      let posted := waitsFor m.op = none
      (¬far → exec (.remoteAck k ⟨data, pz⟩) s = .next s ∧ exec (.remoteRefusal k code) s = .next s) ∧
      (far → posted →
        (m.barred = true → settles (.remoteAck k ⟨data, pz⟩) (refusal 2) ∧ settles (.remoteRefusal k code) (refusal 2)) ∧
        (m.barred = false → settles (.remoteAck k ⟨data, pz⟩) (fun t => { t with rfcount := t.rfcount - 1 }) ∧
          settles (.remoteRefusal k code) (refusal code.toNat))) ∧
      (far → waitsFor m.op = some n →
        let turned := fun (c : Nat) => gets ⟨m.id, [], false, Cause.remoteRefused, c⟩
        (m.barred = true → settles (.remoteAck k ⟨data, pz⟩) (turned 2) ∧ settles (.remoteRefusal k code) (turned 2)) ∧
        (m.barred = false → settles (.remoteAck k ⟨data, pz⟩) (gets ⟨m.id, Machine.slice data 0 n, pz, 0, 0⟩) ∧
          settles (.remoteRefusal k code) (turned code.toNat))) ∧
      (¬near → s.executor = [] → exec (.domainMessageArrival (.own k)) s = .next s) ∧
      (near → s.executor = [] → (s.outbox.take k).any (fun y => y.by_ == m.by_ && y.dev == m.dev) = true → exec (.domainMessageArrival (.own k)) s = .next s) ∧
      (near → s.executor = [] → (∀ j y, s.outbox[j]? = some y → y.id = m.id → j = k) →
        (s.outbox.take k).any (fun y => y.by_ == m.by_ && y.dev == m.dev) = false →
        let P := s.part m.by_.part
        let pa := P.exportPa + (m.off - P.exportBase)
        let d := s.homeDie m.by_.part pa
        (m.op = .store bs → P.exports m.off bs.length = false → settles (.domainMessageArrival (.own k)) (refusal 2)) ∧
        (m.op = .load n → P.exports m.off n = false →
          settles (.domainMessageArrival (.own k)) (gets ⟨m.id, [], false, Cause.remoteRefused, 2⟩)) ∧
        (m.op = .store bs → P.exports m.off bs.length = true → P.inReset = false → (P.place pa).isSome = true →
          s.devWrite d m.by_.part pa (bs.length + 1) bs = some t → Makes (.domainMessageArrival (.own k)) s (fun w =>
            w.outbox = dropAt s.outbox k ∧ (w.ctx c x).rfcount = (s.ctx c x).rfcount - 1 ∧ ∀ n sb, w.onSlice n sb = t.onSlice n sb)) ∧
        (m.op = .store bs → P.exports m.off bs.length = true → P.inReset = true → settles (.domainMessageArrival (.own k)) (refusal 1))) ∧
      (m.isFlit = true → m.op = .atomic op →
        let g := m.off / 2 ^ 20 % 256
        let el := m.off % 2 ^ 20
        let N := tget 0 s.groups g
        (N = 0 → settles (.reductionFlitArrival (.own k)) (refusal 2)) ∧
        let u := { s with outbox := dropAt s.outbox k }
        let f : Flit := ⟨g, el, op, 1⟩
        (N ≠ 0 → goes (.reductionFlitArrival (.own k)) u m.by_.part none f [m.by_]) ∧
        (N ≠ 0 → u.hops m.by_.part none f = [] →
          (s.collective g el = none → Makes (.reductionFlitArrival (.own k)) s (fun w =>
            w.collectives = s.collectives ++ [⟨g, el, op, 1, [m.by_]⟩])) ∧
          (∀ q, s.collective g el = some q →
            (N < q.count + 1 → exec (.reductionFlitArrival (.own k)) s = .next s) ∧
            (q.count + 1 ≤ N → Makes (.reductionFlitArrival (.own k)) s (fun w =>
              ∃ r, w.collective g el = some r ∧ r.count = q.count + 1 ∧ r.issuers = q.issuers ++ [m.by_] ∧
                (atomArg r.op) = w64 (atomNew op ((atomArg q.op).toNat % 2 ^ (8 * atomBytes op))))))))) ∧
    (s.executor = [] → s.linkFailed.contains (9 * 2 ^ 16 + e.port) = true → exec (.domainMessageArrival (.ext e)) s = .next s) ∧
    (s.executor = [] → s.linkFailed.contains (9 * 2 ^ 16 + e.port) = false →
      (e.op = .store bs → s.exportPart e.port e.off.toNat bs.length = none →
        exec (.domainMessageArrival (.ext e)) s = .next { s with answers := s.answers ++ [⟨e, some 2, [], false⟩] }) ∧
      (∀ p, e.op = .store bs → s.exportPart e.port e.off.toNat bs.length = some p → (s.part p).inReset = false →
        let pa := (s.part p).exportPa + (e.off.toNat - (s.part p).exportBase)
        ((s.part p).place pa).isSome = true →
        (s.devWrite (s.homeDie p pa) p pa (bs.length + 1) bs = some t →
          Makes (.domainMessageArrival (.ext e)) s (fun w => bit (w.part p).ckptctl 10 = true ∧ w.executor = [] ∧
            w.answers = t.answers ++ [⟨e, none, [], false⟩] ∧
            { w with parts := t.parts, answers := t.answers, executor := t.executor } = t)) ∧
        (s.devWrite (s.homeDie p pa) p pa (bs.length + 1) bs = none →
          exec (.domainMessageArrival (.ext e)) s = .next { s.wantFull with executor := [.ext e] })) ∧
      (∀ p, e.op = .load n → s.exportPart e.port e.off.toNat n = some p → (s.part p).inReset = false →
        let pa := (s.part p).exportPa + (e.off.toNat - (s.part p).exportBase)
        ∀ pz, ((s.part p).place pa).isSome = true → s.devRead (s.homeDie p pa) p pa (n + 1) n = some (bs, pz, t) →
          exec (.domainMessageArrival (.ext e)) s = .next { t with answers := t.answers ++ [⟨e, none, bs.take n, pz⟩], executor := [] }) ∧
      (∀ p T, e.op = .signal word v → s.portPart e.port = some p → (s.part p).inReset = false → (s.part p).task (fld word 63 32) = some T →
        fld word 63 32 ≠ 0 → T.phase = .running → T.tiles[fld word 29 18]? = some c → (s.ctx c (fld word 13 10)).live = true →
        0 < fld word 9 4 → fld word 9 4 < 32 → Makes (.domainMessageArrival (.ext e)) s (fun w => SameMemory s w ∧
          w.answers = s.answers ++ [⟨e, none, [], false⟩] ∧ tget GVal.zero (w.ctx c (fld word 13 10)).g (fld word 9 4) = ⟨v, true⟩ ∧
          ∀ d y, ¬(d = c ∧ y = fld word 13 10) → w.ctx d y = s.ctx d y))) ∧
    (∀ (a : Msg) (h y reg : Nat), s.net[k]? = some a → a.kind = .fill h y reg v →
      let w0 := { s with net := dropAt s.net k }
      let answered := fun (w : State) => if a.ctx < 16 then w.modCtx a.core a.ctx (fun t => { t with replies := t.replies ++ [⟨a.id, [], false, 0, 0⟩] }) else w
      ((s.ctx h y).live = false → exec (.signalFillArrival k) s = .next (answered w0)) ∧
      ((s.ctx h y).live = true → 0 < reg → reg < 32 →
        exec (.signalFillArrival k) s = .next (answered (w0.modCtx h y (fun t => { t with g := tput t.g reg ⟨v, true⟩ })))) ∧
      ((s.ctx h y).live = true → 32 ≤ reg →
        exec (.signalFillArrival k) s = .next (answered (w0.modCore h (fun c => { c with s := tput c.s (reg - 32) ⟨v, true⟩ }))))) ∧
    (∀ g el, s.collective g el = none → exec (.collectiveComplete g el) s = .next s) ∧
    (∀ g el q, s.collective g el = some q →
      (q.count ≠ tget 0 s.groups g → exec (.collectiveComplete g el) s = .next s) ∧
      (∀ a, q.count = tget 0 s.groups g → s.writeMembers q = some t → q.issuers = [a] → t.seat a = some c →
        Makes (.collectiveComplete g el) s (fun w => (w.ctx c a.ctx).rfcount = (t.ctx c a.ctx).rfcount - 1 ∧
          w.collectives = t.collectives.filter (fun y => decide (y ≠ q)) ∧ ∀ n, w.slice n = t.slice n)))

/-! ### Steps of other agents: the census, role changes, lease events -/

/-- THE CENSUS, R307, R308, R318 to R323: at a census tick, behind the lease events of that tick, CENSUSCTL as last written takes effect; unless it
disables the census, the record of the point is written with its tick and its counts, and a valid proposal word is accepted, its change recorded for the
tick a lead later, or given its outcome, which outcomes 4 and 7 leave valid; an offer whose point has come ends the hold and the lease of
its role and records its change. The clauses are for a partition with no proposal word but the first valid, and with no offers or with the
one of its only role. The readings of log 17 and 56 are the model's. -/
def Obligations.CensusActsOnProposals : Prop :=
  ∀ (s : State) (p : Nat) (r : Role) (q : RoleReq),
    let P := s.part p
    let now := s.gtime.toNat
    let u := s.modPart p (fun q => { q with censusctl := q.censusNext, lastCensus := now })
    let w := P.propAt 0
    let o := u.outcome p (fld P.censusNext 39 32) w
    let tile := fld w 10 0
    let tick := now + 1000 * Nat.max 20 (fld P.censusNext 31 16)
    let leasesDue := P.roles.any (fun r => r.leaseTicks.any (fun t => decide (t ≤ now))) = true
    let point := s.censusDue p = true ∧ ¬leasesDue
    (¬point → exec (.censusPoint p) s = .next s) ∧
    (point → bit P.censusNext 40 = false → exec (.censusPoint p) s = .next u) ∧
    (point → bit P.censusNext 40 = true → (∀ r ∈ P.roles, r.req = none) → P.sys.wf = true →
      (∀ i, 0 < i → i < 32 → bit (P.propAt i) 63 = false) →
      (bit w 63 = false → Makes (.censusPoint p) s (fun v => (v.part p).sys.readN 0 8 = toBytes 8 now ∧
        (v.part p).sys.readN 8 8 = toBytes 8 (waitUnits P.queueWait) ∧ (v.part p).sys.readN 16 8 = toBytes 8 (waitUnits P.storeWait) ∧
        (v.part p).sys.readN 40 8 = toBytes 8 0 ∧ (∀ a, 64 ≤ a → (v.part p).sys.read a = P.sys.read a) ∧
        (v.part p).queueWait = 0 ∧ (v.part p).storeWait = 0 ∧ (v.part p).changes = P.changes ∧ (v.part p).roles = P.roles ∧
        (v.part p).censusctl = P.censusNext ∧ (v.part p).lastCensus = now ∧ v.cores = s.cores ∧ ∀ q, q ≠ p → v.part q = s.part q)) ∧
      (bit w 63 = true → o = 0 → Makes (.censusPoint p) s (fun v =>
        (v.part p).changes = P.changes ++ [⟨tile, u.propKind p w, tick, false, none, 0⟩] ∧ (v.part p).sys.readN 40 8 = toBytes 8 1 ∧
        (v.part p).propAt 0 = w64 (fld w 62 60 * 2 ^ 60 + fld w 55 0) ∧ ∀ c, (v.core c).tstate = (s.core c).tstate)) ∧
      (bit w 63 = true → o ≠ 0 → Makes (.censusPoint p) s (fun v => (v.part p).changes = P.changes ∧ v.cores = s.cores ∧
        (v.part p).sys.readN 40 8 = toBytes 8 (if o = 4 ∨ o = 7 then 0 else 2 ^ 32) ∧
        (v.part p).propAt 0 = w64 ((if o = 4 ∨ o = 7 then 2 ^ 63 else 0) + fld w 62 60 * 2 ^ 60 + o * 2 ^ 56 + fld w 55 0)))) ∧
    (point → bit P.censusNext 40 = true → (∀ i, i < 32 → bit (P.propAt i) 63 = false) → P.sys.wf = true →
      P.roles = [r] → r.req = some q → u.offerDue p r = true → 0 < fld P.censusNext 39 32 →
      let next : TileState := if q.kind = 2 then .reserved else .idle
      let kind : ChangeKind := if r.tile = none then .absent r.num else if r.storage then .leaveStorage r.num none next else .leaveRouting r.num next
      Makes (.censusPoint p) s (fun v => (v.part p).changes = P.changes ++ [⟨r.tile.getD numTiles, kind, tick, false, none, 0⟩] ∧
        (v.part p).roles = [{ r with changing := true, expiry := none, warn := false, warned := false, holder := none, req := none }] ∧
        (v.part p).sys.readN 40 8 = toBytes 8 1 ∧ (r.holder = none → r.expiry = none → v.cores = s.cores))) ∧
    (P.malformed w = true → o = 6) ∧
    (P.malformed w = false → (s.core tile).tstate = .retired → o = 5) ∧
    (P.malformed w = false → s.inBands p tile = true → (s.core tile).tstate = .bound → s.changing p tile = false →
      P.changes = [] → o = 1)

/-- ROLE CHANGES AND LEASE EVENTS, R306, R308, R310, R311, R316, R322, R323, R325, R326: a change begins at its tick, behind a census point of
that tick; a tile that becomes a routing or a storage tile has its entry, a new store zero, where the role map has room; an unbacked role
without destination is gone, and its tile goes on once what was past the lookup is; any other storage role stalls, also where it is to come
to a tile that leaves a role first, until its copy is made or its write-back is acknowledged by the stack, and then its entry names the new
tile, or none, while a further change of it leaves its marks; a routing role ends its lease, the warnings that were not raised with it,
and is unmapped after the drain, once the tile holds no flit; a lease warns 20,000 ticks before it ends and announces its end. The readings of log 57, 58
and 78 are the model's. -/
def Obligations.RolesChangeHands : Prop :=
  ∀ (s : State) (p k n d b : Nat) (ch : Change) (r : Role),
    let P := s.part p
    let now := s.gtime.toNat
    let rest := dropAt P.changes k
    let freed : TileState := if (s.core ch.tile).doomed then .retired else .idle
    let others := rest.filter (fun c => c.kind.roles.contains n)
    let settled := fun (r : Role) => ({ r with stalled := others.any (fun c => c.begun), changing := !others.isEmpty } : Role)
    let waits := [Instr.roleChange p k, .routingDrainComplete p k, .reseatFlip p k, .roleWritebackComplete p k]
    (P.changes[k]? = none → ∀ i ∈ waits, exec i s = .next s) ∧
    (P.changes[k]? = some ch → ch.begun = false → ∀ i ∈ ([.routingDrainComplete p k, .reseatFlip p k, .roleWritebackComplete p k] : List Instr),
      exec i s = .next s) ∧
    (P.changes[k]? = some ch → ch.begun = true ∨ now < ch.tick ∨ s.censusDue p = true → exec (.roleChange p k) s = .next s) ∧
    (P.changes[k]? = some ch → ch.begun = false → ch.tick ≤ now → s.censusDue p = false →
      (ch.kind = .idleToIdle → Makes (.roleChange p k) s (fun w => PartOnly s w p ∧ (w.part p).changes = rest)) ∧
      (ch.kind = .absent n → P.role n = some r → Makes (.roleChange p k) s (fun w => (w.part p).changes = rest ∧ w.cores = s.cores ∧
        (w.part p).role n = some (settled r))) ∧
      (ch.kind = .idleToRouting n → P.roleRoom n = true → Makes (.roleChange p k) s (fun w => (w.part p).changes = rest ∧
        (w.core ch.tile).tstate = .routing n ∧ (w.part p).role n = some (.fresh n false (some ch.tile) none) ∧ SameMemory s w)) ∧
      (ch.kind = .idleToRouting n ∨ ch.kind = .idleToStorage n → P.roleRoom n = false → Makes (.roleChange p k) s (fun w =>
        (w.part p).changes = rest ∧ (w.core ch.tile).tstate = freed ∧ (w.part p).roles = P.roles)) ∧
      (ch.kind = .idleToStorage n → P.roleRoom n = true → P.role n = none → Makes (.roleChange p k) s (fun w => (w.part p).changes = rest ∧
        (w.core ch.tile).tstate = .storage n ∧ (w.core ch.tile).store = [] ∧ (w.core ch.tile).storePoison = [] ∧
        (w.part p).role n = some (.fresh n true (some ch.tile) none) ∧ ∀ c, c ≠ ch.tile → w.core c = s.core c)) ∧
      (ch.kind = .idleToStorage n → P.roleRoom n = true → P.role n = some r → Makes (.roleChange p k) s (fun w => w.cores = s.cores ∧
        (w.part p).role n = some { r with stalled := true } ∧ (w.part p).changes[k]? = some { ch with begun := true, mark := some s.msgCtr })) ∧
      (ch.kind = .leaveStorage n none .idle → P.role n = some r → r.tile ≠ some ch.tile → Makes (.roleChange p k) s (fun w =>
        (w.part p).roles = P.roles ∧ (w.part p).changes = rest ∧ (w.core ch.tile).tstate = freed)) ∧
      (ch.kind = .leaveStorage n none .idle → P.role n = some r → r.tile = some ch.tile → r.backing = none →
        Makes (.roleChange p k) s (fun w => (w.part p).role n = none ∧ w.cores = s.cores ∧
          (w.part p).changes[k]? = some { ch with begun := true })) ∧
      (ch.kind = .leaveStorage n (some d) .idle ∨ (ch.kind = .leaveStorage n none .idle ∧ r.backing ≠ none) → P.role n = some r →
        r.tile = some ch.tile →
        Makes (.roleChange p k) s (fun w => w.cores = s.cores ∧ (w.part p).role n = some { r with stalled := true } ∧
          (w.part p).changes[k]? = some { ch with begun := true })) ∧
      (ch.kind = .leaveRouting n .idle → P.role n = some r → Makes (.roleChange p k) s (fun w =>
        (w.part p).role n = some { r with expiry := none, warn := false, warned := false, holder := none, req := none } ∧
        (w.part p).changes[k]? = some { ch with begun := true } ∧ (r.expiry.all (fun e => decide (e ≤ now)) = true → w.cores = s.cores) ∧
        (∀ e c, r.expiry = some e → now < e → s.seat r.leaser = some c →
          (w.ctx c r.leaser.ctx).events = (s.ctx c r.leaser.ctx).events.take 16 ++ withdrawn r.num ((s.ctx c r.leaser.ctx).events.drop 16)))) ∧
      (∀ m r', ch.kind = .leaveRouting n (.storage m) ∨ (ch.kind = .leaveStorage n none (.storage m) ∧ P.role n = some r ∧
          r.tile = some ch.tile) → P.role m = some r' → m ≠ n →
        Makes (.roleChange p k) s (fun w => (w.part p).role m = some { r' with stalled := true } ∧
          (w.part p).changes[k]? = some { ch with begun := true }))) ∧
    (P.changes[k]? = some ch → ch.begun = true →
      (ch.kind = .leaveRouting n .idle → s.partials.any (fun e => e.1 = ch.tile) = true → exec (.routingDrainComplete p k) s = .next s) ∧
      (ch.kind = .leaveRouting n .idle → s.partials.any (fun e => e.1 = ch.tile) = false → Makes (.routingDrainComplete p k) s (fun w => (w.part p).role n = none ∧ (w.part p).changes = rest ∧
        (w.core ch.tile).tstate = freed ∧ SameMemory s w)) ∧
      (ch.kind = .leaveStorage n (some d) .idle → s.roleBusy ch.tile = true ∨ P.earlier k n = true → exec (.reseatFlip p k) s = .next s) ∧
      (ch.kind = .leaveStorage n (some d) .idle → s.roleBusy ch.tile = false → P.earlier k n = false → P.role n = some r → d ≠ ch.tile →
        Makes (.reseatFlip p k) s (fun w => (w.core d).store = (s.core ch.tile).store ∧ (w.core d).storePoison = (s.core ch.tile).storePoison ∧
          (w.core d).tstate = .storage n ∧ (w.core ch.tile).tstate = freed ∧ (w.part p).changes = rest ∧
          (w.part p).role n = some (settled { r with tile := some d }) ∧ ∀ c, c ≠ d → (w.core c).store = (s.core c).store)) ∧
      (ch.kind = .idleToStorage n → P.role n = some r → r.tile = some d → d ≠ ch.tile → s.roleBusy d = false → P.earlier k n = false →
        Makes (.reseatFlip p k) s (fun w => (w.core ch.tile).store = (s.core d).store ∧ (w.core ch.tile).storePoison = (s.core d).storePoison ∧
          (w.core ch.tile).tstate = .storage n ∧ (w.core d).tstate = (if (s.core d).doomed then .retired else .idle) ∧
          (w.part p).changes = rest ∧ (w.part p).role n = some (settled { r with tile := some ch.tile }) ∧
          ∀ c, c ≠ ch.tile → (w.core c).store = (s.core c).store)) ∧
      (ch.kind = .leaveStorage n none .idle → s.roleBusy ch.tile = true ∨ P.earlier k n = true →
        exec (.roleWritebackComplete p k) s = .next s) ∧
      (ch.kind = .leaveStorage n none .idle → s.roleBusy ch.tile = false → P.earlier k n = false → P.role n = none →
        Makes (.roleWritebackComplete p k) s (fun w => (w.part p).changes = rest ∧ (w.core ch.tile).tstate = freed)) ∧
      (ch.kind = .leaveStorage n none .idle → s.roleBusy ch.tile = false → P.earlier k n = false → P.role n = some r → r.tile = some ch.tile →
        r.backing = some b →
        (ch.mark = none →
          let t := (s.writeBacking ch.tile p b ch.pos).1
          let pos := (s.writeBacking ch.tile p b ch.pos).2
          let put := fun (c : Change) => t.modPart p (fun x => { x with changes := setAt x.changes k c })
          (pos = 32768 → exec (.roleWritebackComplete p k) s = .next (put { ch with mark := some t.msgCtr })) ∧
          (pos ≠ 32768 → exec (.roleWritebackComplete p k) s = .next ((put { ch with pos := pos }).wantTight p))) ∧
        (∀ m, ch.mark = some m →
          (s.deliveredAll m = false → exec (.roleWritebackComplete p k) s = .next s) ∧
          (s.deliveredAll m = true →
            (s.backingDirty p b = true → exec (.roleWritebackComplete p k) s = .next (s.flushRange p b (2 ^ 21) false)) ∧
            (s.backingDirty p b = false → s.backingUnacked p b = true → exec (.roleWritebackComplete p k) s = .next s) ∧
            (s.backingDirty p b = false → s.backingUnacked p b = false → Makes (.roleWritebackComplete p k) s (fun w =>
              (w.part p).changes = rest ∧ (w.core ch.tile).tstate = freed ∧
              (w.part p).role n = some (settled { r with tile := none }))))))) ∧
    (P.role n = none → exec (.leaseExpiring p n) s = .next s ∧ exec (.leaseExpired p n) s = .next s) ∧
    (P.role n = some r →
      let x := r.leaser.ctx
      let posts := fun (i : Instr) (c : Nat) (e : Ev) (r' : Role) => Makes i s (fun w => (w.part p).role n = some r' ∧
        (w.ctx c x).events = (s.ctx c x).events ++ [e] ∧ (∀ d y, ¬(d = c ∧ y = x) → w.ctx d y = s.ctx d y) ∧ SameMemory s w)
      (r.expiry = none → exec (.leaseExpiring p n) s = .next s ∧ exec (.leaseExpired p n) s = .next s) ∧
      (∀ e, r.expiry = some e → r.warn = false ∨ r.warned = true ∨ now + 20000 < e → exec (.leaseExpiring p n) s = .next s) ∧
      (∀ e, r.expiry = some e → now < e ∨ (r.warn = true ∧ r.warned = false) → exec (.leaseExpired p n) s = .next s) ∧
      (∀ e c, r.expiry = some e → s.seat r.leaser = some c → (s.ctx c x).live = true →
        (r.warn = true → r.warned = false → e ≤ now + 20000 → posts (.leaseExpiring p n) c ⟨Cause.leaseExpiring, w64 n, w64 e, none, none⟩ { r with warned := true }) ∧
        (e ≤ now → r.warn = false ∨ r.warned = true → posts (.leaseExpired p n) c ⟨Cause.leaseExpired, w64 n, 0, none, none⟩ { r with expiry := none })))

/-! ### Steps of other agents: gang switch, checkpoints, faults, reset, resize -/

/-- GANGS SAVED AND RESUMED, R264, R328 to R331, R345, R376 to R380: at its switch tick a gang whose accesses are over and whose
caches are empty is saved as it stands, with the stores and fills that no destination has accepted and the requests that a couch holds, and
its tiles are freed; it resumes on idle tiles of one die with its registers, stores and clocks, what had fallen out sent again, told by
GANG_RESUMED, and issue once that has reached its tiles; a capture at rest saves the window, the roles and the dispatch set under the next number,
clears the undo log and lets the reports so far go; a rollback drops the gangs, then writes the logged pieces back and takes the
captured state up again. The readings of log 60, 61 and 62 are the model's. -/
def Obligations.GangsAreSavedAndResumed : Prop :=
  ∀ (s v : State) (p id : Nat) (tiles : List Nat) (t : Task) (q : Ckpt) (u : Undo),
    let P := s.part p
    let now := s.gtime.toNat
    let freed := fun (w : State) (c : Nat) => (w.core c).tstate = (if (s.core c).doomed then .retired else .idle) ∧ (w.core c).taskId = 0 ∧
      ∀ y, ((w.core c).ctx y).state = .free
    (P.task id = none → exec (.gangSwitchStop p id) s = .next s) ∧
    (P.task id = some t →
      (t.phase ≠ .running ∨ t.switchAt.all (fun n => decide (now < n)) = true → exec (.gangSwitchStop p id) s = .next s) ∧
      (∀ n, t.phase = .running → t.switchAt = some n → n ≤ now →
        let left := s.net.filter (fun m => !(s.fallen t.tiles).any (fun e => e.id == m.id && e.core == m.core))
        (({ s with net := left } : State).gangBusy t.tiles = true ∨ s.gangMoving t.tiles = true → exec (.gangSwitchStop p id) s = .next s) ∧
        (({ s with net := left } : State).gangBusy t.tiles = false → s.gangMoving t.tiles = false → (∀ c ∈ t.tiles, (s.core c).cache = []) →
          Makes (.gangSwitchStop p id) s (fun w => (∀ c ∈ t.tiles, freed w c) ∧ (∀ c, c ∉ t.tiles → w.core c = s.core c) ∧
            w.net = left ∧ ∃ r, (w.part p).task id = some r ∧ r.phase = .saved ∧ r.tiles = [] ∧ r.flits = s.fallen t.tiles ∧ r.was = t.tiles ∧ r.stopped = n ∧ r.switchAt = none ∧ r.level = t.record.prio ∧
              r.saved.map (fun k => k.store) = t.tiles.map (fun c => (s.core c).store) ∧
              (∀ (i : Nat) c k, t.tiles[i]? = some c → r.saved[i]? = some k → k.s = (s.core c).s ∧ k.acc = (s.core c).acc ∧ k.mq = (s.core c).mq ∧
                k.wl = (s.core c).wl ∧ ∀ y, (k.ctx y).g = (s.ctx c y).g ∧ (k.ctx y).pc = (s.ctx c y).pc ∧ (k.ctx y).level = (s.ctx c y).level ∧
                  (k.ctx y).state = (s.ctx c y).state))))) ∧
    (headOf P.window = none → exec (.gangResume p id tiles) s = .next s) ∧
    (headOf P.window = some t →
      let may := t.id = id ∧ t.phase = .saved ∧ P.stopped = false ∧ s.bindable p (dieOf (tiles.headD 0)) t.saved.length tiles = true ∧
        s.clockCovers (dieOf (tiles.headD 0)) t.vec = true
      (¬may → exec (.gangResume p id tiles) s = .next s) ∧
      (may → (∀ h ∈ P.held, h.to_.task ≠ id) → Makes (.gangResume p id tiles) s (fun w =>
        w.net = s.net ++ t.flits.map (fun m => m.moved t.was tiles) ∧
        (∀ e ∈ (w.part p).window, e.id = id → e.phase = .running ∧ e.tiles = tiles ∧ e.saved = [] ∧
          e.flits = (t.flits.map (fun m => m.moved t.was tiles)).filter (fun m => m.kind.toTile)) ∧ (∀ c, c ∉ tiles → w.core c = s.core c) ∧
        ∀ (i : Nat) c k, tiles[i]? = some c → t.saved[i]? = some k → (w.core c).tstate = .bound ∧ (w.core c).store = k.store ∧
          (w.core c).s = k.s ∧ (w.core c).acc = k.acc ∧ (w.core c).cycle = k.cycle ∧ ∀ y, y < 16 → (w.ctx c y).g = (k.ctx y).g ∧
            (w.ctx c y).pc = (k.ctx y).pc ∧ (w.ctx c y).level = (k.ctx y).level ∧ (w.ctx c y).events = (k.ctx y).events ++
              (if t.rolled = false ∧ (k.ctx y).state = .running then [⟨Cause.gangResumed, w64 t.stopped, s.gtime, none, none⟩] else [])))) ∧
    (∀ c, isAtelier c = false → (s.taskOf c).any s.reinjecting = true → s.frozen c = true) ∧
    (P.present = false ∨ P.stopped = true ∨ P.inReset = true → exec (.checkpointCapture p) s = .next s) ∧
    (P.present = true → P.stopped = false → P.inReset = false →
      (P.capture = none → s.captureDue p = false → exec (.checkpointCapture p) s = .next s) ∧
      (P.capture = none → s.captureDue p = true → exec (.checkpointCapture p) s = .next (s.modPart p (fun x => { x with capture := some now }))) ∧
      (∀ tick, P.capture = some tick → P.logTight = true →
        (s.repliesDue P.gangTiles = true → exec (.checkpointCapture p) s = .next s) ∧
        (s.repliesDue P.gangTiles = false → (∀ c ∈ P.gangTiles, (s.core c).cache = []) →
          exec (.checkpointCapture p) s = .next (s.captureDone p tick).hostGoOn)) ∧
      (∀ tick, P.capture = some tick → P.logTight = false →
        (s.gangBusy P.gangTiles = false → s.gangMoving P.gangTiles = false → (∀ c ∈ P.gangTiles, (s.core c).cache = []) →
          exec (.checkpointCapture p) s = .next (s.captureDone p tick).hostGoOn) ∧
        (s.gangBusy P.gangTiles = true ∨ s.gangMoving P.gangTiles = true → exec (.checkpointCapture p) s = .next s) ∧
        (s.gangBusy P.gangTiles = false → s.gangMoving P.gangTiles = false → (∀ c ∈ P.gangTiles, (s.core c).cache = []) → s.hostRest = none →
          Makes (.checkpointCapture p) s (fun w => SameMemory s w ∧ (∀ c y, w.ctx c y = s.ctx c y) ∧
            let x := w.part p
            x.undo = [] ∧ x.capture = none ∧ x.ckptWanted = false ∧ x.released = P.reports.length ∧ x.window = P.window ∧
            fld x.ckptctl 63 32 = (fld P.ckptctl 63 32 + 1) % 2 ^ 32 ∧ bit x.ckptctl 10 = false ∧
            ∃ r, x.ckpt = some r ∧ r.tick = tick ∧ r.num = fld x.ckptctl 63 32 ∧ r.roles = P.roles ∧ r.dset = P.dset ∧ r.enq = P.enq ∧
              r.censusctl = P.censusctl ∧ r.censusNext = P.censusNext ∧
              r.nextTask = P.nextTask ∧ r.window.map (fun e => e.id) = P.window.map (fun e => e.id) ∧
              ∀ e ∈ r.window, e.phase ≠ .running)))) ∧
    (P.present = false ∨ P.stopped = false ∨ P.inReset = true ∨ P.ckpt = none → exec (.rollback p) s = .next s) ∧
    (P.present = true → P.stopped = true → P.inReset = false → P.ckpt = some q →
      (P.inRollback = false → P.canRollback = false → exec (.rollback p) s = .next s) ∧
      (P.inRollback = false → P.canRollback = true → Makes (.rollback p) s (fun w => (w.part p).inRollback = true ∧
        (∀ c ∈ P.gangTiles, freed w c) ∧ (∀ m ∈ w.inFlight, m.core ∉ P.gangTiles) ∧
        w.outbox = s.outbox.filter (fun m => decide (m.by_.part ≠ p) || decide (m.id < q.mark)))) ∧
      (P.inRollback = true → P.undo = [] ∨ (P.undo = [u] ∧ s.restorePiece p u = some v) → Makes (.rollback p) s (fun w =>
        let x := w.part p
        x.inRollback = false ∧ x.stopped = false ∧ x.undo = [] ∧ x.dset = q.dset ∧ x.nextTask = q.nextTask ∧ x.held = q.held ∧
        x.censusctl = q.censusctl ∧ x.censusNext = q.censusNext ∧
        x.enq = (q.enq ++ P.enqLog).take 64 ∧ x.window.map (fun e => (e.id, e.phase)) = q.window.map (fun e => (e.id, e.phase)) ∧
        (P.undo = [] → w.slices = s.slices) ∧ (P.undo = [u] → w.slices = v.slices) ∧
        (∀ n e h, P.undo = [u] → u.role = some n → P.role n = some e → e.tile = some h → u.old.length = 64 → u.sbyte % 64 = 0 →
          (s.core h).store.wf = true → (w.core h).store.readN u.sbyte 64 = u.old ∧
          (w.core h).storePoison.contains (u.sbyte / 64) = u.poison))))

/-- FAULTS, RESETS AND RESIZES, R356, R362, R363, R371 to R374, R381, R385: an uncorrectable fault leaves its data poisoned where it lies,
and the third one of a tile in an interval retires it; an unabsorbable fault stops its partition, to be rolled back, or reset where it
cannot be or one was under way, and its Atelier contexts are told, or the state that the firmware of a die keeps for one; a link, each port of a
tile's being one, retries a flit sixteen times; a scrub changes nothing that
software sees; a reset answers the queue, then clears the partition; a resize moves the granules at its deadline, zeroed. The readings of
log 63, 64, 65 and 77 are the model's. -/
def Obligations.FaultsResetsAndResizes : Prop :=
  ∀ (s t : State) (p k : Nat) (f : FaultIn) (link : LinkRef) (dst : Nat) (bands : BitVec 32) (halves : BitVec 16) (deadline : Nat) (r : Resize),
    let P := s.part p
    let now := s.gtime.toNat
    (f.unit = 0 ∨ 11 < f.unit → exec (.faultDetected f) s = .next s) ∧
    (f.unit = 1 → f.corrected = false → f.loc < scratchOf (s.core f.inst).split ∨ isAtelier f.inst = true → Makes (.faultDetected f) s (fun w =>
      (w.core f.inst).storePoison.contains (f.loc / 64) = true ∧ SameMemory s w ∧
      (isAtelier f.inst = false → tget 0 (s.core f.inst).faults 0 = 2 → (s.core f.inst).tstate = .idle → (w.core f.inst).tstate = .retired) ∧
      (isAtelier f.inst = false → tget 0 (s.core f.inst).faults 0 < 2 → (w.core f.inst).tstate = (s.core f.inst).tstate))) ∧
    (f.unit = 6 → f.corrected = false → Makes (.faultDetected f) s (fun w =>
      (w.stack f.inst).poison.contains (f.loc / 64) = true ∧ SameMemory s w ∧ ∀ n, w.slice n = s.slice n)) ∧
    (∀ d q, .resident d q ∈ s.faultTargets f → f.corrected = false → 1 ≤ f.unit → f.unit ≤ 11 →
      Makes (.faultDetected f) s (fun w => ∃ e, (q, e) ∈ (w.die d).waiting ∧ e.code = Cause.machineCheckFatal ∧ fld e.tstat 7 0 = f.unit ∧
        e.tval = faultTval f)) ∧
    (∀ x y, .ctx x y ∈ s.faultTargets f → (s.ctx x y).live = true → f.corrected = false → 1 ≤ f.unit → f.unit ≤ 11 →
      Makes (.faultDetected f) s (fun w => ∃ e n, (w.ctx x y).events = (s.ctx x y).events ++ List.replicate (n + 1) e ∧
        e.code = Cause.machineCheckFatal ∧ fld e.tstat 7 0 = f.unit ∧ e.tval = faultTval f)) ∧
    (f.state = some p → f.unit = 11 → s.faultParts f = [p] → Makes (.faultDetected f) s (fun w => (w.part p).stopped = true ∧ (w.part p).capture = none ∧
      (P.inRollback = false → P.stopped = false → P.canRollback = true → (w.part p).inReset = P.inReset) ∧
      (P.inRollback = true ∨ (P.stopped = false ∧ P.canRollback = false) → (w.part p).inReset = true ∧ (w.part p).inRollback = false))) ∧
    exec (.progressTimeout f) s = exec (.faultDetected { f with unit := 11, corrected := false }) s ∧
    (let key := link.unit * 2 ^ 16 + link.inst + (if link.unit = 7 then link.port % 4 * 2 ^ 24 else 0)
     let n := if link.again then tget 0 s.linkRetries key + 1 else 1
     (link.unit < 7 ∨ 10 < link.unit → exec (.flitCrcError link) s = .next s) ∧
     (7 ≤ link.unit → link.unit ≤ 10 →
       (n ≤ 16 → Makes (.flitCrcError link) s (fun w => tget 0 w.linkRetries key = n ∧ w.linkFailed = s.linkFailed ∧ SameMemory s w)) ∧
       (16 < n → Makes (.flitCrcError link) s (fun w => tget 0 w.linkRetries key = 0 ∧ SameMemory s w ∧
         w.linkFailed = s.linkFailed ++ (if link.retrainFails then [key] else []))))) ∧
    (∀ i ∈ ([.tileStoreScrub k, .sliceScrub k, .stackScrub k] : List Instr), exec i s = .next s) ∧
    (P.present = false → exec (.partitionReset p) s = .next s) ∧
    (P.present = true → P.inReset = false → Makes (.partitionReset p) s (fun w => PartOnly s w p ∧
      let x := w.part p
      x.inReset = true ∧ x.stopped = true ∧ x.enq = [] ∧ x.undo = [] ∧ x.capture = none ∧
      x.reports = P.reports ++ P.enq.map (fun _ => w64 (5 * 2 ^ 32)))) ∧
    (P.present = true → P.inReset = true → P.enq = [] → P.undo = [] → s.resetBusy p = true → exec (.partitionReset p) s = .next s) ∧
    (P.present = true → P.inReset = true → P.enq = [] → P.undo = [] → s.resetBusy p = false → s.resetReports p = some t → (t.part p).present = true →
      Makes (.partitionReset p) s (fun w =>
        let x := w.part p
        x.present = true ∧ x.inReset = false ∧ x.stopped = false ∧ x.window = [] ∧ x.roles = [] ∧ x.nextTask = 1 ∧
        x.ckptctl = ckptReset ∧ x.censusctl = censusReset ∧ x.tdeleg = tdelegReset ∧ x.bands = (t.part p).bands ∧
        x.halves = (t.part p).halves ∧ x.link = (t.part p).link ∧ x.ports = (t.part p).ports ∧ x.deckle = Part.reset.deckle ∧
        x.svcvec = Part.reset.svcvec ∧ x.stackright = Part.reset.stackright ∧ x.reports = (t.part p).reports ∧
        ∀ c ∈ (t.part p).tiles, ((w.core c).tstate = .idle ∨ (w.core c).tstate = .retired) ∧ (w.core c).store = [] ∧
          ∀ y, ((w.core c).ctx y).state = .free)) ∧
    (∀ vf, exec (.functionLevelReset vf) s = if 1 ≤ vf ∧ vf ≤ 16 then exec (.partitionReset (vf - 1)) s else .next s) ∧
    (let i := Instr.partitionResize p dst bands halves deadline
     (s.resizeOk p dst bands halves deadline = false → exec i s = .next s) ∧
     (s.resizeOk p dst bands halves deadline = true → Makes i s (fun w => (w.part p).resize = some ⟨dst, bands, halves, deadline⟩ ∧
       bit (w.part p).ckptctl 10 = true ∧ (w.part p).bands = P.bands ∧ SameMemory s w ∧
       let told : Ev := ⟨Cause.partitionShrink, w64 (bands.toNat + halves.toNat * 2 ^ 32), w64 deadline, none, none⟩
       ∀ d, d < 4 → (s.atelierCtx d p = none → (p, told) ∈ (w.die d).waiting) ∧
         ∀ h x, s.atelierCtx d p = some (h, x) → told ∈ (w.ctx h x).events))) ∧
    (P.resize = none → exec (.resizeDeadline p) s = .next s) ∧
    (P.resize = some r →
      let gone := (List.range 16).filter (fun h => nbit r.halves.toNat h && s.halfFree p r h)
      (now < r.deadline → exec (.resizeDeadline p) s = .next s) ∧
      (r.deadline ≤ now → P.window.any (fun t => t.tiles.any P.leaving) = true → Makes (.resizeDeadline p) s (fun w => PartOnly s w p ∧
        ∀ e ∈ (w.part p).window, e.tiles.any P.leaving = true → e.switchAt.any (fun n => decide (n ≤ now)) = true)) ∧
      (r.deadline ≤ now → P.window.any (fun t => t.tiles.any P.leaving) = false →
        P.leavingTiles.any (fun c => (s.core c).tstate.role.isSome || s.changing p c) = false → s.halvesBusy r = true →
        exec (.resizeDeadline p) s = .next s) ∧
      (r.deadline ≤ now → P.window.any (fun t => t.tiles.any P.leaving) = false →
        P.leavingTiles.any (fun c => (s.core c).tstate.role.isSome || s.changing p c) = false → s.halvesBusy r = false → r.dst ≠ p →
        Makes (.resizeDeadline p) s (fun w =>
          (w.part p).bands = P.bands &&& ~~~r.bands ∧ (w.part r.dst).bands = (s.part r.dst).bands ||| r.bands ∧ (w.part p).resize = none ∧
          (∀ h, h < 16 → nbit (w.part p).halves.toNat h = (nbit P.halves.toNat h && !gone.contains h)) ∧
          (∀ h ∈ gone, (w.part p).stackright.getLsbD (h / 2) = false ∧ bit (w.part p).ckptctl 10 = true) ∧
          (∀ h ∈ gone, ∀ a, a / 2 ^ 35 = h % 2 → (w.stack (h / 2)).mem.read a = 0) ∧
          (∀ n a, (∀ h ∈ gone, ¬(n = h / 2 ∧ a / 2 ^ 35 = h % 2)) → (w.stack n).mem.read a = (s.stack n).mem.read a) ∧
          ∀ c, (w.core c).store = if c ∈ P.leavingTiles then [] else (s.core c).store)))

/-! ### Steps of other agents: slices, stacks, splits, windows, the platform -/

/-- SLICES, STACKS AND SPLITS, R99, R100, R257, R262, R341 to R343, R348, R350 to R352, R357, R358, R379, R386: a couch goes through
its steps, flips the routing before the ownership, which flips once the new owner has had what the old one applied, and reports at the end; a SPLIT change waits, empties the portion, then gives
the converted banks zeros; a window takes a value that may stand, the interval can no longer be rolled back, and a range that is mapped
again has only the bytes of lines left cached under it changed; hold and release; a switch is armed or refused, takes force at
its tick, and is complete when the sweep is acknowledged; what a released slice cannot serve stays queued with what stands behind it; a
register write does what its register does. The readings of log 50
and 68 are the model's. -/
def Obligations.SlicesAndStacksAreControlled : Prop :=
  ∀ (s t : State) (n c x p i : Nat) (v : Word) (q : Couch) (ch : SplitChange) (m : Msg) (M : DMap),
    let S := s.stack n
    let A := s.stack (n / 16)
    let P := s.part p
    (S.couch = none → exec (.couchDrainStep n) s = .next s) ∧
    (S.couch = some q →
      (q.step = 1 → exec (.couchDrainStep n) s = .next (s.modStack n (fun k => { k with couch := some { q with step := 2, marks := [] } }))) ∧
      (q.step = 2 → s.inFlight.any (fun m => m.toStack n && m.kind.writes && (decide (m.id < q.start) || m.kind.isWb)) = true ∨ s.couchStores n q.start = true →
        exec (.couchDrainStep n) s = .next s) ∧
      (q.step = 2 → s.inFlight.any (fun m => m.toStack n && m.kind.writes && (decide (m.id < q.start) || m.kind.isWb)) = false → s.couchStores n q.start = false →
        Makes (.couchDrainStep n) s (fun w => (w.stack n).couch.map (fun k => k.step) = some 3 ∧ SameMemory s w ∧
          ∀ e ∈ s.cores, dieOf e.1 = s.ownerDie n → isAtelier e.1 = false → ∀ l ∈ (w.core e.1).cache, s.lineOn e.1 n l = false)) ∧
      (q.step = 3 → s.inFlight.any (fun m => q.marks.contains m.id) = true → exec (.couchDrainStep n) s = .next s) ∧
      (q.step = 3 → s.inFlight.any (fun m => q.marks.contains m.id) = false →
        exec (.couchDrainStep n) s = .next (s.modStack n (fun k => { k with couch := some { q with step := 4, marks := [] } }))) ∧
      (q.step = 4 → Makes (.couchDrainStep n) s (fun w => StackOnly s w n ∧ (w.stack n).route = !S.own ∧ (w.stack n).own = S.own ∧
        (w.stack n).couch = some { q with step := 5, marks := [] })) ∧
      (q.step = 5 →
        let old := s.ownerDie n
        let new := (s.modStack n (fun k => { k with own := !k.own })).ownerDie n
        let u := s.caughtUp new (s.die old).clock
        let ripe := covers (u.die new).clock (u.die old).clock = true ∧ (u.die new).inbox.any (fun e => e.piece.stack == n) = false
        (¬ripe → exec (.couchDrainStep n) s = .next u) ∧
        (ripe → Makes (.couchDrainStep n) s (fun w => (w.stack n).own = !(u.stack n).own ∧ (w.stack n).route = (u.stack n).route ∧
          (w.stack n).couch = some { q with step := 6, marks := [] } ∧ (∀ v ∈ (w.die new).view, v.stack ≠ n) ∧ SameMemory u w))) ∧
      (q.step = 6 → exec (.couchDrainStep n) s = .next (s.modStack n (fun k => { k with couch := some { q with step := 7, marks := [] } }))) ∧
      (q.step = 7 → s.seat q.by_ = some c → (s.ctx c q.by_.ctx).live = true → Makes (.couchDrainStep n) s (fun w => (w.stack n).couch = none ∧
        (w.stack n).own = S.own ∧ SameMemory s w ∧
        (∀ r, q.reg = some r → 0 < r → r < 32 → tget GVal.zero (w.ctx c q.by_.ctx).g r = ⟨s.couchStatus 0 n, true⟩) ∧
        (q.reg = none → (w.ctx c q.by_.ctx).events =
          (s.ctx c q.by_.ctx).events ++ [⟨Cause.couchDone, w64 n, s.couchStatus 0 n, none, none⟩])))) ∧
    ((s.core c).splitChange = none → exec (.splitWrite c) s = .next s) ∧
    ((s.core c).splitChange = some ch →
      (s.splitBusy c ch.code = true ∨ s.portionBusy c = true → exec (.splitWrite c) s = .next s) ∧
      (s.splitBusy c ch.code = false → s.portionBusy c = false →
        ((s.core c).cache ≠ [] → Makes (.splitWrite c) s (fun w => (w.core c).cache = [] ∧ (w.core c).split = (s.core c).split ∧ SameMemory s w)) ∧
        ((s.core c).cache = [] → (s.unfinished c).any (fun m => ch.marks.contains m.id) = true → exec (.splitWrite c) s = .next s) ∧
        ((s.core c).cache = [] → (s.unfinished c).any (fun m => ch.marks.contains m.id) = false → Makes (.splitWrite c) s (fun w =>
          CoreOnly s w c ∧ (w.core c).split = ch.code ∧ (w.core c).splitSeen = ch.code ∧ (w.core c).splitChange = none ∧
          let low := Nat.min (scratchOf (s.core c).split) (scratchOf ch.code)
          (∀ a, a < low → (w.core c).store.read a = (s.core c).store.read a) ∧ ∀ a, low ≤ a → (w.core c).store.read a = 0)))) ∧
    (16 ≤ i ∨ P.deckleRefused i v = true → exec (.deckleWrite p i v) s = .next s) ∧
    (i < 16 → P.deckleRefused i v = false → Makes (.deckleWrite p i v) s (fun w =>
      { w with parts := s.parts, cores := s.cores, freeCtr := s.freeCtr } = s ∧ (∀ q, q ≠ p → w.part q = s.part q) ∧
      tget 0 (w.part p).deckle i = v &&& 0xC0FFBFFFFF800000 ∧ (∀ j, j ≠ i → tget 0 (w.part p).deckle j = tget 0 P.deckle j) ∧
      bit (w.part p).ckptctl 10 = true ∧ (bit v 63 = false ∨ bit (tget 0 P.deckle i) 63 = true → w.cores = s.cores ∧ w.freeCtr = s.freeCtr) ∧
      ∀ c, ({ w.core c with cache := [] } : Core) = { s.core c with cache := [] } ∧
        (w.core c).cache.map (fun l => (l.line, l.dirty, l.poison, l.loc)) = (s.core c).cache.map (fun l => (l.line, l.dirty, l.poison, l.loc)))) ∧
    Makes (.sholdHold n) s (fun w => SliceOnly s w n ∧ (w.slice n).hold = true ∧ (w.slice n).queue = (s.slice n).queue ∧ (w.slice n).tags = (s.slice n).tags) ∧
    ((s.slice n).queue = [] → Makes (.sholdRelease n) s (fun w => SliceOnly s w n ∧ (w.slice n).hold = false ∧ (w.slice n).tags = (s.slice n).tags)) ∧
    ((s.slice n).queue = [m] → (s.modSlice n (fun l => { l with hold := false, queue := [] })).serve m = some t →
      exec (.sholdRelease n) s = .next t) ∧
    (∀ ms, let u := s.modSlice n (fun l => { l with hold := false, queue := [] })
      (s.slice n).queue = m :: ms → u.serve m = none → u.logFull m = false → Makes (.sholdRelease n) s (fun w =>
        SliceOnly s w n ∧ (w.slice n).hold = false ∧ (w.slice n).queue = m :: ms ∧ (w.slice n).tags = (s.slice n).tags)) ∧
    (v.toNat < s.gtime.toNat + 1000 ∨ A.armed.isSome = true ∨ A.switching = true ∨ fld v 63 62 ≠ 0 ∨
        P.hasHalf (2 * (n / 16)) = false ∨ P.hasHalf (2 * (n / 16) + 1) = false →
      exec (.dswitchArm n p v) s = .next (s.modStack (n / 16) (fun k => { k with dswitch := setBit k.dswitch 62 }))) ∧
    (s.armRefused (n / 16) p v = false → Makes (.dswitchArm n p v) s (fun w => StackOnly s w (n / 16) ∧ (w.stack (n / 16)).dswitch = v ∧
      (w.stack (n / 16)).armed = some ⟨A.nmap.setWidth 16, A.nrows, (A.inForce.seq + 1) % 16⟩)) ∧
    (S.armed = none → exec (.domainSwitch n) s = .next s) ∧
    (S.armed = some M → s.gtime.toNat < fld S.dswitch 61 0 → exec (.domainSwitch n) s = .next s) ∧
    (S.armed = some M → fld S.dswitch 61 0 ≤ s.gtime.toNat → (∀ k, k < 16 → (s.slice (16 * n + k)).tags = []) →
      Makes (.domainSwitch n) s (fun w => StackOnly s w n ∧ (w.stack n).inForce = M ∧ (w.stack n).req = M ∧ (w.stack n).armed = none ∧
        (w.stack n).switching = true ∧ (w.stack n).swept = 0 ∧ (w.stack n).dmap = S.dmap)) ∧
    (S.switching = false ∨ s.sweeping n = true → exec (.domainSwitchComplete n) s = .next s) ∧
    (S.switching = true → s.sweeping n = false → Makes (.domainSwitchComplete n) s (fun w => StackOnly s w n ∧ (w.stack n).dmap = S.inForce ∧
      (w.stack n).switching = false ∧ bit (w.stack n).dswitch 63 = true)) ∧
    (csrElsewhere i = true → exec (.registerWrite (.csr c x i) v) s = .next s) ∧
    Makes (.registerWrite (.csr c x 0x013) v) s (fun w => CtxOnly s w c x ∧ (w.ctx c x).tvec = v &&& ~~~3) ∧
    Makes (.registerWrite (.csr c x 0x100) v) s (fun w => PartOnly s w (s.partOf c x) ∧ (w.part (s.partOf c x)).svcvec = v &&& ~~~3) ∧
    exec (.registerWrite (.pf0 0x000) v) s = .next { s with modaddr := v } ∧
    exec (.registerWrite (.pf0 0x030) v) s = .next (if s.recovery then s else { s with rbsel := v }) ∧
    (n < 128 → Makes (.registerWrite (.slice p n 8) v) s (fun w => SliceOnly s w n ∧ (w.slice n).tagset = fld v 6 0 ∧ (w.slice n).tagway = fld v 11 8) ∧
      Makes (.registerWrite (.slice p n 42) v) s (fun w => StackOnly s w (n / 16) ∧
        (2 ≤ A.nrows.length → (w.stack (n / 16)).nrows[(1 : Nat)]? = some (v.setWidth 37)))) ∧
    (128 ≤ n → exec (.registerWrite (.slice p n i) v) s = .next s)

/-- THE PLATFORM, R1, R250, R346, R355, R382 to R387, R390 to R392: the ring registers, the power cap, the device number, the
read-back port, which shows a partition its own items only, the duty cycle and the synchrony of GTIME; host accesses within open windows,
behind what is left of an earlier write, anything else an Unsupported Request; a module is loaded and called, or reported; mailbox answers on a built function; power-on builds the partitions that R355
allows, a stack of which they have one half with two domains, or enters recovery. The readings of log 12, 13, 14, 30, 31 and 67 are the model's. -/
def Obligations.ThePlatformActs : Prop :=
  ∀ (s t : State) (p vf c x k : Nat) (v a : Word) (ok b1 b2 : Bool) (bs : List Byte) (img : ModImage) (l : PartLayout) (op : HostAtom),
    let P := s.part p
    (P.present = false ∨ P.capture.isSome = true → ∀ i ∈ ([.crbaseWrite p v, .crsizeWrite p v, .crheadWrite p v] : List Instr), exec i s = .next s) ∧
    (P.present = true → s.bar0Read p P.link 0x000 8 = some 0 ∧ s.bar0Read p P.link 0x008 8 = some (w64 (64 - P.enq.length)) ∧
      s.bar0Read p P.link 0x020 8 = some P.crtail ∧ (∀ n, n ≠ 8 → s.bar0Read p P.link 0x020 n = none) ∧
      ∀ n, n ≠ P.link → s.bar0Read p n 0x020 8 = some (BitVec.allOnes 64)) ∧
    (P.present = true → P.capture = none →
      exec (.crbaseWrite p v) s = .next (s.modPart p (fun q => { q with crbase := v &&& ~~~0xFFF, crtail := 0 })) ∧
      exec (.crsizeWrite p v) s = .next (s.modPart p (fun q => { q with crsize := v &&& 0x1F, crtail := 0 })) ∧
      exec (.crheadWrite p v) s = .next (s.modPart p (fun q => { q with crhead := v }))) ∧
    (s.recovery = true → ∀ i ∈ ([.pwrcapWrite v, .devnumsetWrite v, .rbdataWrite v] : List Instr), exec i s = .next s) ∧
    (s.recovery = false →
      (v.toNat < 1000 → exec (.pwrcapWrite v) s = .next { s with pwrcap := 1000 }) ∧
      (3800 < v.toNat → exec (.pwrcapWrite v) s = .next { s with pwrcap := 3800 }) ∧
      (1000 ≤ v.toNat → v.toNat ≤ 3800 → exec (.pwrcapWrite v) s = .next { s with pwrcap := v }) ∧
      (s.portsTrained = true → exec (.devnumsetWrite v) s = .next s) ∧
      (s.portsTrained = false → exec (.devnumsetWrite v) s = .next { s with devnumset := v &&& 0x3FFF, devnum := v.setWidth 14 }) ∧
      (fld s.rbsel 63 56 = 1 → fld s.rbsel 39 0 = 0x105 → fld s.rbsel 55 40 = 16 * c + x → x < 16 → coreExists c = true →
        Makes (.rbdataWrite v) s (fun w => CtxOnly s w c x ∧ (w.ctx c x).dbgctl = v &&& 3)) ∧
      (fld s.rbsel 63 56 ≠ 1 ∨ fld s.rbsel 39 0 ≠ 0x105 → exec (.rbdataWrite v) s = .next s) ∧
      s.pf0Read 0x038 = some (s.rbRead none) ∧ (∀ q, s.rbOwner s.rbsel ≠ some q → s.rbRead (some q) = 0) ∧
      (∀ n, fld s.rbsel 63 56 = 1 → fld s.rbsel 55 40 = 16 * c + x → x < 16 → fld s.rbsel 39 0 = n → n < 0x120 →
        s.rbRead none = s.csr c x n)) ∧
    (s.recovery = true → s.pf0Read 0x038 = none) ∧
    (l.exportBase % 2 ^ 30 ≠ 0 ∨ l.exportLen % 2 ^ 30 ≠ 0 → s.layoutOk l = false) ∧
    exec (.dutyCycling k) s = .next { s with duty := Nat.max 1 (Nat.min 16 k) } ∧
    exec (.gtimeToleranceChange b1 b2) s = .next { s with pkgSync := b1, domSync := b2 } ∧
    (∀ i ∈ ([.hostMemoryAccess p a (.read k), .hostMemoryAccess p a (.write bs), .hostAtomic p a op] : List Instr),
      (s.hostGoOn.hostRest ≠ none → exec i s = .next s.hostGoOn) ∧ (s.hostGoOn.hostRest = none → exec i s = exec i s.hostGoOn)) ∧
    (s.hostRest = none → P.hostOpen a k = false → exec (.hostMemoryAccess p a (.read k)) s = .next { s with hostReply := s.hostReply ++ [List.replicate k 0xFF] }) ∧
    (s.hostRest = none → P.hostOpen a bs.length = false ∨ P.capture.isSome = true → exec (.hostMemoryAccess p a (.write bs)) s = .next s) ∧
    (∀ pz, s.hostRest = none → P.hostOpen a k = true → s.devRead (s.homeDie p a.toNat) p a.toNat (k + 1) k = some (bs, pz, t) →
      exec (.hostMemoryAccess p a (.read k)) s = .next { t with hostReply := t.hostReply ++ [bs] }) ∧
    (s.hostRest = none → P.hostOpen a bs.length = true → P.capture = none → bs ≠ [] →
      (s.devWrite (s.homeDie p a.toNat) p a.toNat (bs.length + 1) bs = some t →
        Makes (.hostMemoryAccess p a (.write bs)) s (fun w => bit (w.part p).ckptctl 10 = true ∧ { w with parts := t.parts } = t)) ∧
      (s.devWrite (s.homeDie p a.toNat) p a.toNat (bs.length + 1) bs = none →
        Makes (.hostMemoryAccess p a (.write bs)) s (fun w => ∃ n, n < bs.length ∧ w.hostRest = some (p, a.toNat + n, bs.drop n) ∧
          (0 < n → bit (w.part p).ckptctl 10 = true)))) ∧
    (let n := hostBytes op
     (s.hostRest = none → P.hostOpen a n = false ∨ (n ≠ 4 ∧ n ≠ 8) ∨ a.toNat % n ≠ 0 →
       exec (.hostAtomic p a op) s = .next { s with hostReply := s.hostReply ++ [List.replicate n 0xFF] }) ∧
     (∀ pz, s.hostRest = none → P.hostOpen a n = true → n = 4 ∨ n = 8 → a.toNat % n = 0 → P.capture = none →
       s.devAtomic (s.homeDie p a.toNat) p a.toNat n (fun old => cellsAt a.toNat (toBytes n (match op with
         | .fetchAdd _ v => (ofBytes old + v.toNat) % 2 ^ (8 * n)
         | .swap _ v => v.toNat % 2 ^ (8 * n)
         | .cas _ cmp v => if ofBytes old = cmp.toNat % 2 ^ (8 * n) then v.toNat % 2 ^ (8 * n) else ofBytes old))) = some (bs, pz, t) →
       Makes (.hostAtomic p a op) s (fun w => bit (w.part p).ckptctl 10 = true ∧ w.hostReply = t.hostReply ++ [bs] ∧
         { w with parts := t.parts, hostReply := t.hostReply } = t))) ∧
    (s.modstat = 1 → exec (.modctlGo v img ok) s = .next s) ∧
    (s.modstat ≠ 1 →
      let ctl := (v &&& 0x1F3) ||| 0x100
      exec (.modctlGo v img false) s = .next { s with modctl := ctl, modstat := 3 } ∧
      (s.recovery = true → exec (.modctlGo v img true) s = .next { s with modctl := ctl, modstat := 2, recovery := false }) ∧
      (s.recovery = false → s.fwMem.wf = true → Makes (.modctlGo v img true) s (fun w =>
        let h := atelierCore (fld v 1 0)
        let base := img.base &&& ~~~0xFFF
        w.modctl = ctl ∧ w.modstat = 1 ∧ w.fwMem.readN (fld v 1 0 * 2 ^ 40) img.bytes.length = img.bytes ∧
        (∀ b, b < fld v 1 0 * 2 ^ 40 ∨ fld v 1 0 * 2 ^ 40 + img.bytes.length ≤ b → w.fwMem.read b = s.fwMem.read b) ∧
        (w.ctx h 0).state = .running ∧ (w.ctx h 0).pc = base ∧ tget GVal.zero (w.ctx h 0).g 29 = ⟨base, true⟩ ∧
        tget GVal.zero (w.ctx h 0).g 30 = ⟨fwReturn, true⟩ ∧ (∀ y, y < 16 → (w.ctx h y).partid = fld v 7 4) ∧
        (w.ctx h 0).events = ((s.die (fld v 1 0)).waiting.filter (fun e => e.1 == fld v 7 4 || e.1 == 16)).map (fun e => e.2) ∧
        (w.die (fld v 1 0)).waiting = (s.die (fld v 1 0)).waiting.filter (fun e => !(e.1 == fld v 7 4 || e.1 == 16)) ∧
        (∀ y, 0 < y → y < 16 → (w.ctx h y).state = .free) ∧ ∀ d, d ≠ h → w.core d = s.core d))) ∧
    (let asks : List (Instr × Nat) := [(.getVersion vf, 10), (.getCapabilities vf, 11), (.negotiateAlgorithms vf, 12), (.getDigests vf, 13),
        (.getCertificate vf, 14), (.challenge vf, 15), (.getMeasurements vf, 16)]
     (s.booted = false ∨ vf = 0 ∨ 16 < vf ∨ (s.part (vf - 1)).present = false → ∀ i ∈ asks, exec i.1 s = .next s) ∧
     (s.booted = true → 1 ≤ vf → vf ≤ 16 → (s.part (vf - 1)).present = true →
       (∀ i ∈ asks, Makes i.1 s (fun w => (∃ ans, w.doe = s.doe ++ [(vf, i.2, ans)]) ∧ w.cores = s.cores ∧ w.parts = s.parts ∧ SameMemory s w)) ∧
       Makes (.getMeasurements vf) s (fun w => ∃ rest, w.doe = s.doe ++ [(vf, 16, tget [] (s.part (vf - 1)).meas 1 ++
         tget [] (s.part (vf - 1)).meas 2 ++ tget [] (s.part (vf - 1)).meas 3 ++ rest)]))) ∧
    (s.booted = true ∨ s.recovery = true → exec (.powerOn [l] ok) s = .next s) ∧
    (s.booted = false → s.recovery = false →
      exec (.powerOn [l] false) s = .next { s with recovery := true } ∧
      (s.layoutOk l = false → Makes (.powerOn [l] true) s (fun w => w.booted = true ∧ w.parts = s.parts ∧ w.cores = s.cores)) ∧
      (s.layoutOk l = true → l.roles = [] → l.collective = [] → Makes (.powerOn [l] true) s (fun w => w.booted = true ∧ w.portsTrained = true ∧
        w.cores = s.cores ∧ (∀ q, q ≠ l.num → w.part q = s.part q) ∧
        let q := w.part l.num
        q.present = true ∧ q.bands = l.bands ∧ q.halves = l.halves ∧ q.ports = l.ports ∧ q.stackright = l.stackright ∧ q.svcvec = l.svcvec &&& ~~~3 ∧
        q.inReset = false ∧ q.window = [] ∧ q.nextTask = 1 ∧ q.ckptctl = ckptReset ∧ q.censusctl = censusReset ∧ q.tdeleg = tdelegReset ∧
        q.link = l.link % 2 ∧
        (∀ d, l.windows = [d] → ({ Part.reset with halves := l.halves } : Part).deckleRefused 0 d = false →
          tget 0 q.deckle 0 = d &&& 0xC0FFBFFFFF800000) ∧
        ((∀ y, y < 16 → (s.part y).present = false) → ∀ n, n < 8 → nbit l.halves.toNat (2 * n) ≠ nbit l.halves.toNat (2 * n + 1) →
          (w.stack n).inForce.map = 0x3830) ∧
        (∀ e, l.pages = [e] → let t : TbEntry := ⟨e.va.toNat, e.word, false⟩
          q.dset = if fld e.va 63 57 = 0 ∧ entryValid e.word = true ∧ t.va % t.size = 0 then [t] else []) ∧
        q.sys.readN 0x1000 (8 * l.header.length) = l.header.flatMap (fun w => toBytes 8 w.toNat))))

/-! ### Decoding, the step, the whole machine -/

/-- DECODE AND ENCODE AGREE, R34 to R50: every well-formed instruction that has a word is read back from its bytes with every operand, whatever
bytes follow, and it is as long as its length code says. -/
def Obligations.DecodeEncodeAgree : Prop :=
  ∀ (i : Instr) (rest : List Byte), i.wf = true → i.isEvent = false →
    ∃ bs n, encode i = some bs ∧ i.size = some n ∧ bs.length = n ∧ (n = 4 ∨ n = 8 ∨ n = 12 ∨ n = 16) ∧ decode (bs ++ rest) = .ok i n

/-- WORDS WRITTEN OUT FROM THE ENCODING, R35 to R47, with the words that spec/ prints: each decodes to the instruction it stands for. -/
def Obligations.WordsDecode : Prop :=
  let p0 : Guard := ⟨0, false⟩
  decodeTableWord 32 0x00000003 = some .padWord ∧
  decodeTableWord 64 0x00000D000070F00C = some (.mul p0 ⟨15, .plain⟩ ⟨7, .plain⟩ (.imm 6)) ∧
  decodeTableWord 64 0x0000020000605078 = some (.sext p0 ⟨5, .plain⟩ ⟨6, .plain⟩ .h) ∧
  decodeTableWord 64 0xFFFFED0000005118 = some (.loop p0 ⟨5, .plain⟩ (BitVec.ofInt 23 (-10))) ∧
  decodeTableWord 64 0x0000000001400598 = some (.mwait p0 ⟨20, .plain⟩) ∧
  decodeTableWord 64 0x0000020000014594 = some (.mcommit p0 ⟨20, .plain⟩ true) ∧
  decodeTableWord 64 0x0000000000000188 = some (.tend p0 ⟨0, .plain⟩) ∧
  decodeTableWord 64 0xFFFFFF0000001614 = some (.smxinit p0 1 (.imm (BitVec.ofInt 23 (-1)))) ∧
  decodeTableWord 128 0x0000000B0000000E0000C400B0A00582 =
    some (.mma p0 0 ⟨10, .plain⟩ ⟨11, .plain⟩ ⟨14, .plain⟩ ⟨11, .plain⟩ .hf false false 24)

/-- A STEP RUNS THE DECODED INSTRUCTION, R1, R27, R28, R30, R33, R37, R51, R54, R233, R249: what falls due at a tick or a cycle comes before
everything else; an issue turn lands the writes that are due and serves the context of the cycle: an instruction whose bytes decode runs,
and the cycle counts, but not for a pad word; a parked one whose condition holds issues again; a due event is taken; an instruction that has
raised TB_MISS_COPY issues again without these checks when its handler has returned to it; a failed check, each of 1 to 10, or a privileged
opcode in user mode raises its cause with nothing else done. An event turn runs its event, and time runs, at most to the next tick at which
something happens. The order of the turns is the model's own (DESIGN CHOICE, log 1), and so are the fault of a turn of a core that does not
exist and the refusal of an event turn without an event (DESIGN CHOICE, log 7). -/
def Obligations.StepRunsTheDecodedInstruction : Prop :=
  ∀ (s v : State) (c n size : Nat) (ev i : Instr) (ts : List Turn) (bs : List Byte) (e : Trap) (p : Parked),
    (s.agenda = [] → step s = step { s with freeCtr := s.freeCtr + 1, agenda := [Config.freeTurn s.freeCtr] }) ∧
    (s.agenda = .advance n :: ts → ∃ t m, step s = .next t ∧ t.gtime = s.gtime + w64 m ∧ t.agenda = ts ∧ t.cores = s.cores ∧ SameMemory s t ∧
      m ≤ n ∧ (∀ y ∈ s.dueTicks, m ≤ y - s.gtime.toNat) ∧ (m = n ∨ ∃ y ∈ s.dueTicks, m = y - s.gtime.toNat)) ∧
    (s.agenda = .event ev :: ts → ev.isEvent = true → s.timeDue = true → timedEvent ev = false → step s = .next { s with agenda := ts }) ∧
    (s.agenda = .event ev :: ts → ev.isEvent = true → s.timeDue = false ∨ timedEvent ev = true → step s = exec ev { s with agenda := ts }) ∧
    (s.agenda = .event ev :: ts → ev.isEvent = false → step s = .refused .notAnEvent) ∧
    (s.agenda = .issue c :: ts → coreExists c = false → step s = .fault (.noSuchCore c)) ∧
    (s.agenda = .issue c :: ts → coreExists c = true → s.timeDue = true ∨ (s.core c).levelDue = true → step s = .next { s with agenda := ts }) ∧
    (s.agenda = .issue c :: ts → coreExists c = true → s.timeDue = false → (s.core c).levelDue = false →
      let u0 := { s with agenda := ts }.modCore c Core.land
      let x := (s.core c).cycle % 16
      let u := { u0 with cur := (c, x) }
      let t := s.ctx c x
      let u1 := if t.again = none then u else u.modMe (fun t => { t with retry := t.retry.filter (fun e => decide (e.1 ≠ t.level)) })
      let tick := fun (w : State) => w.modCore c (fun k => { k with cycle := k.cycle + 1 })
      let ends := fun (i : Instr) (o : Outcome) => match o with
        | .next w => Host.Outcome.next (if i = .padWord then w else tick w)
        | .fault f => .fault f
        | .refused r => .refused r
      (t.state ≠ .running ∨ u.frozen c = true → step s = .next (tick u)) ∧
      (t.state = .running → u.frozen c = false → u.moduleBack c x = false →
        (t.park = some p → (p.awake = true ∨ u.waitOk c x p.w = true → step s = ends p.i (exec p.i u)) ∧
          (p.awake = false → u.waitOk c x p.w = false → step s = .next (tick u))) ∧
        (t.park = none → t.eventDue = true → step s = exec (.eventEntry c x) u) ∧
        (t.park = none → t.eventDue = false → t.again = some (some i) → step s = ends i (exec i u1)) ∧
        (t.park = none → t.eventDue = false → t.again = none ∨ t.again = some none →
          (u1.fetch c x t.pc = .wait v → step s = .next (tick v)) ∧
          (u1.fetch c x t.pc = .trap e v → step s = .next (tick (v.raise c x e.code e.tval e.tstat t.pc))) ∧
          (u1.fetch c x t.pc = .bytes bs true v → step s = .next (tick (v.raise c x Cause.poisonLoad t.pc 0 t.pc))) ∧
          (u1.fetch c x t.pc = .bytes bs false v → decode bs = .ok i size →
            let w := leNat (bs.take size)
            let lacks := isAtelier c = true ∧ atelierLacks w = true
            let user := privilegedOp (w / 4 % 1024) = true ∧ v.isSup c x = false
            (size = 4 ∨ (¬lacks ∧ ¬user) → step s = ends i (exec i v)) ∧
            (size ≠ 4 → lacks → step s = .next (tick (v.raise c x Cause.opcodeUnassigned (w64 w) 0 t.pc))) ∧
            (size ≠ 4 → ¬lacks → user → step s = .next (tick (v.raise c x Cause.privileged (w64 w) 0 t.pc)))) ∧
          (∀ why, u1.fetch c x t.pc = .bytes bs false v → decode bs = .reject why n size →
            let raises := fun (code : Nat) (tval tstat : Word) => step s = .next (tick (v.raise c x code tval tstat t.pc))
            let lacks := isAtelier c = true ∧ atelierLacks n = true
            let user := privilegedOp (n / 4 % 1024) = true ∧ v.isSup c x = false
            let late := fun (code b : Nat) => (lacks → raises Cause.opcodeUnassigned (w64 n) 0) ∧
              (¬lacks → user → raises Cause.privileged (w64 n) 0) ∧ (¬lacks → ¬user → raises code (w64 n) (w64 b))
            (why = .short → raises Cause.fetchCrossing t.pc 0) ∧
            (∀ b, why = .padReserved b → raises Cause.fieldReserved (w64 n) (w64 b)) ∧
            (why = .unassigned → raises Cause.opcodeUnassigned (w64 n) 0) ∧
            (∀ b, (why = .field b → late Cause.fieldReserved b) ∧ (why = .register b → late Cause.registerInvalid b) ∧
              (why = .modifier b → late Cause.modifierInvalid b))))))

/-- PREDICATES, MODIFIERS AND PAD WORDS, R29, R37, R50: an instruction whose predicate condition fails completes in its slot and writes
nothing, tests no modifier and raises nothing; one whose condition holds and whose modifiers are not met parks with nothing else done; a pad
word puts the PC on by 4. -/
def Obligations.GuardsAndModifiers : Prop :=
  (∀ (s : State) (i : Instr) (r : Raw), i.toRaw = some r → (s.p r.pred = true ↔ r.neg = 1) → Runs i s (Sys2Proof.sizeOf r.len.toNat) [] {}) ∧
  (∀ s : State, exec .padWord s = .next (s.modMe (fun t => { t with pc := t.pc + 4 }))) ∧
  (∀ (s : State) (i : Instr) (r : Raw) (sh : Shape), i.toRaw = some r → shape r = some sh → (s.p r.pred = true ↔ r.neg = 0) →
    s.modsOk (condsOf (rawOpnds r sh)) = false →
    ∃ cs, (∀ y, y ∈ cs ↔ y ∈ condsOf (rawOpnds r sh)) ∧ Parks i s (.mods cs)) ∧
  (∀ (s : State) (g : Guard) (d a b : GReg) (x y z : FReg) (k : RegImm) (m : MemOp) (f : Fmt) (ty : ReqType) (w : MemW) (sw : StW) (sc : Scope)
      (vd : VReg) (dc : VData) (gm : GMask) (num : BitVec 12), s.guard g = true →
    ∀ q ∈ ([(.add g d a k, .dst d :: .src a :: opndsB k), (.div g d a k, .dst d :: .src a :: opndsB k), (.mov g d a, [.dst d, .src a]),
        (.cmpeq g 1 a k, .src a :: opndsB k), (.addv g d a k, .dst d :: .src a :: opndsB k), (.jr g a, [.src a]),
        (.fadd g x y z f, [.dstF x, .srcF y, .srcF z]), (.fmvg g d y, [.dst d, .srcF y]), (.itof g x a f .w, [.dstF x, .src a]),
        (.ld g d m w ty sc .none, .dst d :: opndsM m), (.st g d m sw ty sc .none, .src d :: opndsM m), (.vld g vd m dc ty gm, opndsM m),
        (.wpush g a, [.src a]), (.treap g d a, [.dst d, .src a]), (.mwait g a, [.src a]), (.mtest g d, [.dst d]), (.copys g d a, [.dst d, .src a]),
        (.signal g d a b, [.src d, .src a, .src b]), (.lease g d a b false, [.dst d, .src a, .src b]), (.csrr g d num, [.dst d]),
        (.tbw g d a b .own, [.src d, .src a, .src b]), (.halt g a, [.src a])] : List (Instr × List Opnd)),
      s.modsOk (condsOf q.2) = false → Parks q.1 s (.mods (condsOf q.2)))

/-- THE MEMORIES STAY CANONICAL: every step keeps the canonical form of every tile store, stack, system area and saved store, so that equal
memories are equal data (a rule of the model's own). -/
def Obligations.EveryStepKeepsTheMemories : Prop :=
  ∀ s t : State, s.memWf = true → step s = .next t → t.memWf = true

/-- RESET, R83, R246, R318, R348, R376, R383, R390: the machine before its boot step has canonical memories, no partition built,
every context free, and the registers named here at the values that spec/ states. That the parts not yet built are empty and idle
(caches, queues, lists, couches, events, TASKID counter, SPLIT, stack ownership) is the model's choice (DESIGN CHOICE, log 14, 17, 18). -/
def Obligations.ResetState : Prop :=
  let s := State.reset
  s.memWf = true ∧ s.booted = false ∧ s.recovery = false ∧ s.net = [] ∧ s.outbox = [] ∧
  (∀ p, (s.part p).present = false ∧ (s.part p).ckptctl = 0x000000016400010A ∧ (s.part p).censusctl = 0x00000110001400FA ∧
    (s.part p).tdeleg = 0xF180000000878310 ∧ (s.part p).nextTask = 1 ∧ (s.part p).crbase = 0 ∧ (s.part p).crsize = 0) ∧
  (∀ c x, (s.ctx c x).state = .free ∧ (s.ctx c x).tdeleg = 0xF180000000878310 ∧ (s.ctx c x).dbgctl = 0 ∧
    (s.ctx c x).events = []) ∧
  (∀ c, (s.core c).split = 1 ∧ (s.core c).cache = [] ∧ (s.core c).mq = [] ∧ (s.core c).fifo = [] ∧ (s.core c).wl = [] ∧ (s.core c).nextBatch = 1) ∧
  (∀ n, (s.slice n).hold = false ∧ (s.slice n).tags = [] ∧ (s.slice n).replay = 0 ∧ (s.slice n).bypass = 0) ∧
  (∀ n, (s.stack n).own = false ∧ (s.stack n).couch = none ∧ (s.stack n).dswitch = 0x8000000000000000 ∧ (s.stack n).dmap.map = 0x4040 ∧
    (s.stack n).dmap.rows = [0x1, 0x2, 0x4, 0x1800000] ∧ s.ownerDie n = n / 2)
end

