-- ==== Sys2Proof/Laws/State.lean ====
section
/-!
SUPPORT. One equation per field and update of the state: what each update of Ops.lean leaves and what it sets.
-/

namespace Sys2Proof.Machine

/-! setCore changes cores only. -/

@[simp] theorem State.setCore_agenda (s : State) (c : Nat) (k : Core) : (s.setCore c k).agenda = s.agenda := rfl
@[simp] theorem State.setCore_freeCtr (s : State) (c : Nat) (k : Core) : (s.setCore c k).freeCtr = s.freeCtr := rfl
@[simp] theorem State.setCore_cur (s : State) (c : Nat) (k : Core) : (s.setCore c k).cur = s.cur := rfl
@[simp] theorem State.setCore_msgCtr (s : State) (c : Nat) (k : Core) : (s.setCore c k).msgCtr = s.msgCtr := rfl
@[simp] theorem State.setCore_net (s : State) (c : Nat) (k : Core) : (s.setCore c k).net = s.net := rfl
@[simp] theorem State.setCore_outbox (s : State) (c : Nat) (k : Core) : (s.setCore c k).outbox = s.outbox := rfl
@[simp] theorem State.setCore_executor (s : State) (c : Nat) (k : Core) : (s.setCore c k).executor = s.executor := rfl
@[simp] theorem State.setCore_answers (s : State) (c : Nat) (k : Core) : (s.setCore c k).answers = s.answers := rfl
@[simp] theorem State.setCore_gtime (s : State) (c : Nat) (k : Core) : (s.setCore c k).gtime = s.gtime := rfl
@[simp] theorem State.setCore_pkgSync (s : State) (c : Nat) (k : Core) : (s.setCore c k).pkgSync = s.pkgSync := rfl
@[simp] theorem State.setCore_domSync (s : State) (c : Nat) (k : Core) : (s.setCore c k).domSync = s.domSync := rfl
@[simp] theorem State.setCore_devnum (s : State) (c : Nat) (k : Core) : (s.setCore c k).devnum = s.devnum := rfl
@[simp] theorem State.setCore_portsTrained (s : State) (c : Nat) (k : Core) : (s.setCore c k).portsTrained = s.portsTrained := rfl
@[simp] theorem State.setCore_booted (s : State) (c : Nat) (k : Core) : (s.setCore c k).booted = s.booted := rfl
@[simp] theorem State.setCore_recovery (s : State) (c : Nat) (k : Core) : (s.setCore c k).recovery = s.recovery := rfl
@[simp] theorem State.setCore_fenceSc (s : State) (c : Nat) (k : Core) : (s.setCore c k).fenceSc = s.fenceSc := rfl
@[simp] theorem State.setCore_modaddr (s : State) (c : Nat) (k : Core) : (s.setCore c k).modaddr = s.modaddr := rfl
@[simp] theorem State.setCore_modctl (s : State) (c : Nat) (k : Core) : (s.setCore c k).modctl = s.modctl := rfl
@[simp] theorem State.setCore_modstat (s : State) (c : Nat) (k : Core) : (s.setCore c k).modstat = s.modstat := rfl
@[simp] theorem State.setCore_modMeas (s : State) (c : Nat) (k : Core) : (s.setCore c k).modMeas = s.modMeas := rfl
@[simp] theorem State.setCore_pwrcap (s : State) (c : Nat) (k : Core) : (s.setCore c k).pwrcap = s.pwrcap := rfl
@[simp] theorem State.setCore_devnumset (s : State) (c : Nat) (k : Core) : (s.setCore c k).devnumset = s.devnumset := rfl
@[simp] theorem State.setCore_rbsel (s : State) (c : Nat) (k : Core) : (s.setCore c k).rbsel = s.rbsel := rfl
@[simp] theorem State.setCore_duty (s : State) (c : Nat) (k : Core) : (s.setCore c k).duty = s.duty := rfl
@[simp] theorem State.setCore_fwMem (s : State) (c : Nat) (k : Core) : (s.setCore c k).fwMem = s.fwMem := rfl
@[simp] theorem State.setCore_doe (s : State) (c : Nat) (k : Core) : (s.setCore c k).doe = s.doe := rfl
@[simp] theorem State.setCore_linkRetries (s : State) (c : Nat) (k : Core) : (s.setCore c k).linkRetries = s.linkRetries := rfl
@[simp] theorem State.setCore_linkFailed (s : State) (c : Nat) (k : Core) : (s.setCore c k).linkFailed = s.linkFailed := rfl
@[simp] theorem State.setCore_hostMem (s : State) (c : Nat) (k : Core) : (s.setCore c k).hostMem = s.hostMem := rfl
@[simp] theorem State.setCore_hostReply (s : State) (c : Nat) (k : Core) : (s.setCore c k).hostReply = s.hostReply := rfl
@[simp] theorem State.setCore_hostRest (s : State) (c : Nat) (k : Core) : (s.setCore c k).hostRest = s.hostRest := rfl
@[simp] theorem State.setCore_msix (s : State) (c : Nat) (k : Core) : (s.setCore c k).msix = s.msix := rfl
@[simp] theorem State.setCore_groups (s : State) (c : Nat) (k : Core) : (s.setCore c k).groups = s.groups := rfl
@[simp] theorem State.setCore_collectives (s : State) (c : Nat) (k : Core) : (s.setCore c k).collectives = s.collectives := rfl
@[simp] theorem State.setCore_partials (s : State) (c : Nat) (k : Core) : (s.setCore c k).partials = s.partials := rfl
@[simp] theorem State.setCore_memStacks (s : State) (c : Nat) (k : Core) : (s.setCore c k).memStacks = s.memStacks := rfl
@[simp] theorem State.setCore_slices (s : State) (c : Nat) (k : Core) : (s.setCore c k).slices = s.slices := rfl
@[simp] theorem State.setCore_dies (s : State) (c : Nat) (k : Core) : (s.setCore c k).dies = s.dies := rfl
@[simp] theorem State.setCore_parts (s : State) (c : Nat) (k : Core) : (s.setCore c k).parts = s.parts := rfl

/-! modCore changes cores only. -/

@[simp] theorem State.modCore_agenda (s : State) (c : Nat) (h : Core → Core) : (s.modCore c h).agenda = s.agenda := rfl
@[simp] theorem State.modCore_freeCtr (s : State) (c : Nat) (h : Core → Core) : (s.modCore c h).freeCtr = s.freeCtr := rfl
@[simp] theorem State.modCore_cur (s : State) (c : Nat) (h : Core → Core) : (s.modCore c h).cur = s.cur := rfl
@[simp] theorem State.modCore_msgCtr (s : State) (c : Nat) (h : Core → Core) : (s.modCore c h).msgCtr = s.msgCtr := rfl
@[simp] theorem State.modCore_net (s : State) (c : Nat) (h : Core → Core) : (s.modCore c h).net = s.net := rfl
@[simp] theorem State.modCore_outbox (s : State) (c : Nat) (h : Core → Core) : (s.modCore c h).outbox = s.outbox := rfl
@[simp] theorem State.modCore_executor (s : State) (c : Nat) (h : Core → Core) : (s.modCore c h).executor = s.executor := rfl
@[simp] theorem State.modCore_answers (s : State) (c : Nat) (h : Core → Core) : (s.modCore c h).answers = s.answers := rfl
@[simp] theorem State.modCore_gtime (s : State) (c : Nat) (h : Core → Core) : (s.modCore c h).gtime = s.gtime := rfl
@[simp] theorem State.modCore_pkgSync (s : State) (c : Nat) (h : Core → Core) : (s.modCore c h).pkgSync = s.pkgSync := rfl
@[simp] theorem State.modCore_domSync (s : State) (c : Nat) (h : Core → Core) : (s.modCore c h).domSync = s.domSync := rfl
@[simp] theorem State.modCore_devnum (s : State) (c : Nat) (h : Core → Core) : (s.modCore c h).devnum = s.devnum := rfl
@[simp] theorem State.modCore_portsTrained (s : State) (c : Nat) (h : Core → Core) : (s.modCore c h).portsTrained = s.portsTrained := rfl
@[simp] theorem State.modCore_booted (s : State) (c : Nat) (h : Core → Core) : (s.modCore c h).booted = s.booted := rfl
@[simp] theorem State.modCore_recovery (s : State) (c : Nat) (h : Core → Core) : (s.modCore c h).recovery = s.recovery := rfl
@[simp] theorem State.modCore_fenceSc (s : State) (c : Nat) (h : Core → Core) : (s.modCore c h).fenceSc = s.fenceSc := rfl
@[simp] theorem State.modCore_modaddr (s : State) (c : Nat) (h : Core → Core) : (s.modCore c h).modaddr = s.modaddr := rfl
@[simp] theorem State.modCore_modctl (s : State) (c : Nat) (h : Core → Core) : (s.modCore c h).modctl = s.modctl := rfl
@[simp] theorem State.modCore_modstat (s : State) (c : Nat) (h : Core → Core) : (s.modCore c h).modstat = s.modstat := rfl
@[simp] theorem State.modCore_modMeas (s : State) (c : Nat) (h : Core → Core) : (s.modCore c h).modMeas = s.modMeas := rfl
@[simp] theorem State.modCore_pwrcap (s : State) (c : Nat) (h : Core → Core) : (s.modCore c h).pwrcap = s.pwrcap := rfl
@[simp] theorem State.modCore_devnumset (s : State) (c : Nat) (h : Core → Core) : (s.modCore c h).devnumset = s.devnumset := rfl
@[simp] theorem State.modCore_rbsel (s : State) (c : Nat) (h : Core → Core) : (s.modCore c h).rbsel = s.rbsel := rfl
@[simp] theorem State.modCore_duty (s : State) (c : Nat) (h : Core → Core) : (s.modCore c h).duty = s.duty := rfl
@[simp] theorem State.modCore_fwMem (s : State) (c : Nat) (h : Core → Core) : (s.modCore c h).fwMem = s.fwMem := rfl
@[simp] theorem State.modCore_doe (s : State) (c : Nat) (h : Core → Core) : (s.modCore c h).doe = s.doe := rfl
@[simp] theorem State.modCore_linkRetries (s : State) (c : Nat) (h : Core → Core) : (s.modCore c h).linkRetries = s.linkRetries := rfl
@[simp] theorem State.modCore_linkFailed (s : State) (c : Nat) (h : Core → Core) : (s.modCore c h).linkFailed = s.linkFailed := rfl
@[simp] theorem State.modCore_hostMem (s : State) (c : Nat) (h : Core → Core) : (s.modCore c h).hostMem = s.hostMem := rfl
@[simp] theorem State.modCore_hostReply (s : State) (c : Nat) (h : Core → Core) : (s.modCore c h).hostReply = s.hostReply := rfl
@[simp] theorem State.modCore_hostRest (s : State) (c : Nat) (h : Core → Core) : (s.modCore c h).hostRest = s.hostRest := rfl
@[simp] theorem State.modCore_msix (s : State) (c : Nat) (h : Core → Core) : (s.modCore c h).msix = s.msix := rfl
@[simp] theorem State.modCore_groups (s : State) (c : Nat) (h : Core → Core) : (s.modCore c h).groups = s.groups := rfl
@[simp] theorem State.modCore_collectives (s : State) (c : Nat) (h : Core → Core) : (s.modCore c h).collectives = s.collectives := rfl
@[simp] theorem State.modCore_partials (s : State) (c : Nat) (h : Core → Core) : (s.modCore c h).partials = s.partials := rfl
@[simp] theorem State.modCore_memStacks (s : State) (c : Nat) (h : Core → Core) : (s.modCore c h).memStacks = s.memStacks := rfl
@[simp] theorem State.modCore_slices (s : State) (c : Nat) (h : Core → Core) : (s.modCore c h).slices = s.slices := rfl
@[simp] theorem State.modCore_dies (s : State) (c : Nat) (h : Core → Core) : (s.modCore c h).dies = s.dies := rfl
@[simp] theorem State.modCore_parts (s : State) (c : Nat) (h : Core → Core) : (s.modCore c h).parts = s.parts := rfl

/-! setCtx changes cores only. -/

@[simp] theorem State.setCtx_agenda (s : State) (c x : Nat) (t : Ctx) : (s.setCtx c x t).agenda = s.agenda := rfl
@[simp] theorem State.setCtx_freeCtr (s : State) (c x : Nat) (t : Ctx) : (s.setCtx c x t).freeCtr = s.freeCtr := rfl
@[simp] theorem State.setCtx_cur (s : State) (c x : Nat) (t : Ctx) : (s.setCtx c x t).cur = s.cur := rfl
@[simp] theorem State.setCtx_msgCtr (s : State) (c x : Nat) (t : Ctx) : (s.setCtx c x t).msgCtr = s.msgCtr := rfl
@[simp] theorem State.setCtx_net (s : State) (c x : Nat) (t : Ctx) : (s.setCtx c x t).net = s.net := rfl
@[simp] theorem State.setCtx_outbox (s : State) (c x : Nat) (t : Ctx) : (s.setCtx c x t).outbox = s.outbox := rfl
@[simp] theorem State.setCtx_executor (s : State) (c x : Nat) (t : Ctx) : (s.setCtx c x t).executor = s.executor := rfl
@[simp] theorem State.setCtx_answers (s : State) (c x : Nat) (t : Ctx) : (s.setCtx c x t).answers = s.answers := rfl
@[simp] theorem State.setCtx_gtime (s : State) (c x : Nat) (t : Ctx) : (s.setCtx c x t).gtime = s.gtime := rfl
@[simp] theorem State.setCtx_pkgSync (s : State) (c x : Nat) (t : Ctx) : (s.setCtx c x t).pkgSync = s.pkgSync := rfl
@[simp] theorem State.setCtx_domSync (s : State) (c x : Nat) (t : Ctx) : (s.setCtx c x t).domSync = s.domSync := rfl
@[simp] theorem State.setCtx_devnum (s : State) (c x : Nat) (t : Ctx) : (s.setCtx c x t).devnum = s.devnum := rfl
@[simp] theorem State.setCtx_portsTrained (s : State) (c x : Nat) (t : Ctx) : (s.setCtx c x t).portsTrained = s.portsTrained := rfl
@[simp] theorem State.setCtx_booted (s : State) (c x : Nat) (t : Ctx) : (s.setCtx c x t).booted = s.booted := rfl
@[simp] theorem State.setCtx_recovery (s : State) (c x : Nat) (t : Ctx) : (s.setCtx c x t).recovery = s.recovery := rfl
@[simp] theorem State.setCtx_fenceSc (s : State) (c x : Nat) (t : Ctx) : (s.setCtx c x t).fenceSc = s.fenceSc := rfl
@[simp] theorem State.setCtx_modaddr (s : State) (c x : Nat) (t : Ctx) : (s.setCtx c x t).modaddr = s.modaddr := rfl
@[simp] theorem State.setCtx_modctl (s : State) (c x : Nat) (t : Ctx) : (s.setCtx c x t).modctl = s.modctl := rfl
@[simp] theorem State.setCtx_modstat (s : State) (c x : Nat) (t : Ctx) : (s.setCtx c x t).modstat = s.modstat := rfl
@[simp] theorem State.setCtx_modMeas (s : State) (c x : Nat) (t : Ctx) : (s.setCtx c x t).modMeas = s.modMeas := rfl
@[simp] theorem State.setCtx_pwrcap (s : State) (c x : Nat) (t : Ctx) : (s.setCtx c x t).pwrcap = s.pwrcap := rfl
@[simp] theorem State.setCtx_devnumset (s : State) (c x : Nat) (t : Ctx) : (s.setCtx c x t).devnumset = s.devnumset := rfl
@[simp] theorem State.setCtx_rbsel (s : State) (c x : Nat) (t : Ctx) : (s.setCtx c x t).rbsel = s.rbsel := rfl
@[simp] theorem State.setCtx_duty (s : State) (c x : Nat) (t : Ctx) : (s.setCtx c x t).duty = s.duty := rfl
@[simp] theorem State.setCtx_fwMem (s : State) (c x : Nat) (t : Ctx) : (s.setCtx c x t).fwMem = s.fwMem := rfl
@[simp] theorem State.setCtx_doe (s : State) (c x : Nat) (t : Ctx) : (s.setCtx c x t).doe = s.doe := rfl
@[simp] theorem State.setCtx_linkRetries (s : State) (c x : Nat) (t : Ctx) : (s.setCtx c x t).linkRetries = s.linkRetries := rfl
@[simp] theorem State.setCtx_linkFailed (s : State) (c x : Nat) (t : Ctx) : (s.setCtx c x t).linkFailed = s.linkFailed := rfl
@[simp] theorem State.setCtx_hostMem (s : State) (c x : Nat) (t : Ctx) : (s.setCtx c x t).hostMem = s.hostMem := rfl
@[simp] theorem State.setCtx_hostReply (s : State) (c x : Nat) (t : Ctx) : (s.setCtx c x t).hostReply = s.hostReply := rfl
@[simp] theorem State.setCtx_hostRest (s : State) (c x : Nat) (t : Ctx) : (s.setCtx c x t).hostRest = s.hostRest := rfl
@[simp] theorem State.setCtx_msix (s : State) (c x : Nat) (t : Ctx) : (s.setCtx c x t).msix = s.msix := rfl
@[simp] theorem State.setCtx_groups (s : State) (c x : Nat) (t : Ctx) : (s.setCtx c x t).groups = s.groups := rfl
@[simp] theorem State.setCtx_collectives (s : State) (c x : Nat) (t : Ctx) : (s.setCtx c x t).collectives = s.collectives := rfl
@[simp] theorem State.setCtx_partials (s : State) (c x : Nat) (t : Ctx) : (s.setCtx c x t).partials = s.partials := rfl
@[simp] theorem State.setCtx_memStacks (s : State) (c x : Nat) (t : Ctx) : (s.setCtx c x t).memStacks = s.memStacks := rfl
@[simp] theorem State.setCtx_slices (s : State) (c x : Nat) (t : Ctx) : (s.setCtx c x t).slices = s.slices := rfl
@[simp] theorem State.setCtx_dies (s : State) (c x : Nat) (t : Ctx) : (s.setCtx c x t).dies = s.dies := rfl
@[simp] theorem State.setCtx_parts (s : State) (c x : Nat) (t : Ctx) : (s.setCtx c x t).parts = s.parts := rfl

/-! modCtx changes cores only. -/

@[simp] theorem State.modCtx_agenda (s : State) (c x : Nat) (h : Ctx → Ctx) : (s.modCtx c x h).agenda = s.agenda := rfl
@[simp] theorem State.modCtx_freeCtr (s : State) (c x : Nat) (h : Ctx → Ctx) : (s.modCtx c x h).freeCtr = s.freeCtr := rfl
@[simp] theorem State.modCtx_cur (s : State) (c x : Nat) (h : Ctx → Ctx) : (s.modCtx c x h).cur = s.cur := rfl
@[simp] theorem State.modCtx_msgCtr (s : State) (c x : Nat) (h : Ctx → Ctx) : (s.modCtx c x h).msgCtr = s.msgCtr := rfl
@[simp] theorem State.modCtx_net (s : State) (c x : Nat) (h : Ctx → Ctx) : (s.modCtx c x h).net = s.net := rfl
@[simp] theorem State.modCtx_outbox (s : State) (c x : Nat) (h : Ctx → Ctx) : (s.modCtx c x h).outbox = s.outbox := rfl
@[simp] theorem State.modCtx_executor (s : State) (c x : Nat) (h : Ctx → Ctx) : (s.modCtx c x h).executor = s.executor := rfl
@[simp] theorem State.modCtx_answers (s : State) (c x : Nat) (h : Ctx → Ctx) : (s.modCtx c x h).answers = s.answers := rfl
@[simp] theorem State.modCtx_gtime (s : State) (c x : Nat) (h : Ctx → Ctx) : (s.modCtx c x h).gtime = s.gtime := rfl
@[simp] theorem State.modCtx_pkgSync (s : State) (c x : Nat) (h : Ctx → Ctx) : (s.modCtx c x h).pkgSync = s.pkgSync := rfl
@[simp] theorem State.modCtx_domSync (s : State) (c x : Nat) (h : Ctx → Ctx) : (s.modCtx c x h).domSync = s.domSync := rfl
@[simp] theorem State.modCtx_devnum (s : State) (c x : Nat) (h : Ctx → Ctx) : (s.modCtx c x h).devnum = s.devnum := rfl
@[simp] theorem State.modCtx_portsTrained (s : State) (c x : Nat) (h : Ctx → Ctx) : (s.modCtx c x h).portsTrained = s.portsTrained := rfl
@[simp] theorem State.modCtx_booted (s : State) (c x : Nat) (h : Ctx → Ctx) : (s.modCtx c x h).booted = s.booted := rfl
@[simp] theorem State.modCtx_recovery (s : State) (c x : Nat) (h : Ctx → Ctx) : (s.modCtx c x h).recovery = s.recovery := rfl
@[simp] theorem State.modCtx_fenceSc (s : State) (c x : Nat) (h : Ctx → Ctx) : (s.modCtx c x h).fenceSc = s.fenceSc := rfl
@[simp] theorem State.modCtx_modaddr (s : State) (c x : Nat) (h : Ctx → Ctx) : (s.modCtx c x h).modaddr = s.modaddr := rfl
@[simp] theorem State.modCtx_modctl (s : State) (c x : Nat) (h : Ctx → Ctx) : (s.modCtx c x h).modctl = s.modctl := rfl
@[simp] theorem State.modCtx_modstat (s : State) (c x : Nat) (h : Ctx → Ctx) : (s.modCtx c x h).modstat = s.modstat := rfl
@[simp] theorem State.modCtx_modMeas (s : State) (c x : Nat) (h : Ctx → Ctx) : (s.modCtx c x h).modMeas = s.modMeas := rfl
@[simp] theorem State.modCtx_pwrcap (s : State) (c x : Nat) (h : Ctx → Ctx) : (s.modCtx c x h).pwrcap = s.pwrcap := rfl
@[simp] theorem State.modCtx_devnumset (s : State) (c x : Nat) (h : Ctx → Ctx) : (s.modCtx c x h).devnumset = s.devnumset := rfl
@[simp] theorem State.modCtx_rbsel (s : State) (c x : Nat) (h : Ctx → Ctx) : (s.modCtx c x h).rbsel = s.rbsel := rfl
@[simp] theorem State.modCtx_duty (s : State) (c x : Nat) (h : Ctx → Ctx) : (s.modCtx c x h).duty = s.duty := rfl
@[simp] theorem State.modCtx_fwMem (s : State) (c x : Nat) (h : Ctx → Ctx) : (s.modCtx c x h).fwMem = s.fwMem := rfl
@[simp] theorem State.modCtx_doe (s : State) (c x : Nat) (h : Ctx → Ctx) : (s.modCtx c x h).doe = s.doe := rfl
@[simp] theorem State.modCtx_linkRetries (s : State) (c x : Nat) (h : Ctx → Ctx) : (s.modCtx c x h).linkRetries = s.linkRetries := rfl
@[simp] theorem State.modCtx_linkFailed (s : State) (c x : Nat) (h : Ctx → Ctx) : (s.modCtx c x h).linkFailed = s.linkFailed := rfl
@[simp] theorem State.modCtx_hostMem (s : State) (c x : Nat) (h : Ctx → Ctx) : (s.modCtx c x h).hostMem = s.hostMem := rfl
@[simp] theorem State.modCtx_hostReply (s : State) (c x : Nat) (h : Ctx → Ctx) : (s.modCtx c x h).hostReply = s.hostReply := rfl
@[simp] theorem State.modCtx_hostRest (s : State) (c x : Nat) (h : Ctx → Ctx) : (s.modCtx c x h).hostRest = s.hostRest := rfl
@[simp] theorem State.modCtx_msix (s : State) (c x : Nat) (h : Ctx → Ctx) : (s.modCtx c x h).msix = s.msix := rfl
@[simp] theorem State.modCtx_groups (s : State) (c x : Nat) (h : Ctx → Ctx) : (s.modCtx c x h).groups = s.groups := rfl
@[simp] theorem State.modCtx_collectives (s : State) (c x : Nat) (h : Ctx → Ctx) : (s.modCtx c x h).collectives = s.collectives := rfl
@[simp] theorem State.modCtx_partials (s : State) (c x : Nat) (h : Ctx → Ctx) : (s.modCtx c x h).partials = s.partials := rfl
@[simp] theorem State.modCtx_memStacks (s : State) (c x : Nat) (h : Ctx → Ctx) : (s.modCtx c x h).memStacks = s.memStacks := rfl
@[simp] theorem State.modCtx_slices (s : State) (c x : Nat) (h : Ctx → Ctx) : (s.modCtx c x h).slices = s.slices := rfl
@[simp] theorem State.modCtx_dies (s : State) (c x : Nat) (h : Ctx → Ctx) : (s.modCtx c x h).dies = s.dies := rfl
@[simp] theorem State.modCtx_parts (s : State) (c x : Nat) (h : Ctx → Ctx) : (s.modCtx c x h).parts = s.parts := rfl

/-! modMe changes cores only. -/

@[simp] theorem State.modMe_agenda (s : State) (h : Ctx → Ctx) : (s.modMe h).agenda = s.agenda := rfl
@[simp] theorem State.modMe_freeCtr (s : State) (h : Ctx → Ctx) : (s.modMe h).freeCtr = s.freeCtr := rfl
@[simp] theorem State.modMe_cur (s : State) (h : Ctx → Ctx) : (s.modMe h).cur = s.cur := rfl
@[simp] theorem State.modMe_msgCtr (s : State) (h : Ctx → Ctx) : (s.modMe h).msgCtr = s.msgCtr := rfl
@[simp] theorem State.modMe_net (s : State) (h : Ctx → Ctx) : (s.modMe h).net = s.net := rfl
@[simp] theorem State.modMe_outbox (s : State) (h : Ctx → Ctx) : (s.modMe h).outbox = s.outbox := rfl
@[simp] theorem State.modMe_executor (s : State) (h : Ctx → Ctx) : (s.modMe h).executor = s.executor := rfl
@[simp] theorem State.modMe_answers (s : State) (h : Ctx → Ctx) : (s.modMe h).answers = s.answers := rfl
@[simp] theorem State.modMe_gtime (s : State) (h : Ctx → Ctx) : (s.modMe h).gtime = s.gtime := rfl
@[simp] theorem State.modMe_pkgSync (s : State) (h : Ctx → Ctx) : (s.modMe h).pkgSync = s.pkgSync := rfl
@[simp] theorem State.modMe_domSync (s : State) (h : Ctx → Ctx) : (s.modMe h).domSync = s.domSync := rfl
@[simp] theorem State.modMe_devnum (s : State) (h : Ctx → Ctx) : (s.modMe h).devnum = s.devnum := rfl
@[simp] theorem State.modMe_portsTrained (s : State) (h : Ctx → Ctx) : (s.modMe h).portsTrained = s.portsTrained := rfl
@[simp] theorem State.modMe_booted (s : State) (h : Ctx → Ctx) : (s.modMe h).booted = s.booted := rfl
@[simp] theorem State.modMe_recovery (s : State) (h : Ctx → Ctx) : (s.modMe h).recovery = s.recovery := rfl
@[simp] theorem State.modMe_fenceSc (s : State) (h : Ctx → Ctx) : (s.modMe h).fenceSc = s.fenceSc := rfl
@[simp] theorem State.modMe_modaddr (s : State) (h : Ctx → Ctx) : (s.modMe h).modaddr = s.modaddr := rfl
@[simp] theorem State.modMe_modctl (s : State) (h : Ctx → Ctx) : (s.modMe h).modctl = s.modctl := rfl
@[simp] theorem State.modMe_modstat (s : State) (h : Ctx → Ctx) : (s.modMe h).modstat = s.modstat := rfl
@[simp] theorem State.modMe_modMeas (s : State) (h : Ctx → Ctx) : (s.modMe h).modMeas = s.modMeas := rfl
@[simp] theorem State.modMe_pwrcap (s : State) (h : Ctx → Ctx) : (s.modMe h).pwrcap = s.pwrcap := rfl
@[simp] theorem State.modMe_devnumset (s : State) (h : Ctx → Ctx) : (s.modMe h).devnumset = s.devnumset := rfl
@[simp] theorem State.modMe_rbsel (s : State) (h : Ctx → Ctx) : (s.modMe h).rbsel = s.rbsel := rfl
@[simp] theorem State.modMe_duty (s : State) (h : Ctx → Ctx) : (s.modMe h).duty = s.duty := rfl
@[simp] theorem State.modMe_fwMem (s : State) (h : Ctx → Ctx) : (s.modMe h).fwMem = s.fwMem := rfl
@[simp] theorem State.modMe_doe (s : State) (h : Ctx → Ctx) : (s.modMe h).doe = s.doe := rfl
@[simp] theorem State.modMe_linkRetries (s : State) (h : Ctx → Ctx) : (s.modMe h).linkRetries = s.linkRetries := rfl
@[simp] theorem State.modMe_linkFailed (s : State) (h : Ctx → Ctx) : (s.modMe h).linkFailed = s.linkFailed := rfl
@[simp] theorem State.modMe_hostMem (s : State) (h : Ctx → Ctx) : (s.modMe h).hostMem = s.hostMem := rfl
@[simp] theorem State.modMe_hostReply (s : State) (h : Ctx → Ctx) : (s.modMe h).hostReply = s.hostReply := rfl
@[simp] theorem State.modMe_hostRest (s : State) (h : Ctx → Ctx) : (s.modMe h).hostRest = s.hostRest := rfl
@[simp] theorem State.modMe_msix (s : State) (h : Ctx → Ctx) : (s.modMe h).msix = s.msix := rfl
@[simp] theorem State.modMe_groups (s : State) (h : Ctx → Ctx) : (s.modMe h).groups = s.groups := rfl
@[simp] theorem State.modMe_collectives (s : State) (h : Ctx → Ctx) : (s.modMe h).collectives = s.collectives := rfl
@[simp] theorem State.modMe_partials (s : State) (h : Ctx → Ctx) : (s.modMe h).partials = s.partials := rfl
@[simp] theorem State.modMe_memStacks (s : State) (h : Ctx → Ctx) : (s.modMe h).memStacks = s.memStacks := rfl
@[simp] theorem State.modMe_slices (s : State) (h : Ctx → Ctx) : (s.modMe h).slices = s.slices := rfl
@[simp] theorem State.modMe_dies (s : State) (h : Ctx → Ctx) : (s.modMe h).dies = s.dies := rfl
@[simp] theorem State.modMe_parts (s : State) (h : Ctx → Ctx) : (s.modMe h).parts = s.parts := rfl

/-! modMyCore changes cores only. -/

@[simp] theorem State.modMyCore_agenda (s : State) (h : Core → Core) : (s.modMyCore h).agenda = s.agenda := rfl
@[simp] theorem State.modMyCore_freeCtr (s : State) (h : Core → Core) : (s.modMyCore h).freeCtr = s.freeCtr := rfl
@[simp] theorem State.modMyCore_cur (s : State) (h : Core → Core) : (s.modMyCore h).cur = s.cur := rfl
@[simp] theorem State.modMyCore_msgCtr (s : State) (h : Core → Core) : (s.modMyCore h).msgCtr = s.msgCtr := rfl
@[simp] theorem State.modMyCore_net (s : State) (h : Core → Core) : (s.modMyCore h).net = s.net := rfl
@[simp] theorem State.modMyCore_outbox (s : State) (h : Core → Core) : (s.modMyCore h).outbox = s.outbox := rfl
@[simp] theorem State.modMyCore_executor (s : State) (h : Core → Core) : (s.modMyCore h).executor = s.executor := rfl
@[simp] theorem State.modMyCore_answers (s : State) (h : Core → Core) : (s.modMyCore h).answers = s.answers := rfl
@[simp] theorem State.modMyCore_gtime (s : State) (h : Core → Core) : (s.modMyCore h).gtime = s.gtime := rfl
@[simp] theorem State.modMyCore_pkgSync (s : State) (h : Core → Core) : (s.modMyCore h).pkgSync = s.pkgSync := rfl
@[simp] theorem State.modMyCore_domSync (s : State) (h : Core → Core) : (s.modMyCore h).domSync = s.domSync := rfl
@[simp] theorem State.modMyCore_devnum (s : State) (h : Core → Core) : (s.modMyCore h).devnum = s.devnum := rfl
@[simp] theorem State.modMyCore_portsTrained (s : State) (h : Core → Core) : (s.modMyCore h).portsTrained = s.portsTrained := rfl
@[simp] theorem State.modMyCore_booted (s : State) (h : Core → Core) : (s.modMyCore h).booted = s.booted := rfl
@[simp] theorem State.modMyCore_recovery (s : State) (h : Core → Core) : (s.modMyCore h).recovery = s.recovery := rfl
@[simp] theorem State.modMyCore_fenceSc (s : State) (h : Core → Core) : (s.modMyCore h).fenceSc = s.fenceSc := rfl
@[simp] theorem State.modMyCore_modaddr (s : State) (h : Core → Core) : (s.modMyCore h).modaddr = s.modaddr := rfl
@[simp] theorem State.modMyCore_modctl (s : State) (h : Core → Core) : (s.modMyCore h).modctl = s.modctl := rfl
@[simp] theorem State.modMyCore_modstat (s : State) (h : Core → Core) : (s.modMyCore h).modstat = s.modstat := rfl
@[simp] theorem State.modMyCore_modMeas (s : State) (h : Core → Core) : (s.modMyCore h).modMeas = s.modMeas := rfl
@[simp] theorem State.modMyCore_pwrcap (s : State) (h : Core → Core) : (s.modMyCore h).pwrcap = s.pwrcap := rfl
@[simp] theorem State.modMyCore_devnumset (s : State) (h : Core → Core) : (s.modMyCore h).devnumset = s.devnumset := rfl
@[simp] theorem State.modMyCore_rbsel (s : State) (h : Core → Core) : (s.modMyCore h).rbsel = s.rbsel := rfl
@[simp] theorem State.modMyCore_duty (s : State) (h : Core → Core) : (s.modMyCore h).duty = s.duty := rfl
@[simp] theorem State.modMyCore_fwMem (s : State) (h : Core → Core) : (s.modMyCore h).fwMem = s.fwMem := rfl
@[simp] theorem State.modMyCore_doe (s : State) (h : Core → Core) : (s.modMyCore h).doe = s.doe := rfl
@[simp] theorem State.modMyCore_linkRetries (s : State) (h : Core → Core) : (s.modMyCore h).linkRetries = s.linkRetries := rfl
@[simp] theorem State.modMyCore_linkFailed (s : State) (h : Core → Core) : (s.modMyCore h).linkFailed = s.linkFailed := rfl
@[simp] theorem State.modMyCore_hostMem (s : State) (h : Core → Core) : (s.modMyCore h).hostMem = s.hostMem := rfl
@[simp] theorem State.modMyCore_hostReply (s : State) (h : Core → Core) : (s.modMyCore h).hostReply = s.hostReply := rfl
@[simp] theorem State.modMyCore_hostRest (s : State) (h : Core → Core) : (s.modMyCore h).hostRest = s.hostRest := rfl
@[simp] theorem State.modMyCore_msix (s : State) (h : Core → Core) : (s.modMyCore h).msix = s.msix := rfl
@[simp] theorem State.modMyCore_groups (s : State) (h : Core → Core) : (s.modMyCore h).groups = s.groups := rfl
@[simp] theorem State.modMyCore_collectives (s : State) (h : Core → Core) : (s.modMyCore h).collectives = s.collectives := rfl
@[simp] theorem State.modMyCore_partials (s : State) (h : Core → Core) : (s.modMyCore h).partials = s.partials := rfl
@[simp] theorem State.modMyCore_memStacks (s : State) (h : Core → Core) : (s.modMyCore h).memStacks = s.memStacks := rfl
@[simp] theorem State.modMyCore_slices (s : State) (h : Core → Core) : (s.modMyCore h).slices = s.slices := rfl
@[simp] theorem State.modMyCore_dies (s : State) (h : Core → Core) : (s.modMyCore h).dies = s.dies := rfl
@[simp] theorem State.modMyCore_parts (s : State) (h : Core → Core) : (s.modMyCore h).parts = s.parts := rfl

/-! setPart changes parts only. -/

@[simp] theorem State.setPart_agenda (s : State) (n : Nat) (v : Part) : (s.setPart n v).agenda = s.agenda := rfl
@[simp] theorem State.setPart_freeCtr (s : State) (n : Nat) (v : Part) : (s.setPart n v).freeCtr = s.freeCtr := rfl
@[simp] theorem State.setPart_cur (s : State) (n : Nat) (v : Part) : (s.setPart n v).cur = s.cur := rfl
@[simp] theorem State.setPart_msgCtr (s : State) (n : Nat) (v : Part) : (s.setPart n v).msgCtr = s.msgCtr := rfl
@[simp] theorem State.setPart_net (s : State) (n : Nat) (v : Part) : (s.setPart n v).net = s.net := rfl
@[simp] theorem State.setPart_outbox (s : State) (n : Nat) (v : Part) : (s.setPart n v).outbox = s.outbox := rfl
@[simp] theorem State.setPart_executor (s : State) (n : Nat) (v : Part) : (s.setPart n v).executor = s.executor := rfl
@[simp] theorem State.setPart_answers (s : State) (n : Nat) (v : Part) : (s.setPart n v).answers = s.answers := rfl
@[simp] theorem State.setPart_gtime (s : State) (n : Nat) (v : Part) : (s.setPart n v).gtime = s.gtime := rfl
@[simp] theorem State.setPart_pkgSync (s : State) (n : Nat) (v : Part) : (s.setPart n v).pkgSync = s.pkgSync := rfl
@[simp] theorem State.setPart_domSync (s : State) (n : Nat) (v : Part) : (s.setPart n v).domSync = s.domSync := rfl
@[simp] theorem State.setPart_devnum (s : State) (n : Nat) (v : Part) : (s.setPart n v).devnum = s.devnum := rfl
@[simp] theorem State.setPart_portsTrained (s : State) (n : Nat) (v : Part) : (s.setPart n v).portsTrained = s.portsTrained := rfl
@[simp] theorem State.setPart_booted (s : State) (n : Nat) (v : Part) : (s.setPart n v).booted = s.booted := rfl
@[simp] theorem State.setPart_recovery (s : State) (n : Nat) (v : Part) : (s.setPart n v).recovery = s.recovery := rfl
@[simp] theorem State.setPart_fenceSc (s : State) (n : Nat) (v : Part) : (s.setPart n v).fenceSc = s.fenceSc := rfl
@[simp] theorem State.setPart_modaddr (s : State) (n : Nat) (v : Part) : (s.setPart n v).modaddr = s.modaddr := rfl
@[simp] theorem State.setPart_modctl (s : State) (n : Nat) (v : Part) : (s.setPart n v).modctl = s.modctl := rfl
@[simp] theorem State.setPart_modstat (s : State) (n : Nat) (v : Part) : (s.setPart n v).modstat = s.modstat := rfl
@[simp] theorem State.setPart_modMeas (s : State) (n : Nat) (v : Part) : (s.setPart n v).modMeas = s.modMeas := rfl
@[simp] theorem State.setPart_pwrcap (s : State) (n : Nat) (v : Part) : (s.setPart n v).pwrcap = s.pwrcap := rfl
@[simp] theorem State.setPart_devnumset (s : State) (n : Nat) (v : Part) : (s.setPart n v).devnumset = s.devnumset := rfl
@[simp] theorem State.setPart_rbsel (s : State) (n : Nat) (v : Part) : (s.setPart n v).rbsel = s.rbsel := rfl
@[simp] theorem State.setPart_duty (s : State) (n : Nat) (v : Part) : (s.setPart n v).duty = s.duty := rfl
@[simp] theorem State.setPart_fwMem (s : State) (n : Nat) (v : Part) : (s.setPart n v).fwMem = s.fwMem := rfl
@[simp] theorem State.setPart_doe (s : State) (n : Nat) (v : Part) : (s.setPart n v).doe = s.doe := rfl
@[simp] theorem State.setPart_linkRetries (s : State) (n : Nat) (v : Part) : (s.setPart n v).linkRetries = s.linkRetries := rfl
@[simp] theorem State.setPart_linkFailed (s : State) (n : Nat) (v : Part) : (s.setPart n v).linkFailed = s.linkFailed := rfl
@[simp] theorem State.setPart_hostMem (s : State) (n : Nat) (v : Part) : (s.setPart n v).hostMem = s.hostMem := rfl
@[simp] theorem State.setPart_hostReply (s : State) (n : Nat) (v : Part) : (s.setPart n v).hostReply = s.hostReply := rfl
@[simp] theorem State.setPart_hostRest (s : State) (n : Nat) (v : Part) : (s.setPart n v).hostRest = s.hostRest := rfl
@[simp] theorem State.setPart_msix (s : State) (n : Nat) (v : Part) : (s.setPart n v).msix = s.msix := rfl
@[simp] theorem State.setPart_groups (s : State) (n : Nat) (v : Part) : (s.setPart n v).groups = s.groups := rfl
@[simp] theorem State.setPart_collectives (s : State) (n : Nat) (v : Part) : (s.setPart n v).collectives = s.collectives := rfl
@[simp] theorem State.setPart_partials (s : State) (n : Nat) (v : Part) : (s.setPart n v).partials = s.partials := rfl
@[simp] theorem State.setPart_memStacks (s : State) (n : Nat) (v : Part) : (s.setPart n v).memStacks = s.memStacks := rfl
@[simp] theorem State.setPart_slices (s : State) (n : Nat) (v : Part) : (s.setPart n v).slices = s.slices := rfl
@[simp] theorem State.setPart_dies (s : State) (n : Nat) (v : Part) : (s.setPart n v).dies = s.dies := rfl
@[simp] theorem State.setPart_cores (s : State) (n : Nat) (v : Part) : (s.setPart n v).cores = s.cores := rfl

/-! modPart changes parts only. -/

@[simp] theorem State.modPart_agenda (s : State) (n : Nat) (h : Part → Part) : (s.modPart n h).agenda = s.agenda := rfl
@[simp] theorem State.modPart_freeCtr (s : State) (n : Nat) (h : Part → Part) : (s.modPart n h).freeCtr = s.freeCtr := rfl
@[simp] theorem State.modPart_cur (s : State) (n : Nat) (h : Part → Part) : (s.modPart n h).cur = s.cur := rfl
@[simp] theorem State.modPart_msgCtr (s : State) (n : Nat) (h : Part → Part) : (s.modPart n h).msgCtr = s.msgCtr := rfl
@[simp] theorem State.modPart_net (s : State) (n : Nat) (h : Part → Part) : (s.modPart n h).net = s.net := rfl
@[simp] theorem State.modPart_outbox (s : State) (n : Nat) (h : Part → Part) : (s.modPart n h).outbox = s.outbox := rfl
@[simp] theorem State.modPart_executor (s : State) (n : Nat) (h : Part → Part) : (s.modPart n h).executor = s.executor := rfl
@[simp] theorem State.modPart_answers (s : State) (n : Nat) (h : Part → Part) : (s.modPart n h).answers = s.answers := rfl
@[simp] theorem State.modPart_gtime (s : State) (n : Nat) (h : Part → Part) : (s.modPart n h).gtime = s.gtime := rfl
@[simp] theorem State.modPart_pkgSync (s : State) (n : Nat) (h : Part → Part) : (s.modPart n h).pkgSync = s.pkgSync := rfl
@[simp] theorem State.modPart_domSync (s : State) (n : Nat) (h : Part → Part) : (s.modPart n h).domSync = s.domSync := rfl
@[simp] theorem State.modPart_devnum (s : State) (n : Nat) (h : Part → Part) : (s.modPart n h).devnum = s.devnum := rfl
@[simp] theorem State.modPart_portsTrained (s : State) (n : Nat) (h : Part → Part) : (s.modPart n h).portsTrained = s.portsTrained := rfl
@[simp] theorem State.modPart_booted (s : State) (n : Nat) (h : Part → Part) : (s.modPart n h).booted = s.booted := rfl
@[simp] theorem State.modPart_recovery (s : State) (n : Nat) (h : Part → Part) : (s.modPart n h).recovery = s.recovery := rfl
@[simp] theorem State.modPart_fenceSc (s : State) (n : Nat) (h : Part → Part) : (s.modPart n h).fenceSc = s.fenceSc := rfl
@[simp] theorem State.modPart_modaddr (s : State) (n : Nat) (h : Part → Part) : (s.modPart n h).modaddr = s.modaddr := rfl
@[simp] theorem State.modPart_modctl (s : State) (n : Nat) (h : Part → Part) : (s.modPart n h).modctl = s.modctl := rfl
@[simp] theorem State.modPart_modstat (s : State) (n : Nat) (h : Part → Part) : (s.modPart n h).modstat = s.modstat := rfl
@[simp] theorem State.modPart_modMeas (s : State) (n : Nat) (h : Part → Part) : (s.modPart n h).modMeas = s.modMeas := rfl
@[simp] theorem State.modPart_pwrcap (s : State) (n : Nat) (h : Part → Part) : (s.modPart n h).pwrcap = s.pwrcap := rfl
@[simp] theorem State.modPart_devnumset (s : State) (n : Nat) (h : Part → Part) : (s.modPart n h).devnumset = s.devnumset := rfl
@[simp] theorem State.modPart_rbsel (s : State) (n : Nat) (h : Part → Part) : (s.modPart n h).rbsel = s.rbsel := rfl
@[simp] theorem State.modPart_duty (s : State) (n : Nat) (h : Part → Part) : (s.modPart n h).duty = s.duty := rfl
@[simp] theorem State.modPart_fwMem (s : State) (n : Nat) (h : Part → Part) : (s.modPart n h).fwMem = s.fwMem := rfl
@[simp] theorem State.modPart_doe (s : State) (n : Nat) (h : Part → Part) : (s.modPart n h).doe = s.doe := rfl
@[simp] theorem State.modPart_linkRetries (s : State) (n : Nat) (h : Part → Part) : (s.modPart n h).linkRetries = s.linkRetries := rfl
@[simp] theorem State.modPart_linkFailed (s : State) (n : Nat) (h : Part → Part) : (s.modPart n h).linkFailed = s.linkFailed := rfl
@[simp] theorem State.modPart_hostMem (s : State) (n : Nat) (h : Part → Part) : (s.modPart n h).hostMem = s.hostMem := rfl
@[simp] theorem State.modPart_hostReply (s : State) (n : Nat) (h : Part → Part) : (s.modPart n h).hostReply = s.hostReply := rfl
@[simp] theorem State.modPart_hostRest (s : State) (n : Nat) (h : Part → Part) : (s.modPart n h).hostRest = s.hostRest := rfl
@[simp] theorem State.modPart_msix (s : State) (n : Nat) (h : Part → Part) : (s.modPart n h).msix = s.msix := rfl
@[simp] theorem State.modPart_groups (s : State) (n : Nat) (h : Part → Part) : (s.modPart n h).groups = s.groups := rfl
@[simp] theorem State.modPart_collectives (s : State) (n : Nat) (h : Part → Part) : (s.modPart n h).collectives = s.collectives := rfl
@[simp] theorem State.modPart_partials (s : State) (n : Nat) (h : Part → Part) : (s.modPart n h).partials = s.partials := rfl
@[simp] theorem State.modPart_memStacks (s : State) (n : Nat) (h : Part → Part) : (s.modPart n h).memStacks = s.memStacks := rfl
@[simp] theorem State.modPart_slices (s : State) (n : Nat) (h : Part → Part) : (s.modPart n h).slices = s.slices := rfl
@[simp] theorem State.modPart_dies (s : State) (n : Nat) (h : Part → Part) : (s.modPart n h).dies = s.dies := rfl
@[simp] theorem State.modPart_cores (s : State) (n : Nat) (h : Part → Part) : (s.modPart n h).cores = s.cores := rfl

/-! setStack changes memStacks only. -/

@[simp] theorem State.setStack_agenda (s : State) (n : Nat) (v : Stack) : (s.setStack n v).agenda = s.agenda := rfl
@[simp] theorem State.setStack_freeCtr (s : State) (n : Nat) (v : Stack) : (s.setStack n v).freeCtr = s.freeCtr := rfl
@[simp] theorem State.setStack_cur (s : State) (n : Nat) (v : Stack) : (s.setStack n v).cur = s.cur := rfl
@[simp] theorem State.setStack_msgCtr (s : State) (n : Nat) (v : Stack) : (s.setStack n v).msgCtr = s.msgCtr := rfl
@[simp] theorem State.setStack_net (s : State) (n : Nat) (v : Stack) : (s.setStack n v).net = s.net := rfl
@[simp] theorem State.setStack_outbox (s : State) (n : Nat) (v : Stack) : (s.setStack n v).outbox = s.outbox := rfl
@[simp] theorem State.setStack_executor (s : State) (n : Nat) (v : Stack) : (s.setStack n v).executor = s.executor := rfl
@[simp] theorem State.setStack_answers (s : State) (n : Nat) (v : Stack) : (s.setStack n v).answers = s.answers := rfl
@[simp] theorem State.setStack_gtime (s : State) (n : Nat) (v : Stack) : (s.setStack n v).gtime = s.gtime := rfl
@[simp] theorem State.setStack_pkgSync (s : State) (n : Nat) (v : Stack) : (s.setStack n v).pkgSync = s.pkgSync := rfl
@[simp] theorem State.setStack_domSync (s : State) (n : Nat) (v : Stack) : (s.setStack n v).domSync = s.domSync := rfl
@[simp] theorem State.setStack_devnum (s : State) (n : Nat) (v : Stack) : (s.setStack n v).devnum = s.devnum := rfl
@[simp] theorem State.setStack_portsTrained (s : State) (n : Nat) (v : Stack) : (s.setStack n v).portsTrained = s.portsTrained := rfl
@[simp] theorem State.setStack_booted (s : State) (n : Nat) (v : Stack) : (s.setStack n v).booted = s.booted := rfl
@[simp] theorem State.setStack_recovery (s : State) (n : Nat) (v : Stack) : (s.setStack n v).recovery = s.recovery := rfl
@[simp] theorem State.setStack_fenceSc (s : State) (n : Nat) (v : Stack) : (s.setStack n v).fenceSc = s.fenceSc := rfl
@[simp] theorem State.setStack_modaddr (s : State) (n : Nat) (v : Stack) : (s.setStack n v).modaddr = s.modaddr := rfl
@[simp] theorem State.setStack_modctl (s : State) (n : Nat) (v : Stack) : (s.setStack n v).modctl = s.modctl := rfl
@[simp] theorem State.setStack_modstat (s : State) (n : Nat) (v : Stack) : (s.setStack n v).modstat = s.modstat := rfl
@[simp] theorem State.setStack_modMeas (s : State) (n : Nat) (v : Stack) : (s.setStack n v).modMeas = s.modMeas := rfl
@[simp] theorem State.setStack_pwrcap (s : State) (n : Nat) (v : Stack) : (s.setStack n v).pwrcap = s.pwrcap := rfl
@[simp] theorem State.setStack_devnumset (s : State) (n : Nat) (v : Stack) : (s.setStack n v).devnumset = s.devnumset := rfl
@[simp] theorem State.setStack_rbsel (s : State) (n : Nat) (v : Stack) : (s.setStack n v).rbsel = s.rbsel := rfl
@[simp] theorem State.setStack_duty (s : State) (n : Nat) (v : Stack) : (s.setStack n v).duty = s.duty := rfl
@[simp] theorem State.setStack_fwMem (s : State) (n : Nat) (v : Stack) : (s.setStack n v).fwMem = s.fwMem := rfl
@[simp] theorem State.setStack_doe (s : State) (n : Nat) (v : Stack) : (s.setStack n v).doe = s.doe := rfl
@[simp] theorem State.setStack_linkRetries (s : State) (n : Nat) (v : Stack) : (s.setStack n v).linkRetries = s.linkRetries := rfl
@[simp] theorem State.setStack_linkFailed (s : State) (n : Nat) (v : Stack) : (s.setStack n v).linkFailed = s.linkFailed := rfl
@[simp] theorem State.setStack_hostMem (s : State) (n : Nat) (v : Stack) : (s.setStack n v).hostMem = s.hostMem := rfl
@[simp] theorem State.setStack_hostReply (s : State) (n : Nat) (v : Stack) : (s.setStack n v).hostReply = s.hostReply := rfl
@[simp] theorem State.setStack_hostRest (s : State) (n : Nat) (v : Stack) : (s.setStack n v).hostRest = s.hostRest := rfl
@[simp] theorem State.setStack_msix (s : State) (n : Nat) (v : Stack) : (s.setStack n v).msix = s.msix := rfl
@[simp] theorem State.setStack_groups (s : State) (n : Nat) (v : Stack) : (s.setStack n v).groups = s.groups := rfl
@[simp] theorem State.setStack_collectives (s : State) (n : Nat) (v : Stack) : (s.setStack n v).collectives = s.collectives := rfl
@[simp] theorem State.setStack_partials (s : State) (n : Nat) (v : Stack) : (s.setStack n v).partials = s.partials := rfl
@[simp] theorem State.setStack_slices (s : State) (n : Nat) (v : Stack) : (s.setStack n v).slices = s.slices := rfl
@[simp] theorem State.setStack_dies (s : State) (n : Nat) (v : Stack) : (s.setStack n v).dies = s.dies := rfl
@[simp] theorem State.setStack_parts (s : State) (n : Nat) (v : Stack) : (s.setStack n v).parts = s.parts := rfl
@[simp] theorem State.setStack_cores (s : State) (n : Nat) (v : Stack) : (s.setStack n v).cores = s.cores := rfl

/-! modStack changes memStacks only. -/

@[simp] theorem State.modStack_agenda (s : State) (n : Nat) (h : Stack → Stack) : (s.modStack n h).agenda = s.agenda := rfl
@[simp] theorem State.modStack_freeCtr (s : State) (n : Nat) (h : Stack → Stack) : (s.modStack n h).freeCtr = s.freeCtr := rfl
@[simp] theorem State.modStack_cur (s : State) (n : Nat) (h : Stack → Stack) : (s.modStack n h).cur = s.cur := rfl
@[simp] theorem State.modStack_msgCtr (s : State) (n : Nat) (h : Stack → Stack) : (s.modStack n h).msgCtr = s.msgCtr := rfl
@[simp] theorem State.modStack_net (s : State) (n : Nat) (h : Stack → Stack) : (s.modStack n h).net = s.net := rfl
@[simp] theorem State.modStack_outbox (s : State) (n : Nat) (h : Stack → Stack) : (s.modStack n h).outbox = s.outbox := rfl
@[simp] theorem State.modStack_executor (s : State) (n : Nat) (h : Stack → Stack) : (s.modStack n h).executor = s.executor := rfl
@[simp] theorem State.modStack_answers (s : State) (n : Nat) (h : Stack → Stack) : (s.modStack n h).answers = s.answers := rfl
@[simp] theorem State.modStack_gtime (s : State) (n : Nat) (h : Stack → Stack) : (s.modStack n h).gtime = s.gtime := rfl
@[simp] theorem State.modStack_pkgSync (s : State) (n : Nat) (h : Stack → Stack) : (s.modStack n h).pkgSync = s.pkgSync := rfl
@[simp] theorem State.modStack_domSync (s : State) (n : Nat) (h : Stack → Stack) : (s.modStack n h).domSync = s.domSync := rfl
@[simp] theorem State.modStack_devnum (s : State) (n : Nat) (h : Stack → Stack) : (s.modStack n h).devnum = s.devnum := rfl
@[simp] theorem State.modStack_portsTrained (s : State) (n : Nat) (h : Stack → Stack) : (s.modStack n h).portsTrained = s.portsTrained := rfl
@[simp] theorem State.modStack_booted (s : State) (n : Nat) (h : Stack → Stack) : (s.modStack n h).booted = s.booted := rfl
@[simp] theorem State.modStack_recovery (s : State) (n : Nat) (h : Stack → Stack) : (s.modStack n h).recovery = s.recovery := rfl
@[simp] theorem State.modStack_fenceSc (s : State) (n : Nat) (h : Stack → Stack) : (s.modStack n h).fenceSc = s.fenceSc := rfl
@[simp] theorem State.modStack_modaddr (s : State) (n : Nat) (h : Stack → Stack) : (s.modStack n h).modaddr = s.modaddr := rfl
@[simp] theorem State.modStack_modctl (s : State) (n : Nat) (h : Stack → Stack) : (s.modStack n h).modctl = s.modctl := rfl
@[simp] theorem State.modStack_modstat (s : State) (n : Nat) (h : Stack → Stack) : (s.modStack n h).modstat = s.modstat := rfl
@[simp] theorem State.modStack_modMeas (s : State) (n : Nat) (h : Stack → Stack) : (s.modStack n h).modMeas = s.modMeas := rfl
@[simp] theorem State.modStack_pwrcap (s : State) (n : Nat) (h : Stack → Stack) : (s.modStack n h).pwrcap = s.pwrcap := rfl
@[simp] theorem State.modStack_devnumset (s : State) (n : Nat) (h : Stack → Stack) : (s.modStack n h).devnumset = s.devnumset := rfl
@[simp] theorem State.modStack_rbsel (s : State) (n : Nat) (h : Stack → Stack) : (s.modStack n h).rbsel = s.rbsel := rfl
@[simp] theorem State.modStack_duty (s : State) (n : Nat) (h : Stack → Stack) : (s.modStack n h).duty = s.duty := rfl
@[simp] theorem State.modStack_fwMem (s : State) (n : Nat) (h : Stack → Stack) : (s.modStack n h).fwMem = s.fwMem := rfl
@[simp] theorem State.modStack_doe (s : State) (n : Nat) (h : Stack → Stack) : (s.modStack n h).doe = s.doe := rfl
@[simp] theorem State.modStack_linkRetries (s : State) (n : Nat) (h : Stack → Stack) : (s.modStack n h).linkRetries = s.linkRetries := rfl
@[simp] theorem State.modStack_linkFailed (s : State) (n : Nat) (h : Stack → Stack) : (s.modStack n h).linkFailed = s.linkFailed := rfl
@[simp] theorem State.modStack_hostMem (s : State) (n : Nat) (h : Stack → Stack) : (s.modStack n h).hostMem = s.hostMem := rfl
@[simp] theorem State.modStack_hostReply (s : State) (n : Nat) (h : Stack → Stack) : (s.modStack n h).hostReply = s.hostReply := rfl
@[simp] theorem State.modStack_hostRest (s : State) (n : Nat) (h : Stack → Stack) : (s.modStack n h).hostRest = s.hostRest := rfl
@[simp] theorem State.modStack_msix (s : State) (n : Nat) (h : Stack → Stack) : (s.modStack n h).msix = s.msix := rfl
@[simp] theorem State.modStack_groups (s : State) (n : Nat) (h : Stack → Stack) : (s.modStack n h).groups = s.groups := rfl
@[simp] theorem State.modStack_collectives (s : State) (n : Nat) (h : Stack → Stack) : (s.modStack n h).collectives = s.collectives := rfl
@[simp] theorem State.modStack_partials (s : State) (n : Nat) (h : Stack → Stack) : (s.modStack n h).partials = s.partials := rfl
@[simp] theorem State.modStack_slices (s : State) (n : Nat) (h : Stack → Stack) : (s.modStack n h).slices = s.slices := rfl
@[simp] theorem State.modStack_dies (s : State) (n : Nat) (h : Stack → Stack) : (s.modStack n h).dies = s.dies := rfl
@[simp] theorem State.modStack_parts (s : State) (n : Nat) (h : Stack → Stack) : (s.modStack n h).parts = s.parts := rfl
@[simp] theorem State.modStack_cores (s : State) (n : Nat) (h : Stack → Stack) : (s.modStack n h).cores = s.cores := rfl

/-! setSlice changes slices only. -/

@[simp] theorem State.setSlice_agenda (s : State) (n : Nat) (v : Slice) : (s.setSlice n v).agenda = s.agenda := rfl
@[simp] theorem State.setSlice_freeCtr (s : State) (n : Nat) (v : Slice) : (s.setSlice n v).freeCtr = s.freeCtr := rfl
@[simp] theorem State.setSlice_cur (s : State) (n : Nat) (v : Slice) : (s.setSlice n v).cur = s.cur := rfl
@[simp] theorem State.setSlice_msgCtr (s : State) (n : Nat) (v : Slice) : (s.setSlice n v).msgCtr = s.msgCtr := rfl
@[simp] theorem State.setSlice_net (s : State) (n : Nat) (v : Slice) : (s.setSlice n v).net = s.net := rfl
@[simp] theorem State.setSlice_outbox (s : State) (n : Nat) (v : Slice) : (s.setSlice n v).outbox = s.outbox := rfl
@[simp] theorem State.setSlice_executor (s : State) (n : Nat) (v : Slice) : (s.setSlice n v).executor = s.executor := rfl
@[simp] theorem State.setSlice_answers (s : State) (n : Nat) (v : Slice) : (s.setSlice n v).answers = s.answers := rfl
@[simp] theorem State.setSlice_gtime (s : State) (n : Nat) (v : Slice) : (s.setSlice n v).gtime = s.gtime := rfl
@[simp] theorem State.setSlice_pkgSync (s : State) (n : Nat) (v : Slice) : (s.setSlice n v).pkgSync = s.pkgSync := rfl
@[simp] theorem State.setSlice_domSync (s : State) (n : Nat) (v : Slice) : (s.setSlice n v).domSync = s.domSync := rfl
@[simp] theorem State.setSlice_devnum (s : State) (n : Nat) (v : Slice) : (s.setSlice n v).devnum = s.devnum := rfl
@[simp] theorem State.setSlice_portsTrained (s : State) (n : Nat) (v : Slice) : (s.setSlice n v).portsTrained = s.portsTrained := rfl
@[simp] theorem State.setSlice_booted (s : State) (n : Nat) (v : Slice) : (s.setSlice n v).booted = s.booted := rfl
@[simp] theorem State.setSlice_recovery (s : State) (n : Nat) (v : Slice) : (s.setSlice n v).recovery = s.recovery := rfl
@[simp] theorem State.setSlice_fenceSc (s : State) (n : Nat) (v : Slice) : (s.setSlice n v).fenceSc = s.fenceSc := rfl
@[simp] theorem State.setSlice_modaddr (s : State) (n : Nat) (v : Slice) : (s.setSlice n v).modaddr = s.modaddr := rfl
@[simp] theorem State.setSlice_modctl (s : State) (n : Nat) (v : Slice) : (s.setSlice n v).modctl = s.modctl := rfl
@[simp] theorem State.setSlice_modstat (s : State) (n : Nat) (v : Slice) : (s.setSlice n v).modstat = s.modstat := rfl
@[simp] theorem State.setSlice_modMeas (s : State) (n : Nat) (v : Slice) : (s.setSlice n v).modMeas = s.modMeas := rfl
@[simp] theorem State.setSlice_pwrcap (s : State) (n : Nat) (v : Slice) : (s.setSlice n v).pwrcap = s.pwrcap := rfl
@[simp] theorem State.setSlice_devnumset (s : State) (n : Nat) (v : Slice) : (s.setSlice n v).devnumset = s.devnumset := rfl
@[simp] theorem State.setSlice_rbsel (s : State) (n : Nat) (v : Slice) : (s.setSlice n v).rbsel = s.rbsel := rfl
@[simp] theorem State.setSlice_duty (s : State) (n : Nat) (v : Slice) : (s.setSlice n v).duty = s.duty := rfl
@[simp] theorem State.setSlice_fwMem (s : State) (n : Nat) (v : Slice) : (s.setSlice n v).fwMem = s.fwMem := rfl
@[simp] theorem State.setSlice_doe (s : State) (n : Nat) (v : Slice) : (s.setSlice n v).doe = s.doe := rfl
@[simp] theorem State.setSlice_linkRetries (s : State) (n : Nat) (v : Slice) : (s.setSlice n v).linkRetries = s.linkRetries := rfl
@[simp] theorem State.setSlice_linkFailed (s : State) (n : Nat) (v : Slice) : (s.setSlice n v).linkFailed = s.linkFailed := rfl
@[simp] theorem State.setSlice_hostMem (s : State) (n : Nat) (v : Slice) : (s.setSlice n v).hostMem = s.hostMem := rfl
@[simp] theorem State.setSlice_hostReply (s : State) (n : Nat) (v : Slice) : (s.setSlice n v).hostReply = s.hostReply := rfl
@[simp] theorem State.setSlice_hostRest (s : State) (n : Nat) (v : Slice) : (s.setSlice n v).hostRest = s.hostRest := rfl
@[simp] theorem State.setSlice_msix (s : State) (n : Nat) (v : Slice) : (s.setSlice n v).msix = s.msix := rfl
@[simp] theorem State.setSlice_groups (s : State) (n : Nat) (v : Slice) : (s.setSlice n v).groups = s.groups := rfl
@[simp] theorem State.setSlice_collectives (s : State) (n : Nat) (v : Slice) : (s.setSlice n v).collectives = s.collectives := rfl
@[simp] theorem State.setSlice_partials (s : State) (n : Nat) (v : Slice) : (s.setSlice n v).partials = s.partials := rfl
@[simp] theorem State.setSlice_memStacks (s : State) (n : Nat) (v : Slice) : (s.setSlice n v).memStacks = s.memStacks := rfl
@[simp] theorem State.setSlice_dies (s : State) (n : Nat) (v : Slice) : (s.setSlice n v).dies = s.dies := rfl
@[simp] theorem State.setSlice_parts (s : State) (n : Nat) (v : Slice) : (s.setSlice n v).parts = s.parts := rfl
@[simp] theorem State.setSlice_cores (s : State) (n : Nat) (v : Slice) : (s.setSlice n v).cores = s.cores := rfl

/-! modSlice changes slices only. -/

@[simp] theorem State.modSlice_agenda (s : State) (n : Nat) (h : Slice → Slice) : (s.modSlice n h).agenda = s.agenda := rfl
@[simp] theorem State.modSlice_freeCtr (s : State) (n : Nat) (h : Slice → Slice) : (s.modSlice n h).freeCtr = s.freeCtr := rfl
@[simp] theorem State.modSlice_cur (s : State) (n : Nat) (h : Slice → Slice) : (s.modSlice n h).cur = s.cur := rfl
@[simp] theorem State.modSlice_msgCtr (s : State) (n : Nat) (h : Slice → Slice) : (s.modSlice n h).msgCtr = s.msgCtr := rfl
@[simp] theorem State.modSlice_net (s : State) (n : Nat) (h : Slice → Slice) : (s.modSlice n h).net = s.net := rfl
@[simp] theorem State.modSlice_outbox (s : State) (n : Nat) (h : Slice → Slice) : (s.modSlice n h).outbox = s.outbox := rfl
@[simp] theorem State.modSlice_executor (s : State) (n : Nat) (h : Slice → Slice) : (s.modSlice n h).executor = s.executor := rfl
@[simp] theorem State.modSlice_answers (s : State) (n : Nat) (h : Slice → Slice) : (s.modSlice n h).answers = s.answers := rfl
@[simp] theorem State.modSlice_gtime (s : State) (n : Nat) (h : Slice → Slice) : (s.modSlice n h).gtime = s.gtime := rfl
@[simp] theorem State.modSlice_pkgSync (s : State) (n : Nat) (h : Slice → Slice) : (s.modSlice n h).pkgSync = s.pkgSync := rfl
@[simp] theorem State.modSlice_domSync (s : State) (n : Nat) (h : Slice → Slice) : (s.modSlice n h).domSync = s.domSync := rfl
@[simp] theorem State.modSlice_devnum (s : State) (n : Nat) (h : Slice → Slice) : (s.modSlice n h).devnum = s.devnum := rfl
@[simp] theorem State.modSlice_portsTrained (s : State) (n : Nat) (h : Slice → Slice) : (s.modSlice n h).portsTrained = s.portsTrained := rfl
@[simp] theorem State.modSlice_booted (s : State) (n : Nat) (h : Slice → Slice) : (s.modSlice n h).booted = s.booted := rfl
@[simp] theorem State.modSlice_recovery (s : State) (n : Nat) (h : Slice → Slice) : (s.modSlice n h).recovery = s.recovery := rfl
@[simp] theorem State.modSlice_fenceSc (s : State) (n : Nat) (h : Slice → Slice) : (s.modSlice n h).fenceSc = s.fenceSc := rfl
@[simp] theorem State.modSlice_modaddr (s : State) (n : Nat) (h : Slice → Slice) : (s.modSlice n h).modaddr = s.modaddr := rfl
@[simp] theorem State.modSlice_modctl (s : State) (n : Nat) (h : Slice → Slice) : (s.modSlice n h).modctl = s.modctl := rfl
@[simp] theorem State.modSlice_modstat (s : State) (n : Nat) (h : Slice → Slice) : (s.modSlice n h).modstat = s.modstat := rfl
@[simp] theorem State.modSlice_modMeas (s : State) (n : Nat) (h : Slice → Slice) : (s.modSlice n h).modMeas = s.modMeas := rfl
@[simp] theorem State.modSlice_pwrcap (s : State) (n : Nat) (h : Slice → Slice) : (s.modSlice n h).pwrcap = s.pwrcap := rfl
@[simp] theorem State.modSlice_devnumset (s : State) (n : Nat) (h : Slice → Slice) : (s.modSlice n h).devnumset = s.devnumset := rfl
@[simp] theorem State.modSlice_rbsel (s : State) (n : Nat) (h : Slice → Slice) : (s.modSlice n h).rbsel = s.rbsel := rfl
@[simp] theorem State.modSlice_duty (s : State) (n : Nat) (h : Slice → Slice) : (s.modSlice n h).duty = s.duty := rfl
@[simp] theorem State.modSlice_fwMem (s : State) (n : Nat) (h : Slice → Slice) : (s.modSlice n h).fwMem = s.fwMem := rfl
@[simp] theorem State.modSlice_doe (s : State) (n : Nat) (h : Slice → Slice) : (s.modSlice n h).doe = s.doe := rfl
@[simp] theorem State.modSlice_linkRetries (s : State) (n : Nat) (h : Slice → Slice) : (s.modSlice n h).linkRetries = s.linkRetries := rfl
@[simp] theorem State.modSlice_linkFailed (s : State) (n : Nat) (h : Slice → Slice) : (s.modSlice n h).linkFailed = s.linkFailed := rfl
@[simp] theorem State.modSlice_hostMem (s : State) (n : Nat) (h : Slice → Slice) : (s.modSlice n h).hostMem = s.hostMem := rfl
@[simp] theorem State.modSlice_hostReply (s : State) (n : Nat) (h : Slice → Slice) : (s.modSlice n h).hostReply = s.hostReply := rfl
@[simp] theorem State.modSlice_hostRest (s : State) (n : Nat) (h : Slice → Slice) : (s.modSlice n h).hostRest = s.hostRest := rfl
@[simp] theorem State.modSlice_msix (s : State) (n : Nat) (h : Slice → Slice) : (s.modSlice n h).msix = s.msix := rfl
@[simp] theorem State.modSlice_groups (s : State) (n : Nat) (h : Slice → Slice) : (s.modSlice n h).groups = s.groups := rfl
@[simp] theorem State.modSlice_collectives (s : State) (n : Nat) (h : Slice → Slice) : (s.modSlice n h).collectives = s.collectives := rfl
@[simp] theorem State.modSlice_partials (s : State) (n : Nat) (h : Slice → Slice) : (s.modSlice n h).partials = s.partials := rfl
@[simp] theorem State.modSlice_memStacks (s : State) (n : Nat) (h : Slice → Slice) : (s.modSlice n h).memStacks = s.memStacks := rfl
@[simp] theorem State.modSlice_dies (s : State) (n : Nat) (h : Slice → Slice) : (s.modSlice n h).dies = s.dies := rfl
@[simp] theorem State.modSlice_parts (s : State) (n : Nat) (h : Slice → Slice) : (s.modSlice n h).parts = s.parts := rfl
@[simp] theorem State.modSlice_cores (s : State) (n : Nat) (h : Slice → Slice) : (s.modSlice n h).cores = s.cores := rfl

/-! setDie changes dies only. -/

@[simp] theorem State.setDie_agenda (s : State) (n : Nat) (v : Die) : (s.setDie n v).agenda = s.agenda := rfl
@[simp] theorem State.setDie_freeCtr (s : State) (n : Nat) (v : Die) : (s.setDie n v).freeCtr = s.freeCtr := rfl
@[simp] theorem State.setDie_cur (s : State) (n : Nat) (v : Die) : (s.setDie n v).cur = s.cur := rfl
@[simp] theorem State.setDie_msgCtr (s : State) (n : Nat) (v : Die) : (s.setDie n v).msgCtr = s.msgCtr := rfl
@[simp] theorem State.setDie_net (s : State) (n : Nat) (v : Die) : (s.setDie n v).net = s.net := rfl
@[simp] theorem State.setDie_outbox (s : State) (n : Nat) (v : Die) : (s.setDie n v).outbox = s.outbox := rfl
@[simp] theorem State.setDie_executor (s : State) (n : Nat) (v : Die) : (s.setDie n v).executor = s.executor := rfl
@[simp] theorem State.setDie_answers (s : State) (n : Nat) (v : Die) : (s.setDie n v).answers = s.answers := rfl
@[simp] theorem State.setDie_gtime (s : State) (n : Nat) (v : Die) : (s.setDie n v).gtime = s.gtime := rfl
@[simp] theorem State.setDie_pkgSync (s : State) (n : Nat) (v : Die) : (s.setDie n v).pkgSync = s.pkgSync := rfl
@[simp] theorem State.setDie_domSync (s : State) (n : Nat) (v : Die) : (s.setDie n v).domSync = s.domSync := rfl
@[simp] theorem State.setDie_devnum (s : State) (n : Nat) (v : Die) : (s.setDie n v).devnum = s.devnum := rfl
@[simp] theorem State.setDie_portsTrained (s : State) (n : Nat) (v : Die) : (s.setDie n v).portsTrained = s.portsTrained := rfl
@[simp] theorem State.setDie_booted (s : State) (n : Nat) (v : Die) : (s.setDie n v).booted = s.booted := rfl
@[simp] theorem State.setDie_recovery (s : State) (n : Nat) (v : Die) : (s.setDie n v).recovery = s.recovery := rfl
@[simp] theorem State.setDie_fenceSc (s : State) (n : Nat) (v : Die) : (s.setDie n v).fenceSc = s.fenceSc := rfl
@[simp] theorem State.setDie_modaddr (s : State) (n : Nat) (v : Die) : (s.setDie n v).modaddr = s.modaddr := rfl
@[simp] theorem State.setDie_modctl (s : State) (n : Nat) (v : Die) : (s.setDie n v).modctl = s.modctl := rfl
@[simp] theorem State.setDie_modstat (s : State) (n : Nat) (v : Die) : (s.setDie n v).modstat = s.modstat := rfl
@[simp] theorem State.setDie_modMeas (s : State) (n : Nat) (v : Die) : (s.setDie n v).modMeas = s.modMeas := rfl
@[simp] theorem State.setDie_pwrcap (s : State) (n : Nat) (v : Die) : (s.setDie n v).pwrcap = s.pwrcap := rfl
@[simp] theorem State.setDie_devnumset (s : State) (n : Nat) (v : Die) : (s.setDie n v).devnumset = s.devnumset := rfl
@[simp] theorem State.setDie_rbsel (s : State) (n : Nat) (v : Die) : (s.setDie n v).rbsel = s.rbsel := rfl
@[simp] theorem State.setDie_duty (s : State) (n : Nat) (v : Die) : (s.setDie n v).duty = s.duty := rfl
@[simp] theorem State.setDie_fwMem (s : State) (n : Nat) (v : Die) : (s.setDie n v).fwMem = s.fwMem := rfl
@[simp] theorem State.setDie_doe (s : State) (n : Nat) (v : Die) : (s.setDie n v).doe = s.doe := rfl
@[simp] theorem State.setDie_linkRetries (s : State) (n : Nat) (v : Die) : (s.setDie n v).linkRetries = s.linkRetries := rfl
@[simp] theorem State.setDie_linkFailed (s : State) (n : Nat) (v : Die) : (s.setDie n v).linkFailed = s.linkFailed := rfl
@[simp] theorem State.setDie_hostMem (s : State) (n : Nat) (v : Die) : (s.setDie n v).hostMem = s.hostMem := rfl
@[simp] theorem State.setDie_hostReply (s : State) (n : Nat) (v : Die) : (s.setDie n v).hostReply = s.hostReply := rfl
@[simp] theorem State.setDie_hostRest (s : State) (n : Nat) (v : Die) : (s.setDie n v).hostRest = s.hostRest := rfl
@[simp] theorem State.setDie_msix (s : State) (n : Nat) (v : Die) : (s.setDie n v).msix = s.msix := rfl
@[simp] theorem State.setDie_groups (s : State) (n : Nat) (v : Die) : (s.setDie n v).groups = s.groups := rfl
@[simp] theorem State.setDie_collectives (s : State) (n : Nat) (v : Die) : (s.setDie n v).collectives = s.collectives := rfl
@[simp] theorem State.setDie_partials (s : State) (n : Nat) (v : Die) : (s.setDie n v).partials = s.partials := rfl
@[simp] theorem State.setDie_memStacks (s : State) (n : Nat) (v : Die) : (s.setDie n v).memStacks = s.memStacks := rfl
@[simp] theorem State.setDie_slices (s : State) (n : Nat) (v : Die) : (s.setDie n v).slices = s.slices := rfl
@[simp] theorem State.setDie_parts (s : State) (n : Nat) (v : Die) : (s.setDie n v).parts = s.parts := rfl
@[simp] theorem State.setDie_cores (s : State) (n : Nat) (v : Die) : (s.setDie n v).cores = s.cores := rfl

/-! modDie changes dies only. -/

@[simp] theorem State.modDie_agenda (s : State) (n : Nat) (h : Die → Die) : (s.modDie n h).agenda = s.agenda := rfl
@[simp] theorem State.modDie_freeCtr (s : State) (n : Nat) (h : Die → Die) : (s.modDie n h).freeCtr = s.freeCtr := rfl
@[simp] theorem State.modDie_cur (s : State) (n : Nat) (h : Die → Die) : (s.modDie n h).cur = s.cur := rfl
@[simp] theorem State.modDie_msgCtr (s : State) (n : Nat) (h : Die → Die) : (s.modDie n h).msgCtr = s.msgCtr := rfl
@[simp] theorem State.modDie_net (s : State) (n : Nat) (h : Die → Die) : (s.modDie n h).net = s.net := rfl
@[simp] theorem State.modDie_outbox (s : State) (n : Nat) (h : Die → Die) : (s.modDie n h).outbox = s.outbox := rfl
@[simp] theorem State.modDie_executor (s : State) (n : Nat) (h : Die → Die) : (s.modDie n h).executor = s.executor := rfl
@[simp] theorem State.modDie_answers (s : State) (n : Nat) (h : Die → Die) : (s.modDie n h).answers = s.answers := rfl
@[simp] theorem State.modDie_gtime (s : State) (n : Nat) (h : Die → Die) : (s.modDie n h).gtime = s.gtime := rfl
@[simp] theorem State.modDie_pkgSync (s : State) (n : Nat) (h : Die → Die) : (s.modDie n h).pkgSync = s.pkgSync := rfl
@[simp] theorem State.modDie_domSync (s : State) (n : Nat) (h : Die → Die) : (s.modDie n h).domSync = s.domSync := rfl
@[simp] theorem State.modDie_devnum (s : State) (n : Nat) (h : Die → Die) : (s.modDie n h).devnum = s.devnum := rfl
@[simp] theorem State.modDie_portsTrained (s : State) (n : Nat) (h : Die → Die) : (s.modDie n h).portsTrained = s.portsTrained := rfl
@[simp] theorem State.modDie_booted (s : State) (n : Nat) (h : Die → Die) : (s.modDie n h).booted = s.booted := rfl
@[simp] theorem State.modDie_recovery (s : State) (n : Nat) (h : Die → Die) : (s.modDie n h).recovery = s.recovery := rfl
@[simp] theorem State.modDie_fenceSc (s : State) (n : Nat) (h : Die → Die) : (s.modDie n h).fenceSc = s.fenceSc := rfl
@[simp] theorem State.modDie_modaddr (s : State) (n : Nat) (h : Die → Die) : (s.modDie n h).modaddr = s.modaddr := rfl
@[simp] theorem State.modDie_modctl (s : State) (n : Nat) (h : Die → Die) : (s.modDie n h).modctl = s.modctl := rfl
@[simp] theorem State.modDie_modstat (s : State) (n : Nat) (h : Die → Die) : (s.modDie n h).modstat = s.modstat := rfl
@[simp] theorem State.modDie_modMeas (s : State) (n : Nat) (h : Die → Die) : (s.modDie n h).modMeas = s.modMeas := rfl
@[simp] theorem State.modDie_pwrcap (s : State) (n : Nat) (h : Die → Die) : (s.modDie n h).pwrcap = s.pwrcap := rfl
@[simp] theorem State.modDie_devnumset (s : State) (n : Nat) (h : Die → Die) : (s.modDie n h).devnumset = s.devnumset := rfl
@[simp] theorem State.modDie_rbsel (s : State) (n : Nat) (h : Die → Die) : (s.modDie n h).rbsel = s.rbsel := rfl
@[simp] theorem State.modDie_duty (s : State) (n : Nat) (h : Die → Die) : (s.modDie n h).duty = s.duty := rfl
@[simp] theorem State.modDie_fwMem (s : State) (n : Nat) (h : Die → Die) : (s.modDie n h).fwMem = s.fwMem := rfl
@[simp] theorem State.modDie_doe (s : State) (n : Nat) (h : Die → Die) : (s.modDie n h).doe = s.doe := rfl
@[simp] theorem State.modDie_linkRetries (s : State) (n : Nat) (h : Die → Die) : (s.modDie n h).linkRetries = s.linkRetries := rfl
@[simp] theorem State.modDie_linkFailed (s : State) (n : Nat) (h : Die → Die) : (s.modDie n h).linkFailed = s.linkFailed := rfl
@[simp] theorem State.modDie_hostMem (s : State) (n : Nat) (h : Die → Die) : (s.modDie n h).hostMem = s.hostMem := rfl
@[simp] theorem State.modDie_hostReply (s : State) (n : Nat) (h : Die → Die) : (s.modDie n h).hostReply = s.hostReply := rfl
@[simp] theorem State.modDie_hostRest (s : State) (n : Nat) (h : Die → Die) : (s.modDie n h).hostRest = s.hostRest := rfl
@[simp] theorem State.modDie_msix (s : State) (n : Nat) (h : Die → Die) : (s.modDie n h).msix = s.msix := rfl
@[simp] theorem State.modDie_groups (s : State) (n : Nat) (h : Die → Die) : (s.modDie n h).groups = s.groups := rfl
@[simp] theorem State.modDie_collectives (s : State) (n : Nat) (h : Die → Die) : (s.modDie n h).collectives = s.collectives := rfl
@[simp] theorem State.modDie_partials (s : State) (n : Nat) (h : Die → Die) : (s.modDie n h).partials = s.partials := rfl
@[simp] theorem State.modDie_memStacks (s : State) (n : Nat) (h : Die → Die) : (s.modDie n h).memStacks = s.memStacks := rfl
@[simp] theorem State.modDie_slices (s : State) (n : Nat) (h : Die → Die) : (s.modDie n h).slices = s.slices := rfl
@[simp] theorem State.modDie_parts (s : State) (n : Nat) (h : Die → Die) : (s.modDie n h).parts = s.parts := rfl
@[simp] theorem State.modDie_cores (s : State) (n : Nat) (h : Die → Die) : (s.modDie n h).cores = s.cores := rfl

/-! A context written into its core leaves the rest of the core. -/

@[simp] theorem Core.setCtx_tstate (k : Core) (x : Nat) (t : Ctx) : (k.setCtx x t).tstate = k.tstate := rfl
@[simp] theorem Core.setCtx_cycle (k : Core) (x : Nat) (t : Ctx) : (k.setCtx x t).cycle = k.cycle := rfl
@[simp] theorem Core.setCtx_gangIdx (k : Core) (x : Nat) (t : Ctx) : (k.setCtx x t).gangIdx = k.gangIdx := rfl
@[simp] theorem Core.setCtx_gangSize (k : Core) (x : Nat) (t : Ctx) : (k.setCtx x t).gangSize = k.gangSize := rfl
@[simp] theorem Core.setCtx_taskId (k : Core) (x : Nat) (t : Ctx) : (k.setCtx x t).taskId = k.taskId := rfl
@[simp] theorem Core.setCtx_args (k : Core) (x : Nat) (t : Ctx) : (k.setCtx x t).args = k.args := rfl
@[simp] theorem Core.setCtx_split (k : Core) (x : Nat) (t : Ctx) : (k.setCtx x t).split = k.split := rfl
@[simp] theorem Core.setCtx_splitSeen (k : Core) (x : Nat) (t : Ctx) : (k.setCtx x t).splitSeen = k.splitSeen := rfl
@[simp] theorem Core.setCtx_splitChange (k : Core) (x : Nat) (t : Ctx) : (k.setCtx x t).splitChange = k.splitChange := rfl
@[simp] theorem Core.setCtx_pool (k : Core) (x : Nat) (t : Ctx) : (k.setCtx x t).pool = k.pool := rfl
@[simp] theorem Core.setCtx_s (k : Core) (x : Nat) (t : Ctx) : (k.setCtx x t).s = k.s := rfl
@[simp] theorem Core.setCtx_spend (k : Core) (x : Nat) (t : Ctx) : (k.setCtx x t).spend = k.spend := rfl
@[simp] theorem Core.setCtx_store (k : Core) (x : Nat) (t : Ctx) : (k.setCtx x t).store = k.store := rfl
@[simp] theorem Core.setCtx_storePoison (k : Core) (x : Nat) (t : Ctx) : (k.setCtx x t).storePoison = k.storePoison := rfl
@[simp] theorem Core.setCtx_pins (k : Core) (x : Nat) (t : Ctx) : (k.setCtx x t).pins = k.pins := rfl
@[simp] theorem Core.setCtx_cache (k : Core) (x : Nat) (t : Ctx) : (k.setCtx x t).cache = k.cache := rfl
@[simp] theorem Core.setCtx_fbuf (k : Core) (x : Nat) (t : Ctx) : (k.setCtx x t).fbuf = k.fbuf := rfl
@[simp] theorem Core.setCtx_tb (k : Core) (x : Nat) (t : Ctx) : (k.setCtx x t).tb = k.tb := rfl
@[simp] theorem Core.setCtx_tbHist (k : Core) (x : Nat) (t : Ctx) : (k.setCtx x t).tbHist = k.tbHist := rfl
@[simp] theorem Core.setCtx_wl (k : Core) (x : Nat) (t : Ctx) : (k.setCtx x t).wl = k.wl := rfl
@[simp] theorem Core.setCtx_wlSent (k : Core) (x : Nat) (t : Ctx) : (k.setCtx x t).wlSent = k.wlSent := rfl
@[simp] theorem Core.setCtx_lvlNext (k : Core) (x : Nat) (t : Ctx) : (k.setCtx x t).lvlNext = k.lvlNext := rfl
@[simp] theorem Core.setCtx_acc (k : Core) (x : Nat) (t : Ctx) : (k.setCtx x t).acc = k.acc := rfl
@[simp] theorem Core.setCtx_mq (k : Core) (x : Nat) (t : Ctx) : (k.setCtx x t).mq = k.mq := rfl
@[simp] theorem Core.setCtx_mqPos (k : Core) (x : Nat) (t : Ctx) : (k.setCtx x t).mqPos = k.mqPos := rfl
@[simp] theorem Core.setCtx_mqOpen (k : Core) (x : Nat) (t : Ctx) : (k.setCtx x t).mqOpen = k.mqOpen := rfl
@[simp] theorem Core.setCtx_nextBatch (k : Core) (x : Nat) (t : Ctx) : (k.setCtx x t).nextBatch = k.nextBatch := rfl
@[simp] theorem Core.setCtx_lastBatch (k : Core) (x : Nat) (t : Ctx) : (k.setCtx x t).lastBatch = k.lastBatch := rfl
@[simp] theorem Core.setCtx_closed (k : Core) (x : Nat) (t : Ctx) : (k.setCtx x t).closed = k.closed := rfl
@[simp] theorem Core.setCtx_reports (k : Core) (x : Nat) (t : Ctx) : (k.setCtx x t).reports = k.reports := rfl
@[simp] theorem Core.setCtx_reported (k : Core) (x : Nat) (t : Ctx) : (k.setCtx x t).reported = k.reported := rfl
@[simp] theorem Core.setCtx_mqBusy (k : Core) (x : Nat) (t : Ctx) : (k.setCtx x t).mqBusy = k.mqBusy := rfl
@[simp] theorem Core.setCtx_fifo (k : Core) (x : Nat) (t : Ctx) : (k.setCtx x t).fifo = k.fifo := rfl
@[simp] theorem Core.setCtx_xmarks (k : Core) (x : Nat) (t : Ctx) : (k.setCtx x t).xmarks = k.xmarks := rfl
@[simp] theorem Core.setCtx_fresh (k : Core) (x : Nat) (t : Ctx) : (k.setCtx x t).fresh = k.fresh := rfl
@[simp] theorem Core.setCtx_acq (k : Core) (x : Nat) (t : Ctx) : (k.setCtx x t).acq = k.acq := rfl
@[simp] theorem Core.setCtx_bar (k : Core) (x : Nat) (t : Ctx) : (k.setCtx x t).bar = k.bar := rfl
@[simp] theorem Core.setCtx_notices (k : Core) (x : Nat) (t : Ctx) : (k.setCtx x t).notices = k.notices := rfl
@[simp] theorem Core.setCtx_nextNotice (k : Core) (x : Nat) (t : Ctx) : (k.setCtx x t).nextNotice = k.nextNotice := rfl
@[simp] theorem Core.setCtx_faults (k : Core) (x : Nat) (t : Ctx) : (k.setCtx x t).faults = k.faults := rfl
@[simp] theorem Core.setCtx_mcLast (k : Core) (x : Nat) (t : Ctx) : (k.setCtx x t).mcLast = k.mcLast := rfl
@[simp] theorem Core.setCtx_mcMore (k : Core) (x : Nat) (t : Ctx) : (k.setCtx x t).mcMore = k.mcMore := rfl

/-! The end of an instruction changes the PC and forgets its phases. -/

@[simp] theorem Ctx.settle_state (t : Ctx) (pc : Word) : (t.settle pc).state = t.state := rfl
@[simp] theorem Ctx.settle_pc (t : Ctx) (pc : Word) : (t.settle pc).pc = pc := rfl
@[simp] theorem Ctx.settle_g (t : Ctx) (pc : Word) : (t.settle pc).g = t.g := rfl
@[simp] theorem Ctx.settle_f (t : Ctx) (pc : Word) : (t.settle pc).f = t.f := rfl
@[simp] theorem Ctx.settle_p (t : Ctx) (pc : Word) : (t.settle pc).p = t.p := rfl
@[simp] theorem Ctx.settle_v (t : Ctx) (pc : Word) : (t.settle pc).v = t.v := rfl
@[simp] theorem Ctx.settle_q (t : Ctx) (pc : Word) : (t.settle pc).q = t.q := rfl
@[simp] theorem Ctx.settle_level (t : Ctx) (pc : Word) : (t.settle pc).level = t.level := rfl
@[simp] theorem Ctx.settle_tcause (t : Ctx) (pc : Word) : (t.settle pc).tcause = t.tcause := rfl
@[simp] theorem Ctx.settle_tval (t : Ctx) (pc : Word) : (t.settle pc).tval = t.tval := rfl
@[simp] theorem Ctx.settle_tepc (t : Ctx) (pc : Word) : (t.settle pc).tepc = t.tepc := rfl
@[simp] theorem Ctx.settle_tvec (t : Ctx) (pc : Word) : (t.settle pc).tvec = t.tvec := rfl
@[simp] theorem Ctx.settle_tstat (t : Ctx) (pc : Word) : (t.settle pc).tstat = t.tstat := rfl
@[simp] theorem Ctx.settle_tdeleg (t : Ctx) (pc : Word) : (t.settle pc).tdeleg = t.tdeleg := rfl
@[simp] theorem Ctx.settle_fpctl (t : Ctx) (pc : Word) : (t.settle pc).fpctl = t.fpctl := rfl
@[simp] theorem Ctx.settle_fpflags (t : Ctx) (pc : Word) : (t.settle pc).fpflags = t.fpflags := rfl
@[simp] theorem Ctx.settle_sigmin (t : Ctx) (pc : Word) : (t.settle pc).sigmin = t.sigmin := rfl
@[simp] theorem Ctx.settle_siglanes (t : Ctx) (pc : Word) : (t.settle pc).siglanes = t.siglanes := rfl
@[simp] theorem Ctx.settle_xferid (t : Ctx) (pc : Word) : (t.settle pc).xferid = t.xferid := rfl
@[simp] theorem Ctx.settle_xferstat (t : Ctx) (pc : Word) : (t.settle pc).xferstat = t.xferstat := rfl
@[simp] theorem Ctx.settle_dbgctl (t : Ctx) (pc : Word) : (t.settle pc).dbgctl = t.dbgctl := rfl
@[simp] theorem Ctx.settle_hcause (t : Ctx) (pc : Word) : (t.settle pc).hcause = t.hcause := rfl
@[simp] theorem Ctx.settle_hval (t : Ctx) (pc : Word) : (t.settle pc).hval = t.hval := rfl
@[simp] theorem Ctx.settle_hepc (t : Ctx) (pc : Word) : (t.settle pc).hepc = t.hepc := rfl
@[simp] theorem Ctx.settle_hstat (t : Ctx) (pc : Word) : (t.settle pc).hstat = t.hstat := rfl
@[simp] theorem Ctx.settle_ushadow (t : Ctx) (pc : Word) : (t.settle pc).ushadow = t.ushadow := rfl
@[simp] theorem Ctx.settle_sshadow (t : Ctx) (pc : Word) : (t.settle pc).sshadow = t.sshadow := rfl
@[simp] theorem Ctx.settle_exitWord (t : Ctx) (pc : Word) : (t.settle pc).exitWord = t.exitWord := rfl
@[simp] theorem Ctx.settle_rfcount (t : Ctx) (pc : Word) : (t.settle pc).rfcount = t.rfcount := rfl
@[simp] theorem Ctx.settle_refCount (t : Ctx) (pc : Word) : (t.settle pc).refCount = t.refCount := rfl
@[simp] theorem Ctx.settle_refCode (t : Ctx) (pc : Word) : (t.settle pc).refCode = t.refCode := rfl
@[simp] theorem Ctx.settle_events (t : Ctx) (pc : Word) : (t.settle pc).events = t.events := rfl
@[simp] theorem Ctx.settle_retry (t : Ctx) (pc : Word) : (t.settle pc).retry = t.retry := rfl
@[simp] theorem Ctx.settle_park (t : Ctx) (pc : Word) : (t.settle pc).park = none := rfl
@[simp] theorem Ctx.settle_phase (t : Ctx) (pc : Word) : (t.settle pc).phase = Phase.none := rfl
@[simp] theorem Ctx.settle_replies (t : Ctx) (pc : Word) : (t.settle pc).replies = [] := rfl
@[simp] theorem Ctx.settle_partid (t : Ctx) (pc : Word) : (t.settle pc).partid = t.partid := rfl

/-! The trap registers. -/

@[simp] theorem Ctx.setTrap_state (t : Ctx) (a b c d : Word) : (t.setTrap a b c d).state = t.state := rfl
@[simp] theorem Ctx.setTrap_pc (t : Ctx) (a b c d : Word) : (t.setTrap a b c d).pc = t.pc := rfl
@[simp] theorem Ctx.setTrap_g (t : Ctx) (a b c d : Word) : (t.setTrap a b c d).g = t.g := rfl
@[simp] theorem Ctx.setTrap_f (t : Ctx) (a b c d : Word) : (t.setTrap a b c d).f = t.f := rfl
@[simp] theorem Ctx.setTrap_p (t : Ctx) (a b c d : Word) : (t.setTrap a b c d).p = t.p := rfl
@[simp] theorem Ctx.setTrap_v (t : Ctx) (a b c d : Word) : (t.setTrap a b c d).v = t.v := rfl
@[simp] theorem Ctx.setTrap_q (t : Ctx) (a b c d : Word) : (t.setTrap a b c d).q = t.q := rfl
@[simp] theorem Ctx.setTrap_level (t : Ctx) (a b c d : Word) : (t.setTrap a b c d).level = t.level := rfl
@[simp] theorem Ctx.setTrap_tcause (t : Ctx) (a b c d : Word) : (t.setTrap a b c d).tcause = a := rfl
@[simp] theorem Ctx.setTrap_tval (t : Ctx) (a b c d : Word) : (t.setTrap a b c d).tval = b := rfl
@[simp] theorem Ctx.setTrap_tepc (t : Ctx) (a b c d : Word) : (t.setTrap a b c d).tepc = c := rfl
@[simp] theorem Ctx.setTrap_tvec (t : Ctx) (a b c d : Word) : (t.setTrap a b c d).tvec = t.tvec := rfl
@[simp] theorem Ctx.setTrap_tstat (t : Ctx) (a b c d : Word) : (t.setTrap a b c d).tstat = d := rfl
@[simp] theorem Ctx.setTrap_tdeleg (t : Ctx) (a b c d : Word) : (t.setTrap a b c d).tdeleg = t.tdeleg := rfl
@[simp] theorem Ctx.setTrap_fpctl (t : Ctx) (a b c d : Word) : (t.setTrap a b c d).fpctl = t.fpctl := rfl
@[simp] theorem Ctx.setTrap_fpflags (t : Ctx) (a b c d : Word) : (t.setTrap a b c d).fpflags = t.fpflags := rfl
@[simp] theorem Ctx.setTrap_sigmin (t : Ctx) (a b c d : Word) : (t.setTrap a b c d).sigmin = t.sigmin := rfl
@[simp] theorem Ctx.setTrap_siglanes (t : Ctx) (a b c d : Word) : (t.setTrap a b c d).siglanes = t.siglanes := rfl
@[simp] theorem Ctx.setTrap_xferid (t : Ctx) (a b c d : Word) : (t.setTrap a b c d).xferid = t.xferid := rfl
@[simp] theorem Ctx.setTrap_xferstat (t : Ctx) (a b c d : Word) : (t.setTrap a b c d).xferstat = t.xferstat := rfl
@[simp] theorem Ctx.setTrap_dbgctl (t : Ctx) (a b c d : Word) : (t.setTrap a b c d).dbgctl = t.dbgctl := rfl
@[simp] theorem Ctx.setTrap_hcause (t : Ctx) (a b c d : Word) : (t.setTrap a b c d).hcause = t.hcause := rfl
@[simp] theorem Ctx.setTrap_hval (t : Ctx) (a b c d : Word) : (t.setTrap a b c d).hval = t.hval := rfl
@[simp] theorem Ctx.setTrap_hepc (t : Ctx) (a b c d : Word) : (t.setTrap a b c d).hepc = t.hepc := rfl
@[simp] theorem Ctx.setTrap_hstat (t : Ctx) (a b c d : Word) : (t.setTrap a b c d).hstat = t.hstat := rfl
@[simp] theorem Ctx.setTrap_ushadow (t : Ctx) (a b c d : Word) : (t.setTrap a b c d).ushadow = t.ushadow := rfl
@[simp] theorem Ctx.setTrap_sshadow (t : Ctx) (a b c d : Word) : (t.setTrap a b c d).sshadow = t.sshadow := rfl
@[simp] theorem Ctx.setTrap_exitWord (t : Ctx) (a b c d : Word) : (t.setTrap a b c d).exitWord = t.exitWord := rfl
@[simp] theorem Ctx.setTrap_rfcount (t : Ctx) (a b c d : Word) : (t.setTrap a b c d).rfcount = t.rfcount := rfl
@[simp] theorem Ctx.setTrap_refCount (t : Ctx) (a b c d : Word) : (t.setTrap a b c d).refCount = t.refCount := rfl
@[simp] theorem Ctx.setTrap_refCode (t : Ctx) (a b c d : Word) : (t.setTrap a b c d).refCode = t.refCode := rfl
@[simp] theorem Ctx.setTrap_events (t : Ctx) (a b c d : Word) : (t.setTrap a b c d).events = t.events := rfl
@[simp] theorem Ctx.setTrap_retry (t : Ctx) (a b c d : Word) : (t.setTrap a b c d).retry = t.retry := rfl
@[simp] theorem Ctx.setTrap_park (t : Ctx) (a b c d : Word) : (t.setTrap a b c d).park = t.park := rfl
@[simp] theorem Ctx.setTrap_phase (t : Ctx) (a b c d : Word) : (t.setTrap a b c d).phase = t.phase := rfl
@[simp] theorem Ctx.setTrap_replies (t : Ctx) (a b c d : Word) : (t.setTrap a b c d).replies = t.replies := rfl
@[simp] theorem Ctx.setTrap_partid (t : Ctx) (a b c d : Word) : (t.setTrap a b c d).partid = t.partid := rfl

/-! The copies of the trap registers. -/

@[simp] theorem Ctx.saveH_state (t : Ctx) : t.saveH.state = t.state := rfl
@[simp] theorem Ctx.saveH_pc (t : Ctx) : t.saveH.pc = t.pc := rfl
@[simp] theorem Ctx.saveH_g (t : Ctx) : t.saveH.g = t.g := rfl
@[simp] theorem Ctx.saveH_f (t : Ctx) : t.saveH.f = t.f := rfl
@[simp] theorem Ctx.saveH_p (t : Ctx) : t.saveH.p = t.p := rfl
@[simp] theorem Ctx.saveH_v (t : Ctx) : t.saveH.v = t.v := rfl
@[simp] theorem Ctx.saveH_q (t : Ctx) : t.saveH.q = t.q := rfl
@[simp] theorem Ctx.saveH_level (t : Ctx) : t.saveH.level = t.level := rfl
@[simp] theorem Ctx.saveH_tcause (t : Ctx) : t.saveH.tcause = t.tcause := rfl
@[simp] theorem Ctx.saveH_tval (t : Ctx) : t.saveH.tval = t.tval := rfl
@[simp] theorem Ctx.saveH_tepc (t : Ctx) : t.saveH.tepc = t.tepc := rfl
@[simp] theorem Ctx.saveH_tvec (t : Ctx) : t.saveH.tvec = t.tvec := rfl
@[simp] theorem Ctx.saveH_tstat (t : Ctx) : t.saveH.tstat = t.tstat := rfl
@[simp] theorem Ctx.saveH_tdeleg (t : Ctx) : t.saveH.tdeleg = t.tdeleg := rfl
@[simp] theorem Ctx.saveH_fpctl (t : Ctx) : t.saveH.fpctl = t.fpctl := rfl
@[simp] theorem Ctx.saveH_fpflags (t : Ctx) : t.saveH.fpflags = t.fpflags := rfl
@[simp] theorem Ctx.saveH_sigmin (t : Ctx) : t.saveH.sigmin = t.sigmin := rfl
@[simp] theorem Ctx.saveH_siglanes (t : Ctx) : t.saveH.siglanes = t.siglanes := rfl
@[simp] theorem Ctx.saveH_xferid (t : Ctx) : t.saveH.xferid = t.xferid := rfl
@[simp] theorem Ctx.saveH_xferstat (t : Ctx) : t.saveH.xferstat = t.xferstat := rfl
@[simp] theorem Ctx.saveH_dbgctl (t : Ctx) : t.saveH.dbgctl = t.dbgctl := rfl
@[simp] theorem Ctx.saveH_hcause (t : Ctx) : t.saveH.hcause = t.tcause := rfl
@[simp] theorem Ctx.saveH_hval (t : Ctx) : t.saveH.hval = t.tval := rfl
@[simp] theorem Ctx.saveH_hepc (t : Ctx) : t.saveH.hepc = t.tepc := rfl
@[simp] theorem Ctx.saveH_hstat (t : Ctx) : t.saveH.hstat = t.tstat := rfl
@[simp] theorem Ctx.saveH_ushadow (t : Ctx) : t.saveH.ushadow = t.ushadow := rfl
@[simp] theorem Ctx.saveH_sshadow (t : Ctx) : t.saveH.sshadow = t.sshadow := rfl
@[simp] theorem Ctx.saveH_exitWord (t : Ctx) : t.saveH.exitWord = t.exitWord := rfl
@[simp] theorem Ctx.saveH_rfcount (t : Ctx) : t.saveH.rfcount = t.rfcount := rfl
@[simp] theorem Ctx.saveH_refCount (t : Ctx) : t.saveH.refCount = t.refCount := rfl
@[simp] theorem Ctx.saveH_refCode (t : Ctx) : t.saveH.refCode = t.refCode := rfl
@[simp] theorem Ctx.saveH_events (t : Ctx) : t.saveH.events = t.events := rfl
@[simp] theorem Ctx.saveH_retry (t : Ctx) : t.saveH.retry = t.retry := rfl
@[simp] theorem Ctx.saveH_park (t : Ctx) : t.saveH.park = t.park := rfl
@[simp] theorem Ctx.saveH_phase (t : Ctx) : t.saveH.phase = t.phase := rfl
@[simp] theorem Ctx.saveH_replies (t : Ctx) : t.saveH.replies = t.replies := rfl
@[simp] theorem Ctx.saveH_partid (t : Ctx) : t.saveH.partid = t.partid := rfl

/-! The counter of free values. -/

@[simp] theorem State.freeNext_agenda (s : State) : s.freeNext.agenda = s.agenda := rfl
@[simp] theorem State.freeNext_freeCtr (s : State) : s.freeNext.freeCtr = s.freeCtr + 1 := rfl
@[simp] theorem State.freeNext_cur (s : State) : s.freeNext.cur = s.cur := rfl
@[simp] theorem State.freeNext_msgCtr (s : State) : s.freeNext.msgCtr = s.msgCtr := rfl
@[simp] theorem State.freeNext_net (s : State) : s.freeNext.net = s.net := rfl
@[simp] theorem State.freeNext_outbox (s : State) : s.freeNext.outbox = s.outbox := rfl
@[simp] theorem State.freeNext_executor (s : State) : s.freeNext.executor = s.executor := rfl
@[simp] theorem State.freeNext_answers (s : State) : s.freeNext.answers = s.answers := rfl
@[simp] theorem State.freeNext_gtime (s : State) : s.freeNext.gtime = s.gtime := rfl
@[simp] theorem State.freeNext_pkgSync (s : State) : s.freeNext.pkgSync = s.pkgSync := rfl
@[simp] theorem State.freeNext_domSync (s : State) : s.freeNext.domSync = s.domSync := rfl
@[simp] theorem State.freeNext_devnum (s : State) : s.freeNext.devnum = s.devnum := rfl
@[simp] theorem State.freeNext_portsTrained (s : State) : s.freeNext.portsTrained = s.portsTrained := rfl
@[simp] theorem State.freeNext_booted (s : State) : s.freeNext.booted = s.booted := rfl
@[simp] theorem State.freeNext_recovery (s : State) : s.freeNext.recovery = s.recovery := rfl
@[simp] theorem State.freeNext_fenceSc (s : State) : s.freeNext.fenceSc = s.fenceSc := rfl
@[simp] theorem State.freeNext_modaddr (s : State) : s.freeNext.modaddr = s.modaddr := rfl
@[simp] theorem State.freeNext_modctl (s : State) : s.freeNext.modctl = s.modctl := rfl
@[simp] theorem State.freeNext_modstat (s : State) : s.freeNext.modstat = s.modstat := rfl
@[simp] theorem State.freeNext_modMeas (s : State) : s.freeNext.modMeas = s.modMeas := rfl
@[simp] theorem State.freeNext_pwrcap (s : State) : s.freeNext.pwrcap = s.pwrcap := rfl
@[simp] theorem State.freeNext_devnumset (s : State) : s.freeNext.devnumset = s.devnumset := rfl
@[simp] theorem State.freeNext_rbsel (s : State) : s.freeNext.rbsel = s.rbsel := rfl
@[simp] theorem State.freeNext_duty (s : State) : s.freeNext.duty = s.duty := rfl
@[simp] theorem State.freeNext_fwMem (s : State) : s.freeNext.fwMem = s.fwMem := rfl
@[simp] theorem State.freeNext_doe (s : State) : s.freeNext.doe = s.doe := rfl
@[simp] theorem State.freeNext_linkRetries (s : State) : s.freeNext.linkRetries = s.linkRetries := rfl
@[simp] theorem State.freeNext_linkFailed (s : State) : s.freeNext.linkFailed = s.linkFailed := rfl
@[simp] theorem State.freeNext_hostMem (s : State) : s.freeNext.hostMem = s.hostMem := rfl
@[simp] theorem State.freeNext_hostReply (s : State) : s.freeNext.hostReply = s.hostReply := rfl
@[simp] theorem State.freeNext_hostRest (s : State) : s.freeNext.hostRest = s.hostRest := rfl
@[simp] theorem State.freeNext_msix (s : State) : s.freeNext.msix = s.msix := rfl
@[simp] theorem State.freeNext_groups (s : State) : s.freeNext.groups = s.groups := rfl
@[simp] theorem State.freeNext_collectives (s : State) : s.freeNext.collectives = s.collectives := rfl
@[simp] theorem State.freeNext_partials (s : State) : s.freeNext.partials = s.partials := rfl
@[simp] theorem State.freeNext_memStacks (s : State) : s.freeNext.memStacks = s.memStacks := rfl
@[simp] theorem State.freeNext_slices (s : State) : s.freeNext.slices = s.slices := rfl
@[simp] theorem State.freeNext_dies (s : State) : s.freeNext.dies = s.dies := rfl
@[simp] theorem State.freeNext_parts (s : State) : s.freeNext.parts = s.parts := rfl
@[simp] theorem State.freeNext_cores (s : State) : s.freeNext.cores = s.cores := rfl

end Sys2Proof.Machine
end

