-- ==== Sys2Proof/Laws/Readers.lean ====
section
/-!
SUPPORT. Tables by number, and what the readers of Ops.lean give after an update.
-/

namespace Sys2Proof.Machine

/-! ### Tables -/

@[simp] theorem tget_tput_same {α : Type} (d : α) (t : Table α) (k : Nat) (x : α) : tget d (tput t k x) k = x := by
  induction t with
  | nil => simp [tput, tget]
  | cons e t ih =>
    obtain ⟨j, y⟩ := e
    simp only [tput]
    split
    · simp [tget]
    · split
      · simp [tget]
      · simp [tget, *]

theorem tget_tput_ne {α : Type} (d : α) (t : Table α) (k j : Nat) (x : α) (h : j ≠ k) : tget d (tput t k x) j = tget d t j := by
  induction t with
  | nil => simp [tput, tget, h.symm]
  | cons e t ih =>
    obtain ⟨i, y⟩ := e
    simp only [tput]
    split
    · next hi => subst hi; simp [tget, h.symm]
    · split
      · simp [tget, h.symm]
      · simp [tget, ih]

theorem tget_tput {α : Type} (d : α) (t : Table α) (k j : Nat) (x : α) :
    tget d (tput t k x) j = if j = k then x else tget d t j := by
  split
  · next h => subst h; simp
  · next h => exact tget_tput_ne d t k j x h

/-! ### Cores and contexts after an update of one -/

@[simp] theorem State.core_setCore_same (s : State) (c : Nat) (k : Core) : (s.setCore c k).core c = k := by
  simp [State.core, State.setCore]

theorem State.core_setCore_ne (s : State) (c d : Nat) (k : Core) (h : d ≠ c) : (s.setCore c k).core d = s.core d := by
  simp [State.core, State.setCore, tget_tput_ne, h]

@[simp] theorem State.core_modCore_same (s : State) (c : Nat) (f : Core → Core) : (s.modCore c f).core c = f (s.core c) := by
  simp [State.modCore]

theorem State.core_modCore_ne (s : State) (c d : Nat) (f : Core → Core) (h : d ≠ c) : (s.modCore c f).core d = s.core d := by
  simp [State.modCore, State.core_setCore_ne, h]

@[simp] theorem Core.ctx_setCtx_same (k : Core) (x : Nat) (t : Ctx) : (k.setCtx x t).ctx x = t := by
  simp [Core.ctx, Core.setCtx]

theorem Core.ctx_setCtx_ne (k : Core) (x y : Nat) (t : Ctx) (h : y ≠ x) : (k.setCtx x t).ctx y = k.ctx y := by
  simp [Core.ctx, Core.setCtx, tget_tput_ne, h]

@[simp] theorem State.core_setCtx_same (s : State) (c x : Nat) (t : Ctx) : (s.setCtx c x t).core c = (s.core c).setCtx x t := by
  simp [State.setCtx]

theorem State.core_setCtx_ne (s : State) (c x d : Nat) (t : Ctx) (h : d ≠ c) : (s.setCtx c x t).core d = s.core d := by
  simp [State.setCtx, State.core_modCore_ne, h]

@[simp] theorem State.ctx_setCtx_same (s : State) (c x : Nat) (t : Ctx) : (s.setCtx c x t).ctx c x = t := by
  simp [State.ctx]

theorem State.ctx_setCtx_ne (s : State) (c x d y : Nat) (t : Ctx) (h : d ≠ c ∨ y ≠ x) : (s.setCtx c x t).ctx d y = s.ctx d y := by
  by_cases hd : d = c
  · subst hd
    have hy : y ≠ x := by simpa using h
    simp [State.ctx, Core.ctx_setCtx_ne, hy]
  · simp [State.ctx, State.core_setCtx_ne, hd]

@[simp] theorem State.core_modCtx_same (s : State) (c x : Nat) (f : Ctx → Ctx) :
    (s.modCtx c x f).core c = (s.core c).setCtx x (f (s.ctx c x)) := by
  simp [State.modCtx]

theorem State.core_modCtx_ne (s : State) (c x d : Nat) (f : Ctx → Ctx) (h : d ≠ c) : (s.modCtx c x f).core d = s.core d := by
  simp [State.modCtx, State.core_setCtx_ne, h]

@[simp] theorem State.ctx_modCtx_same (s : State) (c x : Nat) (f : Ctx → Ctx) : (s.modCtx c x f).ctx c x = f (s.ctx c x) := by
  simp [State.modCtx]

theorem State.ctx_modCtx_ne (s : State) (c x d y : Nat) (f : Ctx → Ctx) (h : d ≠ c ∨ y ≠ x) :
    (s.modCtx c x f).ctx d y = s.ctx d y := by
  simp [State.modCtx, State.ctx_setCtx_ne, h]

@[simp] theorem State.me_modMe (s : State) (f : Ctx → Ctx) : (s.modMe f).me = f s.me := by
  simp [State.me, State.modMe]

@[simp] theorem State.myCore_modMe (s : State) (f : Ctx → Ctx) : (s.modMe f).myCore = s.myCore.setCtx s.cur.2 (f s.me) := by
  simp [State.myCore, State.modMe, State.me]

@[simp] theorem State.myCore_modMyCore (s : State) (f : Core → Core) : (s.modMyCore f).myCore = f s.myCore := by
  simp [State.myCore, State.modMyCore]

theorem State.core_modMe_ne (s : State) (f : Ctx → Ctx) (c : Nat) (h : c ≠ s.cur.1) : (s.modMe f).core c = s.core c := by
  simp [State.modMe, State.core_modCtx_ne, h]

theorem State.ctx_modMe_ne (s : State) (f : Ctx → Ctx) (c x : Nat) (h : c ≠ s.cur.1 ∨ x ≠ s.cur.2) :
    (s.modMe f).ctx c x = s.ctx c x := by
  simp [State.modMe, State.ctx_modCtx_ne, h]

theorem State.core_modMyCore_ne (s : State) (f : Core → Core) (c : Nat) (h : c ≠ s.cur.1) : (s.modMyCore f).core c = s.core c := by
  simp [State.modMyCore, State.core_modCore_ne, h]

/-! ### An update of the same place twice -/

@[simp] theorem tput_tput {α : Type} (t : Table α) (k : Nat) (x y : α) : tput (tput t k x) k y = tput t k y := by
  induction t with
  | nil => simp [tput]
  | cons e t ih =>
    obtain ⟨j, z⟩ := e
    simp only [tput]
    by_cases hj : j = k
    · simp [hj, tput]
    · by_cases hx : k < j
      · simp [hj, hx, tput]
      · simp [hj, hx, tput, ih]

@[simp] theorem Core.setCtx_setCtx (k : Core) (x : Nat) (a b : Ctx) : (k.setCtx x a).setCtx x b = k.setCtx x b := by
  simp [Core.setCtx]

@[simp] theorem State.setCore_setCore (s : State) (c : Nat) (a b : Core) : (s.setCore c a).setCore c b = s.setCore c b := by
  simp [State.setCore]

@[simp] theorem State.modCore_modCore (s : State) (c : Nat) (f g : Core → Core) :
    (s.modCore c f).modCore c g = s.modCore c (fun k => g (f k)) := by
  simp [State.modCore]

@[simp] theorem State.modCtx_modCtx (s : State) (c x : Nat) (f g : Ctx → Ctx) :
    (s.modCtx c x f).modCtx c x g = s.modCtx c x (fun t => g (f t)) := by
  simp [State.modCtx, State.setCtx, State.modCore, State.ctx]

@[simp] theorem State.modMe_modMe (s : State) (f g : Ctx → Ctx) : (s.modMe f).modMe g = s.modMe (fun t => g (f t)) := by
  show (s.modCtx s.cur.1 s.cur.2 f).modCtx s.cur.1 s.cur.2 g = _
  rw [State.modCtx_modCtx]
  rfl

@[simp] theorem State.modMyCore_modMyCore (s : State) (f g : Core → Core) :
    (s.modMyCore f).modMyCore g = s.modMyCore (fun k => g (f k)) := by
  show (s.modCore s.cur.1 f).modCore s.cur.1 g = _
  rw [State.modCore_modCore]
  rfl

/-! ### Partitions, stacks, slices and dies after an update of one -/


@[simp] theorem State.part_setPart_same (s : State) (n : Nat) (v : Part) : (s.setPart n v).part n = v := by
  simp [State.part, State.setPart]

theorem State.part_setPart_ne (s : State) (n m : Nat) (v : Part) (h : m ≠ n) : (s.setPart n v).part m = s.part m := by
  simp [State.part, State.setPart, tget_tput_ne, h]

@[simp] theorem State.part_modPart_same (s : State) (n : Nat) (f : Part → Part) : (s.modPart n f).part n = f (s.part n) := by
  simp [State.modPart]

theorem State.part_modPart_ne (s : State) (n m : Nat) (f : Part → Part) (h : m ≠ n) : (s.modPart n f).part m = s.part m := by
  simp [State.modPart, State.part_setPart_ne, h]


@[simp] theorem State.stack_setStack_same (s : State) (n : Nat) (v : Stack) : (s.setStack n v).stack n = v := by
  simp [State.stack, State.setStack]

theorem State.stack_setStack_ne (s : State) (n m : Nat) (v : Stack) (h : m ≠ n) : (s.setStack n v).stack m = s.stack m := by
  simp [State.stack, State.setStack, tget_tput_ne, h]

@[simp] theorem State.stack_modStack_same (s : State) (n : Nat) (f : Stack → Stack) : (s.modStack n f).stack n = f (s.stack n) := by
  simp [State.modStack]

theorem State.stack_modStack_ne (s : State) (n m : Nat) (f : Stack → Stack) (h : m ≠ n) : (s.modStack n f).stack m = s.stack m := by
  simp [State.modStack, State.stack_setStack_ne, h]


@[simp] theorem State.slice_setSlice_same (s : State) (n : Nat) (v : Slice) : (s.setSlice n v).slice n = v := by
  simp [State.slice, State.setSlice]

theorem State.slice_setSlice_ne (s : State) (n m : Nat) (v : Slice) (h : m ≠ n) : (s.setSlice n v).slice m = s.slice m := by
  simp [State.slice, State.setSlice, tget_tput_ne, h]

@[simp] theorem State.slice_modSlice_same (s : State) (n : Nat) (f : Slice → Slice) : (s.modSlice n f).slice n = f (s.slice n) := by
  simp [State.modSlice]

theorem State.slice_modSlice_ne (s : State) (n m : Nat) (f : Slice → Slice) (h : m ≠ n) : (s.modSlice n f).slice m = s.slice m := by
  simp [State.modSlice, State.slice_setSlice_ne, h]


@[simp] theorem State.die_setDie_same (s : State) (n : Nat) (v : Die) : (s.setDie n v).die n = v := by
  simp [State.die, State.setDie]

theorem State.die_setDie_ne (s : State) (n m : Nat) (v : Die) (h : m ≠ n) : (s.setDie n v).die m = s.die m := by
  simp [State.die, State.setDie, tget_tput_ne, h]

@[simp] theorem State.die_modDie_same (s : State) (n : Nat) (f : Die → Die) : (s.modDie n f).die n = f (s.die n) := by
  simp [State.modDie]

theorem State.die_modDie_ne (s : State) (n m : Nat) (f : Die → Die) (h : m ≠ n) : (s.modDie n f).die m = s.die m := by
  simp [State.modDie, State.die_setDie_ne, h]


/-! ### Readers of what an update does not touch -/

@[simp] theorem State.part_setCore (s : State) (c : Nat) (k : Core) (m : Nat) : (s.setCore c k).part m = s.part m := rfl
@[simp] theorem State.stack_setCore (s : State) (c : Nat) (k : Core) (m : Nat) : (s.setCore c k).stack m = s.stack m := rfl
@[simp] theorem State.slice_setCore (s : State) (c : Nat) (k : Core) (m : Nat) : (s.setCore c k).slice m = s.slice m := rfl
@[simp] theorem State.die_setCore (s : State) (c : Nat) (k : Core) (m : Nat) : (s.setCore c k).die m = s.die m := rfl
@[simp] theorem State.part_modCore (s : State) (c : Nat) (h : Core → Core) (m : Nat) : (s.modCore c h).part m = s.part m := rfl
@[simp] theorem State.stack_modCore (s : State) (c : Nat) (h : Core → Core) (m : Nat) : (s.modCore c h).stack m = s.stack m := rfl
@[simp] theorem State.slice_modCore (s : State) (c : Nat) (h : Core → Core) (m : Nat) : (s.modCore c h).slice m = s.slice m := rfl
@[simp] theorem State.die_modCore (s : State) (c : Nat) (h : Core → Core) (m : Nat) : (s.modCore c h).die m = s.die m := rfl
@[simp] theorem State.part_setCtx (s : State) (c x : Nat) (t : Ctx) (m : Nat) : (s.setCtx c x t).part m = s.part m := rfl
@[simp] theorem State.stack_setCtx (s : State) (c x : Nat) (t : Ctx) (m : Nat) : (s.setCtx c x t).stack m = s.stack m := rfl
@[simp] theorem State.slice_setCtx (s : State) (c x : Nat) (t : Ctx) (m : Nat) : (s.setCtx c x t).slice m = s.slice m := rfl
@[simp] theorem State.die_setCtx (s : State) (c x : Nat) (t : Ctx) (m : Nat) : (s.setCtx c x t).die m = s.die m := rfl
@[simp] theorem State.part_modCtx (s : State) (c x : Nat) (h : Ctx → Ctx) (m : Nat) : (s.modCtx c x h).part m = s.part m := rfl
@[simp] theorem State.stack_modCtx (s : State) (c x : Nat) (h : Ctx → Ctx) (m : Nat) : (s.modCtx c x h).stack m = s.stack m := rfl
@[simp] theorem State.slice_modCtx (s : State) (c x : Nat) (h : Ctx → Ctx) (m : Nat) : (s.modCtx c x h).slice m = s.slice m := rfl
@[simp] theorem State.die_modCtx (s : State) (c x : Nat) (h : Ctx → Ctx) (m : Nat) : (s.modCtx c x h).die m = s.die m := rfl
@[simp] theorem State.part_modMe (s : State) (h : Ctx → Ctx) (m : Nat) : (s.modMe h).part m = s.part m := rfl
@[simp] theorem State.stack_modMe (s : State) (h : Ctx → Ctx) (m : Nat) : (s.modMe h).stack m = s.stack m := rfl
@[simp] theorem State.slice_modMe (s : State) (h : Ctx → Ctx) (m : Nat) : (s.modMe h).slice m = s.slice m := rfl
@[simp] theorem State.die_modMe (s : State) (h : Ctx → Ctx) (m : Nat) : (s.modMe h).die m = s.die m := rfl
@[simp] theorem State.part_modMyCore (s : State) (h : Core → Core) (m : Nat) : (s.modMyCore h).part m = s.part m := rfl
@[simp] theorem State.stack_modMyCore (s : State) (h : Core → Core) (m : Nat) : (s.modMyCore h).stack m = s.stack m := rfl
@[simp] theorem State.slice_modMyCore (s : State) (h : Core → Core) (m : Nat) : (s.modMyCore h).slice m = s.slice m := rfl
@[simp] theorem State.die_modMyCore (s : State) (h : Core → Core) (m : Nat) : (s.modMyCore h).die m = s.die m := rfl
@[simp] theorem State.core_setPart (s : State) (n : Nat) (v : Part) (d : Nat) : (s.setPart n v).core d = s.core d := rfl
@[simp] theorem State.ctx_setPart (s : State) (n : Nat) (v : Part) (d y : Nat) : (s.setPart n v).ctx d y = s.ctx d y := rfl
@[simp] theorem State.me_setPart (s : State) (n : Nat) (v : Part) : (s.setPart n v).me = s.me := rfl
@[simp] theorem State.myCore_setPart (s : State) (n : Nat) (v : Part) : (s.setPart n v).myCore = s.myCore := rfl
@[simp] theorem State.gval_setPart (s : State) (i : Nat) (v : Part) (n : Nat) : (s.setPart i v).gval n = s.gval n := rfl
@[simp] theorem State.fval_setPart (s : State) (n : Nat) (v : Part) (r : FReg) : (s.setPart n v).fval r = s.fval r := rfl
@[simp] theorem State.p_setPart (s : State) (n : Nat) (v : Part) (r : PReg) : (s.setPart n v).p r = s.p r := rfl
@[simp] theorem State.v_setPart (s : State) (n : Nat) (v : Part) (r : VReg) : (s.setPart n v).v r = s.v r := rfl
@[simp] theorem State.q_setPart (s : State) (n : Nat) (v : Part) (r : QReg) : (s.setPart n v).q r = s.q r := rfl
@[simp] theorem State.g_setPart (s : State) (n : Nat) (v : Part) (r : GReg) : (s.setPart n v).g r = s.g r := rfl
@[simp] theorem State.stack_setPart (s : State) (n : Nat) (v : Part) (m : Nat) : (s.setPart n v).stack m = s.stack m := rfl
@[simp] theorem State.slice_setPart (s : State) (n : Nat) (v : Part) (m : Nat) : (s.setPart n v).slice m = s.slice m := rfl
@[simp] theorem State.die_setPart (s : State) (n : Nat) (v : Part) (m : Nat) : (s.setPart n v).die m = s.die m := rfl
@[simp] theorem State.core_modPart (s : State) (n : Nat) (h : Part → Part) (d : Nat) : (s.modPart n h).core d = s.core d := rfl
@[simp] theorem State.ctx_modPart (s : State) (n : Nat) (h : Part → Part) (d y : Nat) : (s.modPart n h).ctx d y = s.ctx d y := rfl
@[simp] theorem State.me_modPart (s : State) (n : Nat) (h : Part → Part) : (s.modPart n h).me = s.me := rfl
@[simp] theorem State.myCore_modPart (s : State) (n : Nat) (h : Part → Part) : (s.modPart n h).myCore = s.myCore := rfl
@[simp] theorem State.gval_modPart (s : State) (i : Nat) (h : Part → Part) (n : Nat) : (s.modPart i h).gval n = s.gval n := rfl
@[simp] theorem State.fval_modPart (s : State) (n : Nat) (h : Part → Part) (r : FReg) : (s.modPart n h).fval r = s.fval r := rfl
@[simp] theorem State.p_modPart (s : State) (n : Nat) (h : Part → Part) (r : PReg) : (s.modPart n h).p r = s.p r := rfl
@[simp] theorem State.v_modPart (s : State) (n : Nat) (h : Part → Part) (r : VReg) : (s.modPart n h).v r = s.v r := rfl
@[simp] theorem State.q_modPart (s : State) (n : Nat) (h : Part → Part) (r : QReg) : (s.modPart n h).q r = s.q r := rfl
@[simp] theorem State.g_modPart (s : State) (n : Nat) (h : Part → Part) (r : GReg) : (s.modPart n h).g r = s.g r := rfl
@[simp] theorem State.stack_modPart (s : State) (n : Nat) (h : Part → Part) (m : Nat) : (s.modPart n h).stack m = s.stack m := rfl
@[simp] theorem State.slice_modPart (s : State) (n : Nat) (h : Part → Part) (m : Nat) : (s.modPart n h).slice m = s.slice m := rfl
@[simp] theorem State.die_modPart (s : State) (n : Nat) (h : Part → Part) (m : Nat) : (s.modPart n h).die m = s.die m := rfl
@[simp] theorem State.core_setStack (s : State) (n : Nat) (v : Stack) (d : Nat) : (s.setStack n v).core d = s.core d := rfl
@[simp] theorem State.ctx_setStack (s : State) (n : Nat) (v : Stack) (d y : Nat) : (s.setStack n v).ctx d y = s.ctx d y := rfl
@[simp] theorem State.me_setStack (s : State) (n : Nat) (v : Stack) : (s.setStack n v).me = s.me := rfl
@[simp] theorem State.myCore_setStack (s : State) (n : Nat) (v : Stack) : (s.setStack n v).myCore = s.myCore := rfl
@[simp] theorem State.gval_setStack (s : State) (i : Nat) (v : Stack) (n : Nat) : (s.setStack i v).gval n = s.gval n := rfl
@[simp] theorem State.fval_setStack (s : State) (n : Nat) (v : Stack) (r : FReg) : (s.setStack n v).fval r = s.fval r := rfl
@[simp] theorem State.p_setStack (s : State) (n : Nat) (v : Stack) (r : PReg) : (s.setStack n v).p r = s.p r := rfl
@[simp] theorem State.v_setStack (s : State) (n : Nat) (v : Stack) (r : VReg) : (s.setStack n v).v r = s.v r := rfl
@[simp] theorem State.q_setStack (s : State) (n : Nat) (v : Stack) (r : QReg) : (s.setStack n v).q r = s.q r := rfl
@[simp] theorem State.g_setStack (s : State) (n : Nat) (v : Stack) (r : GReg) : (s.setStack n v).g r = s.g r := rfl
@[simp] theorem State.part_setStack (s : State) (n : Nat) (v : Stack) (m : Nat) : (s.setStack n v).part m = s.part m := rfl
@[simp] theorem State.slice_setStack (s : State) (n : Nat) (v : Stack) (m : Nat) : (s.setStack n v).slice m = s.slice m := rfl
@[simp] theorem State.die_setStack (s : State) (n : Nat) (v : Stack) (m : Nat) : (s.setStack n v).die m = s.die m := rfl
@[simp] theorem State.core_modStack (s : State) (n : Nat) (h : Stack → Stack) (d : Nat) : (s.modStack n h).core d = s.core d := rfl
@[simp] theorem State.ctx_modStack (s : State) (n : Nat) (h : Stack → Stack) (d y : Nat) : (s.modStack n h).ctx d y = s.ctx d y := rfl
@[simp] theorem State.me_modStack (s : State) (n : Nat) (h : Stack → Stack) : (s.modStack n h).me = s.me := rfl
@[simp] theorem State.myCore_modStack (s : State) (n : Nat) (h : Stack → Stack) : (s.modStack n h).myCore = s.myCore := rfl
@[simp] theorem State.gval_modStack (s : State) (i : Nat) (h : Stack → Stack) (n : Nat) : (s.modStack i h).gval n = s.gval n := rfl
@[simp] theorem State.fval_modStack (s : State) (n : Nat) (h : Stack → Stack) (r : FReg) : (s.modStack n h).fval r = s.fval r := rfl
@[simp] theorem State.p_modStack (s : State) (n : Nat) (h : Stack → Stack) (r : PReg) : (s.modStack n h).p r = s.p r := rfl
@[simp] theorem State.v_modStack (s : State) (n : Nat) (h : Stack → Stack) (r : VReg) : (s.modStack n h).v r = s.v r := rfl
@[simp] theorem State.q_modStack (s : State) (n : Nat) (h : Stack → Stack) (r : QReg) : (s.modStack n h).q r = s.q r := rfl
@[simp] theorem State.g_modStack (s : State) (n : Nat) (h : Stack → Stack) (r : GReg) : (s.modStack n h).g r = s.g r := rfl
@[simp] theorem State.part_modStack (s : State) (n : Nat) (h : Stack → Stack) (m : Nat) : (s.modStack n h).part m = s.part m := rfl
@[simp] theorem State.slice_modStack (s : State) (n : Nat) (h : Stack → Stack) (m : Nat) : (s.modStack n h).slice m = s.slice m := rfl
@[simp] theorem State.die_modStack (s : State) (n : Nat) (h : Stack → Stack) (m : Nat) : (s.modStack n h).die m = s.die m := rfl
@[simp] theorem State.core_setSlice (s : State) (n : Nat) (v : Slice) (d : Nat) : (s.setSlice n v).core d = s.core d := rfl
@[simp] theorem State.ctx_setSlice (s : State) (n : Nat) (v : Slice) (d y : Nat) : (s.setSlice n v).ctx d y = s.ctx d y := rfl
@[simp] theorem State.me_setSlice (s : State) (n : Nat) (v : Slice) : (s.setSlice n v).me = s.me := rfl
@[simp] theorem State.myCore_setSlice (s : State) (n : Nat) (v : Slice) : (s.setSlice n v).myCore = s.myCore := rfl
@[simp] theorem State.gval_setSlice (s : State) (i : Nat) (v : Slice) (n : Nat) : (s.setSlice i v).gval n = s.gval n := rfl
@[simp] theorem State.fval_setSlice (s : State) (n : Nat) (v : Slice) (r : FReg) : (s.setSlice n v).fval r = s.fval r := rfl
@[simp] theorem State.p_setSlice (s : State) (n : Nat) (v : Slice) (r : PReg) : (s.setSlice n v).p r = s.p r := rfl
@[simp] theorem State.v_setSlice (s : State) (n : Nat) (v : Slice) (r : VReg) : (s.setSlice n v).v r = s.v r := rfl
@[simp] theorem State.q_setSlice (s : State) (n : Nat) (v : Slice) (r : QReg) : (s.setSlice n v).q r = s.q r := rfl
@[simp] theorem State.g_setSlice (s : State) (n : Nat) (v : Slice) (r : GReg) : (s.setSlice n v).g r = s.g r := rfl
@[simp] theorem State.part_setSlice (s : State) (n : Nat) (v : Slice) (m : Nat) : (s.setSlice n v).part m = s.part m := rfl
@[simp] theorem State.stack_setSlice (s : State) (n : Nat) (v : Slice) (m : Nat) : (s.setSlice n v).stack m = s.stack m := rfl
@[simp] theorem State.die_setSlice (s : State) (n : Nat) (v : Slice) (m : Nat) : (s.setSlice n v).die m = s.die m := rfl
@[simp] theorem State.core_modSlice (s : State) (n : Nat) (h : Slice → Slice) (d : Nat) : (s.modSlice n h).core d = s.core d := rfl
@[simp] theorem State.ctx_modSlice (s : State) (n : Nat) (h : Slice → Slice) (d y : Nat) : (s.modSlice n h).ctx d y = s.ctx d y := rfl
@[simp] theorem State.me_modSlice (s : State) (n : Nat) (h : Slice → Slice) : (s.modSlice n h).me = s.me := rfl
@[simp] theorem State.myCore_modSlice (s : State) (n : Nat) (h : Slice → Slice) : (s.modSlice n h).myCore = s.myCore := rfl
@[simp] theorem State.gval_modSlice (s : State) (i : Nat) (h : Slice → Slice) (n : Nat) : (s.modSlice i h).gval n = s.gval n := rfl
@[simp] theorem State.fval_modSlice (s : State) (n : Nat) (h : Slice → Slice) (r : FReg) : (s.modSlice n h).fval r = s.fval r := rfl
@[simp] theorem State.p_modSlice (s : State) (n : Nat) (h : Slice → Slice) (r : PReg) : (s.modSlice n h).p r = s.p r := rfl
@[simp] theorem State.v_modSlice (s : State) (n : Nat) (h : Slice → Slice) (r : VReg) : (s.modSlice n h).v r = s.v r := rfl
@[simp] theorem State.q_modSlice (s : State) (n : Nat) (h : Slice → Slice) (r : QReg) : (s.modSlice n h).q r = s.q r := rfl
@[simp] theorem State.g_modSlice (s : State) (n : Nat) (h : Slice → Slice) (r : GReg) : (s.modSlice n h).g r = s.g r := rfl
@[simp] theorem State.part_modSlice (s : State) (n : Nat) (h : Slice → Slice) (m : Nat) : (s.modSlice n h).part m = s.part m := rfl
@[simp] theorem State.stack_modSlice (s : State) (n : Nat) (h : Slice → Slice) (m : Nat) : (s.modSlice n h).stack m = s.stack m := rfl
@[simp] theorem State.die_modSlice (s : State) (n : Nat) (h : Slice → Slice) (m : Nat) : (s.modSlice n h).die m = s.die m := rfl
@[simp] theorem State.core_setDie (s : State) (n : Nat) (v : Die) (d : Nat) : (s.setDie n v).core d = s.core d := rfl
@[simp] theorem State.ctx_setDie (s : State) (n : Nat) (v : Die) (d y : Nat) : (s.setDie n v).ctx d y = s.ctx d y := rfl
@[simp] theorem State.me_setDie (s : State) (n : Nat) (v : Die) : (s.setDie n v).me = s.me := rfl
@[simp] theorem State.myCore_setDie (s : State) (n : Nat) (v : Die) : (s.setDie n v).myCore = s.myCore := rfl
@[simp] theorem State.gval_setDie (s : State) (i : Nat) (v : Die) (n : Nat) : (s.setDie i v).gval n = s.gval n := rfl
@[simp] theorem State.fval_setDie (s : State) (n : Nat) (v : Die) (r : FReg) : (s.setDie n v).fval r = s.fval r := rfl
@[simp] theorem State.p_setDie (s : State) (n : Nat) (v : Die) (r : PReg) : (s.setDie n v).p r = s.p r := rfl
@[simp] theorem State.v_setDie (s : State) (n : Nat) (v : Die) (r : VReg) : (s.setDie n v).v r = s.v r := rfl
@[simp] theorem State.q_setDie (s : State) (n : Nat) (v : Die) (r : QReg) : (s.setDie n v).q r = s.q r := rfl
@[simp] theorem State.g_setDie (s : State) (n : Nat) (v : Die) (r : GReg) : (s.setDie n v).g r = s.g r := rfl
@[simp] theorem State.part_setDie (s : State) (n : Nat) (v : Die) (m : Nat) : (s.setDie n v).part m = s.part m := rfl
@[simp] theorem State.stack_setDie (s : State) (n : Nat) (v : Die) (m : Nat) : (s.setDie n v).stack m = s.stack m := rfl
@[simp] theorem State.slice_setDie (s : State) (n : Nat) (v : Die) (m : Nat) : (s.setDie n v).slice m = s.slice m := rfl
@[simp] theorem State.core_modDie (s : State) (n : Nat) (h : Die → Die) (d : Nat) : (s.modDie n h).core d = s.core d := rfl
@[simp] theorem State.ctx_modDie (s : State) (n : Nat) (h : Die → Die) (d y : Nat) : (s.modDie n h).ctx d y = s.ctx d y := rfl
@[simp] theorem State.me_modDie (s : State) (n : Nat) (h : Die → Die) : (s.modDie n h).me = s.me := rfl
@[simp] theorem State.myCore_modDie (s : State) (n : Nat) (h : Die → Die) : (s.modDie n h).myCore = s.myCore := rfl
@[simp] theorem State.gval_modDie (s : State) (i : Nat) (h : Die → Die) (n : Nat) : (s.modDie i h).gval n = s.gval n := rfl
@[simp] theorem State.fval_modDie (s : State) (n : Nat) (h : Die → Die) (r : FReg) : (s.modDie n h).fval r = s.fval r := rfl
@[simp] theorem State.p_modDie (s : State) (n : Nat) (h : Die → Die) (r : PReg) : (s.modDie n h).p r = s.p r := rfl
@[simp] theorem State.v_modDie (s : State) (n : Nat) (h : Die → Die) (r : VReg) : (s.modDie n h).v r = s.v r := rfl
@[simp] theorem State.q_modDie (s : State) (n : Nat) (h : Die → Die) (r : QReg) : (s.modDie n h).q r = s.q r := rfl
@[simp] theorem State.g_modDie (s : State) (n : Nat) (h : Die → Die) (r : GReg) : (s.modDie n h).g r = s.g r := rfl
@[simp] theorem State.part_modDie (s : State) (n : Nat) (h : Die → Die) (m : Nat) : (s.modDie n h).part m = s.part m := rfl
@[simp] theorem State.stack_modDie (s : State) (n : Nat) (h : Die → Die) (m : Nat) : (s.modDie n h).stack m = s.stack m := rfl
@[simp] theorem State.slice_modDie (s : State) (n : Nat) (h : Die → Die) (m : Nat) : (s.modDie n h).slice m = s.slice m := rfl
@[simp] theorem State.core_freeNext (s : State) (d : Nat) : (s.freeNext).core d = s.core d := rfl
@[simp] theorem State.ctx_freeNext (s : State) (d y : Nat) : (s.freeNext).ctx d y = s.ctx d y := rfl
@[simp] theorem State.me_freeNext (s : State)  : (s.freeNext).me = s.me := rfl
@[simp] theorem State.myCore_freeNext (s : State)  : (s.freeNext).myCore = s.myCore := rfl
@[simp] theorem State.gval_freeNext (s : State) (n : Nat) : (s.freeNext).gval n = s.gval n := rfl
@[simp] theorem State.fval_freeNext (s : State) (r : FReg) : (s.freeNext).fval r = s.fval r := rfl
@[simp] theorem State.p_freeNext (s : State) (r : PReg) : (s.freeNext).p r = s.p r := rfl
@[simp] theorem State.v_freeNext (s : State) (r : VReg) : (s.freeNext).v r = s.v r := rfl
@[simp] theorem State.q_freeNext (s : State) (r : QReg) : (s.freeNext).q r = s.q r := rfl
@[simp] theorem State.g_freeNext (s : State) (r : GReg) : (s.freeNext).g r = s.g r := rfl
@[simp] theorem State.part_freeNext (s : State) (m : Nat) : (s.freeNext).part m = s.part m := rfl
@[simp] theorem State.stack_freeNext (s : State) (m : Nat) : (s.freeNext).stack m = s.stack m := rfl
@[simp] theorem State.slice_freeNext (s : State) (m : Nat) : (s.freeNext).slice m = s.slice m := rfl
@[simp] theorem State.die_freeNext (s : State) (m : Nat) : (s.freeNext).die m = s.die m := rfl

end Sys2Proof.Machine
end

