-- ==== Sys2Proof/Laws/Frames.lean ====
section
/-!
SUPPORT. The frames of the statements under the updates of Ops.lean: they are kept by a step that is nothing, they chain, and each update of
one place keeps every other; what the exchange of the shadow registers gives.
-/

namespace Sys2Proof.Machine

/-! ### Memory as it was -/

theorem SameMemory.refl (s : State) : SameMemory s s := ⟨fun _ _ => rfl, fun _ _ => rfl, fun _ _ => rfl, fun _ => rfl, fun _ => rfl⟩

theorem SameMemory.trans {s t u : State} (h : SameMemory s t) (k : SameMemory t u) : SameMemory s u :=
  ⟨fun c a => (k.store c a).trans (h.store c a), fun n a => (k.stack n a).trans (h.stack n a), fun p a => (k.sys p a).trans (h.sys p a),
   fun a => (k.fw a).trans (h.fw a), fun a => (k.host a).trans (h.host a)⟩

/-- A step that leaves the five places is a step that leaves every byte. -/
theorem SameMemory.of_eq {s t : State} (hc : ∀ c, (t.core c).store = (s.core c).store) (hs : t.memStacks = s.memStacks)
    (hp : ∀ p, (t.part p).sys = (s.part p).sys) (hf : t.fwMem = s.fwMem) (hh : t.hostMem = s.hostMem) : SameMemory s t :=
  ⟨fun c a => by rw [hc], fun n a => by unfold State.stack; rw [hs], fun p a => by rw [hp], fun a => by rw [hf], fun a => by rw [hh]⟩

theorem SameMemory.modCore (s : State) (c : Nat) (f : Core → Core) (hf : ∀ k, (f k).store = k.store) : SameMemory s (s.modCore c f) := by
  refine SameMemory.of_eq (fun d => ?_) rfl (fun _ => rfl) rfl rfl
  by_cases h : d = c
  · subst h; rw [State.core_modCore_same, hf]
  · rw [State.core_modCore_ne s c d f h]

theorem SameMemory.setCtx (s : State) (c x : Nat) (t : Ctx) : SameMemory s (s.setCtx c x t) := SameMemory.modCore s c _ (fun _ => rfl)
theorem SameMemory.modCtx (s : State) (c x : Nat) (f : Ctx → Ctx) : SameMemory s (s.modCtx c x f) := SameMemory.setCtx s c x _
theorem SameMemory.modMe (s : State) (f : Ctx → Ctx) : SameMemory s (s.modMe f) := SameMemory.modCtx s _ _ f
theorem SameMemory.modMyCore (s : State) (f : Core → Core) (hf : ∀ k, (f k).store = k.store) : SameMemory s (s.modMyCore f) :=
  SameMemory.modCore s _ f hf

theorem SameMemory.modPart (s : State) (p : Nat) (f : Part → Part) (hf : ∀ v, (f v).sys = v.sys) : SameMemory s (s.modPart p f) := by
  refine SameMemory.of_eq (fun _ => rfl) rfl (fun q => ?_) rfl rfl
  by_cases h : q = p
  · subst h; rw [State.part_modPart_same, hf]
  · rw [State.part_modPart_ne s p q f h]

theorem SameMemory.modSlice (s : State) (n : Nat) (f : Slice → Slice) : SameMemory s (s.modSlice n f) :=
  SameMemory.of_eq (fun _ => rfl) rfl (fun _ => rfl) rfl rfl
theorem SameMemory.modDie (s : State) (n : Nat) (f : Die → Die) : SameMemory s (s.modDie n f) :=
  SameMemory.of_eq (fun _ => rfl) rfl (fun _ => rfl) rfl rfl

theorem SameMemory.modStack (s : State) (n : Nat) (f : Stack → Stack) (hf : ∀ k, (f k).mem = k.mem) : SameMemory s (s.modStack n f) := by
  refine ⟨fun _ _ => rfl, fun m a => ?_, fun _ _ => rfl, fun _ => rfl, fun _ => rfl⟩
  by_cases h : m = n
  · subst h; rw [State.stack_modStack_same, hf]
  · rw [State.stack_modStack_ne s n m f h]

theorem SameMemory.foldl {α : Type} (l : List α) (f : State → α → State) (hf : ∀ s a, SameMemory s (f s a)) (s : State) :
    SameMemory s (l.foldl f s) := by
  induction l generalizing s with
  | nil => exact SameMemory.refl s
  | cons a l ih => exact (hf s a).trans (ih _)

theorem SameMemory.abortTile (s : State) (c i : Nat) : SameMemory s (s.abortTile c i) := by
  unfold State.abortTile
  simp only
  split
  · exact SameMemory.modCore s c _ (fun _ => rfl)
  · refine SameMemory.trans (t := s.modCore c _) ?_ (SameMemory.foldl _ _ (fun s g => ?_) _)
    · exact SameMemory.modCore s c _ (fun _ => rfl)
    · exact SameMemory.modCore s g _ (fun _ => rfl)

theorem SameMemory.abortBarriers (s : State) (c x : Nat) : SameMemory s (s.abortBarriers c x) := by
  unfold State.abortBarriers
  split
  · simp only
    split
    · exact SameMemory.abortTile s c _
    · exact (SameMemory.abortTile s c _).trans (SameMemory.modPart _ _ (fun p => p.modTask _ _) (fun _ => rfl))
  · exact SameMemory.refl s

theorem SameMemory.post (s : State) (c x : Nat) (e : Ev) : SameMemory s (s.post c x e) := by
  unfold State.post
  split
  · exact SameMemory.refl s
  · exact SameMemory.modCtx s _ _ _

/-! ### One place changed -/

theorem CoreOnly.refl (s : State) (c : Nat) : CoreOnly s s c := ⟨rfl, fun _ _ => rfl⟩

theorem CoreOnly.modCore (s : State) (c : Nat) (f : Core → Core) : CoreOnly s (s.modCore c f) c :=
  ⟨rfl, fun d hd => State.core_modCore_ne s c d f hd⟩

theorem CoreOnly.trans {s t u : State} {c : Nat} (h : CoreOnly s t c) (k : CoreOnly t u c) : CoreOnly s u c := by
  refine ⟨?_, fun d hd => (k.cores d hd).trans (h.cores d hd)⟩
  have a : ({ ({ u with cores := t.cores } : State) with cores := s.cores } : State) = { t with cores := s.cores } := by rw [k.device]
  exact a.trans h.device

theorem CtxOnly.refl (s : State) (c x : Nat) : CtxOnly s s c x := ⟨rfl, fun _ _ => rfl, rfl, fun _ _ => rfl⟩

theorem CtxOnly.setCtx (s : State) (c x : Nat) (t : Ctx) : CtxOnly s (s.setCtx c x t) c x :=
  ⟨rfl, fun d hd => State.core_setCtx_ne s c x d t hd, by rw [State.core_setCtx_same]; rfl,
   fun y hy => State.ctx_setCtx_ne s c x c y t (.inr hy)⟩

theorem CtxOnly.modCtx (s : State) (c x : Nat) (f : Ctx → Ctx) : CtxOnly s (s.modCtx c x f) c x := CtxOnly.setCtx s c x _

theorem CtxOnly.trans {s t u : State} {c x : Nat} (h : CtxOnly s t c x) (k : CtxOnly t u c x) : CtxOnly s u c x := by
  refine ⟨?_, fun d hd => (k.cores d hd).trans (h.cores d hd), k.core.trans h.core, fun y hy => (k.ctxs y hy).trans (h.ctxs y hy)⟩
  have a : ({ ({ u with cores := t.cores } : State) with cores := s.cores } : State) = { t with cores := s.cores } := by rw [k.device]
  exact a.trans h.device

theorem PartOnly.refl (s : State) (p : Nat) : PartOnly s s p := ⟨rfl, fun _ _ => rfl⟩

theorem PartOnly.modPart (s : State) (p : Nat) (f : Part → Part) : PartOnly s (s.modPart p f) p :=
  ⟨rfl, fun q hq => State.part_modPart_ne s p q f hq⟩

theorem SliceOnly.modSlice (s : State) (n : Nat) (f : Slice → Slice) : SliceOnly s (s.modSlice n f) n :=
  ⟨rfl, fun m hm => State.slice_modSlice_ne s n m f hm⟩

theorem StackOnly.modStack (s : State) (n : Nat) (f : Stack → Stack) : StackOnly s (s.modStack n f) n :=
  ⟨rfl, fun m hm => State.stack_modStack_ne s n m f hm⟩

/-! ### The exchange of shadow registers (R33, R247) -/

theorem exchange_fold (ks : List Nat) (g sh : Table GVal) (r : Table GVal × Table GVal) (n : Nat) :
    tget GVal.zero (ks.foldl (fun r k => (tput r.1 k (tget GVal.zero sh k), tput r.2 k (tget GVal.zero g k))) r).1 n =
      (if n ∈ ks then tget GVal.zero sh n else tget GVal.zero r.1 n) ∧
    tget GVal.zero (ks.foldl (fun r k => (tput r.1 k (tget GVal.zero sh k), tput r.2 k (tget GVal.zero g k))) r).2 n =
      (if n ∈ ks then tget GVal.zero g n else tget GVal.zero r.2 n) := by
  induction ks generalizing r with
  | nil => simp
  | cons k ks ih =>
    simp only [List.foldl_cons, ih, List.mem_cons]
    by_cases h : n ∈ ks
    · simp [h]
    · by_cases hk : n = k
      · subst hk; simp [h]
      · simp [h, hk, tget_tput_ne _ _ _ _ _ hk]

/-- The new registers: g24 to g31 from the shadow set, the others as they were. -/
theorem exchange_regs (g sh : Table GVal) (n : Nat) :
    tget GVal.zero (exchange g sh).1 n = if 24 ≤ n ∧ n ≤ 31 then tget GVal.zero sh n else tget GVal.zero g n := by
  rw [exchange, (exchange_fold _ g sh (g, sh) n).1]
  congr 1
  simp only [List.mem_cons, List.not_mem_nil, or_false, eq_iff_iff]
  omega

/-- The new shadow set: g24 to g31 as they were. -/
theorem exchange_shadow (g sh : Table GVal) (n : Nat) :
    tget GVal.zero (exchange g sh).2 n = if 24 ≤ n ∧ n ≤ 31 then tget GVal.zero g n else tget GVal.zero sh n := by
  rw [exchange, (exchange_fold _ g sh (g, sh) n).2]
  congr 1
  simp only [List.mem_cons, List.not_mem_nil, or_false, eq_iff_iff]
  omega

end Sys2Proof.Machine
end

