-- ==== Sys2Proof/Laws/Memory.lean ====
section
/-!
SUPPORT. Memory: every operation keeps the canonical form, and what a byte reads as after it.
-/

namespace Sys2Proof.Machine

/-! ### The canonical form -/

theorem Mem.wfFrom_mono {m : Mem} {lo hi : Nat} (h : Mem.wfFrom hi m = true) (hle : lo ≤ hi) : Mem.wfFrom lo m = true := by
  cases m with
  | nil => rfl
  | cons e m =>
    obtain ⟨a, b⟩ := e
    simp only [Mem.wfFrom, Bool.and_eq_true, decide_eq_true_eq] at h ⊢
    exact ⟨⟨by omega, h.1.2⟩, h.2⟩

theorem Mem.wfFrom_write (m : Mem) (a : Nat) (b : Byte) {lo : Nat} (h : Mem.wfFrom lo m = true) (hlo : lo ≤ a) :
    Mem.wfFrom lo (m.write a b) = true := by
  induction m generalizing lo with
  | nil =>
    simp only [Mem.write]
    split <;> simp_all [Mem.wfFrom]
  | cons e m ih =>
    obtain ⟨j, x⟩ := e
    simp only [Mem.wfFrom, Bool.and_eq_true, decide_eq_true_eq] at h
    simp only [Mem.write]
    split
    · simp only [Mem.wfFrom, Bool.and_eq_true, decide_eq_true_eq]
      exact ⟨h.1, ih h.2 (by omega)⟩
    · split
      · split
        · exact Mem.wfFrom_mono h.2 (by omega)
        · subst_vars
          simp_all [Mem.wfFrom]
      · have hj : Mem.wfFrom (a + 1) ((j, x) :: m) = true := by
          simp only [Mem.wfFrom, Bool.and_eq_true, decide_eq_true_eq]
          exact ⟨⟨by omega, h.1.2⟩, h.2⟩
        split
        · exact Mem.wfFrom_mono hj (by omega)
        · simp only [Mem.wfFrom, Bool.and_eq_true, decide_eq_true_eq] at hj ⊢
          refine ⟨⟨hlo, ?_⟩, hj⟩
          simp_all

@[simp] theorem Mem.wf_nil : Mem.wf [] = true := rfl

theorem Mem.wf_write (m : Mem) (a : Nat) (b : Byte) (h : m.wf = true) : (m.write a b).wf = true :=
  Mem.wfFrom_write m a b h (Nat.zero_le a)

theorem Mem.wf_writeN (bs : List Byte) (m : Mem) (a : Nat) (h : m.wf = true) : (m.writeN a bs).wf = true := by
  induction bs generalizing m a with
  | nil => exact h
  | cons b bs ih => exact ih _ _ (Mem.wf_write m a b h)

theorem Mem.wf_writeCells (cs : List Host.Cell) (m : Mem) (h : m.wf = true) : (m.writeCells cs).wf = true := by
  induction cs generalizing m with
  | nil => exact h
  | cons c cs ih => exact ih _ (Mem.wf_write m c.1 c.2 h)

theorem Mem.wfFrom_filter (m : Mem) (p : Host.Cell → Bool) {lo : Nat} (h : Mem.wfFrom lo m = true) :
    Mem.wfFrom lo (m.filter p) = true := by
  induction m generalizing lo with
  | nil => rfl
  | cons e m ih =>
    obtain ⟨a, b⟩ := e
    simp only [Mem.wfFrom, Bool.and_eq_true, decide_eq_true_eq] at h
    simp only [List.filter_cons]
    split
    · simp only [Mem.wfFrom, Bool.and_eq_true, decide_eq_true_eq]
      exact ⟨h.1, ih h.2⟩
    · exact Mem.wfFrom_mono (ih h.2) (by omega)

/-- Part of a memory is in canonical form. -/
theorem Mem.wf_filter (m : Mem) (p : Host.Cell → Bool) (h : m.wf = true) : Mem.wf (m.filter p) = true := Mem.wfFrom_filter m p h

/-! ### Reading after a write -/

theorem Mem.read_of_lt {m : Mem} {lo a : Nat} (h : Mem.wfFrom lo m = true) (ha : a < lo) : m.read a = 0 := by
  induction m generalizing lo with
  | nil => rfl
  | cons e m ih =>
    obtain ⟨j, x⟩ := e
    simp only [Mem.wfFrom, Bool.and_eq_true, decide_eq_true_eq] at h
    have : j ≠ a := by omega
    simp only [Mem.read, this, if_false]
    exact ih h.2 (by omega)

theorem Mem.read_write_from (m : Mem) (a : Nat) (b : Byte) {lo : Nat} (h : Mem.wfFrom lo m = true) (i : Nat) :
    (m.write a b).read i = if i = a then b else m.read i := by
  induction m generalizing lo with
  | nil =>
    simp only [Mem.write]
    split
    · next hb => split <;> simp [Mem.read, hb]
    · simp only [Mem.read]
      split <;> split <;> simp_all
  | cons e m ih =>
    obtain ⟨j, x⟩ := e
    simp only [Mem.wfFrom, Bool.and_eq_true, decide_eq_true_eq] at h
    simp only [Mem.write]
    split
    · next hj =>
      simp only [Mem.read, ih h.2]
      split
      · next hi => subst hi; rw [if_neg (by omega)]
      · rfl
    · split
      · next hj =>
        subst hj
        split
        · next hb =>
          simp only [Mem.read]
          split
          · next hi => subst hi; rw [hb]; exact Mem.read_of_lt h.2 (by omega)
          · next hi => rw [if_neg (fun e => hi e.symm)]
        · simp only [Mem.read]
          split
          · next hi => rw [if_pos hi.symm]
          · next hi => rw [if_neg (fun e : i = j => hi e.symm)]
      · next hlt hne =>
        have h0 : i = a → Mem.read ((j, x) :: m) i = 0 := by
          intro hi
          subst hi
          simp only [Mem.read]
          rw [if_neg hne]
          exact Mem.read_of_lt h.2 (by omega)
        split
        · next hb =>
          split
          · next hi => rw [hb]; exact h0 hi
          · rfl
        · simp only [Mem.read]
          split
          · next hi => rw [if_pos hi.symm]
          · next hi => rw [if_neg (fun e : i = a => hi e.symm)]

/-- A byte written reads as written, every other byte as before. -/
theorem Mem.read_write (m : Mem) (a : Nat) (b : Byte) (h : m.wf = true) (i : Nat) :
    (m.write a b).read i = if i = a then b else m.read i := Mem.read_write_from m a b h i

/-- A run of bytes written from an address up reads as written, every other byte as before. -/
theorem Mem.read_writeN (bs : List Byte) (m : Mem) (a : Nat) (h : m.wf = true) (i : Nat) :
    (m.writeN a bs).read i = if a ≤ i ∧ i < a + bs.length then nth 0 bs (i - a) else m.read i := by
  induction bs generalizing m a with
  | nil =>
    simp only [Mem.writeN, List.length_nil]
    rw [if_neg (by omega)]
  | cons b bs ih =>
    simp only [Mem.writeN, ih _ _ (Mem.wf_write m a b h), Mem.read_write m a b h, List.length_cons]
    by_cases h1 : a + 1 ≤ i ∧ i < a + 1 + bs.length
    · rw [if_pos h1, if_pos (by omega)]
      have : i - a = (i - (a + 1)) + 1 := by omega
      rw [this]; rfl
    · rw [if_neg h1]
      by_cases h2 : i = a
      · subst h2; rw [if_pos rfl, if_pos (by omega)]; simp [nth]
      · rw [if_neg h2, if_neg (by omega)]

/-- Cells away from an address leave its byte. -/
theorem Mem.read_writeCells_of_ne (cs : List Host.Cell) (m : Mem) (h : m.wf = true) (i : Nat) (hi : ∀ c ∈ cs, c.1 ≠ i) :
    (m.writeCells cs).read i = m.read i := by
  induction cs generalizing m with
  | nil => rfl
  | cons c cs ih =>
    have h1 := ih (m.write c.1 c.2) (Mem.wf_write m c.1 c.2 h) (fun d hd => hi d (List.mem_cons_of_mem _ hd))
    rw [Mem.read_write m c.1 c.2 h, if_neg (fun e => hi c List.mem_cons_self e.symm)] at h1
    exact h1

@[simp] theorem Mem.length_readN (m : Mem) (n a : Nat) : (m.readN a n).length = n := by
  induction n generalizing a with
  | zero => rfl
  | succ n ih => simp [Mem.readN, ih]

end Sys2Proof.Machine
end

