-- ==== Sys2Proof/Laws/MemWf.lean ====
section
/-!
SUPPORT. The memories stay canonical: what a place must keep for the whole state to keep it, and that every operation of Ops.lean and
the wrapper of Operands.lean keep it.
-/

namespace Sys2Proof.Machine

/-! ### Tables -/

theorem tput_all {α : Type} (p : α → Bool) (t : Table α) (k : Nat) (x : α) (ht : t.all (fun e => p e.2) = true) (hx : p x = true) :
    (tput t k x).all (fun e => p e.2) = true := by
  induction t with
  | nil => simp only [tput, List.all_cons, List.all_nil, hx, Bool.and_self]
  | cons e t ih =>
    simp only [List.all_cons, Bool.and_eq_true] at ht
    simp only [tput]
    split
    · simp only [List.all_cons, hx, ht.2, Bool.and_self]
    · split
      · simp only [List.all_cons, hx, ht.1, ht.2, Bool.and_self]
      · simp only [List.all_cons, ht.1, ih ht.2, Bool.and_self]

theorem tget_all {α : Type} (p : α → Bool) (d : α) (t : Table α) (k : Nat) (ht : t.all (fun e => p e.2) = true) (hd : p d = true) :
    p (tget d t k) = true := by
  induction t with
  | nil => exact hd
  | cons e t ih =>
    simp only [List.all_cons, Bool.and_eq_true] at ht
    simp only [tget]
    split
    · exact ht.1
    · exact ih ht.2

/-! ### The parts of the invariant -/

theorem State.memWf_iff (s : State) : s.memWf = true ↔
    coresWf s.cores = true ∧ s.memStacks.all (fun e => e.2.mem.wf) = true ∧ s.parts.all (fun e => e.2.memWf) = true ∧
      s.fwMem.wf = true ∧ s.hostMem.wf = true := by
  simp only [State.memWf, Bool.and_eq_true, and_assoc]

theorem Part.memWf_iff (p : Part) : p.memWf = true ↔
    p.sys.wf = true ∧ savedWf p.window = true ∧ p.ckpt.all (fun k => savedWf k.window) = true := by
  simp only [Part.memWf, Bool.and_eq_true, and_assoc]

theorem State.core_wf {s : State} (h : s.memWf = true) (c : Nat) : (s.core c).store.wf = true :=
  tget_all (fun k : Core => k.store.wf) Core.reset s.cores c ((s.memWf_iff.mp h).1) rfl

theorem State.part_memWf {s : State} (h : s.memWf = true) (p : Nat) : (s.part p).memWf = true :=
  tget_all Part.memWf Part.reset s.parts p ((s.memWf_iff.mp h).2.2.1) rfl

theorem State.stack_wf {s : State} (h : s.memWf = true) (n : Nat) : (s.stack n).mem.wf = true :=
  tget_all (fun k : Stack => k.mem.wf) Stack.reset s.memStacks n ((s.memWf_iff.mp h).2.1) rfl

theorem State.fwMem_wf {s : State} (h : s.memWf = true) : s.fwMem.wf = true := (s.memWf_iff.mp h).2.2.2.1
theorem State.hostMem_wf {s : State} (h : s.memWf = true) : s.hostMem.wf = true := (s.memWf_iff.mp h).2.2.2.2

/-- Only these five fields matter. -/
theorem State.memWf_congr {s t : State} (hc : t.cores = s.cores) (hs : t.memStacks = s.memStacks) (hp : t.parts = s.parts)
    (hf : t.fwMem = s.fwMem) (hh : t.hostMem = s.hostMem) : t.memWf = s.memWf := by
  simp only [State.memWf, hc, hs, hp, hf, hh]

/-! ### The places of the state -/

theorem State.memWf_setCore {s : State} (h : s.memWf = true) (c : Nat) (k : Core) (hk : k.store.wf = true) :
    (s.setCore c k).memWf = true := by
  have h' := s.memWf_iff.mp h
  exact (State.memWf_iff _).mpr ⟨tput_all (fun k : Core => k.store.wf) s.cores c k h'.1 hk, h'.2⟩

@[simp] theorem State.memWf_modCore {s : State} (h : s.memWf = true) (c : Nat) (f : Core → Core)
    (hf : ∀ k : Core, k.store.wf = true → (f k).store.wf = true) : (s.modCore c f).memWf = true :=
  s.memWf_setCore h c _ (hf _ (s.core_wf h c))

@[simp] theorem State.memWf_setCtx {s : State} (h : s.memWf = true) (c x : Nat) (t : Ctx) : (s.setCtx c x t).memWf = true :=
  s.memWf_modCore h c _ (fun _ hk => hk)

@[simp] theorem State.memWf_modCtx {s : State} (h : s.memWf = true) (c x : Nat) (f : Ctx → Ctx) : (s.modCtx c x f).memWf = true :=
  s.memWf_setCtx h c x _

@[simp] theorem State.memWf_modMe {s : State} (h : s.memWf = true) (f : Ctx → Ctx) : (s.modMe f).memWf = true := s.memWf_modCtx h _ _ f

@[simp] theorem State.memWf_modMyCore {s : State} (h : s.memWf = true) (f : Core → Core)
    (hf : ∀ k : Core, k.store.wf = true → (f k).store.wf = true) : (s.modMyCore f).memWf = true := s.memWf_modCore h _ f hf

theorem State.memWf_setPart {s : State} (h : s.memWf = true) (p : Nat) (v : Part) (hv : v.memWf = true) : (s.setPart p v).memWf = true := by
  have h' := s.memWf_iff.mp h
  exact (State.memWf_iff _).mpr ⟨h'.1, h'.2.1, tput_all Part.memWf s.parts p v h'.2.2.1 hv, h'.2.2.2⟩

@[simp] theorem State.memWf_modPart {s : State} (h : s.memWf = true) (p : Nat) (f : Part → Part)
    (hf : ∀ v : Part, v.memWf = true → (f v).memWf = true) : (s.modPart p f).memWf = true :=
  s.memWf_setPart h p _ (hf _ (s.part_memWf h p))

theorem State.memWf_setStack {s : State} (h : s.memWf = true) (n : Nat) (v : Stack) (hv : v.mem.wf = true) :
    (s.setStack n v).memWf = true := by
  have h' := s.memWf_iff.mp h
  exact (State.memWf_iff _).mpr ⟨h'.1, tput_all (fun k : Stack => k.mem.wf) s.memStacks n v h'.2.1 hv, h'.2.2⟩

@[simp] theorem State.memWf_modStack {s : State} (h : s.memWf = true) (n : Nat) (f : Stack → Stack)
    (hf : ∀ v : Stack, v.mem.wf = true → (f v).mem.wf = true) : (s.modStack n f).memWf = true :=
  s.memWf_setStack h n _ (hf _ (s.stack_wf h n))

@[simp] theorem State.memWf_setSlice (s : State) (n : Nat) (v : Slice) : (s.setSlice n v).memWf = s.memWf := rfl
@[simp] theorem State.memWf_modSlice (s : State) (n : Nat) (f : Slice → Slice) : (s.modSlice n f).memWf = s.memWf := rfl
@[simp] theorem State.memWf_setDie (s : State) (n : Nat) (v : Die) : (s.setDie n v).memWf = s.memWf := rfl
@[simp] theorem State.memWf_modDie (s : State) (n : Nat) (f : Die → Die) : (s.modDie n f).memWf = s.memWf := rfl
@[simp] theorem State.memWf_freeNext (s : State) : s.freeNext.memWf = s.memWf := rfl

@[simp] theorem State.memWf_fwWrite {s : State} (h : s.memWf = true) (m : Mem) (hm : m.wf = true) : ({ s with fwMem := m } : State).memWf = true := by
  have h' := s.memWf_iff.mp h
  exact (State.memWf_iff _).mpr ⟨h'.1, h'.2.1, h'.2.2.1, hm, h'.2.2.2.2⟩

@[simp] theorem State.memWf_hostWrite {s : State} (h : s.memWf = true) (m : Mem) (hm : m.wf = true) (x : List Nat) :
    ({ s with hostMem := m, msix := x } : State).memWf = true := by
  have h' := s.memWf_iff.mp h
  exact (State.memWf_iff _).mpr ⟨h'.1, h'.2.1, h'.2.2.1, h'.2.2.2.1, hm⟩

/-! ### Partitions and tasks -/

@[simp] theorem Part.memWf_sys {p : Part} (h : p.memWf = true) (m : Mem) (hm : m.wf = true) : ({ p with sys := m } : Part).memWf = true :=
  (Part.memWf_iff _).mpr ⟨hm, (p.memWf_iff.mp h).2⟩

@[simp] theorem savedWf_map {w : List Task} (h : savedWf w = true) (f : Task → Task)
    (hf : ∀ t : Task, t.saved.all (fun k => k.store.wf) = true → (f t).saved.all (fun k => k.store.wf) = true) :
    savedWf (w.map f) = true := by
  simp only [savedWf, List.all_map, List.all_eq_true, Function.comp] at h ⊢
  intro t ht
  exact List.all_eq_true.mp (hf t (List.all_eq_true.mpr (fun k hk => h t ht k hk)))

@[simp] theorem savedWf_filter {w : List Task} (h : savedWf w = true) (p : Task → Bool) : savedWf (w.filter p) = true := by
  simp only [savedWf, List.all_eq_true, List.mem_filter] at h ⊢
  exact fun t ht => h t ht.1

@[simp] theorem savedWf_append {v w : List Task} (hv : savedWf v = true) (hw : savedWf w = true) : savedWf (v ++ w) = true := by
  simp only [savedWf, List.all_append, Bool.and_eq_true] at hv hw ⊢
  exact ⟨hv, hw⟩

@[simp] theorem Part.memWf_modTask {p : Part} (h : p.memWf = true) (id : Nat) (f : Task → Task)
    (hf : ∀ t : Task, t.saved.all (fun k => k.store.wf) = true → (f t).saved.all (fun k => k.store.wf) = true) :
    (p.modTask id f).memWf = true := by
  have h' := p.memWf_iff.mp h
  refine (Part.memWf_iff _).mpr ⟨h'.1, ?_, h'.2.2⟩
  refine savedWf_map h'.2.1 _ (fun t ht => ?_)
  split
  · exact hf t ht
  · exact ht

/-! ### Operations of Ops.lean -/

@[simp] theorem State.memWf_modAgent {s : State} (h : s.memWf = true) (a : Agent) (f : Ctx → Ctx) : (s.modAgent a f).memWf = true := by
  unfold State.modAgent
  split
  · exact s.memWf_modCtx h _ _ f
  · refine s.memWf_modPart h _ _ (fun v hv => v.memWf_modTask hv _ _ (fun t ht => ?_))
    simp only [List.all_map, List.all_eq_true, Function.comp] at ht ⊢
    intro k hk
    split
    · exact ht k hk
    · exact ht k hk

@[simp] theorem State.memWf_putG {s : State} (h : s.memWf = true) (r : GReg) (v : Word) : (s.putG r v).memWf = true := by
  unfold State.putG
  split
  · exact h
  · split
    · exact s.memWf_modMe h _
    · split
      · exact s.memWf_modMyCore h _ (fun _ hk => hk)
      · exact s.memWf_modMyCore h _ (fun _ hk => hk)

@[simp] theorem State.memWf_putF {s : State} (h : s.memWf = true) (r : FReg) (v : Word) (c : Nat) : (s.putF r v c).memWf = true := s.memWf_modMe h _
@[simp] theorem State.memWf_putP {s : State} (h : s.memWf = true) (r : PReg) (b : Bool) : (s.putP r b).memWf = true := by
  unfold State.putP
  split
  · exact h
  · exact s.memWf_modMe h _
@[simp] theorem State.memWf_putV {s : State} (h : s.memWf = true) (r : VReg) (v : VVal) : (s.putV r v).memWf = true := s.memWf_modMe h _
@[simp] theorem State.memWf_putQ {s : State} (h : s.memWf = true) (r : QReg) (v : BitVec 32) : (s.putQ r v).memWf = true := s.memWf_modMe h _
@[simp] theorem State.memWf_orFlags {s : State} (h : s.memWf = true) (fl : Nat) : (s.orFlags fl).memWf = true := s.memWf_modMe h _

@[simp] theorem State.memWf_setFullG {s : State} (h : s.memWf = true) (n : Nat) (b : Bool) : (s.setFullG n b).memWf = true := by
  unfold State.setFullG
  split
  · exact h
  · split
    · exact s.memWf_modMe h _
    · exact s.memWf_modMyCore h _ (fun _ hk => hk)

@[simp] theorem State.memWf_setFullF {s : State} (h : s.memWf = true) (n : Nat) (b : Bool) : (s.setFullF n b).memWf = true := s.memWf_modMe h _

@[simp] theorem State.memWf_fill {s : State} (h : s.memWf = true) (c x reg : Nat) (v : Word) : (s.fill c x reg v).memWf = true := by
  unfold State.fill
  split
  · exact h
  · split
    · exact h
    · split
      · exact s.memWf_modCtx h _ _ _
      · exact s.memWf_modCore h _ _ (fun _ hk => hk)

/-- A fold keeps the memories when each of its steps does. -/
theorem foldl_memWf {α : Type} (f : State → α → State) (hf : ∀ (s : State) (a : α), s.memWf = true → (f s a).memWf = true)
    (l : List α) (s : State) (h : s.memWf = true) : (l.foldl f s).memWf = true := by
  induction l generalizing s with
  | nil => exact h
  | cons a l ih => exact ih _ (hf s a h)

@[simp] theorem State.memWf_abortTile {s : State} (h : s.memWf = true) (c i : Nat) : (s.abortTile c i).memWf = true := by
  unfold State.abortTile
  simp only
  split
  · exact s.memWf_modCore h _ _ (fun _ hk => hk)
  · refine foldl_memWf _ (fun s g hs => ?_) _ _ ?_
    · exact s.memWf_modCore hs g _ (fun _ hk => hk)
    · exact s.memWf_modCore h _ _ (fun _ hk => hk)

@[simp] theorem State.memWf_abortBarriers {s : State} (h : s.memWf = true) (c x : Nat) : (s.abortBarriers c x).memWf = true := by
  unfold State.abortBarriers
  split
  · simp only
    split
    · exact State.memWf_abortTile h _ _
    · exact State.memWf_modPart (State.memWf_abortTile h _ _) _ _ (fun v hv => v.memWf_modTask hv _ _ (fun _ ht => ht))
  · exact h

@[simp] theorem State.memWf_post {s : State} (h : s.memWf = true) (c x : Nat) (e : Ev) : (s.post c x e).memWf = true := by
  unfold State.post
  split
  · exact h
  · exact s.memWf_modCtx h _ _ _

@[simp] theorem State.memWf_postAgent {s : State} (h : s.memWf = true) (a : Agent) (e : Ev) : (s.postAgent a e).memWf = true :=
  s.memWf_modAgent h a _

/-- Taking an exception touches no memory. -/
@[simp] theorem State.memWf_raise {s : State} (h : s.memWf = true) (c x code : Nat) (tval tstat tepc : Word) (entry : Option Word) :
    (s.raise c x code tval tstat tepc entry).memWf = true := by
  unfold State.raise
  have a := fun t => State.memWf_abortBarriers (s.memWf_setCtx h c x t) c x
  have b := fun t => s.memWf_setCtx h c x t
  simp only
  split
  · split
    · split
      · exact a _
      · exact b _
    · exact b _
  · split
    · exact a _
    · exact b _
  · exact a _

/-! ### The wrapper of an instruction -/

/-- The state an instruction's effect leaves. -/
def Res.state : Res → State
  | .done s => s
  | .jump _ s => s
  | .trap _ _ _ s => s
  | .after _ _ _ s => s
  | .park _ s => s
  | .bubble s => s

@[simp] theorem State.memWf_consumeAll {s : State} (h : s.memWf = true) (os : List Opnd) : (s.consumeAll os).memWf = true := by
  unfold State.consumeAll
  suffices ∀ (l : List Opnd) (u : State), u.memWf = true → (l.foldl (fun s o =>
      if o.md == .consume && !refills os o.key then
        (if o.key.1 then s.setFullF o.key.2 false else s.setFullG o.key.2 false)
      else s) u).memWf = true from this os s h
  intro l
  induction l with
  | nil => exact fun u hu => hu
  | cons o l ih =>
    intro u hu
    refine ih _ ?_
    beta_reduce
    split
    · split
      · exact u.memWf_setFullF hu _ _
      · exact u.memWf_setFullG hu _ _
    · exact hu

@[simp] theorem State.memWf_complete {s : State} (h : s.memWf = true) (s0 : State) (pc : Word) : (s0.complete s pc).memWf = true := by
  unfold State.complete
  simp only
  split
  · exact State.memWf_post (s.memWf_modMe h _) _ _ _
  · exact s.memWf_modMe h _

@[simp] theorem State.memWf_parkOn {s : State} (h : s.memWf = true) (i : Instr) (w : Wait) : (s.parkOn i w).memWf = true := s.memWf_modMe h _

@[simp] theorem State.memWf_finish (s0 : State) (i : Instr) (size : Nat) (os : List Opnd) (r : Res) (h : r.state.memWf = true) :
    (s0.finish i size os r).memWf = true := by
  cases r with
  | done s => exact State.memWf_complete (State.memWf_consumeAll h os) s0 _
  | jump pc s => exact State.memWf_complete (State.memWf_consumeAll h os) s0 _
  | trap code tval tstat s => exact State.memWf_raise (State.memWf_modMe h _) _ _ _ _ _ _ _
  | after code tval tstat s => exact State.memWf_raise (State.memWf_modMe (State.memWf_consumeAll h os) _) _ _ _ _ _ _ _
  | park w s => exact State.memWf_parkOn h i w
  | bubble s => exact State.memWf_modMe h _

/-- An instruction keeps the memories when its effect does. -/
theorem State.memWf_run {s t : State} (h : s.memWf = true) (i : Instr) (size : Nat) (g : Guard) (os : List Opnd) (eff : State → Res)
    (he : (eff s).state.memWf = true) (hn : s.run i size g os eff = .next t) : t.memWf = true := by
  unfold State.run at hn
  split at hn
  · split at hn
    · cases hn; exact State.memWf_finish s i size os _ he
    · cases hn; exact State.memWf_parkOn h i _
  · cases hn; exact State.memWf_complete h s _

end Sys2Proof.Machine
end

