-- ==== Sys2Proof/Laws/MemAccess.lean ====
section
/-!
SUPPORT. The shared operations of Cache.lean, Place.lean and Access.lean keep the memories canonical; those that go on with a
continuation keep them when the continuation does.
-/

namespace Sys2Proof.Machine

/-! ### Cache.lean -/

@[simp] theorem State.memWf_send (s : State) (m : Msg) : (s.send m).memWf = s.memWf := rfl
@[simp] theorem State.memWf_sendBackFor (s : State) (c x : Nat) (l : Line) : (s.sendBackFor c x l).memWf = s.memWf := by
  unfold State.sendBackFor
  split <;> rfl
@[simp] theorem State.memWf_sendBack (s : State) (c : Nat) (l : Line) : (s.sendBack c l).memWf = s.memWf := State.memWf_sendBackFor s c noCtx l

@[simp] theorem State.memWf_answer {s : State} (h : s.memWf = true) (c x : Nat) (r : Reply) : (s.answer c x r).memWf = true := by
  unfold State.answer
  split <;> simp [h]

@[simp] theorem Core.store_setLine (k : Core) (l : Line) : (k.setLine l).store = k.store := rfl
@[simp] theorem Core.store_dropLine (k : Core) (l : Nat) (b : Bool) : (k.dropLine l b).store = k.store := rfl

@[simp] theorem State.memWf_install {s : State} (h : s.memWf = true) (c : Nat) (l : Line) : (s.install c l).memWf = true := by
  unfold State.install
  simp only
  split
  · exact h
  · split
    · simp [h]
    · split <;> simp [h]

@[simp] theorem State.memWf_updateLine {s : State} (h : s.memWf = true) (c line : Nat) (loc : Bool) (cells : List Host.Cell) (dirty : Bool) :
    (s.updateLine c line loc cells dirty).memWf = true := by
  unfold State.updateLine
  split
  · exact h
  · exact State.memWf_modCore h _ _ (fun _ hk => hk)

@[simp] theorem State.memWf_writeBack {s : State} (h : s.memWf = true) (c : Nat) (p : Line → Bool) : (s.writeBack c p).memWf = true := by
  unfold State.writeBack
  refine foldl_memWf _ (fun s l hs => ?_) _ s h
  exact State.memWf_modCore (s := s.sendBack c l) (by simp [hs]) _ _ (fun _ hk => hk)

@[simp] theorem State.memWf_discard {s : State} (h : s.memWf = true) (c : Nat) (p : Line → Bool) : (s.discard c p).memWf = true := by
  simp [State.discard, h]

@[simp] theorem State.memWf_releaseLines {s : State} (h : s.memWf = true) (c : Nat) (sc : Scope) : (s.releaseLines c sc).memWf = true := by
  unfold State.releaseLines
  split
  · exact foldl_memWf _ (fun s l hs => by simp [hs]) _ s h
  · exact h

@[simp] theorem State.memWf_acquire {s : State} (h : s.memWf = true) (c : Nat) (sc : Scope) : (s.acquire c sc).memWf = true := by
  unfold State.acquire
  have h1 : (if sc = .tile then s else s.discard c (fun l => l.loc)).memWf = true := by split <;> simp [h]
  generalize (if sc = .tile then s else s.discard c (fun l => l.loc)) = u at h1
  have h2 : (if u.widerThanCache c sc then (u.cacheCores c).foldl (fun s k => s.discard k (fun l => !l.dirty && !l.loc)) u else u).memWf =
      true := by
    split
    · exact foldl_memWf _ (fun s l hs => by simp [hs]) _ u h1
    · exact h1
  simp only
  split <;> simp [h2]

/-! ### Place.lean -/

@[simp] theorem State.memWf_lookup {s : State} (h : s.memWf = true) (c va : Nat) : (s.lookup c va).2.memWf = true := by
  unfold State.lookup
  dsimp only
  split
  · dsimp only
    split <;> exact h
  · refine State.memWf_modCore ?_ _ _ (fun _ hk => hk)
    split <;> exact h

/-! ### Access.lean -/

@[simp] theorem State.memWf_lookups {s : State} (h : s.memWf = true) (c : Nat) (us : List (AUnit × Loc)) :
    (s.lookups c us).2.memWf = true := by
  induction us generalizing s with
  | nil => exact h
  | cons u us ih =>
    obtain ⟨u, l⟩ := u
    have key : ∀ r : Except Trap (Option TbEntry) × State, r.2.memWf = true →
        (match r.1 with
        | .error t => ((.error t, r.2) : Except Trap (List (AUnit × Loc × Option TbEntry)) × State)
        | .ok e => match State.lookups r.2 c us with
          | (.error t, s) => (.error t, s)
          | (.ok es, s) => (.ok ((u, l, e) :: es), s)).2.memWf = true := by
      intro r hr
      have := ih hr
      split
      · exact hr
      · split <;> simp_all
    refine key _ ?_
    cases l
    case virt va =>
      dsimp only
      split
      · exact h
      · have := State.memWf_lookup h c va
        split <;> simp_all
    all_goals exact h

@[simp] theorem State.memWf_checks {s : State} (h : s.memWf = true) (sc : Option Scope) (us : List AUnit) :
    (s.checks sc us).2.memWf = true := by
  unfold State.checks
  simp only
  split
  · exact h
  · split
    · exact h
    · have := State.memWf_lookups h s.cur.1 ‹_›
      split
      · simp_all
      · split <;> simp_all

/-- The checks keep the memories when what goes on after them does. -/
theorem State.memWf_checked' {s : State} (h : s.memWf = true) (sc : Option Scope) (us : List AUnit) (k : State → List (AUnit × At) → Res)
    (hk : ∀ (u : State) (ps : List (AUnit × At)), u.memWf = true → (k u ps).state.memWf = true) : (s.checked' sc us k).state.memWf = true := by
  unfold State.checked'
  have := State.memWf_checks h sc us
  split
  · simp_all [Res.raise, Res.state]
  · split
    · simp_all [Res.state]
    · split
      · simp_all [Res.state]
      · exact hk _ _ (by simp_all)

@[simp] theorem State.memWf_fenceLine {s : State} (h : s.memWf = true) (m : Msg) (a : Nat) : (s.fenceLine m a).memWf = true := by
  unfold State.fenceLine
  split
  · exact State.memWf_modCore (State.memWf_writeBack h _ _) _ _ (fun _ hk => hk)
  · exact h

@[simp] theorem State.memWf_cacheApply {s : State} (h : s.memWf = true) (m : Msg) (a : Nat) : (s.cacheApply m a).memWf = true := by
  unfold State.cacheApply
  exact State.memWf_fenceLine (State.memWf_updateLine h _ _ _ _ _) _ _

@[simp] theorem State.memWf_through {s : State} (h : s.memWf = true) (m : Msg) (a : Nat) : (s.through m a).memWf = true := by
  unfold State.through
  have h1 := State.memWf_updateLine h a (m.addr / 64) false m.bytes false
  simp only
  split
  · exact State.memWf_modCore (s := State.send _ _) h1 _ _ (fun _ hk => hk)
  · exact h1

@[simp] theorem State.memWf_applyStore {s : State} (h : s.memWf = true) (m : Msg) : (s.applyStore m).memWf = true := by
  unfold State.applyStore
  split
  · refine State.memWf_cacheApply ?_ _ _
    exact h
  · refine State.memWf_through ?_ _ _
    exact h
  · exact h

@[simp] theorem State.memWf_applyStores {s : State} (h : s.memWf = true) (c x line : Nat) : (s.applyStores c x line).memWf = true :=
  foldl_memWf State.applyStore (fun _ m hs => State.memWf_applyStore hs m) _ s h

@[simp] theorem State.memWf_narrow {s : State} (h : s.memWf = true) (c x pa : Nat) (sc : Scope) : (s.narrow c x pa sc).memWf = true := by
  unfold State.narrow
  split
  · exact h
  · have h1 : (s.modCore c (fun k => k.dropLine (pa / 64) true)).memWf = true := State.memWf_modCore h _ _ (fun _ hk => hk)
    dsimp only
    generalize s.modCore c (fun k => k.dropLine (pa / 64) true) = u at h1 ⊢
    split
    · split
      · exact h1
      · refine State.memWf_modCore ?_ _ _ (fun _ hk => hk)
        split <;> simp [h1]
    · exact h1

@[simp] theorem State.memWf_reserve (s : State) : s.reserve.memWf = s.memWf := rfl

@[simp] theorem State.memWf_instantAs {s : State} (h : s.memWf = true) (id : Nat) (data : List Byte) (poison : Bool) :
    (s.instantAs id data poison).memWf = true := State.memWf_answer h _ _ _

@[simp] theorem State.memWf_instant {s : State} (h : s.memWf = true) (data : List Byte) (poison : Bool) :
    (s.instant data poison).memWf = true := State.memWf_instantAs (s := s.reserve) h _ _ _

@[simp] theorem Core.wf_storeWrite {k : Core} (h : k.store.wf = true) (cells : List Host.Cell) (id : Option Nat := none) :
    (k.storeWrite cells id).store.wf = true := Mem.wf_writeCells cells k.store h

@[simp] theorem Core.wf_storeWhole {k : Core} (h : k.store.wf = true) (cells : List Host.Cell) (id : Option Nat := none) :
    (k.storeWhole cells id).store.wf = true := Mem.wf_writeCells cells k.store h

@[simp] theorem State.memWf_readStep (s : State) (c off n : Nat) : (s.readStep c off n).memWf = s.memWf := by
  unfold State.readStep
  split <;> rfl

@[simp] theorem State.memWf_ownApply {s : State} (h : s.memWf = true) (c x off n : Nat) : (s.ownApply c x off n).memWf = true := by
  refine foldl_memWf _ (fun u m hu => ?_) _ s h
  refine State.memWf_modCore (s := { u with net := u.net.filter (fun e => decide (e.id ≠ m.id)) }) hu _ _ (fun k hk => ?_)
  split
  · exact Core.wf_storeWhole hk _ _
  · exact Core.wf_storeWrite hk _ _

@[simp] theorem State.memWf_sendTile (s : State) (entry : Nat) (kind : MKind) (addr : Nat) (bytes : List Host.Cell) :
    (s.sendTile entry kind addr bytes).memWf = s.memWf := rfl
@[simp] theorem State.memWf_sendMem (s : State) (entry : Nat) (kind : MKind) (part pa : Nat) (bytes : List Host.Cell) :
    (s.sendMem entry kind part pa bytes).memWf = s.memWf := rfl

@[simp] theorem State.memWf_noRollback {s : State} (h : s.memWf = true) (part : Nat) : (s.noRollback part).memWf = true :=
  State.memWf_modPart h _ _ (fun _ hv => hv)

@[simp] theorem State.memWf_sendDomain {s : State} (h : s.memWf = true) (dev off : Nat) (op : DomOp) :
    (s.sendDomain dev off op).memWf = true := by
  unfold State.sendDomain
  have h1 : (if DomActs op && (dev != s.devnum.toNat || flitAt off op) then s.noRollback s.myPart else s).memWf = true := by
    split <;> simp [h]
  exact h1

@[simp] theorem State.memWf_readLine {s : State} (h : s.memWf = true) (pa n : Nat) (loc : Bool) : (s.readLine pa n loc).memWf = true := by
  unfold State.readLine
  simp only
  generalize (if (loc || s.lineHome s.cur.1 (pa / 64) == s.cur.1) = true then (s.core s.cur.1).lineAt (pa / 64) loc else none) = mine
  cases mine with
  | none => simp [h]
  | some l =>
    simp only
    have h1 : (if loc then s.reserve else s.reserve.applyStores s.cur.1 s.cur.2 (pa / 64)).memWf = true := by
      split <;> simp [h]
    generalize (if loc then s.reserve else s.reserve.applyStores s.cur.1 s.cur.2 (pa / 64)) = u at h1
    split <;> simp [h1]

@[simp] theorem State.memWf_threadRead (s : State) (c r off n : Nat) : (s.threadRead c r off n).memWf = s.memWf := by
  unfold State.threadRead
  split
  · rfl
  · exact State.memWf_readStep s c off n

@[simp] theorem State.memWf_readUnit {s : State} (h : s.memWf = true) (u : AUnit) (a : At) (ty : ReqType) :
    (s.readUnit u a ty).memWf = true := by
  unfold State.readUnit
  simp only
  split
  all_goals first
    | (split <;> simp [h])
    | simp [h]

@[simp] theorem State.memWf_throughLine {s : State} (h : s.memWf = true) (entry part pa : Nat) (cells : List Host.Cell) :
    (s.throughLine entry part pa cells).memWf = true := by
  unfold State.throughLine
  simp only
  split <;> simp [h]

@[simp] theorem State.memWf_writeUnit {s : State} (h : s.memWf = true) (entry : Nat) (a : At) (ty : ReqType) (bs : List Byte) :
    (s.writeUnit entry a ty bs).memWf = true := by
  unfold State.writeUnit
  simp only
  split
  · exact h
  · exact h
  · exact h
  · exact h
  · exact State.memWf_fwWrite h _ (Mem.wf_writeN _ _ _ (State.fwMem_wf h))
  · exact h
  · exact State.memWf_modMe (State.memWf_sendDomain h _ _ _) _
  · exact h
  · split <;> simp [h]

/-- Waiting for answers keeps the memories when what goes on with them does. -/
theorem State.memWf_collect {s : State} (h : s.memWf = true) (k : State → List Reply → Res)
    (hk : ∀ (u : State) (rs : List Reply), u.memWf = true → (k u rs).state.memWf = true) : (s.collect k).state.memWf = true := by
  unfold State.collect
  split
  · exact h
  · split
    · exact h
    · exact hk _ _ h

@[simp] theorem State.memWf_sent {s : State} (h : s.memWf = true) (step : Nat) (ids eas : List Nat) : (s.sent step ids eas).memWf = true :=
  State.memWf_modMe h _

theorem foldl2_memWf {α β : Type} (f : β × State → α → β × State)
    (hf : ∀ (r : β × State) (a : α), r.2.memWf = true → (f r a).2.memWf = true) (l : List α) (r : β × State) (h : r.2.memWf = true) :
    (l.foldl f r).2.memWf = true := by
  induction l generalizing r with
  | nil => exact h
  | cons a l ih => exact ih _ (hf r a h)

@[simp] theorem State.memWf_readAll {s : State} (h : s.memWf = true) (ty : ReqType) (us : List (AUnit × At)) :
    (s.readAll ty us).memWf = true :=
  State.memWf_sent (foldl2_memWf _ (fun _ _ hr => State.memWf_readUnit hr _ _ _) _ _ h) _ _ _

/-- A load keeps the memories when what is done with its answers does. -/
theorem State.memWf_load {s : State} (h : s.memWf = true) (us : List AUnit) (ty : ReqType) (k : State → List Reply → Res)
    (hk : ∀ (u : State) (rs : List Reply), u.memWf = true → (k u rs).state.memWf = true) : (s.load us ty k).state.memWf = true := by
  unfold State.load
  split
  · exact State.memWf_collect h _ hk
  · exact State.memWf_checked' h _ _ _ (fun u ps hu => State.memWf_collect (State.memWf_readAll hu _ _) _ hk)

@[simp] theorem State.memWf_sendFar {s : State} (h : s.memWf = true) (step : Nat) (kind : Nat → MKind) (ps : List Piece) :
    (s.sendFar step kind ps).memWf = true := by
  unfold State.sendFar
  refine State.memWf_sent ?_ _ _ _
  refine foldl2_memWf _ (fun r t hr => ?_) _ _ ?_
  · exact (State.memWf_sendTile r.2 _ _ _ _).trans hr
  · exact h

@[simp] theorem State.memWf_storeNear {s : State} (h : s.memWf = true) (ty : ReqType) (clr : Bool) (ps : List Piece) :
    (s.storeNear ty clr ps).memWf = true := by
  unfold State.storeNear
  refine foldl_memWf _ (fun s p hs => ?_) _ _ (foldl_memWf _ (fun s u hs => ?_) _ s h)
  · split
    · exact hs
    · exact hs
    · exact hs
    · exact hs
    · exact State.memWf_writeUnit hs _ _ _ _
  · refine foldl_memWf _ (fun t v ht => ?_) _ s hs
    exact ht

@[simp] theorem State.memWf_storeNears {s : State} (h : s.memWf = true) (ty : ReqType) (clr : Bool) (planes : List (Option Word × List Piece)) :
    (s.storeNears ty clr planes).memWf = true := foldl_memWf _ (fun _ _ hs => State.memWf_storeNear hs _ _ _) _ s h

@[simp] theorem State.memWf_keepPlanes {s : State} (h : s.memWf = true) (planes : List (Option Word × List Piece)) :
    (s.keepPlanes planes).memWf = true := State.memWf_modMe h _

/-- The acceptance of a store keeps the memories when what follows it does. -/
theorem State.memWf_storeAt {s : State} (h : s.memWf = true) (ty : ReqType) (clr : Bool) (split : List (Option Word × List Piece))
    (k : State → Res) (hk : ∀ u : State, u.memWf = true → (k u).state.memWf = true) : (s.storeAt ty clr split k).state.memWf = true := by
  unfold State.storeAt
  simp only
  split
  · exact h
  · split
    · exact hk _ (State.memWf_storeNears h _ _ _)
    · split
      · exact State.memWf_collect (State.memWf_sendFar (State.memWf_keepPlanes h _) _ _ _) _ (fun v _ hv => hk v hv)
      · exact State.memWf_collect (State.memWf_sendFar (State.memWf_keepPlanes h _) _ _ _) _ (fun v _ hv => hk v hv)

theorem State.memWf_storeOn {s : State} (h : s.memWf = true) (ty : ReqType) (clr : Bool) (k : State → Res)
    (hk : ∀ u : State, u.memWf = true → (k u).state.memWf = true) : (s.storeOn ty clr k).state.memWf = true := by
  unfold State.storeOn
  simp only
  split
  · exact State.memWf_collect (State.memWf_sendFar (State.memWf_keepPlanes (State.memWf_storeNears h _ _ _) _) _ _ _) _ (fun v _ hv => hk v hv)
  · exact hk _ (State.memWf_storeNears h _ _ _)

/-- A store keeps the memories when what follows it does. -/
theorem State.memWf_store {s : State} (h : s.memWf = true) (planes : List Plane) (ty : ReqType) (clr : Bool) (k : State → Res)
    (hk : ∀ u : State, u.memWf = true → (k u).state.memWf = true) : (s.store planes ty clr k).state.memWf = true := by
  unfold State.store
  have go : ∀ u : State, u.memWf = true →
      (u.checked' none (planes.flatMap (fun p => p.2.1)) (fun s ps => s.storeAt ty clr (planesAt planes ps) k)).state.memWf = true :=
    fun u hu => State.memWf_checked' hu _ _ _ (fun v ps hv => State.memWf_storeAt hv _ _ _ _ hk)
  simp only
  split
  · exact State.memWf_collect h _ (fun u _ hu => State.memWf_storeOn hu ty clr k hk)
  · split
    · exact h
    · exact go s h

/-- An operation of another place keeps the memories when its effect does. -/
theorem State.memWf_remote {s : State} (h : s.memWf = true) (ops : List Nat) (k : State → List Nat → Res)
    (hk : ∀ (u : State) (l : List Nat), u.memWf = true → (k u l).state.memWf = true) : (s.remote ops k).state.memWf = true := by
  unfold State.remote
  split
  · exact hk s _ h
  · exact State.memWf_sent h _ _ _

@[simp] theorem State.memWf_mark {s : State} (h : s.memWf = true) (step : Nat) : (s.mark step).memWf = true := State.memWf_modMe h _

theorem State.memWf_releaseEnd {s : State} (h : s.memWf = true) (sc : Scope) (k : State → Res)
    (hk : ∀ u : State, u.memWf = true → (k u).state.memWf = true) : (s.releaseEnd sc k).state.memWf = true := by
  unfold State.releaseEnd
  simp only
  split
  · exact h
  · split
    · exact h
    · exact hk _ (State.memWf_mark h _)

/-- A release keeps the memories when what follows it does. -/
theorem State.memWf_release {s : State} (h : s.memWf = true) (sc : Scope) (k : State → Res)
    (hk : ∀ u : State, u.memWf = true → (k u).state.memWf = true) : (s.release sc k).state.memWf = true := by
  unfold State.release
  split
  · exact hk s h
  · split
    · exact State.memWf_releaseEnd h sc k hk
    · have h1 : (if s.me.phase.step = 0 then s.mark 1 else s).memWf = true := by split <;> simp [h]
      generalize (if s.me.phase.step = 0 then s.mark 1 else s) = u at h1
      simp only
      split
      · exact h1
      · exact State.memWf_releaseEnd (State.memWf_mark (State.memWf_releaseLines h1 _ _) _) sc k hk

theorem State.memWf_releaseIf {s : State} (h : s.memWf = true) (kind : FenceKind) (sc : Scope) (k : State → Res)
    (hk : ∀ u : State, u.memWf = true → (k u).state.memWf = true) : (s.releaseIf kind sc k).state.memWf = true := by
  unfold State.releaseIf
  split
  · exact State.memWf_release h sc k hk
  · exact State.memWf_release h sc k hk
  · exact hk s h

@[simp] theorem State.memWf_acquireIf {s : State} (h : s.memWf = true) (kind : FenceKind) (sc : Scope) : (s.acquireIf kind sc).memWf = true := by
  unfold State.acquireIf
  split <;> simp [h]

@[simp] theorem State.memWf_atomUnit {s : State} (h : s.memWf = true) (a : At) (sc : Scope) (op : AtomOp) : (s.atomUnit a sc op).memWf = true := by
  unfold State.atomUnit
  simp only
  split
  · rw [State.memWf_readStep]
    refine State.memWf_instant ?_ _ _
    split
    · exact State.memWf_ownApply h _ _ _ _
    · exact State.memWf_modCore (State.memWf_ownApply h _ _ _ _) _ _ (fun _ hk => Core.wf_storeWrite hk _)
  · exact h
  · exact h
  · exact h
  · exact State.memWf_instant (State.memWf_fwWrite h _ (Mem.wf_writeCells _ _ (State.fwMem_wf h))) _ _
  · exact h
  · split
    · exact State.memWf_modMe (State.memWf_sendDomain (State.memWf_instant h _ _) _ _ _) _
    · exact State.memWf_sendDomain h _ _ _
  · exact h
  · split
    · exact h
    · rename_i pa _
      have h1 : (s.reserve.applyStores s.cur.1 s.cur.2 (pa / 64)).memWf = true := State.memWf_applyStores (s := s.reserve) h _ _ _
      generalize s.reserve.applyStores s.cur.1 s.cur.2 (pa / 64) = u at h1
      split
      · split
        · exact h1
        · split
          · exact State.memWf_instantAs h1 _ _ _
          · refine State.memWf_updateLine ?_ _ _ _ _ _
            split
            · exact State.memWf_instantAs h1 _ _ _
            · exact State.memWf_instantAs h1 _ _ _
      · exact h

@[simp] theorem State.memWf_narrowAt {s : State} (h : s.memWf = true) (a : At) (sc : Scope) : (s.narrowAt a sc).memWf = true := by
  unfold State.narrowAt
  split <;> simp [h]

/-- An atomic keeps the memories when what is done with the old value does. -/
theorem State.memWf_atom {s : State} (h : s.memWf = true) (ea : Word) (op : AtomOp) (sc : Scope) (kind : FenceKind) (k : State → Nat → Res)
    (hk : ∀ (u : State) (n : Nat), u.memWf = true → (k u n).state.memWf = true) : (s.atom ea op sc kind k).state.memWf = true := by
  unfold State.atom
  simp only
  split
  · exact State.memWf_collect h _ (fun u _ hu => hk _ _ (State.memWf_acquireIf hu _ _))
  · refine State.memWf_checked' h _ _ _ (fun u ps hu => ?_)
    split
    · exact hu
    · split
      · exact hu
      · refine State.memWf_releaseIf hu _ _ _ (fun v hv => ?_)
        split
        · exact hv
        · exact State.memWf_collect (State.memWf_sent (State.memWf_atomUnit (State.memWf_narrowAt hv _ _) _ _ _) _ _ _) _
            (fun w _ hw => hk _ _ (State.memWf_acquireIf hw _ _))

theorem State.memWf_loadAcq {s : State} (h : s.memWf = true) (ea : Word) (n : Nat) (sc : Scope) (k : State → List Reply → Res)
    (hk : ∀ (u : State) (rs : List Reply), u.memWf = true → (k u rs).state.memWf = true) : (s.loadAcq ea n sc k).state.memWf = true := by
  unfold State.loadAcq
  simp only
  split
  · exact State.memWf_collect h _ (fun u _ hu => hk _ _ (State.memWf_acquire hu _ _))
  · refine State.memWf_checked' h _ _ _ (fun u ps hu => ?_)
    split
    · exact hu
    · split
      · exact hu
      · exact State.memWf_collect (State.memWf_sent (State.memWf_readUnit (State.memWf_narrowAt hu _ _) _ _ _) _ _ _) _
          (fun w _ hw => hk _ _ (State.memWf_acquire hw _ _))

theorem State.memWf_storeRel {s : State} (h : s.memWf = true) (ea : Word) (bs : List Byte) (sc : Scope) (k : State → Res)
    (hk : ∀ u : State, u.memWf = true → (k u).state.memWf = true) : (s.storeRel ea bs sc k).state.memWf = true := by
  unfold State.storeRel
  split
  · exact State.memWf_collect h _ (fun u _ hu => hk u hu)
  · split
    · exact h
    · refine State.memWf_checked' h _ _ _ (fun u ps hu => ?_)
      split
      · exact hu
      · split
        · exact hu
        · refine State.memWf_release hu _ _ (fun v hv => ?_)
          split
          · exact hv
          · simp only
            split
            · exact State.memWf_collect (State.memWf_sent (s := State.sendTile _ _ _ _ _) (State.memWf_narrowAt hv _ _) _ _ _) _
                (fun w _ hw => hk w hw)
            · exact hk _ (State.memWf_writeUnit (State.memWf_narrowAt hv _ _) _ _ _ _)

end Sys2Proof.Machine
end

