-- ==== Sys2Proof/Laws/Run.lean ====
section
/-!
SUPPORT. What the wrapper of Operands.lean does with an instruction whose effect writes registers: one lemma per write, one for the
consumed registers, one for completion.
-/

namespace Sys2Proof.Machine

/-! ### An effect before the instruction ends -/

/-- `u` is `s` with the effect `e` written, and nothing else. -/
structure Applied (s u : State) (e : Effect) : Prop where
  device : { u with cores := s.cores } = s
  cores : ∀ c, c ≠ s.cur.1 → u.core c = s.core c
  ctxs : ∀ y, y ≠ s.cur.2 → u.ctx s.cur.1 y = s.ctx s.cur.1 y
  core : u.myCore.rest = s.myCore.rest
  spend : u.myCore.spend = s.spendAfter e.g
  rest : u.me.rest = s.me.rest
  events : u.me.events = s.me.events
  fpflags : u.me.fpflags = s.me.fpflags ||| w64 e.flags
  g : ∀ n, u.gval n = s.gAfter [] e.g n
  f : ∀ n, u.fAt n = s.fAfter [] e.f n
  p : ∀ r, u.p r = if r = 0 then true else after e.p r (s.p r)
  v : ∀ r, u.v r = after e.v r (s.v r)
  q : ∀ r, u.q r = after e.q r (s.q r)

theorem cur_of_device {s u : State} (h : { u with cores := s.cores } = s) : u.cur = s.cur := by
  have := congrArg State.cur h; simpa using this

theorem gval_zero (s : State) : s.gval 0 = GVal.zero := rfl
theorem p_zero (s : State) : s.p 0 = true := rfl

@[simp] theorem after_none {ρ α : Type} [BEq ρ] (r : ρ) (old : α) : after (none : Option (ρ × α)) r old = old := rfl

theorem gAfter_nil (s : State) (n : Nat) : s.gAfter [] [] n = s.gval n := by
  unfold State.gAfter
  split
  · next h => subst h; rfl
  · simp [consumes]

@[simp] theorem consumes_nil (k : Bool × Nat) : consumes [] k = false := rfl

theorem Applied.refl (s : State) : Applied s s {} where
  device := rfl
  cores := fun _ _ => rfl
  ctxs := fun _ _ => rfl
  core := rfl
  spend := by simp [State.spendAfter]
  rest := rfl
  events := rfl
  fpflags := by simp [w64]
  g := fun n => (gAfter_nil s n).symm
  f := fun n => by simp [State.fAfter]
  p := fun r => by
    split
    · next h => subst h; rfl
    · simp
  v := fun r => by simp
  q := fun r => by simp

/-- One more write to a g-class register. -/
theorem gAfter_snoc (s : State) (ds : List (GReg × Word)) (d : GReg) (v : Word) (n : Nat) :
    s.gAfter [] (ds ++ [(d, v)]) n =
      if n = 0 then GVal.zero else if d.num.toNat = n ∧ GReg.now d = true then ⟨v, true⟩ else s.gAfter [] ds n := by
  unfold State.gAfter
  by_cases h : n = 0
  · simp [h]
  · simp only [h, if_false, List.reverse_append, List.reverse_cons, List.reverse_nil, List.nil_append, List.cons_append,
      List.find?_cons]
    by_cases h2 : d.num.toNat = n ∧ GReg.now d = true
    · simp [h2]
    · have : (d.num.toNat == n && GReg.now d) = false := by
        by_contra hc
        simp only [Bool.not_eq_false, Bool.and_eq_true, beq_iff_eq] at hc
        exact h2 hc
      simp [this, h2]

/-! ### Updates of the issuing core and context -/

theorem State.me_modMyCore (u : State) (f : Core → Core) (h : ∀ k, (f k).ctxs = k.ctxs) : (u.modMyCore f).me = u.me := by
  simp [State.me, State.modMyCore, State.ctx, Core.ctx, h]

theorem State.ctx_modMyCore (u : State) (f : Core → Core) (h : ∀ k, (f k).ctxs = k.ctxs) (c y : Nat) :
    (u.modMyCore f).ctx c y = u.ctx c y := by
  by_cases hc : c = u.cur.1
  · subst hc; simp [State.modMyCore, State.ctx, Core.ctx, h]
  · simp [State.ctx, State.core_modMyCore_ne, hc]

@[simp] theorem Core.rest_setCtx (k : Core) (x : Nat) (t : Ctx) : (k.setCtx x t).rest = k.rest := rfl

theorem device_modMe {s u : State} (f : Ctx → Ctx) (h : { u with cores := s.cores } = s) : { u.modMe f with cores := s.cores } = s := h
theorem device_modMyCore {s u : State} (f : Core → Core) (h : { u with cores := s.cores } = s) :
    { u.modMyCore f with cores := s.cores } = s := h

/-- An update of the issuing context's registers leaves the rest. -/
theorem Applied.modMe {s u : State} {e e' : Effect} (h : Applied s u e) (f : Ctx → Ctx) (hg : e'.g = e.g)
    (hr : (f u.me).rest = u.me.rest) (he : (f u.me).events = u.me.events)
    (hfl : (f u.me).fpflags = s.me.fpflags ||| w64 e'.flags)
    (h1 : ∀ n, n ≠ 0 → n < 32 → tget GVal.zero (f u.me).g n = tget GVal.zero u.me.g n)
    (h2 : ∀ n, tget FVal.zero (f u.me).f n = s.fAfter [] e'.f n)
    (h3 : ∀ r : PReg, r ≠ 0 → (f u.me).p.getLsbD r.toNat = after e'.p r (s.p r))
    (h4 : ∀ r : VReg, tget VVal.zero (f u.me).v r.toNat = after e'.v r (s.v r))
    (h5 : ∀ r : QReg, tget 0 (f u.me).q r.toNat = after e'.q r (s.q r)) : Applied s (u.modMe f) e' where
  device := device_modMe f h.device
  cores := fun c hc => by
    have hcur := cur_of_device h.device
    rw [State.core_modMe_ne _ _ _ (by rw [hcur]; exact hc)]; exact h.cores c hc
  ctxs := fun y hy => by
    have hcur := cur_of_device h.device
    rw [State.ctx_modMe_ne _ _ _ _ (Or.inr (by rw [hcur]; exact hy))]; exact h.ctxs y hy
  core := by simp [h.core]
  spend := by simp [h.spend, State.spendAfter, hg]
  rest := by simp [hr, h.rest]
  events := by simp [he, h.events]
  fpflags := by simp [hfl]
  g := fun n => by
    rw [hg, ← h.g n]
    simp only [State.gval, State.me_modMe]
    split
    · rfl
    · next hn =>
      split
      · next hl => exact h1 n hn hl
      · simp
  f := fun n => by simp [State.fAt, h2]
  p := fun r => by
    split
    · next hr => subst hr; rfl
    · next hr => rw [← h3 r hr]; simp [State.p]; intro h0; exact absurd h0 hr
  v := fun r => by simp [State.v, h4]
  q := fun r => by have := h5 r; simpa [State.q] using this

/-- Writing a g-class destination. -/
theorem Applied.putG {s u : State} {e : Effect} (h : Applied s u e) (d : GReg) (v : Word) :
    Applied s (u.putG d v) { e with g := e.g ++ [(d, v)] } := by
  have hcur := cur_of_device h.device
  unfold State.putG
  split
  · next h0 =>
    have h0' : d.num.toNat = 0 := by simp [h0]
    have hnow : GReg.now d = true := by simp [GReg.now, h0']
    exact { h with
      spend := by rw [h.spend]; simp [State.spendAfter, hnow]
      g := fun n => by
        rw [h.g n, gAfter_snoc]
        by_cases hn : n = 0
        · subst hn; simp [State.gAfter]
        · rw [if_neg hn, if_neg (by rintro ⟨hh, -⟩; omega)] }
  · next h0 =>
    have h0' : d.num.toNat ≠ 0 := fun hh => h0 (by apply BitVec.eq_of_toNat_eq; simpa using hh)
    split
    · next hl =>
      have hnow : GReg.now d = true := by simp [GReg.now, hl]
      exact {
        device := device_modMe _ h.device
        cores := fun c hc => by rw [State.core_modMe_ne _ _ _ (by rw [hcur]; exact hc)]; exact h.cores c hc
        ctxs := fun y hy => by rw [State.ctx_modMe_ne _ _ _ _ (Or.inr (by rw [hcur]; exact hy))]; exact h.ctxs y hy
        core := by simp [h.core]
        spend := by simp [h.spend, State.spendAfter, hnow]
        rest := by rw [← h.rest]; simp [Ctx.rest]
        events := by simp [h.events]
        fpflags := by simp [h.fpflags]
        g := fun n => by
          rw [gAfter_snoc, ← h.g n]
          simp only [State.gval, State.me_modMe, tget_tput]
          by_cases hn : n = 0
          · simp [hn]
          · by_cases h32 : n < 32
            · by_cases hd : n = d.num.toNat
              · simp [hd, h0', hl, hnow]
              · have : ¬ (d.num.toNat = n ∧ GReg.now d = true) := fun hh => hd hh.1.symm
                simp [hn, h32, hd, this]
            · have : ¬ (d.num.toNat = n ∧ GReg.now d = true) := fun hh => by omega
              simp [hn, h32, this]
        f := fun n => by have := h.f n; simpa [State.fAt] using this
        p := fun r => by have := h.p r; simpa [State.p] using this
        v := fun r => by have := h.v r; simpa [State.v] using this
        q := fun r => by have := h.q r; simpa [State.q] using this }
    · next hl =>
      split
      · next hm =>
        have hnow : GReg.now d = true := by simp [GReg.now, hm]
        have hk : ∀ k : Core, ({ k with s := tput k.s (d.num.toNat - 32) ⟨v, true⟩ } : Core).ctxs = k.ctxs := fun _ => rfl
        exact {
          device := device_modMyCore _ h.device
          cores := fun c hc => by rw [State.core_modMyCore_ne _ _ _ (by rw [hcur]; exact hc)]; exact h.cores c hc
          ctxs := fun y hy => by rw [State.ctx_modMyCore _ _ hk]; exact h.ctxs y hy
          core := by rw [← h.core]; simp [Core.rest]
          spend := by simp [h.spend, State.spendAfter, hnow]
          rest := by rw [State.me_modMyCore _ _ hk, h.rest]
          events := by rw [State.me_modMyCore _ _ hk, h.events]
          fpflags := by rw [State.me_modMyCore _ _ hk, h.fpflags]
          g := fun n => by
            rw [gAfter_snoc, ← h.g n]
            simp only [State.gval, State.me_modMyCore _ _ hk, State.myCore_modMyCore, tget_tput]
            by_cases hn : n = 0
            · simp [hn]
            · by_cases h32 : n < 32
              · have : ¬ (d.num.toNat = n ∧ GReg.now d = true) := fun hh => by omega
                simp [hn, h32, this]
              · by_cases hd : n = d.num.toNat
                · simp [hd, h0', hl, hnow]
                · have : ¬ (d.num.toNat = n ∧ GReg.now d = true) := fun hh => hd hh.1.symm
                  have h3 : ¬ (n - 32 = d.num.toNat - 32) := by omega
                  simp [hn, h32, h3, this]
          f := fun n => by have := h.f n; simpa [State.fAt, State.me_modMyCore _ _ hk] using this
          p := fun r => by have := h.p r; simpa [State.p, State.me_modMyCore _ _ hk] using this
          v := fun r => by have := h.v r; simpa [State.v, State.me_modMyCore _ _ hk] using this
          q := fun r => by have := h.q r; simpa [State.q, State.me_modMyCore _ _ hk] using this }
      · next hm =>
        have hnow : GReg.now d = false := by simp [GReg.now, hl, hm]
        have hk : ∀ k : Core, ({ k with spend := k.spend ++ [⟨d.num.toNat - 32, v, k.cycle + 5⟩] } : Core).ctxs = k.ctxs := fun _ => rfl
        have hcy : u.myCore.cycle = s.myCore.cycle := by have := congrArg Core.cycle h.core; simpa [Core.rest] using this
        exact {
          device := device_modMyCore _ h.device
          cores := fun c hc => by rw [State.core_modMyCore_ne _ _ _ (by rw [hcur]; exact hc)]; exact h.cores c hc
          ctxs := fun y hy => by rw [State.ctx_modMyCore _ _ hk]; exact h.ctxs y hy
          core := by rw [← h.core]; simp [Core.rest]
          spend := by simp [h.spend, State.spendAfter, hnow, hcy]
          rest := by rw [State.me_modMyCore _ _ hk, h.rest]
          events := by rw [State.me_modMyCore _ _ hk, h.events]
          fpflags := by rw [State.me_modMyCore _ _ hk, h.fpflags]
          g := fun n => by
            rw [gAfter_snoc, ← h.g n]
            have : ¬ (d.num.toNat = n ∧ GReg.now d = true) := fun hh => by simp [hnow] at hh
            simp only [State.gval, State.me_modMyCore _ _ hk, State.myCore_modMyCore, this, if_false]
            by_cases hn : n = 0
            · simp [hn]
            · simp [hn]
          f := fun n => by have := h.f n; simpa [State.fAt, State.me_modMyCore _ _ hk] using this
          p := fun r => by have := h.p r; simpa [State.p, State.me_modMyCore _ _ hk] using this
          v := fun r => by have := h.v r; simpa [State.v, State.me_modMyCore _ _ hk] using this
          q := fun r => by have := h.q r; simpa [State.q, State.me_modMyCore _ _ hk] using this }

theorem Applied.fget {s u : State} {e : Effect} (h : Applied s u e) (n : Nat) : tget FVal.zero u.me.f n = s.fAfter [] e.f n := h.f n
theorem Applied.pget {s u : State} {e : Effect} (h : Applied s u e) (r : PReg) (hr : r ≠ 0) :
    u.me.p.getLsbD r.toNat = after e.p r (s.p r) := by
  have := h.p r
  rw [if_neg hr] at this
  rw [← this]
  have h0 : (r == 0) = false := by simpa using hr
  simp [State.p]
  intro hh
  exact absurd hh hr

theorem fAfter_none (s : State) (n : Nat) : s.fAfter [] none n = s.fAt n := rfl

/-- Writing an f destination. -/
theorem Applied.putF {s u : State} {e : Effect} (h : Applied s u e) (he : e.f = none) (d : FReg) (v : Word) (c : Nat) :
    Applied s (u.putF d v c) { e with f := some (d, v, c) } := by
  refine h.modMe _ rfl rfl rfl h.fpflags (fun _ _ _ => rfl) (fun n => ?_) h.pget h.v h.q
  have hn := h.fget n
  rw [he, fAfter_none] at hn
  simp only [tget_tput, hn, State.fAfter, Option.filter]
  by_cases hd : n = d.num.toNat
  · simp [hd]
  · have : (d.num.toNat == n) = false := by simpa using fun hh => hd hh.symm
    simp [hd, this]

/-- Writing a v register. -/
theorem Applied.putV {s u : State} {e : Effect} (h : Applied s u e) (he : e.v = none) (d : VReg) (v : VVal) :
    Applied s (u.putV d v) { e with v := some (d, v) } := by
  refine h.modMe _ rfl rfl rfl h.fpflags (fun _ _ _ => rfl) h.f h.pget (fun r => ?_) h.q
  have hr := h.v r
  rw [he, after_none] at hr
  simp only [tget_tput, after, Option.filter]
  by_cases hd : r = d
  · simp [hd]
  · have h1 : (d == r) = false := by simpa using fun hh => hd hh.symm
    have h2 : ¬ r.toNat = d.toNat := fun hh => hd (BitVec.eq_of_toNat_eq hh)
    simp only [h1, h2, if_false]
    simpa [State.v] using hr

/-- Writing a q register. -/
theorem Applied.putQ {s u : State} {e : Effect} (h : Applied s u e) (he : e.q = none) (d : QReg) (v : BitVec 32) :
    Applied s (u.putQ d v) { e with q := some (d, v) } := by
  refine h.modMe _ rfl rfl rfl h.fpflags (fun _ _ _ => rfl) h.f h.pget h.v (fun r => ?_)
  have hr := h.q r
  rw [he, after_none] at hr
  simp only [tget_tput, after, Option.filter]
  by_cases hd : r = d
  · simp [hd]
  · have h1 : (d == r) = false := by simpa using fun hh => hd hh.symm
    have h2 : ¬ r.toNat = d.toNat := fun hh => hd (BitVec.eq_of_toNat_eq hh)
    simp only [h1, h2, if_false]
    simpa [State.q] using hr

/-- Adding flags. -/
theorem Applied.orFlags {s u : State} {e : Effect} (h : Applied s u e) (he : e.flags = 0) (fl : Nat) :
    Applied s (u.orFlags fl) { e with flags := fl } := by
  have hf := h.fpflags
  rw [he] at hf
  refine h.modMe _ rfl rfl rfl ?_ (fun _ _ _ => rfl) h.f h.pget h.v h.q
  simp [hf, w64]

/-- A bit of eight set or cleared. -/
theorem pbit (p : BitVec 8) (k : Nat) (hk : k < 8) (b : Bool) (j : Nat) (hj : j < 8) :
    (BitVec.ofNat 8 (if b then p.toNat ||| 2 ^ k else p.toNat &&& (255 - 2 ^ k))).getLsbD j = if j = k then b else p.getLsbD j := by
  cases b
  · simp only [Bool.false_eq_true, if_false, BitVec.getLsbD_ofNat, Nat.testBit_and, hj, decide_true, Bool.true_and]
    have : (255 - 2 ^ k).testBit j = decide (j ≠ k) := by
      have : ∀ k : Fin 8, ∀ j : Fin 8, (255 - 2 ^ k.val).testBit j.val = decide (j.val ≠ k.val) := by decide
      exact this ⟨k, hk⟩ ⟨j, hj⟩
    rw [this]
    by_cases h : j = k <;> simp [h, BitVec.getLsbD]
  · simp only [if_true, BitVec.getLsbD_ofNat, Nat.testBit_or, hj, decide_true, Bool.true_and, Nat.testBit_two_pow]
    by_cases h : j = k
    · simp [h]
    · have : ¬ k = j := fun hh => h hh.symm
      simp [h, this, BitVec.getLsbD]

/-- Writing a predicate. -/
theorem Applied.putP {s u : State} {e : Effect} (h : Applied s u e) (he : e.p = none) (d : PReg) (b : Bool) :
    Applied s (u.putP d b) { e with p := some (d, b) } := by
  unfold State.putP
  split
  · next h0 =>
    exact { h with
      p := fun r => by
        have := h.p r
        rw [he] at this
        rw [this]
        split
        · rfl
        · next hr =>
          have : (d == r) = false := by subst h0; simpa using fun hh => hr hh.symm
          simp [after, Option.filter, this] }
  · next h0 =>
    refine h.modMe _ rfl rfl rfl h.fpflags (fun _ _ _ => rfl) h.f (fun r hr => ?_) h.v h.q
    have hp := h.pget r hr
    rw [he, after_none] at hp
    rw [pbit _ _ d.isLt _ _ r.isLt, hp]
    simp only [after, Option.filter]
    by_cases hd : r = d
    · simp [hd]
    · have h1 : (d == r) = false := by simpa using fun hh => hd hh.symm
      have h2 : ¬ r.toNat = d.toNat := fun hh => hd (BitVec.eq_of_toNat_eq hh)
      simp [h1, h2]

/-! ### Consumed registers (R29) -/

/-- `w` is `u` with the g registers of `gs` and the f registers of `fs` set empty. -/
structure Emptied (u w : State) (gs fs : Nat → Bool) : Prop where
  device : { w with cores := u.cores } = u
  cores : ∀ c, c ≠ u.cur.1 → w.core c = u.core c
  ctxs : ∀ y, y ≠ u.cur.2 → w.ctx u.cur.1 y = u.ctx u.cur.1 y
  core : w.myCore.rest = u.myCore.rest
  spend : w.myCore.spend = u.myCore.spend
  rest : w.me.rest = u.me.rest
  events : w.me.events = u.me.events
  fpflags : w.me.fpflags = u.me.fpflags
  g : ∀ n, w.gval n = if n ≠ 0 ∧ gs n = true then ⟨(u.gval n).val, false⟩ else u.gval n
  f : ∀ n, w.fAt n = if fs n = true then { u.fAt n with full := false } else u.fAt n
  p : ∀ r, w.p r = u.p r
  v : ∀ r, w.v r = u.v r
  q : ∀ r, w.q r = u.q r

theorem Emptied.refl (u : State) : Emptied u u (fun _ => false) (fun _ => false) where
  device := rfl
  cores := fun _ _ => rfl
  ctxs := fun _ _ => rfl
  core := rfl
  spend := rfl
  rest := rfl
  events := rfl
  fpflags := rfl
  g := fun n => by simp
  f := fun n => by simp
  p := fun _ => rfl
  v := fun _ => rfl
  q := fun _ => rfl

theorem Emptied.setFullF {u w : State} {gs fs : Nat → Bool} (h : Emptied u w gs fs) (k : Nat) :
    Emptied u (w.setFullF k false) gs (fun n => fs n || decide (n = k)) where
  device := device_modMe _ h.device
  cores := fun c hc => by
    have hcur := cur_of_device h.device
    rw [State.setFullF, State.core_modMe_ne _ _ _ (by rw [hcur]; exact hc)]; exact h.cores c hc
  ctxs := fun y hy => by
    have hcur := cur_of_device h.device
    rw [State.setFullF, State.ctx_modMe_ne _ _ _ _ (Or.inr (by rw [hcur]; exact hy))]; exact h.ctxs y hy
  core := by rw [State.setFullF]; simp [h.core]
  spend := by rw [State.setFullF]; simp [h.spend]
  rest := by rw [State.setFullF, ← h.rest]; simp [Ctx.rest]
  events := by rw [State.setFullF]; simp [h.events]
  fpflags := by rw [State.setFullF]; simp [h.fpflags]
  g := fun n => by
    rw [← h.g n, State.setFullF]
    simp [State.gval]
  f := fun n => by
    have hn := h.f n
    simp only [State.fAt] at hn
    simp only [State.fAt, State.setFullF, State.me_modMe, tget_tput, hn]
    by_cases hk : n = k
    · subst hk; simp only [hn]; by_cases hf : fs n = true <;> simp [hf]
    · simp [hk]
  p := fun r => by rw [← h.p r, State.setFullF]; simp [State.p]
  v := fun r => by rw [← h.v r, State.setFullF]; simp [State.v]
  q := fun r => by rw [← h.q r, State.setFullF]; simp [State.q]

theorem Emptied.setFullG {u w : State} {gs fs : Nat → Bool} (h : Emptied u w gs fs) (k : Nat) :
    Emptied u (w.setFullG k false) (fun n => gs n || decide (n = k)) fs := by
  have hcur := cur_of_device h.device
  unfold State.setFullG
  split
  · next h0 =>
    exact { h with
      g := fun n => by
        rw [h.g n]
        by_cases hn : n = 0
        · simp [hn]
        · have : ¬ n = k := by omega
          simp [hn, this] }
  · next h0 =>
    split
    · next hl =>
      exact {
        device := device_modMe _ h.device
        cores := fun c hc => by rw [State.core_modMe_ne _ _ _ (by rw [hcur]; exact hc)]; exact h.cores c hc
        ctxs := fun y hy => by rw [State.ctx_modMe_ne _ _ _ _ (Or.inr (by rw [hcur]; exact hy))]; exact h.ctxs y hy
        core := by simp [h.core]
        spend := by simp [h.spend]
        rest := by rw [← h.rest]; simp [Ctx.rest]
        events := by simp [h.events]
        fpflags := by simp [h.fpflags]
        g := fun n => by
          have hn := h.g n
          simp only [State.gval] at hn
          simp only [State.gval, State.me_modMe, State.myCore_modMe, Core.setCtx_s, tget_tput]
          by_cases hn0 : n = 0
          · simp [hn0]
          · by_cases hn32 : n < 32
            · simp only [hn0, hn32, if_true, if_false] at hn ⊢
              by_cases hk : n = k
              · subst hk
                simp only [hn]
                by_cases hg : gs n = true <;> simp [hg, hn0]
              · simp [hn, hk]
            · have hk : ¬ n = k := by omega
              simp only [hn0, hn32, if_false] at hn ⊢
              simp [hn, hk]
        f := fun n => by have := h.f n; simpa [State.fAt] using this
        p := fun r => by rw [← h.p r]; simp [State.p]
        v := fun r => by rw [← h.v r]; simp [State.v]
        q := fun r => by rw [← h.q r]; simp [State.q] }
    · next hl =>
      have hk : ∀ c : Core, ({ c with s := tput c.s (k - 32) ⟨(tget GVal.zero c.s (k - 32)).val, false⟩ } : Core).ctxs = c.ctxs :=
        fun _ => rfl
      exact {
        device := device_modMyCore _ h.device
        cores := fun c hc => by rw [State.core_modMyCore_ne _ _ _ (by rw [hcur]; exact hc)]; exact h.cores c hc
        ctxs := fun y hy => by rw [State.ctx_modMyCore _ _ hk]; exact h.ctxs y hy
        core := by rw [← h.core]; simp [Core.rest]
        spend := by simp [h.spend]
        rest := by rw [State.me_modMyCore _ _ hk, h.rest]
        events := by rw [State.me_modMyCore _ _ hk, h.events]
        fpflags := by rw [State.me_modMyCore _ _ hk, h.fpflags]
        g := fun n => by
          have hn := h.g n
          simp only [State.gval] at hn
          simp only [State.gval, State.me_modMyCore _ _ hk, State.myCore_modMyCore, tget_tput]
          by_cases hn0 : n = 0
          · simp [hn0]
          · by_cases hn32 : n < 32
            · have hk2 : ¬ n = k := by omega
              simp only [hn0, hn32, if_true, if_false] at hn ⊢
              simp [hn, hk2]
            · simp only [hn0, hn32, if_false] at hn ⊢
              by_cases hk2 : n = k
              · subst hk2
                simp only [hn]
                by_cases hg : gs n = true <;> simp [hg, hn0]
              · have hk3 : ¬ n - 32 = k - 32 := by omega
                simp [hn, hk2, hk3]
        f := fun n => by have := h.f n; simpa [State.fAt, State.me_modMyCore _ _ hk] using this
        p := fun r => by rw [← h.p r]; simp [State.p, State.me_modMyCore _ _ hk]
        v := fun r => by rw [← h.v r]; simp [State.v, State.me_modMyCore _ _ hk]
        q := fun r => by rw [← h.q r]; simp [State.q, State.me_modMyCore _ _ hk] }

/-- Whether an operand of a list empties a register. -/
def empties (os l : List Opnd) (k : Bool × Nat) : Bool := l.any (fun o => o.md == .consume && o.key == k) && !refills os k

theorem Emptied.congr {u w : State} {gs gs' fs fs' : Nat → Bool} (h : Emptied u w gs fs) (hg : ∀ n, gs n = gs' n)
    (hf : ∀ n, fs n = fs' n) : Emptied u w gs' fs' := by
  have e1 : gs = gs' := funext hg
  have e2 : fs = fs' := funext hf
  subst e1 e2
  exact h

theorem key_beq {k : Bool × Nat} {b : Bool} {n : Nat} (h : k.1 = b) : (k == (b, n)) = decide (n = k.2) := by
  obtain ⟨a, m⟩ := k
  simp only at h
  subst h
  by_cases hn : n = m
  · simp [hn]
  · have : ¬ m = n := fun hh => hn hh.symm
    simp [hn, this]

theorem consumeFold (os l : List Opnd) (u w : State) (gs fs : Nat → Bool) (h : Emptied u w gs fs) :
    Emptied u (l.foldl (fun s o =>
      if o.md == .consume && !refills os o.key then
        (if o.key.1 then s.setFullF o.key.2 false else s.setFullG o.key.2 false)
      else s) w) (fun n => gs n || empties os l (false, n)) (fun n => fs n || empties os l (true, n)) := by
  induction l generalizing w gs fs with
  | nil => simpa [empties] using h
  | cons o l ih =>
    simp only [List.foldl_cons]
    have hcons : ∀ k, empties os (o :: l) k = ((o.md == .consume && o.key == k && !refills os k) || empties os l k) := by
      intro k
      simp only [empties, List.any_cons]
      generalize (o.md == Md.consume) = a
      generalize (o.key == k) = b
      generalize (l.any fun o => o.md == Md.consume && o.key == k) = c
      generalize refills os k = d
      revert a b c d
      decide
    by_cases hc : (o.md == .consume && !refills os o.key) = true
    · rw [if_pos hc]
      obtain ⟨hm, hr⟩ := by simpa using hc
      by_cases hk : o.key.1 = true
      · rw [if_pos hk]
        refine (ih _ _ _ (h.setFullF o.key.2)).congr (fun n => ?_) (fun n => ?_)
        · rw [hcons]
          have : (o.key == (false, n)) = false := by
            apply beq_false_of_ne; intro hh; rw [hh] at hk; simp at hk
          simp [this]
        · rw [hcons, key_beq hk, Bool.or_assoc]
          by_cases hn : n = o.key.2
          · have : (true, n) = o.key := by rw [hn, ← hk]
            simp only [hn, hm, beq_self_eq_true, Bool.true_and, decide_true, Bool.or_eq_true, Bool.or_true, Bool.true_or, Bool.not_eq_true']
            rw [← hn, this, hr]
            simp
          · simp [hn]
      · rw [if_neg hk]
        have hk' : o.key.1 = false := by simpa using hk
        refine (ih _ _ _ (h.setFullG o.key.2)).congr (fun n => ?_) (fun n => ?_)
        · rw [hcons, key_beq hk', Bool.or_assoc]
          by_cases hn : n = o.key.2
          · have : (false, n) = o.key := by rw [hn, ← hk']
            simp only [hn, hm, beq_self_eq_true, Bool.true_and, decide_true, Bool.or_eq_true, Bool.or_true, Bool.true_or, Bool.not_eq_true']
            rw [← hn, this, hr]
            simp
          · simp [hn]
        · rw [hcons]
          have : (o.key == (true, n)) = false := by
            apply beq_false_of_ne; intro hh; rw [hh] at hk'; simp at hk'
          simp [this]
    · rw [if_neg hc]
      refine (ih _ _ _ h).congr (fun n => ?_) (fun n => ?_)
      all_goals
        rw [hcons]
        congr 1
        have : ∀ k, (o.md == .consume && o.key == k && !refills os k) = false := by
          intro k
          by_contra hh
          simp only [Bool.not_eq_false, Bool.and_eq_true, beq_iff_eq] at hh
          apply hc
          rw [hh.1.2]
          simp only [Bool.and_eq_true, beq_iff_eq]
          exact ⟨hh.1.1, hh.2⟩
        simp [this]

/-- The consumed registers are empty after, and nothing else is changed. -/
theorem consumeAll_emptied (u : State) (os : List Opnd) :
    Emptied u (u.consumeAll os) (fun n => empties os os (false, n)) (fun n => empties os os (true, n)) :=
  (consumeFold os os u u _ _ (Emptied.refl u)).congr (fun n => by simp) (fun n => by simp)

/-! ### Completion -/

/-- An event of the issuing context. -/
theorem post_me (s : State) (e : Ev) :
    s.post s.cur.1 s.cur.2 e = if s.me.live then s.modMe (fun t => { t with events := t.events ++ [e] }) else s := by
  unfold State.post
  show (if (!s.me.live) = true then _ else _) = _
  cases s.me.live <;> rfl

/-- The end of an instruction: settled, and the single-step event. -/
theorem complete_eq (s0 s : State) (pc : Word) :
    s0.complete s pc =
      if s.me.live && (s0.me.level == .l0 && bit s0.me.dbgctl 0) then
        s.modMe (fun t => { t.settle pc with events := t.events ++ [.plain Cause.singleStep s0.me.pc 0] })
      else s.modMe (fun t => t.settle pc) := by
  have hp := post_me (s.modMe (fun t => t.settle pc)) (.plain Cause.singleStep s0.me.pc 0)
  have hc : (s.modMe (fun t => t.settle pc)).cur = s.cur := rfl
  rw [hc] at hp
  have hl : (s.modMe (fun t => t.settle pc)).me.live = s.me.live := by simp [Ctx.live]
  unfold State.complete
  simp only [hc, hp, hl]
  cases (s0.me.level == .l0 && bit s0.me.dbgctl 0) <;> cases s.me.live <;> simp

/-- AN EFFECT THAT WRITES REGISTERS COMPLETES: the consumed registers empty, the rest as the effect says. -/
theorem Applied.completes {s u : State} {e : Effect} (h : Applied s u e) (os : List Opnd) (pc : Word)
    (hg : ∀ n, n ≠ 0 → refills os (false, n) = e.g.any (fun d => d.1.num.toNat == n && GReg.now d.1))
    (hf : ∀ n, refills os (true, n) = e.f.any (fun d => d.1.num.toNat == n)) :
    Completes s (s.complete (u.consumeAll os) pc) os pc e := by
  have hw := consumeAll_emptied u os
  generalize u.consumeAll os = w at hw
  have hcu := cur_of_device h.device
  have hcw := cur_of_device hw.device
  have hme : ∀ f : Ctx → Ctx, (w.modMe f).me = f w.me := fun f => State.me_modMe w f
  have hlive : w.me.live = s.me.live := by
    have h1 := congrArg Ctx.state (hw.rest.trans h.rest)
    simp only [Ctx.rest] at h1
    simp [Ctx.live, h1]
  have hev : w.me.events = s.me.events := hw.events.trans h.events
  obtain ⟨f, hfe, hff⟩ : ∃ f : Ctx → Ctx, s.complete w pc = w.modMe f ∧
      (∀ t, f t = { t.settle pc with events := if s.me.live && s.me.level == .l0 && bit s.me.dbgctl 0
        then t.events ++ [.plain Cause.singleStep s.me.pc 0] else t.events }) := by
    rw [complete_eq, hlive]
    by_cases hc : (s.me.live && (s.me.level == .l0 && bit s.me.dbgctl 0)) = true
    · rw [if_pos hc]
      refine ⟨_, rfl, fun t => ?_⟩
      rw [Bool.and_assoc, if_pos hc]
    · rw [if_neg hc]
      refine ⟨_, rfl, fun t => ?_⟩
      rw [Bool.and_assoc, if_neg hc]
      rfl
  rw [hfe]
  have hdev : { w.modMe f with cores := s.cores } = s := by
    have h1 := hw.device
    have h2 := h.device
    rw [← h1] at h2
    exact h2
  have hcore : ∀ c, c ≠ s.cur.1 → (w.modMe f).core c = s.core c := fun c hc => by
    rw [State.core_modMe_ne _ _ _ (by rw [hcw, hcu]; exact hc), hw.cores c (by rw [hcu]; exact hc), h.cores c hc]
  have hrest : (w.modMe f).myCore.rest = s.myCore.rest := by simp [hw.core, h.core]
  have hstore : ∀ c, ((w.modMe f).core c).store = (s.core c).store := fun c => by
    by_cases hc : c = s.cur.1
    · have h1 := congrArg Core.store hrest
      simp only [Core.rest, State.myCore, State.modMe_cur, hcw, hcu] at h1
      rw [hc]
      exact h1
    · rw [hcore c hc]
  have e1 : (w.modMe f).memStacks = s.memStacks := by have := congrArg State.memStacks hdev; exact this
  have e2 : (w.modMe f).parts = s.parts := by have := congrArg State.parts hdev; exact this
  have e3 : (w.modMe f).fwMem = s.fwMem := by have := congrArg State.fwMem hdev; exact this
  have e4 : (w.modMe f).hostMem = s.hostMem := by have := congrArg State.hostMem hdev; exact this
  exact {
    device := hdev
    cores := hcore
    ctxs := fun y hy => by
      rw [State.ctx_modMe_ne _ _ _ _ (Or.inr (by rw [hcw, hcu]; exact hy)), ← hcu, hw.ctxs y (by rw [hcu]; exact hy), hcu, h.ctxs y hy]
    core := hrest
    spend := by simp [hw.spend, h.spend]
    rest := by
      rw [hme, ← h.rest, ← hw.rest, hff]
      simp [Ctx.rest]
    pc := by rw [hme, hff]; simp
    park := by rw [hme, hff]; simp
    phase := by rw [hme, hff]; simp
    replies := by rw [hme, hff]; simp
    events := by rw [hme, hff]; simp [State.eventsAfter, hev]
    fpflags := by rw [hme, hff]; simp [hw.fpflags, h.fpflags]
    g := fun n => by
      have h1 : (w.modMe f).gval n = w.gval n := by simp [State.gval, hff]
      rw [h1, hw.g n, h.g n]
      simp only [State.gAfter]
      by_cases hn : n = 0
      · simp [hn]
      · simp only [hn, ne_eq, not_false_eq_true, true_and, if_false]
        have hr := hg n hn
        have hfind : (e.g.reverse.find? (fun d => d.1.num.toNat == n && GReg.now d.1)).isSome = refills os (false, n) := by
          rw [hr, Bool.eq_iff_iff]
          simp [List.find?_isSome, and_assoc]
        cases hfd : e.g.reverse.find? (fun d => d.1.num.toNat == n && GReg.now d.1) with
        | some d =>
          have : refills os (false, n) = true := by rw [← hfind, hfd]; rfl
          simp [empties, this]
        | none =>
          have : refills os (false, n) = false := by rw [← hfind, hfd]; rfl
          simp [empties, this, consumes]
    f := fun n => by
      have h1 : (w.modMe f).fAt n = w.fAt n := by simp [State.fAt, hff]
      rw [h1, hw.f n, h.f n]
      simp only [State.fAfter]
      have hr := hf n
      cases hfd : e.f.filter (fun d => d.1.num.toNat == n) with
      | some d =>
        have : refills os (true, n) = true := by
          rw [hr]
          cases he : e.f with
          | none => rw [he] at hfd; simp at hfd
          | some x => rw [he] at hfd; simp [Option.filter] at hfd; simp [hfd.1]
        simp [empties, this]
      | none =>
        have : refills os (true, n) = false := by
          rw [hr]
          cases he : e.f with
          | none => rfl
          | some x => rw [he] at hfd; simp [Option.filter] at hfd; simpa using hfd
        simp [empties, this, consumes]
    p := fun r => by rw [← h.p r, ← hw.p r]; simp [State.p, hff]
    v := fun r => by rw [← h.v r, ← hw.v r]; simp [State.v, hff]
    q := fun r => by rw [← h.q r, ← hw.q r]; simp [State.q, hff]
    memory := {
      store := fun c a => by rw [hstore]
      stack := fun n a => by simp only [State.stack, e1]
      sys := fun n a => by simp only [State.part, e2]
      fw := fun a => by rw [e3]
      host := fun a => by rw [e4] } }

/-- AN INSTRUCTION WHOSE EFFECT ENDS IN A WRITTEN STATE: guard true, modifiers met. -/
theorem run_done {s u : State} {i : Instr} {size : Nat} {g : Guard} {os : List Opnd} {eff : State → Res} {e : Effect}
    (hgd : s.guard g = true) (hm : s.modsOk (condsOf os) = true) (he : eff s = .done u) (ha : Applied s u e)
    (hg : ∀ n, n ≠ 0 → refills os (false, n) = e.g.any (fun d => d.1.num.toNat == n && GReg.now d.1))
    (hf : ∀ n, refills os (true, n) = e.f.any (fun d => d.1.num.toNat == n)) :
    ∃ t, s.run i size g os eff = .next t ∧ Completes s t os (s.me.pc + w64 size) e := by
  refine ⟨_, ?_, ha.completes os _ hg hf⟩
  simp [State.run, hgd, hm, he, State.finish]

/-- The same for an instruction that ends in a jump. -/
theorem run_jump {s u : State} {i : Instr} {size : Nat} {g : Guard} {os : List Opnd} {eff : State → Res} {e : Effect} {pc : Word}
    (hgd : s.guard g = true) (hm : s.modsOk (condsOf os) = true) (he : eff s = .jump pc u) (ha : Applied s u e)
    (hg : ∀ n, n ≠ 0 → refills os (false, n) = e.g.any (fun d => d.1.num.toNat == n && GReg.now d.1))
    (hf : ∀ n, refills os (true, n) = e.f.any (fun d => d.1.num.toNat == n)) :
    ∃ t, s.run i size g os eff = .next t ∧ Completes s t os pc e := by
  refine ⟨_, ?_, ha.completes os _ hg hf⟩
  simp [State.run, hgd, hm, he, State.finish]

/-- A cause: the trap of R33 and nothing else. -/
theorem run_trap {s : State} {i : Instr} {size : Nat} {g : Guard} {os : List Opnd} {eff : State → Res} {code : Nat} {tval tstat : Word}
    (hgd : s.guard g = true) (hm : s.modsOk (condsOf os) = true) (he : eff s = .trap code tval tstat s) :
    s.run i size g os eff =
      .next ((s.modMe (fun t => t.settle s.me.pc)).raise s.cur.1 s.cur.2 code tval tstat s.me.pc) := by
  simp [State.run, hgd, hm, he, State.finish]

/-! ### Operand lists -/

/-- Whether no operand of a list is a destination. -/
def noDst (l : List Opnd) : Bool := l.all (fun o => !o.isDst)

@[simp] theorem noDst_nil : noDst [] = true := rfl
@[simp] theorem noDst_src (r : GReg) (l : List Opnd) : noDst (.src r :: l) = noDst l := rfl
@[simp] theorem noDst_srcF (r : FReg) (l : List Opnd) : noDst (.srcF r :: l) = noDst l := rfl
@[simp] theorem noDst_append (l m : List Opnd) : noDst (l ++ m) = (noDst l && noDst m) := by simp [noDst]
@[simp] theorem noDst_opndsB (b : RegImm) : noDst (opndsB b) = true := by cases b <;> rfl
@[simp] theorem noDst_opndsK (b : RegImm47) : noDst (opndsK b) = true := by cases b <;> rfl
@[simp] theorem noDst_opndsM (m : MemOp) : noDst (opndsM m) = true := by
  obtain ⟨a, o⟩ := m
  cases o <;> rfl

theorem refills_noDst {l : List Opnd} (h : noDst l = true) (k : Bool × Nat) : refills l k = false := by
  simp only [refills, List.any_eq_false]
  intro o ho
  have h1 : (!o.isDst) = true := List.all_eq_true.mp h o ho
  have h2 : o.isDst = false := by simpa using h1
  simp [h2]

theorem refills_dst {l : List Opnd} (h : noDst l = true) (d : GReg) (v : Word) (n : Nat) :
    refills (.dst d :: l) (false, n) = [(d, v)].any (fun x => x.1.num.toNat == n && GReg.now x.1) := by
  have h1 : _ = _ := refills_noDst h (false, n)
  simp only [refills] at h1
  simp only [refills, List.any_cons, h1]
  have hk : (Opnd.key (.dst d) == (false, n)) = decide (n = d.num.toNat) := key_beq rfl
  rw [hk]
  by_cases hn : n = d.num.toNat
  · subst hn; simp [Opnd.isDst, Opnd.md, GReg.now, Opnd.key]
  · have h2 : ¬ d.num.toNat = n := fun h => hn h.symm
    simp [hn, h2]

theorem refills_dst_f {l : List Opnd} (h : noDst l = true) (d : GReg) (n : Nat) : refills (.dst d :: l) (true, n) = false := by
  have h1 : _ = _ := refills_noDst h (true, n)
  simp only [refills] at h1
  simp only [refills, List.any_cons, h1]
  simp [Opnd.key]

theorem refills_dstF {l : List Opnd} (h : noDst l = true) (d : FReg) (n : Nat) :
    refills (.dstF d :: l) (true, n) = (d.num.toNat == n) := by
  have h1 : _ = _ := refills_noDst h (true, n)
  simp only [refills] at h1
  simp only [refills, List.any_cons, h1]
  simp [Opnd.isDst, Opnd.key]

theorem refills_dstF_g {l : List Opnd} (h : noDst l = true) (d : FReg) (n : Nat) : refills (.dstF d :: l) (false, n) = false := by
  have h1 : _ = _ := refills_noDst h (false, n)
  simp only [refills] at h1
  simp only [refills, List.any_cons, h1]
  simp [Opnd.key]

/-! ### From `exec` to its statement: `hx` holds by `rfl` for an instruction that goes through `run` -/

/-- One g-class destination. -/
theorem runs_g {s : State} {i j : Instr} {size : Nat} {g : Guard} {d : GReg} {l : List Opnd} {eff : State → Res} {v : Word}
    (hx : exec i s = s.run j size g (.dst d :: l) eff) (hl : noDst l = true) (hgd : s.guard g = true)
    (hm : s.modsOk (condsOf (.dst d :: l)) = true) (he : eff s = .done (s.putG d v)) :
    Runs i s size (.dst d :: l) { g := [(d, v)] } := by
  rw [Runs, hx]
  exact run_done hgd hm he ((Applied.refl s).putG d v) (fun n _ => refills_dst hl d v n) (fun n => refills_dst_f hl d n)

/-- One f destination, with flags. -/
theorem runs_f {s : State} {i j : Instr} {size : Nat} {g : Guard} {d : FReg} {l : List Opnd} {eff : State → Res} {v : Word}
    {c fl : Nat} (hx : exec i s = s.run j size g (.dstF d :: l) eff) (hl : noDst l = true) (hgd : s.guard g = true)
    (hm : s.modsOk (condsOf (.dstF d :: l)) = true) (he : eff s = .done ((s.orFlags fl).putF d v c)) :
    Runs i s size (.dstF d :: l) { f := some (d, v, c), flags := fl } := by
  rw [Runs, hx]
  exact run_done hgd hm he (((Applied.refl s).orFlags rfl fl).putF rfl d v c) (fun n _ => by simp [refills_dstF_g hl])
    (fun n => by simp [refills_dstF hl])

/-- One f destination, without flags. -/
theorem runs_f0 {s : State} {i j : Instr} {size : Nat} {g : Guard} {d : FReg} {l : List Opnd} {eff : State → Res} {v : Word}
    {c : Nat} (hx : exec i s = s.run j size g (.dstF d :: l) eff) (hl : noDst l = true) (hgd : s.guard g = true)
    (hm : s.modsOk (condsOf (.dstF d :: l)) = true) (he : eff s = .done (s.putF d v c)) :
    Runs i s size (.dstF d :: l) { f := some (d, v, c) } := by
  rw [Runs, hx]
  exact run_done hgd hm he ((Applied.refl s).putF rfl d v c) (fun n _ => by simp [refills_dstF_g hl])
    (fun n => by simp [refills_dstF hl])

/-- No destination with a full/empty bit. -/
theorem runs_0 {s u : State} {i j : Instr} {size : Nat} {g : Guard} {l : List Opnd} {eff : State → Res} {e : Effect}
    (hx : exec i s = s.run j size g l eff) (hl : noDst l = true) (hgd : s.guard g = true) (hm : s.modsOk (condsOf l) = true)
    (he : eff s = .done u) (ha : Applied s u e) (h1 : e.g = []) (h2 : e.f = none) : Runs i s size l e := by
  rw [Runs, hx]
  exact run_done hgd hm he ha (fun n _ => by simp [refills_noDst hl, h1]) (fun n => by simp [refills_noDst hl, h2])

/-- A jump without a destination. -/
theorem jumps_0 {s u : State} {i j : Instr} {size : Nat} {g : Guard} {l : List Opnd} {eff : State → Res} {e : Effect} {pc : Word}
    (hx : exec i s = s.run j size g l eff) (hl : noDst l = true) (hgd : s.guard g = true) (hm : s.modsOk (condsOf l) = true)
    (he : eff s = .jump pc u) (ha : Applied s u e) (h1 : e.g = []) (h2 : e.f = none) : Jumps i s pc l e := by
  rw [Jumps, hx]
  exact run_jump hgd hm he ha (fun n _ => by simp [refills_noDst hl, h1]) (fun n => by simp [refills_noDst hl, h2])

/-- A jump with a g-class destination. -/
theorem jumps_g {s : State} {i j : Instr} {size : Nat} {g : Guard} {d : GReg} {l : List Opnd} {eff : State → Res} {v pc : Word}
    (hx : exec i s = s.run j size g (.dst d :: l) eff) (hl : noDst l = true) (hgd : s.guard g = true)
    (hm : s.modsOk (condsOf (.dst d :: l)) = true) (he : eff s = .jump pc (s.putG d v)) :
    Jumps i s pc (.dst d :: l) { g := [(d, v)] } := by
  rw [Jumps, hx]
  exact run_jump hgd hm he ((Applied.refl s).putG d v) (fun n _ => refills_dst hl d v n) (fun n => refills_dst_f hl d n)

/-- A cause. -/
theorem traps_of {s : State} {i j : Instr} {size : Nat} {g : Guard} {os : List Opnd} {eff : State → Res} {code : Nat}
    {tval tstat : Word} (hx : exec i s = s.run j size g os eff) (hgd : s.guard g = true) (hm : s.modsOk (condsOf os) = true)
    (he : eff s = .trap code tval tstat s) : Traps i s code tval tstat := by
  rw [Traps, hx]
  exact run_trap hgd hm he

/-! ### Effects beside the registers -/

/-- What an instruction's end needs of the state before it: the level, the single-step bit, the PC. -/
theorem complete_congr {s u : State} (w : State) (pc : Word) (hl : u.me.level = s.me.level) (hd : u.me.dbgctl = s.me.dbgctl)
    (hp : u.me.pc = s.me.pc) : s.complete w pc = u.complete w pc := by
  simp [State.complete, hl, hd, hp]

/-- An effect beside the registers, with an effect on registers after it: guard true, modifiers met. -/
theorem run_with {s u w : State} {i j : Instr} {size : Nat} {g : Guard} {os : List Opnd} {eff : State → Res} {e : Effect}
    (hx : exec i s = s.run j size g os eff) (hgd : s.guard g = true) (hm : s.modsOk (condsOf os) = true) (he : eff s = .done w)
    (hl : u.me.level = s.me.level) (hd : u.me.dbgctl = s.me.dbgctl) (hp : u.me.pc = s.me.pc) (ha : Applied u w e)
    (hg : ∀ n, n ≠ 0 → refills os (false, n) = e.g.any (fun d => d.1.num.toNat == n && GReg.now d.1))
    (hf : ∀ n, refills os (true, n) = e.f.any (fun d => d.1.num.toNat == n)) : RunsWith i s u size os e := by
  refine ⟨_, ?_, ha.completes os _ hg hf⟩
  rw [hx, ← complete_congr (w.consumeAll os) _ hl hd hp]
  simp [State.run, hgd, hm, he, State.finish]

/-- The same for an instruction without a destination: the effect makes the state that completes. -/
theorem runs_with_0 {s u : State} {i j : Instr} {size : Nat} {g : Guard} {l : List Opnd} {eff : State → Res}
    (hx : exec i s = s.run j size g l eff) (hn : noDst l = true) (hgd : s.guard g = true) (hm : s.modsOk (condsOf l) = true)
    (he : eff s = .done u) (hl : u.me.level = s.me.level) (hd : u.me.dbgctl = s.me.dbgctl) (hp : u.me.pc = s.me.pc) :
    RunsWith i s u size l {} :=
  run_with hx hgd hm he hl hd hp (Applied.refl u) (fun n _ => by simp [refills_noDst hn]) (fun n => by simp [refills_noDst hn])

/-- The same for an instruction with one g-class destination. -/
theorem runs_with_g {s u : State} {i j : Instr} {size : Nat} {g : Guard} {d : GReg} {l : List Opnd} {eff : State → Res} {v : Word}
    (hx : exec i s = s.run j size g (.dst d :: l) eff) (hn : noDst l = true) (hgd : s.guard g = true)
    (hm : s.modsOk (condsOf (.dst d :: l)) = true) (he : eff s = .done (u.putG d v)) (hl : u.me.level = s.me.level)
    (hd : u.me.dbgctl = s.me.dbgctl) (hp : u.me.pc = s.me.pc) : RunsWith i s u size (.dst d :: l) { g := [(d, v)] } :=
  run_with hx hgd hm he hl hd hp ((Applied.refl u).putG d v) (fun n _ => refills_dst hn d v n) (fun n => refills_dst_f hn d n)

end Sys2Proof.Machine
end

