-- ==== Sys2Proof/Tests/Slice0.lean ====
section
/-!
SUPPORT. Tests: ill-formed terms are refused, words of the spec's encodings decode, worked examples of the spec come out, and the
hypotheses of every statement are met by a concrete state, clause by clause.
-/

namespace Sys2Proof.Tests

open Sys2Proof Sys2Proof.Machine

set_option Elab.async false

/-! ### Small states and operands -/

def p0 : Guard := ⟨0, false⟩
def gr (n : Nat) : GReg := ⟨BitVec.ofNat 6 n, .plain⟩
def fr (n : Nat) : FReg := ⟨BitVec.ofNat 5 n, .plain⟩
def s0 : State := State.reset

/-- Reset with registers of the issuing context set. -/
def withG (s : State) (l : List (Nat × Word)) : State :=
  s.modMe (fun t => { t with g := l.foldl (fun g x => tput g x.1 ⟨x.2, true⟩) t.g })
def withF (s : State) (l : List (Nat × Word × Nat)) : State :=
  s.modMe (fun t => { t with f := l.foldl (fun f x => tput f x.1 ⟨x.2.1, x.2.2, true⟩) t.f })
def onMe (f : Ctx → Ctx) : State := s0.modMe f
def onCore (f : Core → Core) : State := s0.modMyCore f
def onPart (f : Part → Part) : State := s0.modPart 0 f

/-- Whether an answer is there. -/
def got {α ε : Type} : Except ε α → Bool
  | .ok _ => true
  | .error _ => false

/-! ### Well-formedness -/

/-- One ill-formed term for each check of WellFormed.lean (R44 to R50, R64, R71, R79, R116, R166, R176, R189, R212, R253, R256, R340). -/
def illFormed : List Instr := [
  .nop ⟨0, true⟩, .add p0 (gr 48) (gr 1) (.imm 0), .add p0 (gr 1) (gr 48) (.imm 0), .add p0 (gr 1) (gr 1) (.reg (gr 63)),
  .add p0 ⟨0, .deposit⟩ (gr 1) (.imm 0), .add p0 ⟨1, .consume⟩ (gr 1) (.imm 0), .add p0 ⟨1, .peek⟩ (gr 1) (.imm 0),
  .add p0 (gr 1) ⟨2, .deposit⟩ (.imm 0), .add p0 (gr 1) (gr 2) (.reg ⟨3, .deposit⟩), .shl p0 (gr 1) (gr 2) (.imm 64),
  .shl p0 (gr 1) (gr 2) (.reg (gr 48)), .lih p0 (gr 1) 0x100000000, .lea p0 (gr 1) ⟨gr 48, .imm 0⟩, .lea p0 (gr 1) ⟨gr 1, .idx (gr 48) 0⟩,
  .bfx p0 (gr 1) (gr 2) 60 4, .madd p0 (gr 1) (gr 2) (.reg (gr 50)) (gr 3), .bsig p0 (fr 1) 54 0, .fempty p0 (.g 48),
  .fadd p0 ⟨1, .consume⟩ (fr 2) (fr 3) .s, .fadd p0 (fr 1) ⟨2, .deposit⟩ (fr 3) .s]

def illFormed2 : List Instr := [
  .ld p0 (gr 1) ⟨gr 2, .imm 0⟩ .w .own .dev .none, .ld p0 (gr 1) ⟨gr 2, .imm 0⟩ .w .wt .dev .acq, .ld p0 (gr 1) ⟨gr 2, .imm 0⟩ .w .own .dev .rel,
  .st p0 (gr 1) ⟨gr 2, .imm 0⟩ .w .own .dev .acq, .ldp p0 (gr 1) ⟨gr 2, .imm 0⟩ (gr 1) .own, .fence p0 .dev .none, .fcvt p0 (fr 1) (fr 2) .s .s,
  .vcmp p0 1 2 3 .s none .eq true, .vbcast p0 1 (.g (gr 1)) .s none, .vbcast p0 1 (.f (fr 1)) .w none, .vext p0 (.g (gr 1)) 2 (gr 3) .d,
  .mld p0 1 (gr 2) (gr 3) (gr 4) .s false, .mcommit p0 ⟨20, .deposit⟩ true, .vfroma p0 4 5 (gr 6) .m, .smxst p0 1 (gr 2) (.imm 1) (gr 3) false,
  .couch p0 (gr 5) (gr 6) true, .couch p0 ⟨5, .deposit⟩ (gr 6) false, .csrr p0 (gr 1) 0x009, .tbw p0 (gr 1) (gr 2) (gr 3) .own,
  .tbi p0 (gr 1) (gr 2) .own false, .tbi p0 (gr 1) (gr 0) .own true, .tbp p0 (gr 1) (gr 2) (gr 3) .ds]

theorem test_illFormed : (illFormed ++ illFormed2).all (fun i => !i.wf) = true := by decide +kernel

/-- Rejections by name: unassigned, wrong form, reserved fields, a bad register, a bad modifier, a bad pad word (R37, R43 to R50). -/
theorem test_rejects :
    decodeWord 0 = .reject .unassigned 0 8 ∧ decodeWord 0x5 = .reject .unassigned 0x5 12 ∧
    decodeWord 0x0000008000000004 = .reject (.field 39) 0x0000008000000004 8 ∧ decodeWord 0x0000000000030004 = .reject (.register 12) 0x30004 8 ∧
    decodeWord 0x00000000000C0004 = .reject (.modifier 12) 0xC0004 8 ∧ decodeWord 0x13 = .reject (.padReserved 4) 0x13 4 ∧
    decode [4, 0, 0] = .reject .short 0 0 := by decide +kernel

/-! ### Words, one of each opcode -/

/-- A word read as an instruction. -/
def readsAs (x : Nat × Nat × Instr) : Bool := decodeTableWord x.1 x.2.1 == some x.2.2


/-- Row 0 (R52): one word of each opcode, written from the tables of its chapter. -/
theorem test_words_row0 : ([
    (64, 0x0000000430201004, .add ⟨0, false⟩ ⟨1, .plain⟩ ⟨2, .plain⟩ (.reg ⟨3, .consume⟩)),
    (64, 0xFFFFF30004201008, .sub ⟨0, false⟩ ⟨1, .plain⟩ ⟨2, .consume⟩ (.imm (BitVec.ofInt 23 (-7)))),
    (64, 0x00000004302C100C, .mul ⟨0, false⟩ ⟨1, .deposit⟩ ⟨2, .plain⟩ (.reg ⟨3, .consume⟩)),
    (64, 0xFFFFF33000201010, .mulh ⟨3, false⟩ ⟨1, .plain⟩ ⟨2, .plain⟩ (.imm (BitVec.ofInt 23 (-7)))),
    (64, 0x000000B434201014, .mulhn ⟨3, true⟩ ⟨1, .plain⟩ ⟨2, .consume⟩ (.reg ⟨3, .consume⟩)),
    (64, 0xFFFFF30000201018, .div ⟨0, false⟩ ⟨1, .plain⟩ ⟨2, .plain⟩ (.imm (BitVec.ofInt 23 (-7)))),
    (64, 0x00000004302C101C, .divn ⟨0, false⟩ ⟨1, .deposit⟩ ⟨2, .plain⟩ (.reg ⟨3, .consume⟩)),
    (64, 0xFFFFF30004201020, .rem ⟨0, false⟩ ⟨1, .plain⟩ ⟨2, .consume⟩ (.imm (BitVec.ofInt 23 (-7)))),
    (64, 0x0000003430201024, .remn ⟨3, false⟩ ⟨1, .plain⟩ ⟨2, .plain⟩ (.reg ⟨3, .consume⟩)),
    (64, 0xFFFFF3B000201028, .and ⟨3, true⟩ ⟨1, .plain⟩ ⟨2, .plain⟩ (.imm (BitVec.ofInt 23 (-7)))),
    (64, 0x00000004342C102C, .or ⟨0, false⟩ ⟨1, .deposit⟩ ⟨2, .consume⟩ (.reg ⟨3, .consume⟩)),
    (64, 0xFFFFF30000201030, .xor ⟨0, false⟩ ⟨1, .plain⟩ ⟨2, .plain⟩ (.imm (BitVec.ofInt 23 (-7)))),
    (64, 0x0000000430201034, .andn ⟨0, false⟩ ⟨1, .plain⟩ ⟨2, .plain⟩ (.reg ⟨3, .consume⟩)),
    (64, 0xFFFFF33004201038, .orn ⟨3, false⟩ ⟨1, .plain⟩ ⟨2, .consume⟩ (.imm (BitVec.ofInt 23 (-7)))),
    (64, 0x000000B4302C103C, .shl ⟨3, true⟩ ⟨1, .deposit⟩ ⟨2, .plain⟩ (.reg ⟨3, .consume⟩)),
    (64, 0x0000430000201040, .shr ⟨0, false⟩ ⟨1, .plain⟩ ⟨2, .plain⟩ (.imm (BitVec.ofInt 23 (33)))),
    (64, 0x0000000434201044, .sar ⟨0, false⟩ ⟨1, .plain⟩ ⟨2, .consume⟩ (.reg ⟨3, .consume⟩)),
    (64, 0x0000430000201048, .rot ⟨0, false⟩ ⟨1, .plain⟩ ⟨2, .plain⟩ (.imm (BitVec.ofInt 23 (33)))),
    (64, 0x00000034302C104C, .min ⟨3, false⟩ ⟨1, .deposit⟩ ⟨2, .plain⟩ (.reg ⟨3, .consume⟩)),
    (64, 0xFFFFF3B004201050, .max ⟨3, true⟩ ⟨1, .plain⟩ ⟨2, .consume⟩ (.imm (BitVec.ofInt 23 (-7)))),
    (64, 0x0000000430201054, .minn ⟨0, false⟩ ⟨1, .plain⟩ ⟨2, .plain⟩ (.reg ⟨3, .consume⟩)),
    (64, 0xFFFFF30000201058, .maxn ⟨0, false⟩ ⟨1, .plain⟩ ⟨2, .plain⟩ (.imm (BitVec.ofInt 23 (-7)))),
    (64, 0x00000000042C105C, .abs ⟨0, false⟩ ⟨1, .deposit⟩ ⟨2, .consume⟩),
    (64, 0x0000003000201060, .neg ⟨3, false⟩ ⟨1, .plain⟩ ⟨2, .plain⟩),
    (64, 0x000000B000201064, .clz ⟨3, true⟩ ⟨1, .plain⟩ ⟨2, .plain⟩),
    (64, 0x0000000004201068, .ctz ⟨0, false⟩ ⟨1, .plain⟩ ⟨2, .consume⟩),
    (64, 0x00000000002C106C, .popc ⟨0, false⟩ ⟨1, .deposit⟩ ⟨2, .plain⟩),
    (64, 0x0000000000201070, .brev ⟨0, false⟩ ⟨1, .plain⟩ ⟨2, .plain⟩),
    (64, 0x0000003004201074, .bswap ⟨3, false⟩ ⟨1, .plain⟩ ⟨2, .consume⟩),
    (64, 0x000004B000201078, .sext ⟨3, true⟩ ⟨1, .plain⟩ ⟨2, .plain⟩ .w),
    (64, 0x00000200002C107C, .zext ⟨0, false⟩ ⟨1, .deposit⟩ ⟨2, .plain⟩ .h)] : List (Nat × Nat × Instr)).all readsAs = true := by
  decide +kernel

/-- Row 1 (R52): one word of each opcode, written from the tables of its chapter. -/
theorem test_words_row1 : ([
    (96, 0xF80000000000070000001081, .li ⟨0, false⟩ ⟨1, .plain⟩ (BitVec.ofInt 55 (3 - 2 ^ 50))),
    (96, 0x0000002468ACF10000001085, .lih ⟨0, false⟩ ⟨1, .plain⟩ 0x12345678),
    (64, 0xFFFFE13000201088, .lea ⟨3, false⟩ ⟨1, .plain⟩ ⟨⟨2, .plain⟩, .imm (BitVec.ofInt 23 (-16))⟩),
    (64, 0x000000B0042C108C, .mov ⟨3, true⟩ ⟨1, .deposit⟩ ⟨2, .consume⟩),
    (64, 0x00000A0030201090, .sel ⟨0, false⟩ ⟨1, .plain⟩ ⟨2, .plain⟩ ⟨3, .plain⟩ 0x5),
    (64, 0x0000000430201094, .cmpeq ⟨0, false⟩ 1 ⟨2, .plain⟩ (.reg ⟨3, .consume⟩)),
    (64, 0xFFFFF30004201098, .cmpne ⟨0, false⟩ 1 ⟨2, .consume⟩ (.imm (BitVec.ofInt 23 (-7)))),
    (64, 0x000000343020109C, .cmplt ⟨3, false⟩ 1 ⟨2, .plain⟩ (.reg ⟨3, .consume⟩)),
    (64, 0xFFFFF3B0002010A0, .cmple ⟨3, true⟩ 1 ⟨2, .plain⟩ (.imm (BitVec.ofInt 23 (-7)))),
    (64, 0x00000004342010A4, .cmpltn ⟨0, false⟩ 1 ⟨2, .consume⟩ (.reg ⟨3, .consume⟩)),
    (64, 0xFFFFF300002010A8, .cmplen ⟨0, false⟩ 1 ⟨2, .plain⟩ (.imm (BitVec.ofInt 23 (-7)))),
    (64, 0x00000004302010AC, .tstbit ⟨0, false⟩ 1 ⟨2, .plain⟩ (.reg ⟨3, .consume⟩)),
    (64, 0x000A1230042010B0, .bfx ⟨3, false⟩ ⟨1, .plain⟩ ⟨2, .consume⟩ 0x9 0x14),
    (64, 0x000A12B0002010B4, .bfxn ⟨3, true⟩ ⟨1, .plain⟩ ⟨2, .plain⟩ 0x9 0x14),
    (64, 0x000A1200002010B8, .bfi ⟨0, false⟩ ⟨1, .plain⟩ ⟨2, .plain⟩ 0x9 0x14),
    (64, 0x00000004342C10BC, .addv ⟨0, false⟩ ⟨1, .deposit⟩ ⟨2, .consume⟩ (.reg ⟨3, .consume⟩)),
    (64, 0xFFFFF300002010C0, .subv ⟨0, false⟩ ⟨1, .plain⟩ ⟨2, .plain⟩ (.imm (BitVec.ofInt 23 (-7)))),
    (64, 0x00000034302010C4, .mulv ⟨3, false⟩ ⟨1, .plain⟩ ⟨2, .plain⟩ (.reg ⟨3, .consume⟩)),
    (64, 0xFFFFF3B0042000C8, .chk ⟨3, true⟩ ⟨2, .consume⟩ (.imm (BitVec.ofInt 23 (-7)))),
    (96, 0xFE00000400000B00002C10CD, .madd ⟨0, false⟩ ⟨1, .deposit⟩ ⟨2, .plain⟩ (.imm (BitVec.ofInt 47 (5 - 2 ^ 40))) ⟨4, .plain⟩)] : List (Nat × Nat × Instr)).all readsAs = true := by
  decide +kernel

/-- Row 2 (R52): one word of each opcode, written from the tables of its chapter. -/
theorem test_words_row2 : ([
    (64, 0xFFFFED0000000100, .br ⟨0, false⟩ (BitVec.ofInt 23 (-10))),
    (96, 0xF80000000000070000000105, .jmp ⟨0, false⟩ (BitVec.ofInt 55 (3 - 2 ^ 50))),
    (64, 0x0000003000200108, .jr ⟨3, false⟩ ⟨2, .plain⟩),
    (64, 0xFFFFEDB0000C110C, .call ⟨3, true⟩ ⟨1, .deposit⟩ (BitVec.ofInt 23 (-10))),
    (64, 0x0000000004201110, .callr ⟨0, false⟩ ⟨1, .plain⟩ ⟨2, .consume⟩),
    (64, 0x0000000000200114, .ret ⟨0, false⟩ ⟨2, .plain⟩),
    (64, 0xFFFFED0000001118, .loop ⟨0, false⟩ ⟨1, .plain⟩ (BitVec.ofInt 23 (-10))),
    (64, 0xFFFB18300420011C, .bsig ⟨3, false⟩ ⟨2, .consume⟩ 0xC 0x1FFF6),
    (64, 0x000000B030201120, .pand ⟨3, true⟩ 1 2 3),
    (64, 0x0000000030201124, .por ⟨0, false⟩ 1 2 3),
    (64, 0x0000000030201128, .pxor ⟨0, false⟩ 1 2 3),
    (64, 0x000000000020112C, .pnot ⟨0, false⟩ 1 2),
    (64, 0x0000003000201130, .pmov ⟨3, false⟩ 1 2),
    (64, 0x000000B000000134, .nop ⟨3, true⟩)] : List (Nat × Nat × Instr)).all readsAs = true := by
  decide +kernel

/-- Row 3 (R52): one word of each opcode, written from the tables of its chapter. -/
theorem test_words_row3 : ([
    (64, 0xFFFFF30000200180, .tstart ⟨0, false⟩ ⟨2, .plain⟩ (.imm (BitVec.ofInt 23 (-7)))),
    (64, 0x00000000002C1184, .treap ⟨0, false⟩ ⟨1, .deposit⟩ ⟨2, .plain⟩),
    (64, 0x0000000004200188, .tend ⟨0, false⟩ ⟨2, .consume⟩),
    (64, 0x000000300020118C, .tspawn ⟨3, false⟩ ⟨1, .plain⟩ ⟨2, .plain⟩),
    (64, 0x000004B000000190, .bar ⟨3, true⟩ .dev),
    (64, 0x0000000000200194, .fempty ⟨0, false⟩ (.g 2)),
    (64, 0x0000020000200198, .ffull ⟨0, false⟩ (.f 2)),
    (64, 0x000000000020119C, .ftest ⟨0, false⟩ 1 (.g 2)),
    (64, 0x00000030042001A0, .wpush ⟨3, false⟩ ⟨2, .consume⟩),
    (64, 0x00000AB0000C11A4, .wtake ⟨3, true⟩ ⟨1, .deposit⟩ 0x5),
    (64, 0x00000000000011A8, .wcount ⟨0, false⟩ ⟨1, .plain⟩)] : List (Nat × Nat × Instr)).all readsAs = true := by
  decide +kernel

/-- Row 4 (R52): one word of each opcode, written from the tables of its chapter. -/
theorem test_words_row4 : ([
    (96, 0x0000C5000000080830201201, .ld ⟨0, false⟩ ⟨1, .plain⟩ ⟨⟨2, .plain⟩, .idx ⟨3, .peek⟩ 4⟩ .hn .own .dev .acq),
    (96, 0x00016300FFFFE10000201205, .st ⟨0, false⟩ ⟨1, .plain⟩ ⟨⟨2, .plain⟩, .imm (BitVec.ofInt 23 (-16))⟩ .d .own .dom .rel),
    (96, 0x0000090000000838302C1209, .ldf ⟨3, false⟩ ⟨1, .deposit⟩ ⟨⟨2, .plain⟩, .idx ⟨3, .peek⟩ 4⟩ .d .wt),
    (96, 0x00001200FFFFE1B00024120D, .stf ⟨3, true⟩ ⟨1, .consume⟩ ⟨⟨2, .plain⟩, .imm (BitVec.ofInt 23 (-16))⟩ .hf .si),
    (96, 0x00001B040000080830201211, .ldfc ⟨0, false⟩ ⟨1, .plain⟩ ⟨⟨2, .plain⟩, .idx ⟨3, .peek⟩ 4⟩ ⟨4, .plain⟩ .bf .nc),
    (96, 0x00000904FFFFE10000201215, .stfc ⟨0, false⟩ ⟨1, .plain⟩ ⟨⟨2, .plain⟩, .imm (BitVec.ofInt 23 (-16))⟩ ⟨4, .plain⟩ .d .wt),
    (96, 0x000010C400000808302C1219, .ldp ⟨0, false⟩ ⟨1, .deposit⟩ ⟨⟨2, .plain⟩, .idx ⟨3, .peek⟩ 4⟩ ⟨4, .deposit⟩ .si),
    (96, 0x00001804FFFFE1300020121D, .stp ⟨3, false⟩ ⟨1, .plain⟩ ⟨⟨2, .plain⟩, .imm (BitVec.ofInt 23 (-16))⟩ ⟨4, .plain⟩ .nc),
    (96, 0x00000800000008B830200221, .pref ⟨3, true⟩ ⟨⟨2, .plain⟩, .idx ⟨3, .peek⟩ 4⟩ .wt),
    (96, 0x00000044FFFFE10000200225, .inval ⟨0, false⟩ ⟨⟨2, .plain⟩, .imm (BitVec.ofInt 23 (-16))⟩ ⟨4, .consume⟩),
    (96, 0x000000040000080830200229, .cwb ⟨0, false⟩ ⟨⟨2, .plain⟩, .idx ⟨3, .peek⟩ 4⟩ ⟨4, .plain⟩)] : List (Nat × Nat × Instr)).all readsAs = true := by
  decide +kernel

/-- Row 5 (R52): one word of each opcode, written from the tables of its chapter. -/
theorem test_words_row5 : ([
    (96, 0x0010A604FFFFE10000201281, .amo ⟨0, false⟩ ⟨1, .plain⟩ ⟨⟨2, .plain⟩, .imm (BitVec.ofInt 23 (-16))⟩ ⟨4, .plain⟩ .wn .gang .acq .swap),
    (96, 0x000143440000083830201285, .amocas ⟨3, false⟩ ⟨1, .plain⟩ ⟨⟨2, .plain⟩, .idx ⟨3, .peek⟩ 4⟩ ⟨4, .consume⟩ .d .dev .rel),
    (96, 0x0005E104FFFFE1B000201289, .amof ⟨3, true⟩ ⟨1, .plain⟩ ⟨⟨2, .plain⟩, .imm (BitVec.ofInt 23 (-16))⟩ ⟨4, .plain⟩ .d .dom .ar .fmax),
    (64, 0x00000A000000028C, .fence ⟨0, false⟩ .gang .acq),
    (64, 0x0000000000000290, .fencesc ⟨0, false⟩),
    (64, 0x0000000000001294, .rfence ⟨0, false⟩ ⟨1, .plain⟩)] : List (Nat × Nat × Instr)).all readsAs = true := by
  decide +kernel

/-- Row 6 (R52): one word of each opcode, written from the tables of its chapter. -/
theorem test_words_row6 : ([
    (64, 0x0000023030201300, .fadd ⟨3, false⟩ ⟨1, .plain⟩ ⟨2, .plain⟩ ⟨3, .plain⟩ .d),
    (64, 0x000004B4342C1304, .fsub ⟨3, true⟩ ⟨1, .deposit⟩ ⟨2, .consume⟩ ⟨3, .consume⟩ .hf),
    (64, 0x0000060030201308, .fmul ⟨0, false⟩ ⟨1, .plain⟩ ⟨2, .plain⟩ ⟨3, .plain⟩ .bf),
    (64, 0x000002003020130C, .fdiv ⟨0, false⟩ ⟨1, .plain⟩ ⟨2, .plain⟩ ⟨3, .plain⟩ .d),
    (64, 0x0000040004201310, .fsqrt ⟨0, false⟩ ⟨1, .plain⟩ ⟨2, .consume⟩ .hf),
    (96, 0x0000000400000630302C1315, .fma ⟨3, false⟩ ⟨1, .deposit⟩ ⟨2, .plain⟩ ⟨3, .plain⟩ ⟨4, .plain⟩ .bf),
    (96, 0x00000004000002B030201319, .fms ⟨3, true⟩ ⟨1, .plain⟩ ⟨2, .plain⟩ ⟨3, .plain⟩ ⟨4, .plain⟩ .d),
    (96, 0x00000044000004043420131D, .fnma ⟨0, false⟩ ⟨1, .plain⟩ ⟨2, .consume⟩ ⟨3, .consume⟩ ⟨4, .consume⟩ .hf),
    (96, 0x000000040000060030201321, .fnms ⟨0, false⟩ ⟨1, .plain⟩ ⟨2, .plain⟩ ⟨3, .plain⟩ ⟨4, .plain⟩ .bf),
    (64, 0x00000200302C1324, .fmin ⟨0, false⟩ ⟨1, .deposit⟩ ⟨2, .plain⟩ ⟨3, .plain⟩ .d),
    (64, 0x0000043434201328, .fmax ⟨3, false⟩ ⟨1, .plain⟩ ⟨2, .consume⟩ ⟨3, .consume⟩ .hf),
    (64, 0x000006B00020132C, .fabs ⟨3, true⟩ ⟨1, .plain⟩ ⟨2, .plain⟩ .bf),
    (64, 0x0000020000201330, .fneg ⟨0, false⟩ ⟨1, .plain⟩ ⟨2, .plain⟩ .d),
    (64, 0x00000404342C1334, .fcpys ⟨0, false⟩ ⟨1, .deposit⟩ ⟨2, .consume⟩ ⟨3, .consume⟩ .hf),
    (64, 0x0000060030201338, .fcmpeq ⟨0, false⟩ 1 ⟨2, .plain⟩ ⟨3, .plain⟩ .bf),
    (64, 0x000002303020133C, .fcmplt ⟨3, false⟩ 1 ⟨2, .plain⟩ ⟨3, .plain⟩ .d),
    (64, 0x000004B434201340, .fcmple ⟨3, true⟩ 1 ⟨2, .consume⟩ ⟨3, .consume⟩ .hf),
    (64, 0x0000060030201344, .fcmpun ⟨0, false⟩ 1 ⟨2, .plain⟩ ⟨3, .plain⟩ .bf),
    (64, 0x0000020000201348, .fclass ⟨0, false⟩ ⟨1, .plain⟩ ⟨2, .plain⟩ .d),
    (64, 0x000044000420134C, .fround ⟨0, false⟩ ⟨1, .plain⟩ ⟨2, .consume⟩ .hf .rz)] : List (Nat × Nat × Instr)).all readsAs = true := by
  decide +kernel

/-- Row 7 (R52): one word of each opcode, written from the tables of its chapter. -/
theorem test_words_row7 : ([
    (64, 0x0000123000201380, .fcvt ⟨3, false⟩ ⟨1, .plain⟩ ⟨2, .plain⟩ .d .hf),
    (64, 0x0000DAB0002C1384, .ftoi ⟨3, true⟩ ⟨1, .deposit⟩ ⟨2, .plain⟩ .d .d .rdn),
    (64, 0x0000340004201388, .itof ⟨0, false⟩ ⟨1, .plain⟩ ⟨2, .consume⟩ .hf .wn),
    (64, 0x000000000020138C, .fmov ⟨0, false⟩ ⟨1, .plain⟩ ⟨2, .plain⟩),
    (64, 0x0000000000201390, .fmvg ⟨0, false⟩ ⟨1, .plain⟩ ⟨2, .plain⟩),
    (64, 0x00000430042C1394, .fmvf ⟨3, false⟩ ⟨1, .deposit⟩ ⟨2, .consume⟩ .hf),
    (64, 0x000000B000201398, .exp2 ⟨3, true⟩ ⟨1, .plain⟩ ⟨2, .plain⟩),
    (64, 0x000000000020139C, .sget ⟨0, false⟩ ⟨1, .plain⟩ ⟨2, .plain⟩),
    (64, 0x00000000042013A0, .sset ⟨0, false⟩ ⟨1, .plain⟩ ⟨2, .consume⟩)] : List (Nat × Nat × Instr)).all readsAs = true := by
  decide +kernel

/-- Row 8 (R52): one word of each opcode, written from the tables of its chapter. -/
theorem test_words_row8 : ([
    (64, 0x0000A60030201400, .vadd ⟨0, false⟩ 1 2 3 .bf (some 2)),
    (64, 0x0000B23030201404, .vsub ⟨3, false⟩ 1 2 3 .d (some 3)),
    (64, 0x0000C4B030201408, .vmul ⟨3, true⟩ 1 2 3 .hf (some 4)),
    (96, 0x000000040000D6003020140D, .vfma ⟨0, false⟩ 1 2 3 4 .bf (some 5)),
    (96, 0x000000040000E20030201411, .vfms ⟨0, false⟩ 1 2 3 4 .d (some 6)),
    (64, 0x0000F40030201414, .vmin ⟨0, false⟩ 1 2 3 .hf (some 7)),
    (64, 0x0000863030201418, .vmax ⟨3, false⟩ 1 2 3 .bf (some 0)),
    (64, 0x000092B00020141C, .vabs ⟨3, true⟩ 1 2 .d (some 1)),
    (64, 0x0000A40000201420, .vneg ⟨0, false⟩ 1 2 .hf (some 2)),
    (64, 0x0000B60030201424, .vdiv ⟨0, false⟩ 1 2 3 .bf (some 3)),
    (64, 0x0000C20000201428, .vsqrt ⟨0, false⟩ 1 2 .d (some 4)),
    (64, 0x0000D0300020142C, .vexp2 ⟨3, false⟩ 1 2 (some 5)),
    (64, 0x0023E6B030201430, .vcmp ⟨3, true⟩ 1 2 3 .bf (some 6) .le true),
    (64, 0x0021F00000201434, .vcvt ⟨0, false⟩ 1 2 (some 7) .sBf true),
    (64, 0x0001840000201438, .vred ⟨0, false⟩ ⟨1, .plain⟩ 2 .hf (some 0) .min),
    (64, 0x000090000020143C, .vsget ⟨0, false⟩ 1 2 (some 1)),
    (64, 0x0000A23000201440, .vsset ⟨3, false⟩ 1 2 .d (some 2))] : List (Nat × Nat × Instr)).all readsAs = true := by
  decide +kernel

/-- Row 9 (R52): one word of each opcode, written from the tables of its chapter. -/
theorem test_words_row9 : ([
    (64, 0x0000B4B030201480, .viadd ⟨3, true⟩ 1 2 3 .w (some 3)),
    (64, 0x0000C20030201484, .visub ⟨0, false⟩ 1 2 3 .h (some 4)),
    (64, 0x0000D40030201488, .vimul ⟨0, false⟩ 1 2 3 .w (some 5)),
    (64, 0x0000E0003020148C, .vand ⟨0, false⟩ 1 2 3 (some 6)),
    (64, 0x0000F03030201490, .vor ⟨3, false⟩ 1 2 3 (some 7)),
    (64, 0x000080B030201494, .vxor ⟨3, true⟩ 1 2 3 (some 0)),
    (64, 0x0000940030201498, .vshl ⟨0, false⟩ 1 2 3 .w (some 1)),
    (64, 0x0000A2003020149C, .vshr ⟨0, false⟩ 1 2 3 .h (some 2)),
    (64, 0x0000B400302014A0, .vsar ⟨0, false⟩ 1 2 3 .w (some 3)),
    (64, 0x0000CA30302014A4, .vimin ⟨3, false⟩ 1 2 3 .h true (some 4)),
    (64, 0x0000DCB0302014A8, .vimax ⟨3, true⟩ 1 2 3 .w true (some 5)),
    (64, 0x0001EC00302014AC, .vicmp ⟨0, false⟩ 1 2 3 .w true (some 6) .ne),
    (96, 0x0000000400000000302014B1, .vsel ⟨0, false⟩ 1 2 3 4),
    (64, 0x00000000302014B4, .qand ⟨0, false⟩ 1 2 3),
    (64, 0x00000030302014B8, .qor ⟨3, false⟩ 1 2 3),
    (64, 0x000000B0302014BC, .qxor ⟨3, true⟩ 1 2 3),
    (64, 0x00000000002014C0, .qnot ⟨0, false⟩ 1 2),
    (64, 0x00000000002014C4, .qpop ⟨0, false⟩ ⟨1, .plain⟩ 2),
    (64, 0x00000000042014C8, .qmovToQ ⟨0, false⟩ 1 ⟨2, .consume⟩),
    (64, 0x00000230002C14C8, .qmovToG ⟨3, false⟩ ⟨1, .deposit⟩ 2)] : List (Nat × Nat × Instr)).all readsAs = true := by
  decide +kernel

/-- Row 10 (R52): one word of each opcode, written from the tables of its chapter. -/
theorem test_words_row10 : ([
    (96, 0x001E0C00FFFFE1B000201501, .vld ⟨3, true⟩ 1 ⟨⟨2, .plain⟩, .imm (BitVec.ofInt 23 (-16))⟩ .w .wt (some 7)),
    (96, 0x001011000000080830201505, .vst ⟨0, false⟩ 1 ⟨⟨2, .plain⟩, .idx ⟨3, .peek⟩ 4⟩ .d .si (some 0)),
    (96, 0x00121A000000040060201509, .vldx ⟨0, false⟩ 1 ⟨⟨2, .plain⟩, 6, 2⟩ .hf .nc (some 1)),
    (96, 0x00140B00000004006020150D, .vstx ⟨0, false⟩ 1 ⟨⟨2, .plain⟩, 6, 2⟩ .bf .wt (some 2)),
    (96, 0x00161344FFFFE13000201511, .vldc ⟨3, false⟩ 1 ⟨⟨2, .plain⟩, .imm (BitVec.ofInt 23 (-16))⟩ ⟨4, .consume⟩ .bf .si (some 3)),
    (96, 0x00181B04000008B830201515, .vstc ⟨3, true⟩ 1 ⟨⟨2, .plain⟩, .idx ⟨3, .peek⟩ 4⟩ ⟨4, .plain⟩ .bf .nc (some 4)),
    (96, 0x001A00040000000030201519, .vshuf ⟨0, false⟩ 1 2 3 4 (some 5)),
    (64, 0x0000E4000020151C, .vbcast ⟨0, false⟩ 1 (.f ⟨2, .plain⟩) .hf (some 6)),
    (64, 0x0000040030201520, .vext ⟨0, false⟩ (.f ⟨1, .plain⟩) 2 ⟨3, .plain⟩ .hf),
    (64, 0x0000043030201524, .vins ⟨3, false⟩ 1 (.f ⟨2, .plain⟩) ⟨3, .plain⟩ .hf),
    (64, 0x000090B434201528, .viota ⟨3, true⟩ 1 ⟨2, .consume⟩ ⟨3, .consume⟩ (some 1)),
    (64, 0x0000A0000020152C, .vmov ⟨0, false⟩ 1 2 (some 2))] : List (Nat × Nat × Instr)).all readsAs = true := by
  decide +kernel

/-- Row 11 (R52): one word of each opcode, written from the tables of its chapter. -/
theorem test_words_row11 : ([
    (128, 0x00000005000000040041460030201582, .mma ⟨0, false⟩ 1 ⟨2, .plain⟩ ⟨3, .plain⟩ ⟨4, .plain⟩ ⟨5, .plain⟩ .bf true false 0x28),
    (128, 0x00000045000000440041420434201586, .mmaq ⟨0, false⟩ 1 ⟨2, .consume⟩ ⟨3, .consume⟩ ⟨4, .consume⟩ ⟨5, .consume⟩ .q4 true false 0x28),
    (64, 0x0000003000001588, .mzero ⟨3, false⟩ 1),
    (96, 0x00000C04000000B03020158D, .mld ⟨3, true⟩ 1 ⟨2, .plain⟩ ⟨3, .plain⟩ ⟨4, .plain⟩ .q8 true),
    (96, 0x00000D440000000434201591, .mst ⟨0, false⟩ 1 ⟨2, .consume⟩ ⟨3, .consume⟩ ⟨4, .consume⟩ .q4 true),
    (64, 0x0000020000001594, .mcommit ⟨0, false⟩ ⟨1, .plain⟩ true),
    (64, 0x0000000000200598, .mwait ⟨0, false⟩ ⟨2, .plain⟩),
    (64, 0x00000030000C159C, .mtest ⟨3, false⟩ ⟨1, .deposit⟩),
    (64, 0x000000B0302015A0, .vfroma ⟨3, true⟩ 1 2 ⟨3, .plain⟩ .row),
    (64, 0x00000000302015A4, .vtoa ⟨0, false⟩ 1 2 ⟨3, .plain⟩ .row),
    (64, 0xFFFFF300042015A8, .mscale ⟨0, false⟩ 1 ⟨2, .consume⟩ (.imm (BitVec.ofInt 23 (-7))))] : List (Nat × Nat × Instr)).all readsAs = true := by
  decide +kernel

/-- Row 12 (R52): one word of each opcode, written from the tables of its chapter. -/
theorem test_words_row12 : ([
    (128, 0x000000050000000400003E0030201602, .smxa ⟨0, false⟩ 1 2 ⟨3, .plain⟩ ⟨4, .plain⟩ ⟨5, .plain⟩ .bf 0x7),
    (96, 0x00000100FFFFF33000001605, .smxfin ⟨3, false⟩ 1 (.imm (BitVec.ofInt 23 (-7))) true),
    (64, 0x000000B430201608, .smxmerge ⟨3, true⟩ 1 2 (.reg ⟨3, .consume⟩)),
    (96, 0x00000104FFFFF3000020160D, .smxld ⟨0, false⟩ 1 ⟨2, .plain⟩ (.imm (BitVec.ofInt 23 (-7))) ⟨4, .plain⟩ true),
    (96, 0x000001040000000430201611, .smxst ⟨0, false⟩ 1 ⟨2, .plain⟩ (.reg ⟨3, .consume⟩) ⟨4, .plain⟩ true),
    (64, 0xFFFFF30000001614, .smxinit ⟨0, false⟩ 1 (.imm (BitVec.ofInt 23 (-7))))] : List (Nat × Nat × Instr)).all readsAs = true := by
  decide +kernel

/-- Row 13 (R52): one word of each opcode, written from the tables of its chapter. -/
theorem test_words_row13 : ([
    (128, 0x00000005000000040000003030200682, .copyq ⟨3, false⟩ ⟨2, .plain⟩ ⟨3, .plain⟩ ⟨4, .plain⟩ ⟨5, .plain⟩),
    (128, 0x0000000500000004000000B030201686, .copyqt ⟨3, true⟩ ⟨1, .plain⟩ ⟨2, .plain⟩ ⟨3, .plain⟩ ⟨4, .plain⟩ ⟨5, .plain⟩),
    (64, 0x00000000042C1688, .copys ⟨0, false⟩ ⟨1, .deposit⟩ ⟨2, .consume⟩),
    (64, 0x000000000020168C, .copyk ⟨0, false⟩ ⟨1, .plain⟩ ⟨2, .plain⟩),
    (64, 0x0000000000000690, .xfence ⟨0, false⟩)] : List (Nat × Nat × Instr)).all readsAs = true := by
  decide +kernel

/-- Row 14 (R52): one word of each opcode, written from the tables of its chapter. -/
theorem test_words_row14 : ([
    (96, 0x000000440000003434200701, .signal ⟨3, false⟩ ⟨2, .consume⟩ ⟨3, .consume⟩ ⟨4, .consume⟩),
    (64, 0x000002B0302C1704, .lease ⟨3, true⟩ ⟨1, .deposit⟩ ⟨2, .plain⟩ ⟨3, .plain⟩ true),
    (64, 0x0000000030201708, .renew ⟨0, false⟩ ⟨1, .plain⟩ ⟨2, .plain⟩ ⟨3, .plain⟩),
    (64, 0x000002000420170C, .unlease ⟨0, false⟩ ⟨1, .plain⟩ ⟨2, .consume⟩ true),
    (64, 0x0000000000201710, .roleq ⟨0, false⟩ ⟨1, .plain⟩ ⟨2, .plain⟩),
    (64, 0x00000030302C1714, .rolereq ⟨3, false⟩ ⟨1, .deposit⟩ ⟨2, .plain⟩ ⟨3, .plain⟩),
    (64, 0x000000B004200718, .noteack ⟨3, true⟩ ⟨2, .consume⟩),
    (64, 0x000000000020171C, .couch ⟨0, false⟩ ⟨1, .plain⟩ ⟨2, .plain⟩ false),
    (64, 0x0000000000201720, .couchs ⟨0, false⟩ ⟨1, .plain⟩ ⟨2, .plain⟩)] : List (Nat × Nat × Instr)).all readsAs = true := by
  decide +kernel

/-- Row 15 (R52): one word of each opcode, written from the tables of its chapter. -/
theorem test_words_row15 : ([
    (64, 0xFFFFED0000000780, .svc ⟨0, false⟩ (BitVec.ofInt 23 (-10))),
    (64, 0xFFFFED3000000784, .brk ⟨3, false⟩ (BitVec.ofInt 23 (-10))),
    (64, 0x000000B000000788, .tret ⟨3, true⟩),
    (64, 0x000026000000178C, .csrr ⟨0, false⟩ ⟨1, .plain⟩ 0x13),
    (64, 0x00002600002C1790, .csrw ⟨0, false⟩ ⟨1, .deposit⟩ ⟨2, .plain⟩ 0x13),
    (64, 0x0000260000201794, .csrs ⟨0, false⟩ ⟨1, .plain⟩ ⟨2, .plain⟩ 0x13),
    (64, 0x0000263004201798, .csrc ⟨3, false⟩ ⟨1, .plain⟩ ⟨2, .consume⟩ 0x13),
    (96, 0x00000104000000B03020079D, .tbw ⟨3, true⟩ ⟨2, .plain⟩ ⟨3, .plain⟩ ⟨4, .plain⟩ .gang),
    (64, 0x00000200302007A0, .tbi ⟨0, false⟩ ⟨2, .plain⟩ ⟨3, .plain⟩ .gang false),
    (64, 0x00000204342017A4, .tbp ⟨0, false⟩ ⟨1, .plain⟩ ⟨2, .consume⟩ ⟨3, .consume⟩ .gang),
    (64, 0x00005400002017A8, .scfgr ⟨0, false⟩ ⟨1, .plain⟩ ⟨2, .plain⟩ 0x2A),
    (64, 0x00005430302007AC, .scfgw ⟨3, false⟩ ⟨2, .plain⟩ ⟨3, .plain⟩ 0x2A),
    (96, 0x00000144000000B0042007B1, .cwbr ⟨3, true⟩ ⟨2, .consume⟩ ⟨4, .consume⟩ true),
    (96, 0x0000000400000000002007B5, .slinv ⟨0, false⟩ ⟨2, .plain⟩ ⟨4, .plain⟩),
    (64, 0x00000000302017B8, .gswitch ⟨0, false⟩ ⟨1, .plain⟩ ⟨2, .plain⟩ ⟨3, .plain⟩),
    (64, 0x00000000000017BC, .ckpt ⟨0, false⟩ ⟨1, .plain⟩),
    (64, 0x00000030002007C0, .halt ⟨3, false⟩ ⟨2, .plain⟩)] : List (Nat × Nat × Instr)).all readsAs = true := by
  decide +kernel


/-! ### Worked examples of the spec -/

/-- A register after an instruction, and its PC. -/
def gAfterStep (i : Instr) (s : State) (n : Nat) : Option (Word × Word) :=
  match exec i s with
  | .next t => some ((t.gval n).val, t.me.pc)
  | _ => none

/-- The table of R74: LI, LIH, BFX, MADD. -/
theorem test_li : gAfterStep (.li p0 (gr 5) 0x9ABCDEF0) s0 5 = some (0x9ABCDEF0, 12) := by decide +kernel
theorem test_lih : gAfterStep (.lih p0 (gr 5) 0x12345678) (withG s0 [(5, 0x9ABCDEF0)]) 5 = some (0x123456789ABCDEF0, 12) := by decide +kernel
theorem test_bfx : gAfterStep (.bfx p0 (gr 6) (gr 5) 8 11) (withG s0 [(5, 0x123456789ABCDEF0)]) 6 = some (0xFFFFFFFFFFFFFCDE, 8) := by
  decide +kernel
theorem test_madd : gAfterStep (.madd p0 (gr 6) (gr 6) (.imm 24) (gr 5)) (withG s0 [(5, 0x123456789ABCDEF0), (6, 0xFFFFFFFFFFFFFCDE)]) 6 =
    some (0x123456789ABC93C0, 12) := by decide +kernel
/-- CMPLTN compares with 2^64 − 1 (R70); a source that is also the destination is read first (R77). -/
theorem test_cmpltn : (match exec (.cmpltn p0 1 (gr 4) (.imm (BitVec.ofInt 23 (-1)))) s0 with
    | .next t => t.p 1
    | _ => false) = true := by decide +kernel
theorem test_callr : gAfterStep (.callr p0 (gr 4) (gr 4)) (withG s0 [(4, 0x40)]) 4 = some (8, 0x40) := by decide +kernel

/-- One rounding per granule: four products 2^−24 added to 1.0 (R152). -/
theorem test_granule :
    let a := List.replicate 4 (OFmt.val .hf 0x0C00, 11)
    (stepElem .hf 1 [] [] a a ⟨0x3F800000, 24⟩).v = 0x3F800002 := by decide +kernel

/-- The QB8 example of R158: 0.75 with count 12 after block 0, +0 with count 0 after block 1. -/
theorem test_blocks :
    let one := List.replicate 32 (OFmt.val .q8 1, 7)
    let a := one ++ List.replicate 32 (OFmt.val .q8 0xFF, 7)
    let sa := [s24Val 0x798000, s24Val 0x798000]
    let sb := [s24Val 0x7F0000, s24Val 0x7F0000]
    stepElem .q8 1 sa sb a (one ++ one) ⟨0, 24⟩ = ⟨0x3F400000, 12⟩ ∧ stepElem .q8 2 sa sb a (one ++ one) ⟨0, 24⟩ = ⟨0, 0⟩ := by decide +kernel

/-- The quantised row of R220, and its first element dequantised. -/
theorem test_quantise :
    let r := mstRow .q8 ⟨List.replicate 16 ⟨0x40000000, 24⟩ ++ List.replicate 16 ⟨0xBF000000, 24⟩, ⟨0, 0⟩, ⟨0, 0⟩⟩
    r.scale = 0x790205 ∧ r.bytes = List.replicate 16 127 ++ List.replicate 16 224 ∧
    (mldElem .q8 r.bytes (s24Val 0x790205) 0).v = 0x4000007B := by decide +kernel

/-- The example of R201: line 12 of A lies in bank 14, which is cache under SPLIT code 1 and scratch under code 0. -/
theorem test_descriptor :
    (checkStep .hf false false 0x200240000 31 0x200000 31 32 (scratchOf 1)).map (fun t => (t.code, t.tstat)) = some (Cause.matrixDescriptor, 5) ∧
    checkStep .hf false false 0x200240000 31 0x200000 31 32 (scratchOf 0) = none := by decide +kernel


/-! ### Witnesses: the hypotheses of each statement, clause by clause -/

theorem wit_IntegerRowComputes :
    s0.guard p0 = true ∧ s0.modsOk (condsOf (.dst (gr 3) :: .src (gr 4) :: opndsB (.imm 63))) = true ∧ shiftOk (.imm 63) = true ∧
    s0.b (.imm 1) ≠ 0 ∧ s0.b (.imm 0) = 0 ∧ s0.modsOk (condsOf [.dst (gr 3), .src (gr 4)]) = true ∧
    s0.modsOk (condsOf (.dst ⟨0, .plain⟩ :: .src ⟨4, .consume⟩ :: opndsB (.reg ⟨32, .peek⟩))) = true ∧
    s0.g (gr 4) = 0 ∧ (withG s0 [(4, 1)]).g (gr 4) ≠ 0 := by decide +kernel

theorem wit_ConstantsAndFieldsCompute :
    s0.guard p0 = true ∧ s0.modsOk (condsOf [.dst (gr 1)]) = true ∧ (0xFFFFFFFF : BitVec 55).toNat < 2 ^ 32 ∧
    s0.modsOk (condsOf (.dst (gr 1) :: opndsM ⟨gr 2, .idx (gr 3) 7⟩)) = true ∧ s0.modsOk (condsOf [.dst (gr 1), .src (gr 2), .src (gr 3)]) = true ∧
    (63 : BitVec 6).toNat + (0 : BitVec 6).toNat + 1 ≤ 64 ∧ (0 : BitVec 6).toNat + (63 : BitVec 6).toNat + 1 ≤ 64 ∧
    s0.modsOk (condsOf (.dst (gr 1) :: .src (gr 2) :: .src (gr 3) :: opndsK (.imm 1))) = true := by decide +kernel

theorem wit_ComparesAndChecks :
    s0.guard p0 = true ∧ s0.modsOk (condsOf (.src (gr 1) :: opndsB (.imm 0))) = true ∧
    s0.modsOk (condsOf (.dst (gr 3) :: .src (gr 1) :: opndsB (.imm 1))) = true ∧
    (let s := withG s0 [(1, 0x7FFFFFFFFFFFFFFF)]
     s.guard p0 = true ∧ (2 : Int) ^ 63 ≤ (s.g (gr 1)).toInt + (s.b (.imm 1)).toInt ∧ (s.g (gr 1)).toInt + (s.b (.imm 0)).toInt < 2 ^ 63 ∧
     (s.b (.imm 1)).toNat ≤ (s.g (gr 1)).toNat) ∧
    (let s := withG s0 [(1, 0x8000000000000000)]
     (s.g (gr 1)).toInt - (s.b (.imm 1)).toInt < -2 ^ 63 ∧ -2 ^ 63 ≤ (s.g (gr 1)).toInt - (s.b (.imm 0)).toInt) ∧
    (s0.g (gr 1)).toNat < (s0.b (.imm 1)).toNat ∧ (s0.b (.imm 0)).toNat ≤ (s0.g (gr 1)).toNat := by decide +kernel

theorem wit_BranchesJump :
    s0.guard p0 = true ∧ s0.modsOk (condsOf [.src (gr 4)]) = true ∧ s0.modsOk (condsOf [.dst (gr 4)]) = true ∧
    s0.modsOk (condsOf [.dst (gr 4), .src (gr 4)]) = true ∧ s0.modsOk (condsOf [.srcF (fr 1)]) = true ∧ (s0.g (gr 4)).toNat % 4 = 0 ∧
    ((withG s0 [(4, 3)]).g (gr 4)).toNat % 4 ≠ 0 ∧ s0.g (gr 4) ≠ 1 ∧ (withG s0 [(4, 1)]).g (gr 4) = 1 ∧
    (s0.fval (fr 1)).cnt < (1 : BitVec 6).toNat ∧ (0 : BitVec 6).toNat ≤ (s0.fval (fr 1)).cnt := by decide +kernel

/-- f1 holds 1.0, f2 a signalling NaN, f3 0.0 in FP32. -/
def sF : State := withF s0 [(1, 0xFFFFFFFF3F800000, 24), (2, 0xFFFFFFFF7F800001, 0), (3, 0xFFFFFFFF00000000, 24)]
/-- The same with the invalid exception enabled, and with SIG_THRESHOLD on and SIGMIN 25. -/
def sFe : State := sF.modMe (fun t => { t with fpctl := 0x7C })
def sFm : State := sF.modMe (fun t => { t with fpctl := 0x80, sigmin := 25 })

theorem wit_ScalarFpComputes :
    sF.guard p0 = true ∧ sFe.guard p0 = true ∧ sFm.guard p0 = true ∧ sF.modsOk (condsOf [.dstF (fr 4), .srcF (fr 1), .srcF (fr 2)]) = true ∧
    sF.modsOk (condsOf [.dstF (fr 4), .srcF (fr 1)]) = true ∧ sF.modsOk (condsOf [.dstF (fr 4), .srcF (fr 1), .srcF (fr 2), .srcF (fr 3)]) = true ∧
    sF.modsOk (condsOf [.dstF (fr 4), .src (gr 1)]) = true ∧
    (let r := opAdd .s sF.fpMode false (sF.fop .s (fr 1)) (sF.fop .s (fr 3))
     r.fl &&& sF.fpEnabled = 0 ∧ sF.belowSig r.c = false ∧ r.fl &&& sFm.fpEnabled = 0 ∧ sFm.belowSig r.c = true) ∧
    (let r := opAdd .s sFe.fpMode false (sFe.fop .s (fr 1)) (sFe.fop .s (fr 2))
     r.fl &&& sFe.fpEnabled ≠ 0) := by decide +kernel

theorem wit_ScalarFpMovesAndCompares :
    sF.guard p0 = true ∧ sF.modsOk (condsOf [.srcF (fr 1), .srcF (fr 2)]) = true ∧ sF.modsOk (condsOf [.dst (gr 1), .srcF (fr 1)]) = true ∧
    sF.modsOk (condsOf [.dstF (fr 4), .srcF (fr 1)]) = true ∧ sF.modsOk (condsOf [.dstF (fr 4), .src (gr 1)]) = true ∧
    (opCmp .s .lt (sF.fop .s (fr 1)) (sF.fop .s (fr 2))).2 &&& sF.fpEnabled = 0 ∧ sFe.guard p0 = true ∧
    (opCmp .s .lt (sFe.fop .s (fr 1)) (sFe.fop .s (fr 2))).2 &&& sFe.fpEnabled ≠ 0 ∧
    (opFtoi .s .w (sF.rndMode .rz) (sF.fop .s (fr 1)).x).2 &&& sF.fpEnabled = 0 ∧
    (opFtoi .s .w (sFe.rndMode .rz) (sFe.fop .s (fr 2)).x).2 &&& sFe.fpEnabled ≠ 0 := by decide +kernel

theorem wit_RoundingAndExp2 :
    (0 : Nat) < 4 ∧ (3 : Nat) < 4 ∧ (-1 : Int) < 0 ∧ (-126 : Int) ≤ 127 ∧ (roundAt 0 false 5 (-1) 0).1 = 2 ∧ (roundAt 2 false 5 (-1) 0).1 = 3 := by
  decide +kernel

/-- v1 holds 1.0 in every lane, v2 a signalling NaN in lane 5. -/
def ones : VVal := ⟨List.replicate 32 0x3F800000, List.replicate 32 24⟩
def sV (ctl min : Word) : State :=
  onMe (fun t => { t with fpctl := ctl, sigmin := min, v := [(1, ones), (2, ⟨setAt ones.lanes 5 0x7F800001, ones.cnts⟩)], q := [(1, 0)] })

theorem wit_VectorFpComputes :
    (sV 0 0).guard p0 = true ∧ (sV 0x7C 0).guard p0 = true ∧ (sV 0x80 63).guard p0 = true ∧
    (let rs := fun (s : State) (b : VReg) => s.each none .s (fun e => opAdd .s s.fpMode false ((s.v 1).elem .s e) ((s.v b).elem .s e))
     allFlags (rs (sV 0 0) 1) &&& (sV 0 0).fpEnabled = 0 ∧
     lanesWhere .s (fun r => (sV 0 0).belowSig (Nat.min r.c Fmt.s.p)) (rs (sV 0 0) 1) = 0 ∧
     allFlags (rs (sV 0x7C 0) 2) &&& (sV 0x7C 0).fpEnabled ≠ 0 ∧ allFlags (rs (sV 0x80 63) 1) &&& (sV 0x80 63).fpEnabled = 0 ∧
     lanesWhere .s (fun r => (sV 0x80 63).belowSig (Nat.min r.c Fmt.s.p)) (rs (sV 0x80 63) 1) ≠ 0) ∧
    (sV 0 0).modsOk (condsOf [.dstF (fr 1)]) = true ∧ (List.range 32).all (fun e => !(sV 0 0).active (some 1) .s e) = true := by decide +kernel

theorem wit_VectorIntegerComputes :
    let s := sV 0 0
    s.guard p0 = true ∧ (s.v 1).lanes.length = 32 ∧ (s.v 1).cnts.length = 32 ∧ (31 : Nat) < 32 ∧ (0 : Nat) < 32 / vwBits .w ∧ 3 < 32 / vwBits .b ∧ 1 < 32 / vwBits .h ∧
    s.laneOn none 31 = true ∧ s.laneOn (some 1) 31 = false := by decide +kernel

theorem wit_MasksAndLanesMove :
    let s := withG s0 [(1, 31), (2, 32)]
    s.guard p0 = true ∧ s.modsOk (condsOf [.dst (gr 3)]) = true ∧ s.modsOk (condsOf [.src (gr 3)]) = true ∧
    s.modsOk (condsOf [.src (gr 3), .src (gr 4)]) = true ∧ s.modsOk (condsOf [anySrc (.g (gr 3))]) = true ∧
    s.modsOk (condsOf [anySrc (.f (fr 3)), .src (gr 1)]) = true ∧ s.modsOk (condsOf [.dst (gr 3), .src (gr 1)]) = true ∧
    s.modsOk (condsOf [.dstF (fr 3), .src (gr 1)]) = true ∧ (s.g (gr 1)).toNat < vcount .s ∧ vcount .s ≤ (s.g (gr 2)).toNat := by decide +kernel

/-! #### Memory -/

def m10 : MemOp := ⟨gr 10, .imm 0⟩
/-- Offset 16 of the own tile store in g10, with 1.0 in FP32 there and a count of 5 at the place its index names. -/
def sO : State := withF (withG (s0.modMyCore (fun k => { k with store := [(16, 0x81), (18, 0x80), (19, 0x3F)] }))
  [(10, 0xEFFF000000000010)]) [(1, 0xFFFFFFFF3F800000, 24)]
/-- The same, poisoned. -/
def sOp : State := sO.modMyCore (fun k => { k with storePoison := [0] })
/-- The same with a queued matrix step over it. -/
def srcAt (a b : Word) : MatSrc := ⟨a, b, none⟩
def sOq : State := sO.modMyCore (fun k => { k with mq := [⟨.mld 0 (srcAt 0 0) .s none, 7, 0, 0, 0, 0, [], []⟩] })
/-- A message of the issuing context, number 0. -/
def msg0 (k : MKind) (e : Nat) : Msg := ⟨e, 0, 0, e, k, 0, 0x2000, 0, 0x2000, 0, 0, [(0x2000, 1)], []⟩
/-- The same with a full write queue. -/
def sOw : State := { sO with net := (List.range 8).map (msg0 (.unit false true false)), msgCtr := 8 }
/-- Page 0x1000 mapped at 0x2000 of partition 0, which lies on half-stack 0; g10 holds 0x1000. -/
def sM : State := withF (withG ((s0.modMyCore (fun k => { k with tb := [⟨0x1000, 0x2007, false⟩], split := 1 })).modPart 0
  (fun p => { p with present := true, bands := 1, halves := 1, deckle := [(0, 0x8000000000000000)] })) [(10, 0x1000)]) [(1, 0xFFFFFFFF3F800000, 24)]
/-- Answers 5 and 6 have come; or 6 has not; or 5 was refused; or poisoned. -/
def rep (i : Nat) (z : Bool) (c : Nat) : Reply := ⟨i, [1, 2, 3, 4, 5, 6, 7, 8, 9, 10, 11, 12, 13, 14, 15, 16], z, c, 0⟩
def sA (rs : List Reply) : State := sM.modMe (fun t => { t with phase := ⟨4, 0, [5, 6], [0x1000, 0x1010], 0, none, []⟩, replies := rs })
def m10x : MemIdx := ⟨gr 10, 1, 0⟩
/-- Stores of the context still travel; so do write-backs of its cache; nothing does. -/
def sSt (k : MKind) : State := { sM with net := [msg0 k 0], msgCtr := 1 }
/-- An instruction of several phases stands at a step. -/
def atStep (s : State) (n : Nat) : State := s.modMe (fun t => { t with phase := ⟨n, 1, [0], [], 0, none, []⟩ })
/-- A range of 64 bytes at 0x1000 in g10 and g11, with a dirty line, a clean one and a local copy in the cache. -/
def sR : State := withG (sM.modMyCore (fun k => { k with split := 1, cache := [⟨0x80, List.replicate 64 1, true, false, false⟩,
  ⟨0x81, List.replicate 64 2, false, false, false⟩, ⟨0x90, List.replicate 64 3, true, false, false⟩, ⟨0x90, List.replicate 64 3, false, false, true⟩] }))
  [(10, 0x1000), (11, 64), (12, 0x40000001)]

/-! #### Threads, barriers, register bits, work lists, records -/

/-- A task of four threads runs on core 0, a gang of one; g1 holds 1, g2 holds 4, g3 holds 3. -/
def rec4 : TaskRec := ⟨[⟨1, 0x1000, 0⟩], 4, 0, false, 0, 0, 0, []⟩
def tk1 : Task := ⟨1, rec4, .running, [], 0, 0, 0, [0], .reset, none, [], 0, [], [0, 0, 0, 0], false, false, [], [], 0⟩
def sT : State := withG ((s0.modMyCore (fun k => { k with tstate := .bound, taskId := 1, gangSize := 1 })).modPart 0
  (fun p => { p with present := true, bands := 1, window := [tk1] })) [(1, 1), (2, 4), (3, 3)]
def inCtx (s : State) (x : Nat) (st : CtxState) : State := s.modCtx 0 x (fun t => { t with state := st, exitWord := 0x55, g := [(1, ⟨1, true⟩)] })
/-- Context 1 issues. -/
def as1 (s : State) : State := { inCtx s 1 .running with cur := (0, 1) }
/-- The 128 bytes of a record have come back to TSPAWN: a well-formed one, and one with byte 0 wrong. -/
def recBytes : List Byte := [0, 1, 0, 0, 0, 0, 0x80, 0] ++ List.replicate 16 0 ++ [4] ++ List.replicate 103 0
def sRec (bs : List Byte) (n : Nat) : State :=
  (withG (sT.modMe (fun t => { t with phase := ⟨4, 0, [5], [0x1000], 0, none, []⟩, replies := [⟨5, bs, false, 0, 0⟩] })) [(1, 0x1000)]).modPart 0
    (fun p => { p with enq := List.replicate n 0x2000 })
/-- The tile's barrier: three have arrived; it was aborted; the issuing thread waits in a generation. -/
def sBar (arr : List Nat) (gen : Nat) (ab : Option (Nat × Nat)) : State := sT.modMyCore (fun k => { k with bar := ⟨gen, arr, ab, none⟩ })
def inGen (s : State) (n : Word) : State := s.modMe (fun t => { t with phase := ⟨4, 0, [], [], n, none, []⟩ })
/-- A plain write to s5 is pending. -/
def sPend : State := s0.modMyCore (fun k => { k with spend := [⟨5, 9, 5⟩] })
def sWl (l : List Word) : State := s0.modMyCore (fun k => { k with wl := l })

/-! #### The matrix unit -/

/-- g1, g2: rows of 64 bytes from 0x1000, 8 of them with scales at 0x3000 possible; g3, g4: 4 rows from 0x2000; g5: a position. -/
def sX : State := withF (withG s0 [(1, 0x201000), (2, 7), (3, 0x202000), (4, 3), (5, 0x0400000000000010), (6, 0x3000), (7, 0x201004), (8, 0xC7), (9, 0xC3)])
  [(1, 0x3F800000, 24)]
/-- The same with a full queue; with one command of accumulator 1. -/
def qz (d : Nat) : QCmd := ⟨.mzero d, 0, 0, 0, 1, 0, [], []⟩
def sXq (n : Nat) : State := sX.modMyCore (fun k => { k with mq := List.replicate n (qz 1) })
/-- Accumulator 1 holds 1.0 everywhere, with row state; the store holds some values; a command stands ready. -/
def one : FC := ⟨0x3F800000, 24⟩
def acc1 : Acc := ⟨List.replicate 32 ⟨List.replicate 32 one, one, ⟨0x40000000, 20⟩⟩, 5, 0xFFFFFFFF⟩
def sQ (op : QOp) : State := sX.modMyCore (fun k => { k with
  acc := [(1, acc1)], cycle := 100000, mq := [⟨op, 3, 0, 0, 1, 0, [], []⟩], store := (List.range 64).map (fun i => (0x1000 + i, 0x3C)) ++ (List.range 64).map (fun i => (0x2000 + i, 0x3C)) })
def qOf (op : QOp) : QCmd := ⟨op, 3, 0, 0, 1, 0, [], []⟩
def srcA : MatSrc := srcAt 0x201000 7
def srcB : MatSrc := srcAt 0x202000 3
/-- A queue with a poisoned source; with the head not ripe; with a closed batch that armed g9 of context 0. -/
def sQp (op : QOp) : State := (sQ op).modMyCore (fun k => { k with storePoison := [0x1000 / 64, 0x2000 / 64] })
def sQl (op : QOp) : State := (sQ op).modMyCore (fun k => { k with cycle := 100 })
def sQb (l : List QCmd) : State := (sQ (.mzero 1)).modMyCore (fun k => { k with mq := l, closed := [⟨1, some (0, 9)⟩] })

/-! #### The copy engine -/

/-- g1 a source, g2 a destination, g3 a shape, g4 a control word. -/
def sC (src dst shape ctl : Word) : State := withG sO [(1, src), (2, dst), (3, shape), (4, ctl)]
/-- A copy of 16 bytes within the own store, of transfer 3. -/
def cp (src dst shape ctl : Word) : CopyCmd := ⟨0, src, dst, shape, ctl, 0x4000, 0, [], true, [], false, 0, [], [], none, none, none, [], false, none⟩
def cOwn : CopyCmd := cp 0xEFFF000000000010 0xEFFF000000001000 16 0x0003000000000000
def cFill : CopyCmd := cp 0x1122334455667788 0xEFFF000000001000 16 0x0004000000000001
def sF1 (q : CopyCmd) : State := (sO.modMyCore (fun k => { k with fifo := [q, cOwn] })).modMe (fun t => { t with state := .running })
/-- The FIFO holds 8 commands; the block's words have come back; three transfers of numbers 3, 4, 5, the first running. -/
def sF8 : State := sO.modMyCore (fun k => { k with fifo := List.replicate 8 cOwn })
def sF3 : State := withG (sR.modMyCore (fun k => { k with fifo := [{ cOwn with started := true, done := 7 }, cFill, { cFill with status := some 9 }] }))
  [(1, 3), (2, 4), (3, 0x10000), (4, 0x20000), (5, 9)]

/-! #### Signals, roles, couches -/

/-- A gang of two tiles; g1 a target word, g2 a value, g3 a device number. -/
def tk2 : Task := { tk1 with record := { rec4 with variants := [⟨2, 0x1000, 0⟩], pool := true }, tiles := [0, 1] }
def sG : State := ((s0.modCore 0 (fun k => { k with tstate := .bound, taskId := 1, gangSize := 2, pool := true })).modCore 1
  (fun k => { k with tstate := .bound, taskId := 1, gangSize := 2, gangIdx := 1, pool := true })).modPart 0
  (fun p => { p with present := true, bands := 1, window := [tk2] })
def sS (w v d : Word) : State := withG (sG.modMe (fun t => { t with state := .running })) [(1, w), (2, v), (3, d)]
/-- A role map: role 5 is leased by the own task, role 6 held by it, role 7 held by another task, role 8 free and routing. -/
def role (n : Nat) (st : Bool) (h e : Option Nat) : Role := ⟨n, st, if st then some 9 else some 12, none, h, e, false, false, default, none, 0, false, false⟩
def sRo (w v : Word) : State := (withG (sG.modPart 0 (fun p => { p with roles :=
  [role 5 true (some 1) (some 90000), role 6 true (some 1) none, role 7 true (some 2) none, role 8 false none none] })) [(1, w), (2, v)])
/-- Partition 0 has a right on stack 2. -/
def sCo (n : Word) : State := withG (sG.modPart 0 (fun p => { p with stackright := 4 })) [(1, n)]

/-! #### Exceptions, control registers, translation, supervisor operations -/

/-- A thread at a trap level, with handlers at 0x8000 and 0x9000 where they are nonzero. -/
def sE (l : Level) (tvec svc : Word) : State := (sT.modMe (fun t => { t with
  state := .running, level := l, tvec := tvec, tcause := 0x21, tval := 2, tepc := 0x400, hepc := 0x500, g := [(24, ⟨24, true⟩), (1, ⟨1, true⟩)]
  ushadow := [(24, ⟨124, true⟩)], sshadow := [(24, ⟨224, true⟩)] })).modPart 0 (fun p => { p with svcvec := svc })
/-- A supervisor thread of a tile; one of an Atelier core; g1 a value. -/
def sSup (v : Word) : State := withG (sT.modMe (fun t => { t with level := .l2 })) [(1, v)]
def sAtl (v : Word) : State := let s : State := { s0 with cur := (1152, 0) }
  withG ((s.modMe (fun t => { t with state := .running, level := .l2 })).modPart 0 (fun p => { p with present := true })) [(1, v)]
/-- Translation: g1 an address, g2 an entry word, g3 an index; the buffer holds a page, locked or not. -/
def sTb (sup : Bool) (lck : Bool) (a b : Word) : State := withG ((sT.modMe (fun t => { t with level := if sup then .l2 else .l0 })).modMyCore
  (fun k => { k with tb := [⟨0x1000, if lck then 0x200F else 0x2007, false⟩, ⟨0x4000, 0x5003, false⟩] })) [(1, a), (2, b), (3, 1)]
/-- Supervisor operations: partition 0 owns half-stack 0, and a granule of it is dirty in slice 4, its home. -/
def sSv (a b : Word) : State := withG ((sR.modPart 0 (fun p => { p with halves := 1, window := [{ tk1 with phase := .running }, { tk1 with id := 2, phase := .ready }, { tk1 with id := 3, switchAt := some 5 }] })).modMe
  (fun t => { t with level := .l2 })) [(1, a), (2, b)]
def tag0 : Tag := ⟨0, 0, 0x2000, 0x2000, 0xFF, 0x1, 0, [(0, List.replicate 64 9)], 0⟩
def sDirty (a b : Word) : State := (sSv a b).modSlice 4 (fun k => { k with tags := [tag0] })

/-! #### Tasks, requests at tiles and slices -/

/-- Partition 0: band 0, half-stack 0, page 0x1000 in the D-Set, an address in the enqueue queue; the record stands in slice 4, its home. -/
def P0 (p : Part) : Part := { p with present := true, bands := 1, halves := 1, deckle := [(0, 0x8000000000000000)], dset := [⟨0x1000, 0x2007, false⟩], enq := [0x1000, 0x1040] }
def tagRec (bs : List Byte) : Tag := ⟨0, 0, 0x2000, 0x2000, 3, 0, 0, [(0, bs.take 64), (1, bs.drop 64)], 0⟩
def sTk (bs : List Byte) : State := (s0.modPart 0 P0).modSlice 4 (fun k => { k with tags := [tagRec bs] })
def recNo : List Byte := recBytes.set 0x18 0
def recWide : List Byte := (recBytes.set 6 0).set 7 0x48
/-- A ready task of one tile, on partition 0; the same running on tile 0, its thread over. -/
def tkR : Task := { tk1 with phase := .ready, tiles := [] }
def sDisp : State := s0.modPart 0 (fun p => { P0 p with window := [tkR] })
def sRun : State := (s0.modCore 0 (fun k => { k with tstate := .bound, taskId := 1, gangSize := 1, ctxs := [(0, { Ctx.reset with state := .ended })] })).modPart 0
  (fun p => { P0 p with window := [tk1, { tk1 with id := 2, deps := [1], phase := .ready }], roles := [role 5 true (some 1) none] })
/-- Reports wait for a ring of 16 places, with room or full. -/
def sRing (hd : Word) : State := s0.modPart 0 (fun p => { P0 p with reports := [1, 0x200000000], released := 1, crbase := 0x5000, crsize := 4, crtail := 3, crhead := hd })
/-- Four tiles of a gang, the first with 40 entries; a batch of them on its way to tile 1. -/
def tk4 : Task := { tk1 with tiles := [0, 1], record := { rec4 with variants := [⟨2, 0, 0⟩] } }
def sLvl : State := (sG.modCore 0 (fun k => { k with wl := List.replicate 40 7, cycle := 5000, wlSent := [(1, [1, 2, 3])] })).modCore 1 (fun k => { k with wl := [9] })
/-- A request of thread (0, 0) at tile 1, whose store holds bytes at 0x100; poisoned; or with an operand range over them. -/
def rq (k : MKind) (a n : Nat) : Msg := { msg0 k 7 with addr := a, bytes := cellsAt a (List.replicate n 0xA5) }
def sTi (k : MKind) : State := { (sG.modCore 1 (fun c => { c with store := [(0x100, 1), (0x103, 2)] })) with net := [rq k 0x100 4], msgCtr := 8 }
def sTiQ (k : MKind) : State := (sTi k).modCore 1 (fun c => { c with mq := [⟨.mld 0 (srcAt 0x100 0) .s none, 7, 0, 0, 0, 0, [], []⟩] })
def atomAdd : AtomOp := .amo .add .w 5
/-- A line of tile 1's cache portion under the request. -/
def sLn (k : MKind) (there : Bool) : State := (sTi k).modCore 1 (fun c => { c with cache := if there then [⟨4, List.replicate 64 3, false, false, false⟩] else [] })
/-- A request at slice 4 for piece 0x2000 of stack 0, which the slice holds or does not; logging has room. -/
def rqS (k : MKind) : Msg := { msg0 k 7 with addr := 0x2000, slice := 4, bytes := cellsAt 0x2000 (List.replicate 4 0xA5) }
def sSl (k : MKind) (pres poison : BitVec 32) (tags : Bool) : State := { ((s0.modPart 0 (fun p => { P0 p with sys := [(0x1028, 9)] })).modSlice 4 (fun l => { l with
  tags := if tags then [⟨0, 0, 0x2000, 0x2000, pres, 0, poison, [(0, List.replicate 64 9)], 0⟩] else [] })) with net := [rqS k], msgCtr := 8 }
/-- A unit for die 1, in its sender's order. -/
def vp (o : Nat) : ViewPiece := ⟨0, 0x80, List.replicate 64 4, false, o⟩
def sDl (rep : Option Msg) (view : List ViewPiece) (clk : List Nat) : State := s0.modDie 1 (fun d => { d with clock := clk, view := view, inbox := [⟨0, [1, 0, 0, 0], vp 5, rep, none⟩] })

/-! #### Domain space, the census, roles -/

/-- A domain operation of thread (0, 0), which runs no task; the partition exports 64 KiB at offset 0 of partition-physical 0x2000. -/
def ag0 : Agent := ⟨0, 0, 0, 0⟩
def om (dev off : Nat) (op : DomOp) : OutMsg := ⟨3, ag0, dev, off, op⟩
def sDm (o : OutMsg) : State := { ((((sSl (.read 4) 1 0 true).modPart 0 (fun p => { p with exportBase := 0, exportLen := 0x10000, exportPa := 0x2000, ports := 1 })).modMe
  (fun t => { t with rfcount := 2 })) ) with net := [], outbox := [o] }
/-- A fill on its way to s3, or g9, of context 0 of core 0. -/
def sFi (reg : Nat) : State := { (s0.modMe (fun t => { t with state := .running })) with net := [msg0 (.fill 0 0 reg 0x77) 2] }
/-- A group of two contributors, with or without the first flit. -/
def sCl (q : Option Collective) : State := { sDm (om 0x3FFF 0x3FFF00100008 (.atomic atomAdd)) with groups := [(1, 2)], collectives := q.toList }
/-- A census tick of partition 0 with a proposal word. -/
def sCe (w ctl : Word) (tile : TileState) : State := { ((s0.modPart 0 (fun p => { P0 p with bands := 4, censusNext := ctl, sys := Mem.writeN [] 0x40 (toBytes 8 w.toNat) })).modCore 5 (fun k => { k with tstate := tile })) with gtime := 250000 }
def chg (kd : ChangeKind) (b : Bool) (m : Option Nat) : Change := ⟨5, kd, 0, b, m, 0⟩
def sCh (c : Change) (rs : List Role) : State := (s0.modPart 0 (fun p => { P0 p with changes := [c], roles := rs })).modCore 5 (fun k => { k with tstate := .storage 9, store := [(3, 4)] })
def rl9 (b : Option Nat) : Role := { role 9 true none none with tile := some 5, backing := b }

/-! #### Gang switch, checkpoints -/

/-- Task 1 running with its switch due; saved, at the head of the window. -/
def sSw (at_ : Option Nat) : State := { sRun.modPart 0 (fun p => { p with window := [{ tk1 with switchAt := at_ }, { tk1 with id := 2, phase := .waiting }] }) with gtime := 50 }
def savedCore : Core := { Core.reset with store := [(5, 6)], cycle := 99, ctxs := [(0, { Ctx.reset with state := .running, pc := 0x44, g := [(3, ⟨9, true⟩)] }), (1, { Ctx.reset with state := .ended })] }
def sSaved : State := s0.modPart 0 (fun p => { P0 p with window := [{ tk1 with phase := .saved, tiles := [], saved := [savedCore], stopped := 7 }] })
/-- A checkpoint's capture: wanted, begun; a partition stopped, to be rolled back. -/
def sCap (w : Bool) (cap : Option Nat) : State := sRun.modPart 0 (fun p => { p with ckptWanted := w, capture := cap, reports := [1, 2], sys := [(0x1029, 1)] })
def ck1 : Ckpt := ⟨1, 0, [{ tk1 with phase := .ready, tiles := [] }], [0x1000], [⟨0x1000, 0x2007, false⟩], [role 5 true none none], 0, 0, 4, [], 0⟩
def undo1 : Undo := ⟨0x2000, 0, 0, 0x2000, none, List.replicate 64 1, false⟩
def sRb (roll : Bool) (u : List Undo) : State := (sRun.modPart 0 (fun p => { p with stopped := true, inRollback := roll, ckpt := some ck1, undo := u })).modSlice 4 (fun l => { l with tags := [⟨0, 0, 0x2000, 0x2000, 1, 0, 0, [(0, List.replicate 64 9)], 0⟩] })

/-! #### Faults, resets, resizes, slices, the platform -/

def flt (u i l : Nat) (c : Bool) (st : Option Nat) : FaultIn := ⟨u, i, l, false, c, st⟩
/-- A resize of band 1 and half-stack 1 of partition 0 to partition 2, accepted. -/
def sRz (rz : Option Resize) : State := ((s0.modPart 0 (fun p => { P0 p with bands := 3, halves := 3, resize := rz })).modPart 2 (fun p => { p with present := true, bands := 0x10 })).modStack 0
  (fun k => { k with mem := [(0x20, 7), (0x800000020, 8)] })
def rz1 (d : Nat) : Resize := ⟨2, 2, 2, d⟩
/-- A couch at a step, begun by thread (0, 0), with a register to fill or an event. -/
def sCs (st : Nat) (reg : Option Nat) : State := (sR.modStack 0 (fun k => { k with couch := some ⟨st, ag0, reg, 0, [4]⟩ })).modMe (fun t => { t with state := .running })
/-- A SPLIT change on core 0 to code 2, with a line in the portion or none. -/
def sSp (full : Bool) : State := s0.modMyCore (fun k => { k with split := 1, splitChange := some ⟨2, 0, [4]⟩, cache := if full then [⟨4, List.replicate 64 3, true, false, false⟩] else [], store := [(3, 4)] })
/-- A domain switch of stack 0, armed for tick 2000, or switching. -/
def sDs (arm sw : Bool) : State := (sRz none).modStack 0 (fun k => { k with
  nmap := 0x4040, nrows := [1, 2, 4, 8], armed := if arm then some ⟨0x4040, [1, 2, 4, 8], 1⟩ else none, dswitch := if arm then 2000 else 0, switching := sw })
/-- The host window of partition 0. -/
def sHost : State := (sSl (.read 4) 1 0 true).modPart 0 (fun p => { p with deckle := [(0, 0xC000000000000000)] })
def img1 : ModImage := ⟨0x40000, 4, [1, 2, 3, 4]⟩
def lay1 : PartLayout := ⟨0, 1, 1, 0, 1, 0, [0x8000000000000000], 0x9003, 0, [5, 6], 0, 0, 0, [⟨0x1000, 0x2007⟩], [], []⟩

/-! #### What a thread has not acquired, barriers of a gang, captured operands -/

/-- A copy engine has written byte 16 of the own store, which held 7, and no tile has acquired since. -/
def sFr : State := sO.modMyCore (fun k => { k with fresh := [⟨16, 7, 0, none⟩] })
/-- A count address with a region number that no space has, in g11. -/
def sCk (a : Word) : State := withG s0 [(10, a), (11, 0x1000000000000000)]
/-- A store of its own is on its way where TSPAWN issues; TSPAWN has kept its address. -/
def sWb : State := { (withG sT [(1, 0x1000)]) with net := [msg0 (.cacheStore 0) 0], msgCtr := 1 }
def sKept : State := (sRec recBytes 0).modMe (fun t => { t with g := [(1, ⟨0x1003, true⟩)], phase := { t.phase with val := 0x1000 } })
/-- A gang of two tiles at its barrier: thread (0, 0) has released, and `arr` have arrived; or it was aborted. -/
def sGb (arr : List Nat) (gen : Nat) (ab : Option (Nat × Nat)) : State :=
  (atStep sG 2).modPart 0 (fun p => { p with window := [{ tk2 with gbar := ⟨gen, arr, ab, none⟩ }] })
/-- The barrier of another tile of the gang has been aborted. -/
def sBarred : State := sT.modMyCore (fun k => { k with bar := ⟨0, [], none, some (2, 5)⟩ })

/-! #### Leases and their events, supervisor operations that have waited -/

/-- The leaser of role 5, which issues, has a LEASE_EXPIRING of that role among its events. -/
def sLx (B : Nat) : State := (((sRo 5 30000).modMe (fun t => { t with
  state := .running, phase := ⟨4, 0, [], [5, B, 0], 0, none, []⟩, events := [⟨Cause.leaseExpiring, 5, 0, none, none⟩] })).modPart 0 (fun p => { p with
    roles := p.roles.map (fun r => if r.num = 5 then { r with leaser := ⟨0, 1, 0, 0⟩, warn := true, warned := true } else r) }))
/-- An SCFGW of number 3 for slice 7 has come back, or a CWBR stands at a step with the range 0x2000, 64; slice 7 keeps a request of number `n`. -/
def sSw3 (n : Nat) (hold : Bool) : State := ((sSv 7 1).modMe (fun t => { t with phase := ⟨4, 0, [], [7, 1, 3], 0, none, []⟩ })).modSlice 7
  (fun l => { l with hold := hold, mshrs := if hold then [] else [{ msg0 (.read 4) n with id := n }], queue := if hold then [{ msg0 (.read 4) n with id := n }] else [] })
def sWbr (s : State) (step : Nat) : State := s.modMe (fun t => { t with phase := ⟨step, 0, [0], [0x2000, 64], 0, none, []⟩, g := [(1, ⟨0x8000, true⟩), (2, ⟨0, true⟩)] })

/-! #### Window tasks, bytes not acquired, slices with something queued or full -/

/-- Task 1 waits on nothing any more, between two others. -/
def sWait : State := s0.modPart 0 (fun p => { P0 p with enq := [], window := [{ tkR with id := 4 }, { tkR with phase := .waiting, since := 5 }, { tkR with id := 6 }] })
/-- A copy engine has written byte 0x100 of tile 1, and no tile has acquired since. -/
def sTiF (k : MKind) : State := (sTi k).modCore 1 (fun c => { c with fresh := [⟨0x100, 9, 1, none⟩] })
/-- The unit on its way is in a fence's marks. -/
def sLnF (there : Bool) : State := (sLn (.cacheUpdate 1) there).modCore 0 (fun c => { c with xmarks := [7] })
/-- Slice 4 keeps queued a request that cannot be served, for want of log room: it stays before the next. -/
def sQueued (k : MKind) : State := { (sSl k 1 0 true).modSlice 4 (fun l => { l with queue := [{ rqS (.unit false true false) with id := 2 }] }) with
  parts := [(0, { P0 ((sSl k 1 0 true).part 0) with sys := [] })] }
/-- An atomic of the bank waits in an MSHR of slice 4. -/
def sBank (k : MKind) : State := (sSl k 1 0 true).modSlice 4 (fun l => { l with mshrs := [{ rqS (.atomic atomAdd) with id := 3, core := 1, sbyte := 0x2100, addr := 0x2100 }] })
/-- A store of a whole piece, which the slice does not hold; a read of it with every MSHR taken. -/
def rqW (z : Bool) : Msg := { rqS (.unit false true z) with bytes := cellsAt 0x2000 (List.replicate 64 0xA5) }
def sWhole (z : Bool) : State := { sSl (.unit false true z) 0 0 true with net := [rqW z] }
/-- A request for the first piece of a system area, at its home slice, which holds the piece. -/
def rqA (k : MKind) (z : Bool) : Msg := { rqS k with addr := sysPa, sbyte := 2 ^ 40, slice := 0, bytes := cellsAt sysPa (List.replicate (if z then 64 else 4) 0xA5) }
def sArea (k : MKind) (pres : BitVec 32) (pz z : Bool) : State := { (s0.modPart 0 (fun p => { P0 p with sys := [(0, 7)], sysPoison := if pz then [0] else [] })).modSlice 0 (fun l => { l with
  tags := [⟨0, 0, sysPa, 2 ^ 40, pres, 0, 0, [(0, List.replicate 64 9)], 0⟩] }) with net := [rqA k z], msgCtr := 8 }
def sFull : State := (sSl (.read 4) 0 0 true).modSlice 4 (fun l => { l with mshrs := (List.range 64).map (fun i => { rqS (.read 4) with id := 20 + i, sbyte := 0x4000 + 64 * i, addr := 0x4000 + 64 * i }) })

/-! #### Operations that are turned away, flits on their way, leases due, roles with two changes -/

/-- A full collective, and a routing tile of the partition; the same with a flit that stands on that tile. -/
def clq (n : Nat) : Collective := ⟨1, 8, atomAdd, n, [ag0]⟩
def sHop (q : Option Collective) : State := (sCl q).modPart 0 (fun p => { p with roles := [role 8 false none none] })
def sStands (q : Option Collective) : State := { sHop q with outbox := [], partials := [(12, clq 1)] }
/-- A census point at which role 9's lease ends; one at which role 9, held, is to be released. -/
def sLeaseDue : State := (sCe 0 0x110001400FA .idle).modPart 0 (fun p => { p with roles := [{ rl9 none with expiry := some 250000, leaser := ag0 }] })
def rHeld : Role := { rl9 none with holder := some 1, req := some ⟨1, 0, 250000⟩ }
def sHeld : State := (sCe 0 0x110001400FA (.storage 9)).modPart 0 (fun p => { p with roles := [rHeld] })
/-- Changes of role 9, tile 5 the tile that changes: role 4 is to come there next; another change of role 9 is pending. -/
def r4 : Role := { role 4 true none none with tile := some 7 }
def rR : Role := { role 9 false none none with tile := some 5 }
def sCh2 (c c' : Change) (rs : List Role) : State := (sCh c rs).modPart 0 (fun p => { p with changes := [c, c'] })
/-- The leaser of a routing role that leaves has 16 events and then its warning. -/
def rL : Role := { rR with expiry := some 90000, warn := true, warned := true, leaser := ag0 }
def sLl : State := (sCh (chg (.leaveRouting 9 .idle) false none) [rL]).modMe (fun t => { t with
  state := .running, events := List.replicate 16 default ++ [⟨Cause.leaseExpiring, 9, 0, none, none⟩] })

/-! #### Gangs that come back, capture with a full log, faults of a resident context, slices and hosts that wait -/

/-- A flit of the gang's saved requests still stands outside the tile where it belongs. -/
def sBack : State := { sRun.modPart 0 (fun p => { p with window := [{ tk1 with flits := [rq (.tileStore 0 true false) 0x100 4] }] }) with
  net := [rq (.tileStore 0 true false) 0x100 4] }
/-- A capture while a segment of the undo log is full; an answer is due to the gang, or none. -/
def sTight (inbox : List DieUnit) : State := ((sCap true (some 3)).modPart 0 (fun p => { p with sys := [] })).modDie 0 (fun d => { d with inbox := inbox })
/-- A rollback that restores a piece of a role, which stands on tile 5. -/
def undo5 : Undo := ⟨0x2000, 0, 0, 0x2000, some 5, List.replicate 64 1, true⟩
def sRb5 : State := ((sRb true [undo5]).modPart 0 (fun p => { p with roles := [{ role 5 true none none with tile := some 5 }] })).modCore 5 (fun k => { k with tstate := .storage 5 })
/-- An Atelier context of partition 0 runs on die 0. -/
def sAt (s : State) : State := s.modCtx 1152 2 (fun t => { t with state := .running, partid := 0 })
/-- A couch whose new owner's die still waits for a unit of the stack. -/
def sRipe (inbox : List DieUnit) : State := { (sCs 5 none).modDie 1 (fun d => { d with inbox := inbox }) with net := [] }
/-- A slice under hold whose first request, a store of part of a piece that it does not hold, finds every MSHR taken. -/
def rqU : Msg := rqS (.unit false true false)
def sStuck : State := (sSl (.read 4) 0 0 true).modSlice 4 (fun l => { l with
  hold := true, queue := [rqU, { rqU with id := 8 }]
  mshrs := (List.range 64).map (fun i => { rqS (.read 4) with id := 20 + i, sbyte := 0x4000 + 64 * i, addr := 0x4000 + 64 * i }) })
/-- The rest of a host's write waits; its slice is held, or not. -/
def sRest (hold : Bool) : State := { sHost.modSlice 4 (fun l => { l with hold := hold, tags := if hold then [] else l.tags }) with hostRest := some (0, 0x2000, [1, 2, 3, 4]) }
def sHeldHost : State := (sHost.modPart 0 (fun p => { p with sys := [] }))

/-! #### Transfers of other shapes and from other places -/

/-- Transfers that run: three rows of 8 bytes; a second piece of a long copy; a source and a destination in memory; a gather and a scatter of 4-byte
elements by the index list at 0x100, at index 1, with `b` bytes read. -/
def cRows : CopyCmd := { cOwn with shape := 0x8010001C00400010, done := 8, buf := [1, 2, 3, 4, 5, 6, 7, 8], started := true }
def cLong : CopyCmd := { cOwn with shape := 200, done := 16, buf := List.replicate 64 5, started := true }
def cMem : CopyCmd := { cOwn with src := 0x1010, dst := 0x1040, started := true }
def cEl (mode b : Nat) (bad : List Nat) : CopyCmd := { cOwn with
  ctl := 0x0003000000000000 + w64 mode, shape := 4, ilist := 0xEFFF000000000100, done := 1, buf := ([1, 0, 0, 0] ++ List.replicate 4 9).take b, bufBad := bad, started := true }

/-! #### The step -/

/-- g5 and f5 are empty; p1 is false. -/
def gE : GReg := ⟨5, .consume⟩
def fE : FReg := ⟨5, .consume⟩
def sEm : State := onMe (fun t => { t with g := [(5, ⟨1, false⟩)], f := [(5, ⟨1, 2, false⟩)] })


def bs8 : List Byte := [1, 2, 3, 4, 5, 6, 7, 8]

/-- Operands without modifiers are always met. -/
def plainOk (s : State) : Bool :=
  s.guard p0 && s.modsOk (condsOf [.dst (gr 1), .dst (gr 2), .src (gr 1), .src (gr 10), .dstF (fr 1), .srcF (fr 1)]) &&
  s.modsOk (condsOf (opndsM m10)) && s.modsOk (condsOf (opndsB (.imm 0)))
/-- An answer that is there and meets a test. -/
def okAnd {α ε : Type} (x : Except ε α) (p : α → Bool) : Bool :=
  match x with
  | .ok a => p a
  | .error _ => false
def errAnd {α ε : Type} (x : Except ε α) (p : ε → Bool) : Bool :=
  match x with
  | .ok _ => false
  | .error a => p a

theorem wit_OwnStoreLoads :
    plainOk sO = true ∧ sO.fresh = true ∧ [1, 2, 4, 8, 16].all (fun n => sO.ownAt (sO.ea m10) n n && !sO.ownPoison (sO.ea m10) n) = true ∧
    (let k := sO.g (gr 10) + BitVec.ofInt 64 ((sO.off m10.off).toInt / Fmt.s.bytes)
     sO.ownAt k 1 1 = true ∧ sO.ownPoison k 1 = false) ∧
    plainOk sOp = true ∧ sOp.fresh = true ∧ sOp.ownAt (sOp.ea m10) 8 8 = true ∧ sOp.ownPoison (sOp.ea m10) 8 = true ∧
    sO.myCore.unsettled 16 8 = false ∧ sO.ownPend 0 0 = [] ∧ ((sO.ownQueue (sO.ea m10) [7]).ownPend 0 0).map (fun e => e.bytes) = [[(16, 7)]] := by
  decide +kernel

theorem wit_OwnStoreLoads_fresh :
    plainOk sFr = true ∧ sFr.fresh = true ∧ sFr.freshFor 0 0 16 4 = true ∧ sFr.freshFor 0 0 17 4 = false ∧ sFr.myCore.unsettled 17 4 = false ∧
    sFr.ownPend 0 0 = [] ∧ sFr.ownAt (sFr.ea m10) 4 4 = true := by decide +kernel

theorem wit_OwnStoreStores :
    plainOk sO = true ∧ sO.fresh = true ∧ sO.memWf = true ∧ [1, 2, 4, 8, 16].all (fun n => sO.ownAt (sO.ea m10) n n && (sO.ownMet (sO.ea m10) n).isNone) = true ∧
    sO.queueRoom 0 0 1 = true ∧ sO.queueRoom 0 0 2 = true ∧ sO.ownPend 0 0 = [] ∧
    (let k := sO.g (gr 10) + BitVec.ofInt 64 ((sO.off m10.off).toInt / Fmt.s.bytes)
     sO.ownAt k 1 1 = true ∧ sO.ownMet k 1 = none) ∧
    plainOk sOw = true ∧ sOw.fresh = true ∧ sOw.memWf = true ∧ sOw.ownAt (sOw.ea m10) 4 4 = true ∧ sOw.queueRoom 0 0 1 = false ∧
    plainOk sOq = true ∧ sOq.fresh = true ∧ sOq.memWf = true ∧ sOq.ownAt (sOq.ea m10) 4 4 = true ∧ sOq.queueRoom 0 0 1 = true ∧
    sOq.ownMet (sOq.ea m10) 4 = some 7 := by decide +kernel

theorem wit_OwnStoreAtomics :
    plainOk sO = true ∧ sO.fresh = true ∧ sO.ownAt (sO.ea m10) 8 8 = true ∧ sO.ownPoison (sO.ea m10) 8 = false ∧
    sO.ownMet (sO.ea m10) 8 = none ∧ sO.ownAt (sO.ea m10) 4 4 = true ∧ sO.ownPoison (sO.ea m10) 4 = false ∧ sO.ownMet (sO.ea m10) 4 = none := by
  decide +kernel

theorem wit_LoadsTakeTheirAnswers :
    let s := sA [rep 5 false 0, rep 6 false 0]
    plainOk s = true ∧ s.out = true ∧ fld (s.ea m10) 63 60 ≠ 0xC ∧
    (s.actives none .s).all (fun e => fld (s.countAddr m10 (gr 10) Fmt.s.bytes + w64 e) 63 60 != 0xC) = true ∧
    okAnd (s.me.allReplies s.me.phase.ids) (fun rs => rs == [rep 5 false 0, rep 6 false 0] && (replyTrap (rs.zip s.me.phase.eas)).isNone) = true ∧
    (let t := sA [rep 5 true 0, rep 6 false 0]
     t.out = true ∧ okAnd (t.me.allReplies t.me.phase.ids) (fun rs => (replyTrap (rs.zip t.me.phase.eas)).isSome) = true) ∧
    (let t := sA [rep 5 false 0]
     t.out = true ∧ errAnd (t.me.allReplies t.me.phase.ids) (fun i => i == 6) = true) := by decide +kernel

theorem wit_LoadsTakeTheirAnswers_domain :
    let s := withG (sA [rep 5 false 0, rep 6 false 0]) [(10, 0xC000000000000000)]
    plainOk s = true ∧ s.out = true ∧ fld (s.ea m10) 63 60 = 0xC ∧
    okAnd (s.me.allReplies s.me.phase.ids) (fun rs => rs == [rep 5 false 0, rep 6 false 0] && (replyTrap (rs.zip s.me.phase.eas)).isNone) = true := by
  decide +kernel

/-- Whether a store with operands `os`, planes `pl` and condition `c` stands before its acceptance in `s`: with room, past checks 1 to 6, its
units in no other gang tile; and whether an operand range refuses it. -/
def accepts (s : State) (os : List Opnd) (pl : List Plane) (c : Bool) (refused : Bool) : Bool :=
  plainOk s && s.fresh && s.modsOk (condsOf os) && c && s.queueRoom 0 0 pl.length &&
  (match s.checks none (pl.flatMap (fun p => p.2.1)) with
    | (.ok ps, u) => (stalledRole ps).isNone && !u.closedBank ps &&
      (let split := planesAt pl (ps.filter (fun x => x.1.size != 0))
       (u.myCore.refusalAt split).isSome == refused && (farCores (split.flatMap (fun p => p.2))).isEmpty)
    | _ => false)

theorem wit_StoresAreAccepted :
    (let s := sM
     let ea := s.ea m10
     let k := s.countAddr m10 (gr 10) Fmt.s.bytes
     let es := s.actives none .s
     let u4 := unitAt .store ea 4
     accepts s (.src (gr 1) :: opndsM m10) [(some ea, [u4], [toBytes 4 7])] true false = true ∧
     accepts s (.srcF (fr 1) :: .src (gr 10) :: opndsM m10) [(some ea, [u4], [toBytes 4 7]), (some k, [countUnit .store k], [[24]])] true false = true ∧
     accepts s (.src (gr 1) :: .src (gr 2) :: opndsM m10) [(some ea, [unitAt .store ea 16], [toBytes 16 7])] true false = true ∧
     accepts s (opndsM m10) [(some ea, planeUnit .store ea .s :: planeUnits .store ea 4 es, es.map ((s.v 1).elemBytes .s))]
       (fld ea 63 60 != 0xC) false = true ∧
     accepts s (.src (gr 10) :: opndsM m10) [(some ea, planeUnit .store ea .s :: planeUnits .store ea 4 es, es.map ((s.v 1).elemBytes .s)),
       (some k, planeUnits .store k 1 es, es.map (fun e => toBytes 1 ((s.v 1).count .s e)))]
       (fld ea 63 60 != 0xC && es.all (fun e => fld (k + w64 e) 63 60 != 0xC)) false = true) ∧
    (let s := sO
     let ex := s.gatherOn none .s
     accepts s [.src m10x.base] [(none, s.gatherUnits .store m10x .s ex, ex.map (fun e => toBytes 4 ((s.v 1).bits .s e)))]
       (ex.all (fun e => (s.gatherTrap .store m10x .s e).isNone)) false = true) ∧
    accepts sOq (.src (gr 1) :: opndsM m10) [(some (sOq.ea m10), [unitAt .store (sOq.ea m10) 4], [toBytes 4 7])] true true = true ∧
    plainOk sOw = true ∧ sOw.fresh = true ∧ sOw.queueRoom 0 0 1 = false := by decide +kernel

theorem wit_StoresTravelToTheirPlace :
    sM.effType 0 0 0x2000 .nc = .nc ∧ sM.effType 0 0 0x2000 .wt = .wt ∧ sM.effType 0 0 0x2000 .own = .own ∧
    (sM.modMyCore (fun k => { k with pool := true })).effType 0 0 0x2000 .si = .si ∧
    (sM.effType 0 0 0x2000 .wt = .wt ∧ sM.lineHome 0 0x80 = 0 ∧ sM.lineStores 0 0 0x80 = [] ∧ sM.fetching 0 0x80 = false) ∧
    (sG.effType 0 0 0x2040 .wt = .wt ∧ sG.lineHome 0 0x81 ≠ 0) ∧ bs8 ≠ [] := by decide +kernel

theorem wit_StoresTravelToTheirPlace_whole :
    ((false : Bool) = false ∧ bs8 ≠ []) ∧ 64 % 64 = 0 ∧ (List.replicate 64 (1 : Byte)).length = 64 := by decide +kernel

theorem wit_MemoryChecksTrap :
    let ok := fun (s : State) => plainOk s && s.fresh
    (let s := withG s0 [(10, 0x1000000000000000)]
     ok s = true ∧ 1 ≤ fld (s.ea m10) 63 60 ∧ fld (s.ea m10) 63 60 ≤ 0xB) ∧
    (let s := withG s0 [(10, 0xF000000000000000)]
     ok s = true ∧ fld (s.ea m10) 63 60 = 0xF ∧ s.isSup 0 0 = false) ∧
    (let s := withG s0 [(10, 0xEFFF0000001FFFFF)]
     ok s = true ∧ fld (s.ea m10) 63 60 = 0xE ∧ s.scratch 0 < fld (s.ea m10) 20 0 + 1 ∧ fld (s.ea m10) 59 48 = 0xFFF) ∧
    (let s := withG s0 [(10, 0x1001)]
     ok s = true ∧ fld (s.ea m10) 63 57 = 0 ∧ (s.ea m10).toNat % 2 ≠ 0) ∧
    (let s := withG sM [(10, 0x2000)]
     ok s = true ∧ fld (s.ea m10) 63 57 = 0 ∧ (s.ea m10).toNat % 16 = 0 ∧ s.myCore.tbOpen = false ∧
     s.myCore.tb.any (fun e => e.holds (s.ea m10).toNat) = false) := by decide +kernel

theorem wit_MemoryChecksTrap_counts :
    let ok := fun (s : State) => plainOk s && s.fresh && s.queueRoom 0 0 2 &&
      s.modsOk (condsOf (.dstF (fr 1) :: .src (gr 11) :: opndsM m10)) && s.modsOk (condsOf (.srcF (fr 1) :: .src (gr 11) :: opndsM m10))
    (let s := sCk 0x1000000000000000
     ok s = true ∧ 1 ≤ fld (s.ea m10) 63 60 ∧ fld (s.ea m10) 63 60 ≤ 0xB) ∧
    (let s := sCk 0xF000000000000000
     ok s = true ∧ fld (s.ea m10) 63 60 = 0xF ∧ s.isSup 0 0 = false) ∧
    (let s := sCk 0xEFFF0000001FFFFF
     ok s = true ∧ fld (s.ea m10) 63 60 = 0xE ∧ s.scratch 0 < fld (s.ea m10) 20 0 + Fmt.s.bytes ∧ fld (s.ea m10) 59 48 = 0xFFF) ∧
    (let s := sCk 0x1000
     ok s = true ∧ fld (s.ea m10) 63 57 = 0 ∧ 1 ≤ fld (s.countAddr m10 (gr 11) Fmt.s.bytes) 63 60 ∧ fld (s.countAddr m10 (gr 11) Fmt.s.bytes) 63 60 ≤ 0xB) ∧
    (let s := withG s0 [(10, 0x1002), (11, 0x1000)]
     ok s = true ∧ fld (s.ea m10) 63 57 = 0 ∧ fld (s.countAddr m10 (gr 11) Fmt.s.bytes) 63 57 = 0 ∧ (s.ea m10).toNat % Fmt.s.bytes ≠ 0) ∧
    (let s := withG s0 [(10, 0x2000), (11, 0x1000)]
     ok s = true ∧ fld (s.ea m10) 63 57 = 0 ∧ fld (s.countAddr m10 (gr 11) Fmt.s.bytes) 63 57 = 0 ∧ (s.ea m10).toNat % Fmt.s.bytes = 0 ∧
     s.myCore.tbOpen = false ∧ s.myCore.tb.any (fun e => e.holds (s.ea m10).toNat) = false) := by decide +kernel

theorem wit_FencesWaitAndAcquiresDiscard :
    plainOk sM = true ∧ sM.me.phase.step = 0 ∧ sM.storesDone 0 0 false sM.msgCtr = true ∧
    (let s := sSt (.unit false true false)
     plainOk s = true ∧ s.me.phase.step = 0 ∧ s.storesDone 0 0 false s.msgCtr = false) ∧
    (let s := sSt (.cacheStore 0)
     plainOk s = true ∧ s.me.phase.step = 0 ∧ s.storesDone 0 0 true s.msgCtr = false) ∧
    (let s := atStep sM 2
     plainOk s = true ∧ s.me.phase.step = 2 ∧ s.me.rfcount = 0 ∧ s.widerThanCache 0 .tile = false ∧ s.writesDone 0 0 s.me.phase.mark = true) ∧
    (let s := atStep (sSt (.unit true true false)) 2
     plainOk s = true ∧ s.me.phase.step = 2 ∧ s.widerThanCache 0 .dev = true ∧ s.writesDone 0 0 s.me.phase.mark = false) ∧
    (let s := atStep sM 3
     plainOk s = true ∧ s.me.phase.step = 3 ∧ s.deliveredAll s.me.phase.mark = true) ∧
    (let s := atStep (sM.modDie 0 (fun d => { d with inbox := [⟨0, [], ⟨0, 0, [], false, 0⟩, none, none⟩] })) 3
     plainOk s = true ∧ s.me.phase.step = 3 ∧ s.deliveredAll s.me.phase.mark = false) ∧
    (let s := onMe (fun t => { t with rfcount := 1 })
     plainOk s = true ∧ s.me.rfcount ≠ 0) ∧
    (plainOk sM = true ∧ sM.me.rfcount = 0 ∧ (gr 1).num ≠ 0) ∧
    (let s := onMe (fun t => { t with refCount := 2, refCode := 0x21 })
     s.guard p0 = true ∧ s.modsOk (condsOf [.dst (gr 0)]) = true ∧ s.me.rfcount = 0 ∧ w64 (s.me.refCode + Nat.min s.me.refCount 0xFFFFFF * 0x100) ≠ 0 ∧
     (gr 0).num = 0) ∧
    plainOk sO = true ∧ sO.fresh = true ∧ sO.ownAt (sO.ea m10) 8 8 = true ∧ sO.ownMet (sO.ea m10) 8 = none ∧
    sO.storesDone 0 0 false sO.msgCtr = true ∧ sO.queueRoom 0 0 1 = true ∧
    (let l0 : Line := ⟨0x80, List.replicate 64 1, true, false, false⟩
     l0 ∈ (sR.core 0).cache ∧ l0 ∈ ((sR.acquire 0 .dev).core 0).cache ∧ 0 ∈ sR.cacheCores 0 ∧ sR.widerThanCache 0 .dev = true ∧
     sR.widerThanCache 0 .tile = false) := by decide +kernel

theorem wit_FencesWaitAndAcquiresDiscard_fresh :
    let b : FreshByte := ⟨16, 7, 0, some 0⟩
    0 ∈ (sSt (.unit true true false)).gangCores 0 ∧ b.ended.isSome = true ∧
    b.ended.all (fun n => decide (n < (sSt (.unit true true false)).msgCtr)) = true := by decide +kernel

/-- A range that the pages and windows map, past every stalled store; with no write-back on its way. -/
def rangeOk (s : State) (c : GReg) (quiet : Bool) : Bool :=
  plainOk s && s.modsOk (condsOf (.src c :: opndsM m10)) && !s.out && decide ((s.g c).toNat ≤ 2 ^ 30) && fld (s.ea m10) 63 57 == 0 &&
  (match s.rangePages 0 (s.ea m10).toNat (s.g c).toNat 512 with
    | (.ok ps, u) => (u.rangeTrap (s.isSup 0 0) ps).isNone && (u.rangeStores ps).isEmpty && (!quiet || ((u.rangeBacks ps).isEmpty &&
        (s.cacheCores 0).all (fun k => (s.core k).cache.all (fun l => !l.dirty || l.loc || !inRange ps l.line))))
    | _ => false)

theorem wit_CacheRangesActOnLines :
    (plainOk sR = true ∧ got (sR.spaceOf 0 0 .pref (sR.ea m10) 1) = true) ∧
    (let s := withG sR [(10, 0xB000000000000000), (11, 64)]
     plainOk s = true ∧ got (s.spaceOf 0 0 .pref (s.ea m10) 1) = false ∧ s.modsOk (condsOf (.src (gr 11) :: opndsM m10)) = true ∧ s.out = false ∧
     (s.g (gr 11)).toNat ≤ 2 ^ 30 ∧ fld (s.ea m10) 63 57 ≠ 0) ∧
    (sR.modsOk (condsOf (.src (gr 12) :: opndsM m10)) = true ∧ sR.out = false ∧ 2 ^ 30 < (sR.g (gr 12)).toNat) ∧
    (sR.modsOk (condsOf (.src (gr 0) :: opndsM m10)) = true ∧ sR.g (gr 0) = 0 ∧ fld (sR.ea m10) 63 57 = 0) ∧
    rangeOk sR (gr 11) false = true ∧ rangeOk (withG sM [(10, 0x1000), (11, 64)]) (gr 11) true = true ∧
    (let s := atStep sR 4
     plainOk s = true ∧ s.modsOk (condsOf (.src (gr 11) :: opndsM m10)) = true ∧ s.out = true ∧ s.gone s.me.phase.ids = true) ∧
    (let s := atStep { sR with net := [msg0 (.unit true true false) 0] } 4
     plainOk s = true ∧ s.modsOk (condsOf (.src (gr 11) :: opndsM m10)) = true ∧ s.out = true ∧ s.gone s.me.phase.ids = false) := by decide +kernel

/-! Threads, barriers, register bits, work lists, records -/

theorem wit_TstartStartsAContext :
    plainOk sT = true ∧ (as1 sT).cur.2 ≠ 0 ∧ sT.cur.2 = 0 ∧ (sT.g (gr 0)).toNat = 0 ∧ sT.threadCount 0 ≤ (sT.g (gr 2)).toNat ∧
    (sT.g (gr 1)).toNat ≠ 0 ∧ (sT.g (gr 1)).toNat < sT.threadCount 0 ∧ ((inCtx sT 1 .running).ctx 0 1).state = .running ∧
    ((inCtx sT 1 .ended).ctx 0 1).state = .ended ∧ ((inCtx sT 1 .held).ctx 0 1).state = .held ∧ (sT.ctx 0 1).state = .free ∧
    (sT.g (gr 3)).toNat % 4 ≠ 0 ∧ (sT.me.pc + 4 * (4 : BitVec 23).signExtend 64).toNat % 4 = 0 := by decide +kernel

theorem wit_TreapReapsAContext :
    plainOk sT = true ∧ (as1 sT).cur.2 ≠ 0 ∧ sT.cur.2 = 0 ∧ (sT.g (gr 0)).toNat = 0 ∧ sT.threadCount 0 ≤ (sT.g (gr 2)).toNat ∧
    (sT.g (gr 1)).toNat < sT.threadCount 0 ∧ (sT.ctx 0 1).state = .free ∧ ((inCtx sT 1 .running).ctx 0 1).state = .running ∧
    ((inCtx sT 1 .held).ctx 0 1).state = .held ∧ ((inCtx sT 1 .ended).ctx 0 1).state = .ended := by decide +kernel

theorem wit_TendEndsAThread :
    let others := fun (s : State) => (List.range 16).all (fun y => y == 0 || (s.ctx 0 y).state == .free || (s.ctx 0 y).state == .ended)
    plainOk sT = true ∧ others (inCtx sT 1 .running) = false ∧ others sT = true ∧ (as1 sT).cur.2 ≠ 0 ∧
    ((as1 (sT.modMyCore (fun k => { k with reports := [⟨Cause.poisonOperand, 1, 1, 7, 8⟩] }))).myCore.poisonReport 1).isSome = true ∧
    sT.myCore.poisonReport 0 = none ∧ (as1 sT).cur.2 < sT.threadCount 0 ∧ sT.myCore.bar.aborted = none ∧
    sT.myCore.bar.arrived.contains (sT.gangWide 0 1) = false := by decide +kernel

theorem wit_TspawnEnqueuesARecord :
    let s := sRec recBytes 0
    plainOk s = true ∧ fld (0xF000000000000000 : Word) 63 57 ≠ 0 ∧ (0x1004 : Word).toNat % 64 ≠ 0 ∧ fld (s.g (gr 1)) 63 57 = 0 ∧
    (s.g (gr 1)).toNat % 64 = 0 ∧ s.out = true ∧
    okAnd (s.me.allReplies s.me.phase.ids) (fun rs => (replyTrap (rs.zip s.me.phase.eas)).isNone && (recFail (rs.flatMap (fun r => r.data))).isNone) = true ∧
    (s.part s.myPart).enq.length < 64 ∧ 64 ≤ ((sRec recBytes 64).part 0).enq.length ∧ recFail (1 :: recBytes) ≠ none := by decide +kernel

theorem wit_TspawnEnqueuesARecord_kept :
    (plainOk sWb = true ∧ sWb.me.phase.step = 0 ∧ fld (sWb.g (gr 1)) 63 57 = 0 ∧ (sWb.g (gr 1)).toNat % 64 = 0 ∧
     sWb.storesDone 0 0 true sWb.msgCtr = false) ∧
    (plainOk sKept = true ∧ sKept.me.phase.step ≠ 0 ∧ sKept.me.phase.val = 0x1000 ∧ sKept.g (gr 1) ≠ 0x1000 ∧ sKept.out = true) := by decide +kernel

theorem wit_BarriersMeet :
    plainOk sT = true ∧ (sBar [] 0 (some (0, 2))).out = false ∧ ((sBar [] 0 (some (0, 2))).barrierOf 0 .tile).aborted = some (0, 2) ∧
    (let s := inGen (sBar [] 3 none) 2
     s.out = true ∧ s.me.phase.val.toNat < (s.barrierOf 0 .tile).gen) ∧
    (let s := inGen (sBar [] 3 (some (3, 1))) 3
     s.out = true ∧ (s.barrierOf 0 .tile).gen ≤ s.me.phase.val.toNat ∧ (s.barrierOf 0 .tile).aborted = some (3, 1)) ∧
    (let s := inGen (sBar [] 3 none) 3
     s.out = true ∧ (s.barrierOf 0 .tile).gen ≤ s.me.phase.val.toNat ∧ (s.barrierOf 0 .tile).aborted = none) ∧
    sT.me.phase.step = 0 ∧ sT.storesDone 0 0 false sT.msgCtr = true ∧ sT.myCore.bar.aborted = none ∧
    sT.threadCount 0 ≤ (sBar [1, 2, 3] 0 none).myCore.bar.arrived.length + 1 ∧ sT.myCore.bar.arrived.length + 1 < sT.threadCount 0 := by decide +kernel

theorem wit_BarriersMeet_gang :
    (plainOk sBarred = true ∧ sBarred.out = false ∧ (sBarred.barrierOf 0 .tile).aborted.or (sBarred.barrierOf 0 .tile).barred = some (2, 5)) ∧
    (let ok := fun (s : State) => plainOk s && s.me.phase.step == 2 && (s.barrierOf 0 .gang).aborted.isNone && (s.barrierOf 0 .gang).barred.isNone &&
       !s.widerThanCache 0 (barScope .gang)
     ok (sGb [] 0 none) = true ∧ ((sGb [] 0 none).barrierOf 0 .gang).arrived.length + 1 < 2 * (sGb [] 0 none).threadCount 0 ∧
     ok (sGb [1, 2, 3, 4, 5, 6, 7] 0 none) = true ∧
     2 * (sGb [] 0 none).threadCount 0 ≤ ((sGb [1, 2, 3, 4, 5, 6, 7] 0 none).barrierOf 0 .gang).arrived.length + 1) ∧
    (let s := sGb [1, 2, 3, 4, 5, 6, 7] 0 none
     s.writesDone 0 0 s.me.phase.mark = true) := by decide +kernel

theorem wit_RegisterBits : plainOk sPend = true ∧ sPend.pending 37 = true ∧ sPend.pending 36 = false := by decide +kernel

theorem wit_WorkListsHold :
    let W := fun (s : State) => s.myCore.wl.length + (s.myCore.wlSent.map (fun e => e.2.length)).sum
    plainOk (sWl []) = true ∧ 256 ≤ W (sWl (List.replicate 256 1)) ∧ W (sWl (List.replicate 255 1)) < 256 ∧ (gr 1).md ≠ .consume ∧
    (sWl []).myCore.wl = [] ∧ (sWl [3, 4]).myCore.wl = 3 :: [4] ∧
    (onMe (fun t => t)).modsOk (condsOf [.dst ⟨1, .deposit⟩]) = false := by decide +kernel


/-! The matrix unit -/

theorem wit_MatrixCommandsEnqueue :
    plainOk sX = true ∧ 16 ≤ (sXq 16).myCore.mq.length ∧ (sXq 15).myCore.mq.length < 16 ∧
    checkStep (ofMma .hf) false false (sX.g (gr 1)) (sX.g (gr 2)) (sX.g (gr 3)) (sX.g (gr 4)) 32 sX.myScratch = none ∧
    (checkStep (ofMma .hf) false false (sX.g (gr 7)) (sX.g (gr 2)) (sX.g (gr 3)) (sX.g (gr 4)) 32 sX.myScratch).isSome = true ∧
    checkStep (ofQ .q8) false false (sX.g (gr 1)) (sX.g (gr 8)) (sX.g (gr 3)) (sX.g (gr 9)) 32 sX.myScratch = none ∧
    checkRows .s (sX.g (gr 1)) (sX.g (gr 2)) (some (sX.g (gr 6))) sX.myScratch = none ∧
    (checkRows .s (sX.g (gr 7)) (sX.g (gr 2)) none sX.myScratch).isSome = true ∧
    bit (sX.g (gr 5)) 63 = false ∧ fld (sX.g (gr 5)) 61 56 ≤ 32 ∧ checkProb (sX.g (gr 1)) (sX.g (gr 2)) sX.myScratch = none ∧
    checkState (sX.g (gr 6)) 7 none sX.myScratch = none ∧ (checkState (sX.g (gr 7)) 7 none sX.myScratch).isSome = true ∧
    (1 : AReg) ≠ 2 ∧ bit (0x8000000000000000 : Word) 63 = true ∧ 32 < fld (0x2100000000000000 : Word) 61 56 := by decide +kernel

/-- A descriptor pair in g1 and g2. -/
def sDs2 (a b : Word) : State := withG s0 [(1, a), (2, b)]

theorem wit_DescriptorFailuresTrap :
    plainOk (sDs2 0 0) = true ∧ (sDs2 0 0).myCore.mq.length < 16 ∧
    fld (0x2000000000 : Word) 63 37 ≠ 0 ∧ (fld (1 : Word) 63 37 = 0 ∧ fld (1 : Word) 5 0 ≠ 0) ∧
    (fld (0x1000000000 : Word) 63 37 = 0 ∧ fld (0x1000000000 : Word) 5 0 = 0 ∧ bit (0x1000000000 : Word) 36 = true) ∧
    bit (0x201000 : Word) 36 = false ∧ fld (0x8000000 : Word) 63 27 ≠ 0 ∧ (fld (32 : Word) 63 27 = 0 ∧ 31 < fld (32 : Word) 5 0) ∧
    (fld (31 : Word) 5 0 ≤ 31 ∧ fld (0x40 : Word) 5 0 ≤ 31 ∧ fld (0x40 : Word) 26 6 ≠ 0) ∧
    (let x := fun (A : Word) i => fld A 20 0 + fld A 32 21 * 64 * i
     let addr := fun (A : Word) i => (x A i / 2 ^ 17 % 16 + i * (([0, 1, 2, 4, 8, 3, 5, 7] : List Nat)[fld A 35 33]?.getD 0)) % 16 * 2 ^ 17 + x A i % 2 ^ 17
     let sc := (sDs2 0 0).myScratch
     (∃ i, i < 32 ∧ (2 ^ 21 ≤ x 0x2001FFFC0 i ∨ sc < addr 0x2001FFFC0 i + 128)) ∧
     (∀ i, i < 1 → x 0x1FFC0 i < 2 ^ 21 ∧ addr 0x1FFC0 i + 128 ≤ sc) ∧ (∃ i, i < 1 ∧ 2 ^ 17 < addr 0x1FFC0 i % 2 ^ 17 + 128) ∧
     (∀ i, i < 8 → x 0x401000 i < 2 ^ 21 ∧ addr 0x401000 i + 128 ≤ sc ∧ addr 0x401000 i % 2 ^ 17 + 128 ≤ 2 ^ 17)) := by decide +kernel

/-- What each command finds wrong with its descriptors in `sX`: nothing, or something. -/
theorem wit_DescriptorFailuresTrap_commands :
    let g := fun (n : Nat) => sX.g (gr n)
    let sc := sX.myScratch
    plainOk sX = true ∧ sX.myCore.mq.length < 16 ∧
    stepFault (ofMma .hf) false false (g 1) (g 2) (g 3) (g 4) 32 sc = none ∧
    (stepFault (ofMma .hf) false false (g 7) (g 2) (g 3) (g 4) 32 sc).isSome = true ∧
    stepFault (ofQ .q8) false false (g 1) (g 8) (g 3) (g 9) 32 sc = none ∧ (stepFault (ofQ .q8) false false (g 7) (g 8) (g 3) (g 9) 32 sc).isSome = true ∧
    rowsFault .s (g 1) (g 2) (some (g 6)) sc = none ∧ (rowsFault .s (g 7) (g 2) none sc).isSome = true ∧
    rowsFault .q8 (g 1) (g 8) none sc = none ∧ (rowsFault .hf (g 7) (g 2) none sc).isSome = true ∧
    pairFault false false none (g 1) (g 2) ((List.range (fld (g 2) 5 0 + 1)).map (fun i => (i, 64))) [] sc = none ∧
    (pairFault false false none (g 7) (g 2) ((List.range (fld (g 2) 5 0 + 1)).map (fun i => (i, 64))) [] sc).isSome = true ∧
    (!bit (g 5) 63 && decide (fld (g 5) 61 56 ≤ 32)) = true ∧
    stateFault (g 6) 7 none sc = none ∧ (stateFault (g 7) 7 none sc).isSome = true := by decide +kernel

/-- Batch 3 stands closed, batch 5 is open; two reports of context 0. -/
def sBt (w : Word) : State := withG (sX.modMyCore (fun k => { k with
  nextBatch := 5, closed := [⟨3, none⟩], reports := [⟨33, 2, 0, 7, 8⟩, ⟨31, 1, 0, 9, 9⟩] })) [(1, w)]

theorem wit_BatchesAndAccumulatorParts :
    plainOk sX = true ∧ 4 ≤ (sX.modMyCore (fun k => { k with closed := List.replicate 4 ⟨1, none⟩ })).myCore.closed.length ∧
    sX.myCore.closed.length < 4 ∧ (gr 0).num = 0 ∧ (gr 9).num ≠ 0 ∧ (gr 9).num.toNat < 32 ∧ (gr 9).md ≠ .consume ∧
    fld ((sBt 0x100000000).g (gr 1)) 63 32 ≠ 0 ∧ (sBt 0).g (gr 1) = 0 ∧ (fld ((sBt 5).g (gr 1)) 63 32 = 0 ∧ (sBt 5).g (gr 1) ≠ 0) ∧
    (5 : BitVec 32) = (sBt 5).myCore.nextBatch ∧ 2 ^ 31 ≤ ((sBt 6).myCore.nextBatch - (6 : BitVec 32)).toNat ∧
    ((sBt 3).myCore.nextBatch - (3 : BitVec 32)).toNat < 2 ^ 31 ∧ (3 : BitVec 32) ≠ (sBt 3).myCore.nextBatch ∧
    (sBt 3).myCore.closed.any (fun b => b.num = 3) = true ∧ (sBt 4).myCore.closed.any (fun b => b.num = 4) = false ∧
    ((⟨31, 1, 0, 9, 9⟩ : Report) ∈ (sBt 4).myCore.reports ∧ ((4 : BitVec 32) - BitVec.ofNat 32 1).toNat < 2 ^ 31) ∧
    (∀ r ∈ sX.myCore.reports, r.ctx ≠ 0) ∧ (sXq 1).myCore.accBusy 1 = some 0 ∧ sX.myCore.accBusy 1 = none ∧
    31 < (sX.g (gr 1)).toNat ∧ (sX.g (gr 4)).toNat ≤ 31 := by decide +kernel

/-- Whether a command stands ready, with no poisoned source and canonical memories. -/
def isRipe (s : State) (op : QOp) : Bool :=
  (s.core 0).mq.head? == some (qOf op) && s.mayComplete 0 (qOf op) && ((s.core 0).badSource op).isNone && s.memWf

theorem wit_rows (n : Nat) : (((sQ (.mzero 1)).core 0).accOf n).rows.length = 32 ∧
    ∀ r ∈ (((sQ (.mzero 1)).core 0).accOf n).rows, r.els.length = 32 := by
  have h : ((sQ (.mzero 1)).core 0).acc = [(1, acc1)] := by decide +kernel
  have h1 : acc1.rows.length = 32 ∧ ∀ r ∈ acc1.rows, r.els.length = 32 := by decide +kernel
  have h0 : Acc.zero.rows.length = 32 ∧ ∀ r ∈ Acc.zero.rows, r.els.length = 32 := by decide +kernel
  by_cases hn : n = 1
  · subst hn; simpa [Core.accOf, h, tget] using h1
  · simpa [Core.accOf, h, tget, Ne.symm hn, hn] using h0

theorem wit_MatrixRow11Runs :
    isRipe (sQ (.mzero 1)) (.mzero 1) = true ∧ isRipe (sQ (.mscale 1 one 5)) (.mscale 1 one 5) = true ∧
    isRipe (sQ (.mld 1 srcB .s (some 0x3000))) (.mld 1 srcB .s (some 0x3000)) = true ∧ isRipe (sQ (.mst 1 srcA .s none)) (.mst 1 srcA .s none) = true ∧
    isRipe (sQ (.mma .hf 1 srcA srcB 32)) (.mma .hf 1 srcA srcB 32) = true ∧
    (let op : QOp := .mmaq .q8 1 (srcAt 0x201000 0xC7) (srcAt 0x202000 0xC3) 32
     isRipe (sQ op) op = true) ∧
    dRows srcA.second = 8 ∧ dRows srcB.second = 4 ∧
    meets (lineAddr 0x402000 2) 128 (lineAddr 0x402000 3) 128 = false ∧ isRipe (sQ (.mst 1 (srcAt 0x402000 3) .s none)) (.mst 1 (srcAt 0x402000 3) .s none) = true := by decide +kernel

theorem wit_MatrixRow12Runs :
    ([.smxinit 1 6, .smxfin 1 0xFF true, .smxmerge 1 2 7, .smxld 1 0x1000 7 none, .smxst 1 0x5000 7 (some 0x6000), .smxa .hf 2 1 srcA one 0x0400000000000010] :
      List QOp).all (fun op => isRipe (sQ op) op) = true ∧ (6 : BitVec 32).getLsbD 1 = true ∧ (6 : BitVec 32).getLsbD 0 = false ∧
    [4, 5, 6, 7].all (fun n => !meets (lineAddr srcA.first 3) 64 (lineAddr srcA.first n) 64) = true := by decide +kernel

theorem wit_MatrixDiscardsAndBatches :
    let op : QOp := .mma .hf 1 srcA srcB 32
    (sQp op).mayComplete 0 (qOf op) = true ∧ ((sQp op).core 0).badSource op = some 0 ∧ (qOf op).ctx ≠ noCtx ∧
    ((sQp op).core 0).mq = [qOf op] ∧ ((sQp op).core 0).reported.contains (1, Cause.poisonOperand) = false ∧
    (let s := (sQp op).modCore 0 (fun k => { k with reported := [(1, Cause.poisonOperand)] })
     s.mayComplete 0 (qOf op) = true ∧ (s.core 0).badSource op = some 0 ∧ (s.core 0).reported.contains (1, Cause.poisonOperand) = true) ∧
    isRipe (sQ op) op = true ∧ ((sQ op).core 0).mq = [qOf op] ∧ (qOf op).hits = [] ∧ (sX.core 0).mq = [] ∧ (sQl op).mayComplete 0 (qOf op) = false ∧ (sX.core 0).closed = [] ∧
    ((sQb []).core 0).closed = ⟨1, some (0, 9)⟩ :: [] ∧ ((sQb []).core 0).mq.any (fun q => q.batch = 1) = false ∧
    ((sQb [qOf op]).core 0).mq.any (fun q => q.batch = 1) = true ∧
    (((sQb []).modMe (fun t => { t with state := .running })).ctx 0 0).live = true := by decide +kernel

theorem wit_otherRow : runOf 0 .ok (.mzero 1) ≠ runOf 0 .ok (.mma .hf 1 srcA srcB 32) := by simp [runOf]

/-! The copy engine -/

/-- The operands of COPYQT meet their conditions, and no command is in hand. -/
def copyOk (s : State) : Bool :=
  plainOk s && s.modsOk (condsOf [.dst (gr 9), .src (gr 1), .src (gr 2), .src (gr 3), .src (gr 4)]) && s.me.phase.copy.isNone

theorem wit_CopyCommandsAndQueries :
    let c := fun (s : State) => (s.copyWords (s.g (gr 1)) (s.g (gr 2)) (s.g (gr 3)) (s.g (gr 4))).isSome
    let p := fun (s : State) => s.copyPlaces (s.g (gr 1)) (s.g (gr 2)) (s.g (gr 3)) (s.g (gr 4))
    let a : Word := 0xEFFF000000000010
    let b : Word := 0xEFFF000000001000
    let ok1 := fun (s : State) =>
      bit (s.g (gr 4)) 27 = false ∧ fld (s.g (gr 4)) 3 2 ≠ 3 ∧ fld (s.g (gr 4)) 31 29 < 5 ∧ ctlMode (s.g (gr 4)) ≠ .scatter
    copyOk (sC a b 16 0) = true ∧ (copyOk (sC a b 16 0x8000000) = true ∧ bit ((sC a b 16 0x8000000).g (gr 4)) 27 = true ∧ c (sC a b 16 0x8000000) = true) ∧
    (let s := sC a b 0x100000010 0
     copyOk s = true ∧ ok1 s ∧ ctlMode (s.g (gr 4)) = .copy ∧ bit (s.g (gr 3)) 63 = false ∧ fld (s.g (gr 3)) 62 32 ≠ 0) ∧
    (let s := sC a b 0x400000010 2
     copyOk s = true ∧ ok1 s ∧ ctlMode (s.g (gr 4)) = .gather ∧ fld (s.g (gr 3)) 63 34 ≠ 0) ∧
    (let s := sC a 0xEFFF000000001004 16 1
     copyOk s = true ∧ ok1 s ∧ ctlMode (s.g (gr 4)) = .fill ∧ bit (s.g (gr 3)) 63 = false ∧ fld (s.g (gr 3)) 62 32 = 0 ∧ fld (s.g (gr 3)) 31 0 % 8 = 0 ∧
     (s.g (gr 2)).toNat % 8 ≠ 0) ∧
    (let s := sC 0xB000000000000010 b 16 0
     copyOk s = true ∧ c s = false ∧ errAnd (p s) (fun t => t.code != Cause.tbMissCopy) = true) ∧
    (let s := sC a 0x9000 16 0
     copyOk s = true ∧ c s = false ∧ errAnd (p s) (fun t => t.code == Cause.tbMissCopy) = true) ∧
    (let s := withG sOq [(1, a), (2, 0xEFFF000000000000), (3, 16), (4, 0)]
     copyOk s = true ∧ c s = false ∧ okAnd (p s) (fun ds => (s.myCore.latestMet (destOn 0 ds)).isSome) = true) ∧
    (let s := sC a b 16 0
     let t := s.modMyCore (fun k => { k with fifo := List.replicate 8 cOwn })
     copyOk s = true ∧ c s = false ∧ okAnd (p s) (fun ds => (s.myCore.latestMet (destOn 0 ds)).isNone && (destFar 0 ds).isEmpty) = true ∧
     s.myCore.fifo.length < 8 ∧
     copyOk t = true ∧ c t = false ∧ okAnd (p t) (fun ds => (t.myCore.latestMet (destOn 0 ds)).isNone && (destFar 0 ds).isEmpty) = true ∧
     8 ≤ t.myCore.fifo.length) ∧
    (let s := (sC a b 16 0).modMe (fun t => { t with phase := ⟨4, 0, [5], [0x1000], 0, some cOwn, []⟩, replies := [⟨5, [], false, 0, 0⟩] })
     plainOk s = true ∧ s.me.phase.copy = some cOwn ∧
     okAnd (s.me.allReplies s.me.phase.ids) (fun rs => (replyTrap (rs.zip s.me.phase.eas)).isNone) = true ∧ s.myCore.fifo.length < 8) ∧
    plainOk sF3 = true ∧ sF3.modsOk (condsOf [.dst (gr 9), .src (gr 4)]) = true ∧ fld (sF3.g (gr 4)) 63 17 ≠ 0 ∧ fld (sF3.g (gr 1)) 63 17 = 0 ∧
    (∀ q ∈ sF3.myCore.fifo, ¬(bit (sF3.g (gr 5)) 16 = true ∨ fld q.ctl 63 48 = fld (sF3.g (gr 5)) 15 0)) ∧
    (∃ q, sF3.myCore.fifo.head? = some q ∧ fld q.ctl 63 48 = fld (sF3.g (gr 1)) 15 0 ∧ q.started = true ∧ q.status = none ∧ q.cancel = false ∧ q.buf = []) ∧
    (∃ q, (sF3.modMyCore (fun k => { k with fifo := [{ cOwn with buf := [1] }] })).myCore.fifo.head? = some q ∧
      fld q.ctl 63 48 = fld (sF3.g (gr 1)) 15 0 ∧ q.status = none ∧ q.cancel = false ∧ q.buf ≠ []) ∧
    (0 ∈ sF3.cacheCores 0 ∧ ∃ l ∈ (sF3.core 0).cache, l.loc = false ∧ l.dirty = true) := by
  and_intros <;> decide +kernel

theorem wit_CopyTransfersMove :
    (s0.core 0).fifo = [] ∧
    (let s := sF1 { cOwn with status := some 5 }
     (s.core 0).fifo = { cOwn with status := some 5 } :: [cOwn]) ∧
    (let q := { cOwn with marks := [9] }
     let s := { sF1 q with net := [msg0 (.unit true true false) 9] }
     (s.core 0).fifo = q :: [cOwn] ∧ q.started = false ∧ s.unheld 0 q = false) ∧
    (let q := { cOwn with shape := 0 }
     let s := sF1 q
     (s.core 0).fifo = q :: [cOwn] ∧ q.status = none ∧ s.unheld 0 q = true ∧ s.frozen 0 = false ∧ ctlMode q.ctl = .copy ∧ bit q.shape 63 = false ∧
     fld q.shape 31 0 = 0) ∧
    (let q := cOwn
     let s := sF1 q
     (s.core 0).fifo = q :: [cOwn] ∧ q.status = none ∧ s.unheld 0 q = true ∧ s.frozen 0 = false ∧ bit q.shape 63 = false ∧ 0 < fld q.shape 31 0 ∧ q.done = 0 ∧
     ctlMode q.ctl = .copy ∧ fld q.src 63 60 = 0xE ∧ fld q.src 59 48 = 0xFFF ∧ fld q.dst 63 60 = 0xE ∧ fld q.dst 59 48 = 0xFFF ∧
     fld q.dst 20 0 % 64 + fld q.shape 31 0 ≤ 64 ∧ fld q.src 20 0 % 64 + fld q.shape 31 0 ≤ 64 ∧ q.buf.length < fld q.shape 31 0 ∧
     (s.core 0).splitChange = none ∧ (s.core 0).unsettled (fld q.src 20 0 + q.buf.length) 4 = false) ∧
    ([{ cOwn with started := true, buf := List.replicate 16 7 }, cFill, { cFill with cancel := true }].all (fun q =>
     let s := sF1 q
     (s.core 0).fifo == q :: [cOwn] && q.status.isNone && s.unheld 0 q && !s.frozen 0 && !bit q.shape 63 && decide (0 < fld q.shape 31 0) && q.done == 0 &&
     q.poisonAt.isNone && q.bufBad.isEmpty && fld q.dst 63 60 == 0xE && fld q.dst 59 48 == 0xFFF && decide (fld q.dst 20 0 % 64 + fld q.shape 31 0 ≤ 64) &&
     (s.core 0).roleNum.isNone && (s.core 0).splitChange.isNone && ((s.core 0).latestMet [(fld q.dst 20 0 / 64 * 64, 64)]).isNone &&
     s.net.all (fun m => m.kind.store? != some 0) && s.memWf && ((ctlMode q.ctl == .copy && q.buf.length == fld q.shape 31 0) || ctlMode q.ctl == .fill))) = true ∧
    (let q := { cOwn with status := some 0 }
     (sF1 q).engineDone 0 = true ∧ (sF1 q).eventWaits 0 q 0 = false ∧ fld q.ctl 3 2 = 0) ∧
    (let q := { cOwn with status := some 5 }
     (sF1 q).engineDone 0 = true ∧ (sF1 q).eventWaits 0 q 5 = false ∧ fld q.ctl 3 2 = 0 ∧
     ((sF1 q).modDie 0 (fun d => { d with inbox := [⟨0, [], ⟨0, 0, [], false, 0⟩, none, some { msg0 (.unit true false false) 9 with ctx := engineCtx }⟩] })).engineDone 0 = false ∧
     ((sF1 q).modMe (fun t => { t with events := List.replicate 16 default })).eventWaits 0 q 5 = true) ∧
    (let q := { cOwn with ctl := 0x0003000000000008, status := some 0 }
     (sF1 q).engineDone 0 = true ∧ (sF1 q).eventWaits 0 q 0 = false ∧ fld q.ctl 3 2 = 2) ∧
    (let q := { cOwn with ctl := 0x0003000000000084, status := some 0 }
     (sF1 q).engineDone 0 = true ∧ (sF1 q).eventWaits 0 q 0 = false ∧ fld q.ctl 3 2 = 1 ∧ bit q.ctl 26 = false ∧ ((sF1 q).ctx 0 q.ctx).live = true ∧
     0 < fld q.ctl 9 4 ∧ fld q.ctl 9 4 < 32) := by decide +kernel

theorem wit_CopyTransfersMove_shapes :
    let runs := fun (q : CopyCmd) => decide (((sF1 q).core 0).fifo = q :: [cOwn]) && q.status.isNone && q.started
    ([cLong, cMem].all (fun q => runs q && ctlMode q.ctl == .copy && decide (q.done < copyTotal q.shape))) = true ∧
    (runs cRows = true ∧ copyTotal 0x8010001C00400010 = 24 ∧ copyRow 0x8010001C00400010 = 8) ∧
    (((sF1 cLong).modHead 0 (fun q => { q with started := true, lookup := none })).copyAlias 0 cLong 80 = none ∧ copyTotal cLong.shape = 200 ∧
     cLong.cancel = false ∧ Nat.min (copyRow cLong.shape - cLong.done % copyRow cLong.shape) (64 - (copyDst cLong.dst cLong.shape cLong.done).toNat % 64) ≤ cLong.buf.length) ∧
    cMem.buf.length < Nat.min (copyRow cMem.shape) (64 - (copyDst cMem.dst cMem.shape 0).toNat % 64) ∧
    (runs cFill = false ∧ runs { cFill with started := true } = true ∧ ctlMode cFill.ctl = .fill ∧ cFill.done < copyTotal cFill.shape) ∧
    ([2, 3, 3 + 2 ^ 28].all (fun m => [(2, []), (4, []), (8, []), (4, [2]), (8, [5])].all (fun x =>
      let q := cEl m x.1 x.2
      runs q && (ctlMode q.ctl == .gather || ctlMode q.ctl == .scatter) && decide (q.done < fld q.shape 31 0) && fld q.shape 33 32 != 3))) = true ∧
    (ctlMode (cEl 2 8 []).ctl = .gather ∧ ctlMode (cEl 3 8 []).ctl = .scatter ∧ bit (cEl 3 8 []).ctl 28 = false ∧ bit (cEl (3 + 2 ^ 28) 8 []).ctl 28 = true) ∧
    (sSl (.read 4) 1 0 true |>.engineRead 0 (.mem 0 0x2000) 4).isSome = true ∧
    ((sF1 cOwn).core 0).unsettled 16 4 = false ∧
    ((s0.part 0).place 0x2000 = none ∧ ((sHost.part 0).place 0x2000).isSome = true ∧ (sHost.engineWrite 0 (.mem 0 0x2000) bs8 false true).isSome = true) := by
  decide +kernel

/-! Signals, roles, couches -/

theorem wit_SignalFillsOrTravels :
    let form := fun (w : Word) => decide (fld w 31 30 = 0 ∧ fld w 17 14 = 0 ∧ fld w 3 2 = 0 ∧ fld w 1 0 ≠ 3 ∧ fld w 9 4 ≤ 47)
    let place := fun (w : Word) => decide ((fld w 1 0 = 0 → fld w 29 18 = 0xFFF) ∧ (fld w 1 0 ≠ 2 → fld w 63 32 = 0) ∧ (fld w 1 0 = 2 → fld w 63 32 ≠ 0))
    let range := fun (s : State) (w : Word) => decide ((fld w 1 0 = 1 → fld w 29 18 = 0xFFF ∨ fld w 29 18 < s.myCore.gangSize) ∧
      (fld w 1 0 ≠ 2 → fld w 13 10 < s.threadCount 0))
    let dev := fun (s : State) (w : Word) => decide ((fld w 1 0 ≠ 2 → s.g (gr 3) = 0) ∧ (fld w 1 0 = 2 → fld (s.g (gr 3)) 63 14 = 0))
    let ok := fun (s : State) => plainOk s && s.modsOk (condsOf [.src (gr 1), .src (gr 2), .src (gr 3)])
    let all := fun (s : State) => ok s && s.me.phase.step == 0 && form (s.g (gr 1)) && place (s.g (gr 1)) && range s (s.g (gr 1)) && dev s (s.g (gr 1))
    let w0 : Word := 0x3FFC0070
    let s := sS w0 5 0
    (let s := sS 3 5 0
     ok s = true ∧ s.me.phase.step = 0 ∧ form (s.g (gr 1)) = false) ∧
    (let s := sS 0x40 5 0
     ok s = true ∧ form (s.g (gr 1)) = true ∧ place (s.g (gr 1)) = false) ∧
    (let s := sS 0x3FFC1070 5 0
     ok s = true ∧ form (s.g (gr 1)) = true ∧ place (s.g (gr 1)) = true ∧ range s (s.g (gr 1)) = false) ∧
    (let s := sS w0 5 1
     ok s = true ∧ form (s.g (gr 1)) = true ∧ place (s.g (gr 1)) = true ∧ range s (s.g (gr 1)) = true ∧ dev s (s.g (gr 1)) = false) ∧
    (all s = true ∧ fld w0 1 0 = 0 ∧ s.storesDone 0 0 false s.msgCtr = true ∧ (s.ctx 0 0).live = true ∧ 0 < fld w0 9 4 ∧ fld w0 9 4 < 32) ∧
    (let s := { s with net := [msg0 (.unit false true false) 0], msgCtr := 1 }
     all s = true ∧ s.storesDone 0 0 false s.msgCtr = false) ∧
    (let s := sS 0x3FFC0470 5 0
     all s = true ∧ fld (s.g (gr 1)) 1 0 = 0 ∧ s.storesDone 0 0 false s.msgCtr = true ∧ (s.ctx 0 1).live = false ∧ fld (s.g (gr 1)) 13 10 = 1) ∧
    (let s := sS 0x00040071 5 0
     all s = true ∧ fld (s.g (gr 1)) 1 0 = 1 ∧ s.fresh = true ∧ s.storesDone 0 0 true s.msgCtr = true ∧ s.myCore.pool = true) ∧
    (let s := sS 0x100000072 5 0
     all s = true ∧ fld (s.g (gr 1)) 1 0 = 2) ∧
    (let s := s.modMe (fun t => { t with phase := ⟨1, 0, [], [0x3FFC0070, 5], 0, none, []⟩ })
     ok s = true ∧ s.me.phase.step = 1 ∧ s.me.phase.eas = [w0.toNat, (5 : Word).toNat] ∧ s.storesDone 0 0 false s.me.phase.mark = true) ∧
    (let s := (sS 0x00040071 5 0).modMe (fun t => { t with phase := ⟨4, 0, [5], [0], 0, none, []⟩, replies := [⟨5, [], false, 0, 0⟩] })
     ok s = true ∧ s.out = true ∧ okAnd (s.me.allReplies s.me.phase.ids) (fun rs => (replyTrap (rs.zip s.me.phase.eas)).isNone) = true) := by
  decide +kernel

/-- The role map has replied to role n with value B at tick 0. -/
def sRr (n B : Nat) (f : Role → Role) : State :=
  ((sRo 5 30000).modMe (fun t => { t with phase := ⟨4, 0, [], [n, B, 0], 0, none, []⟩ })).modPart 0 (fun p => { p with roles := p.roles.map f })
/-- What the entry of role n is, in such a state. -/
def roleIs (s : State) (n : Nat) (p : Role → Bool) : Bool := plainOk s && s.out && s.me.phase.eas.length == 3 &&
  ((s.part s.myPart).role n).any (fun r => r.expiry.all (fun e => decide (s.gtime.toNat < e)) && p r)

theorem wit_RoleRequestsAnswer :
    let s := sRo 5 30000
    let me := s.myCore.taskId
    let near := fun (B : Nat) => decide (B < 20000 ∨ 50000000 < B)
    let request := fun (v : Word) => decide (fld v 63 32 = 0 ∧ fld v 15 2 = 0 ∧ (fld v 1 0 = 1 ∨ fld v 1 0 = 2))
    plainOk s = true ∧ s.out = false ∧ s.modsOk (condsOf [.dst (gr 3), .src (gr 1), .src (gr 2)]) = true ∧ fld (s.g (gr 1)) 63 16 = 0 ∧
    (request (s.g (gr 2)) = false ∧ request ((sRo 5 0x50001).g (gr 2)) = true) ∧ fld ((sRo 0x10005 0).g (gr 1)) 63 16 ≠ 0 ∧
    (let s := sRr 9 30000 id
     plainOk s = true ∧ s.out = true ∧ s.me.phase.eas = [9, 30000, 0] ∧ (s.part s.myPart).role 9 = none) ∧
    roleIs (sRr 7 30000 id) 7 (fun r => r.holder.isSome && r.holder != some me) = true ∧
    roleIs (sRr 5 30000 id) 5 (fun r => r.holder == some me && r.expiry.isSome && !near 30000) = true ∧
    roleIs (sRr 5 10 id) 5 (fun r => r.holder == some me && r.expiry.isSome && near 10) = true ∧
    roleIs (sRr 6 10 id) 6 (fun r => r.holder == some me && r.expiry.isNone && near 10) = true ∧
    (let s := sRr 8 30000 id
     roleIs s 8 (fun r => r.holder.isNone && !near 30000) = true ∧ ((s.part s.myPart).leased s.gtime.toNat me).length < 64) ∧
    (let s := (sRr 6 30000 id).modPart 0 (fun p => { p with roles := role 6 true none none :: (List.range 64).map (fun i => role (100 + i) true (some 1) (some 90000)) })
     roleIs s 6 (fun r => r.holder.isNone && !near 30000) = true ∧ 64 ≤ ((s.part s.myPart).leased s.gtime.toNat me).length) ∧
    roleIs (sRr 6 0x50001 id) 6 (fun r => r.holder == some me && nfld 0x50001 1 0 == 1 && r.req.isNone) = true ∧
    roleIs (sRr 6 0x50001 (fun r => { r with req := some ⟨1, 2, 3⟩ })) 6 (fun r => r.holder == some me && nfld 0x50001 1 0 == 1 && r.req.isSome) = true ∧
    roleIs (sRr 6 0 id) 6 (fun r => decide (r.refusals < 16) && decide (r.tile.getD 0x7FF < 2048)) = true := by decide +kernel

theorem wit_RoleRequestsAnswer_lapses :
    let s := sLx 30000
    roleIs s 5 (fun r => r.holder == some s.myCore.taskId && r.expiry.isSome && s.seat r.leaser == some 0) = true ∧
    (s.ctx 0 0).events.all (fun e => !(e.code == Cause.leaseExpired && e.tval == 5)) = true ∧
    s.modsOk (condsOf [.dst (gr 3), .src (gr 1)]) = true ∧
    roleIs (sLx 90000) 5 (fun r => r.holder == some s.myCore.taskId && r.expiry == some 90000) = true ∧
    roleIs (sRr 6 30000 (fun r => { r with req := some ⟨1, 2, 3⟩ })) 6 (fun r => r.holder == some s.myCore.taskId && r.req.isSome) = true ∧
    roleIs (sRr 6 30000 id) 6 (fun r => r.holder == some s.myCore.taskId && r.req.isNone) = true := by decide +kernel

theorem wit_CouchesBegin :
    let s := sCo 2
    let me := s.agent s.cur.1 s.cur.2
    plainOk s = true ∧ 7 < ((sCo 8).g (gr 1)).toNat ∧ ((sCo 1).g (gr 1)).toNat ≤ 7 ∧ (s.part s.myPart).stackright.getLsbD 1 = false ∧
    (s.part s.myPart).stackright.getLsbD 2 = true ∧ (s.stack 2).couch = none ∧
    ((s.modStack 2 (fun k => { k with couch := some ⟨3, default, none, 0, []⟩ })).stack 2).couch ≠ none ∧
    s.seat me = some s.cur.1 ∧ me.ctx = s.cur.2 := by decide +kernel


/-! Exceptions, control registers, translation, supervisor operations -/

theorem wit_ExceptionsAreTaken :
    (0x21 : Nat) < 64 ∧
    (let u := (sE .l0 0x8000 0).ctx 0 0
     u.level = .l0 ∧ bit u.tdeleg 0x21 = false ∧ u.tvec ≠ 0 ∧ bit u.tdeleg 4 = true) ∧
    ((sE .l0 0 0x9000).ctx 0 0).tvec = 0 ∧ ((sE .l0 0 0x9000).part ((sE .l0 0 0x9000).partOf 0 0)).svcvec ≠ 0 ∧
    ((sE .l0 0 0).part ((sE .l0 0 0).partOf 0 0)).svcvec = 0 ∧ ((sE .l1 0 0x9000).ctx 0 0).level = .l1 ∧ ((sE .l2 0 0).ctx 0 0).level = .l2 := by
  decide +kernel

theorem wit_ExceptionsAreTaken_holds :
    (let u := (sE .l0 0x8000 0x9000).ctx 0 0
     u.level ≠ .l2 ∧ ((sE .l0 0x8000 0x9000).part ((sE .l0 0x8000 0x9000).partOf 0 0)).svcvec ≠ 0) ∧
    (let s := sE .l2 0 0
     (s.ctx 0 0).level = .l2 ∧ 0 < s.threadCount 0 ∧ (s.core 0).bar.aborted = none ∧ (s.core 0).bar.arrived.contains (s.gangWide 0 0) = false) := by
  decide +kernel

theorem wit_CallsAndReturns :
    plainOk (sE .l1 0 0) = true ∧ (sE .l0 0 0).me.level = .l0 ∧ (sE .l1 0 0).me.level = .l1 ∧ (sE .l2 0 0).me.level = .l2 ∧
    2 ≤ fld (0x20021 : Word) 17 16 ∧ fld (sE .l2 0 0).me.tcause 17 16 ≤ 1 ∧ (sE .l1 0 0).me.tepc.toNat % 4 = 0 ∧ (0x402 : Word).toNat % 4 ≠ 0 ∧
    fld (sE .l2 0 0).me.tcause 17 16 = 0 ∧ fld (0x10021 : Word) 17 16 = 1 := by decide +kernel

theorem wit_ControlRegisters :
    plainOk sT = true ∧ isAtelier sT.cur.1 = false ∧ sT.pkgSync = true ∧ sT.domSync = true ∧ ({ sT with pkgSync := false } : State).pkgSync = false ∧
    sT.isSup 0 0 = false ∧ (sSup 7).isSup 0 0 = true ∧ plainOk (sSup 7) = true ∧ 0x100 ≤ (0x100 : BitVec 12).toNat ∧
    plainOk (sAtl 7) = true ∧ isAtelier (sAtl 7).cur.1 = true ∧ (sAtl 7).isSup 1152 0 = true ∧
    (sSup 1).out = false ∧ (sSup 1).myCore.splitChange = none ∧ ((sSup 1).g (gr 1)).setWidth 2 = (sSup 1).myCore.split ∧
    (withG sG [(1, 4)]).out = false ∧ ((withG sG [(1, 4)]).g (gr 1)).setWidth 2 = (0 : BitVec 2) ∧ sG.myCore.split ≠ 0 ∧ sG.myCore.pool = true ∧
    sG.myCore.splitChange = none := by decide +kernel

/-- Translation on the gang of two: g1 an address, g2 an entry or a tile, g3 a tile; the operands have gone to the other tile. -/
def sTf (a b : Word) (eas : List Nat) : State := withG (sG.modMe (fun t => { t with phase := ⟨if eas = [] then 0 else 4, 0, [], eas, 0, none, []⟩ })) [(1, a), (2, b), (3, 1)]

theorem wit_TranslationEntries :
    let size := fun (b : Word) => 2 ^ (12 + 4 * fld b 6 4)
    let valid := fun (b : Word) => decide (fld b 63 48 = 0 ∧ fld b 11 7 = 0 ∧ fld b 6 4 ≠ 7 ∧ fld b 47 0 / 0x1000 * 0x1000 % size b = 0)
    let apart := fun (a b : Word) (e : TbEntry) => (!meets e.va e.size a.toNat (size b))
    let ok := fun (s : State) => plainOk s && !s.out && s.modsOk (condsOf [.dst (gr 4), .src (gr 1), .src (gr 2), .src (gr 3)])
    let fits := fun (s : State) => ok s && fld (s.g (gr 1)) 63 57 == 0 && valid (s.g (gr 2)) && (s.g (gr 1)).toNat % size (s.g (gr 2)) == 0
    let many := fun (n : Nat) (w : Word) => (List.range n).map (fun i => (⟨0x100000 * (i + 1), w, false⟩ : TbEntry))
    let s := sTb true false 0x8000 0x7007
    let tb := s.myCore.tb
    (ok (sTb true false 0x200000000000000 0x7007) = true ∧ fld (0x200000000000000 : Word) 63 57 ≠ 0) ∧
    (ok (sTb true false 0x8000 0x70) = true ∧ valid 0x70 = false) ∧
    (ok (sTb true false 0x8100 0x7007) = true ∧ valid 0x7007 = true ∧ (0x8100 : Word).toNat % size 0x7007 ≠ 0) ∧
    (fits (sTb false false 0x8000 0x700F) = true ∧ (sTb false false 0x8000 0x700F).isSup 0 0 = false ∧ bit (0x700F : Word) 3 = true) ∧
    (fits s = true ∧ s.isSup 0 0 = true ∧ s.myCore.gangSize ≤ (s.g (gr 3)).toNat) ∧
    (let s := sTb false true 0x1000 0x7007
     fits s = true ∧ s.isSup 0 0 = false ∧ bit (0x7007 : Word) 3 = false ∧ s.myCore.tb.any (fun e => e.locked && !apart 0x1000 0x7007 e) = true) ∧
    (let s := (sTb true false 0x8000 0x700F).modMyCore (fun k => { k with tb := many 16 0x200F })
     fits s = true ∧ s.isSup 0 0 = true ∧ bit (0x700F : Word) 3 = true ∧ 16 ≤ ((s.myCore.tb.filter (apart 0x8000 0x700F)).filter TbEntry.locked).length) ∧
    (((tb.filter (apart 0x8000 0x7007)).filter TbEntry.locked).length < 16 ∧ (tb.filter (apart 0x8000 0x7007)).length < 96) ∧
    (let s := s.modMyCore (fun k => { k with tb := many 96 0x2007 })
     fits s = true ∧ s.isSup 0 0 = true ∧ 96 ≤ (s.myCore.tb.filter (apart 0x8000 0x7007)).length ∧
     firstIdx (fun e => !e.locked) (s.myCore.tb.filter (apart 0x8000 0x7007)) = some 0) ∧
    ((s.part s.myPart).dset.filter (apart 0x8000 0x7007)).length < 256 ∧
    (let s := s.modPart 0 (fun p => { p with dset := many 256 0x2007 })
     fits s = true ∧ s.isSup 0 0 = true ∧ 256 ≤ ((s.part s.myPart).dset.filter (apart 0x8000 0x7007)).length) ∧
    (let s := sTf 0x8000 0x7007 []
     fits s = true ∧ s.tbFar .gang (s.g (gr 3)) = true ∧ (s.tbwTrap .gang (s.g (gr 1)) (s.g (gr 2)) (s.g (gr 3))).isNone = true) ∧
    (let s := sTf 0x8000 1 []
     ok s = true ∧ fld (s.g (gr 1)) 63 57 = 0 ∧ (s.g (gr 2)).toNat < s.myCore.gangSize ∧ s.tbFar .gang (s.g (gr 2)) = true) ∧
    (let s := sTf 0x8000 0x7007 [0x8000, 0x7007, 1]
     plainOk s = true ∧ s.out = true ∧ s.me.phase.eas = [0x8000, 0x7007, 1] ∧ s.modsOk (condsOf [.src (gr 1), .src (gr 2), .src (gr 3)]) = true) ∧
    (let s := sTf 0x8000 1 [0x8000, 1]
     plainOk s = true ∧ s.out = true ∧ s.me.phase.eas = [0x8000, 1] ∧ s.modsOk (condsOf [.dst (gr 4), .src (gr 1), .src (gr 2)]) = true) ∧
    (sTb false false 0x8000 0x7007).isSup 0 0 = false ∧
    (∀ e ∈ tb, e.holds 0x8000 = false) ∧
    (let s := sTb true false 0x1004 0
     ok s = true ∧ fld (s.g (gr 1)) 63 57 = 0 ∧ s.myCore.tb = [] ++ ⟨0x1000, 0x2007, false⟩ :: [⟨0x4000, 0x5003, false⟩] ∧
     (⟨0x1000, 0x2007, false⟩ : TbEntry).holds (s.g (gr 1)).toNat = true) := by decide +kernel

theorem wit_TranslationEntries_again :
    let s := sTf 0x8000 0x7007 [0x8000, 0x7007, 1]
    s.tbwTrap .gang (w64 0x8000) (w64 0x7007) (w64 1) = none ∧
    (let u := s.modCore 1 (fun k => { k with tb := [⟨0x8000, 0x700F, false⟩] })
     plainOk u = true ∧ u.out = true ∧ u.me.phase.eas = [0x8000, 0x7007, 1] ∧ (u.tbwTrap .gang (w64 0x8000) (w64 0x7007) (w64 1)).isSome = true) := by decide +kernel

theorem wit_SupervisorOperations :
    let half := fun (s : State) (a : Nat) => (s.part s.myPart).halves.getLsbD (2 * (a / 16) + a % 16 / 8)
    let ok := fun (s : State) => plainOk s && s.modsOk (condsOf [.dst (gr 3), .src (gr 1), .src (gr 2)])
    let s := sSv 0x2000 64
    let quiet := fun (s : State) => (s.cacheCores 0).all (fun k => (s.core k).cache.all (fun l =>
      !l.dirty || l.loc || !meets (s.g (gr 1)).toNat (s.g (gr 2)).toNat (l.line * 64) 64)) && (s.linesOut (s.g (gr 1)).toNat (s.g (gr 2)).toNat).isEmpty
    (ok s = true ∧ s.out = false ∧ 127 < (s.g (gr 1)).toNat) ∧
    (let s := sSv 9 1
     ok s = true ∧ s.out = false ∧ (s.g (gr 1)).toNat ≤ 127 ∧ half s (s.g (gr 1)).toNat = false) ∧
    (let s := sSv 7 1
     ok s = true ∧ s.out = false ∧ (s.g (gr 1)).toNat ≤ 127 ∧ half s (s.g (gr 1)).toNat = true ∧ scfgAssigned 0x008 = true ∧ scfgAssigned 0x7FF = false) ∧
    (let s := (sSv 7 1).modMe (fun t => { t with phase := ⟨4, 0, [], [7], 0, none, []⟩ })
     ok s = true ∧ s.out = true ∧ s.me.phase.eas = [7]) ∧
    (ok (sSv 0x1000000000000 64) = true ∧ fld ((sSv 0x1000000000000 64).g (gr 1)) 63 48 ≠ 0) ∧
    (fld ((sSv 0x2001 64).g (gr 1)) 63 48 = 0 ∧ ((sSv 0x2001 64).g (gr 1)).toNat % 64 ≠ 0) ∧
    (fld ((sSv 0x2000 65).g (gr 1)) 63 48 = 0 ∧ ((sSv 0x2000 65).g (gr 1)).toNat % 64 = 0 ∧ ((sSv 0x2000 65).g (gr 2)).toNat % 64 ≠ 0) ∧
    (let s := sSv 0x2000 0x1000000040
     ok s = true ∧ fld (s.g (gr 1)) 63 48 = 0 ∧ (s.g (gr 1)).toNat % 64 = 0 ∧ (s.g (gr 2)).toNat % 64 = 0 ∧ 2 ^ 36 < (s.g (gr 2)).toNat) ∧
    (s.me.phase.step = 0 ∧ (s.pieceTrap (s.g (gr 1)) (s.g (gr 2))).isNone = true) ∧
    (let s := sSv 0x2000 0
     ok s = true ∧ s.me.phase.step = 0 ∧ (s.pieceTrap (s.g (gr 1)) (s.g (gr 2))).isNone = true ∧ (s.g (gr 2)).toNat = 0) ∧
    (let s := sSv 0x8000 64
     ok s = true ∧ s.me.phase.step = 0 ∧ (s.pieceTrap (s.g (gr 1)) (s.g (gr 2))).isNone = true ∧ (s.g (gr 2)).toNat ≠ 0 ∧ quiet s = true ∧
     s.dirtyIn s.myPart 0x8000 64 = []) ∧
    (let s := (sDirty 0x2000 64).modMyCore (fun k => { k with cache := [] })
     ok s = true ∧ s.me.phase.step = 0 ∧ (s.pieceTrap (s.g (gr 1)) (s.g (gr 2))).isNone = true ∧ (s.g (gr 2)).toNat ≠ 0 ∧ quiet s = true ∧
     s.dirtyIn s.myPart 0x2000 64 ≠ []) ∧
    (ok (atStep s 5) = true ∧ (atStep s 5).me.phase.step = 5) ∧
    (let s := sSv 9 10
     ok s = true ∧ (s.g (gr 2)).toNat < s.gtime.toNat + 10000) ∧
    (let s := sSv 9 20000
     ok s = true ∧ s.gtime.toNat + 10000 ≤ (s.g (gr 2)).toNat ∧ (s.part s.myPart).task 9 = none ∧
     ((s.part s.myPart).task 2).any (fun t => t.phase != .running) = true ∧
     ((s.part s.myPart).task 3).any (fun t => t.phase == .running && t.switchAt.isSome) = true ∧
     ((s.part s.myPart).task 1).any (fun t => t.phase == .running && t.switchAt.isNone) = true) ∧
    (let s := inGen s 5
     ok s = true ∧ s.out = true ∧ fld (s.part s.myPart).ckptctl 63 32 < s.me.phase.val.toNat) ∧
    (let s := inGen s 0
     ok s = true ∧ s.out = true ∧ s.me.phase.val.toNat ≤ fld (s.part s.myPart).ckptctl 63 32) := by
  and_intros <;> decide +kernel

theorem wit_SupervisorOperations_waited :
    let ok := fun (s : State) => plainOk s && s.modsOk (condsOf [.dst (gr 3), .src (gr 1), .src (gr 2)])
    let before := fun (s : State) => (s.slice 7).mshrs ++ (if (s.slice 7).hold then [] else (s.slice 7).queue)
    (let s := sSw3 3 false
     ok s = true ∧ s.out = true ∧ s.me.phase.eas = [7, 1, 3] ∧ (before s).all (fun e => decide (3 ≤ e.id)) = true ∧ (before s).length = 1) ∧
    (let s := sSw3 2 true
     ok s = true ∧ s.out = true ∧ before s = []) ∧
    (let s := sSw3 2 false
     ok s = true ∧ s.out = true ∧ (before s).any (fun e => decide (e.id < 3)) = true) ∧
    (let s := sWbr (sDirty 0x2000 64) 3
     ok s = true ∧ s.me.phase.step = 3 ∧ s.me.phase.eas = [0x2000, 64] ∧ (s.g (gr 1)).toNat ≠ 0x2000) ∧
    (let s := sWbr { (sDirty 0x2000 64) with net := [{ msg0 (.unit true false false) 1 with addr := 0x2000 }] } 3
     ok s = true ∧ s.me.phase.step = 3 ∧ s.linesOut 0x2000 64 ≠ []) ∧
    (let s := sWbr (sDirty 0x2000 64) 4
     ok s = true ∧ s.me.phase.step = 4 ∧ s.me.phase.eas = [0x2000, 64] ∧ s.gone s.me.phase.ids = true ∧ s.dirtyIn s.myPart 0x2000 64 ≠ []) ∧
    (let s := sWbr { (sDirty 0x2000 64) with net := [msg0 (.unit true false false) 0] } 4
     ok s = true ∧ s.me.phase.step = 4 ∧ s.gone s.me.phase.ids = false) ∧
    (let s := sWbr (sSv 0x2000 64) 4
     ok s = true ∧ s.me.phase.step = 4 ∧ s.gone s.me.phase.ids = true ∧ s.dirtyIn s.myPart 0x2000 64 = []) ∧
    (let s := sSv 7 1
     s.cur.2 < s.threadCount s.cur.1 ∧ s.myCore.bar.aborted = none ∧ s.myCore.bar.arrived.contains (s.gangWide 0 0) = false) := by
  and_intros <;> decide +kernel

/-! Steps of other agents -/

/-- A parked thread, and pending events. -/
def pk : Parked := ⟨.nop p0, .others, 5, false⟩
def ev1 (c : Nat) : Ev := ⟨c, 1, 2, some 0x7000, some (3, 4)⟩
def sEv (f : Ctx → Ctx) : State := (sE .l0 0x8000 0x9000).modMe f

theorem wit_ThreadEventsHappen :
    ((sEv (fun t => t)).ctx 0 0).park = none ∧
    (let s := sEv (fun t => { t with park := some pk })
     (s.ctx 0 0).park = some pk ∧ s.waitOk 0 0 pk.w = true ∧
     let limit := fld (s.part (s.partOf 0 0)).ckptctl 31 24 * 1000000
     s.gtime.toNat ≤ pk.since + limit ∧ limit ≠ 0 ∧ pk.since + limit < ({ s with gtime := 200000000 } : State).gtime.toNat ∧ (s.ctx 0 0).state = .running) ∧
    (let s := inCtx (sEv (fun t => { t with park := some pk })) 1 .running
     (s.ctx 0 0).park = some pk ∧ s.waitOk 0 0 pk.w = false ∧ pk.w ≠ .served) ∧
    (let s := sEv (fun t => { t with park := some { pk with w := .served } })
     (s.ctx 0 0).park = some { pk with w := .served }) ∧
    ((sEv (fun t => t)).ctx 0 0).eventDue = false ∧
    (let u := (sEv (fun t => { t with events := [ev1 0x35, ev1 0x31, ev1 0x33] })).ctx 0 0
     u.events = [ev1 0x35] ++ ev1 0x31 :: [ev1 0x33] ∧ u.events.length ≤ 16 ∧ u.eventDue = true ∧ (ev1 0x31).code < (ev1 0x35).code ∧
     (ev1 0x31).code ≤ (ev1 0x33).code) ∧
    (let s := sEv (fun t => { t with state := .held })
     (s.ctx 0 0).state = .held ∧ s.waitOk 0 0 .others = true) ∧
    (let s := inCtx (sEv (fun t => { t with state := .held })) 1 .running
     (s.ctx 0 0).state = .held ∧ s.waitOk 0 0 .others = false) ∧
    (let v : Word := 2
     bit v 1 = true ∧ bit ((sEv (fun t => { t with dbgctl := 2 })).ctx 0 0).dbgctl 1 = true ∧ bit ((sEv (fun t => t)).ctx 0 0).dbgctl 1 = false) ∧
    bit (1 : Word) 1 = false := by decide +kernel

/-- A record with one written region, and the state whose window holds a task that touches it. -/
def recFoot : List Byte := ((recBytes.set 0x39 0x20).set 0x3F 0x80).set 0x40 1
def sTkW (bs : List Byte) : State := (sTk bs).modPart 0 (fun p => { p with nextTask := 9, window := [{ tk1 with record := recOf recFoot }] })
/-- The enqueue queue's head may become a task, and its record reads as `p` says. -/
def creates (s : State) (p : List Byte → State → Bool) : Bool :=
  let q := s.part 0
  let a : Word := q.enq.headD 0
  !q.enq.isEmpty && q.present && !q.inReset && !q.stopped && decide (q.window.length < 1024) && fld a 63 57 == 0 && a.toNat % 64 == 0 &&
  (match (s.modPart 0 (fun p => { p with enq := q.enq.drop 1 })).schedRead 0 a.toNat 3 128 with
    | .ok bs t => p bs t && (t.part 0).window.all (fun e => e.phase != .waiting && e.id != (t.part 0).nextTask.toNat)
    | _ => false)
def depsOf (t : State) (bs : List Byte) : List Nat := (((t.part 0).window.filter (fun e => dependsOn (recOf bs) e.record)).map (fun e => e.id))

theorem wit_TasksEnterTheWindow :
    (s0.part 0).present = false ∧
    (let p := ((sTk recBytes).modPart 0 (fun p => { p with inReset := true })).part 0
     p.present = true ∧ p.inReset = true) ∧
    (let p := ((sTk recBytes).modPart 0 (fun p => { p with enq := List.replicate 64 0x1000 })).part 0
     p.present = true ∧ p.inReset = false ∧ p.capture = none ∧ 64 ≤ p.enq.length) ∧
    (let p := (sTk recBytes).part 0
     p.present = true ∧ p.inReset = false ∧ p.capture = none ∧ p.enq.length < 64) ∧
    (s0.part 0).enq = [] ∧
    (let at_ := fun (a : Word) => ((sTk recBytes).modPart 0 (fun p => { p with enq := [a] })).part 0
     let ok := fun (p : Part) => p.present && !p.inReset && !p.stopped && decide (p.window.length < 1024)
     (ok (at_ 0x200000000000000) = true ∧ fld (0x200000000000000 : Word) 63 57 ≠ 0) ∧ (ok (at_ 0x1001) = true ∧ (0x1001 : Word).toNat % 64 ≠ 0) ∧
     ok (at_ 0x9000) = true ∧ fld (0x9000 : Word) 63 57 = 0 ∧ (0x9000 : Word).toNat % 64 = 0 ∧
     (match ((sTk recBytes).modPart 0 (fun p => { p with enq := [] })).schedRead 0 0x9000 3 128 with
      | .bad => true
      | _ => false) = true) ∧
    creates (sTk recNo) (fun bs _ => (recFail bs).isSome) = true ∧
    creates (sTkW recFoot) (fun bs t => (recFail bs).isNone && depsOf t bs == [1]) = true ∧
    creates (sTk recBytes) (fun bs t => (recFail bs).isNone && (depsOf t bs).isEmpty && (recOf bs).sizePtr == 0 &&
      (recOf bs).variants.head?.any (fun v => decide (v.gang ≤ (t.part 0).widest))) = true ∧
    creates (sTk recWide) (fun bs t => (recFail bs).isNone && (depsOf t bs).isEmpty && (recOf bs).sizePtr == 0 && (recOf bs).target == 0 &&
      (recOf bs).variants.head?.any (fun v => decide ((t.part 0).widest < v.gang))) = true ∧
    ((({ sDisp with gtime := 2000000 } : State).part 0).task 1).any (fun t => t.waits && decide (t.level < 7) && decide (t.since + 1000000 ≤ 2000000)) = true ∧
    ((sDisp.part 0).task 1).any (fun t => decide (sDisp.gtime.toNat < t.since + 1000000)) = true := by decide +kernel

theorem wit_TasksEnterTheWindow_ready :
    let p := sWait.part 0
    let l : List Task := [{ tkR with id := 4 }]
    let t : Task := { tkR with phase := .waiting, since := 5 }
    let r : List Task := [{ tkR with id := 6 }]
    p.enq = [] ∧ p.present = true ∧ p.inReset = false ∧ p.stopped = false ∧ p.window = l ++ t :: r ∧
    (l ++ r).all (fun e => e.phase != .waiting && e.id != t.id) = true ∧ t.phase = .waiting ∧ t.deps = [] ∧ t.record.sizePtr = 0 ∧
    t.record.variants.head?.any (fun v => decide (v.gang ≤ p.widest)) = true := by decide +kernel

theorem wit_TasksRunAndReport :
    headOf (s0.part 0).window = none ∧ headOf (sDisp.part 0).window = some tkR ∧ tkR.phase = .ready ∧ tkR.record.variants[tkR.variant]? = some ⟨1, 0x1000, 0⟩ ∧
    (sDisp.part 0).stopped = false ∧ sDisp.bindable 0 0 1 [0] = true ∧ sDisp.clockCovers 0 tkR.vec = true ∧ (sDisp.part 0).placed tkR.record = some [] ∧
    (match sDisp.readPlaced 0 0 [] with
      | some (some p, _) => p.isEmpty
      | _ => false) = true ∧
    (let s := sRun.modPart 0 (fun p => { p with window := [tk1] })
     (s.part 0).task 1 = some tk1 ∧ tk1.phase = .running ∧ s.gangOver tk1 = true ∧ s.gangBusy tk1.tiles = false ∧ s.dirtyGang tk1.tiles = false ∧
     tk1.place.filter (fun x => x.2.2.2) = [] ∧ tk1.record.target = 0 ∧ ∀ e ∈ (s.part 0).window, e.phase ≠ .waiting) ∧
    sG.gangOver tk2 = false ∧ (s0.part 0).reports = [] ∧
    (let p := (sRing 5).part 0
     p.reports = 1 :: [0x200000000] ∧ p.present = true ∧ p.inReset = false ∧ p.released ≠ 0 ∧ p.ringRoom = true ∧ (sRing 5).hostMem.wf = true) ∧
    (let p := (sRing 4).part 0
     p.reports = 1 :: [0x200000000] ∧ p.present = true ∧ p.inReset = false ∧ p.released ≠ 0 ∧ p.ringRoom = false) ∧
    (sG.part 0).task 1 = some tk2 ∧ (sLvl.core 0).tstate = .bound ∧ (sLvl.core 1).cycle < (sLvl.core 1).lvlNext ∧ (sLvl.core 0).lvlNext ≤ (sLvl.core 0).cycle ∧
    sLvl.leastLoaded 0 = some 1 ∧ (sLvl.core 1).wl.length + 2 ≤ (sLvl.core 0).wl.length ∧ (sLvl.core 0).wlSent[0]? = some (1, [1, 2, 3]) := by
  and_intros <;> decide +kernel

/-- A request at tile 1 that is the first of its thread there and finds its bank open; the planes of a store of four bytes at 0x100. -/
def opens (s : State) (m : Msg) : Bool :=
  s.net == [m] && m.kind.store? == some 1 && !s.tileFirst m && !m.bytes.any (fun b => s.bankWait 1 b.1 1) &&
  m.bytes == cellsAt 0x100 (List.replicate 4 0xA5) && (s.core 1).roleNum.isNone && (s.core 1).store.wf
def pl4 : List (List (Nat × Nat × Word)) := [[(0x100, 4, 0xE001000000000100)]]
/-- Tile 1 with a queued MST over those bytes. -/
def sTiM (k : MKind) : State := (sTi k).modCore 1 (fun c => { c with mq := [⟨.mst 0 (srcAt 0x100 0) .s none, 7, 0, 0, 0, 0, [], []⟩] })
def ln3 : Line := ⟨4, List.replicate 64 3, false, false, false⟩

theorem wit_RequestsReachTiles :
    let four := fun (k : MKind) => rq k 0x100 4
    let k1 : MKind := .tileStore 1 true false
    s0.net[0]? = none ∧ opens (sTi k1) (four k1) = true ∧
    (let s := { sTi k1 with net := [{ four k1 with id := 3 }, four k1] }
     s.net[1]? = some (four k1) ∧ (four k1).kind.store? = some 1 ∧ s.tileFirst (four k1) = true) ∧
    (opens (sTi (.farStore 1 pl4 true)) (four (.farStore 1 pl4 true)) = true ∧ ((sTi (.farStore 1 pl4 true)).core 1).refusal pl4 = none) ∧
    (opens (sTiQ (.farStore 1 pl4 true)) (four (.farStore 1 pl4 true)) = true ∧
     ((sTiQ (.farStore 1 pl4 true)).core 1).refusal pl4 = some (0xE001000000000100, 7)) ∧
    (opens (sTi (.farProbe 1 pl4)) (four (.farProbe 1 pl4)) = true ∧ ((sTi (.farProbe 1 pl4)).core 1).refusal pl4 = none) ∧
    (opens (sTiQ (.farProbe 1 pl4)) (four (.farProbe 1 pl4)) = true ∧ (((sTiQ (.farProbe 1 pl4)).core 1).refusal pl4).isSome = true) ∧
    (opens (sTi (.tileRead 1)) (four (.tileRead 1)) = true ∧ ((sTi (.tileRead 1)).core 1).unsettled 0x100 4 = false) ∧
    (opens (sTiM (.tileRead 1)) (four (.tileRead 1)) = true ∧ ((sTiM (.tileRead 1)).core 1).unsettled 0x100 4 = true ∧ (four (.tileRead 1)).ctx < 16) ∧
    (let k : MKind := .tileAtomic 1 atomAdd
     opens (sTiQ k) (four k) = true ∧ ((sTiQ k).core 1).latestMet [(0x100, 4)] = some 7 ∧
     opens (sTi k) (four k) = true ∧ ((sTi k).core 1).latestMet [(0x100, 4)] = none ∧ ((sTi k).core 1).unsettled 0x100 4 = false ∧
     ((sTi k).core 1).poisoned 0x100 4 = false ∧
     opens ((sTi k).modCore 1 (fun k => { k with storePoison := [4] })) (four k) = true ∧
     (((sTi k).modCore 1 (fun k => { k with storePoison := [4] })).core 1).poisoned 0x100 4 = true) ∧
    ([.cacheStore 1, .cacheUpdate 1, .cacheRead 1 4 false, .cacheAtomic 1 atomAdd false, .cacheAtomic 1 atomAdd true].all (fun k =>
      let s := sLn k true
      let t := sLn k false
      let f := { t with net := t.net ++ [{ msg0 (.fetch 1 false) 9 with core := 1, ctx := noCtx, addr := 0x100 }] }
      s.net == [four k] && !s.lineFirst (four k) && (s.core 1).lineAt 4 false == some ln3 && (k != .cacheStore 1 || !(s.core 0).fenced 7) &&
      t.net == [four k] && !t.lineFirst (four k) && (t.core 1).lineAt 4 false == none && !t.fetching 1 4 &&
      f.net[0]? == some (four k) && !f.lineFirst (four k) && (f.core 1).lineAt 4 false == none && k.cache? == some 1 && f.fetching 1 4)) = true ∧
    (let k : MKind := .cacheAtomic 1 atomAdd false
     let s := (sTi k).modCore 1 (fun c => { c with cache := [{ ln3 with poison := true }] })
     s.lineFirst (four k) = false ∧ ((s.core 1).lineAt 4 false).any (fun l => l.poison) = true) ∧
    (let k : MKind := .cacheRead 1 4 false
     let s := { sLn k true with net := [{ four (.cacheStore 1) with id := 3 }, four k] }
     s.net[1]? = some (four k) ∧ s.lineFirst (four k) = true) := by decide +kernel

theorem wit_RequestsReachTiles_more :
    let four := fun (k : MKind) => rq k 0x100 4
    (let k : MKind := .tileStore 1 true false
     opens (sTiQ k) (four k) = true ∧ (sTiQ k).behindStep (four k) = true ∧ (sTi k).behindStep (four k) = false) ∧
    (opens (sTiF (.tileRead 1)) (four (.tileRead 1)) = true ∧ (sTiF (.tileRead 1)).freshFor 1 0 0x100 4 = true ∧
     (sTi (.tileRead 1)).freshFor 1 0 0x100 4 = false) ∧
    (let m := four (.cacheUpdate 1)
     (sLnF true).net = [m] ∧ (sLnF true).lineFirst m = false ∧ ((sLnF true).core 1).lineAt 4 false = some ln3 ∧ ((sLnF true).core 0).fenced 7 = true ∧
     ((sLn (.cacheUpdate 1) true).core 0).fenced 7 = false ∧
     ((sLnF false).core 1).lineAt 4 false = none ∧ (sLnF false).fetching 1 4 = false ∧ ((sLn (.cacheUpdate 1) false).core 0).fenced 7 = false) := by
  decide +kernel

/-- A request at slice 4, the home of its piece, which may arrive; the piece is there, with its mark, and nothing waits for it. -/
def isHere (s : State) (m : Msg) (mark : Bool) : Bool :=
  s.net == [m] && s.canArrive m && !(s.slice 4).hold && s.homeSlice m.place m.addr == 4 && !(s.slice 4).missed m.place &&
  s.onSlice 4 m.sbyte == some (List.replicate 64 9, mark)
/-- A request that may arrive at slice 4 and its home, where the piece is absent, with room in the MSHRs. -/
def isAbsent (s : State) (m : Msg) : Bool :=
  s.net == [m] && s.canArrive m && !(s.slice 4).hold && s.homeSlice m.place m.addr == 4 && s.onSlice 4 m.sbyte == none &&
  !s.moveHold m.place m.addr && !wholePiece 0x2000 m.bytes && decide ((s.slice 4).mshrs.length < 64)

theorem wit_RequestsReachSlices :
    let rd : MKind := .read 4
    s0.net[0]? = none ∧
    ([.unit false true false, .atomic atomAdd, rd].all (fun k =>
      let s := sSl k 1 0 true
      let m := rqS k
      let couching := s.modStack 0 (fun t => { t with couch := some ⟨3, ag0, none, 0, []⟩ })
      let held := s.modSlice 4 (fun l => { l with hold := true })
      let moved := s.modStack 0 (fun t => { t with inForce := { t.inForce with map := 0 } })
      let behind := s.modSlice 4 (fun l => { l with mshrs := [{ m with id := 3, core := 1 }] })
      let full := { sSl k 1 0 true with parts := [(0, { P0 (s.part 0) with sys := [] })] }
      isHere s m false && isHere (sSl k 1 1 true) m true && (s.part 0).logRoom 0x2000 m.place.half && !(s.part 0).logged 0x2000 &&
      !s.ownUndelivered m && s.ownerDie 0 == dieOf m.core && !couching.canArrive m &&
      held.canArrive m && (held.slice 4).hold && decide ((held.slice 4).queue.length < 64) &&
      moved.canArrive m && !(moved.slice 4).hold && moved.homeSlice m.place m.addr != 4 &&
      behind.canArrive m && (behind.slice 4).missed m.place && decide ((behind.slice 4).mshrs.length < 64) && isAbsent (sSl k 0 0 false) m &&
      isHere full m false && !(full.part 0).logRoom 0x2000 m.place.half)) = true ∧
    (let r := (sSl rd 1 0 true).modDie 0 (fun d => { d with inbox := [⟨0, [], vp 0, none, some { msg0 (.unit false true false) 1 with addr := 0x2000 }⟩] })
     r.net[0]? = some (rqS rd) ∧ r.ownUndelivered (rqS rd) = true) ∧
    (let r := (sSl rd 1 0 true).modStack 0 (fun t => { t with own := true })
     let v := r.modDie 0 (fun d => { d with view := [vp 3] })
     r.ownerDie 0 ≠ dieOf 0 ∧ r.ownUndelivered (rqS rd) = false ∧ isHere r (rqS rd) false = true ∧ (r.die 0).viewOf 0 0x80 = none ∧
     r.inFlight.any (fun e => r.mustFollow (rqS rd) e) = false ∧ (v.die 0).viewOf 0 0x80 = some (vp 3) ∧ v.ownUndelivered (rqS rd) = false ∧
     v.inFlight.any (fun e => v.mustFollow (rqS rd) e) = false) ∧
    (let r := { (sSl rd 0 0 true).modSlice 4 (fun l => { l with mshrs := [rqS rd, { rqS rd with id := 9 }] }) with net := [] }
     (r.slice 4).mshrs[0]? = some (rqS rd) ∧ ((r.slice 4).mshrs.take 0).any (fun e => e.samePiece (rqS rd)) = false ∧
     (r.slice 4).mshrs[1]? = some { rqS rd with id := 9 } ∧ ((r.slice 4).mshrs.take 1).any (fun e => e.samePiece { rqS rd with id := 9 }) = true ∧
     ((r.slice 4).tagAt 0x2000).isSome = true ∧ r.onSlice 4 0x2000 = none ∧ r.homeSlice (rqS rd).place 0x2000 = 4 ∧
     r.moveHold (rqS rd).place 0x2000 = false ∧ r.ownerDie 0 = dieOf 0) ∧
    (let s := sDl none [] [0, 0, 0, 0]
     let e := s.die 1
     s0.dies = [] ∧ (s0.die 1).inbox[0]? = none ∧
     e.inbox[0]? = some ⟨0, [1, 0, 0, 0], vp 5, none, none⟩ ∧ (e.inbox.take 0).any (fun x => x.sender = 0) = false ∧
     coversBut e.clock [1, 0, 0, 0] 0 = true ∧ s.ownerDie 0 ≠ 1 ∧ e.viewOf 0 0x80 = none ∧
     ((sDl none [vp 3] [0, 0, 0, 0]).die 1).viewOf 0 0x80 = some (vp 3) ∧ (s.modStack 0 (fun t => { t with own := true })).ownerDie 0 = 1) ∧
    (let s := s0.modDie 1 (fun d => { d with inbox := [⟨0, [1, 7, 0, 0], vp 5, none, none⟩] })
     (s.die 1).inbox[0]? = some ⟨0, [1, 7, 0, 0], vp 5, none, none⟩ ∧ coversBut (s.die 1).clock [1, 7, 0, 0] 0 = false) ∧
    (let e := (sDl (some (rqS rd)) [] [0, 0, 0, 0]).die 1
     e.inbox[0]? = some ⟨0, [1, 0, 0, 0], vp 5, some (rqS rd), none⟩ ∧ (e.inbox.take 0).any (fun x => x.sender = 0) = false ∧
     coversBut e.clock [1, 0, 0, 0] 0 = true) := by decide +kernel

theorem wit_RequestsReachSlices_area :
    let rd : MKind := .read 4
    ([MKind.unit false true false, .atomic atomAdd, rd].all (fun k =>
      let s := sArea k 1 false false
      let m := rqA k false
      s.net == [m] && s.canArrive m && !(s.slice 0).hold && (s.slice 0).queue == [] && s.homeSlice m.place m.addr == 0 &&
      !m.behindBank (s.slice 0).mshrs && s.onSlice 0 m.sbyte == some (7 :: List.replicate 63 0, false) &&
      s.canLog 0 m.addr m.place && (sysByte m.sbyte).isSome && (sysByte (pieceBase m.sbyte)).isSome)) = true ∧
    (let s := (sArea rd 1 true false).modStack 0 (fun t => { t with own := true })
     s.ownerDie 0 ≠ dieOf 0 ∧ s.ownUndelivered (rqA rd false) = false ∧ s.onSlice 0 (2 ^ 40) = some (7 :: List.replicate 63 0, true)) ∧
    (sysByte (rqS rd).sbyte = none ∧ (sSl rd 1 0 true).canLog 0 0x2000 (rqS rd).place = true ∧
     ({ sSl rd 1 0 true with parts := [(0, { P0 ((sSl rd 1 0 true).part 0) with sys := [] })] } : State).canLog 0 0x2000 (rqS rd).place = false) := by decide +kernel

theorem wit_RequestsReachSlices_more :
    let rd : MKind := .read 4
    let gone := fun (s : State) => ({ s with net := dropAt s.net 0 } : State)
    (let s := sQueued rd
     s.net = [rqS rd] ∧ s.canArrive (rqS rd) = true ∧ (((gone s).drainQueue 4).slice 4).queue ≠ [] ∧ (((gone s).drainQueue 4).slice 4).queue.length < 64) ∧
    (let k : MKind := .atomic atomAdd
     let s := sBank k
     s.net = [rqS k] ∧ s.canArrive (rqS k) = true ∧ (s.slice 4).hold = false ∧ (s.slice 4).queue = [] ∧ s.homeSlice (rqS k).place 0x2000 = 4 ∧
     (s.onSlice 4 0x2000).isSome = true ∧ (rqS k).behindBank (s.slice 4).mshrs = true ∧ (s.slice 4).mshrs.length < 64) ∧
    (let s := sWhole false
     s.net = [rqW false] ∧ s.canArrive (rqW false) = true ∧ (s.slice 4).hold = false ∧ (s.slice 4).queue = [] ∧ s.homeSlice (rqW false).place 0x2000 = 4 ∧
     wholePiece 0x2000 (rqW false).bytes = true ∧ s.onSlice 4 0x2000 = none ∧ (s.part 0).logRoom 0x2000 (rqW false).place.half = true ∧
     (s.ensureTag 4 0x2000 0x2000).isSome = true) ∧
    (let s := sFull
     s.net = [rqS rd] ∧ s.canArrive (rqS rd) = true ∧ (s.slice 4).hold = false ∧ (s.slice 4).queue = [] ∧ s.homeSlice (rqS rd).place 0x2000 = 4 ∧
     s.onSlice 4 0x2000 = none ∧ s.moveHold (rqS rd).place 0x2000 = false ∧ 64 ≤ (s.slice 4).mshrs.length ∧
     (s.slice 4).filter.any (fun e => e.1 = granOf 0x2000) = false ∧ s.ownerDie 0 = dieOf 0) ∧
    (let m := { rqS (.atomic atomAdd) with id := 5 }
     let s := (sBank rd).modSlice 4 (fun l => { l with mshrs := l.mshrs ++ [m] })
     ((s.slice 4).mshrs)[1]? = some m ∧ m.behindBank ((s.slice 4).mshrs.take 1) = true) ∧
    ((sSl rd 1 0 true).slice 4).queue = [] := by decide +kernel



/-- An operation from device 7 on port 0; the executor's slice is held, so that it must wait. -/
def dm (off : BitVec 46) (op : DomOp) : DomMsg := ⟨7, 1, 0, off, op⟩
def sDh (o : OutMsg) : State := (sDm o).modSlice 4 (fun l => { l with hold := true })
/-- An entry of the outbox whose thread stands, from this checkpoint's time. -/
def isOut (s : State) (m : OutMsg) : Bool :=
  s.outbox[0]? == some m && s.seat m.by_ == some 0 && (s.part m.by_.part).ckpt.all (fun q => decide (q.mark ≤ m.id)) && s.executor.isEmpty

theorem wit_DomainOperationsActAndAnswer :
    let flit : OutMsg := om 0x3FFF 0x3FFF00100008 (.atomic atomAdd)
    let q1 : Collective := ⟨1, 8, atomAdd, 1, [ag0]⟩
    (s0.outbox[0]? = none ∧ s0.executor = [] ∧ s0.partials[0 - s0.outbox.length]? = none) ∧
    (let s := { s0 with partials := [(12, q1)], groups := [(1, 2)] }
     s.outbox[0]? = none ∧ s.partials[0 - s.outbox.length]? = some (12, q1) ∧
     ({ s with partials := [] } : State).flitRoom q1.flit = true) ∧
    (let s := { sDh (om 0 0 (.load 1)) with executor := [.ext (dm 0x10 (.store bs8))] }
     s.executor = .ext (dm 0x10 (.store bs8)) :: [] ∧ s.runOne (.ext (dm 0x10 (.store bs8))) = none ∧ s.linkFailed.contains (9 * 2 ^ 16 + 0) = false) ∧
    (let m := om 7 0 (.store bs8)
     isOut (sDm m) m = true ∧ m.isFlit = false ∧ m.dev ≠ (sDm m).devnum.toNat ∧ waitsFor m.op = none) ∧
    (let m := om 7 0 (.load 8)
     isOut (sDm m) m = true ∧ m.isFlit = false ∧ m.dev ≠ (sDm m).devnum.toNat ∧ waitsFor m.op = some 8) ∧
    ([om 0 0x10 (.store bs8), om 0 0x20000 (.store bs8), om 0 0x20000 (.load 8)].all (fun m =>
      let s := sDm m
      isOut s m && !m.isFlit && m.dev == s.devnum.toNat && s.outbox == [m])) = true ∧
    (let m := om 0 0x10 (.store bs8)
     let s := sDm m
     let r := s.modPart 0 (fun p => { p with inReset := true })
     (s.part 0).exports 0x10 8 = true ∧ (s.part 0).exports 0x20000 8 = false ∧ (s.part 0).inReset = false ∧ ((s.part 0).place 0x2010).isSome = true ∧
     (s.devWrite (s.homeDie 0 0x2010) 0 0x2010 9 bs8).isSome = true ∧ isOut r m = true ∧ (r.part 0).exports 0x10 8 = true ∧ (r.part 0).inReset = true) ∧
    (let m := om 0 8 (.load 1)
     let s := { sDm m with outbox := [om 0 0 (.load 1), m] }
     s.outbox[1]? = some m ∧ s.executor = [] ∧ m.isFlit = false ∧ m.dev = s.devnum.toNat ∧
     (s.outbox.take 1).any (fun y => y.by_ == m.by_ && y.dev == m.dev) = true) ∧
    (isOut (sCl none) flit = true ∧ flit.isFlit = true ∧ tget 0 (sCl none).groups (flit.off / 2 ^ 20 % 256) = 2 ∧ flit.off % 2 ^ 20 = 8 ∧
     ({ sCl none with outbox := [] } : State).hops 0 none ⟨1, 8, atomAdd, 1⟩ = [] ∧ (sCl none).collective 1 8 = none ∧ isOut (sDm flit) flit = true ∧ tget 0 (sDm flit).groups (flit.off / 2 ^ 20 % 256) = 0) ∧
    (let s := (sCl none).modPart 0 (fun p => { p with roles := [role 8 false none none] })
     isOut s flit = true ∧ ({ s with outbox := [] } : State).hops 0 none ⟨1, 8, atomAdd, 1⟩ = [12] ∧
     ({ s with outbox := [] } : State).flitRoom ⟨1, 8, atomAdd, 1⟩ = true) ∧
    (isOut (sCl (some q1)) flit = true ∧ (sCl (some q1)).collective 1 8 = some q1 ∧ (1 : Nat) + 1 ≤ 2 ∧
     (sCl (some { q1 with count := 2 })).collective 1 8 = some { q1 with count := 2 } ∧ 2 < (2 : Nat) + 1) ∧
    (({ s0 with linkFailed := [9 * 2 ^ 16] } : State).executor = [] ∧ ({ s0 with linkFailed := [9 * 2 ^ 16] } : State).linkFailed.contains (9 * 2 ^ 16 + 0) = true) ∧
    (s0.executor = [] ∧ s0.linkFailed.contains (9 * 2 ^ 16 + 0) = false ∧ s0.exportPart 0 0x10 8 = none) ∧
    ([sDm (om 7 0 (.load 1)), sDh (om 7 0 (.load 1))].all (fun s => s.executor.isEmpty && !s.linkFailed.contains (9 * 2 ^ 16 + 0) &&
      s.exportPart 0 0x10 8 == some 0 && !(s.part 0).inReset && ((s.part 0).place 0x2010).isSome)) = true ∧
    (let s := sDm (om 7 0 (.load 1))
     let h := sDh (om 7 0 (.load 1))
     (s.devWrite (s.homeDie 0 0x2010) 0 0x2010 9 bs8).isSome = true ∧ (s.devRead (s.homeDie 0 0x2010) 0 0x2010 9 8).isSome = true ∧
     h.devWrite (h.homeDie 0 0x2010) 0 0x2010 9 bs8 = none) ∧
    (let s := (sT.modMe (fun t => { t with state := .running })).modPart 0 (fun p => { p with ports := 1 })
     let word : Word := 0x100000090
     s.executor = [] ∧ s.linkFailed.contains (9 * 2 ^ 16 + 0) = false ∧
     s.portPart 0 = some 0 ∧ (s.part 0).inReset = false ∧ (s.part 0).task (fld word 63 32) = some tk1 ∧ fld word 63 32 ≠ 0 ∧ tk1.phase = .running ∧
     tk1.tiles[fld word 29 18]? = some 0 ∧ (s.ctx 0 (fld word 13 10)).live = true ∧ 0 < fld word 9 4 ∧ fld word 9 4 < 32) ∧
    ((sFi 9).net[0]? = some (msg0 (.fill 0 0 9 0x77) 2) ∧ ((sFi 9).ctx 0 0).live = true) ∧
    (let s := { sFi 9 with net := [msg0 (.fill 0 0 35 0x77) 2] }
     s.net[0]? = some (msg0 (.fill 0 0 35 0x77) 2) ∧ (s.ctx 0 0).live = true) ∧
    (let s := { sFi 9 with net := [msg0 (.fill 0 1 9 0x77) 2] }
     s.net[0]? = some (msg0 (.fill 0 1 9 0x77) 2) ∧ (s.ctx 0 1).live = false) ∧
    s0.collective 1 8 = none ∧ ((sCl (some q1)).collective 1 8 = some q1 ∧ q1.count ≠ tget 0 (sCl (some q1)).groups 1) ∧
    (let q : Collective := { q1 with count := 2 }
     let s := sCl (some q)
     s.collective 1 8 = some q ∧ q.count = tget 0 s.groups 1 ∧ (s.writeMembers q).any (fun t => t.seat ag0 == some 0) = true ∧ q.issuers = [ag0]) := by
  and_intros <;> decide +kernel

theorem wit_DomainOperationsActAndAnswer_more :
    let off := collectiveBase + 8
    (let m := om 7 off (.store bs8)
     isOut (sDm m) m = true ∧ m.isFlit = false ∧ m.dev ≠ (sDm m).devnum.toNat ∧ waitsFor m.op = none ∧ m.barred = true ∧ (om 7 0 (.store bs8)).barred = false) ∧
    (let m := om 7 off (.load 8)
     isOut (sDm m) m = true ∧ m.isFlit = false ∧ m.dev ≠ (sDm m).devnum.toNat ∧ waitsFor m.op = some 8 ∧ m.barred = true ∧ (om 7 0 (.load 8)).barred = false) ∧
    (let flit : OutMsg := om 0x3FFF 0x3FFF00100008 (.atomic atomAdd)
     let u : State := { sHop (some (clq 2)) with outbox := [] }
     isOut (sHop (some (clq 2))) flit = true ∧ u.flitRoom ⟨1, 8, atomAdd, 1⟩ = false ∧ u.hops 0 none ⟨1, 8, atomAdd, 1⟩ = [12]) ∧
    (let s := sStands none
     s.outbox[0]? = none ∧ s.partials[0]? = some (12, clq 1) ∧ ({ s with partials := [] } : State).hops (s.tilePart 12) (some 12) (clq 1).flit = [] ∧
     ({ s with partials := [] } : State).flitRoom (clq 1).flit = true) ∧
    (let s := sStands (some (clq 2))
     ({ s with partials := [] } : State).flitRoom (clq 1).flit = false) := by
  and_intros <;> decide +kernel

theorem wit_CensusActsOnProposals :
    let ctl : Word := 0x110001400FA
    let due := fun (s : State) => s.censusDue 0 && bit (s.part 0).censusNext 40
    let quiet := fun (s : State) => due s && (s.part 0).roles.all (fun r => r.req.isNone) && (s.part 0).sys.wf &&
      (List.range 31).all (fun i => !bit ((s.part 0).propAt (i + 1)) 63)
    let o := fun (s : State) => (s.modPart 0 (fun q => { q with censusctl := q.censusNext, lastCensus := s.gtime.toNat })).outcome 0
      (fld (s.part 0).censusNext 39 32) ((s.part 0).propAt 0)
    let v := fun (s : State) => bit ((s.part 0).propAt 0) 63
    ({ sCe 0 ctl .idle with gtime := 3 } : State).censusDue 0 = false ∧
    ((sCe 0 0x010001400FA .idle).censusDue 0 = true ∧ bit ((sCe 0 0x010001400FA .idle).part 0).censusNext 40 = false) ∧
    (quiet (sCe 0 ctl .idle) = true ∧ v (sCe 0 ctl .idle) = false) ∧
    (quiet (sCe 0xA000000000090005 ctl .idle) = true ∧ v (sCe 0xA000000000090005 ctl .idle) = true ∧ o (sCe 0xA000000000090005 ctl .idle) = 0) ∧
    (quiet (sCe 0xA000000000090005 ctl .bound) = true ∧ v (sCe 0xA000000000090005 ctl .bound) = true ∧ o (sCe 0xA000000000090005 ctl .bound) = 1) ∧
    (quiet (sCe 0xA000000000090005 0x100001400FA .idle) = true ∧ v (sCe 0xA000000000090005 0x100001400FA .idle) = true ∧
      o (sCe 0xA000000000090005 0x100001400FA .idle) = 7) ∧
    ([some 5, none].all (fun t =>
      let r := { rl9 none with tile := t, req := some ⟨1, 0, 250000⟩ }
      let s := (sCe 0 ctl (.storage 9)).modPart 0 (fun p => { p with roles := [r] })
      due s && (List.range 32).all (fun i => !bit ((s.part 0).propAt i) 63) && (s.part 0).sys.wf && (s.part 0).roles == [r] && r.holder.isNone &&
      (s.modPart 0 (fun q => { q with censusctl := q.censusNext, lastCensus := s.gtime.toNat })).offerDue 0 r &&
      decide (0 < fld (s.part 0).censusNext 39 32))) = true ∧
    (((sCe 0xB000000000000005 ctl .idle).part 0).malformed (((sCe 0xB000000000000005 ctl .idle).part 0).propAt 0)) = true ∧
    (let s := sCe 0xA000000000090005 ctl .retired
     (s.part 0).malformed ((s.part 0).propAt 0) = false ∧ (s.core (fld ((s.part 0).propAt 0) 10 0)).tstate = .retired) ∧
    (let s := sCe 0xA000000000090005 ctl .bound
     let w := (s.part 0).propAt 0
     (s.part 0).malformed w = false ∧ s.inBands 0 (fld w 10 0) = true ∧ (s.core (fld w 10 0)).tstate = .bound ∧ s.changing 0 (fld w 10 0) = false ∧
     (s.part 0).changes = []) := by decide +kernel

theorem wit_CensusActsOnProposals_leases :
    let due := fun (s : State) => (s.part 0).roles.any (fun r => r.leaseTicks.any (fun t => decide (t ≤ s.gtime.toNat)))
    (sLeaseDue.censusDue 0 = true ∧ due sLeaseDue = true) ∧
    (let s := sHeld
     s.censusDue 0 = true ∧ due s = false ∧ bit (s.part 0).censusNext 40 = true ∧ (List.range 32).all (fun i => !bit ((s.part 0).propAt i) 63) = true ∧
     (s.part 0).sys.wf = true ∧ (s.part 0).roles = [rHeld] ∧ rHeld.holder = some 1 ∧ rHeld.req = some ⟨1, 0, 250000⟩ ∧
     (s.modPart 0 (fun q => { q with censusctl := q.censusNext, lastCensus := s.gtime.toNat })).offerDue 0 rHeld = true ∧
     0 < fld (s.part 0).censusNext 39 32) := by decide +kernel

/-- Role 9's lease, its warning wanted or given, and when it ends. -/
def sLe (w wd : Bool) (e : Nat) : State := { ((s0.modMe (fun t => { t with state := .running })).modPart 0
  (fun p => { P0 p with roles := [{ rl9 none with expiry := some e, warn := w, warned := wd, leaser := ag0 }] })) with gtime := 50000 }

theorem wit_RolesChangeHands :
    let due := fun (c : Change) (rs : List Role) =>
      let s := sCh c rs
      (s.part 0).changes[0]? == some c && !c.begun && decide (c.tick ≤ s.gtime.toNat) && !s.censusDue 0
    let begun := fun (c : Change) (rs : List Role) => ((sCh c rs).part 0).changes[0]? == some c && c.begun
    let rr := fun (c : Change) (rs : List Role) (r : Option Role) => ((sCh c rs).part 0).role 9 == r
    let r9 := rl9 none
    let rb := rl9 (some 0x2000)
    let away := { r9 with tile := some 7 }
    let full := (List.range 2048).map (fun n => { r9 with num := 100 + n })
    (s0.part 0).changes[0]? = none ∧
    (let c := chg .idleToIdle false none
     due c [] = true ∧ begun { c with begun := true } [] = true ∧
     ((sCh { c with tick := 9 } []).part 0).changes[0]? = some { c with tick := 9 } ∧ (sCh { c with tick := 9 } []).gtime.toNat < 9) ∧
    (let s := { (sCh (chg .idleToIdle false none) []).modPart 0 (fun p => { p with censusctl := 0x100001400FA }) with gtime := 250000 }
     (s.part 0).changes[0]? = some (chg .idleToIdle false none) ∧ s.censusDue 0 = true) ∧
    (let c := chg (.absent 9) false none
     due c [r9] = true ∧ rr c [r9] (some r9) = true) ∧
    (due (chg (.idleToRouting 9) false none) [] = true ∧ ((sCh (chg (.idleToRouting 9) false none) []).part 0).roleRoom 9 = true) ∧
    (let c := chg (.idleToRouting 9) false none
     due c full = true ∧ ((sCh c full).part 0).roleRoom 9 = false) ∧
    (let c := chg (.idleToStorage 9) false none
     due c [] = true ∧ ((sCh c []).part 0).roleRoom 9 = true ∧ rr c [] none = true ∧ due c [rb] = true ∧ ((sCh c [rb]).part 0).roleRoom 9 = true ∧
     rr c [rb] (some rb) = true) ∧
    (let c := chg (.leaveStorage 9 none .idle) false none
     due c [away] = true ∧ rr c [away] (some away) = true ∧ away.tile ≠ some c.tile ∧
     due c [r9] = true ∧ rr c [r9] (some r9) = true ∧ r9.tile = some c.tile ∧ r9.backing = none ∧
     due c [rb] = true ∧ rr c [rb] (some rb) = true ∧ rb.tile = some c.tile ∧ rb.backing ≠ none) ∧
    (let c := chg (.leaveStorage 9 (some 6) .idle) false none
     due c [r9] = true ∧ rr c [r9] (some r9) = true ∧ r9.tile = some c.tile) ∧
    (let c := chg (.leaveRouting 9 .idle) false none
     let r := role 9 false none none
     due c [r] = true ∧ rr c [r] (some r) = true ∧ begun { c with begun := true } [r] = true) ∧
    (let c := chg (.leaveStorage 9 (some 6) .idle) true none
     let s := sCh c [r9]
     begun c [r9] = true ∧ s.roleBusy c.tile = false ∧ (s.part 0).earlier 0 9 = false ∧ rr c [r9] (some r9) = true ∧ (6 : Nat) ≠ c.tile ∧
     ({ s with net := [rq (.tileStore 5 false false) 0x100 4] } : State).roleBusy c.tile = true) ∧
    (let c := chg (.leaveStorage 9 none .idle) true none
     let s := sCh c []
     begun c [] = true ∧ s.roleBusy c.tile = false ∧ (s.part 0).earlier 0 9 = false ∧ rr c [] none = true ∧
     ({ s with net := [rq (.tileStore 5 false false) 0x100 4] } : State).roleBusy c.tile = true) ∧
    ([none, some 0].all (fun m =>
      let c := chg (.leaveStorage 9 none .idle) true m
      let s := sCh c [rb]
      begun c [rb] && !s.roleBusy c.tile && !(s.part 0).earlier 0 9 && rr c [rb] (some rb) && rb.tile == some c.tile && rb.backing == some 0x2000)) = true ∧
    (let c := chg (.leaveStorage 9 none .idle) true (some 1)
     let s := sCh c [rb]
     let ok := fun (s : State) => (s.part 0).changes[0]? == some c && !s.roleBusy c.tile && !(s.part 0).earlier 0 9 && (s.part 0).role 9 == some rb
     let undelivered := s.modDie 0 (fun d => { d with inbox := [⟨0, [], vp 0, none, none⟩] })
     let dirty := s.modSlice 4 (fun l => { l with tags := [⟨0, 0, 0x2000, 0x2000, 1, 1, 0, [(0, List.replicate 64 9)], 0⟩] })
     let waits := s.modSlice 4 (fun l => { l with filter := [(0x2000, true)] })
     ok undelivered = true ∧ undelivered.deliveredAll 1 = false ∧
     ok dirty = true ∧ dirty.deliveredAll 1 = true ∧ dirty.backingDirty 0 0x2000 = true ∧
     ok waits = true ∧ waits.deliveredAll 1 = true ∧ waits.backingDirty 0 0x2000 = false ∧ waits.backingUnacked 0 0x2000 = true ∧
     ok s = true ∧ s.deliveredAll 1 = true ∧ s.backingDirty 0 0x2000 = false ∧ s.backingUnacked 0 0x2000 = false) ∧
    ((s0.part 0).role 9 = none ∧ ((sCh (chg .idleToIdle false none) [r9]).part 0).role 9 = some r9 ∧ r9.expiry = none) ∧
    (let le := fun (w wd : Bool) (e : Nat) => ((sLe w wd e).part 0).role 9 == some { r9 with expiry := some e, warn := w, warned := wd, leaser := ag0 } &&
      (sLe w wd e).seat ag0 == some 0 && ((sLe w wd e).ctx 0 ag0.ctx).live
     le false false 60000 = true ∧ le true true 60000 = true ∧ le true false 90000 = true ∧ (sLe true false 90000).gtime.toNat + 20000 < 90000 ∧
     (sLe true false 60000).gtime.toNat < 60000 ∧ le true false 60000 = true ∧ 60000 ≤ (sLe true false 60000).gtime.toNat + 20000 ∧
     le true true 40000 = true ∧ 40000 ≤ (sLe true true 40000).gtime.toNat) := by
  and_intros <;> decide +kernel

theorem wit_RolesChangeHands_more :
    let due := fun (s : State) (c : Change) => (s.part 0).changes[0]? == some c && !c.begun && decide (c.tick ≤ s.gtime.toNat) && !s.censusDue 0
    let begun := fun (s : State) (c : Change) => (s.part 0).changes[0]? == some c && c.begun
    (let c := chg (.leaveRouting 9 (.storage 4)) false none
     let s := sCh c [rR, r4]
     due s c = true ∧ (s.part 0).role 4 = some r4) ∧
    (let c := chg (.leaveStorage 9 none (.storage 4)) false none
     let s := sCh c [rl9 none, r4]
     due s c = true ∧ (s.part 0).role 9 = some (rl9 none) ∧ (rl9 none).tile = some c.tile ∧ (s.part 0).role 4 = some r4) ∧
    (let c := chg (.leaveRouting 9 .idle) false none
     due sLl c = true ∧ (sLl.part 0).role 9 = some rL ∧ rL.expiry = some 90000 ∧ sLl.gtime.toNat < 90000 ∧ sLl.seat rL.leaser = some 0 ∧ rR.expiry = none) ∧
    (let c := chg (.leaveRouting 9 .idle) true none
     let s := { sCh c [rR] with partials := [(5, clq 1)] }
     begun s c = true ∧ s.partials.any (fun e => e.1 = c.tile) = true ∧ (sCh c [rR]).partials.any (fun e => e.1 = c.tile) = false) ∧
    (let c := chg (.idleToStorage 9) true (some 0)
     let s := sCh c [{ rl9 none with tile := some 7 }]
     begun s c = true ∧ (s.part 0).role 9 = some { rl9 none with tile := some 7 } ∧ (7 : Nat) ≠ c.tile ∧ s.roleBusy 7 = false ∧ (s.part 0).earlier 0 9 = false) ∧
    (let c := chg (.leaveStorage 9 (some 6) .idle) true none
     let s := sCh2 c (chg (.idleToStorage 9) true none) [rl9 none]
     begun s c = true ∧ s.roleBusy c.tile = false ∧ (s.part 0).earlier 0 9 = false ∧
     (dropAt (s.part 0).changes 0).any (fun c => c.kind.roles.contains 9 && c.begun) = true) ∧
    (let c := { chg (.leaveStorage 9 none .idle) true none with pos := 32767 }
     let s := (sCh c [rl9 (some 0x2000)]).modPart 0 (fun p => { p with sys := [(0x1028, 9)] })
     begun s c = true ∧ s.roleBusy c.tile = false ∧ (s.part 0).earlier 0 9 = false ∧ (s.writeBacking 5 0 0x2000 32767).2 = 32768 ∧
     (sCh c [rl9 (some 0x2000)] |>.writeBacking 5 0 0x2000 32767).2 ≠ 32768) := by
  and_intros <;> decide +kernel

theorem wit_GangsAreSavedAndResumed :
    let busy : List Msg := [msg0 (.unit true true false) 0]
    let falls : List Msg := [msg0 (.roleStore 5 false) 0]
    let left := fun (s : State) (ts : List Nat) => s.net.filter (fun m => !(s.fallen ts).any (fun e => e.id == m.id && e.core == m.core))
    let stops := fun (s : State) (still : Bool) =>
      (s.part 0).task 1 == some { tk1 with switchAt := some 40 } && decide (40 ≤ s.gtime.toNat) &&
      (({ s with net := left s tk1.tiles } : State).gangBusy tk1.tiles == !still) && !s.gangMoving tk1.tiles &&
      tk1.tiles.all (fun c => decide ((s.core c).cache = []))
    (s0.part 0).task 1 = none ∧ ((sSw (some 60)).part 0).task 1 = some { tk1 with switchAt := some 60 } ∧ (sSw (some 60)).gtime.toNat < 60 ∧
    ((sSaved.part 0).task 1).any (fun t => t.phase == .saved) = true ∧ tk1.phase = .running ∧
    stops (sSw (some 40)) true = true ∧ stops { sSw (some 40) with net := falls } true = true ∧
    ({ sSw (some 40) with net := falls } : State).fallen tk1.tiles = falls ∧ stops { sSw (some 40) with net := busy } false = true ∧
    headOf (s0.part 0).window = none ∧
    ([[], falls].all (fun fl =>
      let r : Task := { tk1 with phase := .saved, tiles := [], saved := [savedCore], stopped := 7, flits := fl, was := [3] }
      let s := sSaved.modPart 0 (fun p => { p with window := [r] })
      let ok := fun (s : State) (tiles : List Nat) => headOf (s.part 0).window == some r && r.id == 1 && !(s.part 0).stopped &&
        s.bindable 0 (dieOf (tiles.headD 0)) r.saved.length tiles && s.clockCovers (dieOf (tiles.headD 0)) r.vec
      ok s [0] && (s.part 0).held.all (fun h => decide (h.to_.task ≠ 1)) && !ok s [0, 1])) = true ∧
    (let s := sCap true none
     let P := s.part 0
     P.present = true ∧ P.stopped = false ∧ P.inReset = false ∧ P.capture = none ∧ s.captureDue 0 = true) ∧
    (let s := { sCap false none with gtime := 3 }
     let P := s.part 0
     P.present = true ∧ P.stopped = false ∧ P.inReset = false ∧ P.capture = none ∧ s.captureDue 0 = false) ∧
    (let ok := fun (s : State) (still : Bool) =>
       let P := s.part 0
       P.present && !P.stopped && !P.inReset && P.capture == some 3 && !P.logTight && (s.gangBusy P.gangTiles == !still) && !s.gangMoving P.gangTiles &&
       P.gangTiles.all (fun c => decide ((s.core c).cache = []))
     ok (sCap true (some 3)) true = true ∧ ok { sCap true (some 3) with net := busy } false = true) ∧
    ((s0.part 0).present = false ∧ (sRun.part 0).stopped = false ∧ (sRun.part 0).ckpt = none) ∧
    (let ok := fun (s : State) (roll : Bool) =>
       let P := s.part 0
       P.present && P.stopped && !P.inReset && P.ckpt == some ck1 && P.inRollback == roll
     ok (sRb false []) false = true ∧ ((sRb false []).part 0).canRollback = true ∧
     ok ((sRb false []).modPart 0 (fun p => { p with ckptctl := 0 })) false = true ∧
     (((sRb false []).modPart 0 (fun p => { p with ckptctl := 0 })).part 0).canRollback = false ∧
     ok (sRb true []) true = true ∧ ((sRb true []).part 0).undo = [] ∧ ok (sRb true [undo1]) true = true ∧ ((sRb true [undo1]).part 0).undo = [undo1] ∧
     ((sRb true [undo1]).restorePiece 0 undo1).isSome = true) := by decide +kernel

theorem wit_GangsAreSavedAndResumed_more :
    (isAtelier 0 = false ∧ (sBack.taskOf 0).any sBack.reinjecting = true) ∧
    (let ok := fun (s : State) (due : Bool) =>
       let P := s.part 0
       P.present && !P.stopped && !P.inReset && P.capture == some 3 && P.logTight && s.repliesDue P.gangTiles == due &&
       P.gangTiles.all (fun c => decide ((s.core c).cache = []))
     ok (sTight []) false = true ∧ ok (sTight [⟨1, [], vp 0, some (msg0 (.read 4) 0), none⟩]) true = true) ∧
    (sCap true (some 3)).hostRest = none ∧
    (let P := sRb5.part 0
     let e : Role := { role 5 true none none with tile := some 5 }
     P.present = true ∧ P.stopped = true ∧ P.inReset = false ∧ P.ckpt = some ck1 ∧ P.inRollback = true ∧ P.undo = [undo5] ∧
     (sRb5.restorePiece 0 undo5).isSome = true ∧ undo5.role = some 5 ∧ P.role 5 = some e ∧ e.tile = some 5 ∧ undo5.old.length = 64 ∧
     undo5.sbyte % 64 = 0 ∧ (sRb5.core 5).store.wf = true) := by decide +kernel

theorem wit_FaultsResetsAndResizes :
    (let s := s0.modCore 3 (fun k => { k with faults := [(0, 2)] })
     (64 : Nat) < scratchOf (s.core 3).split ∧ isAtelier 3 = false ∧ isAtelier 1153 = true ∧ tget 0 (s.core 3).faults 0 = 2 ∧ (s.core 3).tstate = .idle ∧
     tget 0 (s0.core 3).faults 0 < 2) ∧
    ([flt 1 0 64 false none, flt 3 0 0 false none].all (fun f =>
      let s := (sE .l0 0 0x9000).modMe (fun t => { t with state := .running })
      s.faultTargets f == [.ctx 0 0] && (s.ctx 0 0).live && !f.corrected)) = true ∧
    (let s := sRun.modCtx 1152 0 (fun t => { t with state := .running, partid := 0 })
     let f := flt 11 5 0 false (some 0)
     s.faultTargets f = [.ctx 1152 0] ∧ (s.ctx 1152 0).live = true ∧ f.corrected = false ∧ f.state = some 0 ∧ s.faultParts f = [0]) ∧
    (let f := flt 11 500 0 false (some 0)
     (sRb true []).faultParts f = [0] ∧ ((sRb true []).part 0).inRollback = true ∧
     (let s := sRun.modPart 0 (fun p => { p with ckpt := some ck1 })
      s.faultParts f = [0] ∧ (s.part 0).canRollback = true ∧ (s.part 0).inRollback = false ∧ (s.part 0).stopped = false) ∧
     sRun.faultParts f = [0] ∧ (sRun.part 0).canRollback = false ∧ (sRun.part 0).stopped = false) ∧
    (let key := 7 * 2 ^ 16 + 2 + 3 * 2 ^ 24
     let n := fun (l : LinkRef) (s : State) => if l.again then tget 0 s.linkRetries key + 1 else 1
     n ⟨7, 2, 3, false, true⟩ s0 ≤ 16 ∧ n ⟨7, 2, 3, true, true⟩ { s0 with linkRetries := [(key, 15)] } ≤ 16 ∧
     16 < n ⟨7, 2, 3, true, true⟩ { s0 with linkRetries := [(key, 16)] }) ∧
    (s0.part 0).present = false ∧ (sRun.part 0).present = true ∧ (sRun.part 0).inReset = false ∧
    (let ok := fun (s : State) (busy : Bool) =>
       let P := s.part 0
       P.present && P.inReset && decide (P.enq = []) && decide (P.undo = []) && s.resetBusy 0 == busy
     let s := sRun.modPart 0 (fun p => { p with inReset := true, enq := [] })
     ok s false = true ∧ (s.resetReports 0).any (fun t => (t.part 0).present) = true ∧ ok { s with net := [msg0 (.unit true true false) 0] } true = true) ∧
    (sRz none).resizeOk 0 2 2 2 1000000 = true ∧ (sRz none).resizeOk 0 2 8 2 1000000 = false ∧ ((sRz none).part 0).resize = none ∧
    (let ok := fun (s : State) (r : Resize) (win busy : Bool) =>
       let P := s.part 0
       P.resize == some r && decide (r.deadline ≤ s.gtime.toNat) && P.window.any (fun t => t.tiles.any P.leaving) == win &&
       !P.leavingTiles.any (fun c => (s.core c).tstate.role.isSome || s.changing 0 c) && s.halvesBusy r == busy && decide (r.dst ≠ 0)
     let s := sRz (some (rz1 0))
     ok s (rz1 0) false false = true ∧ ok { s with net := [{ msg0 (.unit true true false) 0 with stack := 0, sbyte := 0x800000000 }] } (rz1 0) false true = true ∧
     ok (s.modPart 0 (fun p => { p with window := [{ tk1 with tiles := [34] }] })) (rz1 0) true false = true ∧
     ((sRz (some (rz1 5))).part 0).resize = some (rz1 5) ∧ (sRz (some (rz1 5))).gtime.toNat < (rz1 5).deadline) := by decide +kernel

theorem wit_FaultsResetsAndResizes_more :
    (let f := flt 11 5 0 false (some 0)
     sRun.faultTargets f = [.resident 0 0] ∧ f.corrected = false) ∧
    ((sRz none).atelierCtx 0 0 = none ∧ (sAt (sRz none)).atelierCtx 0 0 = some (1152, 2) ∧ (sAt (sRz none)).resizeOk 0 2 2 2 1000000 = true) ∧
    (let key := 7 * 2 ^ 16 + 2 + 1 * 2 ^ 24
     tget 0 ({ s0 with linkRetries := [(7 * 2 ^ 16 + 2 + 3 * 2 ^ 24, 16)] } : State).linkRetries key = 0) := by decide +kernel

theorem wit_SlicesAndStacksAreControlled :
    (s0.stack 0).couch = none ∧
    (let q := fun (st : Nat) => (⟨st, ag0, none, 9, [4]⟩ : Couch)
     let at_ := fun (st : Nat) (net : List Msg) => ({ (sCs st none).modStack 0 (fun k => { k with couch := some (q st) }) with net := net } : State)
     let writes := fun (s : State) => s.inFlight.any (fun m => m.toStack 0 && m.kind.writes && decide (m.id < 9))
     ([1, 2, 3, 4, 5, 6, 7].all (fun st => ((at_ st []).stack 0).couch == some (q st))) = true ∧
     writes (at_ 2 []) = false ∧ (at_ 2 []).couchStores 0 9 = false ∧ writes (at_ 2 [msg0 (.unit true true false) 4]) = true ∧
     (at_ 2 [msg0 (.cacheStore 1) 4]).couchStores 0 9 = true ∧
     (at_ 3 [msg0 (.unit true true false) 4]).inFlight.any (fun m => (q 3).marks.contains m.id) = true ∧
     (at_ 3 []).inFlight.any (fun m => (q 3).marks.contains m.id) = false ∧
     ([none, some 9].all (fun reg =>
       let s := sCs 7 reg
       (s.stack 0).couch == some ⟨7, ag0, reg, 0, [4]⟩ && s.seat ag0 == some 0 && (s.ctx 0 0).live)) = true) ∧
    (s0.core 0).splitChange = none ∧
    (let ch : SplitChange := ⟨2, 0, [4]⟩
     let ok := fun (s : State) => (s.core 0).splitChange == some ch && !s.splitBusy 0 ch.code && !s.portionBusy 0
     let s := sSp false
     ok (sSp true) = true ∧ ((sSp true).core 0).cache ≠ [] ∧
     ok s = true ∧ (s.core 0).cache = [] ∧ (s.unfinished 0).any (fun m => [4].contains m.id) = false ∧
     (let b := { s with net := [msg0 (.unit true true false) 4] }
      ok b = true ∧ (b.core 0).cache = [] ∧ (b.unfinished 0).any (fun m => [4].contains m.id) = true) ∧
     (let b := { s with net := [msg0 (.cacheStore 0) 4] }
      (b.core 0).splitChange = some ch ∧ b.portionBusy 0 = true)) ∧
    ((sRz none).part 0).deckleRefused 3 0x8010000000000000 = true ∧ ((sRz none).part 0).deckleRefused 3 0x8010000100000000 = false ∧
    bit (0x8010000100000000 : Word) 63 = true ∧ bit (tget 0 ((sRz none).part 0).deckle 3) 63 = false ∧
    ((sRz none).part 0).deckleRefused 3 0x10000100000000 = false ∧ bit (0x10000100000000 : Word) 63 = false ∧
    (s0.slice 4).queue = [] ∧
    (let s := (sSl (.read 4) 1 0 true).modSlice 4 (fun l => { l with hold := true, queue := [rqS (.read 4)] })
     (s.slice 4).queue = [rqS (.read 4)] ∧ ((s.modSlice 4 (fun l => { l with hold := false, queue := [] })).serve (rqS (.read 4))).isSome = true) ∧
    (10 : Nat) < s0.gtime.toNat + 1000 ∧ (sDs false false).armRefused 0 0 2000 = false ∧
    (let a : DMap := ⟨0x4040, [1, 2, 4, 8], 1⟩
     let s := sDs true false
     let l := { s with gtime := 3000 }
     (s.stack 0).armed = some a ∧ s.gtime.toNat < fld (s.stack 0).dswitch 61 0 ∧
     (l.stack 0).armed = some a ∧ fld (l.stack 0).dswitch 61 0 ≤ l.gtime.toNat ∧ ((List.range 16).all (fun k => (l.slice (16 * 0 + k)).tags.isEmpty)) = true) ∧
    ((sDs false true).stack 0).switching = true ∧ (sDs false true).sweeping 0 = false ∧ ((sDs true false).stack 0).switching = false ∧
    csrElsewhere 0x105 = true ∧ 2 ≤ (s0.stack (4 / 16)).nrows.length := by decide +kernel

theorem wit_SlicesAndStacksAreControlled_more :
    (let ripe := fun (s : State) =>
       let old := s.ownerDie 0
       let new := (s.modStack 0 (fun k => { k with own := !k.own })).ownerDie 0
       let u := s.caughtUp new (s.die old).clock
       covers (u.die new).clock (u.die old).clock && !(u.die new).inbox.any (fun e => e.piece.stack == 0)
     ripe (sRipe []) = true ∧ ripe (sRipe [⟨0, [], vp 0, none, none⟩]) = false ∧ ((sRipe []).stack 0).couch = some ⟨5, ag0, none, 0, [4]⟩) ∧
    (let s := sStuck
     let u := s.modSlice 4 (fun l => { l with hold := false, queue := [] })
     (s.slice 4).queue = rqU :: [{ rqU with id := 8 }] ∧ (u.serve rqU).isNone = true ∧ u.logFull rqU = false) ∧
    (let s := { (sCs 2 none) with net := [{ msg0 (.unit true false false) 99 with stack := 0 }] }
     s.inFlight.any (fun m => m.toStack 0 && m.kind.writes && (decide (m.id < 0) || m.kind.isWb)) = true) := by decide +kernel

theorem wit_ThePlatformActs :
    (s0.part 0).present = false ∧ (sHost.part 0).present = true ∧ (sHost.part 0).capture = none ∧
    ({ s0 with recovery := true } : State).recovery = true ∧ s0.recovery = false ∧
    (500 : Word).toNat < 1000 ∧ 3800 < (5000 : Word).toNat ∧ 1000 ≤ (1000 : Word).toNat ∧ (1000 : Word).toNat ≤ 3800 ∧ s0.portsTrained = false ∧
    ({ s0 with portsTrained := true } : State).portsTrained = true ∧
    (let s := { s0 with rbsel := 0x0100010000000105 }
     s.recovery = false ∧ fld s.rbsel 63 56 = 1 ∧ fld s.rbsel 39 0 = 0x105 ∧ fld s.rbsel 55 40 = 16 * 0 + 1 ∧ coreExists 0 = true) ∧ fld s0.rbsel 63 56 ≠ 1 ∧
    (s0.part 0).hostOpen 0x2000 4 = false ∧ (s0.part 0).logTight = false ∧ (sHost.part 0).hostOpen 0x2000 4 = true ∧ (sHost.part 0).capture = none ∧
    (let s := sHost.modPart 0 (fun p => { p with capture := some 5 })
     (s.part 0).capture.isSome = true ∧ (s.part 0).logTight = false) ∧
    (sHost.devRead (sHost.homeDie 0 0x2000) 0 0x2000 (4 + 1) 4).isSome = true ∧
    (sHost.devWrite (sHost.homeDie 0 0x2000) 0 0x2000 (4 + 1) [9, 9, 9, 9]).isSome = true ∧
    (let atom := fun (op : HostAtom) => sHost.devAtomic (sHost.homeDie 0 0x2000) 0 0x2000 (hostBytes op) (fun old => cellsAt 0x2000 (toBytes (hostBytes op)
       (match op with
         | .fetchAdd _ v => (ofBytes old + v.toNat) % 2 ^ (8 * hostBytes op)
         | .swap _ v => v.toNat % 2 ^ (8 * hostBytes op)
         | .cas _ cmp v => if ofBytes old = cmp.toNat % 2 ^ (8 * hostBytes op) then v.toNat % 2 ^ (8 * hostBytes op) else ofBytes old)))
     ([HostAtom.fetchAdd 4 1, .swap 8 2, .cas 4 3 4].all (fun op => (sHost.part 0).hostOpen 0x2000 (hostBytes op) &&
       (hostBytes op == 4 || hostBytes op == 8) && (atom op).isSome)) = true) ∧ hostBytes (.swap 2 1) ≠ 4 ∧ hostBytes (.swap 2 1) ≠ 8 ∧
    s0.modstat ≠ 1 ∧ ({ s0 with modstat := 1 } : State).modstat = 1 ∧ s0.fwMem.wf = true ∧ s0.booted = false ∧
    (let s := { sHost with booted := true }
     s.booted = true ∧ (s.part (1 - 1)).present = true ∧ (s.part (2 - 1)).present = false) ∧
    (s0.layoutOk lay1 = true ∧ lay1.roles = [] ∧ lay1.collective = [] ∧ s0.layoutOk { lay1 with bands := 0 } = false ∧
     lay1.windows = [0x8000000000000000] ∧ ({ Part.reset with halves := lay1.halves } : Part).deckleRefused 0 0x8000000000000000 = false ∧
     (List.range 16).all (fun y => !(s0.part y).present) = true ∧ nbit lay1.halves.toNat 0 ≠ nbit lay1.halves.toNat 1) := by decide +kernel

theorem wit_ThePlatformActs_more :
    ((sRest false).hostGoOn.hostRest = none ∧ (sRest true).hostGoOn.hostRest ≠ none ∧ sHost.hostRest = none) ∧
    ((sHeldHost.part 0).hostOpen 0x2000 4 = true ∧ (sHeldHost.part 0).capture = none ∧ sHeldHost.hostRest = none ∧
     sHeldHost.devWrite (sHeldHost.homeDie 0 0x2000) 0 0x2000 (4 + 1) [9, 9, 9, 9] = none) ∧
    (s0.rbOwner s0.rbsel ≠ some 3) ∧
    (let s := { s0 with rbsel := 0x0100010000000105 }
     fld s.rbsel 63 56 = 1 ∧ fld s.rbsel 55 40 = 16 * 0 + 1 ∧ fld s.rbsel 39 0 = 0x105) ∧
    ({ lay1 with exportBase := 2 ^ 29 } : PartLayout).exportBase % 2 ^ 30 ≠ 0 ∧
    (let e : PageInit := ⟨0x1000, 0x2007⟩
     lay1.pages = [e] ∧ fld e.va 63 57 = 0 ∧ entryValid e.word = true ∧ e.va.toNat % (⟨e.va.toNat, e.word, false⟩ : TbEntry).size = 0 ∧
     fld ((0x0200000000001000 : Word)) 63 57 ≠ 0 ∧ s0.layoutOk { lay1 with pages := [⟨0x0200000000001000, 0x2007⟩] } = true) ∧
    (let s := { s0 with modstat := 1 }
     ((s.modDie 0 (fun d => { d with waiting := [(16, ev1 0x31)] })).die 0).waiting = [(16, ev1 0x31)]) := by decide +kernel

/-! Decoding, the step, the whole machine -/

theorem wit_DecodeEncodeAgree : (Instr.padWord).wf = true ∧ (Instr.padWord).isEvent = false ∧
    (Instr.add p0 (gr 1) (gr 2) (.imm 5)).wf = true ∧ (Instr.add p0 (gr 1) (gr 2) (.imm 5)).isEvent = false := by decide +kernel


/-- Turns stand in the agenda; context 0 of a core runs, the bytes at its PC stand in the stack. -/
def sStep (c : Nat) (ts : List Turn) (f : Ctx → Ctx) (poison : Bool) (bytes : List Byte) : State :=
  { (((s0.modCore c (fun k => { k with tb := [⟨0x1000, 0x1007, false⟩] })).modPart 0 P0).modStack 0 (fun k =>
    { k with mem := Mem.writeN [] 0x1000 bytes, poison := if poison then [0x1000 / 64] else [] })).modCtx c 0
    (fun t => f { t with state := .running, pc := 0x1000 }) with agenda := ts }

def taken (s : State) (c : Nat) : State := { ({ s with agenda := [] } : State).modCore c Core.land with cur := (c, 0) }
/-- How the fetch of the state after the turn is taken ends. -/
def fetched (s : State) (c : Nat) : Fetched :=
  (taken s c).fetch c 0 (s.ctx c 0).pc
def parkedCtx (awake : Bool) (w : Wait) (t : Ctx) : Ctx := { t with park := some ⟨.padWord, w, 0, awake⟩ }

def hasBytes (s : State) (c : Nat) (poison : Bool) (p : List Byte → State → Bool) : Bool :=
  match fetched s c with
  | .bytes bs po v => po == poison && p bs v
  | _ => false
/-- Well-formed bytes of `size`; whether an Atelier core lacks the opcode, and whether user mode may not issue it. -/
def okBytes (size : Nat) (lacks user : Bool) (c : Nat) (bs : List Byte) (v : State) : Bool :=
  match decode bs with
  | .ok _ n =>
    let w := leNat (bs.take n)
    n == size && (isAtelier c && atelierLacks w) == lacks && (privilegedOp (w / 4 % 1024) && !v.isSup c 0) == user
  | _ => false
def isShort (bs : List Byte) (_ : State) : Bool :=
  match decode bs with
  | .reject .short _ _ => true
  | _ => false
def isWait (s : State) (c : Nat) : Bool :=
  match fetched s c with
  | .wait _ => true
  | _ => false
def isTrap (s : State) (c : Nat) : Bool :=
  match fetched s c with
  | .trap _ _ => true
  | _ => false

def isNext (o : Outcome) : Bool :=
  match o with
  | .next _ => true
  | _ => false

/-- The slot of context 0 of `c` is its own: nothing is due, it runs, and it is neither frozen nor back from a module. -/
def runs (s : State) (c : Nat) : Bool :=
  !s.timeDue && !(s.core c).levelDue && decide ((s.core c).cycle % 16 = 0) &&
  (s.ctx c ((s.core c).cycle % 16)).state == .running && !(taken s c).frozen c && !(taken s c).moduleBack c 0

theorem wit_StepRunsTheDecodedInstruction :
    let addB := leBytes 8 0x0000020000605078
    let mmaB := leBytes 16 0x0000000B0000000E0000C400B0A00582
    let haltB := leBytes 8 0x7C0
    let s := sStep 0 [.issue 0] id false addB
    s0.agenda = [] ∧ (sStep 0 [.advance 7] id false []).agenda = [.advance 7] ∧
    (Instr.eventEntry 0 0).isEvent = true ∧ Instr.padWord.isEvent = false ∧ coreExists 5000 = false ∧ coreExists 0 = true ∧
    (s0.ctx 0 0).state ≠ .running ∧ (s.modPart 0 (fun p => { p with capture := some 5 })).frozen 0 = true ∧
    ([sStep 0 [.advance 7] id false [], { s0 with memStacks := [(0, { Stack.reset with armed := some ⟨0x4040, [1, 2, 4, 8], 1⟩, dswitch := 2000 })] }].all
      (fun s => !s.timeDue)) = true ∧
    (let w := { s with memStacks := [(0, { Stack.reset with armed := some ⟨0x4040, [1, 2, 4, 8], 1⟩, dswitch := 2000 })] }
     2000 ∈ w.dueTicks ∧ ({ w with gtime := 2000 } : State).timeDue = true) ∧
    timedEvent (.priorityRise 0 1) = true ∧ timedEvent (.eventEntry 0 0) = false ∧
    (((sT.modMyCore (fun k => { k with lvlNext := 0 })).core 0).levelDue = true ∧ coreExists 0 = true) ∧
    runs s 0 = true ∧ (s.ctx 0 0).park.isNone = true ∧ (s.ctx 0 0).eventDue = false ∧ (s.ctx 0 0).again = none ∧
    (let w := sStep 0 [.issue 0] (parkedCtx true .remote) false addB
     runs w 0 = true ∧ (w.ctx 0 0).park = some ⟨.padWord, .remote, 0, true⟩) ∧
    (let w := sStep 0 [.issue 0] (parkedCtx false .remote) false addB
     runs w 0 = true ∧ (w.ctx 0 0).park = some ⟨.padWord, .remote, 0, false⟩ ∧ (taken w 0).waitOk 0 0 .remote = true) ∧
    (let w := sStep 0 [.issue 0] (parkedCtx false (.reply 4)) false addB
     runs w 0 = true ∧ (w.ctx 0 0).park = some ⟨.padWord, .reply 4, 0, false⟩ ∧ (taken w 0).waitOk 0 0 (.reply 4) = false) ∧
    (let w := sStep 0 [.issue 0] (fun t => { t with events := [default] }) false addB
     runs w 0 = true ∧ (w.ctx 0 0).park = none ∧ (w.ctx 0 0).eventDue = true) ∧
    (let w := sStep 0 [.issue 0] (fun t => { t with retry := [(t.level, 0x1000, .padWord)] }) false addB
     runs w 0 = true ∧ (w.ctx 0 0).park = none ∧ (w.ctx 0 0).eventDue = false ∧ (w.ctx 0 0).again = some (some .padWord)) ∧
    (let w := sStep 0 [.issue 0] (fun t => { t with retry := [(t.level, 0x2000, .padWord)] }) false addB
     runs w 0 = true ∧ (w.ctx 0 0).park = none ∧ (w.ctx 0 0).eventDue = false ∧ (w.ctx 0 0).again = some none ∧
     hasBytes w 0 false (okBytes 8 false false 0) = true) ∧
    hasBytes s 0 false (okBytes 8 false false 0) = true ∧ hasBytes (sStep 0 [.issue 0] id false [3, 0, 0, 0]) 0 false (okBytes 4 false false 0) = true ∧
    hasBytes (sStep 0 [.issue 0] id false haltB) 0 false (okBytes 8 false true 0) = true ∧
    hasBytes (sStep 1152 [.issue 1152] id false mmaB) 1152 false (okBytes 16 true false 1152) = true ∧ runs (sStep 1152 [.issue 1152] id false mmaB) 1152 = true ∧
    hasBytes (sStep 0 [.issue 0] id true addB) 0 true (fun _ _ => true) = true ∧
    hasBytes (sStep 0 [.issue 0] (fun t => { t with pc := 0x101C }) false (List.replicate 28 0 ++ [2, 0, 0, 0])) 0 false isShort = true ∧
    isWait { (s.modCore 0 (fun k => { k with fbuf := [] })) with slices := [((((s.part 0).place 0x1000).map (fun p => s.homeSlice p 0x1000)).getD 0, { s.slice 0 with hold := true })] } 0 = true ∧
    isTrap ((sStep 0 [.issue 0] id false addB).modCore 0 (fun k => { k with tb := [] })) 0 = true := by decide +kernel

/-- What a decoder refuses, on a tile or an Atelier core; whether the core lacks the opcode, or user mode may not issue it. -/
def isReject (c : Nat) (p : Reject → Bool) (lacks user : Bool) (bs : List Byte) (v : State) : Bool :=
  match decode bs with
  | .reject why n _ => p why && (isAtelier c && atelierLacks n) == lacks && (privilegedOp (n / 4 % 1024) && !v.isSup c 0) == user
  | .ok _ _ => false
def sWord (c w : Nat) : State := sStep c [.issue c] id false (leBytes 8 w ++ leBytes 8 0)

theorem wit_StepRunsTheDecodedInstruction_rejects :
    hasBytes (sStep 0 [.issue 0] id false [3, 1, 0, 0]) 0 false (isReject 0 (fun r => r == .padReserved 8) false false) = true ∧
    hasBytes (sWord 0 0) 0 false (isReject 0 (fun r => r == .unassigned) false false) = true ∧
    ([(0x8000000000000004, Reject.field 63, 0x80000000000007A8, 0x8000000000000190), (1032196, .register 12, 1034152, 1032612),
      (786436, .modifier 12, 788392, 786852)].all (fun x =>
        hasBytes (sWord 0 x.1) 0 false (isReject 0 (fun r => r == x.2.1) false false) && runs (sWord 0 x.1) 0 &&
        hasBytes (sWord 0 x.2.2.1) 0 false (isReject 0 (fun r => r == x.2.1) false true) &&
        hasBytes (sWord 1152 x.2.2.2) 1152 false (isReject 1152 (fun r => r == x.2.1) true false) && runs (sWord 1152 x.2.2.2) 1152)) = true := by
  decide +kernel

theorem wit_GuardsAndModifiers :
    (∃ r, (Instr.add ⟨1, false⟩ (gr 1) (gr 2) (.imm 5)).toRaw = some r ∧ r.neg = 0 ∧ s0.p r.pred = false) ∧ s0.guard p0 = true ∧
    sEm.modsOk (condsOf [.dst (gr 1), .src gE]) = false ∧ sEm.modsOk (condsOf [.dstF (fr 1), .srcF fE]) = false ∧
    sEm.modsOk (condsOf (opndsM m10)) = true := by
  refine ⟨⟨_, rfl, ?_, ?_⟩, ?_⟩ <;> decide +kernel

theorem wit_GuardsAndModifiers_any :
    (Instr.tbw p0 gE gE (gr 3) .own).toRaw.any (fun r => (shape r).any (fun sh => decide (r.neg = 0) && s0.p r.pred && !sEm.modsOk (condsOf (rawOpnds r sh)))) = true ∧
    (Instr.fma p0 (fr 1) fE fE fE .s).toRaw.any (fun r => (shape r).any (fun sh => decide (r.neg = 0) && s0.p r.pred &&
      !sEm.modsOk (condsOf (rawOpnds r sh)))) = true := by decide +kernel

theorem wit_EveryStepKeepsTheMemories :
    s0.memWf = true ∧ isNext (step (sStep 0 [.issue 0] id false (leBytes 8 0x0000020000605078))) = true ∧
    (sStep 0 [.issue 0] id false (leBytes 8 0x0000020000605078)).memWf = true := by decide +kernel

end Sys2Proof.Tests
end

section
/-!
PROOFS. A fetch moves no thread on (R39, R298): what an instruction fetch serves at the home slices, delivers to the requesters and puts into
caches and buffers leaves every program counter, and the issuing context, as they were.
-/

namespace Sys2Proof.Machine

/-- The issuing context and every program counter are as they were. -/
structure KeepsPcs (s t : State) : Prop where
  cur : t.cur = s.cur
  pc : ∀ c x, (t.ctx c x).pc = (s.ctx c x).pc

theorem KeepsPcs.refl (s : State) : KeepsPcs s s := ⟨rfl, fun _ _ => rfl⟩

theorem KeepsPcs.trans {s t u : State} (h : KeepsPcs s t) (k : KeepsPcs t u) : KeepsPcs s u :=
  ⟨k.cur.trans h.cur, fun c x => (k.pc c x).trans (h.pc c x)⟩

/-- The issuing thread's own program counter. -/
theorem KeepsPcs.me {s t : State} (h : KeepsPcs s t) : t.me.pc = s.me.pc := by
  rw [State.me, h.cur]; exact h.pc _ _

theorem KeepsPcs.ite {p : Prop} [Decidable p] {s t u : State} (ht : KeepsPcs s t) (hu : KeepsPcs s u) : KeepsPcs s (if p then t else u) := by
  split
  · exact ht
  · exact hu

/-- A step outside the cores. -/
theorem KeepsPcs.of_cores {s t : State} (hc : t.cores = s.cores) (hu : t.cur = s.cur) : KeepsPcs s t :=
  ⟨hu, fun c x => by simp only [State.ctx, State.core, hc]⟩

theorem KeepsPcs.modCore (s : State) (c : Nat) (f : Core → Core) (hf : ∀ k, (f k).ctxs = k.ctxs) : KeepsPcs s (s.modCore c f) := by
  refine ⟨rfl, fun d x => ?_⟩
  by_cases h : d = c
  · subst h; simp only [State.ctx, Core.ctx, State.core_modCore_same, hf]
  · simp only [State.ctx, State.core_modCore_ne s c d f h]

theorem KeepsPcs.modCtx (s : State) (c x : Nat) (f : Ctx → Ctx) (hf : ∀ t, (f t).pc = t.pc) : KeepsPcs s (s.modCtx c x f) := by
  refine ⟨rfl, fun d y => ?_⟩
  by_cases h : d = c ∧ y = x
  · obtain ⟨rfl, rfl⟩ := h; rw [State.ctx_modCtx_same, hf]
  · rw [State.ctx_modCtx_ne s c x d y f (by tauto)]

theorem KeepsPcs.foldl {α : Type} (l : List α) (f : State → α → State) (hf : ∀ s a, KeepsPcs s (f s a)) (s : State) :
    KeepsPcs s (l.foldl f s) := by
  induction l generalizing s with
  | nil => exact .refl s
  | cons a l ih => exact (hf s a).trans (ih _)

/-! ### At the home slices -/

theorem KeepsPcs.touch (s : State) (n sb : Nat) : KeepsPcs s (s.touch n sb) := .of_cores rfl rfl
theorem KeepsPcs.putPiece (s : State) (n sb : Nat) (data : List Byte) (dirty poison : Bool) : KeepsPcs s (s.putPiece n sb data dirty poison) :=
  .of_cores rfl rfl

theorem KeepsPcs.toStack (s : State) (n sb : Nat) (data : List Byte) (poison sweep : Bool) : KeepsPcs s (s.toStack n sb data poison sweep) := by
  unfold State.toStack
  simp only
  split <;> exact .of_cores rfl rfl

theorem KeepsPcs.flushTag (s : State) (n : Nat) (t : Tag) (sweep : Bool) : KeepsPcs s (s.flushTag n t sweep) :=
  .foldl _ _ (fun s _ => .toStack s _ _ _ _ _) s

theorem KeepsPcs.ensureTag {s t : State} {n pa sb : Nat} (h : s.ensureTag n pa sb = some t) : KeepsPcs s t := by
  unfold State.ensureTag at h
  simp only at h
  split at h
  · cases h; exact .refl s
  · split at h
    · cases h; exact .of_cores rfl rfl
    · split at h
      · cases h
      · split at h
        · cases h; exact (KeepsPcs.flushTag s n _ false).trans (.of_cores rfl rfl)
        · cases h

theorem KeepsPcs.allocClean {s t : State} {n pa : Nat} {p : SPlace} (h : s.allocClean n pa p = some t) : KeepsPcs s t := by
  unfold State.allocClean at h
  simp only at h
  split at h
  · cases h; exact .refl s
  · obtain ⟨u, hu, rfl⟩ := Option.map_eq_some_iff.mp h
    exact (KeepsPcs.ensureTag hu).trans (.putPiece u n _ _ _ _)

/-! ### Deliveries -/

theorem KeepsPcs.answer (s : State) (c x : Nat) (r : Reply) : KeepsPcs s (s.answer c x r) := by
  unfold State.answer
  split
  · exact .modCtx s c x _ (fun _ => rfl)
  · exact .refl s

theorem KeepsPcs.sendBack (s : State) (c : Nat) (l : Line) : KeepsPcs s (s.sendBack c l) := by
  unfold State.sendBack State.sendBackFor
  split
  · exact .refl s
  · exact .of_cores rfl rfl

theorem KeepsPcs.install (s : State) (c : Nat) (l : Line) : KeepsPcs s (s.install c l) := by
  unfold State.install
  simp only
  split
  · exact .refl s
  · split
    · exact .modCore s c _ (fun _ => rfl)
    · refine KeepsPcs.trans ?_ (.modCore _ c _ (fun _ => rfl))
      have hn : KeepsPcs s s.freeNext := .of_cores rfl rfl
      split
      · exact hn.trans (.sendBack _ c _)
      · exact hn

theorem KeepsPcs.deliver (s : State) (m : Msg) (data : List Byte) (poison : Bool) (pd : List Byte) : KeepsPcs s (s.deliver m data poison pd) := by
  unfold State.deliver
  split
  · exact (KeepsPcs.install s _ _).trans (.answer _ _ _ _)
  · exact .answer s _ _ _

theorem KeepsPcs.deliverAt (s : State) (d k : Nat) : KeepsPcs s (s.deliverAt d k) := by
  unfold State.deliverAt
  split
  · exact .refl s
  · next u _ =>
    simp only
    split
    · exact .ite (.of_cores rfl rfl) (.of_cores rfl rfl)
    · refine .trans ?_ (.deliver _ _ _ _ _)
      exact .ite (.of_cores rfl rfl) (.of_cores rfl rfl)

theorem KeepsPcs.catchUp (s : State) (d : Nat) (vec : List Nat) (n : Nat) : KeepsPcs s (s.catchUp d vec n) := by
  induction n generalizing s with
  | zero => exact .refl s
  | succ n ih =>
    simp only [State.catchUp]
    split
    · exact .refl s
    · split
      · exact .refl s
      · exact (KeepsPcs.deliverAt s d _).trans (ih _)

theorem KeepsPcs.caughtUp (s : State) (d : Nat) (vec : List Nat) : KeepsPcs s (s.caughtUp d vec) := .catchUp s d vec _

/-! ### A fetch -/

theorem KeepsPcs.devPiece {s t : State} {d part pa : Nat} {bs : List Byte} {pz : Bool} (h : s.devPiece d part pa = some (bs, pz, t)) :
    KeepsPcs s t := by
  unfold State.devPiece at h
  split at h
  · cases h
  · next p _ =>
    simp only at h
    split at h
    · cases h; exact .refl s
    · generalize hv : (if s.ownerDie p.stack = d then s else _ : State) = v at h
      have hs : KeepsPcs s v := by
        subst hv
        split
        · exact .refl s
        · exact .caughtUp s _ _
      refine hs.trans ?_
      split at h
      · cases h
      · split at h
        · cases h
        · split at h
          · cases h
          · obtain ⟨w, hw, he⟩ := Option.map_eq_some_iff.mp h
            have hvw : KeepsPcs v w := by
              split at hw
              · cases hw; exact .touch v _ _
              · split at hw
                · obtain ⟨a, ha, rfl⟩ := Option.map_eq_some_iff.mp hw
                  exact (KeepsPcs.allocClean ha).trans (.touch a _ _)
                · split at hw
                  · cases hw
                  · cases hw; exact .of_cores rfl rfl
            refine hvw.trans ?_
            simp only [Prod.mk.injEq] at he
            obtain ⟨-, -, rfl⟩ := he
            split
            · exact .refl w
            · exact .of_cores rfl rfl

theorem KeepsPcs.readBlock {s t : State} {c part pa : Nat} {fw : Bool} {b : FBlock} (h : s.readBlock c part pa fw = some (b, t)) :
    KeepsPcs s t := by
  unfold State.readBlock at h
  split at h
  · cases h; exact .refl s
  · obtain ⟨⟨bs, pz, u⟩, hu, he⟩ := Option.map_eq_some_iff.mp h
    cases he
    exact .devPiece hu

theorem KeepsPcs.keepBlock (s : State) (c : Nat) (b : FBlock) : KeepsPcs s (s.modCore c (fun k => k.keepBlock b)) :=
  .modCore s c _ (fun _ => rfl)

theorem KeepsPcs.block {s t : State} {c part pa : Nat} {fw : Bool} {b : FBlock} (h : s.block c part pa fw = some (b, t)) : KeepsPcs s t := by
  unfold State.block at h
  split at h
  · next r hr =>
    obtain ⟨⟨b', u⟩, hu, he⟩ := Option.map_eq_some_iff.mp h
    cases he
    exact (KeepsPcs.readBlock (hu)).trans (.keepBlock _ c _)
  · cases h; exact .refl s
  · next b' r _ hr =>
    split at h
    · cases h; exact .refl s
    · split at h
      · cases h; exact .of_cores rfl rfl
      · cases h
        exact ((KeepsPcs.readBlock hr).trans (.keepBlock _ c _)).trans (.of_cores rfl rfl)

theorem KeepsPcs.lookup (s : State) (c va : Nat) : KeepsPcs s (s.lookup c va).2 := by
  unfold State.lookup
  simp only
  split
  · exact .ite (.of_cores rfl rfl) (.refl s)
  · dsimp only
    refine .trans ?_ (.modCore _ c _ (fun _ => rfl))
    exact .ite (.of_cores rfl rfl) (.refl s)

/-- The state that a fetch leaves. -/
def Fetched.state : Fetched → State
  | .trap _ s => s
  | .wait s => s
  | .bytes _ _ s => s

theorem KeepsPcs.fetch (s : State) (c x : Nat) (pc : Word) : KeepsPcs s (s.fetch c x pc).state := by
  unfold State.fetch
  split
  · exact .refl s
  · have hl := KeepsPcs.lookup s c pc.toNat
    generalize s.lookup c pc.toNat = r at hl
    obtain ⟨e, u⟩ := r
    cases e with
    | none => exact hl
    | some e =>
      simp only
      split
      · exact hl
      · split
        · exact hl
        · split
          · exact hl
          · next b v hb => exact hl.trans (.block hb)

end Sys2Proof.Machine
end

section
/-!
PROOFS. One step, R1, R27, R28, R30, R33, R37, R51, R54, R233, R249: what the next turn is, what a slot comes to, case by case, and time running on.
-/

namespace Sys2Proof.Machine

/-! ### Time runs on -/

/-- What a map of a table's values leaves of each of them, it leaves of what is read at a key. -/
theorem tget_map_keeps {α β : Type} (π : α → β) (F : Nat → α → α) (hF : ∀ k y, π (F k y) = π y) (d : α) (t : Table α) (k : Nat) :
    π (tget d (t.map (fun e => (e.1, F e.1 e.2))) k) = π (tget d t k) := by
  induction t with
  | nil => rfl
  | cons e t ih =>
    by_cases h : e.1 = k
    · simp [tget, h, hF]
    · simpa [tget, h] using ih

/-- The waits that the census sums leave every system area. -/
theorem sys_part_sumWaits (s : State) (n p : Nat) : ((s.sumWaits n).part p).sys = (s.part p).sys :=
  tget_map_keeps Part.sys (fun p q => { q with
    queueWait := q.queueWait + n * (q.window.filter Task.waits).length
    storeWait := q.storeWait + n * s.stalledThreads p }) (fun _ _ => rfl) Part.reset s.parts p

theorem sameMemory_advance (s : State) (n : Nat) (ts : List Turn) : SameMemory s ({ s with agenda := ts }.advance n) :=
  SameMemory.of_eq (fun _ => rfl) rfl (sys_part_sumWaits { s with agenda := ts } _) rfl rfl

/-- The least of a number and of what a list's ticks are away: below all of them, and one of them. -/
theorem foldl_min_ticks (now : Nat) (l : List Nat) (n : Nat) :
    let m := l.foldl (fun n t => Nat.min n (t - now)) n
    m ≤ n ∧ (∀ y ∈ l, m ≤ y - now) ∧ (m = n ∨ ∃ y ∈ l, m = y - now) := by
  induction l generalizing n with
  | nil => simp
  | cons t l ih =>
    obtain ⟨hle, hall, hone⟩ := ih (Nat.min n (t - now))
    have hn : Nat.min n (t - now) ≤ n := Nat.min_le_left ..
    have ht : Nat.min n (t - now) ≤ t - now := Nat.min_le_right ..
    refine ⟨hle.trans hn, ?_, ?_⟩
    · rintro y (_ | ⟨_, hy⟩)
      · exact hle.trans ht
      · exact hall y hy
    · rcases hone with h | ⟨y, hy, h⟩
      · rcases Nat.le_total n (t - now) with hc | hc
        · exact .inl (h.trans (Nat.min_eq_left hc))
        · exact .inr ⟨t, List.mem_cons_self .., h.trans (Nat.min_eq_right hc)⟩
      · exact .inr ⟨y, List.mem_cons_of_mem _ hy, h⟩

/-! ### The turn taken next -/

theorem nextTurn_cons {s : State} {t : Turn} {ts : List Turn} (h : s.agenda = t :: ts) : s.nextTurn = (t, { s with agenda := ts }) := by
  simp [State.nextTurn, h]

/-- With an empty agenda, the turn is a free value. -/
theorem step_free {s : State} (h : s.agenda = []) :
    step s = step { s with freeCtr := s.freeCtr + 1, agenda := [Config.freeTurn s.freeCtr] } := by
  have hs : s.nextTurn = (Config.freeTurn s.freeCtr, { s with freeCtr := s.freeCtr + 1, agenda := [] }) := by
    obtain ⟨agenda⟩ := s
    subst h
    rfl
  rw [step, step, hs]
  rfl

theorem step_advance {s : State} {n : Nat} {ts : List Turn} (h : s.agenda = .advance n :: ts) :
    step s = .next ({ s with agenda := ts }.advance n) := by
  rw [step, nextTurn_cons h]

theorem step_event {s : State} {i : Instr} {ts : List Turn} (h : s.agenda = .event i :: ts) :
    step s = if !i.isEvent then .refused .notAnEvent
      else if s.timeDue && !timedEvent i then .next { s with agenda := ts } else exec i { s with agenda := ts } := by
  rw [step, nextTurn_cons h]
  rfl

/-- What a slot leaves of a step. -/
def Slot.outcome (c : Nat) : Slot → Outcome
  | .idle s => .next (s.tick c)
  | .entry s => .next s
  | .issue i s => endSlot c i (exec i s)

theorem step_issue {s : State} {c : Nat} {ts : List Turn} (h : s.agenda = .issue c :: ts) :
    step s = if !coreExists c then .fault (.noSuchCore c)
      else if s.timeDue || (s.core c).levelDue then .next { s with agenda := ts }
      else ({ s with agenda := ts }.slot c).outcome c := by
  rw [step, nextTurn_cons h]
  rfl

/-! ### The slot of a core's cycle -/

/-- The state of a core's slot: the writes that are due have landed, and the context of the cycle is the issuing one. -/
def State.inSlot (s : State) (c : Nat) : State := { s.modCore c Core.land with cur := (c, (s.core c).cycle % 16) }

@[simp] theorem cycle_land (k : Core) : k.land.cycle = k.cycle := rfl

theorem me_inSlot (s : State) (c : Nat) : (s.inSlot c).me = s.ctx c ((s.core c).cycle % 16) := by
  show ((s.modCore c Core.land).core c).ctx _ = _
  rw [State.core_modCore_same]
  rfl

/-- The slot, in the terms of the state in which it issues. -/
theorem slot_eq (s : State) (c : Nat) :
    let x := (s.core c).cycle % 16
    let u := s.inSlot c
    let t := s.ctx c x
    s.slot c =
      if t.state != .running || u.frozen c then .idle u
      else if u.moduleBack c x then .idle (u.endModule c x)
      else t.park.elim
        (if t.eventDue then .entry (u.takeEvent c x)
         else t.again.elim (u.slotFetch c x) (fun i? =>
          let u1 := u.modMe (fun t => { t with retry := t.retry.filter (fun e => decide (e.1 ≠ t.level)) })
          i?.elim (u1.slotFetch c x) (fun i => .issue i u1)))
        (fun p => if p.awake || u.waitOk c x p.w then .issue p.i u else .idle u) := by
  intro x u t
  have hx : ((s.modCore c Core.land).core c).cycle % 16 = x := by rw [State.core_modCore_same]; rfl
  have hu : ({ s.modCore c Core.land with cur := (c, x) } : State) = u := rfl
  have ht : u.me = t := me_inSlot s c
  simp only [State.slot, hx, hu, ht]
  cases t.park with
  | none => cases t.again <;> rfl
  | some p => rfl

/-! ### The checks before effect (R51, R54, R252) -/

/-- What an opcode raises on a core that lacks it, or in user mode. -/
def earlyTrap (w : Nat) (sup atelier : Bool) : Option Trap :=
  if atelier && atelierLacks w then some ⟨Cause.opcodeUnassigned, w64 w, 0⟩
  else if privilegedOp (w / 4 % 1024) && !sup then some ⟨Cause.privileged, w64 w, 0⟩ else none

theorem earlyTrap_lacks {w : Nat} {sup atelier : Bool} (h : atelier = true ∧ atelierLacks w = true) :
    earlyTrap w sup atelier = some ⟨Cause.opcodeUnassigned, w64 w, 0⟩ := by
  simp [earlyTrap, h]

theorem earlyTrap_user {w : Nat} {sup atelier : Bool} (hl : ¬(atelier = true ∧ atelierLacks w = true))
    (h : privilegedOp (w / 4 % 1024) = true ∧ sup = false) : earlyTrap w sup atelier = some ⟨Cause.privileged, w64 w, 0⟩ := by
  simp [earlyTrap, h, hl]

theorem earlyTrap_none {w : Nat} {sup atelier : Bool} (hl : ¬(atelier = true ∧ atelierLacks w = true))
    (h : ¬(privilegedOp (w / 4 % 1024) = true ∧ sup = false)) : earlyTrap w sup atelier = none := by
  simp only [earlyTrap, Bool.and_eq_true, Bool.not_eq_true', if_neg hl, if_neg h]

/-- A pad word has no opcode to check. -/
theorem decodeChecked_pad {bs : List Byte} {i : Instr} (h : decode bs = .ok i 4) (pc : Word) (sup atelier : Bool) :
    decodeChecked bs pc sup atelier = .ok (i, 4) := by
  simp [decodeChecked, h]

/-- The checks on the opcode of decoded bytes. -/
theorem decodeChecked_ok {bs : List Byte} {i : Instr} {n : Nat} (h : decode bs = .ok i n) (h4 : n ≠ 4) (pc : Word) (sup atelier : Bool) :
    decodeChecked bs pc sup atelier = (earlyTrap (leNat (bs.take n)) sup atelier).elim (.ok (i, n)) .error := by
  simp only [decodeChecked, h, if_neg h4]
  change (match earlyTrap (leNat (bs.take n)) sup atelier with | some t => Except.error t | none => Except.ok (i, n)) = _
  cases earlyTrap (leNat (bs.take n)) sup atelier <;> rfl

/-- The cause and the bit of a failed check that comes after those on the opcode. -/
def lateCause : Reject → Option (Nat × Nat)
  | .field b => some (Cause.fieldReserved, b)
  | .register b => some (Cause.registerInvalid, b)
  | .modifier b => some (Cause.modifierInvalid, b)
  | _ => none

/-- A reserved field, a register and a modifier are reported behind the checks on the opcode. -/
theorem decodeChecked_late {bs : List Byte} {why : Reject} {w n code b : Nat} (h : decode bs = .reject why w n)
    (hw : lateCause why = some (code, b)) (pc : Word) (sup atelier : Bool) :
    decodeChecked bs pc sup atelier = .error ((earlyTrap w sup atelier).getD ⟨code, w64 w, w64 b⟩) := by
  have key : ∀ e : Trap, (match earlyTrap w sup atelier with | some t => Except.error t | none => Except.error e) =
      (Except.error ((earlyTrap w sup atelier).getD e) : Except Trap (Instr × Nat)) := by
    intro e
    cases earlyTrap w sup atelier <;> rfl
  simp only [decodeChecked, h]
  cases why with
  | field k | register k | modifier k => cases hw; exact key _
  | short | padReserved k | unassigned => cases hw

/-! ### A fetch and what comes of it (R27, R39, R51) -/

section
variable {u v : State} {c x : Nat} {bs : List Byte}

/-- A fetch leaves the program counter. -/
theorem pc_fetched {r : Fetched} (h : u.fetch c x u.me.pc = r) : r.state.me.pc = u.me.pc := by
  rw [← h]
  exact (KeepsPcs.fetch u c x u.me.pc).me

theorem slotFetch_wait (h : u.fetch c x u.me.pc = .wait v) : u.slotFetch c x = .idle v := by
  simp [State.slotFetch, h]

theorem slotFetch_trap {e : Trap} (h : u.fetch c x u.me.pc = .trap e v) :
    u.slotFetch c x = .idle (v.raise c x e.code e.tval e.tstat u.me.pc) := by
  have hv : v.me.pc = u.me.pc := pc_fetched h
  simp [State.slotFetch, h, hv]

theorem slotFetch_poison (h : u.fetch c x u.me.pc = .bytes bs true v) :
    u.slotFetch c x = .idle (v.raise c x Cause.poisonLoad u.me.pc 0 u.me.pc) := by
  have hv : v.me.pc = u.me.pc := pc_fetched h
  simp [State.slotFetch, h, hv]

theorem slotFetch_error (h : u.fetch c x u.me.pc = .bytes bs false v) {e : Trap}
    (he : decodeChecked bs u.me.pc (v.isSup c x) (isAtelier c) = .error e) :
    u.slotFetch c x = .idle (v.raise c x e.code e.tval e.tstat u.me.pc) := by
  have hv : v.me.pc = u.me.pc := pc_fetched h
  simp [State.slotFetch, h, hv, he]

theorem slotFetch_ok (h : u.fetch c x u.me.pc = .bytes bs false v) {i : Instr} {n : Nat}
    (he : decodeChecked bs u.me.pc (v.isSup c x) (isAtelier c) = .ok (i, n)) : u.slotFetch c x = .issue i v := by
  have hv : v.me.pc = u.me.pc := pc_fetched h
  simp [State.slotFetch, h, hv, he]

end

/-! ### A context that runs: parked, due an event, or issuing (R28, R233, R249) -/

/-- The state in which the instruction at the program counter issues: one at the present level that had raised TB_MISS_COPY is forgotten,
where the handler did not return to it. -/
def State.afresh (s : State) (c : Nat) : State :=
  if (s.ctx c ((s.core c).cycle % 16)).again = none then s.inSlot c
  else (s.inSlot c).modMe (fun t => { t with retry := t.retry.filter (fun e => decide (e.1 ≠ t.level)) })

theorem pc_afresh (s : State) (c : Nat) : (s.afresh c).me.pc = (s.ctx c ((s.core c).cycle % 16)).pc := by
  unfold State.afresh
  split
  · rw [me_inSlot]
  · rw [State.me_modMe, me_inSlot]

/-- A slot whose context does not run, or whose core is frozen. -/
theorem slot_idle {s : State} {c : Nat} (h : (s.ctx c ((s.core c).cycle % 16)).state ≠ .running ∨ (s.inSlot c).frozen c = true) :
    s.slot c = .idle (s.inSlot c) := by
  rw [slot_eq, if_pos (by simpa using h)]

section
variable {s : State} {c : Nat} (hr : (s.ctx c ((s.core c).cycle % 16)).state = .running) (hf : (s.inSlot c).frozen c = false)
  (hb : (s.inSlot c).moduleBack c ((s.core c).cycle % 16) = false)
include hr hf hb

theorem slot_woken {p : Parked} (hp : (s.ctx c ((s.core c).cycle % 16)).park = some p)
    (hw : p.awake = true ∨ (s.inSlot c).waitOk c ((s.core c).cycle % 16) p.w = true) : s.slot c = .issue p.i (s.inSlot c) := by
  rw [slot_eq]
  simp [hr, hf, hb, hp, hw]

theorem slot_parked {p : Parked} (hp : (s.ctx c ((s.core c).cycle % 16)).park = some p) (ha : p.awake = false)
    (hw : (s.inSlot c).waitOk c ((s.core c).cycle % 16) p.w = false) : s.slot c = .idle (s.inSlot c) := by
  rw [slot_eq]
  simp [hr, hf, hb, hp, ha, hw]

variable (hp : (s.ctx c ((s.core c).cycle % 16)).park = none)
include hp

/-- A due event is taken as EVENT_ENTRY takes it. -/
theorem slot_event (he : (s.ctx c ((s.core c).cycle % 16)).eventDue = true) :
    (s.slot c).outcome c = exec (.eventEntry c ((s.core c).cycle % 16)) (s.inSlot c) := by
  have hd : (s.inSlot c).me.eventDue = true := by rw [me_inSlot]; exact he
  have hx : exec (.eventEntry c ((s.core c).cycle % 16)) (s.inSlot c) = .next (if (s.inSlot c).me.eventDue
    then (s.inSlot c).takeEvent c ((s.core c).cycle % 16) else s.inSlot c) := rfl
  rw [slot_eq, hx, if_pos hd]
  simp [hr, hf, hb, hp, he, Slot.outcome]

variable (he : (s.ctx c ((s.core c).cycle % 16)).eventDue = false)
include he

theorem slot_again {i : Instr} (ha : (s.ctx c ((s.core c).cycle % 16)).again = some (some i)) : s.slot c = .issue i (s.afresh c) := by
  rw [slot_eq]
  simp [State.afresh, hr, hf, hb, hp, he, ha]

theorem slot_fetch (ha : (s.ctx c ((s.core c).cycle % 16)).again = none ∨ (s.ctx c ((s.core c).cycle % 16)).again = some none) :
    s.slot c = (s.afresh c).slotFetch c ((s.core c).cycle % 16) := by
  rw [slot_eq]
  rcases ha with ha | ha <;> simp [State.afresh, hr, hf, hb, hp, he, ha]

end

/-! ### O57 -/

/-- Settles O57: each turn by the lemma of its kind; an issue turn by the outcome of its slot, and that of a fetch by the checks before effect. -/
theorem stepRunsTheDecodedInstruction : Obligations.StepRunsTheDecodedInstruction := by
  unfold Obligations.StepRunsTheDecodedInstruction
  intro s v c n size ev i ts bs e p
  refine ⟨step_free, fun h => ?_, fun h hi hd ht => ?_, fun h hi hd => ?_, fun h hi => ?_, fun h hc => ?_, fun h hc hd => ?_,
    fun h hc ht hl => ?_⟩
  · obtain ⟨hle, hall, hone⟩ := foldl_min_ticks s.now s.dueTicks n
    exact ⟨_, _, step_advance h, rfl, rfl, rfl, sameMemory_advance s n ts, hle, hall, hone⟩
  · simp [step_event h, hi, hd, ht]
  · rcases hd with hd | hd <;> simp [step_event h, hi, hd]
  · simp [step_event h, hi]
  · simp [step_issue h, hc]
  · rcases hd with hd | hd <;> simp [step_issue h, hc, hd]
  intro u0 x u t u1 tick ends
  let w : State := { s with agenda := ts }
  have hs : step s = (w.slot c).outcome c := by simp [step_issue h, hc, ht, hl, w]
  have hends : ∀ (j : Instr) (w : State), (Slot.issue j w).outcome c = ends j (exec j w) := fun j w => by
    change endSlot c j (exec j w) = _
    cases exec j w <;> rfl
  refine ⟨fun hi => ?_, fun hr hf hb => ⟨fun hp => ⟨fun hw => ?_, fun ha hw => ?_⟩, fun hp he => ?_, fun hp he ha => ?_, fun hp he ha => ?_⟩⟩
  · rw [hs, slot_idle (s := w) hi]; rfl
  · rw [hs, slot_woken (s := w) hr hf hb hp hw]; exact hends _ _
  · rw [hs, slot_parked (s := w) hr hf hb hp ha hw]; rfl
  · rw [hs, slot_event (s := w) hr hf hb hp he]; rfl
  · rw [hs, slot_again (s := w) hr hf hb hp he ha]; exact hends _ _
  have hq : step s = (u1.slotFetch c x).outcome c := by rw [hs, slot_fetch (s := w) hr hf hb hp he ha]; rfl
  have hpc : u1.me.pc = t.pc := pc_afresh w c
  rw [← hpc]
  refine ⟨fun hw => ?_, fun hw => ?_, fun hw => ?_, fun hw hd => ?_, fun why hw hd => ?_⟩
  · rw [hq, slotFetch_wait hw]; rfl
  · rw [hq, slotFetch_trap hw]; rfl
  · rw [hq, slotFetch_poison hw]; rfl
  · have herr {e : Trap} (he : earlyTrap (leNat (bs.take size)) (v.isSup c x) (isAtelier c) = some e) (h4 : size ≠ 4) :
        step s = .next (tick (v.raise c x e.code e.tval e.tstat u1.me.pc)) := by
      rw [hq, slotFetch_error hw (by rw [decodeChecked_ok hd h4, he]; rfl)]; rfl
    have hok (he : decodeChecked bs u1.me.pc (v.isSup c x) (isAtelier c) = .ok (i, size)) : step s = ends i (exec i v) := by
      rw [hq, slotFetch_ok hw he]; exact hends _ _
    refine ⟨fun hn => hok ?_, fun h4 hl => herr (earlyTrap_lacks hl) h4, fun h4 hl hu => herr (earlyTrap_user hl hu) h4⟩
    by_cases h4 : size = 4
    · subst h4; exact decodeChecked_pad hd _ _ _
    · obtain ⟨hl, hu⟩ := hn.resolve_left h4
      rw [decodeChecked_ok hd h4, earlyTrap_none hl hu]; rfl
  · intro raises lacks user late
    have herr {e : Trap} (he : decodeChecked bs u1.me.pc (v.isSup c x) (isAtelier c) = .error e) : raises e.code e.tval e.tstat := by
      change step s = _
      rw [hq, slotFetch_error hw he]; rfl
    have hlate {code b : Nat} (hc : lateCause why = some (code, b)) : late code b := by
      have hx := decodeChecked_late hd hc u1.me.pc (v.isSup c x) (isAtelier c)
      refine ⟨fun hl => ?_, fun hl hu => ?_, fun hl hu => ?_⟩
      · rw [earlyTrap_lacks hl] at hx; exact herr hx
      · rw [earlyTrap_user hl hu] at hx; exact herr hx
      · rw [earlyTrap_none hl hu] at hx; exact herr hx
    refine ⟨?_, ?_, ?_, fun b => ⟨?_, ?_, ?_⟩⟩
    · rintro rfl; exact herr (e := ⟨Cause.fetchCrossing, u1.me.pc, 0⟩) (by simp [decodeChecked, hd])
    · rintro b rfl; exact herr (e := ⟨Cause.fieldReserved, w64 n, w64 b⟩) (by simp [decodeChecked, hd])
    · rintro rfl; exact herr (e := ⟨Cause.opcodeUnassigned, w64 n, 0⟩) (by simp [decodeChecked, hd])
    all_goals rintro rfl; exact hlate rfl

end Sys2Proof.Machine
end

section
/-!
PROOFS. The control registers, R4, R246, R251, R256 to R258: what a read and a write of one come to, by whether the register is free, the
supervisor's or the Atelier's.
-/

namespace Sys2Proof.Machine

/-! ### Reads -/

/-- What a read of a register comes to. -/
def csrReadRes (d : GReg) (n : Nat) (s : State) : Res :=
  (orTrap (s.csrReadTrap n) (s.clockTrap n)).elim (.done (s.putG d (s.csr s.cur.1 s.cur.2 n))) (.raise s)

theorem exec_csrr (g : Guard) (d : GReg) (n : BitVec 12) (s : State) :
    exec (.csrr g d n) s = s.run (.csrr g d n) 8 g [.dst d] (csrReadRes d n.toNat) := by
  have h : (fun t => csrReadRes d n.toNat t) = fun t => match orTrap (t.csrReadTrap n.toNat) (t.clockTrap n.toNat) with
      | some e => Res.raise t e
      | none => .done (t.putG d (t.csr t.cur.1 t.cur.2 n.toNat)) := by
    funext t
    unfold csrReadRes
    cases orTrap (t.csrReadTrap n.toNat) (t.clockTrap n.toNat) <;> rfl
  exact congrArg (s.run (.csrr g d n) 8 g [.dst d]) h.symm

section
variable {s : State} {g : Guard} {d : GReg} {n : BitVec 12} (hg : s.guard g = true) (hm : s.modsOk (condsOf [.dst d]) = true)
include hg hm

/-- A read that no check stops gives the register. -/
theorem csrr_runs (hn : n.toNat < 0x100 ∨ s.isSup s.cur.1 s.cur.2 = true) (hc : s.clockTrap n.toNat = none) :
    Runs (.csrr g d n) s 8 [.dst d] { g := [(d, s.csr s.cur.1 s.cur.2 n.toNat)] } := by
  have hr : s.csrReadTrap n.toNat = none := by
    rcases hn with hn | hn
    · have hs : csrSup n.toNat = false := by simpa [csrSup] using hn
      simp [State.csrReadTrap, failIf, hs]
    · simp [State.csrReadTrap, failIf, hn]
  exact runs_g (exec_csrr g d n s) rfl hg hm (by simp [csrReadRes, orTrap, hr, hc])

/-- Reads of registers other than GTIME, each with what it gives. -/
theorem csrr_runs_all {l : List (BitVec 12 × Word)}
    (hn : ∀ q ∈ l, (q.1.toNat < 0x100 ∨ s.isSup s.cur.1 s.cur.2 = true) ∧ q.1.toNat ≠ 0x006)
    (hv : ∀ q ∈ l, s.csr s.cur.1 s.cur.2 q.1.toNat = q.2) :
    ∀ q ∈ l, Runs (.csrr g d q.1) s 8 [.dst d] { g := [(d, q.2)] } := fun q hq => by
  rw [← hv q hq]
  exact csrr_runs hg hm (hn q hq).1 (by simp [State.clockTrap, (hn q hq).2])

/-- A read of a supervisor register in user mode. -/
theorem csrr_privileged (hn : 0x100 ≤ n.toNat) (hu : s.isSup s.cur.1 s.cur.2 = false) :
    Traps (.csrr g d n) s Cause.privileged (w64 n.toNat) 1 := by
  have hs : csrSup n.toNat = true := by simpa [csrSup] using hn
  exact traps_of (exec_csrr g d n s) hg hm (by simp [csrReadRes, State.csrReadTrap, failIf, orTrap, hs, hu, Res.raise])

/-- A read of GTIME that is not synchronous. -/
theorem csrr_unsync {t : Trap} (h : s.clockTrap 0x006 = some t) : Raises (.csrr g d 0x006) s t :=
  traps_of (exec_csrr g d 0x006 s) hg hm (by
    have hr : s.csrReadTrap 0x006 = none := rfl
    change (orTrap (s.csrReadTrap 0x006) (s.clockTrap 0x006)).elim _ (Res.raise s) = _
    rw [hr, h]
    rfl)

end

/-! ### Writes -/

/-- The instructions that write a register, each with the new value that it makes of the old one. -/
def csrWriters (s : State) (g : Guard) (d a : GReg) (n : BitVec 12) (old : Word) : List (Instr × Word) :=
  [(.csrw g d a n, s.g a), (.csrs g d a n, old ||| s.g a), (.csrc g d a n, old &&& ~~~(s.g a))]

theorem exec_csrw (g : Guard) (d a : GReg) (n : BitVec 12) (s : State) : exec (.csrw g d a n) s =
    s.run (.csrw g d a n) 8 g [.dst d, .src a] (fun t => t.csrMod d n.toNat (fun _ => t.g a)) := rfl

theorem exec_csrWriter {s : State} {g : Guard} {d a : GReg} {n : BitVec 12} {old : Word} {q : Instr × Word}
    (hq : q ∈ csrWriters s g d a n old) :
    ∃ new : State → Word → Word, exec q.1 s = s.run q.1 8 g [.dst d, .src a] (fun t => t.csrMod d n.toNat (new t)) ∧ new s old = q.2 := by
  simp only [csrWriters, List.mem_cons, List.not_mem_nil, or_false] at hq
  rcases hq with rfl | rfl | rfl
  · exact ⟨fun t _ => t.g a, rfl, rfl⟩
  · exact ⟨fun t o => o ||| t.g a, rfl, rfl⟩
  · exact ⟨fun t o => o &&& ~~~(t.g a), rfl, rfl⟩

/-- A register that every mode writes. -/
theorem csrWriteTrap_free (s : State) {n : Nat} (h : (csrSup n || csrSupWrite n || csrAtelier n) = false) : s.csrWriteTrap n = none := by
  simp only [Bool.or_eq_false_iff] at h
  simp [State.csrWriteTrap, failIf, orTrap, h]

/-- A register that the supervisor writes on every core. -/
theorem csrWriteTrap_sup {s : State} {n : Nat} (hs : s.isSup s.cur.1 s.cur.2 = true) (h : csrAtelier n = false) : s.csrWriteTrap n = none := by
  simp [State.csrWriteTrap, failIf, orTrap, h, hs]

/-- On the Atelier every register is written. -/
theorem csrWriteTrap_atelier {s : State} (ha : isAtelier s.cur.1 = true) (n : Nat) : s.csrWriteTrap n = none := by
  simp [State.csrWriteTrap, State.isSup, failIf, orTrap, ha]

/-- A supervisor register in user mode. -/
theorem csrWriteTrap_user {s : State} {n : Nat} (hs : s.isSup s.cur.1 s.cur.2 = false) (h : (csrSup n || csrSupWrite n) = true) :
    s.csrWriteTrap n = some ⟨Cause.privileged, w64 n, 1⟩ := by
  simp [State.csrWriteTrap, failIf, orTrap, h, hs]

/-- An Atelier register in the supervisor mode of a tile. -/
theorem csrWriteTrap_tile {s : State} {n : Nat} (hs : s.isSup s.cur.1 s.cur.2 = true) (ha : isAtelier s.cur.1 = false)
    (h : csrAtelier n = true) : s.csrWriteTrap n = some ⟨Cause.privileged, w64 n, 3⟩ := by
  simp [State.csrWriteTrap, failIf, orTrap, h, hs, ha]

/-- A register that has no rule of its own for its write: neither SPLIT nor a window. -/
def csrPlain (n : Nat) : Bool := n != 0x030 && !(decide (0x110 ≤ n) && decide (n ≤ 0x11F))

theorem csrMod_split {s : State} (d : GReg) (new : Word → Word) :
    s.csrMod d 0x030 new = s.splitCsr d (new (s.myCore.split.setWidth 64)) := by
  simp only [State.csrMod, csrWriteTrap_free s (n := 0x030) rfl]
  rfl

theorem csrMod_plain {s : State} {n : Nat} (ht : s.csrWriteTrap n = none) (hn : csrPlain n = true) (d : GReg) (new : Word → Word) :
    let old := s.csr s.cur.1 s.cur.2 n
    s.csrMod d n new = .done ((s.csrWrite s.cur.1 s.cur.2 n (new old)).putG d old) := by
  simp only [csrPlain, Bool.and_eq_true, bne_iff_ne, ne_eq, Bool.not_eq_true', Bool.and_eq_false_iff, decide_eq_false_iff_not] at hn
  have hw : ¬(0x110 ≤ n ∧ n ≤ 0x11F) := by omega
  simp only [State.csrMod, ht, if_neg hn.1, if_neg hw]

section
variable {s : State} {g : Guard} {d a : GReg} {n : BitVec 12} (hg : s.guard g = true)
  (hm : s.modsOk (condsOf [.dst d, .src a]) = true)
include hg hm

theorem csrWriter_traps {t : Trap} (ht : s.csrWriteTrap n.toNat = some t) {old : Word} : ∀ q ∈ csrWriters s g d a n old, Raises q.1 s t :=
  fun q hq => by
    obtain ⟨new, hx, -⟩ := exec_csrWriter hq
    exact traps_of hx hg hm (by simp only [State.csrMod, ht]; rfl)

/-- The same, of the instructions alone. -/
theorem csrWriter_traps_instr {t : Trap} (ht : s.csrWriteTrap n.toNat = some t) :
    ∀ i ∈ ([.csrw g d a n, .csrs g d a n, .csrc g d a n] : List Instr), Raises i s t := fun i hi => by
  obtain ⟨q, hq, rfl⟩ := List.mem_map.mp (show i ∈ (csrWriters s g d a n 0).map Prod.fst from hi)
  exact csrWriter_traps hg hm ht q hq

variable (ht : s.csrWriteTrap n.toNat = none) (hn : csrPlain n.toNat = true)
include ht hn

/-- A write gives the old value and has the effect of `csrWrite`. -/
theorem csrWriter_runs {old : Word} (ho : s.csr s.cur.1 s.cur.2 n.toNat = old) {u : Word → State}
    (hu : ∀ v, s.csrWrite s.cur.1 s.cur.2 n.toNat v = u v)
    (hk : ∀ v, (u v).me.level = s.me.level ∧ (u v).me.dbgctl = s.me.dbgctl ∧ (u v).me.pc = s.me.pc) :
    ∀ q ∈ csrWriters s g d a n old, RunsWith q.1 s (u q.2) 8 [.dst d, .src a] { g := [(d, old)] } := fun q hq => by
  obtain ⟨new, hx, hv⟩ := exec_csrWriter hq
  obtain ⟨hl, hd, hp⟩ := hk q.2
  exact runs_with_g hx rfl hg hm (by rw [csrMod_plain ht hn, ho, hu, hv]) hl hd hp

/-- A write of a register of the context. -/
theorem csrWriter_modMe {old : Word} (ho : s.csr s.cur.1 s.cur.2 n.toNat = old) {f : Word → Ctx → Ctx}
    (hu : ∀ v, s.csrWrite s.cur.1 s.cur.2 n.toNat v = s.modMe (f v))
    (hk : ∀ v t, (f v t).level = t.level ∧ (f v t).dbgctl = t.dbgctl ∧ (f v t).pc = t.pc) :
    ∀ q ∈ csrWriters s g d a n old, RunsWith q.1 s (s.modMe (f q.2)) 8 [.dst d, .src a] { g := [(d, old)] } :=
  csrWriter_runs hg hm ht hn ho (u := fun v => s.modMe (f v)) hu (fun v => by rw [State.me_modMe]; exact hk v s.me)

end

/-! ### DBGCTL (R258) -/

theorem CoreOnly.modMe (s : State) (f : Ctx → Ctx) : CoreOnly s (s.modMe f) s.cur.1 :=
  CoreOnly.modCore s s.cur.1 (fun k => k.setCtx s.cur.2 (f s.me))

/-- An instruction that ends in a state completes in it. -/
theorem run_completes {s u : State} {i : Instr} {size : Nat} {g : Guard} {os : List Opnd} {eff : State → Res} (hg : s.guard g = true)
    (hm : s.modsOk (condsOf os) = true) (he : eff s = .done u) :
    s.run i size g os eff = .next (s.complete (u.consumeAll os) (s.me.pc + w64 size)) := by
  simp [State.run, hg, hm, he, State.finish]

/-- The end of an instruction puts the PC on and leaves DBGCTL. -/
theorem complete_dbgctl (s0 s : State) (pc : Word) :
    CoreOnly s (s0.complete s pc) s.cur.1 ∧ (s0.complete s pc).cur = s.cur ∧ (s0.complete s pc).me.dbgctl = s.me.dbgctl ∧
      (s0.complete s pc).me.pc = pc := by
  rw [complete_eq]
  split
  · exact ⟨CoreOnly.modMe s _, rfl, by rw [State.me_modMe]; rfl, by rw [State.me_modMe]; rfl⟩
  · exact ⟨CoreOnly.modMe s _, rfl, by rw [State.me_modMe]; rfl, by rw [State.me_modMe]; rfl⟩

/-- A write of DBGCTL: its two bits, and the events of its core's context that they make. -/
theorem csrWriter_dbgctl {s : State} {g : Guard} {d a : GReg} (hg : s.guard g = true) (hm : s.modsOk (condsOf [.dst d, .src a]) = true)
    (hs : s.isSup s.cur.1 s.cur.2 = true) : ∀ q ∈ csrWriters s g d a 0x105 s.me.dbgctl, Makes q.1 s (fun w =>
      CoreOnly s w s.cur.1 ∧ w.me.dbgctl = q.2 &&& 3 ∧ w.me.pc = s.me.pc + 8) := fun q hq => by
  obtain ⟨new, hx, hv⟩ := exec_csrWriter hq
  let u := s.modMe (fun t => t.setDbg q.2)
  have he : s.csrMod d 0x105 (new s) = .done (u.putG d s.me.dbgctl) := by
    rw [csrMod_plain (csrWriteTrap_sup hs rfl) rfl]
    change Res.done ((s.modMe (fun t => t.setDbg (new s s.me.dbgctl))).putG d s.me.dbgctl) = _
    rw [hv]
  have ha := (Applied.refl u).putG d s.me.dbgctl
  have hw := consumeAll_emptied (u.putG d s.me.dbgctl) [.dst d, .src a]
  obtain ⟨hc, hcur, hdbg, hpc⟩ := complete_dbgctl s ((u.putG d s.me.dbgctl).consumeAll [.dst d, .src a]) (s.me.pc + 8)
  have hcw := (cur_of_device hw.device).trans (cur_of_device ha.device)
  refine ⟨_, hx.trans (run_completes hg hm he), ?_, ?_, ?_⟩
  · have h1 : CoreOnly s u s.cur.1 := CoreOnly.modMe s _
    have h2 : CoreOnly u (u.putG d s.me.dbgctl) s.cur.1 := ⟨ha.device, ha.cores⟩
    have h3 : CoreOnly (u.putG d s.me.dbgctl) ((u.putG d s.me.dbgctl).consumeAll [.dst d, .src a]) s.cur.1 :=
      ⟨hw.device, by rw [← show u.cur.1 = s.cur.1 from rfl, ← cur_of_device ha.device]; exact hw.cores⟩
    rw [hcw] at hc
    exact ((h1.trans h2).trans h3).trans hc
  · have h1 := congrArg Ctx.dbgctl (hw.rest.trans ha.rest)
    refine hdbg.trans (Eq.trans h1 ?_)
    change u.me.dbgctl = _
    rw [State.me_modMe]; rfl
  · exact hpc

/-! ### SPLIT (R98 to R100) -/

/-- The whole store as scratch is no shrink, so only the pool bit stands against it. -/
theorem splitTrap_whole {k : Core} (hp : k.pool = true) (v : Word) : k.splitTrap 0 v = some ⟨Cause.splitConflict, v, 3⟩ := by
  have hle : ∀ code : BitVec 2, ¬scratchOf 0#2 < scratchOf code := by decide
  simp [Core.splitTrap, orTrap, failIf, hle, hp, w64]

section
variable {s : State} {g : Guard} {d a : GReg} (hg : s.guard g = true) (hm : s.modsOk (condsOf [.dst d, .src a]) = true)
  (ho : s.out = false) (ha : isAtelier s.cur.1 = false) (hc : s.myCore.splitChange = none)
include hg hm ho ha hc

/-- A write of the code that stands. -/
theorem csrw_split_same (h : (s.g a).setWidth 2 = s.myCore.split) :
    RunsWith (.csrw g d a 0x030) s s 8 [.dst d, .src a] { g := [(d, s.myCore.split.setWidth 64)] } := by
  refine runs_with_g (exec_csrw g d a 0x030 s) rfl hg hm ?_ rfl rfl rfl
  refine (csrMod_split d _).trans ?_
  simp [State.splitCsr, ho, ha, hc, h]

/-- With the pool bit set, the whole store is refused to scratch. -/
theorem csrw_split_pool (h : (s.g a).setWidth 2 = (0 : BitVec 2)) (hk : s.myCore.split ≠ 0) (hp : s.myCore.pool = true) :
    Traps (.csrw g d a 0x030) s Cause.splitConflict (s.g a) 3 := by
  refine traps_of (exec_csrw g d a 0x030 s) hg hm ?_
  refine (csrMod_split d _).trans ?_
  simp only [State.splitCsr, ho, ha, hc, h, Bool.false_eq_true, if_false, Option.isSome_none, if_neg hk.symm, splitTrap_whole hp]
  rfl

end

/-! ### O40 -/

/-- Settles O40: each read and each write by the lemma of its kind. -/
theorem controlRegisters : Obligations.ControlRegisters := by
  unfold Obligations.ControlRegisters
  intro s g d a hg t k P sup A os
  refine ⟨fun hm => ⟨?_, fun ha => ?_, fun h1 h2 => ?_, fun h1 => ?_, fun h1 h2 => ?_, fun hs => ?_⟩,
    fun n hn hs => ⟨fun hm => csrr_privileged hg hm hn hs, fun hm => ?_⟩, fun hm ha hs n hn => ?_, fun hm => ?_⟩
  · refine csrr_runs_all hg hm (by simp) ?_
    intro q hq
    fin_cases hq <;> rfl
  · refine csrr_runs_all hg hm (by simp) ?_
    simp [State.csr, ha, w64, k, State.myCore]
  · exact csrr_runs (n := 0x006) hg hm (.inl (by decide)) (by simp [State.clockTrap, orTrap, failIf, h1, h2])
  · exact csrr_unsync hg hm (t := ⟨Cause.clockUnsync, s.gtime, 1⟩) (by simp [State.clockTrap, orTrap, failIf, h1])
  · exact csrr_unsync hg hm (t := ⟨Cause.clockUnsync, s.gtime, 2⟩) (by simp [State.clockTrap, orTrap, failIf, h1, h2])
  · refine csrr_runs_all hg hm (by simp [show s.isSup s.cur.1 s.cur.2 = true from hs]) ?_
    intro q hq
    fin_cases hq <;> rfl
  · exact csrWriter_traps_instr hg hm (csrWriteTrap_user hs (by simpa [csrSup] using Or.inl hn))
  · refine csrWriter_traps_instr hg hm (t := ⟨Cause.privileged, w64 n.toNat, 3⟩) (csrWriteTrap_tile hs ha ?_)
    fin_cases hn <;> rfl
  intro new writes
  have ctx {n : BitVec 12} {old : Word} {f : Word → Ctx → Ctx} (ht : s.csrWriteTrap n.toNat = none) (hn : csrPlain n.toNat = true)
      (ho : s.csr s.cur.1 s.cur.2 n.toNat = old) (hu : ∀ v, s.csrWrite s.cur.1 s.cur.2 n.toNat v = s.modMe (f v))
      (hk : ∀ v t, (f v t).level = t.level ∧ (f v t).dbgctl = t.dbgctl ∧ (f v t).pc = t.pc) : writes n old f :=
    csrWriter_modMe hg hm ht hn ho hu hk
  clear_value writes
  refine ⟨?tcause, ?tval, ?tepc, ?tvec, ?tstat, ?fpctl, ?fpflags, ?sigmin, ?siglanes, fun hs => ⟨?hcause, ?hval, ?hepc, ?hstat⟩,
    fun hs ha => ?tdeleg, fun hs => ?user, ?readonly, fun hs => csrWriter_dbgctl hg hm hs, fun _ ha => ?svcvec, fun _ ha => ?stackright,
    fun ho ha hc h => csrw_split_same hg hm ho ha hc h, fun ho ha hc h hk hp => csrw_split_pool hg hm ho ha hc h hk hp⟩
  case tcause | tval | tepc | tvec | tstat | fpctl | fpflags | sigmin | siglanes =>
    exact ctx (csrWriteTrap_free s rfl) rfl rfl (fun _ => rfl) (fun _ _ => ⟨rfl, rfl, rfl⟩)
  case hcause | hval | hepc | hstat =>
    exact ctx (csrWriteTrap_sup hs rfl) rfl rfl (fun _ => rfl) (fun _ _ => ⟨rfl, rfl, rfl⟩)
  case tdeleg =>
    exact ctx (csrWriteTrap_sup hs rfl) rfl rfl (fun _ => if_neg (by simp [ha])) (fun _ _ => ⟨rfl, rfl, rfl⟩)
  case user => exact csrWriter_traps hg hm (csrWriteTrap_user hs rfl)
  case readonly =>
    intro r hr
    fin_cases hr
    all_goals exact csrWriter_runs hg hm (csrWriteTrap_free s rfl) rfl rfl (u := fun _ => s) (fun _ => rfl) (fun _ => ⟨rfl, rfl, rfl⟩)
  case svcvec =>
    exact csrWriter_runs hg hm (csrWriteTrap_atelier ha _) rfl rfl
      (u := fun v => s.modPart s.myPart (fun p => { p with svcvec := v &&& ~~~3 })) (fun _ => rfl) (fun _ => ⟨rfl, rfl, rfl⟩)
  case stackright =>
    exact csrWriter_runs hg hm (csrWriteTrap_atelier ha _) rfl rfl
      (u := fun v => (s.modPart s.myPart (fun p => { p with stackright := v.setWidth 8 })).noRollback s.myPart) (fun _ => rfl)
      (fun _ => ⟨rfl, rfl, rfl⟩)

end Sys2Proof.Machine
end

section
/-!
PROOFS. The platform's registers, R250, R258, R383, R386, R387, R392, and the host's accesses to memory, R377 to R379, R385: what each write and
read of a register comes to, and what a host access does behind what is left of an earlier one.
-/

namespace Sys2Proof.Machine

/-! ### Ring registers (R383) -/

section
variable {s : State} {p : Nat}

/-- A partition that is not there, or is being captured, takes no write of a ring register. -/
theorem hostOpenReg_closed (h : (s.part p).present = false ∨ (s.part p).capture.isSome = true) : s.hostOpenReg p = false := by
  rcases h with h | h
  · simp [State.hostOpenReg, h]
  · simp [State.hostOpenReg, Option.isNone_eq_false_iff.mpr h]

theorem hostOpenReg_open (hp : (s.part p).present = true) (hc : (s.part p).capture = none) : s.hostOpenReg p = true := by
  simp [State.hostOpenReg, hp, hc]

variable (v : Word)

theorem exec_crbaseWrite : exec (.crbaseWrite p v) s =
    .next (if s.hostOpenReg p then s.modPart p (fun q => { q with crbase := v &&& ~~~0xFFF, crtail := 0 }) else s) := rfl
theorem exec_crsizeWrite : exec (.crsizeWrite p v) s =
    .next (if s.hostOpenReg p then s.modPart p (fun q => { q with crsize := v &&& 0x1F, crtail := 0 }) else s) := rfl
theorem exec_crheadWrite : exec (.crheadWrite p v) s =
    .next (if s.hostOpenReg p then s.modPart p (fun q => { q with crhead := v }) else s) := rfl

theorem ringWrite_closed (h : (s.part p).present = false ∨ (s.part p).capture.isSome = true) :
    ∀ i ∈ ([.crbaseWrite p v, .crsizeWrite p v, .crheadWrite p v] : List Instr), exec i s = .next s := by
  have hc := hostOpenReg_closed h
  simp [exec_crbaseWrite, exec_crsizeWrite, exec_crheadWrite, hc]

/-- What the host reads at three offsets of the function of a partition that is there, on its own link. -/
theorem bar0Read_present (hp : (s.part p).present = true) :
    s.bar0Read p (s.part p).link 0x000 8 = some 0 ∧ s.bar0Read p (s.part p).link 0x008 8 = some (w64 (64 - (s.part p).enq.length)) ∧
      s.bar0Read p (s.part p).link 0x020 8 = some (s.part p).crtail := by
  simp [State.bar0Read, hp]

/-- An access of another size than eight bytes reads nothing. -/
theorem bar0Read_size (hp : (s.part p).present = true) {n : Nat} (hn : n ≠ 8) (off : Nat) : s.bar0Read p (s.part p).link off n = none := by
  simp [State.bar0Read, hp, hn]

/-- On another link the function is not there. -/
theorem bar0Read_elsewhere {n : Nat} (hn : n ≠ (s.part p).link) (off k : Nat) : s.bar0Read p n off k = some (BitVec.allOnes 64) := by
  simp [State.bar0Read, hn.symm]

end

/-! ### The registers of physical function 0 (R386, R387, R392) -/

section
variable {s : State} (v : Word)

theorem exec_pwrcapWrite : exec (.pwrcapWrite v) s =
    .next (if s.recovery then s else { s with pwrcap := w64 (Nat.max 1000 (Nat.min 3800 v.toNat)) }) := rfl
theorem exec_devnumsetWrite : exec (.devnumsetWrite v) s =
    .next (if s.recovery || s.portsTrained then s else { s with devnumset := v &&& 0x3FFF, devnum := v.setWidth 14 }) := rfl

/-- The power cap is held within its limits. -/
theorem pwrcapWrite_clamps (hr : s.recovery = false) {n : Nat} (hn : max 1000 (min 3800 v.toNat) = n) :
    exec (.pwrcapWrite v) s = .next { s with pwrcap := w64 n } := by
  rw [exec_pwrcapWrite, hr, ← hn]; rfl

/-- In recovery, and where RBSEL selects no DBGCTL, a write of RBDATA has no effect. -/
theorem rbdataWrite_idle (h : s.recovery = true ∨ rbContext s.rbsel = none) : exec (.rbdataWrite v) s = .next s := by
  have hs : (if s.recovery then none else rbContext s.rbsel) = none := by
    rcases h with h | h <;> simp [h]
  change execRbdataWrite v s = _
  simp only [execRbdataWrite, hs]

/-- DBGCTL of a context through the read-back port. -/
theorem rbdataWrite_dbgctl (hr : s.recovery = false) {c x : Nat} (h : rbContext s.rbsel = some (c, x)) (hc : coreExists c = true) :
    exec (.rbdataWrite v) s = .next (s.modCtx c x (fun t => t.setDbg v)) := by
  have hs : (if s.recovery then none else rbContext s.rbsel) = some (c, x) := by simp [hr, h]
  change execRbdataWrite v s = _
  simp only [execRbdataWrite, hs, hc, if_true]

/-- The context whose DBGCTL RBSEL names. -/
theorem rbContext_dbgctl {sel : Word} {c x : Nat} (h1 : fld sel 63 56 = 1) (h2 : fld sel 39 0 = 0x105) (hi : fld sel 55 40 = 16 * c + x)
    (hx : x < 16) : rbContext sel = some (c, x) := by
  rw [rbContext, if_pos ⟨h1, h2⟩, hi]
  congr 2 <;> omega

theorem rbContext_none {sel : Word} (h : fld sel 63 56 ≠ 1 ∨ fld sel 39 0 ≠ 0x105) : rbContext sel = none :=
  if_neg (by tauto)

/-- Registers of a context through the read-back port. -/
theorem rbItem_csr {sel : Word} {c x : Nat} (h1 : fld sel 63 56 = 1) (hi : fld sel 55 40 = 16 * c + x) (hx : x < 16)
    (hn : fld sel 39 0 < 0x120) : s.rbItem sel = s.csr c x (fld sel 39 0) := by
  have hc : (16 * c + x) / 16 = c := by omega
  have hm : (16 * c + x) % 16 = x := by omega
  simp only [State.rbItem, h1, hi, if_pos hn, hc, hm]

/-- A partition sees its own items only. -/
theorem rbRead_other {q : Nat} (h : s.rbOwner s.rbsel ≠ some q) : s.rbRead (some q) = 0 := by
  simp [State.rbRead, h]

theorem pf0Read_rbdata : s.pf0Read 0x038 = if s.recovery then none else some (s.rbRead none) := by
  cases h : s.recovery <;> simp [State.pf0Read, h]

end

/-! ### Behind what is left of an earlier write (R377, R385) -/

theorem hostGoOn_of_none {s : State} (h : s.hostRest = none) : s.hostGoOn = s := by
  simp [State.hostGoOn, h]

theorem exec_hostRead (s : State) (p : Nat) (a : Word) (k : Nat) : exec (.hostMemoryAccess p a (.read k)) s =
    if s.hostGoOn.hostRest.isSome then .next s.hostGoOn else orStay s.hostGoOn (s.hostGoOn.hostRead p a k) := rfl
theorem exec_hostWrite (s : State) (p : Nat) (a : Word) (bs : List Byte) : exec (.hostMemoryAccess p a (.write bs)) s =
    if s.hostGoOn.hostRest.isSome then .next s.hostGoOn else .next (s.hostGoOn.hostWrite p a bs) := rfl

/-- What an atomic of the host does where nothing is left of an earlier write. -/
def State.hostAtom (s : State) (p : Nat) (a : Word) (op : HostAtom) : Outcome :=
  let n := hostBytes op
  if !(s.part p).hostOpen a n || (n != 4 && n != 8) || a.toNat % n != 0 then
    .next { s with hostReply := s.hostReply ++ [List.replicate n 0xFF] }
  else if (s.part p).capture.isSome then .next s
  else orWant s p ((s.devAtomic (s.homeDie p a.toNat) p a.toNat n
    (fun old => cellsAt a.toNat (toBytes n (hostNew op (ofBytes old))))).map (fun r =>
      { r.2.2.noRollback p with hostReply := r.2.2.hostReply ++ [r.1] }))

theorem exec_hostAtomic (s : State) (p : Nat) (a : Word) (op : HostAtom) : exec (.hostAtomic p a op) s =
    if s.hostGoOn.hostRest.isSome then .next s.hostGoOn else s.hostGoOn.hostAtom p a op := rfl

/-- Each host access waits behind what is left of an earlier write, and then does what it does without one. -/
theorem hostAccess_waits {s : State} {i : Instr} {F : State → Outcome}
    (hx : ∀ u : State, exec i u = if u.hostGoOn.hostRest.isSome then .next u.hostGoOn else F u.hostGoOn) :
    (s.hostGoOn.hostRest ≠ none → exec i s = .next s.hostGoOn) ∧ (s.hostGoOn.hostRest = none → exec i s = exec i s.hostGoOn) := by
  refine ⟨fun h => ?_, fun h => ?_⟩
  · rw [hx, if_pos (Option.isSome_iff_ne_none.mpr h)]
  · rw [hx, hx s.hostGoOn, hostGoOn_of_none h]

theorem hostRead_waits (s : State) (p : Nat) (a : Word) (k : Nat) :
    (s.hostGoOn.hostRest ≠ none → exec (.hostMemoryAccess p a (.read k)) s = .next s.hostGoOn) ∧
    (s.hostGoOn.hostRest = none → exec (.hostMemoryAccess p a (.read k)) s = exec (.hostMemoryAccess p a (.read k)) s.hostGoOn) :=
  hostAccess_waits (F := fun u => orStay u (u.hostRead p a k)) (fun u => exec_hostRead u p a k)

theorem hostWrite_waits (s : State) (p : Nat) (a : Word) (bs : List Byte) :
    (s.hostGoOn.hostRest ≠ none → exec (.hostMemoryAccess p a (.write bs)) s = .next s.hostGoOn) ∧
    (s.hostGoOn.hostRest = none → exec (.hostMemoryAccess p a (.write bs)) s = exec (.hostMemoryAccess p a (.write bs)) s.hostGoOn) :=
  hostAccess_waits (F := fun u => .next (u.hostWrite p a bs)) (fun u => exec_hostWrite u p a bs)

theorem hostAtomic_waits (s : State) (p : Nat) (a : Word) (op : HostAtom) :
    (s.hostGoOn.hostRest ≠ none → exec (.hostAtomic p a op) s = .next s.hostGoOn) ∧
    (s.hostGoOn.hostRest = none → exec (.hostAtomic p a op) s = exec (.hostAtomic p a op) s.hostGoOn) :=
  hostAccess_waits (F := fun u => u.hostAtom p a op) (fun u => exec_hostAtomic u p a op)

/-! ### The units of a host write -/

theorem putUnits_le (d part : Nat) (clr : Bool) (us : List (Nat × List Byte × Bool)) (s : State) :
    (s.putUnits d part clr us).2 ≤ us.length := by
  induction us generalizing s with
  | nil => exact Nat.le_refl _
  | cons u us ih =>
    obtain ⟨pa, bs, pz⟩ := u
    simp only [State.putUnits]
    split
    · exact Nat.zero_le _
    · exact Nat.succ_le_succ (ih _)

theorem unitsOf_ne_nil {bs : List Byte} (h : bs ≠ []) (pa n : Nat) : unitsOf pa (n + 1) bs ≠ [] := by
  simp [unitsOf, h]

/-- A unit that is left starts at a byte of the range, the first of them all at the range's own start. -/
theorem unitsOf_drop {pa n k : Nat} {bs : List Byte} {u : Nat × List Byte × Bool} {us : List (Nat × List Byte × Bool)}
    (h : (unitsOf pa n bs).drop k = u :: us) : ∃ m, m < bs.length ∧ u.1 = pa + m ∧ (k = 0 → m = 0) := by
  induction n generalizing pa k bs with
  | zero => simp [unitsOf] at h
  | succ n ih =>
    by_cases hb : bs = []
    · simp [unitsOf, hb] at h
    have hlen : 0 < bs.length := List.length_pos_iff.mpr hb
    rw [unitsOf, if_neg (by simpa using hb)] at h
    cases k with
    | zero =>
      rw [List.drop_zero] at h
      obtain ⟨rfl, -⟩ := List.cons.inj h
      exact ⟨0, hlen, rfl, fun _ => rfl⟩
    | succ k =>
      obtain ⟨m, hm, hu, -⟩ := ih h
      rw [List.length_drop] at hm
      exact ⟨64 - pa % 64 + m, by omega, by omega, by omega⟩

/-! ### The mark that an interval cannot be rolled back (R379) -/

theorem bit_eq_getLsbD (w : Word) (k : Nat) : bit w k = w.getLsbD k := by
  rw [bit, BitVec.getLsbD, Nat.testBit_eq_decide_div_mod_eq]

theorem bit_setBit (w : Word) {k : Nat} (hk : k < 64) : bit (setBit w k) k = true := by
  have hset : (w64 (2 ^ k)).getLsbD k = true := by
    rw [w64, BitVec.getLsbD_ofNat, Nat.testBit_two_pow_self]
    simp [hk]
  rw [bit_eq_getLsbD, setBit, BitVec.getLsbD_or, hset, Bool.or_true]

theorem noRollback_marks (s : State) (p : Nat) : bit ((s.noRollback p).part p).ckptctl 10 = true := by
  rw [State.noRollback, State.part_modPart_same]
  exact bit_setBit _ (by decide)

theorem hostRest_wantTight (s : State) (p : Nat) : (s.wantTight p).hostRest = s.hostRest := by
  unfold State.wantTight
  split <;> rfl

theorem ckptctl_wantTight (s : State) (p : Nat) : ((s.wantTight p).part p).ckptctl = (s.part p).ckptctl := by
  unfold State.wantTight
  split
  · rw [State.wantCkpt, State.part_modPart_same]
  · rfl

/-! ### Host accesses (R385) -/

section
variable {s t : State} {p : Nat} {a : Word} {bs : List Byte}

/-- A write all of whose units are applied. -/
theorem hostPut_done {a : Nat} (hb : bs ≠ []) (h : s.devWrite (s.homeDie p a) p a (bs.length + 1) bs = some t) :
    s.hostPut p a bs = t.noRollback p := by
  unfold State.devWrite at h
  simp only at h
  split at h
  · next hlen =>
    cases h
    have hpos : (unitsOf a (bs.length + 1) bs).length ≠ 0 := by simpa using unitsOf_ne_nil hb a bs.length
    simp only [State.hostPut, hlen, if_neg hpos, List.drop_length]
  · cases h

/-- A write of which a unit must wait: the units from it on are left. -/
theorem hostPut_left {a : Nat} (h : s.devWrite (s.homeDie p a) p a (bs.length + 1) bs = none) :
    ∃ n, n < bs.length ∧ (s.hostPut p a bs).hostRest = some (p, a + n, bs.drop n) ∧
      (0 < n → bit ((s.hostPut p a bs).part p).ckptctl 10 = true) := by
  have hle := putUnits_le (s.homeDie p a) p false (unitsOf a (bs.length + 1) bs) s
  unfold State.devWrite at h
  simp only at h
  split at h
  · cases h
  next hlen =>
  unfold State.hostPut
  simp only
  split
  · next hd =>
    have := List.drop_eq_nil_iff.mp hd
    omega
  · next u us hd =>
    obtain ⟨n, hn, hu, hk⟩ := unitsOf_drop hd
    have hsub : u.1 - a = n := by omega
    refine ⟨n, hn, by rw [hostRest_wantTight, hsub, hu], fun hpos => ?_⟩
    rw [ckptctl_wantTight]
    rw [if_neg (fun h0 => by have := hk h0; omega)]
    exact noRollback_marks _ p

variable (hr : s.hostRest = none)
include hr

theorem exec_hostRead_idle (k : Nat) : exec (.hostMemoryAccess p a (.read k)) s = orStay s (s.hostRead p a k) := by
  rw [exec_hostRead, hostGoOn_of_none hr, hr]; rfl

theorem exec_hostWrite_idle : exec (.hostMemoryAccess p a (.write bs)) s = .next (s.hostWrite p a bs) := by
  rw [exec_hostWrite, hostGoOn_of_none hr, hr]; rfl

theorem exec_hostAtomic_idle (op : HostAtom) : exec (.hostAtomic p a op) s = s.hostAtom p a op := by
  rw [exec_hostAtomic, hostGoOn_of_none hr, hr]; rfl

/-- A read that leaves the open windows is an Unsupported Request. -/
theorem hostRead_closed {k : Nat} (h : (s.part p).hostOpen a k = false) :
    exec (.hostMemoryAccess p a (.read k)) s = .next { s with hostReply := s.hostReply ++ [List.replicate k 0xFF] } := by
  simp [exec_hostRead_idle hr, State.hostRead, h, orStay]

theorem hostRead_open {k : Nat} {pz : Bool} (h : (s.part p).hostOpen a k = true)
    (hd : s.devRead (s.homeDie p a.toNat) p a.toNat (k + 1) k = some (bs, pz, t)) :
    exec (.hostMemoryAccess p a (.read k)) s = .next { t with hostReply := t.hostReply ++ [bs] } := by
  simp [exec_hostRead_idle hr, State.hostRead, h, hd, orStay]

theorem hostWrite_closed (h : (s.part p).hostOpen a bs.length = false ∨ (s.part p).capture.isSome = true) :
    exec (.hostMemoryAccess p a (.write bs)) s = .next s := by
  rw [exec_hostWrite_idle hr, State.hostWrite, if_pos (by simpa using h)]

theorem hostWrite_open (h : (s.part p).hostOpen a bs.length = true) (hc : (s.part p).capture = none) :
    exec (.hostMemoryAccess p a (.write bs)) s = .next (s.hostPut p a.toNat bs) := by
  rw [exec_hostWrite_idle hr, State.hostWrite, if_neg (by simp [h, hc])]

/-- An atomic outside the open windows, of another size than 4 or 8, or out of alignment, is an Unsupported Request. -/
theorem hostAtomic_closed {op : HostAtom} (h : (s.part p).hostOpen a (hostBytes op) = false ∨ (hostBytes op ≠ 4 ∧ hostBytes op ≠ 8) ∨
    a.toNat % hostBytes op ≠ 0) :
    exec (.hostAtomic p a op) s = .next { s with hostReply := s.hostReply ++ [List.replicate (hostBytes op) 0xFF] } := by
  rw [exec_hostAtomic_idle hr, State.hostAtom, if_pos (by simpa [or_assoc] using h)]

theorem hostAtomic_open {op : HostAtom} {pz : Bool} (h : (s.part p).hostOpen a (hostBytes op) = true)
    (hn : hostBytes op = 4 ∨ hostBytes op = 8) (hal : a.toNat % hostBytes op = 0) (hc : (s.part p).capture = none)
    (hd : s.devAtomic (s.homeDie p a.toNat) p a.toNat (hostBytes op)
      (fun old => cellsAt a.toNat (toBytes (hostBytes op) (hostNew op (ofBytes old)))) = some (bs, pz, t)) :
    exec (.hostAtomic p a op) s = .next { t.noRollback p with hostReply := t.hostReply ++ [bs] } := by
  have hn' : ¬(hostBytes op ≠ 4 ∧ hostBytes op ≠ 8) := by omega
  rw [exec_hostAtomic_idle hr, State.hostAtom, if_neg (by simpa [h, hal, imp_iff_not_or, or_comm] using hn), if_neg (by simp [hc]), hd]
  rfl

end

end Sys2Proof.Machine
end

section
/-!
PROOFS. Modules, mailbox and power-on, R249, R346, R355, R386, R390, R391: a module loaded and called, the answers of a built function, and the
partitions and stacks that the boot step leaves; O54.
-/

namespace Sys2Proof.Machine

/-! ### Runs of bytes -/

/-- Bytes that read as those of a list are that list. -/
theorem Mem.readN_eq (m : Mem) (a : Nat) (bs : List Byte) (h : ∀ i, i < bs.length → m.read (a + i) = nth 0 bs i) :
    m.readN a bs.length = bs := by
  induction bs generalizing a with
  | nil => rfl
  | cons b bs ih =>
    have hb : m.read a = b := h 0 (Nat.succ_pos _)
    have hbs : m.readN (a + 1) bs.length = bs := ih (a + 1) (fun i hi => by
      have := h (i + 1) (Nat.succ_lt_succ hi)
      rwa [show a + (i + 1) = a + 1 + i by omega] at this)
    rw [List.length_cons, Mem.readN, hb, hbs]

theorem Mem.readN_writeN (m : Mem) (hm : m.wf = true) (a : Nat) (bs : List Byte) : (m.writeN a bs).readN a bs.length = bs :=
  Mem.readN_eq _ _ _ (fun i hi => by rw [Mem.read_writeN bs m a hm, if_pos (by omega), Nat.add_sub_cancel_left])

@[simp] theorem length_toBytes (n v : Nat) : (toBytes n v).length = n := by
  induction n generalizing v with
  | zero => rfl
  | succ n ih => simp [toBytes, ih]

/-- Words written one after another take eight bytes each. -/
theorem length_wordBytes (ws : List Word) : (ws.flatMap (fun w => toBytes 8 w.toNat)).length = 8 * ws.length := by
  induction ws with
  | nil => rfl
  | cons w ws ih => simp [List.flatMap_cons, ih]; omega

/-! ### Firmware modules (R249, R252, R346, R386) -/

/-- Keys below a bound set in order. -/
theorem tget_foldl_tput {α : Type} (d : α) (F : Nat → α) (t : Table α) (n y : Nat) :
    tget d ((List.range n).foldl (fun t x => tput t x (F x)) t) y = if y < n then F y else tget d t y := by
  induction n with
  | zero => rfl
  | succ n ih =>
    rw [List.range_succ, List.foldl_append]
    simp only [List.foldl_cons, List.foldl_nil, tget_tput, ih]
    by_cases h : y = n
    · subst h; simp
    · by_cases hy : y < n
      · simp [h, hy, Nat.lt_succ_of_lt hy]
      · simp [h, hy, show ¬y < n + 1 by omega]

section
variable (k : Core) (ctr die part : Nat) (img : ModImage) (evs : List Ev)

/-- Context 0 is called. -/
theorem ctx_loaded_zero : (k.loaded ctr die part img evs).ctx 0 =
    { ({ (k.ctx 0).freed with partid := part } : Ctx).called ctr img.base with events := evs } := by
  simp [Core.ctx, Core.loaded]

/-- The other contexts are free and act for the module's partition. -/
theorem ctx_loaded_other {y : Nat} (h0 : 0 < y) (hy : y < 16) :
    (k.loaded ctr die part img evs).ctx y = { (k.ctx y).freed with partid := part } := by
  have hne : y ≠ 0 := by omega
  change tget Ctx.reset (tput _ 0 _) y = _
  rw [tget_tput_ne _ _ _ _ _ hne, tget_foldl_tput, if_pos hy]

end

theorem called_regs (t : Ctx) (ctr : Nat) (base : Word) :
    tget GVal.zero (t.called ctr base).g 29 = ⟨base, true⟩ ∧ tget GVal.zero (t.called ctr base).g 30 = ⟨fwReturn, true⟩ := by
  simp [Ctx.called, tget_tput]

/-- What a write of MODCTL leaves of MODCTL. -/
def modctlOf (v : Word) : Word := (v &&& 0x1F3) ||| 0x100

section
variable {s : State} (v : Word) (img : ModImage)

theorem modctlGo_busy (ok : Bool) (h : s.modstat = 1) : exec (.modctlGo v img ok) s = .next s := if_pos h

variable (h : s.modstat ≠ 1)
include h

theorem modctlGo_refused : exec (.modctlGo v img false) s = .next { s with modctl := modctlOf v, modstat := 3 } := if_neg h

theorem modctlGo_recovery (hr : s.recovery = true) :
    exec (.modctlGo v img true) s = .next { s with modctl := modctlOf v, modstat := 2, recovery := false } :=
  (if_neg h).trans (if_pos hr)

/-- Whether an event waits for a partition's state, or for the provider's. -/
def eventDueFor (part : Nat) (e : Nat × Ev) : Bool := e.1 == part || e.1 == 16

/-- The state with a module of die `die` in the firmware's memory, and its waiting events taken up. -/
def State.moduleKept (s : State) (v : Word) (img : ModImage) : State :=
  { s with
    modctl := modctlOf v, fwMem := s.fwMem.writeN (modHome (fld v 1 0)) img.bytes, modstat := 1
    modMeas := measured s.freeCtr 9 }.modDie (fld v 1 0) (fun d => { d with waiting := d.waiting.filter (fun e => !eventDueFor (fld v 7 4) e) })

theorem modctlGo_loaded (hr : s.recovery = false) : exec (.modctlGo v img true) s = .next
    (((s.moduleKept v img).modCore (atelierCore (fld v 1 0)) (fun k => k.loaded s.freeCtr (fld v 1 0) (fld v 7 4)
      { img with base := img.base &&& ~~~0xFFF }
      (((s.die (fld v 1 0)).waiting.filter (eventDueFor (fld v 7 4))).map (·.2)))).freeNext) :=
  (if_neg h).trans (if_neg (fun hc => Bool.false_ne_true (hr.symm.trans hc)))

end

/-- A MODULE LOADED AND CALLED: the image in the firmware's memory, context 0 of the die's Atelier core at the module's base with the events that
waited, the other contexts free, every other core as it was. -/
theorem modctlGo_calls {s : State} (v : Word) (img : ModImage) (h : s.modstat ≠ 1) (hr : s.recovery = false) (hm : s.fwMem.wf = true) :
    Makes (.modctlGo v img true) s (fun w =>
      let c := atelierCore (fld v 1 0)
      let base := img.base &&& ~~~0xFFF
      w.modctl = modctlOf v ∧ w.modstat = 1 ∧ w.fwMem.readN (fld v 1 0 * 2 ^ 40) img.bytes.length = img.bytes ∧
      (∀ b, b < fld v 1 0 * 2 ^ 40 ∨ fld v 1 0 * 2 ^ 40 + img.bytes.length ≤ b → w.fwMem.read b = s.fwMem.read b) ∧
      (w.ctx c 0).state = .running ∧ (w.ctx c 0).pc = base ∧ tget GVal.zero (w.ctx c 0).g 29 = ⟨base, true⟩ ∧
      tget GVal.zero (w.ctx c 0).g 30 = ⟨fwReturn, true⟩ ∧ (∀ y, y < 16 → (w.ctx c y).partid = fld v 7 4) ∧
      (w.ctx c 0).events = ((s.die (fld v 1 0)).waiting.filter (fun e => e.1 == fld v 7 4 || e.1 == 16)).map (fun e => e.2) ∧
      (w.die (fld v 1 0)).waiting = (s.die (fld v 1 0)).waiting.filter (fun e => !(e.1 == fld v 7 4 || e.1 == 16)) ∧
      (∀ y, 0 < y → y < 16 → (w.ctx c y).state = .free) ∧ ∀ d, d ≠ c → w.core d = s.core d) := by
  refine ⟨_, modctlGo_loaded v img h hr, ?_⟩
  beta_reduce
  intro c base
  generalize hw : State.freeNext _ = w
  have hctx : ∀ y, w.ctx c y = ((s.core c).loaded s.freeCtr (fld v 1 0) (fld v 7 4) { img with base := base }
      (((s.die (fld v 1 0)).waiting.filter (eventDueFor (fld v 7 4))).map (·.2))).ctx y := fun y => by
    subst hw
    rw [State.ctx_freeNext, State.ctx, State.core_modCore_same]
    rfl
  have h0 : w.ctx c 0 = _ := (hctx 0).trans (ctx_loaded_zero ..)
  have hy : ∀ y, 0 < y → y < 16 → w.ctx c y = { ((s.core c).ctx y).freed with partid := fld v 7 4 } := fun y h1 h2 =>
    (hctx y).trans (ctx_loaded_other _ _ _ _ _ _ h1 h2)
  obtain ⟨hg1, hg2⟩ := called_regs { ((s.core c).ctx 0).freed with partid := fld v 7 4 } s.freeCtr base
  refine ⟨?_, ?_, ?_, fun b hb => ?_, by rw [h0]; rfl, by rw [h0]; rfl, by rw [h0]; exact hg1, by rw [h0]; exact hg2, fun y hlt => ?_,
    by rw [h0]; rfl, ?_, fun y h1 h2 => by rw [hy y h1 h2]; rfl, fun d hd => ?_⟩
  · subst hw; rfl
  · subst hw; rfl
  · subst hw; exact Mem.readN_writeN _ hm _ _
  · subst hw
    change (s.fwMem.writeN _ _).read b = _
    rw [Mem.read_writeN _ _ _ hm, if_neg (by simp only [modHome]; omega)]
  · rcases Nat.eq_zero_or_pos y with rfl | hpos
    · rw [h0]; rfl
    · rw [hy y hpos hlt]
  · subst hw
    rw [State.die_freeNext, State.die_modCore, State.moduleKept, State.die_modDie_same]
    rfl
  · subst hw
    rw [State.core_freeNext, State.core_modCore_ne _ _ _ _ hd]
    rfl

/-! ### The mailbox (R391) -/

/-- A function that is not built answers nothing. -/
theorem spdm_unbuilt {s : State} {vf : Nat} (h : s.booted = false ∨ vf = 0 ∨ 16 < vf ∨ (s.part (vf - 1)).present = false) (code : Nat)
    (body : List Byte) : s.spdm vf code body = s := by
  rw [State.spdm, if_pos (by simpa [or_assoc] using h)]

/-- A built function's answer begins with what was asked for, and nothing else changes. -/
theorem spdm_built {s : State} {vf : Nat} (hb : s.booted = true) (h1 : 1 ≤ vf) (h2 : vf ≤ 16) (hp : (s.part (vf - 1)).present = true)
    (code : Nat) (body : List Byte) : ∃ rest, s.spdm vf code body = { s.freeNext with doe := s.doe ++ [(vf, code, body ++ rest)] } := by
  have hn : ¬(vf = 0 ∨ 16 < vf) := by omega
  exact ⟨_, if_neg (by simpa [hb, hp] using hn)⟩

/-- A request of the mailbox with its code. -/
def IsSpdmAsk (vf : Nat) (q : Instr × Nat) : Prop :=
  q ∈ ([(.getVersion vf, 10), (.getCapabilities vf, 11), (.negotiateAlgorithms vf, 12), (.getDigests vf, 13), (.getCertificate vf, 14),
    (.challenge vf, 15), (.getMeasurements vf, 16)] : List (Instr × Nat))

/-- The measurements of the function's partition, slots 1 to 3. -/
def State.measurements (s : State) (vf : Nat) : List Byte :=
  tget [] (s.part (vf - 1)).meas 1 ++ tget [] (s.part (vf - 1)).meas 2 ++ tget [] (s.part (vf - 1)).meas 3

theorem exec_getMeasurements (s : State) (vf : Nat) : exec (.getMeasurements vf) s = .next (s.spdm vf 16 (s.measurements vf)) := rfl

theorem exec_spdmAsk (s : State) {vf : Nat} {q : Instr × Nat} (hq : IsSpdmAsk vf q) :
    ∃ body, exec q.1 s = .next (s.spdm vf q.2 body) := by
  simp only [IsSpdmAsk, List.mem_cons, List.not_mem_nil, or_false] at hq
  rcases hq with rfl | rfl | rfl | rfl | rfl | rfl | rfl
  on_goal 7 => exact ⟨_, exec_getMeasurements s vf⟩
  all_goals exact ⟨[], rfl⟩

/-- An answer leaves cores, partitions and memory as they were. -/
theorem spdmAsk_answers {s : State} {vf : Nat} (hb : s.booted = true) (h1 : 1 ≤ vf) (h2 : vf ≤ 16) (hp : (s.part (vf - 1)).present = true) :
    ∀ q, IsSpdmAsk vf q → Makes q.1 s (fun w => (∃ ans, w.doe = s.doe ++ [(vf, q.2, ans)]) ∧ w.cores = s.cores ∧ w.parts = s.parts ∧
      SameMemory s w) := fun q hq => by
  obtain ⟨body, hx⟩ := exec_spdmAsk s hq
  obtain ⟨rest, hs⟩ := spdm_built hb h1 h2 hp q.2 body
  exact ⟨_, hx.trans (congrArg _ hs), ⟨body ++ rest, rfl⟩, rfl, rfl, SameMemory.of_eq (fun _ => rfl) rfl (fun _ => rfl) rfl rfl⟩

theorem getMeasurements_answers {s : State} {vf : Nat} (hb : s.booted = true) (h1 : 1 ≤ vf) (h2 : vf ≤ 16)
    (hp : (s.part (vf - 1)).present = true) :
    Makes (.getMeasurements vf) s (fun w => ∃ rest, w.doe = s.doe ++ [(vf, 16, s.measurements vf ++ rest)]) := by
  obtain ⟨rest, hs⟩ := spdm_built hb h1 h2 hp 16 (s.measurements vf)
  exact ⟨_, (exec_getMeasurements s vf).trans (congrArg _ hs), rest, rfl⟩

end Sys2Proof.Machine
end

section
/-!
PROOFS. Power-on, R242, R316, R355, R356, R358, R390: a partition as its layout builds it, the maps of the stacks of which two partitions, or one
and none, have the halves, and what the boot step leaves.
-/

namespace Sys2Proof.Machine

/-! ### A partition as the layout builds it -/

/-- The windows of a layout change the windows only. -/
theorem withWindows_eq (p : Part) (ws : List Word) : ∃ dk, p.withWindows ws = { p with deckle := dk } := by
  unfold Part.withWindows
  induction (List.range (Nat.min 16 ws.length)) generalizing p with
  | nil => exact ⟨p.deckle, rfl⟩
  | cons i l ih =>
    rw [List.foldl_cons]
    split
    · exact ih p
    · exact (ih _).imp (fun _ h => h)

/-- One window that no rule refuses stands, with its zero fields. -/
theorem withWindows_one {p : Part} {d : Word} (h : p.deckleRefused 0 d = false) :
    p.withWindows [d] = { p with deckle := tput p.deckle 0 (d &&& deckleMask) } :=
  if_neg (by simpa [nth] using h)

/-- A page of a layout changes the dispatch set only. -/
theorem withPage_eq (p : Part) (e : PageInit) : ∃ ds, p.withPage e = { p with dset := ds } := by
  unfold Part.withPage
  simp only
  split
  · exact ⟨_, rfl⟩
  · exact ⟨p.dset, rfl⟩

theorem withPages_eq (l : List PageInit) (p : Part) : ∃ ds, l.foldl Part.withPage p = { p with dset := ds } := by
  induction l generalizing p with
  | nil => exact ⟨p.dset, rfl⟩
  | cons e l ih =>
    obtain ⟨ds, h⟩ := withPage_eq p e
    rw [List.foldl_cons, h]
    exact (ih _).imp (fun _ h => h)

/-- A page taken into an empty dispatch set: there where TBW would take it. -/
theorem dset_withPage (p : Part) (e : PageInit) (h : p.dset = []) :
    (p.withPage e).dset = if fld e.va 63 57 = 0 ∧ entryValid e.word = true ∧ e.va.toNat % (⟨e.va.toNat, e.word, false⟩ : TbEntry).size = 0
      then [⟨e.va.toNat, e.word, false⟩] else [] := by
  simp only [Part.withPage, h, List.filter_nil, List.length_nil, List.nil_append]
  by_cases hc : fld e.va 63 57 = 0 ∧ entryValid e.word = true ∧ e.va.toNat % (⟨e.va.toNat, e.word, false⟩ : TbEntry).size = 0
  · rw [if_pos hc, if_pos (by simpa [and_assoc] using hc)]
  · rw [if_neg hc, if_neg (by simpa [and_assoc] using hc)]
    exact h

/-- What a layout sets of a partition before its windows, roles and pages. -/
def Part.laidOut (l : PartLayout) (ctr now : Nat) : Part :=
  { Part.reset with
    present := true, bands := l.bands, halves := l.halves, share := l.share, ports := l.ports, link := l.link % 2
    svcvec := l.svcvec &&& ~~~3, stackright := l.stackright, sys := Mem.writeN [] 0x1000 (l.header.flatMap (fun w => toBytes 8 w.toNat))
    exportBase := l.exportBase, exportLen := l.exportLen, exportPa := l.exportPa.toNat
    collective := l.collective.map (fun e => (e.1, e.2.1.toNat)), lastCensus := now
    meas := [(1, measured ctr 1), (2, measured (ctr + l.num) 2), (3, measured (ctr + l.num) 3)] }

/-- A partition without roles: what the layout sets, its windows, its pages and the first checkpoint. -/
theorem built_eq (l : PartLayout) (hr : l.roles = []) (ctr now : Nat) : ∃ ck, Part.built l ctr now =
    { l.pages.foldl Part.withPage ((Part.laidOut l ctr now).withWindows l.windows) with ckpt := ck } := by
  unfold Part.built
  rw [hr]
  exact ⟨_, rfl⟩

/-- The same by its parts: all but the windows, the dispatch set and the checkpoint is as the layout sets it. -/
theorem built_parts (l : PartLayout) (hr : l.roles = []) (ctr now : Nat) : ∃ dk ds ck, Part.built l ctr now =
    { Part.laidOut l ctr now with deckle := dk, dset := ds, ckpt := ck } := by
  obtain ⟨ck, h⟩ := built_eq l hr ctr now
  obtain ⟨dk, h1⟩ := withWindows_eq (Part.laidOut l ctr now) l.windows
  obtain ⟨ds, h2⟩ := withPages_eq l.pages ((Part.laidOut l ctr now).withWindows l.windows)
  exact ⟨dk, ds, ck, by rw [h, h2, h1]⟩

theorem deckle_built {l : PartLayout} (hr : l.roles = []) {d : Word} (hw : l.windows = [d])
    (h : ({ Part.reset with halves := l.halves } : Part).deckleRefused 0 d = false) (ctr now : Nat) :
    tget 0 (Part.built l ctr now).deckle 0 = d &&& deckleMask := by
  obtain ⟨ck, hb⟩ := built_eq l hr ctr now
  obtain ⟨ds, hp⟩ := withPages_eq l.pages ((Part.laidOut l ctr now).withWindows l.windows)
  rw [hb, hp, hw, withWindows_one (p := Part.laidOut l ctr now) h]
  exact tget_tput_same ..

theorem dset_built {l : PartLayout} (hr : l.roles = []) {e : PageInit} (hp : l.pages = [e]) (ctr now : Nat) :
    (Part.built l ctr now).dset =
      if fld e.va 63 57 = 0 ∧ entryValid e.word = true ∧ e.va.toNat % (⟨e.va.toNat, e.word, false⟩ : TbEntry).size = 0
      then [⟨e.va.toNat, e.word, false⟩] else [] := by
  obtain ⟨ck, hb⟩ := built_eq l hr ctr now
  obtain ⟨dk, hw⟩ := withWindows_eq (Part.laidOut l ctr now) l.windows
  rw [hb, hp, List.foldl_cons, List.foldl_nil]
  exact dset_withPage _ e (by rw [hw]; rfl)

/-- The header words of a layout stand in the system area. -/
theorem sys_laidOut (l : PartLayout) (ctr now : Nat) :
    (Part.laidOut l ctr now).sys.readN 0x1000 (8 * l.header.length) = l.header.flatMap (fun w => toBytes 8 w.toNat) := by
  rw [← length_wordBytes]
  exact Mem.readN_writeN [] Mem.wf_nil _ _

/-! ### Stacks whose halves do not belong to one partition (R355, R356) -/

/-- A stack given the map of two domains where its halves are not of one partition. -/
def State.splitStack (s : State) (n : Nat) : State :=
  if s.halfOwner (2 * n) = s.halfOwner (2 * n + 1) then s
  else s.modStack n (fun k => { k with dmap := .halves, req := .halves, inForce := .halves })

theorem splitStacks_eq (s : State) : s.splitStacks = (List.range 8).foldl State.splitStack s := rfl

/-- Only stacks change. -/
theorem splitStack_foldl_keeps (l : List Nat) (s : State) :
    let t := l.foldl State.splitStack s
    t.booted = s.booted ∧ t.portsTrained = s.portsTrained ∧ t.parts = s.parts ∧ t.cores = s.cores := by
  induction l generalizing s with
  | nil => exact ⟨rfl, rfl, rfl, rfl⟩
  | cons n l ih =>
    have hn : (s.splitStack n).booted = s.booted ∧ (s.splitStack n).portsTrained = s.portsTrained ∧ (s.splitStack n).parts = s.parts ∧
        (s.splitStack n).cores = s.cores := by
      unfold State.splitStack
      split <;> exact ⟨rfl, rfl, rfl, rfl⟩
    obtain ⟨h1, h2, h3, h4⟩ := hn
    obtain ⟨k1, k2, k3, k4⟩ := ih (s.splitStack n)
    exact ⟨k1.trans h1, k2.trans h2, k3.trans h3, k4.trans h4⟩

theorem splitStacks_keeps (s : State) : s.splitStacks.booted = s.booted ∧ s.splitStacks.portsTrained = s.portsTrained ∧
    s.splitStacks.parts = s.parts ∧ s.splitStacks.cores = s.cores := by
  rw [splitStacks_eq]
  exact splitStack_foldl_keeps _ s

/-- A stack that has two domains keeps them. -/
theorem inForce_splitStack_foldl {l : List Nat} {s : State} {n : Nat} (h : (s.stack n).inForce = .halves) :
    ((l.foldl State.splitStack s).stack n).inForce = .halves := by
  induction l generalizing s with
  | nil => exact h
  | cons m l ih =>
    refine ih ?_
    unfold State.splitStack
    split
    · exact h
    · by_cases hn : n = m
      · subst hn; rw [State.stack_modStack_same]
      · rw [State.stack_modStack_ne _ _ _ _ hn]; exact h

theorem halfOwner_splitStack (s : State) (n h : Nat) : (s.splitStack n).halfOwner h = s.halfOwner h := by
  unfold State.splitStack
  split <;> rfl

/-- Each stack of the list whose halves have different owners has two domains. -/
theorem inForce_splitStacks {l : List Nat} {s : State} {n : Nat} (hn : n ∈ l) (h : s.halfOwner (2 * n) ≠ s.halfOwner (2 * n + 1)) :
    ((l.foldl State.splitStack s).stack n).inForce = .halves := by
  induction l generalizing s with
  | nil => cases hn
  | cons m l ih =>
    by_cases hm : n = m
    · subst hm
      refine inForce_splitStack_foldl (l := l) (s := s.splitStack n) ?_
      unfold State.splitStack
      rw [if_neg h, State.stack_modStack_same]
    · exact ih ((List.mem_cons.mp hn).resolve_left hm) (by rwa [halfOwner_splitStack, halfOwner_splitStack])

/-- With one partition, a half-stack is its own or nobody's. -/
theorem halfOwner_isSome {s : State} {q : Nat} (hq : q < 16) (hp : (s.part q).present = true)
    (ho : ∀ y, y < 16 → y ≠ q → (s.part y).present = false) (h : Nat) : (s.halfOwner h).isSome = (s.part q).hasHalf h := by
  rw [State.halfOwner, Bool.eq_iff_iff, List.find?_isSome]
  simp only [List.mem_range, Bool.and_eq_true]
  refine ⟨fun ⟨y, hy, hpy, hh⟩ => ?_, fun hh => ⟨q, hq, hp, hh⟩⟩
  by_cases hyq : y = q
  · exact hyq ▸ hh
  · rw [ho y hy hyq] at hpy; cases hpy

/-! ### The boot step (R390) -/

/-- The state in which the firmware builds the partitions. -/
def State.trained (s : State) : State := { s with booted := true, portsTrained := true }

theorem powerOn_again (s : State) (lay : List PartLayout) (ok : Bool) (h : s.booted = true ∨ s.recovery = true) :
    exec (.powerOn lay ok) s = .next s := if_pos (by simpa using h)

section
variable {s : State} (hb : s.booted = false) (hr : s.recovery = false)
include hb hr

theorem powerOn_failed (lay : List PartLayout) : exec (.powerOn lay false) s = .next { s with recovery := true } :=
  if_neg (by simp [hb, hr])

theorem powerOn_builds (l : PartLayout) :
    exec (.powerOn [l] true) s = .next { (s.trained.build l).splitStacks with freeCtr := s.freeCtr + 17 } :=
  if_neg (by simp [hb, hr])

end

/-- A layout that R355 rules out is not built. -/
theorem build_refused {s : State} {l : PartLayout} (h : s.layoutOk l = false) : s.build l = s := if_pos (by simp [h])

/-- A layout without roles and groups puts its partition in place and nothing else. -/
theorem build_plain {s : State} {l : PartLayout} (h : s.layoutOk l = true) (hr : l.roles = []) (hc : l.collective = []) :
    s.build l = s.setPart l.num (Part.built l s.freeCtr s.now) := by
  have hroles : ((s.setPart l.num (Part.built l s.freeCtr s.now)).part l.num).roles = [] := by
    obtain ⟨dk, ds, ck, hb⟩ := built_parts l hr s.freeCtr s.now
    rw [State.part_setPart_same, hb]; rfl
  unfold State.build
  rw [if_neg (by simp [h])]
  simp only [hroles, hc, List.foldl_nil]

/-- A layout that can be built has a free number below 16. -/
theorem layoutOk_num {s : State} {l : PartLayout} (h : s.layoutOk l = true) : l.num < 16 ∧ (s.part l.num).present = false := by
  simp only [State.layoutOk, Bool.and_eq_true, decide_eq_true_eq, Bool.not_eq_true'] at h
  tauto

/-! ### O54 -/

/-- Bit n of a number, as a word's half-stack map is read. -/
theorem hasHalf_eq_nbit (p : Part) (h : Nat) : p.hasHalf h = nbit p.halves.toNat h := by
  rw [Part.hasHalf, nbit, BitVec.getLsbD, Nat.testBit_eq_decide_div_mod_eq]

/-- A layout that cannot be built leaves the partitions as they are. -/
theorem powerOn_refused {s : State} {l : PartLayout} (hb : s.booted = false) (hr : s.recovery = false) (h : s.layoutOk l = false) :
    Makes (.powerOn [l] true) s (fun w => w.booted = true ∧ w.parts = s.parts ∧ w.cores = s.cores) := by
  obtain ⟨hboot, -, hparts, hcores⟩ := splitStacks_keeps s.trained
  refine ⟨_, powerOn_builds hb hr l, ?_⟩
  rw [build_refused (s := s.trained) h]
  generalize s.trained.splitStacks = w at hboot hparts hcores ⊢
  exact ⟨hboot, hparts, hcores⟩

/-- A PARTITION BUILT AT POWER-ON: as its layout sets it, beside the others, and the stacks of which it has one half with two domains. -/
theorem powerOn_built {s : State} {l : PartLayout} (hb : s.booted = false) (hr : s.recovery = false) (h : s.layoutOk l = true)
    (hroles : l.roles = []) (hgroups : l.collective = []) : ∃ w, exec (.powerOn [l] true) s = .next w ∧
      w.booted = true ∧ w.portsTrained = true ∧ w.cores = s.cores ∧ (∀ q, q ≠ l.num → w.part q = s.part q) ∧
      w.part l.num = Part.built l s.freeCtr s.now ∧
      ((∀ y, y < 16 → (s.part y).present = false) → ∀ n, n < 8 → nbit l.halves.toNat (2 * n) ≠ nbit l.halves.toNat (2 * n + 1) →
        (w.stack n).inForce = .halves) := by
  refine ⟨_, powerOn_builds hb hr l, ?_⟩
  rw [build_plain (s := s.trained) h hroles hgroups]
  generalize hu : s.trained.setPart l.num (Part.built l s.trained.freeCtr s.trained.now) = u
  have hpart : u.part l.num = Part.built l s.freeCtr s.now := by subst hu; exact State.part_setPart_same ..
  have hother : ∀ q, q ≠ l.num → u.part q = s.part q := fun q hq => by subst hu; exact State.part_setPart_ne _ _ _ _ hq
  have hstack : ∀ n, n < 8 → u.halfOwner (2 * n) ≠ u.halfOwner (2 * n + 1) → (u.splitStacks.stack n).inForce = .halves :=
    fun n hn hne => by rw [splitStacks_eq]; exact inForce_splitStacks (List.mem_range.mpr hn) hne
  obtain ⟨hboot, htrain, hparts, hcores⟩ := splitStacks_keeps u
  generalize u.splitStacks = w at hboot htrain hparts hcores hstack ⊢
  refine ⟨hboot.trans (by subst hu; rfl), htrain.trans (by subst hu; rfl), hcores.trans (by subst hu; rfl), fun q hq => ?_, ?_,
    fun hnone n hn hbits => ?_⟩
  · rw [← hother q hq]; simp only [State.part, hparts]
  · rw [← hpart]; simp only [State.part, hparts]
  · refine hstack n hn (fun heq => hbits ?_)
    obtain ⟨hnum, -⟩ := layoutOk_num h
    obtain ⟨dk, ds, ck, hbuilt⟩ := built_parts l hroles s.freeCtr s.now
    have hp : (u.part l.num).present = true := by rw [hpart, hbuilt]; rfl
    have hhalf : ∀ i, (u.halfOwner i).isSome = nbit l.halves.toNat i := fun i => by
      rw [halfOwner_isSome hnum hp (fun y hy hne => by rw [hother y hne]; exact hnone y hy), hasHalf_eq_nbit, hpart, hbuilt]
      rfl
    rw [← hhalf, ← hhalf, heq]

/-- Settles O54: each event of the platform by the lemma of what it does. -/
theorem thePlatformActs : Obligations.ThePlatformActs := by
  unfold Obligations.ThePlatformActs
  intro s t p vf c x k v a ok b1 b2 bs img l op P
  refine ⟨ringWrite_closed v, fun hp => ?ringRead, fun hp hc => ?ringWrite, fun hr => ?recoveryWrite, fun hr => ?registers, fun hr => ?recoveryRead,
    fun h => ?exportUnits, rfl, rfl, ?hostWaits, fun hr h => hostRead_closed hr h, fun hr h => hostWrite_closed hr h,
    fun pz hr ho hd => hostRead_open hr ho hd, fun hr ho hc hb => ⟨fun hd => ?hostWritten, fun hd => ?hostLeft⟩, ?hostAtomic, modctlGo_busy v img ok,
    fun hm => ⟨modctlGo_refused v img hm, modctlGo_recovery v img hm, modctlGo_calls v img hm⟩, ?mailbox, powerOn_again s [l] ok,
    fun hb hr => ⟨powerOn_failed hb hr [l], powerOn_refused hb hr, fun h hroles hgroups => ?built⟩⟩
  case ringRead =>
    obtain ⟨h0, h8, h20⟩ := bar0Read_present hp
    exact ⟨h0, h8, h20, fun n hn => bar0Read_size hp hn _, fun n hn => bar0Read_elsewhere hn _ _⟩
  case ringWrite =>
    have ho := hostOpenReg_open hp hc
    simp only [exec_crbaseWrite, exec_crsizeWrite, exec_crheadWrite, ho, if_true, and_self]
  case recoveryWrite =>
    simp [exec_pwrcapWrite, exec_devnumsetWrite, rbdataWrite_idle v (.inl hr), hr]
  case registers =>
    refine ⟨fun h => pwrcapWrite_clamps v hr (n := 1000) (by omega), fun h => pwrcapWrite_clamps v hr (n := 3800) (by omega), fun h1 h2 => ?_,
      fun h => ?_, fun h => ?_, fun h1 h2 hi hx hc => ?_, fun h => rbdataWrite_idle v (.inr (rbContext_none h)), ?_,
      fun q hq => rbRead_other hq, fun n h1 hi hx hn hlt => ?_⟩
    · rw [pwrcapWrite_clamps v hr (n := v.toNat) (by omega), w64, BitVec.ofNat_toNat, BitVec.setWidth_eq]
    · simp [exec_devnumsetWrite, hr, h]
    · simp [exec_devnumsetWrite, hr, h]
    · exact ⟨_, rbdataWrite_dbgctl v hr (rbContext_dbgctl h1 h2 hi hx) hc, CtxOnly.modCtx s c x _, by rw [State.ctx_modCtx_same]; rfl⟩
    · simp [pf0Read_rbdata, hr]
    · subst hn; exact rbItem_csr h1 hi hx hlt
  case recoveryRead => simp [pf0Read_rbdata, hr]
  case exportUnits => rcases h with h | h <;> simp only [State.layoutOk, beq_false_of_ne h, Bool.and_false, Bool.false_and]
  case hostWaits =>
    simp only [List.forall_mem_cons]
    exact ⟨hostRead_waits s p a k, hostWrite_waits s p a bs, hostAtomic_waits s p a op, fun _ hi => absurd hi List.not_mem_nil⟩
  case hostWritten => exact ⟨_, (hostWrite_open hr ho hc).trans (by rw [hostPut_done hb hd]), noRollback_marks t p, rfl⟩
  case hostLeft => exact ⟨_, hostWrite_open hr ho hc, hostPut_left hd⟩
  case hostAtomic =>
    refine ⟨fun hr h => hostAtomic_closed hr h, fun pz hr ho hn hal hc hd => ?_⟩
    have hnew : s.devAtomic (s.homeDie p a.toNat) p a.toNat (hostBytes op)
        (fun old => cellsAt a.toNat (toBytes (hostBytes op) (hostNew op (ofBytes old)))) = some (bs, pz, t) := by
      cases op <;> exact hd
    exact ⟨_, hostAtomic_open hr ho hn hal hc hnew, noRollback_marks t p, rfl, rfl⟩
  case mailbox =>
    refine ⟨fun h i hi => ?_, fun hb h1 h2 hp => ⟨spdmAsk_answers hb h1 h2 hp, getMeasurements_answers hb h1 h2 hp⟩⟩
    obtain ⟨body, hx⟩ := exec_spdmAsk s hi
    rw [hx, spdm_unbuilt h]
  case built =>
    obtain ⟨w, hx, hboot, htrain, hcores, hother, hpart, hstack⟩ := powerOn_built hb hr h hroles hgroups
    refine ⟨w, hx, hboot, htrain, hcores, hother, ?_⟩
    intro q
    obtain ⟨dk, ds, ck, hbuilt⟩ := built_parts l hroles s.freeCtr s.now
    have hq {β : Type} (π : Part → β) : π q = π { Part.laidOut l s.freeCtr s.now with deckle := dk, dset := ds, ckpt := ck } :=
      congrArg π (hpart.trans hbuilt)
    refine ⟨hq Part.present, hq Part.bands, hq Part.halves, hq Part.ports, hq Part.stackright, hq Part.svcvec, hq Part.inReset, hq Part.window,
      hq Part.nextTask, hq Part.ckptctl, hq Part.censusctl, hq Part.tdeleg, hq Part.link, fun d hw hd => ?_, fun hnone n hn hbits => ?_,
      fun e he => ?_, ?_⟩
    · exact (congrArg (fun r => tget 0 (Part.deckle r) 0) hpart).trans (deckle_built hroles hw hd _ _)
    · rw [hstack hnone n hn hbits]; rfl
    · exact (congrArg Part.dset hpart).trans (dset_built hroles he _ _)
    · rw [hq Part.sys]; exact sys_laidOut l s.freeCtr s.now

end Sys2Proof.Machine
end

section
/-!
PROOFS. Little-endian bytes, and what a word of a given size decodes to (R34 to R42).
-/

set_option linter.constructorNameAsVariable false

namespace Sys2Proof

theorem leBytes_length (n v : Nat) : (leBytes n v).length = n := by
  induction n generalizing v with
  | zero => rfl
  | succ n ih => simp [leBytes, ih]

/-- What little-endian bytes form again, with bytes behind them. -/
theorem leNat_leBytes_append (n v : Nat) (l : List Byte) : leNat (leBytes n v ++ l) = v % 256 ^ n + 256 ^ n * leNat l := by
  induction n generalizing v with
  | zero => simp [leBytes, Nat.mod_one]
  | succ n ih =>
    have hb : (BitVec.ofNat 8 v).toNat = v % 256 := BitVec.toNat_ofNat ..
    simp only [leBytes, List.cons_append, leNat, ih, hb]
    rw [Nat.pow_succ', Nat.mod_mul]
    ring

/-- The fields beyond an instruction's size are zero (R40 to R42). -/
inductive Raw.InSize (r : Raw) : Prop where
  | s (len : r.len = 0) (c : r.c = 0) (fm : r.fm = 0) (e : r.e = 0) (fl : r.fl = 0)
  | m (len : r.len = 1) (e : r.e = 0) (fl : r.fl = 0)
  | l (len : r.len = 2)

theorem Raw.ofWord_toWord (r : Raw) : Raw.ofWord r.toWord = r := by
  obtain ⟨len, op, d, a, b, pred, neg, i, fn, c, fm, e, fl⟩ := r
  simp only [Raw.ofWord, Raw.toWord, Raw.mk.injEq]
  refine ⟨?_, ?_, ?_, ?_, ?_, ?_, ?_, ?_, ?_, ?_, ?_, ?_, ?_⟩
  all_goals
    apply BitVec.eq_of_toNat_eq
    simp only [BitVec.toNat_ofNat]
    omega

theorem Raw.toWord_mod_four (r : Raw) : r.toWord % 4 = r.len.toNat := by
  unfold Raw.toWord
  omega

theorem Raw.toWord_lt {r : Raw} (h : r.InSize) : r.toWord < 256 ^ sizeOf r.len.toNat := by
  unfold Raw.toWord
  cases h with
  | s len c fm e fl => simp [len, c, fm, e, fl, sizeOf]; omega
  | m len e fl => simp [len, e, fl, sizeOf]; omega
  | l len => simp [len, sizeOf]; omega

theorem Raw.size_cases {r : Raw} (h : r.InSize) :
    r.len.toNat ≠ 3 ∧ (sizeOf r.len.toNat = 8 ∨ sizeOf r.len.toNat = 12 ∨ sizeOf r.len.toNat = 16) := by
  cases h with
  | s len | m len | l len => simp [len, sizeOf]

/-- Bits above an instruction's size leave its length code. -/
theorem Raw.len_of_word {r : Raw} (h : r.InSize) (k : Nat) : (r.toWord + 256 ^ sizeOf r.len.toNat * k) % 4 = r.len.toNat := by
  have h4 := r.toWord_mod_four
  obtain ⟨-, hs | hs | hs⟩ := Raw.size_cases h <;> rw [hs] <;> omega

/-- A word in its size, whatever bits stand above it, decodes by its fields. -/
theorem decodeWord_toWord {r : Raw} (h : r.InSize) (k : Nat) :
    decodeWord (r.toWord + 256 ^ sizeOf r.len.toNat * k) = match checkRaw r with
      | .error e => .reject e r.toWord (sizeOf r.len.toNat)
      | .ok _ => match build r with
        | some i => .ok i (sizeOf r.len.toNat)
        | none => .reject .unassigned r.toWord (sizeOf r.len.toNat) := by
  obtain ⟨h3, -⟩ := Raw.size_cases h
  have hm : (r.toWord + 256 ^ sizeOf r.len.toNat * k) % 2 ^ (8 * sizeOf r.len.toNat) = r.toWord := by
    rw [Nat.pow_mul, Nat.add_mul_mod_self_left, Nat.mod_eq_of_lt (Raw.toWord_lt h)]
  simp only [decodeWord, Raw.len_of_word h, if_neg h3, hm, Raw.ofWord_toWord] <;> rfl

/-- An instruction is read from a word's fields. -/
structure Raw.Reads (r : Raw) (i : Instr) : Prop where
  inSize : r.InSize
  checked : ∃ s, checkRaw r = .ok s
  built : build r = some i

theorem decode_of_reads {r : Raw} {i : Instr} (h : r.Reads i) (rest : List Byte) :
    decode (leBytes (sizeOf r.len.toNat) r.toWord ++ rest) = .ok i (sizeOf r.len.toNat) := by
  obtain ⟨hin, ⟨s, hc⟩, hb⟩ := h
  obtain ⟨-, hsize⟩ := Raw.size_cases hin
  have h4 := Raw.len_of_word hin
  have hlt := Raw.toWord_lt hin
  have hdec := decodeWord_toWord hin
  simp only [hc, hb] at hdec
  generalize hn : sizeOf r.len.toNat = n at *
  have hlen := leBytes_length n r.toWord
  have htake : (leBytes n r.toWord ++ rest).take 16 = leBytes n r.toWord ++ rest.take (16 - n) := by
    rw [List.take_append, hlen, List.take_of_length_le (by omega)]
  have hnat : leNat ((leBytes n r.toWord ++ rest).take 16) = r.toWord + 256 ^ n * leNat (rest.take (16 - n)) := by
    rw [htake, leNat_leBytes_append, Nat.mod_eq_of_lt hlt]
  have hl : n ≤ (leBytes n r.toWord ++ rest).length := by simp [hlen]
  rw [decode, if_neg (by omega), hnat]
  simp only [h4, hn]
  rw [if_neg (by omega), hdec]

end Sys2Proof
end

section
/-!
PROOFS. The checks of R51 on a word whose operand bytes and fields suit the shape of its opcode.
-/

set_option linter.constructorNameAsVariable false

namespace Sys2Proof

/-! ### Operand bytes -/

/-- An operand byte that a slot takes: number and modifier are valid, an unused byte is zero (R45, R48, R49). -/
def Slot.fits (s : Slot) (b : BitVec 8) : Bool :=
  if s = .zero then b == 0 else s.numOk b && s.mdOk b

@[simp] theorem Md.ofBits_code (m : Md) : Md.ofBits m.code = m := by cases m <;> rfl

@[simp] theorem GReg.num_byte (r : GReg) : r.byte.extractLsb' 0 6 = r.num := BitVec.extractLsb'_append_eq_right
@[simp] theorem GReg.md_byte (r : GReg) : r.byte.extractLsb' 6 2 = r.md.code := BitVec.extractLsb'_append_eq_left
@[simp] theorem GReg.ofByte_byte (r : GReg) : GReg.ofByte r.byte = r := by simp [GReg.ofByte]

@[simp] theorem FReg.num6_byte (r : FReg) : r.byte.extractLsb' 0 6 = r.num.setWidth 6 := by
  rw [FReg.byte, BitVec.extractLsb'_append_eq_right]
  generalize r.num = n
  revert n
  decide
@[simp] theorem FReg.md_byte (r : FReg) : r.byte.extractLsb' 6 2 = r.md.code := BitVec.extractLsb'_append_eq_left
@[simp] theorem FReg.num_byte (r : FReg) : r.byte.extractLsb' 0 5 = r.num := by
  rw [FReg.byte, BitVec.extractLsb'_append_eq_of_add_le (by decide)]
  exact BitVec.extractLsb'_append_eq_right
@[simp] theorem FReg.ofByte_byte (r : FReg) : FReg.ofByte r.byte = r := by simp [FReg.ofByte]

@[simp] theorem extractLsb'_setWidth_byte {k : Nat} (h : k ≤ 8) (x : BitVec k) : (x.setWidth 8).extractLsb' 0 k = x := by
  rw [BitVec.extractLsb'_setWidth_of_le (by omega), BitVec.extractLsb'_eq_self]

@[simp] theorem Slot.fits_zero : Slot.fits .zero 0 = true := rfl
@[simp] theorem Slot.fits_src_g (r : GReg) : (Slot.src .g).fits r.byte = r.okSrc := by
  simp [Slot.fits, Slot.numOk, Slot.mdOk, Cls.count, GReg.okSrc]
@[simp] theorem Slot.fits_dst_g (r : GReg) : (Slot.dst .g).fits r.byte = r.okDst := by
  simp [Slot.fits, Slot.numOk, Slot.mdOk, Cls.count, GReg.okDst]
@[simp] theorem Slot.fits_src_f (r : FReg) : (Slot.src .f).fits r.byte = r.okSrc := by
  simp [Slot.fits, Slot.numOk, Slot.mdOk, Cls.count, FReg.okSrc]
  omega
@[simp] theorem Slot.fits_dst_f (r : FReg) : (Slot.dst .f).fits r.byte = r.okDst := by
  simp [Slot.fits, Slot.numOk, Slot.mdOk, Cls.count, FReg.okDst]
  omega
@[simp] theorem Slot.fits_plain_p (r : PReg) : (Slot.plain .p).fits (r.setWidth 8) = true := by revert r; decide
@[simp] theorem Slot.fits_plain_v (r : VReg) : (Slot.plain .v).fits (r.setWidth 8) = true := by revert r; decide
@[simp] theorem Slot.fits_plain_q (r : QReg) : (Slot.plain .q).fits (r.setWidth 8) = true := by revert r; decide
@[simp] theorem Slot.fits_plain_a (r : AReg) : (Slot.plain .a).fits (r.setWidth 8) = true := by revert r; decide

/-! ### The checks of R51 -/

/-- Under I, bits 63:41 are the immediate of an entry that admits one, and of form MP also bits 95:72 (R41, R44). -/
def Raw.hides (r : Raw) (s : Shape) (p : FnPart) : Bool :=
  decide (r.i = 1 ∧ s.imm ≠ .never) && (p == .fn || (p == .fm && s.form == .mp))

/-- The fields of a word suit a shape: the conditions of checks 6 and 8 to 10 that every entry shares. -/
structure Raw.Fits (r : Raw) (s : Shape) : Prop where
  len : s.form.len = r.len
  pred : ¬(r.pred = 0 ∧ r.neg = 1)
  imm : ¬((r.i = 1 ∧ s.imm = .never) ∨ (r.i = 0 ∧ s.imm = .req))
  d : s.d.fits r.d = true
  a : s.a.fits r.a = true
  b : (if r.i = 1 then .zero else s.b : Slot).fits r.b = true
  c : s.form = .ml ∨ s.c.fits r.c = true
  e : s.e.fits r.e = true
  res : ∀ x ∈ s.res, r.hides s x.1 = true ∨ r.f x.1 x.2.1 x.2.2 = 0
  flds : ∀ x ∈ s.flds, r.hides s x.part = true ∨ x.ok (r.f x.part x.lo x.width) = true

/-- The conditions that only the entries name: the extra bits of check 8, the pair of LDP, the fill targets. -/
structure Raw.Extra (r : Raw) : Prop where
  off : offExtra r = []
  pair : ¬(r.op = 0x086 ∧ r.d.extractLsb' 0 6 = r.c.extractLsb' 0 6 ∧ r.d.extractLsb' 0 6 ≠ 0)
  fill : ¬(((r.op = 0x165 ∧ r.f .fn 0 1 = 1) ∨ (r.op = 0x1C7 ∧ r.f .fn 0 1 = 0)) ∧ Md.ofBits (r.d.extractLsb' 6 2) ≠ .plain)

theorem Slot.off_of_fits {s : Slot} {b : BitVec 8} (h : s.fits b = true) (lo : Nat) : s.off lo b = [] := by
  unfold Slot.off
  split
  · next hs =>
    have hb : b = 0 := by simpa [Slot.fits, hs] using h
    simp [hb, zeroOff]
  · rfl

theorem Slot.ok_of_fits {s : Slot} {b : BitVec 8} (h : s.fits b = true) : s.numOk b = true ∧ s.mdOk b = true := by
  by_cases hs : s = .zero
  · subst hs; exact ⟨rfl, rfl⟩
  · simpa [Slot.fits, hs] using h

theorem offBits_of_fits {r : Raw} {s : Shape} (h : r.Fits s) (hx : offExtra r = []) : offBits r s = [] := by
  have hb : (if r.i = 1 then zeroOff 28 r.b.toNat else s.b.off 28 r.b) = [] := by
    have := Slot.off_of_fits h.b 28
    by_cases hi : r.i = 1
    · rwa [if_pos hi] at this ⊢
    · rwa [if_neg hi] at this ⊢
  have hce : (if s.form = .ml then [] else s.c.off 64 r.c ++ s.e.off 96 r.e) = [] := by
    rcases h.c with h1 | h1
    · exact if_pos h1
    · simp [Slot.off_of_fits h1, Slot.off_of_fits h.e]
  have hres : (s.res.flatMap fun x => if !r.hides s x.1 then zeroOff (x.1.lo + x.2.1) (r.f x.1 x.2.1 x.2.2) else []) = [] := by
    refine List.flatMap_eq_nil_iff.mpr fun x hx => ?_
    rcases h.res x hx with h | h <;> simp [h, zeroOff]
  have hflds : (s.flds.flatMap fun x => if !r.hides s x.part && !x.ok (r.f x.part x.lo x.width) then
      [x.part.lo + x.lo + if x.unused then lowBit (r.f x.part x.lo x.width) else 0] else []) = [] := by
    refine List.flatMap_eq_nil_iff.mpr fun x hx => ?_
    rcases h.flds x hx with h | h <;> simp [h]
  unfold Raw.hides at hres hflds
  simp only [offBits, Slot.off_of_fits h.d, Slot.off_of_fits h.a, hb, if_neg h.pred, if_neg h.imm, hce, hx, hres, hflds, List.append_nil]

theorem checkRaw_of_fits {r : Raw} {s : Shape} (hs : shape r = some s) (h : r.Fits s) (hx : r.Extra) : checkRaw r = .ok s := by
  have hok : ∀ x ∈ operandBytes r s, x.1.numOk x.2.2 = true ∧ x.1.mdOk x.2.2 = true := by
    simp only [operandBytes, List.forall_mem_cons, List.not_mem_nil, false_imp_iff, implies_true, and_true]
    refine ⟨Slot.ok_of_fits h.d, Slot.ok_of_fits h.a, Slot.ok_of_fits h.b, ?_, Slot.ok_of_fits h.e⟩
    rcases h.c with h1 | h1
    · rw [if_pos h1]; exact ⟨rfl, rfl⟩
    · split
      · exact ⟨rfl, rfl⟩
      · exact Slot.ok_of_fits h1
  have hnum : badNumber r s = none := by
    have hf : (operandBytes r s).find? (fun (k, _, b) => !k.numOk b) = none :=
      List.find?_eq_none.mpr fun x hx => by simp [(hok x hx).1]
    rw [badNumber, hf]
    exact if_neg hx.pair
  have hmod : badModifier r s = none := by
    have hf : (operandBytes r s).find? (fun (k, _, b) => !k.mdOk b) = none :=
      List.find?_eq_none.mpr fun x hx => by simp [(hok x hx).2]
    simp only [badModifier, if_neg hx.fill, hf, Option.map_none]
  simp [checkRaw, hs, h.len, offBits_of_fits h hx.off, hnum, hmod]

end Sys2Proof
end

section
/-!
PROOFS. The words that `Instr.toRaw` builds: their operand bytes, function fields and extra conditions (R41 to R50).
-/

set_option linter.constructorNameAsVariable false

namespace Sys2Proof

/-- An instruction that has a word and is read back from it. -/
def Instr.Readable (i : Instr) : Prop := ∃ r, i.toRaw = some r ∧ r.Reads i

def shapeRows : List (Raw → Nat → Option Shape) :=
  [shapeRow0, shapeRow1, shapeRow2, shapeRow3, shapeRow4, shapeRow5, shapeRow6, shapeRow7, shapeRow8, shapeRow9, shapeRow10, shapeRow11,
   shapeRow12, shapeRow13, shapeRow14, shapeRow15]

def buildRows : List (Raw → Nat → Option Instr) :=
  [buildRow0, buildRow1, buildRow2, buildRow3, buildRow4, buildRow5, buildRow6, buildRow7, buildRow8, buildRow9, buildRow10, buildRow11,
   buildRow12, buildRow13, buildRow14, buildRow15]

def shapeAt (o : BitVec 10) (r : Raw) : Option Shape := (shapeRows[o.toNat / 32]?).bind (fun f => f r (o.toNat % 32))
def buildAt (o : BitVec 10) (r : Raw) : Option Instr := (buildRows[o.toNat / 32]?).bind (fun f => f r (o.toNat % 32))

theorem shape_eq_shapeAt (r : Raw) : shape r = shapeAt r.op r := by
  unfold shape shapeAt
  show _ = (shapeRows[r.row]?).bind (fun f => f r r.col)
  have : r.row < 32 := by unfold Raw.row; omega
  generalize r.row = n at *
  interval_cases n <;> rfl
theorem build_eq_buildAt (r : Raw) : build r = buildAt r.op r := by
  unfold build buildAt
  show _ = (buildRows[r.row]?).bind (fun f => f r r.col)
  have : r.row < 32 := by unfold Raw.row; omega
  generalize r.row = n at *
  interval_cases n <;> rfl

theorem readable_of {i : Instr} {r : Raw} {s : Shape} {n : Nat} (hr : i.toRaw = some r) (ho : r.op = BitVec.ofNat 10 n)
    (hs : shapeAt (.ofNat 10 n) r = some s) (hin : r.InSize) (hf : r.Fits s)
    (hx : r.Extra) (hb : buildAt (.ofNat 10 n) r = some i) : i.Readable :=
  ⟨r, hr, hin, ⟨s, checkRaw_of_fits (by rw [shape_eq_shapeAt, ho, hs]) hf hx⟩, by rw [build_eq_buildAt, ho, hb]⟩


/-! ### Fields of a word under construction -/

/-- The `w` bits of a number from bit `lo`. -/
def field (n lo w : Nat) : Nat := n / 2 ^ lo % 2 ^ w

@[simp] theorem field_zero (lo w : Nat) : field 0 lo w = 0 := by simp [field]

theorem field_mod {n k lo w : Nat} (h : lo + w ≤ k) : field (n % 2 ^ k) lo w = field n lo w := by
  obtain ⟨d, rfl⟩ := Nat.exists_eq_add_of_le h
  rw [field, field, show 2 ^ (lo + w + d) = 2 ^ lo * (2 ^ w * 2 ^ d) by ring, Nat.mod_mul_right_div_self, Nat.mod_mul_right_mod]

@[simp] theorem f_fn_ofNat (len op d a b pred neg i c fm e fl) (n : Nat) {lo w : Nat} (h : lo + w ≤ 23) :
    Raw.f ⟨len, op, d, a, b, pred, neg, i, .ofNat 23 n, c, fm, e, fl⟩ .fn lo w = field n lo w := by
  rw [← field_mod h]; simp [Raw.f, field]

@[simp] theorem f_fm_ofNat (len op d a b pred neg i fn c e fl) (n : Nat) {lo w : Nat} (h : lo + w ≤ 24) :
    Raw.f ⟨len, op, d, a, b, pred, neg, i, fn, c, .ofNat 24 n, e, fl⟩ .fm lo w = field n lo w := by
  rw [← field_mod h]; simp [Raw.f, field]

@[simp] theorem f_fl_ofNat (len op d a b pred neg i fn c fm e) (n : Nat) {lo w : Nat} (h : lo + w ≤ 24) :
    Raw.f ⟨len, op, d, a, b, pred, neg, i, fn, c, fm, e, .ofNat 24 n⟩ .fl lo w = field n lo w := by
  rw [← field_mod h]; simp [Raw.f, field]

@[simp] theorem f_fn_setWidth (len op d a b pred neg i c fm e fl) {n : Nat} (k : BitVec n) {lo w : Nat} (h : lo + w ≤ 23) :
    Raw.f ⟨len, op, d, a, b, pred, neg, i, k.setWidth 23, c, fm, e, fl⟩ .fn lo w = field k.toNat lo w := by
  rw [← field_mod h]; simp [Raw.f, field]


/-! ### Operands of a word under construction -/

@[simp] theorem Slot.fits_none : Slot.fits .zero 0#8 = true := rfl
@[simp] theorem Form.len_s : Form.s.len = 0#2 := rfl
@[simp] theorem Form.len_m : Form.m.len = 1#2 := rfl
@[simp] theorem Form.len_mp : Form.mp.len = 1#2 := rfl
@[simp] theorem Form.len_ml : Form.ml.len = 1#2 := rfl
@[simp] theorem Form.len_l : Form.l.len = 2#2 := rfl

@[simp] theorem Raw.guard_eq (r : Raw) : r.guard = ⟨r.pred, r.neg == 1⟩ := rfl
@[simp] theorem Guard.of_bits (g : Guard) : (⟨g.pred, (if g.neg then 1#1 else 0#1) == 1#1⟩ : Guard) = g := by
  obtain ⟨p, n⟩ := g
  cases n <;> rfl
@[simp] theorem Guard.ok_iff (g : Guard) : g.ok = true ↔ (g.pred = 0#3 → g.neg = false) := by
  simp [Guard.ok, imp_iff_not_or]

@[simp] theorem RegImm.byte_reg (r : GReg) : (RegImm.reg r).byte = r.byte := rfl
@[simp] theorem RegImm.byte_imm (v : BitVec 23) : (RegImm.imm v).byte = 0#8 := rfl
@[simp] theorem RegImm.bit_reg (r : GReg) : (RegImm.reg r).bit = 0#1 := rfl
@[simp] theorem RegImm.bit_imm (v : BitVec 23) : (RegImm.imm v).bit = 1#1 := rfl
@[simp] theorem RegImm.fn_reg (r : GReg) : (RegImm.reg r).fn = 0#23 := rfl
@[simp] theorem RegImm.fn_imm (v : BitVec 23) : (RegImm.imm v).fn = v := rfl
@[simp] theorem RegImm.ok_reg (r : GReg) : (RegImm.reg r).ok = r.okSrc := rfl
@[simp] theorem Raw.regImm_eq (r : Raw) : r.regImm = if r.i = 1#1 then .imm r.fn else .reg (.ofByte r.b) := rfl

@[simp] theorem MemOff.byte_imm (v : BitVec 23) : (MemOff.imm v).byte = 0#8 := rfl
@[simp] theorem MemOff.byte_idx (r : GReg) (k : BitVec 3) : (MemOff.idx r k).byte = r.byte := rfl
@[simp] theorem MemOff.bit_imm (v : BitVec 23) : (MemOff.imm v).bit = 1#1 := rfl
@[simp] theorem MemOff.bit_idx (r : GReg) (k : BitVec 3) : (MemOff.idx r k).bit = 0#1 := rfl
@[simp] theorem MemOff.fn_imm (v : BitVec 23) : (MemOff.imm v).fn = v := rfl
@[simp] theorem MemOff.fn_idx (r : GReg) (k : BitVec 3) : (MemOff.idx r k).fn = k.setWidth 23 := rfl
@[simp] theorem MemOp.ok_imm (a : GReg) (v : BitVec 23) : (MemOp.mk a (.imm v)).ok = a.okSrc := by simp [MemOp.ok]
@[simp] theorem MemOp.ok_idx (a r : GReg) (k : BitVec 3) : (MemOp.mk a (.idx r k)).ok = (a.okSrc && r.okSrc) := rfl
@[simp] theorem Raw.memOp_eq (r : Raw) :
    r.memOp = ⟨.ofByte r.a, if r.i = 1#1 then .imm r.fn else .idx (.ofByte r.b) (BitVec.ofNat 3 (r.f .fn 0 3))⟩ := rfl

@[simp] theorem Raw.memIdx_eq (r : Raw) : r.memIdx = ⟨.ofByte r.a, r.b.extractLsb' 0 4, BitVec.ofNat 3 (r.f .fn 0 3)⟩ := rfl

@[simp] theorem RegImm47.byte_reg (r : GReg) : (RegImm47.reg r).byte = r.byte := rfl
@[simp] theorem RegImm47.byte_imm (v : BitVec 47) : (RegImm47.imm v).byte = 0#8 := rfl
@[simp] theorem RegImm47.bit_reg (r : GReg) : (RegImm47.reg r).bit = 0#1 := rfl
@[simp] theorem RegImm47.bit_imm (v : BitVec 47) : (RegImm47.imm v).bit = 1#1 := rfl
@[simp] theorem RegImm47.fn_reg (r : GReg) : (RegImm47.reg r).fn = 0#23 := rfl
@[simp] theorem RegImm47.fn_imm (v : BitVec 47) : (RegImm47.imm v).fn = v.setWidth 23 := rfl
@[simp] theorem RegImm47.fm_reg (r : GReg) : (RegImm47.reg r).fm = 0#24 := rfl
@[simp] theorem RegImm47.fm_imm (v : BitVec 47) : (RegImm47.imm v).fm = v.extractLsb' 23 24 := rfl
@[simp] theorem RegImm47.ok_reg (r : GReg) : (RegImm47.reg r).ok = r.okSrc := rfl
@[simp] theorem Raw.regImm47_eq (r : Raw) : r.regImm47 = if r.i = 1#1 then .imm (r.fm ++ r.fn) else .reg (.ofByte r.b) := rfl
@[simp] theorem imm47_join (v : BitVec 47) : v.extractLsb' 23 24 ++ v.setWidth 23 = v := by
  rw [BitVec.setWidth_eq_extractLsb' (by decide), BitVec.extractLsb'_append_extractLsb'_eq_extractLsb' (Nat.zero_add 23).symm]
  exact BitVec.extractLsb'_eq_self
@[simp] theorem Raw.imm55_eq (r : Raw) : r.imm55 = r.fm ++ (r.c ++ r.fn) := rfl
@[simp] theorem imm55_join (v : BitVec 55) : v.extractLsb' 31 24 ++ (v.extractLsb' 23 8 ++ v.setWidth 23) = v := by
  rw [BitVec.setWidth_eq_extractLsb' (by decide), BitVec.extractLsb'_append_extractLsb'_eq_extractLsb' (Nat.zero_add 23).symm,
    BitVec.extractLsb'_append_extractLsb'_eq_extractLsb' (Nat.zero_add 31).symm]
  exact BitVec.extractLsb'_eq_self

@[simp] theorem Slot.fits_pl_g (n : BitVec 6) : (Slot.pl .g).fits (n.setWidth 8) = decide (n.toNat < 48) := by revert n; decide
@[simp] theorem Slot.fits_pl_f (n : BitVec 5) : (Slot.pl .f).fits (n.setWidth 8) = true := by revert n; decide
@[simp] theorem PlainGF.byte_g (n : BitVec 6) : (PlainGF.g n).byte = n.setWidth 8 := rfl
@[simp] theorem PlainGF.byte_f (n : BitVec 5) : (PlainGF.f n).byte = n.setWidth 8 := rfl
@[simp] theorem PlainGF.bit_g (n : BitVec 6) : (PlainGF.g n).bit = 0 := rfl
@[simp] theorem PlainGF.bit_f (n : BitVec 5) : (PlainGF.f n).bit = 1 := rfl
@[simp] theorem PlainGF.ok_g (n : BitVec 6) : (PlainGF.g n).ok = decide (n.toNat < 48) := rfl
@[simp] theorem Raw.plainGF_eq (r : Raw) :
    r.plainGF = if r.f .fn 0 1 = 0 then .g (r.a.extractLsb' 0 6) else .f (r.a.extractLsb' 0 5) := rfl
@[simp] theorem field_one : field 1 0 1 = 1 ∧ field 1 1 22 = 0 := by decide

@[simp] theorem AnyGF.byte_g (r : GReg) : (AnyGF.g r).byte = r.byte := rfl
@[simp] theorem AnyGF.byte_f (r : FReg) : (AnyGF.f r).byte = r.byte := rfl
@[simp] theorem Raw.anyGF_eq (r : Raw) (b : BitVec 8)
    (dc : VData) : r.anyGF b dc = if dc = .w then .g (.ofByte b) else .f (.ofByte b) := rfl

@[simp] theorem field_index (k : BitVec 3) : field k.toNat 0 3 = k.toNat ∧ field k.toNat 3 20 = 0 := by
  simp only [field]; omega


@[simp] theorem Raw.hides_eq (r : Raw) (s : Shape) (p : FnPart) :
    r.hides s p = (decide (r.i = 1#1 ∧ s.imm ≠ .never) && (p == .fn || (p == .fm && s.form == .mp))) := rfl

@[simp] theorem Raw.fits_iff (r : Raw) (s : Shape) : r.Fits s ↔
    s.form.len = r.len ∧ ¬(r.pred = 0#3 ∧ r.neg = 1#1) ∧ ¬((r.i = 1#1 ∧ s.imm = .never) ∨ (r.i = 0#1 ∧ s.imm = .req)) ∧
    s.d.fits r.d = true ∧ s.a.fits r.a = true ∧ (if r.i = 1#1 then .zero else s.b : Slot).fits r.b = true ∧
    (s.form = .ml ∨ s.c.fits r.c = true) ∧ s.e.fits r.e = true ∧ (∀ x ∈ s.res, r.hides s x.1 = true ∨ r.f x.1 x.2.1 x.2.2 = 0) ∧
    (∀ x ∈ s.flds, r.hides s x.part = true ∨ x.ok (r.f x.part x.lo x.width) = true) :=
  ⟨fun ⟨h1, h2, h3, h4, h5, h6, h7, h8, h9, h10⟩ => ⟨h1, h2, h3, h4, h5, h6, h7, h8, h9, h10⟩,
    fun ⟨h1, h2, h3, h4, h5, h6, h7, h8, h9, h10⟩ => ⟨h1, h2, h3, h4, h5, h6, h7, h8, h9, h10⟩⟩

/-- The opcodes that name no condition of their own beyond their shape. -/
def plainOp (n : Nat) : Bool := n ∉ [0x00F, 0x010, 0x011, 0x012, 0x02B, 0x021, 0x02C, 0x02D, 0x02E, 0x080, 0x081, 0x0E0, 0x10C, 0x163,
  0x164,
  0x183, 0x184, 0x168, 0x169, 0x1C7, 0x1E3, 0x1E4, 0x1E5, 0x1E6, 0x1E7, 0x1E8, 0x1E9, 0x086, 0x165]

theorem extra_of_plain {r : Raw} (h : plainOp r.op.toNat = true) : r.Extra := by
  simp only [plainOp, List.mem_cons, List.not_mem_nil, or_false, not_or, decide_eq_true_eq] at h
  refine ⟨?_, fun hp => ?_, fun hf => ?_⟩
  · unfold offExtra
    split <;> simp_all
  · simp [hp.1] at h
  · rcases hf.1 with hf | hf <;> simp [hf.1] at h

/-- The entries with a condition on an operand of their own: LDP, MCOMMIT, COUCH. -/
def pairedOp (n : Nat) : Bool := n ∈ [0x086, 0x165, 0x1C7]

theorem extra_of_off {r : Raw} (h : pairedOp r.op.toNat = false) (ho : offExtra r = []) : r.Extra := by
  simp only [pairedOp, List.mem_cons, List.not_mem_nil, or_false, not_or, decide_eq_false_iff_not] at h
  refine ⟨ho, fun hp => ?_, fun hf => ?_⟩
  · simp [hp.1] at h
  · rcases hf.1 with hf | hf <;> simp [hf.1] at h

end Sys2Proof
end

section
/-!
PROOFS. The function codes: each code names what it is the code of, and lies in its range.
-/

set_option linter.constructorNameAsVariable false

namespace Sys2Proof

/-! ### Codes -/

@[simp] theorem ExtW.ofCode_code (x : ExtW) : ExtW.ofCode x.code = some x := by cases x <;> rfl
@[simp] theorem BarScope.ofCode_code (x : BarScope) : BarScope.ofCode x.code = some x := by cases x <;> rfl
@[simp] theorem MemW.ofCode_code (x : MemW) : MemW.ofCode x.code = some x := by cases x <;> rfl
@[simp] theorem StW.ofCode_code (x : StW) : StW.ofCode x.code = some x := by cases x <;> rfl
@[simp] theorem Fmt.ofCode_code (x : Fmt) : Fmt.ofCode x.code = some x := by cases x <;> rfl
@[simp] theorem ReqType.ofCode_code (x : ReqType) : ReqType.ofCode x.code = some x := by cases x <;> rfl
@[simp] theorem Scope.ofCode_code (x : Scope) : Scope.ofCode x.code = some x := by cases x <;> rfl
@[simp] theorem FenceKind.ofCode_code (x : FenceKind) : FenceKind.ofCode x.code = some x := by cases x <;> rfl
@[simp] theorem AmoOp.ofCode_code (x : AmoOp) : AmoOp.ofCode x.code = some x := by cases x <;> rfl
@[simp] theorem AmofFmt.ofCode_code (x : AmofFmt) : AmofFmt.ofCode x.code = some x := by cases x <;> rfl
@[simp] theorem AmofOp.ofCode_code (x : AmofOp) : AmofOp.ofCode x.code = some x := by cases x <;> rfl
@[simp] theorem Rnd.ofCode_code (x : Rnd) : Rnd.ofCode x.code = some x := by cases x <;> rfl
@[simp] theorem Cond.ofCode_code (x : Cond) : Cond.ofCode x.code = some x := by cases x <;> rfl
@[simp] theorem ICond.ofCode_code (x : ICond) : ICond.ofCode x.code = some x := by cases x <;> rfl
@[simp] theorem CvtOp.ofCode_code (x : CvtOp) : CvtOp.ofCode x.code = some x := by cases x <;> rfl
@[simp] theorem RedOp.ofCode_code (x : RedOp) : RedOp.ofCode x.code = some x := by cases x <;> rfl
@[simp] theorem VW.ofCode_code (x : VW) : VW.ofCode x.code = some x := by cases x <;> rfl
@[simp] theorem VData.ofCode_code (x : VData) : VData.ofCode x.code = some x := by cases x <;> rfl
@[simp] theorem QFmt.ofCode_code (x : QFmt) : QFmt.ofCode x.code = some x := by cases x <;> rfl
@[simp] theorem AccSel.ofCode_code (x : AccSel) : AccSel.ofCode x.code = some x := by cases x <;> rfl
@[simp] theorem TbTarget.ofCode_code (x : TbTarget) : TbTarget.ofCode x.code = some x := by cases x <;> rfl
@[simp] theorem AtW.ofCode_code (x : AtW) : AtW.ofCode x.code = some x := by cases x <;> rfl
@[simp] theorem IntCode.ofCode_code (x : IntCode) : IntCode.ofCode x.code = some x := by cases x <;> rfl
@[simp] theorem MmaFmt.ofCode_code (x : MmaFmt) : MmaFmt.ofCode x.code = some x := by cases x <;> rfl
@[simp] theorem MData.ofCode_code (x : MData) : MData.ofCode x.code = some x := by cases x <;> rfl
@[simp] theorem VWw.ofCode_code (x : VWw) : VWw.ofCode x.code = some x := by cases x; rfl

theorem ExtW.code_lt (x : ExtW) : x.code < 3 := by cases x <;> decide
theorem BarScope.code_lt (x : BarScope) : x.code < 3 := by cases x <;> decide
theorem MemW.code_lt (x : MemW) : x.code < 7 := by cases x <;> decide
theorem StW.code_lt (x : StW) : x.code < 4 := by cases x <;> decide
theorem Fmt.code_lt (x : Fmt) : x.code < 4 := by cases x <;> decide
theorem ReqType.code_lt (x : ReqType) : x.code < 4 := by cases x <;> decide
theorem Scope.code_lt (x : Scope) : x.code < 4 := by cases x <;> decide
theorem FenceKind.code_lt (x : FenceKind) : x.code < 4 := by cases x <;> decide
theorem AmoOp.code_lt (x : AmoOp) : x.code < 9 := by cases x <;> decide
theorem AmofFmt.code_lt (x : AmofFmt) : x.code < 2 := by cases x <;> decide
theorem AmofOp.code_lt (x : AmofOp) : x.code < 3 := by cases x <;> decide
theorem Rnd.code_lt (x : Rnd) : x.code < 5 := by cases x <;> decide
theorem Cond.code_lt (x : Cond) : x.code < 5 := by cases x <;> decide
theorem ICond.code_lt (x : ICond) : x.code < 4 := by cases x <;> decide
theorem CvtOp.code_lt (x : CvtOp) : x.code < 10 := by cases x <;> decide
theorem RedOp.code_lt (x : RedOp) : x.code < 3 := by cases x <;> decide
theorem VW.code_lt (x : VW) : x.code < 3 := by cases x <;> decide
theorem VData.code_lt (x : VData) : x.code < 5 := by cases x <;> decide
theorem QFmt.code_lt (x : QFmt) : x.code < 2 := by cases x <;> decide
theorem AccSel.code_lt (x : AccSel) : x.code < 4 := by cases x <;> decide
theorem TbTarget.code_lt (x : TbTarget) : x.code < 3 := by cases x <;> decide
theorem AtW.code_mem (x : AtW) : x.code = 2 ∨ x.code = 3 ∨ x.code = 6 := by cases x <;> decide
theorem IntCode.code_mem (x : IntCode) : x.code = 2 ∨ x.code = 3 ∨ x.code = 6 ∨ x.code = 7 := by cases x <;> decide
theorem MmaFmt.code_mem (x : MmaFmt) : 2 ≤ x.code ∧ x.code < 4 := by cases x <;> decide
theorem MData.code_mem (x : MData) : x.code = 0 ∨ x.code = 2 ∨ x.code = 3 ∨ x.code = 4 ∨ x.code = 5 := by cases x <;> decide
theorem VWw.code_eq (x : VWw) : x.code = 2 := by cases x; rfl
@[simp] theorem maskOf_maskCode (gm : GMask) : maskOf (maskCode gm) = gm := by revert gm; decide
theorem maskCode_mem (gm : GMask) : maskCode gm < 16 ∧ (maskCode gm = 0 ∨ 8 ≤ maskCode gm) := by revert gm; decide

end Sys2Proof
end

section
/-!
PROOFS. Each group of instructions of one layout is read back from its word.
-/

set_option linter.constructorNameAsVariable false

namespace Sys2Proof

theorem alu_readable (g : Guard) (d a : GReg) (b : RegImm) :
    ∀ i ∈ ([.add g d a b, .sub g d a b, .mul g d a b, .mulh g d a b, .mulhn g d a b, .div g d a b, .divn g d a b, .rem g d a b,
      .remn g d a b, .and g d a b, .or g d a b, .xor g d a b, .andn g d a b, .orn g d a b, .min g d a b, .max g d a b, .minn g d a b,
      .maxn g d a b, .addv g d a b, .subv g d a b, .mulv g d a b] : List Instr), i.wf = true → i.Readable := by
  simp only [List.forall_mem_cons, List.not_mem_nil, false_imp_iff, implies_true, and_true]
  obtain r | v := b
  all_goals
    and_intros
    all_goals
      intro h
      replace h : (_ && _) = true := h
      exact readable_of rfl rfl rfl (.s rfl rfl rfl rfl rfl) (by simp_all [Raw.base]) (extra_of_plain rfl)
        (by simp [buildAt, buildRows, buildRow0, buildRow1, Raw.base])

theorem unary_readable (g : Guard) (d a : GReg) :
    ∀ i ∈ ([.abs g d a, .neg g d a, .clz g d a, .ctz g d a, .popc g d a, .brev g d a, .bswap g d a, .mov g d a, .callr g d a, .treap g d a,
      .tspawn g d a, .copys g d a, .copyk g d a, .roleq g d a, .couchs g d a] : List Instr), i.wf = true → i.Readable := by
  simp only [List.forall_mem_cons, List.not_mem_nil, false_imp_iff, implies_true, and_true]
  and_intros
  all_goals
    intro h
    replace h : (_ && _) = true := h
    exact readable_of rfl rfl rfl (.s rfl rfl rfl rfl rfl) (by simp_all [Raw.base]) (extra_of_plain rfl)
      (by simp [buildAt, buildRows, buildRow0, buildRow1, buildRow2, buildRow3, buildRow13, buildRow14, Raw.base])

theorem compare_readable (g : Guard) (d : PReg) (a : GReg) (b : RegImm) :
    ∀ i ∈ ([.cmpeq g d a b, .cmpne g d a b, .cmplt g d a b, .cmple g d a b, .cmpltn g d a b, .cmplen g d a b, .chk g a b,
      .tstart g a b] : List Instr), i.wf = true → i.Readable := by
  simp only [List.forall_mem_cons, List.not_mem_nil, false_imp_iff, implies_true, and_true]
  obtain r | v := b
  all_goals
    and_intros
    all_goals
      intro h
      replace h : (_ && _) = true := h
      exact readable_of rfl rfl rfl (.s rfl rfl rfl rfl rfl) (by simp_all [Raw.base]) (extra_of_plain rfl)
        (by simp [buildAt, buildRows, buildRow1, buildRow3, Raw.base])

theorem lea_readable (g : Guard) (d : GReg) (m : MemOp) :
    (Instr.lea g d m).wf = true → (Instr.lea g d m).Readable := by
  obtain ⟨m, v | ⟨r, k⟩⟩ := m
  all_goals
    intro h
    replace h : (_ && _) = true := h
    exact readable_of rfl rfl rfl (.s rfl rfl rfl rfl rfl) (by simp_all [Raw.base]) (extra_of_plain rfl)
      (by simp [buildAt, buildRows, buildRow1, Raw.base])

theorem source_readable (g : Guard) (a : GReg) :
    ∀ i ∈ ([.jr g a, .ret g a, .tend g a, .wpush g a, .mwait g a, .noteack g a, .halt g a] : List Instr), i.wf = true → i.Readable := by
  simp only [List.forall_mem_cons, List.not_mem_nil, false_imp_iff, implies_true, and_true]
  and_intros
  all_goals
    intro h
    replace h : (_ && _) = true := h
    exact readable_of rfl rfl rfl (.s rfl rfl rfl rfl rfl) (by simp_all [Raw.base]) (extra_of_plain rfl)
      (by simp [buildAt, buildRows, buildRow2, buildRow3, buildRow11, buildRow14, buildRow15, Raw.base])

theorem target_readable (g : Guard) (d : GReg) (imm : BitVec 23) :
    ∀ i ∈ ([.wcount g d, .rfence g d, .mtest g d, .ckpt g d, .call g d imm, .loop g d imm] : List Instr), i.wf = true → i.Readable := by
  simp only [List.forall_mem_cons, List.not_mem_nil, false_imp_iff, implies_true, and_true]
  and_intros
  all_goals
    intro h
    replace h : (_ && _) = true := h
    exact readable_of rfl rfl rfl (.s rfl rfl rfl rfl rfl) (by simp_all [Raw.base]) (extra_of_plain rfl)
      (by simp [buildAt, buildRows, buildRow2, buildRow3, buildRow5, buildRow11, buildRow15, Raw.base])

theorem bare_readable (g : Guard) (imm : BitVec 23) (acc : AReg) :
    ∀ i ∈ ([.nop g, .fencesc g, .xfence g, .tret g, .br g imm, .svc g imm, .brk g imm, .mzero g acc] : List Instr),
      i.wf = true → i.Readable := by
  simp only [List.forall_mem_cons, List.not_mem_nil, false_imp_iff, implies_true, and_true]
  and_intros
  all_goals
    intro h
    replace h : Guard.ok _ = true := h
    exact readable_of rfl rfl rfl (.s rfl rfl rfl rfl rfl) (by simp_all [Raw.base]) (extra_of_plain rfl)
      (by simp [buildAt, buildRows, buildRow2, buildRow5, buildRow11, buildRow13, buildRow15, Raw.base])

theorem predicate_readable (g : Guard) (d a b : PReg) :
    ∀ i ∈ ([.pand g d a b, .por g d a b, .pxor g d a b, .pnot g d a, .pmov g d a, .qand g d a b, .qor g d a b, .qxor g d a b,
      .qnot g d a] : List Instr), i.wf = true → i.Readable := by
  simp only [List.forall_mem_cons, List.not_mem_nil, false_imp_iff, implies_true, and_true]
  and_intros
  all_goals
    intro h
    replace h : Guard.ok _ = true := h
    exact readable_of rfl rfl rfl (.s rfl rfl rfl rfl rfl) (by simp_all [Raw.base]) (extra_of_plain rfl)
      (by simp [buildAt, buildRows, buildRow2, buildRow9, Raw.base])

theorem renew_readable (g : Guard) (d a b : GReg) :
    ∀ i ∈ ([.renew g d a b, .rolereq g d a b, .gswitch g d a b] : List Instr), i.wf = true → i.Readable := by
  simp only [List.forall_mem_cons, List.not_mem_nil, false_imp_iff, implies_true, and_true]
  and_intros
  all_goals
    intro h
    replace h : (_ && _) = true := h
    exact readable_of rfl rfl rfl (.s rfl rfl rfl rfl rfl) (by simp_all [Raw.base]) (extra_of_plain rfl)
      (by simp [buildAt, buildRows, buildRow14, buildRow15, Raw.base])

theorem qpop_readable (g : Guard) (d : GReg) (a : QReg) :
    (Instr.qpop g d a).wf = true → (Instr.qpop g d a).Readable := by
  intro h
  replace h : (_ && _) = true := h
  exact readable_of rfl rfl rfl (.s rfl rfl rfl rfl rfl) (by simp_all [Raw.base]) (extra_of_plain rfl)
    (by simp [buildAt, buildRows, buildRow9, Raw.base])

theorem moveF_readable (g : Guard) (d a : FReg) (x y : GReg) :
    ∀ i ∈ ([.fmov g d a, .exp2 g d a, .fmvg g x a, .sget g x a, .sset g d y] : List Instr), i.wf = true → i.Readable := by
  simp only [List.forall_mem_cons, List.not_mem_nil, false_imp_iff, implies_true, and_true]
  and_intros
  all_goals
    intro h
    replace h : (_ && _) = true := h
    exact readable_of rfl rfl rfl (.s rfl rfl rfl rfl rfl) (by simp_all [Raw.base]) (extra_of_plain rfl)
      (by simp [buildAt, buildRows, buildRow7, Raw.base])

theorem long_readable (g : Guard) (d a b c e : GReg) :
    ∀ i ∈ ([.copyq g a b c e, .copyqt g d a b c e] : List Instr), i.wf = true → i.Readable := by
  simp only [List.forall_mem_cons, List.not_mem_nil, false_imp_iff, implies_true, and_true]
  and_intros
  all_goals
    intro h
    replace h : (_ && _) = true := h
    exact readable_of rfl rfl rfl (.l rfl) (by simp_all [Raw.base]) (extra_of_plain rfl)
      (by simp [buildAt, buildRows, buildRow13, Raw.base])

theorem range_readable (g : Guard) (c : GReg) (m : MemOp) :
    ∀ i ∈ ([.inval g m c, .cwb g m c] : List Instr), i.wf = true → i.Readable := by
  simp only [List.forall_mem_cons, List.not_mem_nil, false_imp_iff, implies_true, and_true]
  obtain ⟨m, v | ⟨r, k⟩⟩ := m
  all_goals
    and_intros
    all_goals
      intro h
      replace h : (_ && _) = true := h
      exact readable_of rfl rfl rfl (.m rfl rfl rfl) (by simp_all [Raw.base]) (extra_of_plain rfl)
        (by simp [buildAt, buildRows, buildRow4, Raw.base])

theorem signal_readable (g : Guard) (a b c : GReg) :
    ∀ i ∈ ([.signal g a b c, .slinv g a c] : List Instr), i.wf = true → i.Readable := by
  simp only [List.forall_mem_cons, List.not_mem_nil, false_imp_iff, implies_true, and_true]
  and_intros
  all_goals
    intro h
    replace h : (_ && _) = true := h
    exact readable_of rfl rfl rfl (.m rfl rfl rfl) (by simp_all [Raw.base]) (extra_of_plain rfl)
      (by simp [buildAt, buildRows, buildRow14, buildRow15, Raw.base])

theorem vsel_readable (g : Guard) (d a b : VReg) (c : QReg) :
    (Instr.vsel g d a b c).wf = true → (Instr.vsel g d a b c).Readable := by
  intro h
  replace h : Guard.ok _ = true := h
  exact readable_of rfl rfl rfl (.m rfl rfl rfl) (by simp_all [Raw.base]) (extra_of_plain rfl)
    (by simp [buildAt, buildRows, buildRow9, Raw.base])

theorem extend_readable (g : Guard) (d a : GReg) (w : ExtW) :
    ∀ i ∈ ([.sext g d a w, .zext g d a w] : List Instr), i.wf = true → i.Readable := by
  simp only [List.forall_mem_cons, List.not_mem_nil, false_imp_iff, implies_true, and_true]
  have := w.code_lt
  obtain ⟨e1, e2⟩ : field w.code 0 2 = w.code ∧ field w.code 2 21 = 0 := by
    simp only [field]; omega
  and_intros
  all_goals
    intro h
    replace h : (_ && _) = true := h
    exact readable_of rfl rfl rfl (.s rfl rfl rfl rfl rfl) (by simp_all [Raw.base]) (extra_of_plain rfl)
      (by simp [buildAt, buildRows, buildRow0, Raw.base, e1])

theorem select_readable (g : Guard) (d a b : GReg) (k : BitVec 3) :
    ∀ i ∈ ([.sel g d a b k, .wtake g d k] : List Instr), i.wf = true → i.Readable := by
  simp only [List.forall_mem_cons, List.not_mem_nil, false_imp_iff, implies_true, and_true]
  and_intros
  all_goals
    intro h
    replace h : (_ && _) = true := h
    exact readable_of rfl rfl rfl (.s rfl rfl rfl rfl rfl) (by simp_all [Raw.base]) (extra_of_plain rfl)
      (by simp [buildAt, buildRows, buildRow1, buildRow3, Raw.base])

theorem bar_readable (g : Guard) (sc : BarScope) :
    (Instr.bar g sc).wf = true → (Instr.bar g sc).Readable := by
  have := sc.code_lt
  obtain ⟨e1, e2⟩ : field sc.code 0 2 = sc.code ∧ field sc.code 2 21 = 0 := by
    simp only [field]; omega
  intro h
  replace h : Guard.ok _ = true := h
  exact readable_of rfl rfl rfl (.s rfl rfl rfl rfl rfl) (by simp_all [Raw.base]) (extra_of_plain rfl)
    (by simp [buildAt, buildRows, buildRow3, Raw.base, e1])

theorem fp_readable (g : Guard) (d a b : FReg) (f : Fmt) :
    ∀ i ∈ ([.fadd g d a b f, .fsub g d a b f, .fmul g d a b f, .fdiv g d a b f, .fmin g d a b f, .fmax g d a b f, .fcpys g d a b f,
      .fsqrt g d a f, .fabs g d a f, .fneg g d a f] : List Instr), i.wf = true → i.Readable := by
  simp only [List.forall_mem_cons, List.not_mem_nil, false_imp_iff, implies_true, and_true]
  have := f.code_lt
  obtain ⟨e1, e2⟩ : field f.code 0 2 = f.code ∧ field f.code 2 21 = 0 := by
    simp only [field]; omega
  and_intros
  all_goals
    intro h
    replace h : (_ && _) = true := h
    exact readable_of rfl rfl rfl (.s rfl rfl rfl rfl rfl) (by simp_all [Raw.base]) (extra_of_plain rfl)
      (by simp [buildAt, buildRows, buildRow6, Raw.base, e1])

theorem fma_readable (g : Guard) (d a b c : FReg) (f : Fmt) :
    ∀ i ∈ ([.fma g d a b c f, .fms g d a b c f, .fnma g d a b c f, .fnms g d a b c f] : List Instr), i.wf = true → i.Readable := by
  simp only [List.forall_mem_cons, List.not_mem_nil, false_imp_iff, implies_true, and_true]
  have := f.code_lt
  obtain ⟨e1, e2⟩ : field f.code 0 2 = f.code ∧ field f.code 2 21 = 0 := by
    simp only [field]; omega
  and_intros
  all_goals
    intro h
    replace h : (_ && _) = true := h
    exact readable_of rfl rfl rfl (.m rfl rfl rfl) (by simp_all [Raw.base]) (extra_of_plain rfl)
      (by simp [buildAt, buildRows, buildRow6, Raw.base, e1])

theorem fcmp_readable (g : Guard) (p : PReg) (d : GReg) (a b x : FReg) (y : GReg) (f : Fmt) :
    ∀ i ∈ ([.fcmpeq g p a b f, .fcmplt g p a b f, .fcmple g p a b f, .fcmpun g p a b f, .fclass g d a f, .fmvf g x y f] : List Instr),
      i.wf = true → i.Readable := by
  simp only [List.forall_mem_cons, List.not_mem_nil, false_imp_iff, implies_true, and_true]
  have := f.code_lt
  obtain ⟨e1, e2⟩ : field f.code 0 2 = f.code ∧ field f.code 2 21 = 0 := by
    simp only [field]; omega
  and_intros
  all_goals
    intro h
    replace h : (_ && _) = true := h
    exact readable_of rfl rfl rfl (.s rfl rfl rfl rfl rfl) (by simp_all [Raw.base]) (extra_of_plain rfl)
      (by simp [buildAt, buildRows, buildRow6, buildRow7, Raw.base, e1])

theorem fround_readable (g : Guard) (d a : FReg) (f : Fmt) (rm : Rnd) :
    (Instr.fround g d a f rm).wf = true → (Instr.fround g d a f rm).Readable := by
  have := f.code_lt
  have := rm.code_lt
  obtain ⟨e1, e2, e3, e4⟩ : field (f.code + rm.code * 32) 0 2 = f.code ∧ field (f.code + rm.code * 32) 5 3 = rm.code ∧
      field (f.code + rm.code * 32) 2 3 = 0 ∧ field (f.code + rm.code * 32) 8 15 = 0 := by
    simp only [field]; omega
  intro h
  replace h : (_ && _) = true := h
  exact readable_of rfl rfl rfl (.s rfl rfl rfl rfl rfl) (by simp_all [Raw.base]) (extra_of_plain rfl)
    (by simp [buildAt, buildRows, buildRow6, Raw.base, e1, e2])

theorem ftoi_readable (g : Guard) (d : GReg) (a : FReg) (f : Fmt) (ic : IntCode) (rm : Rnd) :
    (Instr.ftoi g d a f ic rm).wf = true → (Instr.ftoi g d a f ic rm).Readable := by
  have := f.code_lt
  have := ic.code_mem
  have := rm.code_lt
  obtain ⟨e1, e2, e3, e4⟩ : field (f.code + ic.code * 4 + rm.code * 32) 0 2 = f.code ∧
      field (f.code + ic.code * 4 + rm.code * 32) 2 3 = ic.code ∧ field (f.code + ic.code * 4 + rm.code * 32) 5 3 = rm.code ∧
      field (f.code + ic.code * 4 + rm.code * 32) 8 15 = 0 := by
    simp only [field]; omega
  intro h
  replace h : (_ && _) = true := h
  exact readable_of rfl rfl rfl (.s rfl rfl rfl rfl rfl) (by simp_all [Raw.base]) (extra_of_plain rfl)
    (by simp [buildAt, buildRows, buildRow7, Raw.base, e1, e2, e3])

theorem itof_readable (g : Guard) (d : FReg) (a : GReg) (f : Fmt) (ic : IntCode) :
    (Instr.itof g d a f ic).wf = true → (Instr.itof g d a f ic).Readable := by
  have := f.code_lt
  have := ic.code_mem
  obtain ⟨e1, e2, e3⟩ : field (f.code + ic.code * 4) 0 2 = f.code ∧ field (f.code + ic.code * 4) 2 3 = ic.code ∧
      field (f.code + ic.code * 4) 5 18 = 0 := by
    simp only [field]; omega
  intro h
  replace h : (_ && _) = true := h
  exact readable_of rfl rfl rfl (.s rfl rfl rfl rfl rfl) (by simp_all [Raw.base]) (extra_of_plain rfl)
    (by simp [buildAt, buildRows, buildRow7, Raw.base, e1, e2])

theorem fence_readable (g : Guard) (sc : Scope) (k : FenceKind) :
    (Instr.fence g sc k).wf = true → (Instr.fence g sc k).Readable := by
  have := sc.code_lt
  have := k.code_lt
  have hk : k.code = 0 ↔ k = .none := by cases k <;> simp [FenceKind.code]
  obtain ⟨e1, e2, e3⟩ : field (sc.code + k.code * 4) 0 2 = sc.code ∧ field (sc.code + k.code * 4) 2 2 = k.code ∧
      field (sc.code + k.code * 4) 4 19 = 0 := by
    simp only [field]; omega
  intro h
  replace h : (_ && _) = true := h
  exact readable_of rfl rfl rfl (.s rfl rfl rfl rfl rfl) (by simp_all [Raw.base]) (extra_of_plain rfl)
    (by simp [buildAt, buildRows, buildRow5, Raw.base, e1, e2])

theorem loadF_readable (g : Guard) (d : FReg) (m : MemOp) (c : GReg) (f : Fmt) (ty : ReqType) :
    ∀ i ∈ ([.ldf g d m f ty, .stf g d m f ty, .ldfc g d m c f ty, .stfc g d m c f ty] : List Instr), i.wf = true → i.Readable := by
  simp only [List.forall_mem_cons, List.not_mem_nil, false_imp_iff, implies_true, and_true]
  have := f.code_lt
  have := ty.code_lt
  obtain ⟨e1, e2, e3⟩ : field (f.code + ty.code * 8) 0 3 = f.code ∧ field (f.code + ty.code * 8) 3 2 = ty.code ∧
      field (f.code + ty.code * 8) 5 19 = 0 := by
    simp only [field]; omega
  obtain ⟨m, v | ⟨r, k⟩⟩ := m
  all_goals
    and_intros
    all_goals
      intro h
      replace h : (_ && _) = true := h
      exact readable_of rfl rfl rfl (.m rfl rfl rfl) (by simp_all [Raw.base]) (extra_of_plain rfl)
        (by simp [buildAt, buildRows, buildRow4, Raw.base, e1, e2])

theorem pair_readable (g : Guard) (d c : GReg) (m : MemOp) (ty : ReqType) :
    ∀ i ∈ ([.stp g d m c ty, .pref g m ty] : List Instr), i.wf = true → i.Readable := by
  simp only [List.forall_mem_cons, List.not_mem_nil, false_imp_iff, implies_true, and_true]
  have := ty.code_lt
  obtain ⟨e1, e2, e3⟩ : field (ty.code * 8) 0 3 = 0 ∧ field (ty.code * 8) 3 2 = ty.code ∧ field (ty.code * 8) 5 19 = 0 := by
    simp only [field]; omega
  obtain ⟨m, v | ⟨r, k⟩⟩ := m
  all_goals
    and_intros
    all_goals
      intro h
      replace h : (_ && _) = true := h
      exact readable_of rfl rfl rfl (.m rfl rfl rfl) (by simp_all [Raw.base]) (extra_of_plain rfl)
        (by simp [buildAt, buildRows, buildRow4, Raw.base, e2])

theorem amo_readable (g : Guard) (d c : GReg) (m : MemOp) (w : AtW) (sc : Scope) (k : FenceKind) (op : AmoOp) :
    (Instr.amo g d m c w sc k op).wf = true → (Instr.amo g d m c w sc k op).Readable := by
  have := w.code_mem
  have := sc.code_lt
  have := k.code_lt
  have := op.code_lt
  obtain ⟨e1, e2, e3, e4, e5, e6⟩ : field (w.code + sc.code * 32 + k.code * 128 + op.code * 512) 0 3 = w.code ∧
      field (w.code + sc.code * 32 + k.code * 128 + op.code * 512) 5 2 = sc.code ∧
      field (w.code + sc.code * 32 + k.code * 128 + op.code * 512) 7 2 = k.code ∧
      field (w.code + sc.code * 32 + k.code * 128 + op.code * 512) 9 4 = op.code ∧
      field (w.code + sc.code * 32 + k.code * 128 + op.code * 512) 3 2 = 0 ∧
      field (w.code + sc.code * 32 + k.code * 128 + op.code * 512) 13 11 = 0 := by
    simp only [field]; omega
  obtain ⟨m, v | ⟨r, k⟩⟩ := m
  all_goals
    intro h
    replace h : (_ && _) = true := h
    exact readable_of rfl rfl rfl (.m rfl rfl rfl) (by simp_all [Raw.base]) (extra_of_plain rfl)
      (by simp [buildAt, buildRows, buildRow5, Raw.base, e1, e2, e3, e4])

theorem amocas_readable (g : Guard) (d c : GReg) (m : MemOp) (w : AtW) (sc : Scope) (k : FenceKind) :
    (Instr.amocas g d m c w sc k).wf = true → (Instr.amocas g d m c w sc k).Readable := by
  have := w.code_mem
  have := sc.code_lt
  have := k.code_lt
  obtain ⟨e1, e2, e3, e4, e5⟩ : field (w.code + sc.code * 32 + k.code * 128) 0 3 = w.code ∧
      field (w.code + sc.code * 32 + k.code * 128) 5 2 = sc.code ∧ field (w.code + sc.code * 32 + k.code * 128) 7 2 = k.code ∧
      field (w.code + sc.code * 32 + k.code * 128) 3 2 = 0 ∧ field (w.code + sc.code * 32 + k.code * 128) 9 15 = 0 := by
    simp only [field]; omega
  obtain ⟨m, v | ⟨r, k⟩⟩ := m
  all_goals
    intro h
    replace h : (_ && _) = true := h
    exact readable_of rfl rfl rfl (.m rfl rfl rfl) (by simp_all [Raw.base]) (extra_of_plain rfl)
      (by simp [buildAt, buildRows, buildRow5, Raw.base, e1, e2, e3])

theorem amof_readable (g : Guard) (d c : FReg) (m : MemOp) (f : AmofFmt) (sc : Scope) (k : FenceKind) (op : AmofOp) :
    (Instr.amof g d m c f sc k op).wf = true → (Instr.amof g d m c f sc k op).Readable := by
  have := f.code_lt
  have := sc.code_lt
  have := k.code_lt
  have := op.code_lt
  obtain ⟨e1, e2, e3, e4, e5, e6⟩ : field (f.code + sc.code * 32 + k.code * 128 + op.code * 512) 0 3 = f.code ∧
      field (f.code + sc.code * 32 + k.code * 128 + op.code * 512) 5 2 = sc.code ∧
      field (f.code + sc.code * 32 + k.code * 128 + op.code * 512) 7 2 = k.code ∧
      field (f.code + sc.code * 32 + k.code * 128 + op.code * 512) 9 4 = op.code ∧
      field (f.code + sc.code * 32 + k.code * 128 + op.code * 512) 3 2 = 0 ∧
      field (f.code + sc.code * 32 + k.code * 128 + op.code * 512) 13 11 = 0 := by
    simp only [field]; omega
  obtain ⟨m, v | ⟨r, k⟩⟩ := m
  all_goals
    intro h
    replace h : (_ && _) = true := h
    exact readable_of rfl rfl rfl (.m rfl rfl rfl) (by simp_all [Raw.base]) (extra_of_plain rfl)
      (by simp [buildAt, buildRows, buildRow5, Raw.base, e1, e2, e3, e4])

theorem vec_readable (g : Guard) (d a b : VReg) (f : Fmt) (gm : GMask) :
    ∀ i ∈ ([.vadd g d a b f gm, .vsub g d a b f gm, .vmul g d a b f gm, .vmin g d a b f gm, .vmax g d a b f gm, .vdiv g d a b f gm,
      .vabs g d a f gm, .vneg g d a f gm, .vsqrt g d a f gm, .vsset g d a f gm] : List Instr), i.wf = true → i.Readable := by
  simp only [List.forall_mem_cons, List.not_mem_nil, false_imp_iff, implies_true, and_true]
  have := f.code_lt
  have := maskCode_mem gm
  obtain ⟨e1, e2, e3, e4⟩ : field (f.code + maskCode gm * 8) 0 2 = f.code ∧ field (f.code + maskCode gm * 8) 3 4 = maskCode gm ∧
      field (f.code + maskCode gm * 8) 2 1 = 0 ∧ field (f.code + maskCode gm * 8) 7 16 = 0 := by
    simp only [field]; omega
  and_intros
  all_goals
    intro h
    replace h : Guard.ok _ = true := h
    exact readable_of rfl rfl rfl (.s rfl rfl rfl rfl rfl) (by simp_all [Raw.base]) (extra_of_plain rfl)
      (by simp [buildAt, buildRows, buildRow8, Raw.base, e1, e2])

theorem vfma_readable (g : Guard) (d a b c : VReg) (f : Fmt) (gm : GMask) :
    ∀ i ∈ ([.vfma g d a b c f gm, .vfms g d a b c f gm] : List Instr), i.wf = true → i.Readable := by
  simp only [List.forall_mem_cons, List.not_mem_nil, false_imp_iff, implies_true, and_true]
  have := f.code_lt
  have := maskCode_mem gm
  obtain ⟨e1, e2, e3, e4⟩ : field (f.code + maskCode gm * 8) 0 2 = f.code ∧ field (f.code + maskCode gm * 8) 3 4 = maskCode gm ∧
      field (f.code + maskCode gm * 8) 2 1 = 0 ∧ field (f.code + maskCode gm * 8) 7 16 = 0 := by
    simp only [field]; omega
  and_intros
  all_goals
    intro h
    replace h : Guard.ok _ = true := h
    exact readable_of rfl rfl rfl (.m rfl rfl rfl) (by simp_all [Raw.base]) (extra_of_plain rfl)
      (by simp [buildAt, buildRows, buildRow8, Raw.base, e1, e2])

theorem masked_readable (g : Guard) (d a b : VReg) (gm : GMask) :
    ∀ i ∈ ([.vexp2 g d a gm, .vsget g d a gm, .vmov g d a gm, .vand g d a b gm, .vor g d a b gm, .vxor g d a b gm] : List Instr),
      i.wf = true → i.Readable := by
  simp only [List.forall_mem_cons, List.not_mem_nil, false_imp_iff, implies_true, and_true]
  have := maskCode_mem gm
  obtain ⟨e1, e2, e3, e4, e5⟩ : field (maskCode gm * 8) 0 2 = 0 ∧ field (maskCode gm * 8) 0 3 = 0 ∧
      field (maskCode gm * 8) 3 4 = maskCode gm ∧ field (maskCode gm * 8) 2 1 = 0 ∧ field (maskCode gm * 8) 7 16 = 0 := by
    simp only [field]; omega
  and_intros
  all_goals
    intro h
    replace h : Guard.ok _ = true := h
    exact readable_of rfl rfl rfl (.s rfl rfl rfl rfl rfl) (by simp_all [Raw.base]) (extra_of_plain rfl)
      (by simp [buildAt, buildRows, buildRow8, buildRow9, buildRow10, Raw.base, e3])

theorem vcvt_readable (g : Guard) (d a : VReg) (gm : GMask) (cv : CvtOp) (half : Bool) :
    (Instr.vcvt g d a gm cv half).wf = true → (Instr.vcvt g d a gm cv half).Readable := by
  have := maskCode_mem gm
  have := cv.code_lt
  have := half.toNat_lt
  obtain ⟨e1, e2, e3, e4, e5⟩ : field (maskCode gm * 8 + cv.code * 128 + half.toNat * 4096) 3 4 = maskCode gm ∧
      field (maskCode gm * 8 + cv.code * 128 + half.toNat * 4096) 7 5 = cv.code ∧
      field (maskCode gm * 8 + cv.code * 128 + half.toNat * 4096) 12 1 = half.toNat ∧
      field (maskCode gm * 8 + cv.code * 128 + half.toNat * 4096) 0 3 = 0 ∧
      field (maskCode gm * 8 + cv.code * 128 + half.toNat * 4096) 13 10 = 0 := by
    simp only [field]; omega
  intro h
  replace h : Guard.ok _ = true := h
  exact readable_of rfl rfl rfl (.s rfl rfl rfl rfl rfl) (by simp_all [Raw.base]) (extra_of_plain rfl)
    (by simp [buildAt, buildRows, buildRow8, Raw.base, e1, e2, e3])

theorem vred_readable (g : Guard) (d : FReg) (a : VReg) (f : Fmt) (gm : GMask) (op : RedOp) :
    (Instr.vred g d a f gm op).wf = true → (Instr.vred g d a f gm op).Readable := by
  have := f.code_lt
  have := maskCode_mem gm
  have := op.code_lt
  obtain ⟨e1, e2, e3, e4, e5⟩ : field (f.code + maskCode gm * 8 + op.code * 128) 0 2 = f.code ∧
      field (f.code + maskCode gm * 8 + op.code * 128) 3 4 = maskCode gm ∧
      field (f.code + maskCode gm * 8 + op.code * 128) 7 3 = op.code ∧ field (f.code + maskCode gm * 8 + op.code * 128) 2 1 = 0 ∧
      field (f.code + maskCode gm * 8 + op.code * 128) 10 13 = 0 := by
    simp only [field]; omega
  intro h
  replace h : (_ && _) = true := h
  exact readable_of rfl rfl rfl (.s rfl rfl rfl rfl rfl) (by simp_all [Raw.base]) (extra_of_plain rfl)
    (by simp [buildAt, buildRows, buildRow8, Raw.base, e1, e2, e3])

theorem veci_readable (g : Guard) (d a b : VReg) (w : VW) (gm : GMask) :
    ∀ i ∈ ([.viadd g d a b w gm, .visub g d a b w gm, .vimul g d a b w gm, .vshl g d a b w gm, .vshr g d a b w gm,
      .vsar g d a b w gm] : List Instr), i.wf = true → i.Readable := by
  simp only [List.forall_mem_cons, List.not_mem_nil, false_imp_iff, implies_true, and_true]
  have := w.code_lt
  have := maskCode_mem gm
  obtain ⟨e1, e2, e3, e4⟩ : field (w.code + maskCode gm * 8) 0 2 = w.code ∧ field (w.code + maskCode gm * 8) 3 4 = maskCode gm ∧
      field (w.code + maskCode gm * 8) 2 1 = 0 ∧ field (w.code + maskCode gm * 8) 7 16 = 0 := by
    simp only [field]; omega
  and_intros
  all_goals
    intro h
    replace h : Guard.ok _ = true := h
    exact readable_of rfl rfl rfl (.s rfl rfl rfl rfl rfl) (by simp_all [Raw.base]) (extra_of_plain rfl)
      (by simp [buildAt, buildRows, buildRow9, Raw.base, e1, e2])

theorem vimin_readable (g : Guard) (d a b : VReg) (w : VW) (un : Bool) (gm : GMask) :
    ∀ i ∈ ([.vimin g d a b w un gm, .vimax g d a b w un gm] : List Instr), i.wf = true → i.Readable := by
  simp only [List.forall_mem_cons, List.not_mem_nil, false_imp_iff, implies_true, and_true]
  have := w.code_lt
  have := un.toNat_lt
  have := maskCode_mem gm
  obtain ⟨e1, e2, e3, e4⟩ : field (w.code + un.toNat * 4 + maskCode gm * 8) 0 2 = w.code ∧
      field (w.code + un.toNat * 4 + maskCode gm * 8) 2 1 = un.toNat ∧
      field (w.code + un.toNat * 4 + maskCode gm * 8) 3 4 = maskCode gm ∧
      field (w.code + un.toNat * 4 + maskCode gm * 8) 7 16 = 0 := by
    simp only [field]; omega
  and_intros
  all_goals
    intro h
    replace h : Guard.ok _ = true := h
    exact readable_of rfl rfl rfl (.s rfl rfl rfl rfl rfl) (by simp_all [Raw.base]) (extra_of_plain rfl)
      (by simp [buildAt, buildRows, buildRow9, Raw.base, e1, e2, e3])

theorem vicmp_readable (g : Guard) (d : QReg) (a b : VReg) (w : VWw) (un : Bool) (gm : GMask) (k : ICond) :
    (Instr.vicmp g d a b w un gm k).wf = true → (Instr.vicmp g d a b w un gm k).Readable := by
  have := w.code_eq
  have := un.toNat_lt
  have := maskCode_mem gm
  have := k.code_lt
  obtain ⟨e1, e2, e3, e4, e5⟩ : field (w.code + un.toNat * 4 + maskCode gm * 8 + k.code * 128) 0 2 = w.code ∧
      field (w.code + un.toNat * 4 + maskCode gm * 8 + k.code * 128) 2 1 = un.toNat ∧
      field (w.code + un.toNat * 4 + maskCode gm * 8 + k.code * 128) 3 4 = maskCode gm ∧
      field (w.code + un.toNat * 4 + maskCode gm * 8 + k.code * 128) 7 3 = k.code ∧
      field (w.code + un.toNat * 4 + maskCode gm * 8 + k.code * 128) 10 13 = 0 := by
    simp only [field]; omega
  intro h
  replace h : Guard.ok _ = true := h
  exact readable_of rfl rfl rfl (.s rfl rfl rfl rfl rfl) (by simp_all [Raw.base]) (extra_of_plain rfl)
    (by simp [buildAt, buildRows, buildRow9, Raw.base, e1, e2, e3, e4])

theorem qmov_readable (g : Guard) (d : QReg) (a : GReg) (x : GReg) (y : QReg) :
    ∀ i ∈ ([.qmovToQ g d a, .qmovToG g x y] : List Instr), i.wf = true → i.Readable := by
  simp only [List.forall_mem_cons, List.not_mem_nil, false_imp_iff, implies_true, and_true]
  obtain ⟨e1, e2⟩ : field 1 0 1 = 1 ∧ field 1 1 22 = 0 := by decide
  and_intros
  all_goals
    intro h
    replace h : (_ && _) = true := h
    exact readable_of rfl rfl rfl (.s rfl rfl rfl rfl rfl) (by simp_all [Raw.base]) (extra_of_plain rfl)
      (by simp [buildAt, buildRows, buildRow9, Raw.base, e1])

theorem vload_readable (g : Guard) (d : VReg) (m : MemOp) (dc : VData) (ty : ReqType) (gm : GMask) :
    ∀ i ∈ ([.vld g d m dc ty gm, .vst g d m dc ty gm] : List Instr), i.wf = true → i.Readable := by
  simp only [List.forall_mem_cons, List.not_mem_nil, false_imp_iff, implies_true, and_true]
  have := dc.code_lt
  have := ty.code_lt
  have := maskCode_mem gm
  obtain ⟨e1, e2, e3, e4, e5⟩ : field (dc.code + ty.code * 8 + maskCode gm * 512) 0 3 = dc.code ∧
      field (dc.code + ty.code * 8 + maskCode gm * 512) 3 2 = ty.code ∧
      field (dc.code + ty.code * 8 + maskCode gm * 512) 9 4 = maskCode gm ∧
      field (dc.code + ty.code * 8 + maskCode gm * 512) 5 4 = 0 ∧
      field (dc.code + ty.code * 8 + maskCode gm * 512) 13 11 = 0 := by
    simp only [field]; omega
  obtain ⟨m, v | ⟨r, k⟩⟩ := m
  all_goals
    and_intros
    all_goals
      intro h
      replace h : (_ && _) = true := h
      exact readable_of rfl rfl rfl (.m rfl rfl rfl) (by simp_all [Raw.base]) (extra_of_plain rfl)
        (by simp [buildAt, buildRows, buildRow10, Raw.base, e1, e2, e3])

theorem vgather_readable (g : Guard) (d : VReg) (m : MemIdx) (dc : VData) (ty : ReqType) (gm : GMask) :
    ∀ i ∈ ([.vldx g d m dc ty gm, .vstx g d m dc ty gm] : List Instr), i.wf = true → i.Readable := by
  simp only [List.forall_mem_cons, List.not_mem_nil, false_imp_iff, implies_true, and_true]
  have := dc.code_lt
  have := ty.code_lt
  have := maskCode_mem gm
  obtain ⟨e1, e2, e3, e4, e5⟩ : field (dc.code + ty.code * 8 + maskCode gm * 512) 0 3 = dc.code ∧
      field (dc.code + ty.code * 8 + maskCode gm * 512) 3 2 = ty.code ∧
      field (dc.code + ty.code * 8 + maskCode gm * 512) 9 4 = maskCode gm ∧
      field (dc.code + ty.code * 8 + maskCode gm * 512) 5 4 = 0 ∧
      field (dc.code + ty.code * 8 + maskCode gm * 512) 13 11 = 0 := by
    simp only [field]; omega
  and_intros
  all_goals
    intro h
    replace h : (_ && _) = true := h
    exact readable_of rfl rfl rfl (.m rfl rfl rfl) (by simp_all [Raw.base]) (extra_of_plain rfl)
      (by simp [buildAt, buildRows, buildRow10, Raw.base, e1, e2, e3])

theorem vloadC_readable (g : Guard) (d : VReg) (m : MemOp) (c : GReg) (dc : Fmt) (ty : ReqType) (gm : GMask) :
    ∀ i ∈ ([.vldc g d m c dc ty gm, .vstc g d m c dc ty gm] : List Instr), i.wf = true → i.Readable := by
  simp only [List.forall_mem_cons, List.not_mem_nil, false_imp_iff, implies_true, and_true]
  have := dc.code_lt
  have := ty.code_lt
  have := maskCode_mem gm
  obtain ⟨e1, e2, e3, e4, e5⟩ : field (dc.code + ty.code * 8 + maskCode gm * 512) 0 3 = dc.code ∧
      field (dc.code + ty.code * 8 + maskCode gm * 512) 3 2 = ty.code ∧
      field (dc.code + ty.code * 8 + maskCode gm * 512) 9 4 = maskCode gm ∧
      field (dc.code + ty.code * 8 + maskCode gm * 512) 5 4 = 0 ∧
      field (dc.code + ty.code * 8 + maskCode gm * 512) 13 11 = 0 := by
    simp only [field]; omega
  obtain ⟨m, v | ⟨r, k⟩⟩ := m
  all_goals
    and_intros
    all_goals
      intro h
      replace h : (_ && _) = true := h
      exact readable_of rfl rfl rfl (.m rfl rfl rfl) (by simp_all [Raw.base]) (extra_of_plain rfl)
        (by simp [buildAt, buildRows, buildRow10, Raw.base, e1, e2, e3])

theorem vshuf_readable (g : Guard) (d a b c : VReg) (gm : GMask) :
    (Instr.vshuf g d a b c gm).wf = true → (Instr.vshuf g d a b c gm).Readable := by
  have := maskCode_mem gm
  obtain ⟨e1, e2, e3⟩ : field (maskCode gm * 512) 0 9 = 0 ∧ field (maskCode gm * 512) 9 4 = maskCode gm ∧
      field (maskCode gm * 512) 13 11 = 0 := by
    simp only [field]; omega
  intro h
  replace h : Guard.ok _ = true := h
  exact readable_of rfl rfl rfl (.m rfl rfl rfl) (by simp_all [Raw.base]) (extra_of_plain rfl)
    (by simp [buildAt, buildRows, buildRow10, Raw.base, e2])

theorem viota_readable (g : Guard) (d : VReg) (a b : GReg) (gm : GMask) :
    (Instr.viota g d a b gm).wf = true → (Instr.viota g d a b gm).Readable := by
  have := maskCode_mem gm
  obtain ⟨e1, e2, e3⟩ : field (maskCode gm * 8) 0 3 = 0 ∧ field (maskCode gm * 8) 3 4 = maskCode gm ∧
      field (maskCode gm * 8) 7 16 = 0 := by
    simp only [field]; omega
  intro h
  replace h : (_ && _) = true := h
  exact readable_of rfl rfl rfl (.s rfl rfl rfl rfl rfl) (by simp_all [Raw.base]) (extra_of_plain rfl)
    (by simp [buildAt, buildRows, buildRow10, Raw.base, e2])

theorem mma_readable (g : Guard) (d : AReg) (a b c e : GReg) (f : MmaFmt) (bg ag : Bool) (kk : BitVec 10) :
    (Instr.mma g d a b c e f bg ag kk).wf = true → (Instr.mma g d a b c e f bg ag kk).Readable := by
  have := f.code_mem
  have := bg.toNat_lt
  have := ag.toNat_lt
  have := kk.isLt
  obtain ⟨e1, e2, e3, e4, e5⟩ : field (f.code + bg.toNat * 8192 + ag.toNat * 4096 + kk.toNat * 4) 0 2 = f.code ∧
      field (f.code + bg.toNat * 8192 + ag.toNat * 4096 + kk.toNat * 4) 2 10 = kk.toNat ∧
      field (f.code + bg.toNat * 8192 + ag.toNat * 4096 + kk.toNat * 4) 12 1 = ag.toNat ∧
      field (f.code + bg.toNat * 8192 + ag.toNat * 4096 + kk.toNat * 4) 13 1 = bg.toNat ∧
      field (f.code + bg.toNat * 8192 + ag.toNat * 4096 + kk.toNat * 4) 14 9 = 0 := by
    simp only [field]; omega
  intro h
  replace h : (_ && _) = true := h
  exact readable_of rfl rfl rfl (.l rfl) (by simp_all [Raw.base]) (extra_of_plain rfl)
    (by simp [buildAt, buildRows, buildRow11, Raw.base, e1, e2, e3, e4])

theorem mmaq_readable (g : Guard) (d : AReg) (a b c e : GReg) (f : QFmt) (bg ag : Bool) (kk : BitVec 10) :
    (Instr.mmaq g d a b c e f bg ag kk).wf = true → (Instr.mmaq g d a b c e f bg ag kk).Readable := by
  have := f.code_lt
  have := bg.toNat_lt
  have := ag.toNat_lt
  have := kk.isLt
  obtain ⟨e1, e2, e3, e4, e5⟩ : field (f.code + bg.toNat * 8192 + ag.toNat * 4096 + kk.toNat * 4) 0 2 = f.code ∧
      field (f.code + bg.toNat * 8192 + ag.toNat * 4096 + kk.toNat * 4) 2 10 = kk.toNat ∧
      field (f.code + bg.toNat * 8192 + ag.toNat * 4096 + kk.toNat * 4) 12 1 = ag.toNat ∧
      field (f.code + bg.toNat * 8192 + ag.toNat * 4096 + kk.toNat * 4) 13 1 = bg.toNat ∧
      field (f.code + bg.toNat * 8192 + ag.toNat * 4096 + kk.toNat * 4) 14 9 = 0 := by
    simp only [field]; omega
  intro h
  replace h : (_ && _) = true := h
  exact readable_of rfl rfl rfl (.l rfl) (by simp_all [Raw.base]) (extra_of_plain rfl)
    (by simp [buildAt, buildRows, buildRow11, Raw.base, e1, e2, e3, e4])

theorem mscale_readable (g : Guard) (d : AReg) (a : FReg) (b : RegImm) :
    (Instr.mscale g d a b).wf = true → (Instr.mscale g d a b).Readable := by
  obtain r | v := b
  all_goals
    intro h
    replace h : (_ && _) = true := h
    exact readable_of rfl rfl rfl (.s rfl rfl rfl rfl rfl) (by simp_all [Raw.base]) (extra_of_plain rfl)
      (by simp [buildAt, buildRows, buildRow11, Raw.base])

theorem smxa_readable (g : Guard) (d a : AReg) (b c e : GReg) (f : MmaFmt) (fs : BitVec 5) :
    (Instr.smxa g d a b c e f fs).wf = true → (Instr.smxa g d a b c e f fs).Readable := by
  have := f.code_mem
  have := fs.isLt
  obtain ⟨e1, e2, e3⟩ : field (f.code + fs.toNat * 4) 0 2 = f.code ∧ field (f.code + fs.toNat * 4) 2 5 = fs.toNat ∧
      field (f.code + fs.toNat * 4) 7 16 = 0 := by
    simp only [field]; omega
  intro h
  replace h : (_ && _) = true := h
  exact readable_of rfl rfl rfl (.l rfl) (by simp_all [Raw.base]) (extra_of_plain rfl)
    (by simp [buildAt, buildRows, buildRow12, Raw.base, e1, e2])

theorem smx_readable (g : Guard) (d a : AReg) (b : RegImm) :
    ∀ i ∈ ([.smxmerge g d a b, .smxinit g d b] : List Instr), i.wf = true → i.Readable := by
  simp only [List.forall_mem_cons, List.not_mem_nil, false_imp_iff, implies_true, and_true]
  obtain r | v := b
  all_goals
    and_intros
    all_goals
      intro h
      replace h : (_ && _) = true := h
      exact readable_of rfl rfl rfl (.s rfl rfl rfl rfl rfl) (by simp_all [Raw.base]) (extra_of_plain rfl)
        (by simp [buildAt, buildRows, buildRow12, Raw.base])

theorem smxfin_readable (g : Guard) (d : AReg) (b : RegImm) (rst : Bool) :
    (Instr.smxfin g d b rst).wf = true → (Instr.smxfin g d b rst).Readable := by
  have := rst.toNat_lt
  obtain ⟨e1, e2⟩ : field rst.toNat 0 1 = rst.toNat ∧ field rst.toNat 1 23 = 0 := by
    simp only [field]; omega
  obtain r | v := b
  all_goals
    intro h
    replace h : (_ && _) = true := h
    exact readable_of rfl rfl rfl (.m rfl rfl rfl) (by simp_all [Raw.base]) (extra_of_plain rfl)
      (by simp [buildAt, buildRows, buildRow12, Raw.base, e1])

theorem flag_readable (g : Guard) (d a b : GReg) (x : Bool) :
    ∀ i ∈ ([.lease g d a b x, .unlease g d a x] : List Instr), i.wf = true → i.Readable := by
  simp only [List.forall_mem_cons, List.not_mem_nil, false_imp_iff, implies_true, and_true]
  have := x.toNat_lt
  obtain ⟨e1, e2⟩ : field x.toNat 0 1 = x.toNat ∧ field x.toNat 1 22 = 0 := by
    simp only [field]; omega
  and_intros
  all_goals
    intro h
    replace h : (_ && _) = true := h
    exact readable_of rfl rfl rfl (.s rfl rfl rfl rfl rfl) (by simp_all [Raw.base]) (extra_of_plain rfl)
      (by simp [buildAt, buildRows, buildRow14, Raw.base, e1])

theorem cwbr_readable (g : Guard) (a c : GReg) (x : Bool) :
    (Instr.cwbr g a c x).wf = true → (Instr.cwbr g a c x).Readable := by
  have := x.toNat_lt
  obtain ⟨e1, e2⟩ : field x.toNat 0 1 = x.toNat ∧ field x.toNat 1 23 = 0 := by
    simp only [field]; omega
  intro h
  replace h : (_ && _) = true := h
  exact readable_of rfl rfl rfl (.m rfl rfl rfl) (by simp_all [Raw.base]) (extra_of_plain rfl)
    (by simp [buildAt, buildRows, buildRow15, Raw.base, e1])

theorem slice_readable (g : Guard) (d a b : GReg) (n : BitVec 12) :
    ∀ i ∈ ([.scfgr g d a n, .scfgw g a b n] : List Instr), i.wf = true → i.Readable := by
  simp only [List.forall_mem_cons, List.not_mem_nil, false_imp_iff, implies_true, and_true]
  have := n.isLt
  obtain ⟨e1, e2⟩ : field n.toNat 0 12 = n.toNat ∧ field n.toNat 12 11 = 0 := by
    simp only [field]; omega
  and_intros
  all_goals
    intro h
    replace h : (_ && _) = true := h
    exact readable_of rfl rfl rfl (.s rfl rfl rfl rfl rfl) (by simp_all [Raw.base]) (extra_of_plain rfl)
      (by simp [buildAt, buildRows, buildRow15, Raw.base, e1])

end Sys2Proof
end

section
/-!
PROOFS. The instructions with a condition of their own in check 8, 9 or 10: shift amounts, wide immediates, orderings, planes, indices.
-/

set_option linter.constructorNameAsVariable false

namespace Sys2Proof

@[simp] theorem RegImm.okShift_reg (r : GReg) : (RegImm.reg r).okShift = r.okSrc := rfl
@[simp] theorem RegImm.okShift_imm (v : BitVec 23) : (RegImm.imm v).okShift = decide (v.toNat < 64) := rfl

theorem shift_readable (g : Guard) (d a : GReg) (b : RegImm) (p : PReg) :
    ∀ i ∈ ([.shl g d a b, .shr g d a b, .sar g d a b, .rot g d a b, .tstbit g p a b] : List Instr), i.wf = true → i.Readable := by
  simp only [List.forall_mem_cons, List.not_mem_nil, false_imp_iff, implies_true, and_true]
  cases b with
  | reg r =>
    and_intros
    all_goals
      intro h
      replace h : (_ && _) = true := h
      exact readable_of rfl rfl rfl (.s rfl rfl rfl rfl rfl) (by simp_all [Raw.base]) (extra_of_off rfl rfl)
        (by simp [buildAt, buildRows, buildRow0, buildRow1, Raw.base])
  | imm v =>
    and_intros
    all_goals
      intro h
      replace h : (_ && _) = true := h
      exact readable_of rfl rfl rfl (.s rfl rfl rfl rfl rfl) (by simp_all [Raw.base]) (extra_of_off rfl (if_neg (by simp_all)))
        (by simp [buildAt, buildRows, buildRow0, buildRow1, Raw.base])

theorem wide_readable (g : Guard) (d : GReg) (imm : BitVec 55) : ∀ i ∈ ([.li g d imm, .jmp g imm] : List Instr),
    i.wf = true → i.Readable := by
  simp only [List.forall_mem_cons, List.not_mem_nil, false_imp_iff, implies_true, and_true]
  constructor
  case left =>
    intro h
    replace h : (_ && _) = true := h
    exact readable_of rfl rfl rfl (.m rfl rfl rfl) (by simp_all [Raw.base]) (extra_of_plain rfl)
      (by simp [buildAt, buildRows, buildRow1, Raw.base]; exact imm55_join imm)
  case right =>
    intro h
    replace h : Guard.ok _ = true := h
    exact readable_of rfl rfl rfl (.m rfl rfl rfl) (by simp_all [Raw.base]) (extra_of_plain rfl)
      (by simp [buildAt, buildRows, buildRow2, Raw.base]; exact imm55_join imm)

theorem lih_readable (g : Guard) (d : GReg) (imm : BitVec 55) (h : (Instr.lih g d imm).wf = true) : (Instr.lih g d imm).Readable := by
  replace h : (_ && _) = true := h
  have hoff : imm.toNat < 2 ^ 32 → (imm.extractLsb' 31 24).toNat / 2 = 0 := by
    intro h
    simp only [BitVec.extractLsb'_toNat, Nat.shiftRight_eq_div_pow]
    omega
  exact readable_of rfl rfl rfl (.m rfl rfl rfl) (by simp_all [Raw.base]) (extra_of_off rfl (if_pos (hoff (by simp_all))))
    (by simp [buildAt, buildRows, buildRow1, Raw.base]; exact imm55_join imm)

theorem bitField_readable (g : Guard) (d a : GReg) (pos len : BitVec 6) :
    ∀ i ∈ ([.bfx g d a pos len, .bfxn g d a pos len, .bfi g d a pos len] : List Instr), i.wf = true → i.Readable := by
  simp only [List.forall_mem_cons, List.not_mem_nil, false_imp_iff, implies_true, and_true]
  obtain ⟨e1, e2, e3⟩ : field (pos.toNat + len.toNat * 64) 0 6 = pos.toNat ∧ field (pos.toNat + len.toNat * 64) 6 6 = len.toNat ∧
      field (pos.toNat + len.toNat * 64) 12 11 = 0 := by
    simp only [field]; omega
  and_intros
  all_goals
    intro h
    replace h : (_ && _) = true := h
    exact readable_of rfl rfl rfl (.s rfl rfl rfl rfl rfl) (by simp_all [Raw.base]) (extra_of_off rfl (if_neg (by simp_all [Raw.base])))
      (by simp [buildAt, buildRows, buildRow1, Raw.base, e1, e2])

theorem madd_readable (g : Guard) (d a c : GReg) (b : RegImm47)
    (h : (Instr.madd g d a b c).wf = true) : (Instr.madd g d a b c).Readable := by
  obtain r | v := b
  all_goals
    replace h : (_ && _) = true := h
    exact readable_of rfl rfl rfl (.m rfl rfl rfl) (by simp_all [Raw.base]) (extra_of_plain rfl)
      (by simp [buildAt, buildRows, buildRow1, Raw.base])

theorem bsig_readable (g : Guard) (a : FReg) (n : BitVec 6) (off : BitVec 17) (h : (Instr.bsig g a n off).wf = true) :
    (Instr.bsig g a n off).Readable := by
  replace h : (_ && _) = true := h
  obtain ⟨e1, e2⟩ : field (n.toNat + off.toNat * 64) 0 6 = n.toNat ∧ field (n.toNat + off.toNat * 64) 6 17 = off.toNat := by
    simp only [field]; omega
  exact readable_of rfl rfl rfl (.s rfl rfl rfl rfl rfl) (by simp_all [Raw.base]) (extra_of_plain rfl)
    (by simp [buildAt, buildRows, buildRow2, Raw.base, e1, e2])

theorem fullBit_readable (g : Guard) (a : PlainGF) (d : PReg) :
    ∀ i ∈ ([.fempty g a, .ffull g a, .ftest g d a] : List Instr), i.wf = true → i.Readable := by
  simp only [List.forall_mem_cons, List.not_mem_nil, false_imp_iff, implies_true, and_true]
  cases a with
  | g n =>
    and_intros
    all_goals
      intro h
      replace h : (_ && _) = true := h
      exact readable_of rfl rfl (congrArg some (if_pos (by simp [Raw.base]))) (.s rfl rfl rfl rfl rfl) (by simp_all [Raw.base])
        (extra_of_plain rfl)
        (by simp [buildAt, buildRows, buildRow3, Raw.base])
  | f n =>
    and_intros
    all_goals
      intro h
      replace h : (_ && _) = true := h
      exact readable_of rfl rfl (congrArg some (if_neg (by simp [Raw.base]))) (.s rfl rfl rfl rfl rfl) (by simp_all [Raw.base])
        (extra_of_plain rfl)
        (by simp [buildAt, buildRows, buildRow3, Raw.base])

theorem ordOk_codes {kind : FenceKind} {ty : ReqType} {sc : Scope} {k : FenceKind} (h : ordOk kind ty sc k = true) :
    (k.code = 0 ∧ sc.code = 0) ∨ (k.code = kind.code ∧ ty.code = 0) := by
  unfold ordOk at h
  split at h
  · next hk =>
    simp only [beq_iff_eq] at hk h
    exact .inl (by simp [hk, h, FenceKind.code, Scope.code])
  · simp only [Bool.and_eq_true, beq_iff_eq] at h
    exact .inr (by simp [h, ReqType.code])

theorem ld_readable (g : Guard) (d : GReg) (m : MemOp) (x : MemW) (ty : ReqType) (sc : Scope) (k : FenceKind)
    (h : (Instr.ld g d m x ty sc k).wf = true) : (Instr.ld g d m x ty sc k).Readable := by
  replace h : (_ && _) = true := h
  obtain ⟨h, hord⟩ := Bool.and_eq_true_iff.mp h
  have hc := ordOk_codes hord
  simp only [show FenceKind.acq.code = 1 from rfl] at hc
  have := x.code_lt
  have := ty.code_lt
  have := sc.code_lt
  obtain ⟨e1, e2, e3, e4, e5⟩ : field (x.code + ty.code * 8 + sc.code * 32 + k.code * 128) 0 3 = x.code ∧
      field (x.code + ty.code * 8 + sc.code * 32 + k.code * 128) 3 2 = ty.code ∧
      field (x.code + ty.code * 8 + sc.code * 32 + k.code * 128) 5 2 = sc.code ∧
      field (x.code + ty.code * 8 + sc.code * 32 + k.code * 128) 7 2 = k.code ∧
      field (x.code + ty.code * 8 + sc.code * 32 + k.code * 128) 9 15 = 0 := by
    simp only [field]; omega
  have hk : k.code ≤ 1 := by omega
  obtain ⟨m, v | ⟨r, n⟩⟩ := m
  all_goals
    exact readable_of rfl rfl rfl (.m rfl rfl rfl) (by simp_all [Raw.base])
      (extra_of_off rfl (List.append_eq_nil_iff.mpr
        ⟨if_neg (by simp [Raw.base, e3, e4]; omega), if_neg (by simp [Raw.base, e2, e4]; omega)⟩))
      (by simp [buildAt, buildRows, buildRow4, Raw.base, e1, e2, e3, e4])

theorem st_readable (g : Guard) (d : GReg) (m : MemOp) (x : StW) (ty : ReqType) (sc : Scope) (k : FenceKind)
    (h : (Instr.st g d m x ty sc k).wf = true) : (Instr.st g d m x ty sc k).Readable := by
  replace h : (_ && _) = true := h
  obtain ⟨h, hord⟩ := Bool.and_eq_true_iff.mp h
  have hc := ordOk_codes hord
  simp only [show FenceKind.rel.code = 2 from rfl] at hc
  have := x.code_lt
  have := ty.code_lt
  have := sc.code_lt
  obtain ⟨e1, e2, e3, e4, e5⟩ : field (x.code + ty.code * 8 + sc.code * 32 + k.code * 128) 0 3 = x.code ∧
      field (x.code + ty.code * 8 + sc.code * 32 + k.code * 128) 3 2 = ty.code ∧
      field (x.code + ty.code * 8 + sc.code * 32 + k.code * 128) 5 2 = sc.code ∧
      field (x.code + ty.code * 8 + sc.code * 32 + k.code * 128) 7 2 = k.code ∧
      field (x.code + ty.code * 8 + sc.code * 32 + k.code * 128) 9 15 = 0 := by
    simp only [field]; omega
  have hk : k.code = 0 ∨ k.code = 2 := by omega
  obtain ⟨m, v | ⟨r, n⟩⟩ := m
  all_goals
    exact readable_of rfl rfl rfl (.m rfl rfl rfl) (by simp_all [Raw.base])
      (extra_of_off rfl (List.append_eq_nil_iff.mpr
        ⟨if_neg (by simp [Raw.base, e3, e4]; omega), if_neg (by simp [Raw.base, e2, e4]; omega)⟩))
      (by simp [buildAt, buildRows, buildRow4, Raw.base, e1, e2, e3, e4])

theorem ldp_readable (g : Guard) (d c : GReg) (m : MemOp) (ty : ReqType) (h : (Instr.ldp g d m c ty).wf = true) :
    (Instr.ldp g d m c ty).Readable := by
  replace h : (_ && _) = true := h
  obtain ⟨h, hp⟩ := Bool.and_eq_true_iff.mp h
  have := ty.code_lt
  obtain ⟨e1, e2, e3⟩ : field (ty.code * 8) 0 3 = 0 ∧ field (ty.code * 8) 3 2 = ty.code ∧ field (ty.code * 8) 5 19 = 0 := by
    simp only [field]; omega
  have hpair : ¬(d.num = c.num ∧ d.num ≠ 0) := by simpa [imp_iff_or_not] using hp
  obtain ⟨m, v | ⟨r, n⟩⟩ := m
  all_goals
    exact readable_of rfl rfl rfl (.m rfl rfl rfl) (by simp_all [Raw.base])
      ⟨rfl, fun hx => hpair (by simpa using hx.2), fun hx => by simp [Raw.base] at hx⟩
      (by simp [buildAt, buildRows, buildRow4, Raw.base, e2])

theorem Fmt.code_inj {x y : Fmt} (h : x.code = y.code) : x = y := by
  simpa [h] using (Fmt.ofCode_code x).symm

theorem fcvt_readable (g : Guard) (d a : FReg) (df sf : Fmt)
    (h : (Instr.fcvt g d a df sf).wf = true) : (Instr.fcvt g d a df sf).Readable := by
  replace h : (_ && _) = true := h
  have := df.code_lt
  have := sf.code_lt
  obtain ⟨e1, e2, e3⟩ : field (df.code + sf.code * 4) 0 2 = df.code ∧ field (df.code + sf.code * 4) 2 2 = sf.code ∧
      field (df.code + sf.code * 4) 4 19 = 0 := by
    simp only [field]; omega
  have hne : df.code ≠ sf.code := fun hc => by simp [Fmt.code_inj hc] at h
  exact readable_of rfl rfl rfl (.s rfl rfl rfl rfl rfl) (by simp_all [Raw.base]) (extra_of_off rfl (if_neg (by simp [Raw.base, e1, e2,
    hne])))
    (by simp [buildAt, buildRows, buildRow7, Raw.base, e1, e2])

theorem vcmp_readable (g : Guard) (d : QReg) (a b : VReg) (f : Fmt) (gm : GMask) (cond : Cond) (half : Bool)
    (h : (Instr.vcmp g d a b f gm cond half).wf = true) : (Instr.vcmp g d a b f gm cond half).Readable := by
  replace h : (_ && _) = true := h
  have := f.code_lt
  have := maskCode_mem gm
  have := cond.code_lt
  have := half.toNat_lt
  obtain ⟨e1, e2, e3, e4, e5, e6, e7⟩ : field (f.code + maskCode gm * 8 + cond.code * 128 + half.toNat * 4096) 0 2 = f.code ∧
      field (f.code + maskCode gm * 8 + cond.code * 128 + half.toNat * 4096) 3 4 = maskCode gm ∧
      field (f.code + maskCode gm * 8 + cond.code * 128 + half.toNat * 4096) 7 3 = cond.code ∧
      field (f.code + maskCode gm * 8 + cond.code * 128 + half.toNat * 4096) 12 1 = half.toNat ∧
      field (f.code + maskCode gm * 8 + cond.code * 128 + half.toNat * 4096) 2 1 = 0 ∧
      field (f.code + maskCode gm * 8 + cond.code * 128 + half.toNat * 4096) 10 2 = 0 ∧
      field (f.code + maskCode gm * 8 + cond.code * 128 + half.toNat * 4096) 13 10 = 0 := by
    simp only [field]; omega
  have hhalf : ¬(half.toNat = 1 ∧ f.code < 2) := by
    rintro ⟨h1, h2⟩
    cases f <;> simp_all [Fmt.code]
  exact readable_of rfl rfl rfl (.s rfl rfl rfl rfl rfl) (by simp_all [Raw.base])
    (extra_of_off rfl (if_neg (by simp only [Raw.base, f_fn_ofNat, e1, e4, Nat.reduceAdd, Nat.reduceLeDiff]; exact hhalf)))
    (by simp [buildAt, buildRows, buildRow8, Raw.base, e1, e2, e3, e4])

theorem VData.code_eq_four (dc : VData) : dc.code = 4 ↔ dc = .w := by cases dc <;> decide

theorem vbcast_readable (g : Guard) (d : VReg) (a : AnyGF) (dc : VData) (gm : GMask) (h : (Instr.vbcast g d a dc gm).wf = true) :
    (Instr.vbcast g d a dc gm).Readable := by
  have := dc.code_lt
  have := maskCode_mem gm
  obtain ⟨e1, e2, e3⟩ : field (dc.code + maskCode gm * 8) 0 3 = dc.code ∧ field (dc.code + maskCode gm * 8) 3 4 = maskCode gm ∧
      field (dc.code + maskCode gm * 8) 7 16 = 0 := by
    simp only [field]; omega
  have hw := dc.code_eq_four
  cases a with
  | g r =>
    replace h : (_ && (_ && _)) = true := h
    obtain rfl : dc = .w := by simp_all
    exact readable_of rfl rfl (congrArg some (if_pos (by simp [Raw.base, e1, hw]))) (.s rfl rfl rfl rfl rfl) (by simp_all [Raw.base])
      (extra_of_plain rfl)
      (by simp [buildAt, buildRows, buildRow10, Raw.base, e1, e2])
  | f r =>
    replace h : (_ && (_ && _)) = true := h
    exact readable_of rfl rfl (congrArg some (if_neg (by simp_all [Raw.base]))) (.s rfl rfl rfl rfl rfl) (by simp_all [Raw.base])
      (extra_of_plain rfl)
      (by simp_all [buildAt, buildRows, buildRow10, Raw.base])

theorem vext_readable (g : Guard) (d : AnyGF) (a : VReg) (b : GReg) (dc : VData) (h : (Instr.vext g d a b dc).wf = true) :
    (Instr.vext g d a b dc).Readable := by
  have := dc.code_lt
  obtain ⟨e1, e2⟩ : field dc.code 0 3 = dc.code ∧ field dc.code 3 20 = 0 := by
    simp only [field]; omega
  have hw := dc.code_eq_four
  cases d with
  | g r =>
    replace h : ((_ && (_ && _)) && _) = true := h
    obtain rfl : dc = .w := by simp_all
    exact readable_of rfl rfl (congrArg some (if_pos (by simp [Raw.base, e1, hw]))) (.s rfl rfl rfl rfl rfl) (by simp_all [Raw.base])
      (extra_of_plain rfl)
      (by simp [buildAt, buildRows, buildRow10, Raw.base, e1])
  | f r =>
    replace h : ((_ && (_ && _)) && _) = true := h
    exact readable_of rfl rfl (congrArg some (if_neg (by simp_all [Raw.base]))) (.s rfl rfl rfl rfl rfl) (by simp_all [Raw.base])
      (extra_of_plain rfl)
      (by simp_all [buildAt, buildRows, buildRow10, Raw.base])

theorem vins_readable (g : Guard) (d : VReg) (a : AnyGF) (b : GReg) (dc : VData) (h : (Instr.vins g d a b dc).wf = true) :
    (Instr.vins g d a b dc).Readable := by
  have := dc.code_lt
  obtain ⟨e1, e2⟩ : field dc.code 0 3 = dc.code ∧ field dc.code 3 20 = 0 := by
    simp only [field]; omega
  have hw := dc.code_eq_four
  cases a with
  | g r =>
    replace h : ((_ && (_ && _)) && _) = true := h
    obtain rfl : dc = .w := by simp_all
    exact readable_of rfl rfl (congrArg some (if_pos (by simp [Raw.base, e1, hw]))) (.s rfl rfl rfl rfl rfl) (by simp_all [Raw.base])
      (extra_of_plain rfl)
      (by simp [buildAt, buildRows, buildRow10, Raw.base, e1])
  | f r =>
    replace h : ((_ && (_ && _)) && _) = true := h
    exact readable_of rfl rfl (congrArg some (if_neg (by simp_all [Raw.base]))) (.s rfl rfl rfl rfl rfl) (by simp_all [Raw.base])
      (extra_of_plain rfl)
      (by simp_all [buildAt, buildRows, buildRow10, Raw.base])

/-- An operand of number 0 without a modifier is an empty byte. -/
@[simp] theorem GReg.byte_zero : GReg.byte ⟨0#6, .plain⟩ = 0#8 := rfl

theorem plane_off {c : GReg} {pl : Bool} {n lo : Nat} (hn : n = pl.toNat) (h : (pl || c == ⟨0, .plain⟩) = true) :
    (if n = 0 then zeroOff lo c.byte.toNat else []) = [] := by
  cases pl
  · have hc : c = ⟨0, .plain⟩ := by simpa using h
    simp [hc, zeroOff]
  · exact if_neg (by simp [hn])

theorem tileMove_readable (g : Guard) (d : AReg) (a b c : GReg) (dc : MData) (pl : Bool) :
    ∀ i ∈ ([.mld g d a b c dc pl, .mst g d a b c dc pl] : List Instr), i.wf = true → i.Readable := by
  simp only [List.forall_mem_cons, List.not_mem_nil, false_imp_iff, implies_true, and_true]
  have := dc.code_mem
  have := pl.toNat_lt
  obtain ⟨e1, e2, e3⟩ : field (dc.code + pl.toNat * 8) 0 3 = dc.code ∧ field (dc.code + pl.toNat * 8) 3 1 = pl.toNat ∧
      field (dc.code + pl.toNat * 8) 4 20 = 0 := by
    simp only [field]; omega
  constructor
  all_goals
    intro h
    replace h : (_ && (_ && _)) = true := h
    obtain ⟨-, hc⟩ := Bool.and_eq_true_iff.mp (Bool.and_eq_true_iff.mp h).2
    exact readable_of rfl rfl rfl (.m rfl rfl rfl) (by simp_all [Raw.base]) (extra_of_off rfl (plane_off (by simp [Raw.base, e2]) hc))
      (by simp [buildAt, buildRows, buildRow11, Raw.base, e1, e2])

theorem softMove_readable (g : Guard) (d : AReg) (a c : GReg) (b : RegImm) (pl : Bool) :
    ∀ i ∈ ([.smxld g d a b c pl, .smxst g d a b c pl] : List Instr), i.wf = true → i.Readable := by
  simp only [List.forall_mem_cons, List.not_mem_nil, false_imp_iff, implies_true, and_true]
  have := pl.toNat_lt
  obtain ⟨e1, e2⟩ : field pl.toNat 0 1 = pl.toNat ∧ field pl.toNat 1 23 = 0 := by
    simp only [field]; omega
  obtain r | v := b
  all_goals
    constructor
    all_goals
      intro h
      replace h : (_ && (_ && _)) = true := h
      obtain ⟨-, hc⟩ := Bool.and_eq_true_iff.mp (Bool.and_eq_true_iff.mp h).2
      exact readable_of rfl rfl rfl (.m rfl rfl rfl) (by simp_all [Raw.base]) (extra_of_off rfl (plane_off (by simp [Raw.base, e1]) hc))
        (by simp [buildAt, buildRows, buildRow12, Raw.base, e1])

theorem mcommit_readable (g : Guard) (d : GReg) (fill : Bool)
    (h : (Instr.mcommit g d fill).wf = true) : (Instr.mcommit g d fill).Readable := by
  replace h : (_ && _) = true := h
  have := fill.toNat_lt
  obtain ⟨e1, e2⟩ : field fill.toNat 0 1 = fill.toNat ∧ field fill.toNat 1 22 = 0 := by
    simp only [field]; omega
  exact readable_of rfl rfl rfl (.s rfl rfl rfl rfl rfl) (by simp_all [Raw.base])
    ⟨rfl, fun hx => by simp [Raw.base] at hx, fun hx => by simp_all [Raw.base]⟩ (by simp [buildAt, buildRows, buildRow11, Raw.base, e1])

theorem couch_readable (g : Guard) (d a : GReg) (ev : Bool) (h : (Instr.couch g d a ev).wf = true) : (Instr.couch g d a ev).Readable := by
  have := ev.toNat_lt
  obtain ⟨e1, e2⟩ : field ev.toNat 0 1 = ev.toNat ∧ field ev.toNat 1 22 = 0 := by
    simp only [field]; omega
  cases ev
  all_goals
    replace h : (_ && _) = true := h
    exact readable_of rfl rfl rfl (.s rfl rfl rfl rfl rfl) (by simp_all [Raw.base])
      ⟨if_neg (by simp_all [Raw.base]), fun hx => by simp [Raw.base] at hx, fun hx => by simp_all [Raw.base]⟩
      (by simp_all [buildAt, buildRows, buildRow14, Raw.base])

theorem AccSel.code_eq_zero (sl : AccSel) : sl.code = 0 ↔ sl = .row := by cases sl <;> decide

theorem accMove_readable (g : Guard) (v : VReg) (a : AReg) (b : GReg) (sl : AccSel) :
    ∀ i ∈ ([.vfroma g v a b sl, .vtoa g a v b sl] : List Instr), i.wf = true → i.Readable := by
  simp only [List.forall_mem_cons, List.not_mem_nil, false_imp_iff, implies_true, and_true]
  have := sl.code_lt
  have hsl := sl.code_eq_zero
  obtain ⟨e1, e2⟩ : field sl.code 0 2 = sl.code ∧ field sl.code 2 21 = 0 := by
    simp only [field]; omega
  constructor
  all_goals
    intro h
    replace h : (_ && _) = true := h
    have hb : ¬(sl.code ≠ 0 ∧ b.byte ≠ 0) := by
      rintro ⟨h1, h2⟩
      simp_all
    exact readable_of rfl rfl rfl (.s rfl rfl rfl rfl rfl) (by simp_all [Raw.base]) (extra_of_off rfl (if_neg (by simpa [Raw.base,
      e1] using hb)))
      (by simp [buildAt, buildRows, buildRow11, Raw.base, e1])

theorem csr_readable (g : Guard) (d a : GReg) (num : BitVec 12) :
    ∀ i ∈ ([.csrr g d num, .csrw g d a num, .csrs g d a num, .csrc g d a num] : List Instr), i.wf = true → i.Readable := by
  simp only [List.forall_mem_cons, List.not_mem_nil, false_imp_iff, implies_true, and_true]
  obtain ⟨e1, e2⟩ : field num.toNat 0 12 = num.toNat ∧ field num.toNat 12 11 = 0 := by
    simp only [field]; omega
  and_intros
  all_goals
    intro h
    replace h : (_ && _) = true := h
    exact readable_of rfl rfl rfl (.s rfl rfl rfl rfl rfl) (by simp_all [Raw.base]) (extra_of_off rfl (if_pos (by simp_all [Raw.base])))
      (by simp [buildAt, buildRows, buildRow15, Raw.base, e1])

theorem GReg.byte_mod (r : GReg) : r.byte.toNat % 64 = r.num.toNat := by
  have h := congrArg BitVec.toNat r.num_byte
  rwa [BitVec.extractLsb'_toNat, Nat.shiftRight_zero] at h

theorem TbTarget.code_even {t : TbTarget} (h : t.code % 2 = 0) : t ≠ .gang := by
  cases t <;> simp_all [TbTarget.code]

theorem index_off {r : GReg} {t : TbTarget} {n lo : Nat} (hn : n = t.code) (h : (t == .gang || r.num == 0) = true) :
    (if n % 2 = 0 then zeroOff lo (r.byte.toNat % 64) else []) = [] := by
  split
  · next he =>
    have hr : r.num = 0 := by simpa [TbTarget.code_even (hn ▸ he)] using h
    simp [GReg.byte_mod, hr, zeroOff]
  · rfl

theorem tbw_readable (g : Guard) (a b c : GReg) (t : TbTarget) (h : (Instr.tbw g a b c t).wf = true) : (Instr.tbw g a b c t).Readable := by
  replace h : (_ && _) = true := h
  obtain ⟨-, hc⟩ := Bool.and_eq_true_iff.mp h
  have := t.code_lt
  obtain ⟨e1, e2⟩ : field t.code 0 2 = t.code ∧ field t.code 2 22 = 0 := by
    simp only [field]; omega
  exact readable_of rfl rfl rfl (.m rfl rfl rfl) (by simp_all [Raw.base]) (extra_of_off rfl (index_off (by simp [Raw.base, e1]) hc))
    (by simp [buildAt, buildRows, buildRow15, Raw.base, e1])

theorem tbi_readable (g : Guard) (a b : GReg) (t : TbTarget) (all : Bool) (h : (Instr.tbi g a b t all).wf = true) :
    (Instr.tbi g a b t all).Readable := by
  replace h : ((_ && _) && (_ || _)) = true := h
  obtain ⟨h', ha⟩ := Bool.and_eq_true_iff.mp h
  obtain ⟨-, hb⟩ := Bool.and_eq_true_iff.mp h'
  have := t.code_lt
  have := all.toNat_lt
  obtain ⟨e1, e2, e3⟩ : field (t.code + all.toNat * 4) 0 2 = t.code ∧ field (t.code + all.toNat * 4) 2 1 = all.toNat ∧
      field (t.code + all.toNat * 4) 3 20 = 0 := by
    simp only [field]; omega
  have hall : (if all.toNat = 1 then zeroOff 20 (a.byte.toNat % 64) else []) = [] := by
    cases all
    · rfl
    · have ha : a.num = 0 := by simpa using ha
      simp [GReg.byte_mod, ha, zeroOff]
  exact readable_of rfl rfl rfl (.s rfl rfl rfl rfl rfl) (by simp_all [Raw.base])
    (extra_of_off rfl (List.append_eq_nil_iff.mpr ⟨by simpa only [Raw.base, f_fn_ofNat, e2, Nat.reduceAdd, Nat.reduceLeDiff] using hall,
      index_off (by simp [Raw.base, e1]) hb⟩))
    (by simp [buildAt, buildRows, buildRow15, Raw.base, e1, e2])

theorem tbp_readable (g : Guard) (d a b : GReg) (t : TbTarget) (h : (Instr.tbp g d a b t).wf = true) : (Instr.tbp g d a b t).Readable := by
  replace h : (_ && _) = true := h
  obtain ⟨-, hb⟩ := Bool.and_eq_true_iff.mp h
  have := t.code_lt
  obtain ⟨e1, e2⟩ : field t.code 0 2 = t.code ∧ field t.code 2 21 = 0 := by
    simp only [field]; omega
  exact readable_of rfl rfl rfl (.s rfl rfl rfl rfl rfl) (by simp_all [Raw.base]) (extra_of_off rfl (index_off (by simp [Raw.base, e1]) hb))
    (by simp [buildAt, buildRows, buildRow15, Raw.base, e1])

end Sys2Proof
end

section
/-!
PROOFS. Every well-formed instruction is read back from its bytes (O55).
-/

set_option linter.constructorNameAsVariable false

namespace Sys2Proof

/-- Every well-formed instruction that has a word of its own, the pad word aside, is read back from it. -/
theorem readable_of_wf (i : Instr) (h : i.wf = true) (hev : i.isEvent = false) (hpad : i ≠ .padWord) : i.Readable := by
  cases i
  case padWord => exact absurd rfl hpad
  case add g d a b | sub g d a b | mul g d a b | mulh g d a b | mulhn g d a b | div g d a b | divn g d a b | rem g d a b | remn g d a b |
      and g d a b | or g d a b | xor g d a b | andn g d a b | orn g d a b | min g d a b | max g d a b | minn g d a b | maxn g d a b |
      addv g d a b | subv g d a b | mulv g d a b =>
    exact alu_readable g d a b _ (by simp) h
  case abs g d a | neg g d a | clz g d a | ctz g d a | popc g d a | brev g d a | bswap g d a | mov g d a | callr g d a | treap g d a |
      tspawn g d a | copys g d a | copyk g d a | roleq g d a | couchs g d a =>
    exact unary_readable g d a _ (by simp) h
  case cmpeq g d a b | cmpne g d a b | cmplt g d a b | cmple g d a b | cmpltn g d a b | cmplen g d a b =>
    exact compare_readable g d a b _ (by simp) h
  case chk g a b | tstart g a b =>
    exact compare_readable g 0 a b _ (by simp) h
  case lea g d m =>
    exact lea_readable g d m h
  case jr g a | ret g a | tend g a | wpush g a | mwait g a | noteack g a | halt g a =>
    exact source_readable g a _ (by simp) h
  case wcount g d | rfence g d | mtest g d | ckpt g d =>
    exact target_readable g d 0 _ (by simp) h
  case call g d imm | loop g d imm =>
    exact target_readable g d imm _ (by simp) h
  case nop g | fencesc g | xfence g | tret g =>
    exact bare_readable g 0 0 _ (by simp) h
  case br g imm | svc g imm | brk g imm =>
    exact bare_readable g imm 0 _ (by simp) h
  case mzero g acc =>
    exact bare_readable g 0 acc _ (by simp) h
  case pand g d a b | por g d a b | pxor g d a b | qand g d a b | qor g d a b | qxor g d a b =>
    exact predicate_readable g d a b _ (by simp) h
  case pnot g d a | pmov g d a | qnot g d a =>
    exact predicate_readable g d a 0 _ (by simp) h
  case renew g d a b | rolereq g d a b | gswitch g d a b =>
    exact renew_readable g d a b _ (by simp) h
  case qpop g d a =>
    exact qpop_readable g d a h
  case fmov g d a | exp2 g d a =>
    exact moveF_readable g d a ⟨0, .plain⟩ ⟨0, .plain⟩ _ (by simp) h
  case fmvg g x a | sget g x a =>
    exact moveF_readable g ⟨0, .plain⟩ a x ⟨0, .plain⟩ _ (by simp) h
  case sset g d y =>
    exact moveF_readable g d ⟨0, .plain⟩ ⟨0, .plain⟩ y _ (by simp) h
  case copyq g a b c e =>
    exact long_readable g ⟨0, .plain⟩ a b c e _ (by simp) h
  case copyqt g d a b c e =>
    exact long_readable g d a b c e _ (by simp) h
  case inval g m c | cwb g m c =>
    exact range_readable g c m _ (by simp) h
  case signal g a b c =>
    exact signal_readable g a b c _ (by simp) h
  case slinv g a c =>
    exact signal_readable g a ⟨0, .plain⟩ c _ (by simp) h
  case vsel g d a b c =>
    exact vsel_readable g d a b c h
  case sext g d a w | zext g d a w =>
    exact extend_readable g d a w _ (by simp) h
  case sel g d a b k =>
    exact select_readable g d a b k _ (by simp) h
  case wtake g d k =>
    exact select_readable g d ⟨0, .plain⟩ ⟨0, .plain⟩ k _ (by simp) h
  case bar g sc =>
    exact bar_readable g sc h
  case fadd g d a b f | fsub g d a b f | fmul g d a b f | fdiv g d a b f | fmin g d a b f | fmax g d a b f | fcpys g d a b f =>
    exact fp_readable g d a b f _ (by simp) h
  case fsqrt g d a f | fabs g d a f | fneg g d a f =>
    exact fp_readable g d a ⟨0, .plain⟩ f _ (by simp) h
  case fma g d a b c f | fms g d a b c f | fnma g d a b c f | fnms g d a b c f =>
    exact fma_readable g d a b c f _ (by simp) h
  case fcmpeq g p a b f | fcmplt g p a b f | fcmple g p a b f | fcmpun g p a b f =>
    exact fcmp_readable g p ⟨0, .plain⟩ a b ⟨0, .plain⟩ ⟨0, .plain⟩ f _ (by simp) h
  case fclass g d a f =>
    exact fcmp_readable g 0 d a ⟨0, .plain⟩ ⟨0, .plain⟩ ⟨0, .plain⟩ f _ (by simp) h
  case fmvf g x y f =>
    exact fcmp_readable g 0 ⟨0, .plain⟩ ⟨0, .plain⟩ ⟨0, .plain⟩ x y f _ (by simp) h
  case fround g d a f rm =>
    exact fround_readable g d a f rm h
  case ftoi g d a f ic rm =>
    exact ftoi_readable g d a f ic rm h
  case itof g d a f ic =>
    exact itof_readable g d a f ic h
  case fence g sc k =>
    exact fence_readable g sc k h
  case ldf g d m f ty | stf g d m f ty =>
    exact loadF_readable g d m ⟨0, .plain⟩ f ty _ (by simp) h
  case ldfc g d m c f ty | stfc g d m c f ty =>
    exact loadF_readable g d m c f ty _ (by simp) h
  case stp g d m c ty =>
    exact pair_readable g d c m ty _ (by simp) h
  case pref g m ty =>
    exact pair_readable g ⟨0, .plain⟩ ⟨0, .plain⟩ m ty _ (by simp) h
  case amo g d m c w sc k op =>
    exact amo_readable g d c m w sc k op h
  case amocas g d m c w sc k =>
    exact amocas_readable g d c m w sc k h
  case amof g d m c f sc k op =>
    exact amof_readable g d c m f sc k op h
  case vadd g d a b f gm | vsub g d a b f gm | vmul g d a b f gm | vmin g d a b f gm | vmax g d a b f gm | vdiv g d a b f gm =>
    exact vec_readable g d a b f gm _ (by simp) h
  case vabs g d a f gm | vneg g d a f gm | vsqrt g d a f gm | vsset g d a f gm =>
    exact vec_readable g d a 0 f gm _ (by simp) h
  case vfma g d a b c f gm | vfms g d a b c f gm =>
    exact vfma_readable g d a b c f gm _ (by simp) h
  case vexp2 g d a gm | vsget g d a gm | vmov g d a gm =>
    exact masked_readable g d a 0 gm _ (by simp) h
  case vand g d a b gm | vor g d a b gm | vxor g d a b gm =>
    exact masked_readable g d a b gm _ (by simp) h
  case vcvt g d a gm cv half =>
    exact vcvt_readable g d a gm cv half h
  case vred g d a f gm op =>
    exact vred_readable g d a f gm op h
  case viadd g d a b w gm | visub g d a b w gm | vimul g d a b w gm | vshl g d a b w gm | vshr g d a b w gm | vsar g d a b w gm =>
    exact veci_readable g d a b w gm _ (by simp) h
  case vimin g d a b w un gm | vimax g d a b w un gm =>
    exact vimin_readable g d a b w un gm _ (by simp) h
  case vicmp g d a b w un gm k =>
    exact vicmp_readable g d a b w un gm k h
  case qmovToQ g d a =>
    exact qmov_readable g d a ⟨0, .plain⟩ 0 _ (by simp) h
  case qmovToG g x y =>
    exact qmov_readable g 0 ⟨0, .plain⟩ x y _ (by simp) h
  case vld g d m dc ty gm | vst g d m dc ty gm =>
    exact vload_readable g d m dc ty gm _ (by simp) h
  case vldx g d m dc ty gm | vstx g d m dc ty gm =>
    exact vgather_readable g d m dc ty gm _ (by simp) h
  case vldc g d m c dc ty gm | vstc g d m c dc ty gm =>
    exact vloadC_readable g d m c dc ty gm _ (by simp) h
  case vshuf g d a b c gm =>
    exact vshuf_readable g d a b c gm h
  case viota g d a b gm =>
    exact viota_readable g d a b gm h
  case mma g d a b c e f bg ag kk =>
    exact mma_readable g d a b c e f bg ag kk h
  case mmaq g d a b c e f bg ag kk =>
    exact mmaq_readable g d a b c e f bg ag kk h
  case mscale g d a b =>
    exact mscale_readable g d a b h
  case smxa g d a b c e f fs =>
    exact smxa_readable g d a b c e f fs h
  case smxmerge g d a b =>
    exact smx_readable g d a b _ (by simp) h
  case smxinit g d b =>
    exact smx_readable g d 0 b _ (by simp) h
  case smxfin g d b rst =>
    exact smxfin_readable g d b rst h
  case lease g d a b x =>
    exact flag_readable g d a b x _ (by simp) h
  case unlease g d a x =>
    exact flag_readable g d a ⟨0, .plain⟩ x _ (by simp) h
  case cwbr g a c x =>
    exact cwbr_readable g a c x h
  case scfgr g d a n =>
    exact slice_readable g d a ⟨0, .plain⟩ n _ (by simp) h
  case scfgw g a b n =>
    exact slice_readable g ⟨0, .plain⟩ a b n _ (by simp) h
  case shl g d a b | shr g d a b | sar g d a b | rot g d a b =>
    exact shift_readable g d a b 0 _ (by simp) h
  case tstbit g p a b =>
    exact shift_readable g ⟨0, .plain⟩ a b p _ (by simp) h
  case li g d imm =>
    exact wide_readable g d imm _ (by simp) h
  case jmp g imm =>
    exact wide_readable g ⟨0, .plain⟩ imm _ (by simp) h
  case lih g d imm =>
    exact lih_readable g d imm h
  case bfx g d a pos len | bfxn g d a pos len | bfi g d a pos len =>
    exact bitField_readable g d a pos len _ (by simp) h
  case madd g d a b c =>
    exact madd_readable g d a c b h
  case bsig g a n off =>
    exact bsig_readable g a n off h
  case fempty g a | ffull g a =>
    exact fullBit_readable g a 0 _ (by simp) h
  case ftest g d a =>
    exact fullBit_readable g a d _ (by simp) h
  case ld g d m x ty sc k =>
    exact ld_readable g d m x ty sc k h
  case st g d m x ty sc k =>
    exact st_readable g d m x ty sc k h
  case ldp g d m c ty =>
    exact ldp_readable g d c m ty h
  case fcvt g d a df sf =>
    exact fcvt_readable g d a df sf h
  case vcmp g d a b f gm cond half =>
    exact vcmp_readable g d a b f gm cond half h
  case vbcast g d a dc gm =>
    exact vbcast_readable g d a dc gm h
  case vext g d a b dc =>
    exact vext_readable g d a b dc h
  case vins g d a b dc =>
    exact vins_readable g d a b dc h
  case mld g d a b c dc pl | mst g d a b c dc pl =>
    exact tileMove_readable g d a b c dc pl _ (by simp) h
  case smxld g d a b c pl | smxst g d a b c pl =>
    exact softMove_readable g d a c b pl _ (by simp) h
  case mcommit g d fill =>
    exact mcommit_readable g d fill h
  case couch g d a ev =>
    exact couch_readable g d a ev h
  case vfroma g v a b sl | vtoa g a v b sl =>
    exact accMove_readable g v a b sl _ (by simp) h
  case csrr g d num =>
    exact csr_readable g d ⟨0, .plain⟩ num _ (by simp) h
  case csrw g d a num | csrs g d a num | csrc g d a num =>
    exact csr_readable g d a num _ (by simp) h
  case tbw g a b c t =>
    exact tbw_readable g a b c t h
  case tbi g a b t all =>
    exact tbi_readable g a b t all h
  case tbp g d a b t =>
    exact tbp_readable g d a b t h
  all_goals exact Bool.noConfusion hev

theorem decode_padWord (rest : List Byte) : decode (leBytes 4 3 ++ rest) = .ok .padWord 4 := by
  have hlen : ¬(leBytes 4 3 ++ rest).length < 4 := by simp [leBytes_length]
  have hnat : leNat ((leBytes 4 3 ++ rest).take 16) = 3 + 256 ^ 4 * leNat (rest.take 12) := by
    rw [List.take_append, leBytes_length, List.take_of_length_le (by simp [leBytes_length]), leNat_leBytes_append]
    rfl
  have hlow : (3 + 256 ^ 4 * leNat (rest.take 12)) % 2 ^ 32 = 3 := by omega
  have hcode : (3 + 256 ^ 4 * leNat (rest.take 12)) % 4 = 3 := by omega
  have hsize : ¬(leBytes 4 3 ++ rest).length < sizeOf 3 := hlen
  simp only [decode, if_neg hlen, hnat, hcode, if_neg hsize, decodeWord, hlow, if_true]

theorem Instr.size_of_toRaw {i : Instr} {r : Raw} (h : i.toRaw = some r) : i.size = some (sizeOf r.len.toNat) := by
  unfold Instr.size
  split
  · simp [Instr.toRaw] at h
  · rw [h]; rfl

theorem encode_of_toRaw {i : Instr} {r : Raw} (h : i.toRaw = some r) : encode i = some (leBytes (sizeOf r.len.toNat) r.toWord) := by
  have hw : encodeWord i = some r.toWord := by
    unfold encodeWord
    split
    · simp [Instr.toRaw] at h
    · rw [h]; rfl
  simp only [encode, hw, Instr.size_of_toRaw h]

/-- Settles O55: the pad word by its bits, every other instruction by the fields of its word (`readable_of_wf`). -/
theorem decodeEncodeAgree : Obligations.DecodeEncodeAgree := by
  intro i rest hwf hev
  by_cases hpad : i = .padWord
  · subst hpad
    exact ⟨leBytes 4 3, 4, rfl, rfl, rfl, .inl rfl, decode_padWord rest⟩
  · obtain ⟨r, hr, hreads⟩ := readable_of_wf i hwf hev hpad
    exact ⟨_, _, encode_of_toRaw hr, Instr.size_of_toRaw hr, leBytes_length .., .inr (Raw.size_cases hreads.inSize).2,
      decode_of_reads hreads rest⟩

end Sys2Proof
end

section
/-!
PROOFS. Predicates and modifiers (O58): the modifiers of an instruction no word encodes are not those of its bytes.
-/

namespace Sys2Proof.Machine

/-- A VBCAST whose element code .s takes an f register, with the g register g1 as its source: no word encodes it, its byte reads f1. -/
def misplacedVbcast : Instr := .vbcast ⟨0, false⟩ 0 (.g ⟨1, .consume⟩) .s none

/-- Reset, with g1 full and f1 empty in the issuing context. -/
def g1FullF1Empty : State := State.reset.modMe (fun t => { t with g := [(1, ⟨0, true⟩)], f := [(1, ⟨0, 0, false⟩)] })

theorem exec_vbcast (g : Guard) (d : VReg) (a : AnyGF) (dc : VData) (gm : GMask) (s : State) :
    exec (.vbcast g d a dc gm) s = s.run (.vbcast g d a dc gm) 8 g [anySrc a] (fun s =>
      .done (s.putV d ((s.actives gm ((vfmt dc).getD .s)).foldl (fun v e => v.insert dc e (s.anyVal a)) (s.v d)))) := rfl

theorem runs_misplacedVbcast : ∃ e, Runs misplacedVbcast g1FullF1Empty 8 [.src ⟨1, .consume⟩] e :=
  ⟨_, runs_0 (exec_vbcast ..) rfl (by decide) (by decide) rfl ((Applied.refl _).putV rfl 0 _) rfl rfl⟩

theorem me_parkOn_park (s : State) (i : Instr) (w : Wait) : (s.parkOn i w).me.park ≠ none := by
  simp [State.parkOn]

/-- An instruction that completes does not park. -/
theorem Runs.not_parks {i : Instr} {s : State} {size : Nat} {os : List Opnd} {e : Effect} (h : Runs i s size os e) (w : Wait) : ¬Parks i s w := by
  obtain ⟨t, ht, hc⟩ := h
  intro hp
  obtain rfl : t = s.parkOn i w := by injection ht.symm.trans hp
  exact me_parkOn_park s i w hc.park

/-- Refutes O58: an ill-formed VBCAST with the register of another class than its element code's (`misplacedVbcast`) waits for the modifiers of
its own operand g1, not for those of its byte, f1; with g1 full and f1 empty it completes. -/
theorem not_guardsAndModifiers : ¬ Obligations.GuardsAndModifiers := by
  intro h
  obtain ⟨-, -, hmods, -⟩ := h
  obtain ⟨cs, -, hp⟩ := hmods g1FullF1Empty misplacedVbcast _ _ rfl rfl (by decide) (by decide)
  obtain ⟨e, he⟩ := runs_misplacedVbcast
  exact he.not_parks _ hp

end Sys2Proof.Machine
end

section
/-!
PROOFS. Taking an exception (R33, R90, R246 to R248): the context a cause leaves, and what the aborts of its barriers may change (O38).
-/

namespace Sys2Proof.Machine

/-! ### A context's update leaves the task and the gang of its core -/

@[simp] theorem State.tilePart_setCtx (s : State) (c x : Nat) (t : Ctx) (d : Nat) : (s.setCtx c x t).tilePart d = s.tilePart d := rfl

theorem State.core_setCtx_keeps {α : Type} (π : Core → α) (hπ : ∀ (k : Core) (x : Nat) (t : Ctx), π (k.setCtx x t) = π k) (s : State)
    (c x : Nat) (t : Ctx) (d : Nat) : π ((s.setCtx c x t).core d) = π (s.core d) := by
  by_cases h : d = c
  · subst h; rw [State.core_setCtx_same, hπ]
  · rw [State.core_setCtx_ne s c x d t h]

@[simp] theorem State.taskId_setCtx (s : State) (c x : Nat) (t : Ctx) (d : Nat) : ((s.setCtx c x t).core d).taskId = (s.core d).taskId :=
  State.core_setCtx_keeps Core.taskId (fun _ _ _ => rfl) s c x t d
@[simp] theorem State.gangIdx_setCtx (s : State) (c x : Nat) (t : Ctx) (d : Nat) : ((s.setCtx c x t).core d).gangIdx = (s.core d).gangIdx :=
  State.core_setCtx_keeps Core.gangIdx (fun _ _ _ => rfl) s c x t d
@[simp] theorem State.bar_setCtx (s : State) (c x : Nat) (t : Ctx) (d : Nat) : ((s.setCtx c x t).core d).bar = (s.core d).bar :=
  State.core_setCtx_keeps Core.bar (fun _ _ _ => rfl) s c x t d
@[simp] theorem State.taskOf_setCtx (s : State) (c x : Nat) (t : Ctx) (d : Nat) : (s.setCtx c x t).taskOf d = s.taskOf d := by
  simp [State.taskOf]
@[simp] theorem State.threadCount_setCtx (s : State) (c x : Nat) (t : Ctx) (d : Nat) : (s.setCtx c x t).threadCount d = s.threadCount d := by
  simp [State.threadCount]
@[simp] theorem State.gangWide_setCtx (s : State) (c x : Nat) (t : Ctx) (d y : Nat) : (s.setCtx c x t).gangWide d y = s.gangWide d y := by
  simp [State.gangWide]
@[simp] theorem State.gangCores_setCtx (s : State) (c x : Nat) (t : Ctx) (d : Nat) : (s.setCtx c x t).gangCores d = s.gangCores d := by
  simp [State.gangCores]

/-! ### Aborting barriers (R90) -/

theorem Barrier.bar_bar (b : Barrier) (r : Nat × Nat) : (b.bar r).bar r = b.bar r := by
  simp only [Barrier.bar, Option.or_assoc, Option.or_self]

/-- The gang's cores take note of an abort once each, however often a core is named. -/
theorem core_barGang (l : List Nat) (r : Nat × Nat) (s : State) (d : Nat) :
    (l.foldl (fun s g => s.modCore g (fun k => { k with bar := k.bar.bar r })) s).core d =
      if d ∈ l then { s.core d with bar := (s.core d).bar.bar r } else s.core d := by
  induction l generalizing s with
  | nil => simp
  | cons g l ih =>
    rw [List.foldl_cons, ih]
    by_cases hd : d = g
    · subst hd
      simp [Barrier.bar_bar]
    · simp [hd, State.core_modCore_ne]

theorem barGang_device (l : List Nat) (r : Nat × Nat) (s : State) :
    { l.foldl (fun s g => s.modCore g (fun k => { k with bar := k.bar.bar r })) s with cores := s.cores } = s := by
  induction l generalizing s with
  | nil => rfl
  | cons g l ih =>
    have h := ih (s.modCore g (fun k => { k with bar := k.bar.bar r }))
    exact congrArg (fun t : State => { t with cores := s.cores }) h

theorem abortTile_device (s : State) (c i : Nat) : { s.abortTile c i with cores := s.cores } = s := by
  unfold State.abortTile
  simp only
  split
  · rfl
  · exact congrArg (fun t : State => { t with cores := s.cores }) (barGang_device _ _ _)

@[simp] theorem part_abortTile (s : State) (c i p : Nat) : (s.abortTile c i).part p = s.part p := by
  have h := congrArg (fun t : State => t.part p) (abortTile_device s c i)
  exact h

theorem core_abortTile_same (s : State) (c i : Nat) : (s.abortTile c i).core c = { s.core c with bar := (s.core c).bar.abort i } := by
  unfold State.abortTile
  simp only
  split
  · exact State.core_modCore_same ..
  · rw [core_barGang, if_neg (by simp), State.core_modCore_same]

theorem core_abortTile_ne (s : State) (c i : Nat) {d : Nat} (h : d ≠ c) :
    (s.abortTile c i).core d = ((s.core c).bar.abort i).aborted.elim (s.core d)
      (fun r => if d ∈ s.gangCores c then { s.core d with bar := (s.core d).bar.bar r } else s.core d) := by
  unfold State.abortTile
  cases ha : ((s.core c).bar.abort i).aborted with
  | none => simp [ha, State.core_modCore_ne, h]
  | some r => simp [ha, core_barGang, State.core_modCore_ne, h]

theorem abortTile_coresKept (s : State) (c i : Nat) : CoresKept s (s.abortTile c i) c := by
  intro d hd
  rw [core_abortTile_ne s c i hd]
  cases ((s.core c).bar.abort i).aborted with
  | none => rfl
  | some r => rw [Option.elim]; split <;> rfl

theorem abortTile_barsTile {s : State} {c i : Nat} (ha : (s.core c).bar.aborted = none) (hi : (s.core c).bar.arrived.contains i = false) :
    BarsTile s (s.abortTile c i) c ((s.core c).bar.gen, i) := by
  have hb : ((s.core c).bar.abort i).aborted = some ((s.core c).bar.gen, i) := by simp_all [Barrier.abort]
  refine ⟨by rw [core_abortTile_same]; exact hb, fun g hg hne => ?_⟩
  rw [core_abortTile_ne s c i hne, hb]
  simp [hg, Barrier.bar]

/-- A task without the state of its gang's barrier. -/
def Task.bare (k : Task) : Task := { k with gbar := ⟨0, [], none, none⟩ }

theorem bare_modTask (p : Part) (id : Nat) (f : Barrier → Barrier) :
    (p.modTask id (fun t => { t with gbar := f t.gbar })).window.map Task.bare = p.window.map Task.bare := by
  simp only [Part.modTask, List.map_map]
  refine List.map_congr_left fun t _ => ?_
  simp only [Function.comp]
  split <;> rfl

/-- What the abort of barriers may change: the barrier of core c, the notes of the gang's other cores, the gang barriers of the partitions. -/
structure AbortsOnly (s w : State) (c : Nat) : Prop where
  cores : CoresKept s w c
  core : { w.core c with bar := (s.core c).bar } = s.core c
  device : { w with cores := s.cores, parts := s.parts } = s
  parts : ∀ p, { w.part p with window := (s.part p).window } = s.part p ∧ (w.part p).window.map Task.bare = (s.part p).window.map Task.bare

theorem AbortsOnly.refl (s : State) (c : Nat) : AbortsOnly s s c := ⟨fun _ _ => rfl, rfl, rfl, fun _ => ⟨rfl, rfl⟩⟩

theorem AbortsOnly.abortTile (s : State) (c i : Nat) : AbortsOnly s (s.abortTile c i) c where
  cores := abortTile_coresKept s c i
  core := by rw [core_abortTile_same]
  device := congrArg (fun t : State => { t with parts := s.parts }) (abortTile_device s c i)
  parts p := by simp

theorem AbortsOnly.modGang {s w : State} {c : Nat} (h : AbortsOnly s w c) (p id : Nat) (f : Barrier → Barrier) :
    AbortsOnly s (w.modPart p (fun q => q.modTask id (fun t => { t with gbar := f t.gbar }))) c where
  cores := h.cores
  core := h.core
  device := h.device
  parts q := by
    by_cases hq : q = p
    · subst hq
      rw [State.part_modPart_same, bare_modTask]
      exact h.parts q
    · rw [State.part_modPart_ne _ _ _ _ hq]
      exact h.parts q

theorem AbortsOnly.abortBarriers (s : State) (c x : Nat) : AbortsOnly s (s.abortBarriers c x) c := by
  unfold State.abortBarriers
  split
  · simp only
    split
    · exact .abortTile s c _
    · exact (AbortsOnly.abortTile s c _).modGang _ _ (fun b => b.abort _)
  · exact .refl s c

theorem AbortsOnly.ctx {s w : State} {c : Nat} (h : AbortsOnly s w c) (d y : Nat) : w.ctx d y = s.ctx d y := by
  by_cases hd : d = c
  · subst hd
    have hk := congrArg (fun k : Core => k.ctx y) h.core
    exact hk
  · have hk := congrArg (fun k : Core => k.ctx y) (h.cores d hd)
    exact hk

theorem abortBarriers_barsTile {s : State} {c x : Nat} (hx : x < s.threadCount c) (ha : (s.core c).bar.aborted = none)
    (hi : (s.core c).bar.arrived.contains (s.gangWide c x) = false) :
    BarsTile s (s.abortBarriers c x) c ((s.core c).bar.gen, s.gangWide c x) := by
  unfold State.abortBarriers
  simp only [if_pos hx]
  split <;> exact abortTile_barsTile ha hi

/-! ### Taking an exception (R33, R247, R248) -/

/-- A context after a cause, with the supervisor's entry at `vec`. -/
def Ctx.raised (t : Ctx) (vec : Word) (code : Nat) (tval tstat tepc : Word) : Ctx :=
  match t.level with
  | .l0 =>
    if t.toSup code then if vec = 0 then t.heldEntry code tval tepc tstat else t.enterSup code tval tepc tstat vec
    else t.enterUser code tval tepc tstat t.tvec
  | .l1 =>
    if vec = 0 then t.heldEntry (0x0F + code * 0x100) tval tepc tstat else t.enterSup (0x0F + code * 0x100) tval tepc tstat vec
  | .l2 => t.heldNested code tval tepc tstat

/-- Whether a cause holds the context: at level 2, and where the supervisor has no entry. -/
def Ctx.heldBy (t : Ctx) (vec : Word) (code : Nat) : Prop :=
  t.level = .l2 ∨ (vec = 0 ∧ (t.level = .l1 ∨ bit t.tdeleg code = true ∨ t.tvec = 0))

theorem Ctx.toSup_iff (t : Ctx) (code : Nat) : t.toSup code = true ↔ bit t.tdeleg code = true ∨ t.tvec = 0 := by
  simp [Ctx.toSup]

section
variable (s : State) (c x code : Nat) (tval tstat tepc : Word)

theorem raise_free (h : ¬(s.ctx c x).heldBy (s.part (s.partOf c x)).svcvec code) :
    s.raise c x code tval tstat tepc = s.setCtx c x ((s.ctx c x).raised (s.part (s.partOf c x)).svcvec code tval tstat tepc) := by
  unfold State.raise Ctx.raised
  rw [Ctx.heldBy, ← Ctx.toSup_iff] at h
  cases hl : (s.ctx c x).level with
  | l0 => cases hs : (s.ctx c x).toSup code <;> simp_all
  | l1 => simp_all
  | l2 => exact absurd (.inl hl) h

theorem raise_held (h : (s.ctx c x).heldBy (s.part (s.partOf c x)).svcvec code) :
    s.raise c x code tval tstat tepc =
      (s.setCtx c x ((s.ctx c x).raised (s.part (s.partOf c x)).svcvec code tval tstat tepc)).abortBarriers c x := by
  unfold State.raise Ctx.raised
  rw [Ctx.heldBy, ← Ctx.toSup_iff] at h
  cases hl : (s.ctx c x).level with
  | l0 => simp_all
  | l1 => simp_all
  | l2 => simp only [hl]

theorem ctx_raise (d y : Nat) : (s.raise c x code tval tstat tepc).ctx d y =
    (s.setCtx c x ((s.ctx c x).raised (s.part (s.partOf c x)).svcvec code tval tstat tepc)).ctx d y := by
  by_cases h : (s.ctx c x).heldBy (s.part (s.partOf c x)).svcvec code
  · rw [raise_held s c x code tval tstat tepc h, (AbortsOnly.abortBarriers _ c x).ctx]
  · rw [raise_free s c x code tval tstat tepc h]

theorem SameMemory.raise : SameMemory s (s.raise c x code tval tstat tepc) := by
  by_cases h : (s.ctx c x).heldBy (s.part (s.partOf c x)).svcvec code
  · rw [raise_held s c x code tval tstat tepc h]
    exact (SameMemory.setCtx ..).trans (SameMemory.abortBarriers ..)
  · rw [raise_free s c x code tval tstat tepc h]
    exact SameMemory.setCtx ..

end

theorem AbortsOnly.of_setCtx {s w : State} {c x : Nat} {t : Ctx} (h : AbortsOnly (s.setCtx c x t) w c) :
    CoresKept s w c ∧ { w.core c with ctxs := [], bar := (s.core c).bar } = { s.core c with ctxs := [] } ∧
      { w with cores := s.cores, parts := s.parts } = s ∧
      ∀ p, { w.part p with window := (s.part p).window } = s.part p ∧ (w.part p).window.map Task.bare = (s.part p).window.map Task.bare := by
  refine ⟨fun d hd => ?_, ?_, ?_, h.parts⟩
  · have hk := h.cores d hd
    rwa [State.core_setCtx_ne s c x d t hd] at hk
  · have hk := congrArg (fun k : Core => { k with ctxs := [] }) h.core
    rw [State.core_setCtx_same] at hk
    exact hk
  · have hk := congrArg (fun u : State => { u with cores := s.cores }) h.device
    exact hk

/-! ### The context that an exception leaves -/

theorem swapped_exchange (g sh : Table GVal) : swapped g (exchange g sh).1 sh (exchange g sh).2 := by
  refine ⟨fun n h1 h2 => ?_, fun n h => ?_⟩
  · rw [exchange_regs, exchange_shadow, if_pos ⟨h1, h2⟩, if_pos ⟨h1, h2⟩]
    exact ⟨rfl, rfl⟩
  · rw [exchange_regs, if_neg (by omega)]

section
variable (t : Ctx) (vec : Word) (code : Nat) (tval tstat tepc : Word)

theorem Ctx.raised_trap : (t.raised vec code tval tstat tepc).tval = tval ∧ (t.raised vec code tval tstat tepc).tstat = tstat ∧
    (t.raised vec code tval tstat tepc).tepc = tepc := by
  unfold Ctx.raised
  split
  · split
    · split <;> exact ⟨rfl, rfl, rfl⟩
    · exact ⟨rfl, rfl, rfl⟩
  · split <;> exact ⟨rfl, rfl, rfl⟩
  · exact ⟨rfl, rfl, rfl⟩

variable {t vec code}

theorem Ctx.raised_user (hl : t.level = .l0) (h : ¬(bit t.tdeleg code = true ∨ t.tvec = 0)) :
    t.raised vec code tval tstat tepc = t.enterUser code tval tepc tstat t.tvec := by
  rw [Ctx.raised, hl]
  exact if_neg (by rwa [Ctx.toSup_iff])

theorem Ctx.raised_sup (hl : t.level = .l0) (h : bit t.tdeleg code = true ∨ t.tvec = 0) (hv : vec ≠ 0) :
    t.raised vec code tval tstat tepc = t.enterSup code tval tepc tstat vec := by
  rw [Ctx.raised, hl]
  exact (if_pos ((Ctx.toSup_iff t code).mpr h)).trans (if_neg hv)

theorem Ctx.raised_unhandled (hl : t.level = .l0) (h : bit t.tdeleg code = true ∨ t.tvec = 0) (hv : vec = 0) :
    t.raised vec code tval tstat tepc = t.heldEntry code tval tepc tstat := by
  rw [Ctx.raised, hl]
  exact (if_pos ((Ctx.toSup_iff t code).mpr h)).trans (if_pos hv)

theorem Ctx.raised_nested (hl : t.level = .l1) (hv : vec ≠ 0) :
    t.raised vec code tval tstat tepc = t.enterSup (0x0F + code * 0x100) tval tepc tstat vec := by
  rw [Ctx.raised, hl]
  exact if_neg hv

theorem Ctx.raised_nestedHeld (hl : t.level = .l1) (hv : vec = 0) :
    t.raised vec code tval tstat tepc = t.heldEntry (0x0F + code * 0x100) tval tepc tstat := by
  rw [Ctx.raised, hl]
  exact if_pos hv

theorem Ctx.raised_twice (hl : t.level = .l2) : t.raised vec code tval tstat tepc = t.heldNested code tval tepc tstat := by
  rw [Ctx.raised, hl]

end

/-- Settles O38: the context a cause leaves by its level (`Ctx.raised`), and, where it is held, the aborts of its barriers (`AbortsOnly`). -/
theorem exceptionsAreTaken : Obligations.ExceptionsAreTaken := by
  intro s c x code tval tstat tepc _
  have ht : (s.raise c x code tval tstat tepc).ctx c x = (s.ctx c x).raised (s.part (s.partOf c x)).svcvec code tval tstat tepc := by
    rw [ctx_raise, State.ctx_setCtx_same]
  obtain ⟨h1, h2, h3⟩ := (s.ctx c x).raised_trap (s.part (s.partOf c x)).svcvec code tval tstat tepc
  simp only [ht]
  refine ⟨h1, h2, h3, .raise .., fun d y hd => ?_, ⟨fun hf => ?_, fun hh => ?_⟩, fun hl hs => ?_, fun hl hs hv => ?_, fun hl hs hv => ?_,
    fun hl hv => ?_, fun hl hv => ?_, fun hl => ?_⟩
  case refine_1 => rw [ctx_raise, State.ctx_setCtx_ne _ _ _ _ _ _ hd]
  case refine_2 => rw [raise_free _ _ _ _ _ _ _ hf]; exact .setCtx ..
  case refine_3 =>
    rw [raise_held _ _ _ _ _ _ _ hh]
    obtain ⟨hcores, hcore, hdev, hparts⟩ := (AbortsOnly.abortBarriers _ c x).of_setCtx
    refine ⟨hcores, hcore, hdev, hparts, fun hx ha hi => ?_⟩
    have hb := abortBarriers_barsTile (s := s.setCtx c x ((s.ctx c x).raised (s.part (s.partOf c x)).svcvec code tval tstat tepc))
      (c := c) (x := x) (by simpa using hx) (by simpa using ha) (by simpa using hi)
    simpa [BarsTile] using hb
  case refine_4 => rw [Ctx.raised_user _ _ _ hl hs]; exact ⟨rfl, rfl, rfl, ⟨rfl, rfl, rfl, rfl⟩, swapped_exchange .., rfl, rfl⟩
  case refine_5 =>
    rw [Ctx.raised_sup _ _ _ hl hs hv]
    exact ⟨by simp [Ctx.enterSup, Ctx.setTrap, hl, Level.num], rfl, rfl, ⟨rfl, rfl, rfl, rfl⟩, swapped_exchange .., rfl, rfl⟩
  case refine_6 =>
    rw [Ctx.raised_unhandled _ _ _ hl hs hv]
    exact ⟨by simp [Ctx.heldEntry, Ctx.setTrap, hl, Level.num], rfl, hl, rfl, rfl⟩
  case refine_7 =>
    rw [Ctx.raised_nested _ _ _ hl hv]
    exact ⟨by simp [Ctx.enterSup, Ctx.setTrap, hl, Level.num], rfl, rfl, ⟨rfl, rfl, rfl, rfl⟩, swapped_exchange .., rfl, rfl⟩
  case refine_8 =>
    rw [Ctx.raised_nestedHeld _ _ _ hl hv]
    exact ⟨by simp [Ctx.heldEntry, Ctx.setTrap, hl, Level.num], rfl⟩
  case refine_9 => rw [Ctx.raised_twice _ _ _ hl]; simp [Ctx.heldNested, Ctx.setTrap, hl]

end Sys2Proof.Machine
end

section
/-!
PROOFS. Threads under supervision: waking, the watchdog, events in order of code, held contexts, the halt bit (O43).
-/

namespace Sys2Proof.Machine

/-! ### Wake, watchdog, events (R28, R249, R376) -/

theorem execParkedThreadWake_parked {s : State} {c x : Nat} {p : Parked} (h : (s.ctx c x).park = some p) :
    execParkedThreadWake c x s = .next (if s.waitOk c x p.w = true ∨ p.w = .served then
      s.modCtx c x (fun t => { t with park := some { p with awake := true } }) else s) := by
  simp only [execParkedThreadWake, h, Bool.or_eq_true, beq_iff_eq]
  split <;> rfl

theorem execWatchdog_parked {s : State} {c x : Nat} {p : Parked} (h : (s.ctx c x).park = some p) :
    execWatchdog c x s = .next (if (s.ctx c x).state ≠ .running ∨ watchdogTicks (s.part (s.partOf c x)).ckptctl = 0 ∨
        s.now ≤ p.since + watchdogTicks (s.part (s.partOf c x)).ckptctl then s
      else (s.modCtx c x (fun t => t.settle t.pc)).raise c x Cause.watchdog s.gtime 0 (s.ctx c x).pc) := by
  simp only [execWatchdog, h, Bool.or_eq_true, decide_eq_true_eq, or_assoc]
  split <;> rfl

/-- The search goes past events of a code no lower than the best so far. -/
theorem pickEvent_high (es : List Ev) (i k low : Nat) (h : ∀ y ∈ es, low ≤ y.code) : pickEvent es i (some k) low = some k := by
  induction es generalizing i with
  | nil => rfl
  | cons e es ih =>
    have he := h e (by simp)
    have hes := ih (i + 1) (fun y hy => h y (by simp [hy]))
    simp [pickEvent, hes, Nat.not_lt.mpr he]

/-- The event of lowest code, the earliest of equals, is picked among sixteen. -/
theorem pickEvent_lowest (l r : List Ev) (e : Ev) (i low : Nat) (best : Option Nat) (hn : i + l.length < 16)
    (hb : best = none ∨ e.code < low) (hl : ∀ y ∈ l, e.code < y.code) (hr : ∀ y ∈ r, e.code ≤ y.code) :
    pickEvent (l ++ e :: r) i best low = some (i + l.length) := by
  induction l generalizing i best low with
  | nil =>
    have hi : ¬16 ≤ i := by simpa using hn
    have hc : (best.isNone || decide (e.code < low)) = true := by
      rcases hb with rfl | hb
      · rfl
      · simp [hb]
    rw [List.nil_append, pickEvent, if_neg hi, if_pos hc, pickEvent_high r _ _ _ hr]
    rfl
  | cons y l ih =>
    have hy := hl y (by simp)
    have hi : ¬16 ≤ i := by simp at hn; omega
    have hn' : i + 1 + l.length < 16 := by simp at hn; omega
    have hl' : ∀ z ∈ l, e.code < z.code := fun z hz => hl z (by simp [hz])
    rw [List.cons_append, pickEvent, if_neg hi]
    split
    · rw [ih (i + 1) y.code (some i) hn' (.inr hy) hl', List.length_cons]
      congr 1; omega
    · rw [ih (i + 1) low best hn' hb hl', List.length_cons]
      congr 1; omega

theorem dropAt_length {α : Type} (l r : List α) (e : α) : dropAt (l ++ e :: r) l.length = l ++ r := by
  induction l with
  | nil => rfl
  | cons y l ih => simp [dropAt, ih]

theorem takeEvent_of_pick {s : State} {c x k : Nat} {e : Ev} (hk : pickEvent (s.ctx c x).events 0 none 0 = some k)
    (he : (s.ctx c x).events[k]? = some e) :
    s.takeEvent c x =
      let t := s.modCtx c x (fun t => { t with
        events := dropAt t.events k, xferid := (e.xfer.map (·.1)).getD t.xferid, xferstat := (e.xfer.map (·.2)).getD t.xferstat
        dbgctl := if e.code = Cause.debugHalt then clearBit t.dbgctl 1 else t.dbgctl })
      t.raise c x e.code e.tval e.tstat (t.following c x (s.ctx c x).pc) e.entry := by
  simp only [State.takeEvent, hk, he]

theorem takeEvent_lowest {s : State} {c x : Nat} {l r : List Ev} {e : Ev} (h : (s.ctx c x).events = l ++ e :: r)
    (hn : (s.ctx c x).events.length ≤ 16) (hl : ∀ y ∈ l, e.code < y.code) (hr : ∀ y ∈ r, e.code ≤ y.code) :
    s.takeEvent c x =
      let t := s.modCtx c x (fun t => { t with
        events := l ++ r, xferid := (e.xfer.map (·.1)).getD t.xferid, xferstat := (e.xfer.map (·.2)).getD t.xferstat
        dbgctl := if e.code = Cause.debugHalt then clearBit t.dbgctl 1 else t.dbgctl })
      t.raise c x e.code e.tval e.tstat (t.following c x (s.ctx c x).pc) e.entry := by
  have hlen : 0 + l.length < 16 := by simp [h] at hn; omega
  have hk : pickEvent (s.ctx c x).events 0 none 0 = some l.length := by
    rw [h, pickEvent_lowest l r e 0 0 none hlen (.inl rfl) hl hr, Nat.zero_add]
  have he : (s.ctx c x).events[l.length]? = some e := by simp [h]
  rw [takeEvent_of_pick hk he]
  simp only [State.modCtx, h, dropAt_length]

/-! ### Held contexts and the halt bit (R85, R247, R258) -/

theorem ctx_endContext (s : State) (c x d y : Nat) (exit : Word) :
    (s.endContext c x exit).ctx d y = if d = c ∧ y = x then (s.ctx c x).ending exit else s.ctx d y := by
  rw [State.endContext, (AbortsOnly.abortBarriers _ c x).ctx]
  have hctx : ∀ y, (s.modCore c (fun k => k.disown x)).ctx c y = s.ctx c y := fun y => by
    rw [State.ctx, State.core_modCore_same]; rfl
  split
  · next h =>
    obtain ⟨rfl, rfl⟩ := h
    rw [State.ctx_modCtx_same, hctx]
  · next h =>
    rw [State.ctx_modCtx_ne _ _ _ _ _ _ (by omega)]
    by_cases hd : d = c
    · subst hd; exact hctx y
    · rw [State.ctx, State.core_modCore_ne _ _ _ _ hd, State.ctx]

theorem endContext_coresKept (s : State) (c x : Nat) (exit : Word) : CoresKept s (s.endContext c x exit) c := by
  intro d hd
  have hk := (AbortsOnly.abortBarriers ((s.modCore c (fun k => k.disown x)).modCtx c x (fun t => t.ending exit)) c x).cores d hd
  rwa [State.core_modCtx_ne _ _ _ _ _ hd, State.core_modCore_ne _ _ _ _ hd] at hk

theorem SameMemory.endContext (s : State) (c x : Nat) (exit : Word) : SameMemory s (s.endContext c x exit) := by
  refine SameMemory.trans (t := s.modCore c (fun k => k.disown x)) (SameMemory.modCore s c _ (fun _ => rfl)) ?_
  exact (SameMemory.modCtx _ c x _).trans (SameMemory.abortBarriers _ c x)

theorem execHeldContextEnd_held {s : State} {c x : Nat} (h : (s.ctx c x).state = .held) (hw : x ≠ 0 ∨ s.waitOk c 0 .others = true) :
    execHeldContextEnd c x s = .next (s.endContext c x (s.ctx c x).exitWord) := by
  rw [execHeldContextEnd, if_pos ⟨h, hw⟩]

theorem startHeld_regs (t : Ctx) (pc : Word) : (t.level = .l2 → (t.startHeld pc).g = t.g) ∧
    (t.level ≠ .l2 → swapped t.g (t.startHeld pc).g t.sshadow (t.startHeld pc).sshadow) := by
  refine ⟨fun h => if_pos h, fun h => ?_⟩
  have hg : (t.startHeld pc).g = (exchange t.g t.sshadow).1 := if_neg h
  have hs : (t.startHeld pc).sshadow = (exchange t.g t.sshadow).2 := if_neg h
  rw [hg, hs]
  exact swapped_exchange ..

theorem bit_and_three (v : Word) : bit (v &&& 3) 1 = bit v 1 := by
  have h : (v &&& 3).toNat = v.toNat % 4 := by
    rw [BitVec.toNat_and]
    exact Nat.and_two_pow_sub_one_eq_mod v.toNat 2
  simp only [bit, h]
  congr 1
  simp only [eq_iff_iff]
  omega

theorem Ctx.setDbg_events (t : Ctx) (v : Word) : (t.setDbg v).events =
    if bit v 1 = true then (if bit t.dbgctl 1 = true then t.events else t.events ++ [.plain Cause.debugHalt 0 0])
    else t.events.filter (fun e => decide (e.code ≠ Cause.debugHalt)) := by
  simp only [Ctx.setDbg, bit_and_three]

/-- Settles O43: an equation for each of the events, the held context's through the aborts of its barriers. -/
theorem threadEventsHappen : Obligations.ThreadEventsHappen := by
  intro s c x v
  refine ⟨fun h => ⟨?_, ?_⟩, fun p h => ⟨fun hw hs => ?_, fun hw => ?_, ⟨fun hl => ?_, fun hr hl ht => ?_⟩⟩, fun h => ?_,
    fun l e r he hn hl hr hd => ?_, fun h => ⟨?_, ?_⟩, fun h hx hw => ?_, fun h => ⟨fun hw => ?_, ?_⟩, ?_⟩
  case refine_1 => show execParkedThreadWake c x s = _; rw [execParkedThreadWake, h]
  case refine_2 => show execWatchdog c x s = _; simp only [execWatchdog, h]
  case refine_3 => exact (execParkedThreadWake_parked h).trans (by rw [if_neg (by simp [hw, hs])])
  case refine_4 => exact (execParkedThreadWake_parked h).trans (by rw [if_pos hw])
  case refine_5 =>
    have hl' : watchdogTicks (s.part (s.partOf c x)).ckptctl = 0 ∨ s.gtime.toNat ≤ p.since + watchdogTicks (s.part (s.partOf c x)).ckptctl := by
      rwa [watchdogTicks, ticksMs, Nat.mul_comm]
    exact (execWatchdog_parked h).trans (by rw [if_pos (.inr hl')])
  case refine_6 =>
    have hl' : ¬((s.ctx c x).state ≠ .running ∨ watchdogTicks (s.part (s.partOf c x)).ckptctl = 0 ∨
        s.gtime.toNat ≤ p.since + watchdogTicks (s.part (s.partOf c x)).ckptctl) := by
      rw [watchdogTicks, ticksMs, Nat.mul_comm, not_or, not_or, not_not, Nat.not_le]
      exact ⟨hr, hl, ht⟩
    exact (execWatchdog_parked h).trans (congrArg Host.Outcome.next (if_neg hl'))
  case refine_7 => exact congrArg Host.Outcome.next (if_neg (by simp [h]))
  case refine_8 => exact congrArg Host.Outcome.next ((if_pos hd).trans (takeEvent_lowest he hn hl hr))
  case refine_9 => exact congrArg Host.Outcome.next (if_neg (fun hc => h hc.1))
  case refine_10 => exact congrArg Host.Outcome.next (if_neg h)
  case refine_11 => exact congrArg Host.Outcome.next (if_neg (by simp [hx, hw]))
  case refine_12 =>
    refine ⟨_, execHeldContextEnd_held h hw, ?_, ?_, ?_, ?_, fun y hy => ?_, fun d hd => endContext_coresKept s c x _ d hd, .endContext ..⟩
    case refine_5 => rw [ctx_endContext, if_neg (fun hc => hy hc.2)]
    all_goals rw [ctx_endContext, if_pos ⟨rfl, rfl⟩]; rfl
  case refine_13 =>
    refine ⟨_, congrArg Host.Outcome.next (if_pos h), .modCtx .., ?_⟩
    rw [State.ctx_modCtx_same]
    exact ⟨rfl, rfl, rfl, rfl, rfl, rfl, rfl, rfl, startHeld_regs ..⟩
  case refine_14 =>
    refine ⟨_, rfl, .modCtx .., ?_⟩
    simp only [State.ctx_modCtx_same, Ctx.setDbg_events]
    exact ⟨rfl, fun h1 h2 => by simp [h1, h2, Ev.plain], fun h1 h2 => by simp [h1, h2], fun h1 => by simp [h1]⟩

end Sys2Proof.Machine
end

section
/-!
PROOFS. Tasks enter the window (R19 to R23): what TASK_CREATE makes of a record, and when a task becomes ready, ends or rises (O44).
-/

namespace Sys2Proof.Machine

/-! ### The window (R19 to R22) -/

theorem recAddrOk_iff (a : Word) : recAddrOk a = true ↔ fld a 63 57 = 0 ∧ a.toNat % 64 = 0 := by
  simp [recAddrOk, fld]

/-- A task waits without unresolved dependences. -/
def Task.eligible (t : Task) : Bool := t.phase == .waiting && t.deps.isEmpty

/-- With no eligible task, nothing becomes ready. -/
theorem readyAll_none {s : State} {part : Nat} (k : Nat) (h : ∀ e ∈ (s.part part).window, e.eligible = false) : s.readyAll part k = s := by
  have hf : (s.part part).window.find? (fun t => t.phase == .waiting && t.deps.isEmpty) = none :=
    List.find?_eq_none.mpr fun e he => by simpa [Task.eligible] using h e he
  cases k with
  | zero => rfl
  | succ k => simp only [State.readyAll, hf]

/-- The first eligible task becomes ready, and what is eligible then goes on. -/
theorem readyAll_first {s u : State} {part k : Nat} {l r : List Task} {t : Task} (hw : (s.part part).window = l ++ t :: r)
    (hl : ∀ e ∈ l, e.eligible = false) (ht : t.eligible = true) (hb : s.becomeReady part t = some u) :
    s.readyAll part (k + 1) = u.readyAll part k := by
  have hf : (s.part part).window.find? (fun t => t.phase == .waiting && t.deps.isEmpty) = some t := by
    rw [hw, List.find?_append, List.find?_eq_none.mpr fun e he => by simpa [Task.eligible] using hl e he]
    exact List.find?_cons_of_pos ht
  simp only [State.readyAll, hf, hb]

theorem window_modTask {p : Part} {l r : List Task} {t : Task} (hw : p.window = l ++ t :: r) (h : ∀ e ∈ l ++ r, e.id ≠ t.id)
    (f : Task → Task) : (p.modTask t.id f).window = l ++ f t :: r := by
  have hm : ∀ m : List Task, (∀ e ∈ m, e.id ≠ t.id) → m.map (fun e => if e.id = t.id then f e else e) = m := fun m hm =>
    (List.map_congr_left fun e he => if_neg (hm e he)).trans (List.map_id' m)
  simp only [Part.modTask, hw, List.map_append, List.map_cons, if_true]
  rw [hm l fun e he => h e (by simp [he]), hm r fun e he => h e (by simp [he])]

/-- A task made ready with a variant at a time. -/
def Task.readied (t : Task) (v now : Nat) : Task := { t with phase := .ready, variant := v, level := t.record.prio, since := now }

/-- The variant that a task without a size pointer takes fits in the partition: the task is ready. -/
theorem becomeReady_fits {s : State} {part : Nat} {t : Task} {v : Variant} (h0 : t.record.sizePtr = 0) (hv : t.record.variants.head? = some v)
    (hg : v.gang ≤ (s.part part).widest) :
    s.becomeReady part t = some (s.modPart part (fun p => p.modTask t.id (fun t => t.readied 0 s.now))) := by
  have hv' : t.record.variants[0]? = some v := by rw [← List.head?_eq_getElem?]; exact hv
  simp [State.becomeReady, State.choose, h0, hv', Nat.not_lt.mpr hg, Task.readied]

/-- It does not fit: the task ends with status 6. -/
theorem becomeReady_tooWide {s : State} {part : Nat} {t : Task} {v : Variant} (h0 : t.record.sizePtr = 0)
    (hv : t.record.variants.head? = some v) (hg : (s.part part).widest < v.gang) (ht : t.record.target = 0) :
    s.becomeReady part t = some ((s.leaveWindow part t.id t.vec).queueReport part t.id 6) := by
  have hv' : t.record.variants[0]? = some v := by rw [← List.head?_eq_getElem?]; exact hv
  simp [State.becomeReady, State.choose, h0, hv', hg, State.endUnrun, State.report, ht]

/-- One eligible task, of an id of its own, whose variant fits: it is ready, and nothing else changes. -/
theorem readyAll_one {s : State} {part k : Nat} {l r : List Task} {t : Task} {v : Variant} (hw : (s.part part).window = l ++ t :: r)
    (hother : ∀ e ∈ l ++ r, e.phase ≠ .waiting ∧ e.id ≠ t.id) (ht : t.eligible = true) (h0 : t.record.sizePtr = 0)
    (hv : t.record.variants.head? = some v) (hg : v.gang ≤ (s.part part).widest) :
    PartOnly s (s.readyAll part (k + 1)) part ∧ ((s.readyAll part (k + 1)).part part).window = l ++ t.readied 0 s.now :: r := by
  have hno : ∀ e ∈ l ++ r, e.eligible = false := fun e he => by simp [Task.eligible, (hother e he).1]
  have hwin : ((s.modPart part (fun p => p.modTask t.id (fun t => t.readied 0 s.now))).part part).window = l ++ t.readied 0 s.now :: r := by
    rw [State.part_modPart_same, window_modTask hw fun e he => (hother e he).2]
  rw [readyAll_first hw (fun e he => hno e (by simp [he])) ht (becomeReady_fits h0 hv hg), readyAll_none]
  · exact ⟨.modPart .., hwin⟩
  · intro e he
    rw [hwin] at he
    rcases List.mem_append.mp he with he | he
    · exact hno e (by simp [he])
    · rcases List.mem_cons.mp he with rfl | he
      · rfl
      · exact hno e (by simp [he])

/-! ### A task that does not fit leaves again -/

theorem part_setTiles (l : List Reserve) (s : State) (p : Nat) :
    (l.foldl (fun s r => if (s.core r.tile).tstate == .reserved then s.setTile r.tile .idle else s) s).part p = s.part p := by
  induction l generalizing s with
  | nil => rfl
  | cons r l ih =>
    rw [List.foldl_cons, ih]
    split <;> rfl

theorem leaveWindow_part (s : State) (part id : Nat) (vec : List Nat) :
    (((s.leaveWindow part id vec).part part).reports = (s.part part).reports) ∧
    ((s.leaveWindow part id vec).part part).window = (((s.part part).window.filter (fun t => decide (t.id ≠ id))).map (fun t =>
      if t.deps.contains id then { t with deps := t.deps.filter (fun x => decide (x ≠ id)), vec := joinClock t.vec vec } else t)) := by
  simp only [State.leaveWindow, State.endHolds, State.part_modPart_same, part_setTiles, and_self]

theorem leaveWindow_last {s : State} {part : Nat} {l : List Task} {t : Task} (hw : (s.part part).window = l ++ [t])
    (h : ∀ e ∈ l, e.phase ≠ .waiting ∧ e.id ≠ t.id) :
    ((s.leaveWindow part t.id t.vec).part part).window.map (fun e => e.id) = l.map (fun e => e.id) ∧
    ∀ e ∈ ((s.leaveWindow part t.id t.vec).part part).window, e.phase ≠ .waiting := by
  have hf : (l ++ [t]).filter (fun e => decide (e.id ≠ t.id)) = l := by
    rw [List.filter_append, List.filter_eq_self.mpr fun e he => by simpa using (h e he).2]
    simp
  rw [(leaveWindow_part s part t.id t.vec).2, hw, hf, List.map_map]
  refine ⟨List.map_congr_left fun e _ => ?_, fun e he => ?_⟩
  · simp only [Function.comp]; split <;> rfl
  · obtain ⟨u, hu, rfl⟩ := List.mem_map.mp he
    split
    · exact (h u hu).1
    · exact (h u hu).1

/-! ### TASK_CREATE and PRIORITY_RISE (R19, R23) -/

section
variable {s : State} {part : Nat}

theorem execTaskCreate_none (he : (s.part part).enq = []) :
    execTaskCreate part s = .next s ∨ execTaskCreate part s = .next (s.readyAll part 1025) := by
  unfold execTaskCreate
  simp only [he]
  split
  · exact .inl rfl
  · exact .inr rfl

theorem execTaskCreate_ready (he : (s.part part).enq = []) (hp : (s.part part).present = true) (hr : (s.part part).inReset = false)
    (hs : (s.part part).stopped = false) : execTaskCreate part s = .next (s.readyAll part 1025) := by
  simp [execTaskCreate, he, hp, hr, hs]

variable {a : Word} {rest : List Word} (he : (s.part part).enq = a :: rest) (hp : (s.part part).present = true)
  (hr : (s.part part).inReset = false) (hs : (s.part part).stopped = false) (hn : (s.part part).window.length < 1024)
include he hp hr hs hn

theorem execTaskCreate_badAddr (ha : recAddrOk a = false) :
    execTaskCreate part s = .next ((s.modPart part (fun p => { p with enq := rest })).queueReport part 0 1) := by
  simp [execTaskCreate, he, hp, hr, hs, Nat.not_le.mpr hn, ha]

theorem execTaskCreate_unread (ha : recAddrOk a = true)
    (hq : (s.modPart part (fun p => { p with enq := rest })).schedRead part a.toNat 3 128 = .bad) :
    execTaskCreate part s = .next ((s.modPart part (fun p => { p with enq := rest })).queueReport part 0 4) := by
  simp [execTaskCreate, he, hp, hr, hs, Nat.not_le.mpr hn, ha, hq]

variable {bs : List Byte} {t : State} (ha : recAddrOk a = true)
  (hq : (s.modPart part (fun p => { p with enq := rest })).schedRead part a.toNat 3 128 = .ok bs t)
include ha hq

theorem execTaskCreate_badRecord {b : Nat} (hb : recFail bs = some b) : execTaskCreate part s = .next (t.queueReport part 0 1) := by
  simp [execTaskCreate, he, hp, hr, hs, Nat.not_le.mpr hn, ha, hq, hb]

theorem execTaskCreate_task (hb : recFail bs = none) : execTaskCreate part s = .next ((t.modPart part (fun p => { p with
    window := p.window ++ [p.newTask (recOf bs)], nextTask := nextId p.nextTask })).readyAll part 1025) := by
  simp [execTaskCreate, he, hp, hr, hs, Nat.not_le.mpr hn, ha, hq, hb]

end

theorem riseTick_due (t : Task) (now : Nat) : t.riseTick.any (fun n => decide (n ≤ now)) = true ↔
    t.waits = true ∧ t.level < 7 ∧ t.since + 1000000 ≤ now := by
  by_cases h : (t.waits && decide (t.level < 7)) = true
  · have hr : t.riseTick = some (t.since + 1000000) := if_pos h
    rw [Bool.and_eq_true, decide_eq_true_eq] at h
    rw [hr, Option.any_some, decide_eq_true_eq]
    exact ⟨fun hn => ⟨h.1, h.2, hn⟩, fun hn => hn.2.2⟩
  · have hr : t.riseTick = none := if_neg h
    rw [Bool.and_eq_true, decide_eq_true_eq] at h
    rw [hr, Option.any_none]
    exact ⟨fun hn => absurd hn Bool.false_ne_true, fun hn => absurd ⟨hn.1, hn.2.1⟩ h⟩

theorem execPriorityRise_task {s : State} {part id : Nat} {t : Task} (h : (s.part part).task id = some t) :
    execPriorityRise part id s = .next (if t.waits = true ∧ t.level < 7 ∧ t.since + 1000000 ≤ s.now then
      s.modPart part (fun p => p.modTask id (fun t => { t with level := t.level + 1, since := t.since + 1000000 })) else s) := by
  simp only [execPriorityRise, h]
  by_cases hd : t.waits = true ∧ t.level < 7 ∧ t.since + 1000000 ≤ s.now
  · rw [if_pos hd, if_pos ((riseTick_due t s.now).mpr hd)]
  · rw [if_neg hd, if_neg (mt (riseTick_due t s.now).mp hd)]

/-! ### A new task in the window -/

/-- A partition with a new task of a record at the window's end. -/
def State.withTask (t : State) (part : Nat) (r : TaskRec) : State :=
  t.modPart part (fun p => { p with window := p.window ++ [p.newTask r], nextTask := nextId p.nextTask })

section
variable {t : State} {part : Nat} {r : TaskRec} {v : Variant}

theorem window_withTask (t : State) (part : Nat) (r : TaskRec) :
    ((t.withTask part r).part part).window = (t.part part).window ++ [(t.part part).newTask r] := by
  rw [State.withTask, State.part_modPart_same]

theorem widest_withTask (t : State) (part : Nat) (r : TaskRec) : ((t.withTask part r).part part).widest = (t.part part).widest := by
  rw [State.withTask, State.part_modPart_same]
  rfl

variable (hother : ∀ e ∈ (t.part part).window, e.phase ≠ .waiting ∧ e.id ≠ (t.part part).nextTask.toNat)
include hother

theorem readyAll_dependent (hd : ((t.part part).newTask r).deps ≠ []) (k : Nat) :
    (t.withTask part r).readyAll part k = t.withTask part r := by
  refine readyAll_none k fun e he => ?_
  rw [window_withTask] at he
  rcases List.mem_append.mp he with he | he
  · simp [Task.eligible, (hother e he).1]
  · obtain rfl := List.mem_singleton.mp he
    simp [Task.eligible, hd]

theorem readyAll_independent (hd : ((t.part part).newTask r).deps = []) (h0 : r.sizePtr = 0) (hv : r.variants.head? = some v)
    (hg : v.gang ≤ (t.part part).widest) (k : Nat) :
    PartOnly t ((t.withTask part r).readyAll part (k + 1)) part ∧
    (((t.withTask part r).readyAll part (k + 1)).part part).window = (t.part part).window ++ [((t.part part).newTask r).readied 0 t.now] := by
  obtain ⟨hpart, hwin⟩ := readyAll_one (k := k) (window_withTask t part r) (fun e he => hother e (by simpa using he)) (by simp [Task.eligible, hd]; rfl) h0 hv
    (by rwa [widest_withTask])
  have hdev := congrArg (fun w : State => { w with parts := t.parts }) hpart.device
  refine ⟨⟨hdev, fun q hq => ?_⟩, hwin⟩
  rw [hpart.parts q hq, State.withTask, State.part_modPart_ne _ _ _ _ hq]

theorem readyAll_tooWide (hd : ((t.part part).newTask r).deps = []) (h0 : r.sizePtr = 0) (hv : r.variants.head? = some v)
    (hg : (t.part part).widest < v.gang) (ht : r.target = 0) (k : Nat) :
    (((t.withTask part r).readyAll part (k + 1)).part part).window.map (fun e => e.id) = (t.part part).window.map (fun e => e.id) ∧
    (((t.withTask part r).readyAll part (k + 1)).part part).reports =
      (t.part part).reports ++ [reportWord (t.part part).nextTask.toNat 6] := by
  have hw := window_withTask t part r
  obtain ⟨hids, hphase⟩ := leaveWindow_last hw hother
  have hno : ∀ e ∈ (t.part part).window, e.eligible = false := fun e he => by simp [Task.eligible, (hother e he).1]
  have hb := becomeReady_tooWide (s := t.withTask part r) (t := (t.part part).newTask r) h0 hv (by rwa [widest_withTask]) ht
  rw [readyAll_first hw hno (by simp [Task.eligible, hd]; rfl) hb, readyAll_none k]
  · rw [State.queueReport, State.part_modPart_same]
    refine ⟨hids, ?_⟩
    rw [(leaveWindow_part ..).1, State.withTask, State.part_modPart_same]
    rfl
  · intro e he
    rw [State.queueReport, State.part_modPart_same] at he
    simp [Task.eligible, hphase e he]

end

/-- Settles O44: TASK_CREATE by what the window's first eligible task comes to (`readyAll_one`, `readyAll_tooWide`), the others by an equation. -/
theorem tasksEnterTheWindow : Obligations.TasksEnterTheWindow := by
  intro s part a rest
  refine ⟨fun hp => ?_, fun hp hr => ?_, fun hp hr hc => ⟨fun hn => ?_, fun hn => ?_⟩, fun he hw => ?_,
    fun he hp hr hs l t r v hw hother hph hd h0 hv hg => ?_,
    fun he hp hr hs hn => ⟨fun ha => ?_, fun h1 h2 => ?_⟩, fun id t ht => ⟨fun h1 h2 h3 => ?_, fun h => ?_⟩⟩
  case refine_1 => show execEnqueue part a s = _; simp [execEnqueue, hp]
  case refine_2 => show execEnqueue part a s = _; simp [execEnqueue, hp, hr, State.queueReport, reportWord]
  case refine_3 => show execEnqueue part a s = _; simp [execEnqueue, hp, hr, hc, hn, State.queueReport, reportWord]
  case refine_4 => show execEnqueue part a s = _; simp [execEnqueue, hp, hr, hc, Nat.not_le.mpr hn]
  case refine_5 =>
    have hno : ∀ e ∈ (s.part part).window, e.eligible = false := fun e h => by
      by_cases hph : e.phase = .waiting
      · simp [Task.eligible, hw e h hph]
      · simp [Task.eligible, hph]
    rcases execTaskCreate_none he with h | h
    · exact h
    · exact h.trans (congrArg Host.Outcome.next (readyAll_none 1025 hno))
  case refine_6 => exact ⟨_, execTaskCreate_ready he hp hr hs, readyAll_one hw hother (by simp [Task.eligible, hph, hd]) h0 hv hg⟩
  case refine_7 =>
    have hbad : recAddrOk a = false := by
      rw [Bool.eq_false_iff, ne_eq, recAddrOk_iff, not_and_or]
      exact ha
    exact execTaskCreate_badAddr he hp hr hs hn hbad
  case refine_8 =>
    have ha := (recAddrOk_iff a).mpr ⟨h1, h2⟩
    refine ⟨execTaskCreate_unread he hp hr hs hn ha, fun bs t b hq hb => execTaskCreate_badRecord he hp hr hs hn ha hq hb, fun bs t hq hb => ?_⟩
    have hx := execTaskCreate_task he hp hr hs hn ha hq hb
    intro P r deps hother
    refine ⟨fun hd => ⟨_, hx, ?_⟩, fun v hd h0 hv hg => ⟨_, hx, ?_⟩, fun v hd h0 hv hg ht => ⟨_, hx, readyAll_tooWide hother hd h0 hv hg ht 1024⟩⟩
    · have hsame := readyAll_dependent (r := r) hother hd 1025
      rw [State.withTask] at hsame
      rw [hsame]
      refine ⟨.modPart .., P.newTask r, ?_, rfl, rfl, rfl, rfl, rfl, ?_⟩
      · rw [State.part_modPart_same]
      · rw [State.part_modPart_same]; rfl
    · obtain ⟨hpart, hwin⟩ := readyAll_independent hother hd h0 hv hg 1024
      exact ⟨hpart, _, hwin, rfl, rfl, rfl, rfl, rfl⟩
  case refine_9 => exact (execPriorityRise_task ht).trans (congrArg Host.Outcome.next (if_pos ⟨h1, h2, h3⟩))
  case refine_10 =>
    have hno : ¬(t.waits = true ∧ t.level < 7 ∧ t.since + 1000000 ≤ s.now) := by
      rintro ⟨h1, h2, h3⟩
      rcases h with h | h | h
      · simp [h] at h1
      · omega
      · exact absurd h3 (Nat.not_le.mpr h)
    exact (execPriorityRise_task ht).trans (congrArg Host.Outcome.next (if_neg hno))

end Sys2Proof.Machine
end

section
/-!
PROOFS. Role requests (R305 to R309, R338, R339): what a request sends, its status, and the warnings that a lease takes back (O36).
-/

namespace Sys2Proof.Machine

/-! ### What an agent's context update leaves -/

theorem State.cur_modAgent (s : State) (a : Agent) (f : Ctx → Ctx) : (s.modAgent a f).cur = s.cur := by
  unfold State.modAgent
  split <;> rfl

theorem State.me_modAgent_keeps {α : Type} (π : Ctx → α) {f : Ctx → Ctx} (hπ : ∀ t, π (f t) = π t) (s : State) (a : Agent) :
    π (s.modAgent a f).me = π s.me := by
  unfold State.modAgent
  split
  · next c _ =>
    show π ((s.modCtx c a.ctx f).ctx s.cur.1 s.cur.2) = _
    by_cases h : s.cur.1 = c ∧ s.cur.2 = a.ctx
    · obtain ⟨h1, h2⟩ := h
      rw [← h1, ← h2, State.ctx_modCtx_same, hπ]
      rfl
    · rw [State.ctx_modCtx_ne _ _ _ _ _ _ (not_and_or.mp h)]
      rfl
  · rfl

theorem State.tilePart_modPart (s : State) (p : Nat) (f : Part → Part) (h1 : ∀ q, (f q).present = q.present) (h2 : ∀ q, (f q).bands = q.bands)
    (c : Nat) : (s.modPart p f).tilePart c = s.tilePart c := by
  have hp : ∀ {α : Type} (π : Part → α), (∀ q, π (f q) = π q) → ∀ n, π ((s.modPart p f).part n) = π (s.part n) := fun π hπ n => by
    by_cases hn : n = p
    · subst hn; rw [State.part_modPart_same, hπ]
    · rw [State.part_modPart_ne _ _ _ _ hn]
  simp only [State.tilePart, hp Part.present h1, hp Part.bands h2]

theorem State.tilePart_modAgent (s : State) (a : Agent) (f : Ctx → Ctx) (c : Nat) : (s.modAgent a f).tilePart c = s.tilePart c := by
  unfold State.modAgent
  split
  · rfl
  · exact State.tilePart_modPart s _ (fun p => p.modTask _ _) (fun _ => rfl) (fun _ => rfl) c

/-! ### The warnings of a lease (R306, R339) -/

theorem State.me_withdraw_keeps {α : Type} (π : Ctx → α) (hπ : ∀ (t : Ctx) es, π { t with events := es } = π t) (s : State)
    (r : Role) (k : Nat) : π (s.withdraw r k).me = π s.me := by
  unfold State.withdraw
  split
  · exact State.me_modAgent_keeps π (fun t => hπ t _) s _
  · rfl

theorem State.myPart_withdraw (s : State) (r : Role) (k : Nat) : (s.withdraw r k).myPart = s.myPart := by
  have hpid := State.me_withdraw_keeps Ctx.partid (fun _ _ => rfl) s r k
  have hcur : (s.withdraw r k).cur = s.cur := by
    unfold State.withdraw
    split
    · exact State.cur_modAgent ..
    · rfl
  have htile : (s.withdraw r k).tilePart s.cur.1 = s.tilePart s.cur.1 := by
    unfold State.withdraw
    split
    · exact State.tilePart_modAgent ..
    · rfl
  rw [State.me, State.me, hcur] at hpid
  rw [State.myPart, hcur, State.partOf, hpid, htile]
  rfl

/-- With no later expiry in the queue, every warning of the role goes. -/
theorem withdrawn_warns {n : Nat} {es : List Ev} (h : ∀ e ∈ es, ¬(e.code = Cause.leaseExpired ∧ e.tval = w64 n)) :
    ∀ e ∈ withdrawn n es, ¬(e.code = Cause.leaseExpiring ∧ e.tval = w64 n) := by
  induction es with
  | nil => simp [withdrawn]
  | cons e es ih =>
    have hno : es.any (fun x => x.code == Cause.leaseExpired && x.tval == w64 n) = false := by
      rw [List.any_eq_false]
      intro x hx
      simpa using h x (by simp [hx])
    have ih' := ih (fun x hx => h x (by simp [hx]))
    rw [withdrawn]
    split
    · exact ih'
    · next hk =>
      intro x hx
      rcases List.mem_cons.mp hx with rfl | hx
      · simpa [hno] using hk
      · exact ih' x hx

theorem ctx_withdraw_seated {s : State} {r : Role} {c : Nat} (hr : r.runs s.now = true) (hc : s.seat r.leaser = some c) :
    ((s.withdraw r 0).ctx c r.leaser.ctx).events = withdrawn r.num (s.ctx c r.leaser.ctx).events := by
  simp only [State.withdraw, hr, if_true, State.modAgent, hc, State.ctx_modCtx_same, List.take_zero, List.nil_append, List.drop_zero]

/-! ### A request and its reply (R28, R305) -/

theorem exec_park {i : Instr} {s u : State} {size : Nat} {g : Guard} {os : List Opnd} {eff : State → Res} {w : Wait}
    (hx : exec i s = s.run i size g os eff) (hgd : s.guard g = true) (hm : s.modsOk (condsOf os) = true) (he : eff s = .park w u) :
    exec i s = .next (u.parkOn i w) := by
  rw [hx]
  simp [State.run, hgd, hm, he, State.finish]

section
variable {s : State} {a b : Word} {k : State → Nat → Word → Nat → Res}

theorem roleRequest_bad (ho : s.out = false) (ha : fld a 63 16 ≠ 0) : s.roleRequest a b k = .trap Cause.boundCheck a 1 s := by
  simp [State.roleRequest, ho, ha]

theorem roleRequest_sent (ho : s.out = false) (ha : fld a 63 16 = 0) :
    s.roleRequest a b k = .park .served (s.sent 4 [] [fld a 15 0, b.toNat, s.now]) := by
  simp [State.roleRequest, ho, ha, State.remote]

/-- A request of the issuing thread to role `n`, with second operand `B`, issued at tick `at'`, has its reply. -/
structure Replied (s : State) (g : Guard) (n B at' : Nat) : Prop where
  guard : s.guard g = true
  out : s.out = true
  ops : s.me.phase.eas = [n, B, at']
  lt : B < 2 ^ 64

theorem Replied.request {g : Guard} {n B at' : Nat} (h : Replied s g n B at') : s.roleRequest a b k = k s n (w64 B) at' := by
  simp [State.roleRequest, h.out, State.remote, h.ops, nth]

theorem Replied.toNat {g : Guard} {n B at' : Nat} (h : Replied s g n B at') : (w64 B).toNat = B := by
  rw [w64, BitVec.toNat_ofNat, Nat.mod_eq_of_lt h.lt]

end

section
variable {s u : State} {g : Guard} {d a b : GReg} {l : List Opnd} {n B at' : Nat} {v : Word}

/-- The issuing context is as far in `u` as in `s`. -/
structure SamePlace (s u : State) : Prop where
  level : u.me.level = s.me.level
  dbgctl : u.me.dbgctl = s.me.dbgctl
  pc : u.me.pc = s.me.pc

theorem SamePlace.refl (s : State) : SamePlace s s := ⟨rfl, rfl, rfl⟩

theorem SamePlace.modPart (h : SamePlace s u) (p : Nat) (f : Part → Part) : SamePlace s (u.modPart p f) := ⟨h.level, h.dbgctl, h.pc⟩

theorem SamePlace.withdraw (s : State) (r : Role) (k : Nat) : SamePlace s (s.withdraw r k) :=
  ⟨s.me_withdraw_keeps Ctx.level (fun _ _ => rfl) r k, s.me_withdraw_keeps Ctx.dbgctl (fun _ _ => rfl) r k,
    s.me_withdraw_keeps Ctx.pc (fun _ _ => rfl) r k⟩

/-- A request with its reply completes with what the reply gives. -/
theorem Replied.runs (h : Replied s g n B at') {i : Instr} {eff : State → Res} {x y : Word} {k : State → Nat → Word → Nat → Res}
    (hx : exec i s = s.run i 8 g (.dst d :: l) eff) (hn : noDst l = true) (hm : s.modsOk (condsOf (.dst d :: l)) = true)
    (he : eff s = s.roleRequest x y k) (hk : k s n (w64 B) at' = .done (u.putG d v)) (hu : SamePlace s u) :
    RunsWith i s u 8 (.dst d :: l) { g := [(d, v)] } :=
  runs_with_g hx hn h.guard hm (he.trans (h.request.trans hk)) hu.level hu.dbgctl hu.pc

/-! ### The five requests by their status -/

/-! Each request runs through `roleRequest`. -/

theorem exec_lease (warn : Bool) : exec (.lease g d a b warn) s = execLease g d a b warn s := rfl
theorem exec_renew : exec (.renew g d a b) s = execRenew g d a b s := rfl
theorem exec_rolereq : exec (.rolereq g d a b) s = execRolereq g d a b s := rfl
theorem exec_unlease (drop : Bool) : exec (.unlease g d a drop) s = execUnlease g d a drop s := rfl
theorem exec_roleq : exec (.roleq g d a) s = execRoleq g d a s := rfl

theorem lease_status (h : Replied s g n B at') {warn : Bool} (hm : s.modsOk (condsOf [.dst d, .src a, .src b]) = true) {st : Nat}
    (hst : s.leaseStatus n (w64 B) at' = st) (h0 : st ≠ 0) :
    RunsWith (.lease g d a b warn) s s 8 [.dst d, .src a, .src b] { g := [(d, w64 st)] } :=
  h.runs (exec_lease warn) rfl hm rfl (by simp only [hst, if_neg h0]) (.refl s)

theorem lease_granted (h : Replied s g n B at') {warn : Bool} (hm : s.modsOk (condsOf [.dst d, .src a, .src b]) = true)
    (hst : s.leaseStatus n (w64 B) at' = 0) :
    RunsWith (.lease g d a b warn) s (s.modRole n (fun r => { r with
      holder := some s.myTask, expiry := some B, warn := warn, warned := false, leaser := s.agent s.cur.1 s.cur.2 }))
      8 [.dst d, .src a, .src b] { g := [(d, 0)] } :=
  h.runs (exec_lease warn) rfl hm rfl (by simp only [hst, if_true, h.toNat]; rfl) ((SamePlace.refl s).modPart _ _)

theorem renew_status (h : Replied s g n B at') (hm : s.modsOk (condsOf [.dst d, .src a, .src b]) = true) {st : Nat}
    (hst : s.renewStatus n (w64 B) at' = st) (h0 : st ≠ 0) :
    RunsWith (.renew g d a b) s s 8 [.dst d, .src a, .src b] { g := [(d, w64 st)] } :=
  h.runs exec_renew rfl hm rfl (by simp only [hst, if_neg h0]) (.refl s)

theorem renew_granted (h : Replied s g n B at') (hm : s.modsOk (condsOf [.dst d, .src a, .src b]) = true)
    (hst : s.renewStatus n (w64 B) at' = 0) {r : Role} (hr : (s.part s.myPart).role n = some r) :
    RunsWith (.renew g d a b) s ((if r.expiry = some B then s else s.unraise r).modPart s.myPart (fun p => p.modRole n (fun r => r.renew B)))
      8 [.dst d, .src a, .src b] { g := [(d, 0)] } := by
  have hren : (s.renewing n (w64 B)).modRole n (fun r => r.renew B) =
      (if r.expiry = some B then s else s.unraise r).modPart s.myPart (fun p => p.modRole n (fun r => r.renew B)) := by
    simp only [State.renewing, hr, Option.elim_some, h.toNat]
    split
    · rfl
    · rw [State.modRole, State.unraise, State.myPart_withdraw]
  refine h.runs exec_renew rfl hm rfl (by simp only [hst, if_true, h.toNat, hren]; rfl) (SamePlace.modPart ?_ _ _)
  split
  · exact .refl s
  · exact .withdraw s r 16

theorem rolereq_refused (h : Replied s g n B at') (hm : s.modsOk (condsOf [.dst d, .src a, .src b]) = true) {st : Nat}
    (hst : s.roleReqRefusal n (w64 B) = some st) :
    RunsWith (.rolereq g d a b) s s 8 [.dst d, .src a, .src b] { g := [(d, w64 (2 ^ 63 + st))] } :=
  h.runs exec_rolereq rfl hm (if_neg (by simp [h.out])) (by simp only [hst]) (.refl s)

theorem rolereq_recorded (h : Replied s g n B at') (hm : s.modsOk (condsOf [.dst d, .src a, .src b]) = true)
    (hst : s.roleReqRefusal n (w64 B) = none) :
    let c := censusAfter (s.part s.myPart).censusctl (at' + 10000)
    RunsWith (.rolereq g d a b) s (s.modRole n (fun r => { r with req := some ⟨nfld B 1 0, nfld B 31 16, c⟩ }))
      8 [.dst d, .src a, .src b] { g := [(d, w64 c)] } :=
  h.runs exec_rolereq rfl hm (if_neg (by simp [h.out])) (by simp only [hst, fld, h.toNat]; rfl) ((SamePlace.refl s).modPart _ _)

theorem unlease_status (h : Replied s g n B at') {drop : Bool} (hm : s.modsOk (condsOf [.dst d, .src a]) = true) {st : Nat}
    (hst : s.unleaseStatus n drop = st) (h0 : st ≠ 0) :
    RunsWith (.unlease g d a drop) s s 8 [.dst d, .src a] { g := [(d, w64 st)] } :=
  h.runs (exec_unlease drop) rfl hm rfl (by simp only [hst, if_neg h0]) (.refl s)

theorem unlease_granted (h : Replied s g n B at') {drop : Bool} (hm : s.modsOk (condsOf [.dst d, .src a]) = true)
    (hst : s.unleaseStatus n drop = 0) {r : Role} (hr : (s.part s.myPart).role n = some r) :
    RunsWith (.unlease g d a drop) s ((s.withdraw r 0).modPart s.myPart (fun p => p.modRole n (fun r =>
      { r.endLease with holder := if drop then none else r.holder }))) 8 [.dst d, .src a] { g := [(d, 0)] } :=
  h.runs (exec_unlease drop) rfl hm rfl (by simp only [hst, if_true, hr, Option.elim_some, State.modRole, State.myPart_withdraw]; rfl)
    ((SamePlace.withdraw s r 0).modPart _ _)

theorem roleq_answers (h : Replied s g n B at') (hm : s.modsOk (condsOf [.dst d, .src a]) = true) :
    RunsWith (.roleq g d a) s s 8 [.dst d, .src a] { g := [(d, s.roleWord n)] } :=
  h.runs exec_roleq rfl hm rfl rfl (.refl s)

end

/-! ### The statuses (R306, R308, R339) -/

section
variable {s : State} {g : Guard} {n B at' : Nat} {r : Role}

/-- A lease whose tick has not come runs. -/
theorem Role.runs_eq {now : Nat} (h : r.expiry.all (fun e => decide (now < e)) = true) : r.runs now = r.expiry.isSome := by
  unfold Role.runs
  cases he : r.expiry with
  | none => rfl
  | some e => simpa [he] using h

theorem leasedMine_iff (h : r.expiry.all (fun e => decide (s.now < e)) = true) :
    s.leasedMine r = true ↔ r.holder = some s.myTask ∧ r.expiry.isSome = true := by
  simp [State.leasedMine, Role.runs_eq h, and_comm]

theorem Replied.badExpiry_iff (h : Replied s g n B at') : badExpiry at' (w64 B) = true ↔ B < at' + 20000 ∨ at' + 50000000 < B := by
  simp [badExpiry, h.toNat]

variable (hr : (s.part s.myPart).role n = some r)
include hr

theorem leaseStatus_held (h1 : r.holder ≠ none) (h2 : r.holder ≠ some s.myTask) (b : Word) : s.leaseStatus n b at' = 2 := by
  have h1' : r.holder.isSome = true := Option.isSome_iff_ne_none.mpr h1
  simp [State.leaseStatus, hr, h1', h2]

theorem leaseStatus_free (h : r.holder = none ∨ r.holder = some s.myTask) (b : Word) : s.leaseStatus n b at' =
    if s.leasedMine r then 4 else if badExpiry at' b then 3
    else if 64 ≤ ((s.part s.myPart).leased s.now s.myTask).length then 6 else 0 := by
  have hb : (r.holder.isSome && r.holder != some s.myTask) = false := by
    rcases h with h | h <;> simp [h]
  simp [State.leaseStatus, hr, hb]

theorem renewStatus_role (b : Word) : s.renewStatus n b at' = if s.leasedMine r then if badExpiry at' b then 3 else 0 else 5 := by
  cases h : s.leasedMine r <;> simp [State.renewStatus, hr, h]

theorem unleaseStatus_lease : s.unleaseStatus n false = if s.leasedMine r then 0 else 5 := by
  simp [State.unleaseStatus, hr]

theorem unleaseStatus_role : s.unleaseStatus n true = if r.holder ≠ some s.myTask then 6 else if r.req ≠ none then 7 else 0 := by
  simp [State.unleaseStatus, hr, Role.pending, Option.isSome_iff_ne_none]

theorem roleReqRefusal_other (h : r.holder ≠ some s.myTask) (b : Word) : s.roleReqRefusal n b = some 1 := by
  simp [State.roleReqRefusal, hr, h]

theorem roleReqRefusal_move (h : r.holder = some s.myTask) {b : Word} (hb : fld b 1 0 = 1) :
    s.roleReqRefusal n b = if r.req ≠ none then some 3 else none := by
  simp [State.roleReqRefusal, hr, h, hb, Role.pending, Option.isSome_iff_ne_none]

theorem roleWord_role : s.roleWord n = w64 ((if r.storage then 1 else 2) * 2 ^ 62 + b2n (s.leasedMine r) * 2 ^ 61 + b2n r.changing * 2 ^ 60 +
    r.refusals * 2 ^ 56 + r.tile.getD 0x7FF * 2 ^ 32 + b2n (r.holder == some s.myTask) * 2 ^ 31) := by
  simp [State.roleWord, State.roleWordOf, hr, State.leasedMine]

end

theorem b2n_le (b : Bool) : b2n b ≤ 1 := by cases b <;> decide
theorem b2n_eq_one (b : Bool) : b2n b = 1 ↔ b = true := by cases b <;> decide

/-- The fields of a role's entry word (R309). -/
theorem roleWord_fields {k l c f t m : Nat} {v : Word} (hv : v = w64 (k * 2 ^ 62 + l * 2 ^ 61 + c * 2 ^ 60 + f * 2 ^ 56 + t * 2 ^ 32 + m * 2 ^ 31))
    (hk : k < 4) (hl : l ≤ 1) (hc : c ≤ 1) (hf : f < 16) (ht : t < 2048) (hm : m ≤ 1) :
    fld v 63 62 = k ∧ (bit v 61 = true ↔ l = 1) ∧ (bit v 60 = true ↔ c = 1) ∧ fld v 59 56 = f ∧ fld v 42 32 = t ∧
      (bit v 31 = true ↔ m = 1) := by
  have hn : v.toNat = k * 2 ^ 62 + l * 2 ^ 61 + c * 2 ^ 60 + f * 2 ^ 56 + t * 2 ^ 32 + m * 2 ^ 31 := by
    rw [hv, w64, BitVec.toNat_ofNat]
    omega
  simp only [fld, bit, hn, decide_eq_true_eq]
  omega

theorem censusTicks_pos (w : Word) : 0 < censusTicks w := by
  unfold censusTicks
  have h : 50 ≤ Nat.max 50 (fld w 15 0) := Nat.le_max_left ..
  have h' : 50 ≤ Nat.min 10000 (Nat.max 50 (fld w 15 0)) := Nat.le_min.mpr ⟨by decide, h⟩
  omega

/-- The census point after a tick is less than an interval away (R318). -/
theorem censusAfter_bounds (w : Word) (t : Nat) :
    t ≤ censusAfter w t ∧ censusAfter w t < t + censusTicks w ∧ censusAfter w t % censusTicks w = 0 := by
  have hpos := censusTicks_pos w
  have hdiv := Nat.div_add_mod (t + censusTicks w - 1) (censusTicks w)
  have hmod := Nat.mod_lt (t + censusTicks w - 1) hpos
  rw [Nat.mul_comm] at hdiv
  exact ⟨by unfold censusAfter; omega, by unfold censusAfter; omega, Nat.mul_mod_left ..⟩

theorem roleReqOk_iff (b : Word) : roleReqOk b = true ↔ fld b 63 32 = 0 ∧ fld b 15 2 = 0 ∧ (fld b 1 0 = 1 ∨ fld b 1 0 = 2) := by
  simp [roleReqOk, and_assoc]

/-! ### The issue of a request -/

section
variable {s : State} {g : Guard} {i : Instr} {l : List Opnd} {eff : State → Res} {x y : Word} {k : State → Nat → Word → Nat → Res}
  (hx : exec i s = s.run i 8 g l eff) (hgd : s.guard g = true) (hm : s.modsOk (condsOf l) = true) (he : eff s = s.roleRequest x y k)
  (ho : s.out = false)
include hx hgd hm he ho

theorem request_traps (ha : fld x 63 16 ≠ 0) : Traps i s Cause.boundCheck x 1 :=
  traps_of hx hgd hm (he.trans (roleRequest_bad ho ha))

theorem request_parks (ha : fld x 63 16 = 0) : exec i s = .next ((s.sent 4 [] [fld x 15 0, y.toNat, s.now]).parkOn i .served) :=
  exec_park hx hgd hm (he.trans (roleRequest_sent ho ha))

end

section
variable {s : State} {g : Guard} {d a b : GReg}

/-- ROLEREQ's own check is passed over where A[63:16] is not zero, and where the request is one. -/
theorem rolereq_checks (h : fld (s.g a) 63 16 ≠ 0 ∨ roleReqOk (s.g b) = true) :
    ∃ eff k, exec (.rolereq g d a b) s = s.run (.rolereq g d a b) 8 g [.dst d, .src a, .src b] eff ∧
      eff s = s.roleRequest (s.g a) (s.g b) k := by
  refine ⟨_, _, exec_rolereq, if_neg ?_⟩
  rcases h with h | h <;> simp [h]

variable (hgd : s.guard g = true) (ho : s.out = false)
include hgd ho

theorem requests_trap (hm : s.modsOk (condsOf [.dst d, .src a, .src b]) = true) (ha : fld (s.g a) 63 16 ≠ 0) (warn : Bool) :
    ∀ i ∈ ([.lease g d a b warn, .renew g d a b, .rolereq g d a b] : List Instr), Traps i s Cause.boundCheck (s.g a) 1 := by
  simp only [List.forall_mem_cons, List.not_mem_nil, false_imp_iff, implies_true, and_true]
  obtain ⟨eff, k, hx, he⟩ := rolereq_checks (g := g) (d := d) (b := b) (.inl ha)
  exact ⟨request_traps (exec_lease warn) hgd hm rfl ho ha, request_traps exec_renew hgd hm rfl ho ha, request_traps hx hgd hm he ho ha⟩

theorem requests_park (hm : s.modsOk (condsOf [.dst d, .src a, .src b]) = true) (ha : fld (s.g a) 63 16 = 0) (warn : Bool) :
    ∀ i ∈ ([.lease g d a b warn, .renew g d a b, .rolereq g d a b] : List Instr), i ≠ .rolereq g d a b ∨ roleReqOk (s.g b) = true →
      exec i s = .next ((s.sent 4 [] [fld (s.g a) 15 0, (s.g b).toNat, s.now]).parkOn i .served) := by
  simp only [List.forall_mem_cons, List.not_mem_nil, false_imp_iff, implies_true, and_true]
  refine ⟨fun _ => request_parks (exec_lease warn) hgd hm rfl ho ha, fun _ => request_parks exec_renew hgd hm rfl ho ha, fun h => ?_⟩
  obtain ⟨eff, k, hx, he⟩ := rolereq_checks (g := g) (d := d) (a := a) (.inr (h.resolve_left fun hne => hne rfl))
  exact request_parks hx hgd hm he ho ha

theorem rolereq_traps (hm : s.modsOk (condsOf [.dst d, .src a, .src b]) = true) (ha : fld (s.g a) 63 16 = 0) (hb : roleReqOk (s.g b) = false) :
    Traps (.rolereq g d a b) s Cause.boundCheck (s.g b) 2 :=
  traps_of exec_rolereq hgd hm (if_pos (by simp [ho, ha, hb]))

end

theorem noteack_runs {s : State} {g : Guard} {a : GReg} (hgd : s.guard g = true) (hm : s.modsOk (condsOf [.src a]) = true) :
    RunsWith (.noteack g a) s (s.modMyCore (fun k => { k with notices := k.notices.filter (fun e => decide (fld e.1 15 0 ≠ fld (s.g a) 15 0)) }))
      8 [.src a] {} := by
  have hx : exec (.noteack g a) s = execNoteack g a s := rfl
  have hme := s.me_modMyCore (fun k => { k with notices := k.notices.filter (fun e => decide (fld e.1 15 0 ≠ fld (s.g a) 15 0)) })
    (fun _ => rfl)
  exact runs_with_0 hx rfl hgd hm rfl (congrArg Ctx.level hme) (congrArg Ctx.dbgctl hme) (congrArg Ctx.pc hme)

/-- Settles O36: what a request sends (`requests_park`), and what its reply gives by the status of each request. -/
theorem roleRequestsAnswer : Obligations.RoleRequestsAnswer := by
  intro s g d a b warn drop hgd
  refine ⟨fun ho hm => ⟨fun ha => requests_trap hgd ho hm ha warn, fun ha hb => ?_, fun ha i hi h => ?_⟩,
    fun ho hm => ⟨fun ha => ?_, fun ha => ?_⟩,
    fun n B at' ho hops hB => ?_, fun hm => ?_⟩
  case refine_1 => exact rolereq_traps hgd ho hm ha (Bool.eq_false_iff.mpr fun h => hb ((roleReqOk_iff _).mp h))
  case refine_2 => exact requests_park hgd ho hm ha warn i hi (h.imp_right (roleReqOk_iff _).mpr)
  case refine_3 =>
    simp only [List.forall_mem_cons, List.not_mem_nil, false_imp_iff, implies_true, and_true]
    exact ⟨request_traps (exec_unlease drop) hgd hm rfl ho ha, request_traps exec_roleq hgd hm rfl ho ha⟩
  case refine_4 =>
    simp only [List.forall_mem_cons, List.not_mem_nil, false_imp_iff, implies_true, and_true]
    exact ⟨request_parks (exec_unlease drop) hgd hm rfl ho ha, request_parks exec_roleq hgd hm rfl ho ha⟩
  case refine_6 => exact noteack_runs hgd hm
  case refine_5 =>
    have h : Replied s g n B at' := ⟨hgd, ho, hops, hB⟩
    refine ⟨fun hr => ⟨fun hm => ?_, fun hm => ?_⟩, fun r hr hall => ⟨fun hm => ?_, fun hm => ?_⟩⟩
    case refine_1 =>
      exact ⟨lease_status h hm (st := 1) (by simp [State.leaseStatus, hr]) (by decide),
        renew_status h hm (st := 5) (by simp [State.renewStatus, hr]) (by decide),
        rolereq_refused h hm (st := 1) (by simp [State.roleReqRefusal, hr])⟩
    case refine_2 =>
      refine ⟨unlease_status h hm (st := 5) (by simp [State.unleaseStatus, hr]) (by decide),
        unlease_status h hm (st := 6) (by simp [State.unleaseStatus, hr]) (by decide), ?_⟩
      have hq := roleq_answers (g := g) (d := d) (a := a) h hm
      rwa [show s.roleWord n = 0 by simp [State.roleWord, State.roleWordOf, hr]] at hq
    case refine_3 =>
      have hmine := leasedMine_iff hall
      have hbad := h.badExpiry_iff
      refine ⟨fun h1 h2 => ?_, fun h1 => ?_, fun h1 h2 h3 => ?_, fun h1 h2 h3 => ⟨fun h4 => ?_, fun h4 => ?_⟩, fun h1 => ?_, fun h1 h2 => ?_,
        fun h1 h2 => ?_, fun h1 => ?_, fun h1 h2 h3 => ?_, fun h1 h2 h3 => ?_⟩
      case refine_1 => exact lease_status h hm (leaseStatus_held hr h1 h2 _) (by decide)
      case refine_2 => exact lease_status h hm ((leaseStatus_free hr (.inr h1.1) _).trans (if_pos (hmine.mpr h1))) (by decide)
      case refine_3 =>
        exact lease_status h hm ((leaseStatus_free hr h1 _).trans ((if_neg (mt hmine.mp h2)).trans (if_pos (hbad.mpr h3)))) (by decide)
      case refine_4 =>
        exact lease_status h hm ((leaseStatus_free hr h1 _).trans ((if_neg (mt hmine.mp h2)).trans
          ((if_neg (mt hbad.mp h3)).trans (if_pos h4)))) (by decide)
      case refine_5 =>
        exact lease_granted h hm ((leaseStatus_free hr h1 _).trans ((if_neg (mt hmine.mp h2)).trans
          ((if_neg (mt hbad.mp h3)).trans (if_neg (Nat.not_le.mpr h4)))))
      case refine_6 => exact renew_status h hm ((renewStatus_role hr _).trans (if_neg (mt hmine.mp h1))) (by decide)
      case refine_7 => exact renew_status h hm ((renewStatus_role hr _).trans ((if_pos (hmine.mpr h1)).trans (if_pos (hbad.mpr h2)))) (by decide)
      case refine_8 => exact renew_granted h hm ((renewStatus_role hr _).trans ((if_pos (hmine.mpr h1)).trans (if_neg (mt hbad.mp h2)))) hr
      case refine_9 => exact rolereq_refused h hm (roleReqRefusal_other hr h1 _)
      case refine_10 =>
        have hb : fld (w64 B) 1 0 = 1 := by rw [fld, h.toNat]; exact h2
        exact rolereq_refused h hm ((roleReqRefusal_move hr h1 hb).trans (if_pos h3))
      case refine_11 =>
        have hb : fld (w64 B) 1 0 = 1 := by rw [fld, h.toNat]; exact h2
        have hrec := rolereq_recorded (g := g) (d := d) (a := a) (b := b) h hm ((roleReqRefusal_move hr h1 hb).trans (if_neg (by simp [h3])))
        rw [h2] at hrec
        obtain ⟨hlo, hhi, hmod⟩ := censusAfter_bounds (s.part s.myPart).censusctl (at' + 10000)
        exact ⟨_, hlo, hhi, hmod, hrec⟩
    case refine_4 =>
      have hmine := leasedMine_iff hall
      have hruns := Role.runs_eq hall
      refine ⟨fun h1 => ?_, fun h1 => ?_, fun h1 => ?_, fun h1 h2 => ?_, fun h1 h2 => ?_, fun h1 c hc hev => ?_, s.roleWord n, roleq_answers h hm,
        fun hf ht => ?_⟩
      case refine_1 => exact unlease_status h hm ((unleaseStatus_lease hr).trans (if_neg (mt hmine.mp h1))) (by decide)
      case refine_2 => exact unlease_granted h hm ((unleaseStatus_lease hr).trans (if_pos (hmine.mpr h1))) hr
      case refine_3 => exact unlease_status h hm ((unleaseStatus_role hr).trans (if_pos h1)) (by decide)
      case refine_4 =>
        exact unlease_status h hm ((unleaseStatus_role hr).trans ((if_neg (not_not.mpr h1)).trans (if_pos h2))) (by decide)
      case refine_5 =>
        exact unlease_granted h hm ((unleaseStatus_role hr).trans ((if_neg (not_not.mpr h1)).trans (if_neg (not_not.mpr h2)))) hr
      case refine_6 =>
        have hnum : r.num = n := by simpa using List.find?_some hr
        have hevs := ctx_withdraw_seated (s := s) (hruns.trans h1.2) hc
        rw [hnum] at hevs
        intro e he
        have he' : e ∈ ((s.withdraw r 0).ctx c r.leaser.ctx).events := he
        rw [hevs] at he'
        exact withdrawn_warns hev e he'
      case refine_7 =>
        obtain ⟨k1, k2, k3, k4, k5, k6⟩ := roleWord_fields (roleWord_role hr) (by split <;> decide) (b2n_le _) (b2n_le _) hf ht (b2n_le _)
        rw [b2n_eq_one] at k2 k3 k6
        exact ⟨k1, k2.trans hmine, Bool.eq_iff_iff.mpr k3, k4, k5, k6.trans beq_iff_eq⟩

end Sys2Proof.Machine
end

section
/-!
PROOFS. A table word is read back as the instruction that encodes to it (R34 to R42), and the words that spec/ prints (O56).
-/

namespace Sys2Proof

theorem leBytes_add (m n v : Nat) : leBytes (m + n) v = leBytes m v ++ leBytes n (v / 256 ^ m) := by
  induction m generalizing v with
  | zero => simp [leBytes]
  | succ m ih =>
    rw [Nat.succ_add, leBytes, leBytes, ih, Nat.div_div_eq_div_mul, ← Nat.pow_succ', List.cons_append]

/-- The bytes do not depend on what stands above them. -/
theorem leBytes_mod (n v : Nat) : leBytes n (v % 256 ^ n) = leBytes n v := by
  induction n generalizing v with
  | zero => rfl
  | succ n ih =>
    have hlow : BitVec.ofNat 8 (v % 256 ^ (n + 1)) = BitVec.ofNat 8 v :=
      BitVec.eq_of_toNat_eq (by simp [Nat.pow_succ'])
    have hhigh : v % 256 ^ (n + 1) / 256 = v / 256 % 256 ^ n := by rw [Nat.pow_succ', Nat.mod_mul_right_div_self]
    rw [leBytes, leBytes, hlow, hhigh, ih]

/-- The 16 bytes of a table word: those of its `n` bytes, then zeros. -/
theorem leBytes_table {n : Nat} (hn : n ≤ 16) (w : Nat) : ∃ rest, leBytes 16 (w % 2 ^ (8 * n)) = leBytes n w ++ rest := by
  refine ⟨leBytes (16 - n) (w % 256 ^ n / 256 ^ n), ?_⟩
  rw [Nat.pow_mul, ← leBytes_mod n w, ← leBytes_add, Nat.add_sub_cancel' hn]

/-- A word that a well-formed instruction encodes to is read as that instruction. -/
theorem decodeTableWord_of_encodeWord {i : Instr} {n w : Nat} (hwf : i.wf = true) (hev : i.isEvent = false) (hsize : i.size = some n)
    (hword : encodeWord i = some w) : decodeTableWord (8 * n) w = some i := by
  have henc : encode i = some (leBytes n w) := by simp only [encode, hword, hsize]
  have hn : n ≤ 16 := by
    obtain ⟨_, m, -, hm, -, hlens, -⟩ := decodeEncodeAgree i [] hwf hev
    obtain rfl : n = m := Option.some.inj (hsize.symm.trans hm)
    omega
  obtain ⟨rest, hrest⟩ := leBytes_table hn w
  obtain ⟨bs, m, hbs, -, -, -, hdec⟩ := decodeEncodeAgree i rest hwf hev
  obtain rfl : leBytes n w = bs := Option.some.inj (henc.symm.trans hbs)
  simp only [decodeTableWord, hrest, hdec]

/-- Settles O56: each printed word is what the encoder gives for its instruction (`decodeTableWord_of_encodeWord`). -/
theorem wordsDecode : Obligations.WordsDecode := by
  refine ⟨?padWord, ?mul, ?sext, ?loop, ?mwait, ?mcommit, ?tend, ?smxinit, ?mma⟩
  case padWord => exact decodeTableWord_of_encodeWord (n := 4) rfl rfl rfl rfl
  case mul | sext | loop | mwait | mcommit | tend | smxinit => exact decodeTableWord_of_encodeWord (n := 8) rfl rfl rfl rfl
  case mma => exact decodeTableWord_of_encodeWord (n := 16) rfl rfl rfl rfl

end Sys2Proof
end

section
/-!
SUPPORT. What the functions of Alu.lean are: operations on words, or their bits (R64, R66, R67, R71).
-/

namespace Sys2Proof.Machine

/-! ### Shifts, rotation and remainder as operations on words (R66) -/

theorem remU_eq (x y : Word) : remU x y = BitVec.ofNat 64 (x.toNat % y.toNat) := by rw [remU, w64, Nat.mod_eq_sub]

theorem shlW_eq (x : Word) (n : Nat) : shlW x n = x <<< n :=
  BitVec.eq_of_toNat_eq (by rw [shlW, w64, BitVec.toNat_ofNat, BitVec.toNat_shiftLeft, Nat.shiftLeft_eq])

theorem shrW_eq (x : Word) (n : Nat) : shrW x n = x >>> n := by
  rw [shrW, w64, ← Nat.shiftRight_eq_div_pow, ← BitVec.toNat_ushiftRight, BitVec.ofNat_toNat, BitVec.setWidth_eq]

theorem sarW_eq (x : Word) (n : Nat) : sarW x n = x.sshiftRight n := by
  rw [sarW, ← BitVec.ofInt_toInt (x := x.sshiftRight n), BitVec.toInt_sshiftRight, Int.shiftRight_eq_div_pow, Int.natCast_pow]
  rfl

theorem rotW_eq (x : Word) {n : Nat} (hn : n < 64) : rotW x n = x.rotateLeft n := by
  have hlow : x.toNat / 2 ^ (64 - n) < 2 ^ n := by
    rw [Nat.div_lt_iff_lt_mul (Nat.two_pow_pos _), ← Nat.pow_add, Nat.add_sub_cancel' hn.le]
    exact x.isLt
  refine BitVec.eq_of_getLsbD_eq fun j hj => ?_
  rw [rotW, w64, BitVec.getLsbD_ofNat, Nat.mul_comm, Nat.testBit_two_pow_mul_add _ hlow, BitVec.getLsbD_rotateLeft_of_le hn,
    decide_eq_true hj, Bool.true_and, Bool.cond_decide, Nat.testBit_div_two_pow, Nat.add_comm]
  rfl

/-! ### Extension of a field (R66, R71) -/

theorem sextW_eq (n v : Nat) : sextW n v = (BitVec.ofNat n v).signExtend 64 := by
  rw [sextW, BitVec.signExtend, BitVec.toInt, BitVec.toNat_ofNat]; rfl

theorem zextW_eq (n v : Nat) : zextW n v = (BitVec.ofNat n v).setWidth 64 := by
  rw [← BitVec.ofNat_toNat, BitVec.toNat_ofNat]; rfl

theorem sextW_toNat (n : Nat) (x : Word) : sextW n x.toNat = (x.setWidth n).signExtend 64 := by rw [sextW_eq, BitVec.ofNat_toNat]

theorem zextW_toNat (n : Nat) (x : Word) : zextW n x.toNat = (x.setWidth n).setWidth 64 := by rw [zextW_eq, BitVec.ofNat_toNat]

theorem testBit_bitField (x : Word) (pos len j : Nat) : (bitField x pos len).testBit j = (decide (j < len) && x.getLsbD (pos + j)) := by
  rw [bitField, Nat.testBit_mod_two_pow, Nat.testBit_div_two_pow, Nat.add_comm]; rfl

theorem getLsbD_zextField (x : Word) (pos len j : Nat) (hj : j < 64) :
    (w64 (bitField x pos len)).getLsbD j = (decide (j < len) && x.getLsbD (pos + j)) := by
  rw [w64, BitVec.getLsbD_ofNat, testBit_bitField, decide_eq_true hj, Bool.true_and]

/-- BFX repeats the highest bit of the field above it. -/
theorem getLsbD_sextField (x : Word) (pos len j : Nat) (hj : j < 64) :
    (sextW (len + 1) (bitField x pos (len + 1))).getLsbD j = x.getLsbD (pos + min j len) := by
  rw [sextW_eq, BitVec.getLsbD_signExtend, decide_eq_true hj, Bool.true_and, BitVec.msb_eq_getLsbD_last]
  simp only [BitVec.getLsbD_ofNat, testBit_bitField, Nat.add_sub_cancel, Nat.lt_succ_self, decide_true, Bool.true_and]
  split
  · next h => rw [Nat.min_eq_left (by omega), decide_eq_true h]; rfl
  · next h => rw [Nat.min_eq_right (by omega)]

/-- The word of BFI: D with the low bits of A in place of the field. -/
def insertField (D A : Word) (pos len : Nat) : Word :=
  w64 (D.toNat - bitField D pos len * 2 ^ pos + A.toNat % 2 ^ len * 2 ^ pos)

/-- The field of a number between what stands above it and below it. -/
theorem split_field (v pos len : Nat) :
    v = 2 ^ pos * (2 ^ len * (v / 2 ^ pos / 2 ^ len) + v / 2 ^ pos % 2 ^ len) + v % 2 ^ pos := by
  rw [Nat.div_add_mod, Nat.div_add_mod]

theorem replace_field (v f pos len : Nat) : v - v / 2 ^ pos % 2 ^ len * 2 ^ pos + f * 2 ^ pos =
    2 ^ pos * (2 ^ len * (v / 2 ^ pos / 2 ^ len) + f) + v % 2 ^ pos := by
  have hv := split_field v pos len
  generalize v / 2 ^ pos / 2 ^ len = h, v / 2 ^ pos % 2 ^ len = m, v % 2 ^ pos = l at *
  rw [hv, Nat.mul_add, Nat.mul_add, Nat.mul_comm m, Nat.mul_comm f]
  omega

theorem getLsbD_insertField (D A : Word) (pos len j : Nat) (hj : j < 64) :
    (insertField D A pos len).getLsbD j = if pos ≤ j ∧ j < pos + len then A.getLsbD (j - pos) else D.getLsbD j := by
  rw [insertField, bitField, replace_field, w64, BitVec.getLsbD_ofNat, decide_eq_true hj, Bool.true_and,
    Nat.testBit_two_pow_mul_add _ (Nat.mod_lt _ (Nat.two_pow_pos _)), Nat.testBit_two_pow_mul_add _ (Nat.mod_lt _ (Nat.two_pow_pos _))]
  by_cases hlow : j < pos
  · rw [if_pos hlow, if_neg (by omega), Nat.testBit_mod_two_pow, decide_eq_true hlow, Bool.true_and]; rfl
  rw [if_neg hlow]
  by_cases hin : j - pos < len
  · rw [if_pos hin, if_pos (by omega), Nat.testBit_mod_two_pow, decide_eq_true hin, Bool.true_and]; rfl
  · rw [if_neg hin, if_neg (by omega), Nat.testBit_div_two_pow, Nat.testBit_div_two_pow, BitVec.getLsbD]
    congr 1
    omega

theorem insertUpper_eq (D : Word) {i : BitVec 55} (hi : i.toNat < 2 ^ 32) :
    w64 (D.toNat % 2 ^ 32 + i.toNat * 2 ^ 32) = i.setWidth 32 ++ D.setWidth 32 := by
  refine BitVec.eq_of_toNat_eq ?_
  rw [BitVec.toNat_append, BitVec.toNat_setWidth, BitVec.toNat_setWidth, Nat.mod_eq_of_lt hi,
    ← Nat.shiftLeft_add_eq_or_of_lt (Nat.mod_lt _ (Nat.two_pow_pos _)), Nat.shiftLeft_eq, w64, BitVec.toNat_ofNat, Nat.add_comm,
    Nat.mod_eq_of_lt (by omega)]

/-! ### Counts of bits (R66) -/

theorem nbit_eq_testBit (v k : Nat) : nbit v k = v.testBit k := by rw [nbit, Nat.testBit_eq_decide_div_mod_eq]

theorem clzW_toNat {x : Word} (hx : x ≠ 0) : (clzW x).toNat = 63 - x.toNat.log2 := by
  rw [clzW, if_neg hx, w64, BitVec.toNat_ofNat, Nat.mod_eq_of_lt (by omega)]

theorem log2_lt_64 (x : Word) : x.toNat.log2 < 64 := by
  by_cases hx : x.toNat = 0
  · rw [hx]; decide
  · exact (Nat.log2_lt hx).mpr x.isLt

theorem getLsbD_clzW {x : Word} (hx : x ≠ 0) : x.getLsbD (63 - (clzW x).toNat) = true := by
  have h64 := log2_lt_64 x
  have hlog : 63 - (clzW x).toNat = x.toNat.log2 := by rw [clzW_toNat hx]; omega
  rw [hlog]
  exact Nat.testBit_log2 fun h => hx (BitVec.eq_of_toNat_eq h)

theorem getLsbD_above_clzW {x : Word} {k : Nat} (hk : 63 - (clzW x).toNat < k) : x.getLsbD k = false := by
  by_cases hx : x = 0
  · rw [hx]; exact BitVec.getLsbD_zero
  · have h64 := log2_lt_64 x
    rw [clzW_toNat hx] at hk
    exact Nat.testBit_lt_two_pow (Nat.lt_of_lt_of_le Nat.lt_log2_self (Nat.pow_le_pow_right (by decide) (by omega)))

/-- The place found, or n places on where there is none: a set bit below that end, and none before it. -/
theorem lowestBit_spec (v k n : Nat) : let z := (lowestBit v k n).getD (k + n)
    z ≤ k + n ∧ (z < k + n → v.testBit z = true) ∧ ∀ j, k ≤ j → j < z → v.testBit j = false := by
  induction n generalizing k with
  | zero => exact ⟨le_rfl, fun h => absurd h (lt_irrefl _), fun j h h' => absurd (h.trans_lt h') (lt_irrefl _)⟩
  | succ n ih =>
    rw [lowestBit, nbit_eq_testBit]
    by_cases hk : v.testBit k = true
    · rw [if_pos hk]
      exact ⟨Nat.le_add_right .., fun _ => hk, fun j h h' => absurd (h.trans_lt h') (lt_irrefl _)⟩
    · rw [if_neg hk, show k + (n + 1) = k + 1 + n by omega]
      obtain ⟨hle, hset, hclear⟩ := ih (k + 1)
      refine ⟨hle, hset, fun j h h' => ?_⟩
      obtain rfl | h := h.eq_or_lt
      · exact Bool.eq_false_iff.mpr hk
      · exact hclear j h h'

theorem ctzW_spec (x : Word) : (ctzW x).toNat ≤ 64 ∧ ((ctzW x).toNat < 64 → x.getLsbD (ctzW x).toNat = true) ∧
    ∀ j, j < (ctzW x).toNat → x.getLsbD j = false := by
  obtain ⟨hle, hset, hclear⟩ := lowestBit_spec x.toNat 0 64
  have hz : (ctzW x).toNat = (lowestBit x.toNat 0 64).getD (0 + 64) := Nat.mod_eq_of_lt (Nat.lt_of_le_of_lt hle (by decide))
  rw [hz]
  exact ⟨hle, hset, fun j => hclear j j.zero_le⟩

theorem ctzW_lt {x : Word} (hx : x ≠ 0) : (ctzW x).toNat < 64 := by
  obtain ⟨-, -, hclear⟩ := ctzW_spec x
  by_contra h
  exact hx (BitVec.eq_of_getLsbD_eq fun j hj => (hclear j (by omega)).trans BitVec.getLsbD_zero.symm)

theorem popcount_eq (v n : Nat) : popcount v n = ((List.range n).filter (fun k => v.testBit k)).length := by
  induction n with
  | zero => rfl
  | succ n ih =>
    rw [popcount, ih, nbit_eq_testBit, List.range_succ, List.filter_append, List.length_append, Nat.add_comm]
    cases h : v.testBit n <;> simp [h, b2n]

theorem popcW_toNat (x : Word) : (popcW x).toNat = ((List.range 64).filter (fun k => x.getLsbD k)).length := by
  have hle : popcount x.toNat 64 ≤ 64 := by
    rw [popcount_eq]
    exact (List.length_filter_le ..).trans_eq List.length_range
  rw [popcW, w64, BitVec.toNat_ofNat, Nat.mod_eq_of_lt (by omega), popcount_eq]
  rfl

/-- The n low bits of a number, read from the lowest up, as a number that begins with the highest. -/
theorem testBit_reversed (v n k : Nat) : ((List.range n).foldl (fun acc i => 2 * acc + v / 2 ^ i % 2) 0).testBit k =
    (decide (k < n) && v.testBit (n - 1 - k)) := by
  induction n generalizing k with
  | zero => simp
  | succ n ih =>
    rw [List.range_succ, List.foldl_append, List.foldl_cons, List.foldl_nil]
    have hlow : v / 2 ^ n % 2 < 2 ^ 1 := Nat.mod_lt _ (by decide)
    rw [← Nat.pow_one 2, Nat.testBit_two_pow_mul_add _ hlow]
    cases k with
    | zero => simp [Nat.testBit_eq_decide_div_mod_eq]
    | succ k => simp [ih, Nat.sub_sub, Nat.add_comm]

theorem getLsbD_brevW (x : Word) {k : Nat} (hk : k < 64) : (brevW x).getLsbD k = x.getLsbD (63 - k) := by
  rw [brevW, w64, BitVec.getLsbD_ofNat, testBit_reversed, decide_eq_true hk, Bool.true_and, Bool.true_and]
  rfl

/-! ### Shift amounts (R64, R66) -/

theorem amount_eq_shiftBy (s : State) {b : RegImm} (hb : shiftOk b = true) : s.amount b = s.shiftBy b := by
  cases b with
  | reg r => rfl
  | imm v =>
    have hv : v.toNat < 64 := of_decide_eq_true hb
    have hmsb : v.msb = false := by rw [BitVec.msb_eq_decide]; exact decide_eq_false (by omega)
    rw [State.amount, State.b, State.shiftBy, BitVec.signExtend_eq_setWidth_of_msb_false hmsb, BitVec.toNat_setWidth]
    omega

theorem amount_lt (s : State) (b : RegImm) : s.amount b < 64 := Nat.mod_lt _ (by decide)

end Sys2Proof.Machine
end

section
/-!
PROOFS. The instructions of rows 0 to 2 through `run`, and the statements O1 to O4.
-/

namespace Sys2Proof.Machine

/-! ### The shared forms of rows 0 to 2: `hx` holds by `rfl`, `hv` says what the function of the form gives (R65, R66, R70, R72, R80) -/

section
variable {s : State} {i j : Instr} {g : Guard} {d a : GReg} {p x y : PReg} {b : RegImm} {v : Word} {t : Bool} {r : Int}

theorem binary_runs (f : Word → Word → Word) (hgd : s.guard g = true) (hm : s.modsOk (condsOf (.dst d :: .src a :: opndsB b)) = true)
    (hx : exec i s = s.binary j g d a b f) (hv : f (s.g a) (s.b b) = v) : Runs i s 8 (.dst d :: .src a :: opndsB b) { g := [(d, v)] } :=
  runs_g hx (by simp) hgd hm (by rw [hv])

theorem shift_runs (f : Word → Nat → Word) (hgd : s.guard g = true) (hm : s.modsOk (condsOf (.dst d :: .src a :: opndsB b)) = true)
    (hb : shiftOk b = true) (hx : exec i s = s.shift j g d a b f) (hv : f (s.g a) (s.shiftBy b) = v) :
    Runs i s 8 (.dst d :: .src a :: opndsB b) { g := [(d, v)] } :=
  runs_g hx (by simp) hgd hm (by rw [amount_eq_shiftBy s hb, hv])

theorem divide_runs (f : Word → Word → Word) (hgd : s.guard g = true) (hm : s.modsOk (condsOf (.dst d :: .src a :: opndsB b)) = true)
    (hb : s.b b ≠ 0) (hx : exec i s = s.divide j g d a b f) (hv : f (s.g a) (s.b b) = v) :
    Runs i s 8 (.dst d :: .src a :: opndsB b) { g := [(d, v)] } :=
  runs_g hx (by simp) hgd hm (by rw [if_neg hb, hv])

theorem divide_traps (f : Word → Word → Word) (hgd : s.guard g = true) (hm : s.modsOk (condsOf (.dst d :: .src a :: opndsB b)) = true)
    (hb : s.b b = 0) (hx : exec i s = s.divide j g d a b f) : Traps i s Cause.intDivzero (s.g a) 0 :=
  traps_of hx hgd hm (if_pos hb)

theorem unary_runs (f : Word → Word) (hgd : s.guard g = true) (hm : s.modsOk (condsOf [.dst d, .src a]) = true)
    (hx : exec i s = s.unary j g d a f) (hv : f (s.g a) = v) : Runs i s 8 [.dst d, .src a] { g := [(d, v)] } :=
  runs_g hx rfl hgd hm (by rw [hv])

theorem compare_runs (f : Word → Word → Bool) (hgd : s.guard g = true) (hm : s.modsOk (condsOf (.src a :: opndsB b)) = true)
    (hx : exec i s = s.compare j g p a b f) (ht : f (s.g a) (s.b b) = t) : Runs i s 8 (.src a :: opndsB b) { p := some (p, t) } :=
  runs_0 hx (by simp) hgd hm (by rw [ht]) ((Applied.refl s).putP rfl p t) rfl rfl

theorem predOp_runs (f : Bool → Bool → Bool) (hgd : s.guard g = true) (hx : exec i s = s.predOp j g p x y f)
    (ht : f (s.p x) (s.p y) = t) : Runs i s 8 [] { p := some (p, t) } :=
  runs_0 hx rfl hgd rfl (by rw [ht]) ((Applied.refl s).putP rfl p t) rfl rfl

/-- The exact result where it fits, INT_OVERFLOW where it does not (R72). -/
theorem checked_ends (f : Int → Int → Int) (hgd : s.guard g = true) (hm : s.modsOk (condsOf (.dst d :: .src a :: opndsB b)) = true)
    (hx : exec i s = s.checked j g d a b f) (hr : f (s.g a).toInt (s.b b).toInt = r) :
    (-2 ^ 63 ≤ r → r < 2 ^ 63 → Runs i s 8 (.dst d :: .src a :: opndsB b) { g := [(d, BitVec.ofInt 64 r)] }) ∧
    (r < -2 ^ 63 ∨ 2 ^ 63 ≤ r → Traps i s Cause.intOverflow (BitVec.ofInt 64 r) 0) := by
  subst hr
  refine ⟨fun h1 h2 => runs_g hx (by simp) hgd hm (if_pos ⟨h1, h2⟩), fun h => traps_of hx hgd hm (if_neg ?_)⟩
  rintro ⟨h1, h2⟩
  omega

end

/-! ### Instructions with an effect of their own -/

section
variable (s : State) (g : Guard) (d a b c : GReg)

theorem exec_li (i : BitVec 55) : exec (.li g d i) s = execLi g d i s := rfl
theorem exec_lih (i : BitVec 55) : exec (.lih g d i) s = execLih g d i s := rfl
theorem exec_lea (m : MemOp) : exec (.lea g d m) s = execLea g d m s := rfl
theorem exec_sel (k : BitVec 3) : exec (.sel g d a b k) s = execSel g d a b k s := rfl
theorem exec_bfi (pos len : BitVec 6) : exec (.bfi g d a pos len) s = execBfi g d a pos len s := rfl
theorem exec_chk (b : RegImm) : exec (.chk g a b) s = execChk g a b s := rfl
theorem exec_madd (k : RegImm47) : exec (.madd g d a k c) s = execMadd g d a k c s := rfl
theorem exec_br (i : BitVec 23) : exec (.br g i) s = execBr g i s := rfl
theorem exec_jmp (i : BitVec 55) : exec (.jmp g i) s = execJmp g i s := rfl
theorem exec_call (i : BitVec 23) : exec (.call g d i) s = execCall g d i s := rfl
theorem exec_callr : exec (.callr g d a) s = execCallr g d a s := rfl
theorem exec_loop (i : BitVec 23) : exec (.loop g d i) s = execLoop g d i s := rfl
theorem exec_bsig (f : FReg) (n : BitVec 6) (i : BitVec 17) : exec (.bsig g f n i) s = execBsig g f n i s := rfl
theorem exec_nop : exec (.nop g) s = execNop g s := rfl

end

/-! ### Branches (R46, R76) -/

theorem pcAligned_iff (pc : Word) : pcAligned pc = true ↔ pc.toNat % 4 = 0 := by
  rw [pcAligned, beq_iff_eq, fld, Nat.pow_zero, Nat.div_one]; rfl

section
variable {s : State} {i j : Instr} {g : Guard} {a : GReg}

theorem jumpReg_jumps (hgd : s.guard g = true) (hm : s.modsOk (condsOf [.src a]) = true) (ha : (s.g a).toNat % 4 = 0)
    (hx : exec i s = s.jumpReg j g a) : Jumps i s (s.g a) [.src a] {} :=
  jumps_0 hx rfl hgd hm (if_pos ((pcAligned_iff _).mpr ha)) (Applied.refl s) rfl rfl

theorem jumpReg_traps (hgd : s.guard g = true) (hm : s.modsOk (condsOf [.src a]) = true) (ha : (s.g a).toNat % 4 ≠ 0)
    (hx : exec i s = s.jumpReg j g a) : Traps i s Cause.pcMisaligned (s.g a) 0 :=
  traps_of hx hgd hm (if_neg (mt (pcAligned_iff _).mp ha))

end

/-! ### O1: row 0 -/

/-- Settles O1: each instruction by the form it runs through, with the function of R66 as an operation on words, or by its bits. -/
theorem integerRowComputes : Obligations.IntegerRowComputes := by
  refine ⟨fun s g d a b hgd hm => ⟨?binary, fun hb => ?shift, fun hb => ?divide, fun hb => ?divzero⟩,
    fun s g d a hgd hm => ⟨?unary, clzW (s.g a), ctzW (s.g a), popcW (s.g a), brevW (s.g a), ?clz, ?ctz, ?popc, ?brev, ?zero, ?nonzero,
      ?leading, ?trailing, popcW_toNat _, fun k => getLsbD_brevW _⟩⟩
  case binary =>
    have runs {i j f v} := binary_runs (i := i) (j := j) (v := v) f hgd hm
    simp only [List.forall_mem_cons]
    exact ⟨runs (f := fun x y => x + y) rfl rfl, runs (f := fun x y => x - y) rfl rfl, runs (f := fun x y => x * y) rfl rfl,
      runs (f := mulhS) rfl rfl, runs (f := mulhU) rfl rfl, runs (f := fun x y => x &&& y) rfl rfl, runs (f := fun x y => x ||| y) rfl rfl,
      runs (f := fun x y => x ^^^ y) rfl rfl, runs (f := fun x y => x &&& ~~~y) rfl rfl, runs (f := fun x y => x ||| ~~~y) rfl rfl,
      runs (f := fun x y => if x.toInt ≤ y.toInt then x else y) rfl rfl, runs (f := fun x y => if x.toInt ≤ y.toInt then y else x) rfl rfl,
      runs (f := fun x y => if x.toNat ≤ y.toNat then x else y) rfl rfl, runs (f := fun x y => if x.toNat ≤ y.toNat then y else x) rfl rfl,
      List.forall_mem_nil _⟩
  case shift =>
    have hn : s.shiftBy b < 64 := amount_eq_shiftBy s hb ▸ amount_lt s b
    simp only [List.forall_mem_cons]
    exact ⟨shift_runs shlW hgd hm hb rfl (shlW_eq _ _), shift_runs shrW hgd hm hb rfl (shrW_eq _ _),
      shift_runs sarW hgd hm hb rfl (sarW_eq _ _), shift_runs rotW hgd hm hb rfl (rotW_eq _ hn), List.forall_mem_nil _⟩
  case divide =>
    simp only [List.forall_mem_cons]
    exact ⟨divide_runs divS hgd hm hb rfl rfl, divide_runs divU hgd hm hb rfl rfl, divide_runs remS hgd hm hb rfl rfl,
      divide_runs remU hgd hm hb rfl (remU_eq _ _), List.forall_mem_nil _⟩
  case divzero =>
    simp only [List.forall_mem_cons]
    exact ⟨divide_traps divS hgd hm hb rfl, divide_traps divU hgd hm hb rfl, divide_traps remS hgd hm hb rfl,
      divide_traps remU hgd hm hb rfl, List.forall_mem_nil _⟩
  case unary =>
    have runs {i j f v} := unary_runs (i := i) (j := j) (v := v) f hgd hm
    simp only [List.forall_mem_cons]
    exact ⟨runs (f := fun x => w64 x.toInt.natAbs) rfl rfl, runs (f := fun x => -x) rfl rfl, runs (f := bswapW) rfl rfl,
      runs (f := fun x => sextW 8 x.toNat) rfl (sextW_toNat _ _), runs (f := fun x => sextW 16 x.toNat) rfl (sextW_toNat _ _),
      runs (f := fun x => sextW 32 x.toNat) rfl (sextW_toNat _ _), runs (f := fun x => zextW 8 x.toNat) rfl (zextW_toNat _ _),
      runs (f := fun x => zextW 16 x.toNat) rfl (zextW_toNat _ _), runs (f := fun x => zextW 32 x.toNat) rfl (zextW_toNat _ _),
      runs (f := fun x => x) rfl rfl, List.forall_mem_nil _⟩
  case clz => exact unary_runs clzW hgd hm rfl rfl
  case ctz => exact unary_runs ctzW hgd hm rfl rfl
  case popc => exact unary_runs popcW hgd hm rfl rfl
  case brev => exact unary_runs brevW hgd hm rfl rfl
  case zero =>
    intro hA
    rw [hA]
    decide
  case nonzero =>
    intro hA
    have hz := ctzW_lt hA
    obtain ⟨-, hset, -⟩ := ctzW_spec (s.g a)
    exact ⟨by rw [clzW_toNat hA]; omega, hz, getLsbD_clzW hA, hset hz⟩
  case leading => exact fun k _ hk _ => getLsbD_above_clzW hk
  case trailing =>
    obtain ⟨-, -, hclear⟩ := ctzW_spec (s.g a)
    exact hclear

/-! ### O2: constants, addresses, moves, bit fields -/

/-- Settles O2: constants, LEA, SEL and MADD by what they write; the fields of BFX, BFXN and BFI bit by bit. -/
theorem constantsAndFieldsCompute : Obligations.ConstantsAndFieldsCompute := by
  intro s g d a b c m k i55 pk pos len hgd
  refine ⟨fun hm => ⟨?li, fun hi => ?lih⟩, fun hm => ?lea, fun hm => ?sel, fun hm hfit => ?fields, fun hm => ?madd⟩
  case li => exact runs_g (exec_li s g d i55) rfl hgd hm rfl
  case lih => exact runs_g (exec_lih s g d i55) rfl hgd hm (by rw [insertUpper_eq _ hi])
  case lea => exact runs_g (exec_lea s g d m) (by simp) hgd hm rfl
  case sel => exact runs_g (exec_sel s g d a b pk) rfl hgd hm rfl
  case madd => exact runs_g (exec_madd s g d a c k) (by simp) hgd hm rfl
  case fields =>
    refine ⟨sextW (len.toNat + 1) (bitField (s.g a) pos.toNat (len.toNat + 1)), w64 (bitField (s.g a) pos.toNat (len.toNat + 1)),
      insertField (s.g d) (s.g a) pos.toNat (len.toNat + 1), ?bfx, ?bfxn, ?bfi, fun j hj => ?inside, fun j hj h64 => ?above,
      fun j h64 => ?insert⟩
    case bfx => exact unary_runs (fun x => sextW (len.toNat + 1) (bitField x pos.toNat (len.toNat + 1))) hgd hm rfl rfl
    case bfxn => exact unary_runs (fun x => w64 (bitField x pos.toNat (len.toNat + 1))) hgd hm rfl rfl
    case bfi => exact runs_g (exec_bfi s g d a pos len) rfl hgd hm rfl
    case inside =>
      have h64 : j < 64 := by omega
      rw [getLsbD_sextField _ _ _ _ h64, getLsbD_zextField _ _ _ _ h64, Nat.min_eq_left hj, decide_eq_true (Nat.lt_succ_of_le hj)]
      exact ⟨rfl, Bool.true_and _⟩
    case above =>
      rw [getLsbD_sextField _ _ _ _ h64, getLsbD_zextField _ _ _ _ h64, Nat.min_eq_right hj.le, decide_eq_false (by omega)]
      exact ⟨rfl, Bool.false_and _⟩
    case insert =>
      rw [getLsbD_insertField _ _ _ _ _ h64, ← Nat.add_assoc]
      simp only [Nat.lt_succ_iff]

/-! ### O3: compares, predicates, checks -/

/-- Settles O3: each compare, predicate operation and checked operation by the form it runs through; CHK by its bound. -/
theorem comparesAndChecks : Obligations.ComparesAndChecks := by
  refine ⟨fun s g d x y a b hgd => ⟨fun hm => ?compare, ?predicate⟩, fun s g d a b hgd => ⟨fun hm => ?checked, fun hm => ⟨?outside, ?inside⟩⟩⟩
  case compare =>
    have runs {i j f t} := compare_runs (i := i) (j := j) (p := d) (t := t) f hgd hm
    simp only [List.forall_mem_cons]
    exact ⟨runs (f := fun x y => x == y) rfl (beq_eq_decide _ _), runs (f := fun x y => x != y) rfl decide_not.symm,
      runs (f := fun x y => decide (x.toInt < y.toInt)) rfl rfl, runs (f := fun x y => decide (x.toInt ≤ y.toInt)) rfl rfl,
      runs (f := fun x y => decide (x.toNat < y.toNat)) rfl rfl, runs (f := fun x y => decide (x.toNat ≤ y.toNat)) rfl rfl,
      runs (f := fun x y => bit x (y.toNat % 64)) rfl (bit_eq_getLsbD _ _), List.forall_mem_nil _⟩
  case predicate =>
    simp only [List.forall_mem_cons]
    exact ⟨predOp_runs (fun x y => x && y) hgd rfl rfl, predOp_runs (fun x y => x || y) hgd rfl rfl,
      predOp_runs (fun x y => x != y) hgd rfl rfl, predOp_runs (y := x) (fun x _ => !x) hgd rfl rfl,
      predOp_runs (y := x) (fun x _ => x) hgd rfl rfl, List.forall_mem_nil _⟩
  case checked =>
    simp only [List.forall_mem_cons]
    exact ⟨checked_ends (fun x y => x + y) hgd hm rfl rfl, checked_ends (fun x y => x - y) hgd hm rfl rfl,
      checked_ends (fun x y => x * y) hgd hm rfl rfl, List.forall_mem_nil _⟩
  case outside => exact fun hle => traps_of (exec_chk s g a b) hgd hm (if_pos hle)
  case inside => exact fun hlt => runs_0 (exec_chk s g a b) (by simp) hgd hm (if_neg (Nat.not_le.mpr hlt)) (Applied.refl s) rfl rfl

/-! ### O4: branches -/

/-- Settles O4: each branch by what decides it: the alignment of its target, the count of LOOP, the significance count of BSIG. -/
theorem branchesJump : Obligations.BranchesJump := by
  intro s g d a f i23 i55 n i17 hgd
  refine ⟨?br, ?jmp, ?nop, fun hm => ⟨fun ha => ?aligned, fun ha => ?misaligned⟩, fun hm => ⟨?call, fun hd => ?again, fun hd => ?last⟩,
    fun hm => ⟨fun ha => ?callr, fun ha => ?callrMisaligned⟩, fun hm => ⟨fun hlt => ?below, fun hle => ?enough⟩⟩
  case br => exact jumps_0 (exec_br s g i23) rfl hgd rfl rfl (Applied.refl s) rfl rfl
  case jmp => exact jumps_0 (exec_jmp s g i55) rfl hgd rfl rfl (Applied.refl s) rfl rfl
  case nop => exact runs_0 (exec_nop s g) rfl hgd rfl rfl (Applied.refl s) rfl rfl
  case aligned => exact ⟨jumpReg_jumps hgd hm ha rfl, jumpReg_jumps hgd hm ha rfl⟩
  case misaligned => exact ⟨jumpReg_traps hgd hm ha rfl, jumpReg_traps hgd hm ha rfl⟩
  case call => exact jumps_g (exec_call s g d i23) rfl hgd hm rfl
  case again => exact jumps_g (exec_loop s g d i23) rfl hgd hm (if_pos (sub_ne_zero.mpr hd))
  case last =>
    have hcnt : s.g d - 1 = 0 := sub_eq_zero.mpr hd
    exact runs_g (exec_loop s g d i23) rfl hgd hm (by rw [hcnt]; rfl)
  case callr => exact jumps_g (exec_callr s g d a) rfl hgd hm (if_pos ((pcAligned_iff _).mpr ha))
  case callrMisaligned => exact traps_of (exec_callr s g d a) hgd hm (if_neg (mt (pcAligned_iff _).mp ha))
  case below => exact jumps_0 (exec_bsig s g f n i17) rfl hgd hm (if_pos hlt) (Applied.refl s) rfl rfl
  case enough => exact runs_0 (exec_bsig s g f n i17) rfl hgd hm (if_neg (Nat.not_lt.mpr hle)) (Applied.refl s) rfl rfl

end Sys2Proof.Machine
end

section
/-!
SUPPORT. Effects beside the issuing thread's registers: updates of different places commute, what the end of an instruction resets may change
before it, and what an instruction that completes leaves of barriers and of memory.
-/

namespace Sys2Proof.Machine

/-! ### Updates of different places -/

theorem tput_comm {α : Type} (t : Table α) {j k : Nat} (h : j ≠ k) (x y : α) : tput (tput t j x) k y = tput (tput t k y) j x := by
  induction t with
  | nil => grind [tput]
  | cons e t ih =>
    obtain ⟨i, z⟩ := e
    grind [tput]

theorem Core.setCtx_comm (k : Core) {x y : Nat} (h : x ≠ y) (t u : Ctx) : (k.setCtx x t).setCtx y u = (k.setCtx y u).setCtx x t := by
  simp only [Core.setCtx, tput_comm k.ctxs h]

theorem State.setCore_comm (s : State) {c d : Nat} (h : c ≠ d) (j k : Core) : (s.setCore c j).setCore d k = (s.setCore d k).setCore c j := by
  simp only [State.setCore, tput_comm s.cores h]

/-- An update of a core that leaves its contexts, and an update of a context. -/
theorem State.modCtx_modCore (s : State) (c x d : Nat) (f : Ctx → Ctx) {g : Core → Core} (hg : ∀ k t, g (k.setCtx x t) = (g k).setCtx x t)
    (hc : ∀ k, (g k).ctxs = k.ctxs) : (s.modCtx c x f).modCore d g = (s.modCore d g).modCtx c x f := by
  by_cases h : d = c
  · subst h
    simp [State.modCtx, State.setCtx, State.modCore, State.ctx, Core.ctx, hg, hc]
  · have hctx : (s.modCore d g).ctx c x = s.ctx c x := by rw [State.ctx, State.core_modCore_ne _ _ _ _ (Ne.symm h), State.ctx]
    simp only [State.modCtx, State.setCtx, hctx]
    simp only [State.modCore, State.core_setCore_ne _ _ _ _ h, State.core_setCore_ne _ _ _ _ (Ne.symm h), State.setCore_comm s h]

theorem State.modCtx_comm (s : State) (c : Nat) {x y : Nat} (h : x ≠ y) (f g : Ctx → Ctx) :
    (s.modCtx c x f).modCtx c y g = (s.modCtx c y g).modCtx c x f := by
  simp only [State.modCtx, State.setCtx, State.modCore, State.setCore_setCore, State.core_setCore_same, State.ctx,
    Core.ctx_setCtx_ne _ _ _ _ h.symm, Core.ctx_setCtx_ne _ _ _ _ h, Core.setCtx_comm _ h]

theorem State.modMe_modCore (s : State) (d : Nat) (f : Ctx → Ctx) {g : Core → Core} (hg : ∀ k x t, g (k.setCtx x t) = (g k).setCtx x t)
    (hc : ∀ k, (g k).ctxs = k.ctxs) : (s.modMe f).modCore d g = (s.modCore d g).modMe f :=
  State.modCtx_modCore s _ _ d f (fun k => hg k _) hc

/-- Writing a destination, and an update of another context of the core. -/
theorem State.putG_modCtx (s : State) (d : GReg) (v : Word) {x : Nat} (h : x ≠ s.cur.2) (f : Ctx → Ctx) :
    (s.putG d v).modCtx s.cur.1 x f = (s.modCtx s.cur.1 x f).putG d v := by
  unfold State.putG
  split
  · rfl
  · split
    · exact State.modCtx_comm s _ h.symm _ f
    · split <;> exact (State.modCtx_modCore s _ x _ f (by intros; rfl) (by intros; rfl)).symm

/-- Writing a destination, and an update of a partition. -/
theorem State.putG_modPart (s : State) (d : GReg) (v : Word) (p : Nat) (f : Part → Part) :
    (s.putG d v).modPart p f = (s.modPart p f).putG d v := by
  unfold State.putG
  split
  · rfl
  · split
    · rfl
    · split <;> rfl

/-! ### What the end of an instruction resets -/

/-- An update that the end of the instruction undoes is no effect. -/
theorem Applied.aside {s u : State} {e : Effect} (h : Applied s u e) {f : Ctx → Ctx} (hf : ∀ t pc, (f t).settle pc = t.settle pc) :
    Applied s (u.modMe f) e := by
  have keeps {α : Type} (π : Ctx → α) (hπ : ∀ t, π (t.settle 0) = π t) (t : Ctx) : π (f t) = π t := by
    rw [← hπ, hf, hπ]
  refine h.modMe f rfl ?rest ?events ?flags ?g ?f ?p ?v ?q
  case rest => exact keeps Ctx.rest (fun _ => rfl) _
  case events => exact keeps Ctx.events (fun _ => rfl) _
  case flags => rw [keeps Ctx.fpflags (fun _ => rfl), h.fpflags]
  case g => intro n _ _; rw [keeps Ctx.g (fun _ => rfl)]
  case f => intro n; rw [keeps Ctx.f (fun _ => rfl)]; exact h.f n
  case p => intro r hr; rw [keeps Ctx.p (fun _ => rfl)]; exact h.pget r hr
  case v => intro r; rw [keeps Ctx.v (fun _ => rfl)]; exact h.v r
  case q => intro r; rw [keeps Ctx.q (fun _ => rfl)]; exact h.q r

/-! ### Frames of an instruction that completes -/

theorem SamePlace.trans {s t u : State} (h : SamePlace s t) (k : SamePlace t u) : SamePlace s u :=
  ⟨k.level.trans h.level, k.dbgctl.trans h.dbgctl, k.pc.trans h.pc⟩

theorem SamePlace.modMe (s : State) {f : Ctx → Ctx} (hf : ∀ t, (f t).level = t.level ∧ (f t).dbgctl = t.dbgctl ∧ (f t).pc = t.pc) :
    SamePlace s (s.modMe f) := by
  obtain ⟨hl, hd, hp⟩ := hf s.me
  exact ⟨by rw [State.me_modMe, hl], by rw [State.me_modMe, hd], by rw [State.me_modMe, hp]⟩

theorem SamePlace.modMyCore (s : State) {f : Core → Core} (hf : ∀ k, (f k).ctxs = k.ctxs) : SamePlace s (s.modMyCore f) := by
  have h := s.me_modMyCore f hf
  exact ⟨congrArg Ctx.level h, congrArg Ctx.dbgctl h, congrArg Ctx.pc h⟩

theorem AbortsOnly.cur {s w : State} {c : Nat} (h : AbortsOnly s w c) : w.cur = s.cur := by
  have h1 := congrArg State.cur h.device; exact h1

theorem gAfter_congr {s u : State} (h : ∀ n, u.gval n = s.gval n) (os : List Opnd) (ds : List (GReg × Word)) (n : Nat) :
    u.gAfter os ds n = s.gAfter os ds n := by
  simp only [State.gAfter, h]

section
variable {s u t : State} {os : List Opnd} {pc : Word} {e : Effect} (hc : Completes u t os pc e)
include hc

theorem Completes.bar (d : Nat) : (t.core d).bar = (u.core d).bar := by
  by_cases hd : d = u.cur.1
  · subst hd
    have hcur : t.cur = u.cur := cur_of_device hc.device
    have h := congrArg Core.bar hc.core
    rwa [State.myCore, State.myCore, hcur] at h
  · rw [hc.cores d hd]

/-! The same of an effect beside the registers, which leaves the issuing context. -/

variable (hcur : u.cur = s.cur)
include hcur

theorem Completes.rest_core : t.myCore.rest = (u.core s.cur.1).rest := by
  rw [hc.core, State.myCore, hcur]

theorem Completes.ctx_ne (y : Nat) (hy : y ≠ s.cur.2) : t.ctx s.cur.1 y = u.ctx s.cur.1 y := by
  rw [← hcur]
  exact hc.ctxs y (by rwa [hcur])

theorem Completes.coresKept (h : CoresKept s u s.cur.1) : CoresKept s t s.cur.1 := fun d hd => by
  rw [hc.cores d (by rwa [hcur])]; exact h d hd

omit hcur in
theorem Completes.barsTile {c : Nat} {r : Nat × Nat} (h : BarsTile s u c r) : BarsTile s t c r :=
  ⟨(congrArg Barrier.aborted (hc.bar _)).trans h.1, fun g hg hne => (congrArg Barrier.barred (hc.bar g)).trans (h.2 g hg hne)⟩

end

end Sys2Proof.Machine
end

section
/-!
PROOFS. Contexts start and are reaped (R83, R84, R86), and the state at reset (O20, O21, O60).
-/

namespace Sys2Proof.Machine

/-! ### TSTART (R84) -/

theorem startFault_eq_none {c : CtxState} : startFault c = none ↔ c = .free := by cases c <;> simp [startFault]

theorem freeG_full (ctr : Nat) (n : Nat) : (tget GVal.zero (freeG ctr) n).full = true :=
  tget_all (fun v : GVal => v.full) GVal.zero (freeG ctr) n (by simp [freeG, tabulate]) rfl

theorem freeF_full (ctr : Nat) (n : Nat) : (tget FVal.zero (freeF ctr) n).full = true :=
  tget_all (fun v : FVal => v.full) FVal.zero (freeF ctr) n (by simp [freeF, tabulate]) rfl

/-- The state in which TSTART has started context u of the issuing core. -/
def State.started (s : State) (u : Nat) (pc : Word) : State :=
  (s.modCtx s.cur.1 u (fun t => (t.start s.freeCtr pc).inherit s.me)).freeNext

theorem State.me_started (s : State) {u : Nat} (pc : Word) (h : u ≠ s.cur.2) : (s.started u pc).me = s.me := by
  rw [State.started, State.me_freeNext]
  exact State.ctx_modCtx_ne s s.cur.1 u s.cur.1 s.cur.2 _ (.inr h.symm)

theorem State.ctx_started (s : State) (u : Nat) (pc : Word) :
    (s.started u pc).ctx s.cur.1 u = ((s.ctx s.cur.1 u).start s.freeCtr pc).inherit s.me := by
  rw [State.started, State.ctx_freeNext, State.ctx_modCtx_same]

theorem State.ctxOnly_started (s : State) (u : Nat) (pc : Word) :
    CtxOnly { s with freeCtr := (s.started u pc).freeCtr } (s.started u pc) s.cur.1 u :=
  let h := CtxOnly.modCtx s s.cur.1 u (fun t => (t.start s.freeCtr pc).inherit s.me)
  ⟨rfl, h.cores, h.core, h.ctxs⟩

section
variable {s : State} {g : Guard} {a : GReg} {b : RegImm} (hgd : s.guard g = true) (hm : s.modsOk (condsOf (.src a :: opndsB b)) = true)

theorem exec_tstart : exec (.tstart g a b) s = execTstart g a b s := rfl

include hgd hm

theorem tstart_notFirst (h : s.cur.2 ≠ 0) : Traps (.tstart g a b) s Cause.privileged (s.g a) 1 :=
  traps_of exec_tstart hgd hm (if_pos h)

theorem tstart_outside (h : s.cur.2 = 0) (hu : (s.g a).toNat = 0 ∨ s.threadCount s.cur.1 ≤ (s.g a).toNat) :
    Traps (.tstart g a b) s Cause.boundCheck (s.g a) 1 :=
  traps_of exec_tstart hgd hm ((if_neg (not_not.mpr h)).trans (if_pos hu))

variable (h : s.cur.2 = 0) (hu : ¬((s.g a).toNat = 0 ∨ s.threadCount s.cur.1 ≤ (s.g a).toNat))
include h hu

theorem tstart_taken {k : Word} (hk : startFault (s.ctx s.cur.1 (s.g a).toNat).state = some k) :
    Traps (.tstart g a b) s Cause.boundCheck (s.g a) k :=
  traps_of exec_tstart hgd hm (by simp only [h, hu, hk]; rfl)

theorem tstart_misaligned (hf : (s.ctx s.cur.1 (s.g a).toNat).state = .free) (hpc : fld (s.entryOf b) 1 0 ≠ 0) :
    Traps (.tstart g a b) s Cause.pcMisaligned (s.entryOf b) 0 :=
  traps_of exec_tstart hgd hm (by simp [h, hu, hf, startFault, hpc])

theorem tstart_starts (hf : (s.ctx s.cur.1 (s.g a).toNat).state = .free) (hpc : fld (s.entryOf b) 1 0 = 0) :
    RunsWith (.tstart g a b) s (s.started (s.g a).toNat (s.entryOf b)) 8 (.src a :: opndsB b) {} := by
  have hme : (s.started (s.g a).toNat (s.entryOf b)).me = s.me := s.me_started _ (by omega)
  exact runs_with_0 exec_tstart (by simp) hgd hm (by simp only [h, hu, hf, startFault, hpc]; rfl) (congrArg Ctx.level hme)
    (congrArg Ctx.dbgctl hme) (congrArg Ctx.pc hme)

end

theorem fld_low2 (w : Word) : fld w 1 0 = w.toNat % 4 := by
  simp [fld]

/-- Settles O20: the causes in their order, and the started context (`State.started`). -/
theorem tstartStartsAContext : Obligations.TstartStartsAContext := by
  intro s g a b hgd hm i A u c entry
  have hentry : entry = s.entryOf b := by cases b <;> rfl
  refine ⟨tstart_notFirst hgd hm, tstart_outside hgd hm, fun h h0 hlt => ?_⟩
  have hu : ¬(u = 0 ∨ s.threadCount c ≤ u) := by omega
  rw [← fld_low2, hentry]
  refine ⟨fun hs => ?_, fun hs => ?_, fun hs => ?_, tstart_misaligned hgd hm h hu, fun hs hpc => ?_⟩
  case refine_1 | refine_2 | refine_3 => exact tstart_taken hgd hm h hu (congrArg startFault hs)
  case refine_4 =>
    refine ⟨_, tstart_starts hgd hm h hu hs hpc, s.ctxOnly_started u _, ?_⟩
    rw [State.ctx_started]
    exact ⟨rfl, rfl, rfl, rfl, rfl, rfl, rfl, rfl, rfl, rfl, rfl, rfl, rfl, fun n _ => ⟨freeG_full .., freeF_full ..⟩⟩

/-! ### TREAP (R86) -/

section
variable {s : State} {g : Guard} {d a : GReg} (hgd : s.guard g = true) (hm : s.modsOk (condsOf [.dst d, .src a]) = true)

theorem exec_treap : exec (.treap g d a) s = execTreap g d a s := rfl

include hgd hm

theorem treap_notFirst (h : s.cur.2 ≠ 0) : Traps (.treap g d a) s Cause.privileged (s.g a) 1 :=
  traps_of exec_treap hgd hm (if_pos h)

theorem treap_outside (h : s.cur.2 = 0) (hu : (s.g a).toNat = 0 ∨ s.threadCount s.cur.1 ≤ (s.g a).toNat) :
    Traps (.treap g d a) s Cause.boundCheck (s.g a) 1 :=
  traps_of exec_treap hgd hm ((if_neg (not_not.mpr h)).trans (if_pos hu))

variable (h : s.cur.2 = 0) (hu : ¬((s.g a).toNat = 0 ∨ s.threadCount s.cur.1 ≤ (s.g a).toNat))
include h hu

theorem treap_free (hs : (s.ctx s.cur.1 (s.g a).toNat).state = .free) : Traps (.treap g d a) s Cause.boundCheck (s.g a) 5 :=
  traps_of exec_treap hgd hm (by simp only [h, hu, hs]; rfl)

theorem treap_waits (hs : (s.ctx s.cur.1 (s.g a).toNat).state = .running ∨ (s.ctx s.cur.1 (s.g a).toNat).state = .held) :
    Parks (.treap g d a) s (.ended (s.g a).toNat) :=
  exec_park exec_treap hgd hm (by rcases hs with hs | hs <;> simp only [h, hu, hs] <;> rfl)

theorem treap_ended (hs : (s.ctx s.cur.1 (s.g a).toNat).state = .ended) :
    RunsWith (.treap g d a) s (s.modCtx s.cur.1 (s.g a).toNat (fun t => { t with state := .free })) 8 [.dst d, .src a]
      { g := [(d, (s.ctx s.cur.1 (s.g a).toNat).exitWord)] } := by
  have hne : (s.g a).toNat ≠ s.cur.2 := by omega
  have hme := State.ctx_modCtx_ne s s.cur.1 (s.g a).toNat s.cur.1 s.cur.2 (fun t => { t with state := .free }) (.inr hne.symm)
  exact runs_with_g exec_treap rfl hgd hm (by simp only [h, hu, hs, ← State.putG_modCtx s _ _ hne]; rfl) (congrArg Ctx.level hme)
    (congrArg Ctx.dbgctl hme) (congrArg Ctx.pc hme)

end

/-- Settles O21: the causes in their order, the wait, and the context of which the exit word is taken. -/
theorem treapReapsAContext : Obligations.TreapReapsAContext := by
  intro s g d a hgd hm i A u c
  refine ⟨treap_notFirst hgd hm, treap_outside hgd hm, fun h h0 hlt => ?_⟩
  have hu : ¬(u = 0 ∨ s.threadCount c ≤ u) := by omega
  exact ⟨treap_free hgd hm h hu, treap_waits hgd hm h hu, treap_ended hgd hm h hu⟩

/-! ### Reset -/

/-- Settles O60: every table of the reset state is empty, so that each place reads its own reset value. -/
theorem resetState : Obligations.ResetState :=
  ⟨rfl, rfl, rfl, rfl, rfl, fun _ => ⟨rfl, rfl, rfl, rfl, rfl, rfl, rfl⟩, fun _ _ => ⟨rfl, rfl, rfl, rfl⟩,
    fun _ => ⟨rfl, rfl, rfl, rfl, rfl, rfl⟩, fun _ => ⟨rfl, rfl, rfl, rfl⟩, fun _ => ⟨rfl, rfl, rfl, rfl, rfl, rfl⟩⟩

end Sys2Proof.Machine
end

section
/-!
PROOFS. TEND (R85, R90, R208): a thread ends (O22).
-/

namespace Sys2Proof.Machine

/-! ### An update of a core that leaves its task and its gang -/

theorem State.core_modCore_keeps {α : Type} (π : Core → α) {f : Core → Core} (hπ : ∀ k, π (f k) = π k) (s : State) (c d : Nat) :
    π ((s.modCore c f).core d) = π (s.core d) := by
  by_cases h : d = c
  · subst h; rw [State.core_modCore_same, hπ]
  · rw [State.core_modCore_ne s c d f h]

section
variable {f : Core → Core} (hf : ∀ k, (f k).taskId = k.taskId) (s : State) (c d : Nat)
include hf

theorem State.taskOf_modCore : (s.modCore c f).taskOf d = s.taskOf d := by
  rw [State.taskOf, State.core_modCore_keeps Core.taskId hf]; rfl

theorem State.threadCount_modCore : (s.modCore c f).threadCount d = s.threadCount d := by
  rw [State.threadCount, State.taskOf_modCore hf, State.threadCount]

theorem State.gangCores_modCore : (s.modCore c f).gangCores d = s.gangCores d := by
  rw [State.gangCores, State.taskOf_modCore hf, State.gangCores]

theorem State.gangWide_modCore (hi : ∀ k, (f k).gangIdx = k.gangIdx) (x : Nat) : (s.modCore c f).gangWide d x = s.gangWide d x := by
  rw [State.gangWide, State.threadCount_modCore hf, State.core_modCore_keeps Core.gangIdx hi, State.gangWide]

end

/-! ### An instruction that ends its own thread -/

/-- The end of an instruction in a context that has no thread: single-step posts nothing. -/
theorem complete_dead {u : State} (h : u.me.live = false) (s0 : State) (pc : Word) : s0.complete u pc = u.modMe (fun t => t.settle pc) := by
  simp [complete_eq, h]

theorem live_consumeAll (u : State) (os : List Opnd) : (u.consumeAll os).me.live = u.me.live := by
  have h := congrArg Ctx.state (consumeAll_emptied u os).rest
  have h' : (u.consumeAll os).me.state = u.me.state := h
  rw [Ctx.live, Ctx.live, h']

/-- An instruction without a destination that ends its own thread. -/
theorem runs_with_dead {s u : State} {i j : Instr} {size : Nat} {g : Guard} {l : List Opnd} {eff : State → Res}
    (hx : exec i s = s.run j size g l eff) (hn : noDst l = true) (hgd : s.guard g = true) (hm : s.modsOk (condsOf l) = true)
    (he : eff s = .done u) (hu : u.me.live = false) : RunsWith i s u size l {} := by
  have hl : (u.consumeAll l).me.live = false := (live_consumeAll u l).trans hu
  refine ⟨_, hx.trans (run_completes hgd hm he), ?_⟩
  rw [complete_dead hl s, ← complete_dead hl u]
  exact (Applied.refl u).completes l _ (fun n _ => by simp [refills_noDst hn]) (fun n => by simp [refills_noDst hn])

/-! ### The end of a context -/

/-- The context has ended, and its barriers are not yet aborted. -/
def State.endedCtx (s : State) (c x : Nat) (exit : Word) : State :=
  (s.modCore c (fun k => k.disown x)).modCtx c x (fun t => t.ending exit)

theorem endContext_eq (s : State) (c x : Nat) (exit : Word) : s.endContext c x exit = (s.endedCtx c x exit).abortBarriers c x := rfl

theorem endContext_abortsOnly (s : State) (c x : Nat) (exit : Word) : AbortsOnly (s.endedCtx c x exit) (s.endContext c x exit) c :=
  .abortBarriers _ c x

theorem endContext_net (s : State) (c x : Nat) (exit : Word) : (s.endContext c x exit).net = s.net ∧ (s.endContext c x exit).outbox = s.outbox := by
  have h1 := congrArg State.net (endContext_abortsOnly s c x exit).device
  have h2 := congrArg State.outbox (endContext_abortsOnly s c x exit).device
  exact ⟨h1, h2⟩

theorem core_endedCtx (s : State) (c x : Nat) (exit : Word) :
    ∃ t, (s.endedCtx c x exit).core c = ((s.core c).disown x).setCtx x t :=
  ⟨_, by rw [State.endedCtx, State.core_modCtx_same, State.core_modCore_same]⟩

/-- The commands of the core stay, whoever they report to, and so do its copies. -/
theorem core_endContext (s : State) (c x : Nat) (exit : Word) :
    ((s.endContext c x exit).core c).mq = ((s.core c).disown x).mq ∧ ((s.endContext c x exit).core c).fifo = (s.core c).fifo := by
  obtain ⟨t, ht⟩ := core_endedCtx s c x exit
  have h := (endContext_abortsOnly s c x exit).core
  rw [ht] at h
  have h1 := congrArg Core.mq h
  have h2 := congrArg Core.fifo h
  exact ⟨h1, h2⟩

theorem endContext_barsTile {s : State} {c x : Nat} {exit : Word} (hx : x < s.threadCount c) (ha : (s.core c).bar.aborted = none)
    (hi : (s.core c).bar.arrived.contains (s.gangWide c x) = false) :
    BarsTile s (s.endContext c x exit) c ((s.core c).bar.gen, s.gangWide c x) := by
  have htask : ∀ k : Core, (k.disown x).taskId = k.taskId := fun _ => rfl
  have hbar : ∀ d, ((s.endedCtx c x exit).core d).bar = (s.core d).bar := fun d => by
    rw [State.endedCtx, State.modCtx, State.bar_setCtx, State.core_modCore_keeps Core.bar (f := fun k => k.disown x) (fun _ => rfl)]
  have hwide : (s.endedCtx c x exit).gangWide c x = s.gangWide c x := by
    rw [State.endedCtx, State.modCtx, State.gangWide_setCtx, State.gangWide_modCore htask _ _ _ (fun _ => rfl)]
  have hcount : (s.endedCtx c x exit).threadCount c = s.threadCount c := by
    rw [State.endedCtx, State.modCtx, State.threadCount_setCtx, State.threadCount_modCore htask]
  have hgang : (s.endedCtx c x exit).gangCores c = s.gangCores c := by
    rw [State.endedCtx, State.modCtx, State.gangCores_setCtx, State.gangCores_modCore htask]
  have h := abortBarriers_barsTile (s := s.endedCtx c x exit) (c := c) (x := x) (hcount ▸ hx) (by rwa [hbar]) (by rwa [hbar, hwide])
  obtain ⟨hab, hnotes⟩ := h
  rw [hgang] at hnotes
  rw [hbar, hwide] at hab hnotes
  exact ⟨hab, fun d hd hne => (hnotes d hd hne).trans (by rw [hbar])⟩

theorem disown_ops (k : Core) (x : Nat) : (k.disown x).mq.map (fun q => q.op) = k.mq.map (fun q => q.op) := by
  rw [Core.disown, List.map_map]
  refine List.map_congr_left fun q _ => ?_
  simp only [Function.comp]
  split <;> rfl

/-! ### TEND -/

section
variable {s : State} {g : Guard} {a : GReg} (hgd : s.guard g = true) (hm : s.modsOk (condsOf [.src a]) = true)

theorem exec_tend : exec (.tend g a) s = execTend g a s := rfl

include hgd hm

theorem tend_waits (h : s.cur.2 = 0 ∧ !s.waitOk s.cur.1 0 .others) : Parks (.tend g a) s .others :=
  exec_park exec_tend hgd hm (if_pos h)

variable (h : ¬(s.cur.2 = 0 ∧ !s.waitOk s.cur.1 0 .others))
include h

theorem tend_reports {r : Report} (hr : s.myCore.poisonReport s.cur.2 = some r) :
    TrapsWith (.tend g a) s (s.modMyCore (fun k => k.dropReport r)) Cause.poisonOperand r.tval r.tstat := by
  rw [TrapsWith, exec_tend, execTend]
  simp only [State.run, hgd, hm, if_true, h, if_false, hr]
  rfl

theorem tend_ends (hr : s.myCore.poisonReport s.cur.2 = none) :
    RunsWith (.tend g a) s (s.endContext s.cur.1 s.cur.2 (s.g a)) 8 [.src a] {} := by
  have hcur : (s.endContext s.cur.1 s.cur.2 (s.g a)).cur = s.cur := (endContext_abortsOnly ..).cur
  have hme : (s.endContext s.cur.1 s.cur.2 (s.g a)).me = s.me.ending (s.g a) := by
    rw [State.me, hcur, ctx_endContext, if_pos ⟨rfl, rfl⟩, State.me]
  exact runs_with_dead exec_tend rfl hgd hm (by simp only [h, if_false, hr]) (by rw [hme]; rfl)

end

/-- Settles O22: the wait of context 0, the report, and the end of the context (`State.endContext`) with what it leaves. -/
theorem tendEndsAThread : Obligations.TendEndsAThread := by
  intro s g a hgd hm i others
  have hw : others = s.waitOk s.cur.1 0 .others := rfl
  rw [hw]
  refine ⟨fun h0 ho => tend_waits hgd hm ⟨h0, by simpa using ho⟩, fun h => ?_⟩
  have h' : ¬(s.cur.2 = 0 ∧ !s.waitOk s.cur.1 0 .others) := by
    rintro ⟨h0, ho⟩
    rcases h with h | h
    · exact h h0
    · simp [h] at ho
  refine ⟨fun r hr => tend_reports hgd hm h' hr, fun hr => ?_⟩
  obtain ⟨t, ht, hc⟩ := tend_ends hgd hm h' hr
  have hcu : (s.endContext s.cur.1 s.cur.2 (s.g a)).cur = s.cur := (endContext_abortsOnly ..).cur
  have hme : (s.endContext s.cur.1 s.cur.2 (s.g a)).me = s.me.ending (s.g a) := by
    rw [State.me, hcu, ctx_endContext, if_pos ⟨rfl, rfl⟩, State.me]
  have hrest : t.me.rest = (s.me.ending (s.g a)).rest := by rw [hc.rest, hme]
  have hcore := hc.rest_core hcu
  obtain ⟨hmq, hfifo⟩ := core_endContext s s.cur.1 s.cur.2 (s.g a)
  obtain ⟨hnet, hout⟩ := endContext_net s s.cur.1 s.cur.2 (s.g a)
  refine ⟨t, ht, congrArg Ctx.state hrest, congrArg Ctx.exitWord hrest, ?events, hc.park, hc.replies, fun y hy => ?ctxs,
    hc.coresKept hcu (endContext_coresKept s _ _ _), ?mq, (congrArg Core.fifo hcore).trans hfifo, ?net, ?outbox,
    (SameMemory.endContext ..).trans hc.memory, fun hx ha hi => hc.barsTile (endContext_barsTile hx ha hi)⟩
  case events => rw [hc.events, State.eventsAfter, hme]; rfl
  case ctxs => rw [hc.ctx_ne hcu y hy, ctx_endContext, if_neg (fun e => hy e.2)]
  case mq =>
    have h : t.myCore.mq = (s.myCore.disown s.cur.2).mq := (congrArg Core.mq hcore).trans hmq
    rw [h, disown_ops]
  case net =>
    have h := congrArg State.net hc.device
    exact h.trans hnet
  case outbox =>
    have h := congrArg State.outbox hc.device
    exact h.trans hout

end Sys2Proof.Machine
end

section
/-!
PROOFS. Register bits (R91) and work lists (R31, R92 to R94) (O25, O26).
-/

namespace Sys2Proof.Machine

/-! ### The bit of a register -/

theorem setFullG_cases (s : State) (n : Nat) (b : Bool) :
    (n = 0 ∧ s.setFullG n b = s) ∨
    (n ≠ 0 ∧ n < 32 ∧ s.setFullG n b = s.modMe (fun t => { t with g := tput t.g n ⟨(tget GVal.zero t.g n).val, b⟩ })) ∨
    (32 ≤ n ∧ s.setFullG n b = s.modMyCore (fun k => { k with s := tput k.s (n - 32) ⟨(tget GVal.zero k.s (n - 32)).val, b⟩ })) := by
  unfold State.setFullG
  by_cases h0 : n = 0
  · exact .inl ⟨h0, if_pos h0⟩
  · by_cases h32 : n < 32
    · exact .inr (.inl ⟨h0, h32, by rw [if_neg h0, if_pos h32]⟩)
    · exact .inr (.inr ⟨by omega, by rw [if_neg h0, if_neg h32]⟩)

theorem gval_setFullG (s : State) (n : Nat) (b : Bool) (j : Nat) :
    (s.setFullG n b).gval j = if j = n ∧ j ≠ 0 then ⟨(s.gval j).val, b⟩ else s.gval j := by
  rcases setFullG_cases s n b with ⟨rfl, h⟩ | ⟨h0, h32, h⟩ | ⟨h32, h⟩
  · rw [h, if_neg (by omega)]
  · by_cases hj : j = n
    · subst hj
      simp [h, h0, h32, State.gval]
    · simp [h, hj, State.gval, tget_tput_ne]
  · have hme := s.me_modMyCore (fun k => { k with s := tput k.s (n - 32) ⟨(tget GVal.zero k.s (n - 32)).val, b⟩ }) (fun _ => rfl)
    rw [h]
    simp only [State.gval, hme, State.myCore_modMyCore, tget_tput]
    by_cases hj : j = n
    · subst hj
      have h0 : j ≠ 0 := by omega
      have hlt : ¬j < 32 := by omega
      simp [h0, hlt]
    · by_cases hlt : j < 32
      · simp [hj, hlt]
      · have hne : j - 32 ≠ n - 32 := by omega
        simp [hj, hne]

/-- Setting a bit leaves the rest of the context. -/
theorem me_setFullG_keeps {α : Type} (π : Ctx → α) (hπ : ∀ (t : Ctx) g, π { t with g := g } = π t) (s : State) (n : Nat) (b : Bool) :
    π (s.setFullG n b).me = π s.me := by
  rcases setFullG_cases s n b with ⟨-, h⟩ | ⟨-, -, h⟩ | ⟨-, h⟩
  · rw [h]
  · rw [h, State.me_modMe, hπ]
  · rw [h]
    exact congrArg π (s.me_modMyCore _ (fun _ => rfl))

theorem SamePlace.setFullG (s : State) (n : Nat) (b : Bool) : SamePlace s (s.setFullG n b) :=
  ⟨me_setFullG_keeps Ctx.level (fun _ _ => rfl) s n b, me_setFullG_keeps Ctx.dbgctl (fun _ _ => rfl) s n b,
    me_setFullG_keeps Ctx.pc (fun _ _ => rfl) s n b⟩

theorem fAt_setFullG (s : State) (n : Nat) (b : Bool) (j : Nat) : (s.setFullG n b).fAt j = s.fAt j :=
  me_setFullG_keeps (fun t => tget FVal.zero t.f j) (fun _ _ => rfl) s n b

theorem CoreOnly.setFullG (s : State) (n : Nat) (b : Bool) : CoreOnly s (s.setFullG n b) s.cur.1 := by
  rcases setFullG_cases s n b with ⟨-, h⟩ | ⟨-, -, h⟩ | ⟨-, h⟩
  · rw [h]; exact .refl s _
  · rw [h]; exact .modMe s _
  · rw [h]; exact .modCore s _ _

theorem SameMemory.setFullG (s : State) (n : Nat) (b : Bool) : SameMemory s (s.setFullG n b) := by
  rcases setFullG_cases s n b with ⟨-, h⟩ | ⟨-, -, h⟩ | ⟨-, h⟩
  · rw [h]; exact .refl s
  · rw [h]; exact .modMe s _
  · rw [h]; exact .modMyCore s _ (fun _ => rfl)

theorem fAt_setFullF (s : State) (n : Nat) (b : Bool) (j : Nat) :
    (s.setFullF n b).fAt j = if j = n then { s.fAt j with full := b } else s.fAt j := by
  simp only [State.setFullF, State.fAt, State.me_modMe, tget_tput]
  split
  · next h => rw [h]
  · rfl

/-! ### FEMPTY and FFULL (R91) -/

section
variable {s : State} {g : Guard} {i : Instr} {a : PlainGF} {b : Bool} (hgd : s.guard g = true)
  (hx : exec i s = s.run i 8 g [] (fun s => s.setBitOf a b))
include hgd hx

theorem setBit_g {n : BitVec 6} (ha : a = .g n) (hp : s.pending n.toNat = false) :
    ∃ u, RunsWith i s u 8 [] {} ∧ (∀ j, u.gval j = if j = n.toNat ∧ j ≠ 0 then ⟨(s.gval j).val, b⟩ else s.gval j) ∧
      (∀ j, u.fAt j = s.fAt j) ∧ SameMemory s u ∧ CoreOnly s u s.cur.1 := by
  subst ha
  have hs := SamePlace.setFullG s n.toNat b
  exact ⟨_, runs_with_0 hx rfl hgd rfl (by simp only [State.setBitOf, hp]; rfl) hs.level hs.dbgctl hs.pc, gval_setFullG s _ b,
    fAt_setFullG s _ b, .setFullG s _ b, .setFullG s _ b⟩

theorem setBit_f {n : BitVec 5} (ha : a = .f n) :
    ∃ u, RunsWith i s u 8 [] {} ∧ (∀ j, u.fAt j = if j = n.toNat then { s.fAt j with full := b } else s.fAt j) ∧
      (∀ j, u.gval j = s.gval j) ∧ SameMemory s u ∧ CoreOnly s u s.cur.1 := by
  subst ha
  have hs : SamePlace s (s.setFullF n.toNat b) := .modMe s (fun _ => ⟨rfl, rfl, rfl⟩)
  refine ⟨_, runs_with_0 hx rfl hgd rfl rfl hs.level hs.dbgctl hs.pc,
    fAt_setFullF s _ b, fun j => ?_, .modMe s _, .modMe s _⟩
  simp [State.setFullF, State.gval]

theorem setBit_parks {n : BitVec 6} (ha : a = .g n) (hp : s.pending n.toNat = true) : Parks i s (.mods [⟨false, n.toNat, .landed⟩]) := by
  subst ha
  exact exec_park hx hgd rfl (by simp only [State.setBitOf, hp]; rfl)

end

theorem exec_fempty (g : Guard) (a : PlainGF) (s : State) :
    exec (.fempty g a) s = s.run (.fempty g a) 8 g [] (fun s => s.setBitOf a false) := rfl
theorem exec_ffull (g : Guard) (a : PlainGF) (s : State) : exec (.ffull g a) s = s.run (.ffull g a) 8 g [] (fun s => s.setBitOf a true) := rfl
theorem exec_ftest (g : Guard) (d : PReg) (a : PlainGF) (s : State) : exec (.ftest g d a) s = execFtest g d a s := rfl

/-- Settles O25: FEMPTY and FFULL by the one bit that they set, FTEST by the bit it reads. -/
theorem registerBits : Obligations.RegisterBits := by
  intro s g n f d hgd
  simp only [List.forall_mem_cons, List.not_mem_nil, false_imp_iff, implies_true, and_true]
  refine ⟨fun hp => ⟨?emptyG, ?fullG⟩, fun hp => ⟨?parkEmpty, ?parkFull⟩, ⟨?emptyF, ?fullF⟩, ?testG, ?testF, rfl⟩
  case emptyG => exact setBit_g hgd (exec_fempty g _ s) rfl hp
  case fullG => exact setBit_g hgd (exec_ffull g _ s) rfl hp
  case parkEmpty => exact setBit_parks hgd (exec_fempty g _ s) rfl hp
  case parkFull => exact setBit_parks hgd (exec_ffull g _ s) rfl hp
  case emptyF => exact setBit_f hgd (exec_fempty g _ s) rfl
  case fullF => exact setBit_f hgd (exec_ffull g _ s) rfl
  case testG => exact runs_0 (exec_ftest g d _ s) rfl hgd rfl rfl ((Applied.refl s).putP rfl d _) rfl rfl
  case testF => exact runs_0 (exec_ftest g d _ s) rfl hgd rfl rfl ((Applied.refl s).putP rfl d _) rfl rfl

/-! ### Work lists -/

/-- A destination without a consuming modifier empties nothing, whether the instruction writes it or not. -/
theorem consumeAll_dst {d : GReg} (h : d.md ≠ .consume) (u : State) : u.consumeAll [.dst d] = u := by
  simp [State.consumeAll, Opnd.md, h]

/-- An instruction that leaves its destination as it was, which no modifier consumes. -/
theorem runs_unwritten {s u : State} {i j : Instr} {size : Nat} {g : Guard} {d : GReg} {eff : State → Res} {e : Effect}
    (hx : exec i s = s.run j size g [.dst d] eff) (hd : d.md ≠ .consume) (hgd : s.guard g = true) (hm : s.modsOk (condsOf [.dst d]) = true)
    (he : eff s = .done u) (ha : Applied s u e) (h1 : e.g = []) (h2 : e.f = none) : Runs i s size [] e := by
  refine ⟨_, hx.trans (run_completes hgd hm he), ?_⟩
  rw [consumeAll_dst hd]
  exact ha.completes [] _ (fun n _ => by simp [refills, h1]) (fun n => by simp [refills, h2])

theorem wcount_eq (k : Core) : k.wcount = k.wl.length + (k.wlSent.map (fun e => e.2.length)).sum := by
  rw [Core.wcount, List.length_flatMap]

section
variable {s : State} {g : Guard} {d a : GReg} {k : PReg}

theorem exec_wpush : exec (.wpush g a) s = execWpush g a s := rfl
theorem exec_wtake : exec (.wtake g d k) s = execWtake g d k s := rfl
theorem exec_wcount : exec (.wcount g d) s = execWcount g d s := rfl

variable (hgd : s.guard g = true)
include hgd

theorem wpush_full (hm : s.modsOk (condsOf [.src a]) = true) (h : 256 ≤ s.myCore.wcount) :
    Traps (.wpush g a) s Cause.worklistFull (s.g a) 256 :=
  traps_of exec_wpush hgd hm (if_pos h)

theorem wpush_appends (hm : s.modsOk (condsOf [.src a]) = true) (h : s.myCore.wcount < 256) :
    RunsWith (.wpush g a) s (s.modMyCore (fun k => { k with wl := k.wl ++ [s.g a] })) 8 [.src a] {} := by
  have hs := SamePlace.modMyCore s (f := fun k => { k with wl := k.wl ++ [s.g a] }) (fun _ => rfl)
  exact runs_with_0 exec_wpush rfl hgd hm (if_neg (Nat.not_le.mpr h)) hs.level hs.dbgctl hs.pc

variable (hm : s.modsOk (condsOf [.dst d]) = true)
include hm

theorem wtake_empty (hd : d.md ≠ .consume) (h : s.myCore.wl = []) : Runs (.wtake g d k) s 8 [] { p := some (k, false) } :=
  runs_unwritten exec_wtake hd hgd hm (by simp only [h]) ((Applied.refl s).putP rfl k false) rfl rfl

theorem wtake_head {w : Word} {ws : List Word} (h : s.myCore.wl = w :: ws) :
    RunsWith (.wtake g d k) s (s.modMyCore (fun k => { k with wl := ws })) 8 [.dst d] { g := [(d, w)], p := some (k, true) } := by
  have hs := SamePlace.modMyCore s (f := fun k => { k with wl := ws }) (fun _ => rfl)
  exact run_with exec_wtake hgd hm (by simp only [h]) hs.level hs.dbgctl hs.pc (((Applied.refl _).putG d w).putP rfl k true)
    (fun n _ => refills_dst rfl d w n) (fun n => refills_dst_f rfl d n)

end

/-- Settles O26: each instruction by the length of the list it finds. -/
theorem workListsHold : Obligations.WorkListsHold := by
  intro s g d a k hgd W
  have hW : W = s.myCore.wcount := (wcount_eq _).symm
  rw [hW]
  refine ⟨fun hm => ⟨wpush_full hgd hm, wpush_appends hgd hm⟩, fun hm hd => ⟨wtake_empty hgd hm hd, fun w ws => wtake_head hgd hm, ?count⟩,
    fun hm => ?parks⟩
  case count => exact runs_g exec_wcount rfl hgd hm rfl
  case parks =>
    rw [Parks, exec_wtake, execWtake]
    simp [State.run, hgd, hm]

end Sys2Proof.Machine
end

section
/-!
PROOFS. TSPAWN (R87): a record's address enters the enqueue queue (O23).
-/

namespace Sys2Proof.Machine

/-! ### A release (R112) -/

theorem State.mark_mark (s : State) (i j : Nat) : (s.mark i).mark j = s.mark j := by
  unfold State.mark
  rw [State.modMe_modMe]
  rfl

theorem State.storesDone_modMe (s : State) (f : Ctx → Ctx) (c x : Nat) (wide : Bool) (mark : Nat) :
    (s.modMe f).storesDone c x wide mark = s.storesDone c x wide mark := rfl

theorem State.me_mark (s : State) (i : Nat) : (s.mark i).me = { s.me with phase := { s.me.phase with step := i, mark := s.msgCtr } } := by
  rw [State.mark, State.me_modMe]

theorem State.me_parkOn (s : State) (i : Instr) (w : Wait) : (s.parkOn i w).me = { s.me with park := some ⟨i, w, s.gtime.toNat, false⟩ } := by
  rw [State.parkOn, State.me_modMe]

section
variable {s : State} {sc : Scope} {k : State → Res} (h0 : s.me.phase.step = 0)
include h0

/-- A release first waits for the stores that were issued before it. -/
theorem release_waits (hs : s.storesDone s.cur.1 s.cur.2 (decide (sc ≠ .tile)) s.msgCtr = false) :
    s.release sc k = .park (.stores (decide (sc ≠ .tile)) s.msgCtr) (s.mark 1) := by
  have hm : (s.mark 1).me.phase.mark = s.msgCtr := by rw [State.me_mark]
  have hd : (s.mark 1).storesDone s.cur.1 s.cur.2 (decide (sc ≠ .tile)) s.msgCtr = false := hs
  have hc : (s.mark 1).cur = s.cur := rfl
  simp only [State.release, h0, if_true, hm, hc, hd]
  rfl

/-- A release of tile scope has no lines to write back. -/
theorem release_tile (hs : s.storesDone s.cur.1 s.cur.2 false s.msgCtr = true) : s.release .tile k = k (s.mark 3) := by
  have hm : (s.mark 1).me.phase.mark = s.msgCtr := by rw [State.me_mark]
  have hd : (s.mark 1).storesDone s.cur.1 s.cur.2 false s.msgCtr = true := hs
  have hc : (s.mark 1).cur = s.cur := rfl
  have hw (u : State) (c : Nat) : u.widerThanCache c .tile = false := rfl
  have hl : (s.mark 1).releaseLines s.cur.1 .tile = s.mark 1 := rfl
  simp [State.release, h0, hm, hc, hd, hl, State.releaseEnd, hw, State.mark_mark]

end

/-! ### TSPAWN -/

section
variable {s : State} {g : Guard} {d a : GReg} (hgd : s.guard g = true) (hm : s.modsOk (condsOf [.dst d, .src a]) = true)

theorem exec_tspawn : exec (.tspawn g d a) s = execTspawn g d a s := rfl

/-- The address of a TSPAWN: that of its first issue. -/
def State.spawnAddr (s : State) (a : GReg) : Word := if s.me.phase.step = 0 then s.g a else s.me.phase.val

/-- The state in which a TSPAWN keeps its address. -/
def State.spawning (s : State) (a : GReg) : State :=
  if s.me.phase.step = 0 then s.modMe (fun t => { t with phase := { t.phase with val := s.g a } }) else s

theorem spawning_val : (s.spawning a).me.phase.val = s.spawnAddr a := by
  unfold State.spawning State.spawnAddr
  split
  · rw [State.me_modMe]
  · rfl

theorem spawning_out (h : s.out = true) : s.spawning a = s := by
  have h4 : 4 ≤ s.me.phase.step := by simpa [State.out] using h
  exact if_neg (by omega)

/-- What a TSPAWN kept is forgotten at its end. -/
theorem spawning_settle (pc : Word) : (s.spawning a).modMe (fun t => t.settle pc) = s.modMe (fun t => t.settle pc) := by
  unfold State.spawning
  split
  · rw [State.modMe_modMe]; rfl
  · rfl

/-- What a TSPAWN comes to with the bytes of its record. -/
def State.spawn (s : State) (d : GReg) (addr : Word) (rs : List Reply) : Res :=
  match recFail (rs.flatMap (fun r => r.data)) with
  | some b => .trap Cause.taskRecord addr (w64 b) s
  | none =>
    if 64 ≤ (s.part s.myPart).enq.length then .done (s.putG d 2)
    else .done ((s.modPart s.myPart (fun p => { p with enq := p.enq ++ [addr] })).putG d 0)

/-- TSPAWN by its address: refused, or read, or with the bytes that it has waited for. -/
theorem tspawn_eq : exec (.tspawn g d a) s = s.run (.tspawn g d a) 8 g [.dst d, .src a] (fun s =>
    if !recAddrOk (s.spawning a).me.phase.val then .trap Cause.taskRecord (s.spawning a).me.phase.val 0 (s.spawning a)
    else if (s.spawning a).out then (s.spawning a).collect (fun u => u.spawn d (s.spawning a).me.phase.val)
    else (s.spawning a).release .dev (fun u => u.load (recordUnits (s.spawning a).me.phase.val) .nc
      (fun u => u.spawn d (s.spawning a).me.phase.val))) := rfl

/-- The answers of a phase that carry no cause are what is gone on with. -/
theorem collect_answers {k : State → List Reply → Res} {rs : List Reply} (h : s.me.allReplies s.me.phase.ids = .ok rs)
    (ht : replyTrap (rs.zip s.me.phase.eas) = none) : s.collect k = k s rs := by
  simp only [State.collect, h, ht]

include hgd hm

theorem tspawn_badAddr (h : recAddrOk (s.spawnAddr a) = false) : Traps (.tspawn g d a) s Cause.taskRecord (s.spawnAddr a) 0 := by
  rw [Traps, tspawn_eq, ← spawning_settle (a := a)]
  simp only [State.run, hgd, hm, if_true, spawning_val, h]
  rfl

theorem tspawn_waits (h0 : s.me.phase.step = 0) (h : recAddrOk (s.g a) = true) (hs : s.storesDone s.cur.1 s.cur.2 true s.msgCtr = false) :
    exec (.tspawn g d a) s = .next (((s.spawning a).mark 1).parkOn (.tspawn g d a) (.stores true s.msgCtr)) := by
  have ha : s.spawnAddr a = s.g a := if_pos h0
  have hsp : s.spawning a = s.modMe (fun t => { t with phase := { t.phase with val := s.g a } }) := if_pos h0
  have hstep : (s.spawning a).me.phase.step = 0 := by rw [hsp, State.me_modMe]; exact h0
  have hd : (s.spawning a).storesDone (s.spawning a).cur.1 (s.spawning a).cur.2 (decide (Scope.dev ≠ .tile)) (s.spawning a).msgCtr = false := by
    rw [hsp]; exact hs
  have hout : (s.spawning a).out = false := by simp [State.out, hstep]
  have hctr : (s.spawning a).msgCtr = s.msgCtr := by rw [hsp]; rfl
  refine exec_park tspawn_eq hgd hm ?_
  simp only [spawning_val, ha, h, hout, release_waits hstep hd, hctr]
  rfl

variable {rs : List Reply} (h : recAddrOk (s.spawnAddr a) = true) (ho : s.out = true) (hr : s.me.allReplies s.me.phase.ids = .ok rs)
  (ht : replyTrap (rs.zip s.me.phase.eas) = none)
include h ho hr ht

omit hgd hm in
/-- With its bytes there, a TSPAWN ends by its record. -/
theorem tspawn_answered : ∃ eff, exec (.tspawn g d a) s = s.run (.tspawn g d a) 8 g [.dst d, .src a] eff ∧
    eff s = s.spawn d (s.spawnAddr a) rs := by
  refine ⟨_, tspawn_eq, ?_⟩
  have hval := spawning_val (s := s) (a := a)
  rw [spawning_out ho] at hval
  simp only [spawning_out ho, hval, h, ho, collect_answers hr ht]
  rfl

theorem tspawn_badRecord {b : Nat} (hb : recFail (rs.flatMap (fun r => r.data)) = some b) :
    Traps (.tspawn g d a) s Cause.taskRecord (s.spawnAddr a) (w64 b) := by
  obtain ⟨eff, hx, he⟩ := tspawn_answered (g := g) (d := d) h ho hr ht
  exact traps_of hx hgd hm (he.trans (by simp only [State.spawn, hb]))

theorem tspawn_full (hb : recFail (rs.flatMap (fun r => r.data)) = none) (hq : 64 ≤ (s.part s.myPart).enq.length) :
    RunsWith (.tspawn g d a) s s 8 [.dst d, .src a] { g := [(d, 2)] } := by
  obtain ⟨eff, hx, he⟩ := tspawn_answered (g := g) (d := d) h ho hr ht
  exact runs_with_g hx rfl hgd hm (he.trans (by simp only [State.spawn, hb, hq]; rfl)) rfl rfl rfl

theorem tspawn_enqueues (hb : recFail (rs.flatMap (fun r => r.data)) = none) (hq : (s.part s.myPart).enq.length < 64) :
    RunsWith (.tspawn g d a) s (s.modPart s.myPart (fun q => { q with enq := q.enq ++ [s.spawnAddr a] })) 8 [.dst d, .src a]
      { g := [(d, 0)] } := by
  obtain ⟨eff, hx, he⟩ := tspawn_answered (g := g) (d := d) h ho hr ht
  have hs := (SamePlace.refl s).modPart s.myPart (fun q => { q with enq := q.enq ++ [s.spawnAddr a] })
  exact runs_with_g hx rfl hgd hm (he.trans (by simp only [State.spawn, hb, Nat.not_le.mpr hq]; rfl)) hs.level hs.dbgctl hs.pc

end

/-- Settles O23: a TSPAWN by its address, the wait of its release, and what its record gives. -/
theorem tspawnEnqueuesARecord : Obligations.TspawnEnqueuesARecord := by
  intro s g d a rs hgd hm i A p
  have hA : A = s.spawnAddr a := rfl
  rw [hA]
  refine ⟨fun hbad => tspawn_badAddr hgd hm ?bad, fun h0 h1 h2 hs => ?wait, fun h1 h2 ho hr ht => ?answered⟩
  case bad =>
    rw [Bool.eq_false_iff, Ne, recAddrOk_iff]
    tauto
  case wait =>
    have hg : s.spawnAddr a = s.g a := if_pos h0
    rw [hg] at h1 h2
    have hsp : s.spawning a = s.modMe (fun t => { t with phase := { t.phase with val := s.g a } }) := if_pos h0
    have hmem : SameMemory s (s.spawning a) := by rw [hsp]; exact .modMe s _
    refine ⟨_, tspawn_waits hgd hm h0 ((recAddrOk_iff _).mpr ⟨h1, h2⟩) hs, ?val, ?park, ?pc,
      (hmem.trans (.modMe _ _)).trans (.modMe _ _)⟩
    case val => rw [State.me_parkOn, State.me_mark]; exact spawning_val
    case park => rw [State.me_parkOn]; rfl
    case pc => rw [State.me_parkOn, State.me_mark, hsp, State.me_modMe]
  case answered =>
    have hok := (recAddrOk_iff _).mpr ⟨h1, h2⟩
    exact ⟨fun b => tspawn_badRecord hgd hm hok ho hr ht, tspawn_full hgd hm hok ho hr ht, tspawn_enqueues hgd hm hok ho hr ht⟩

end Sys2Proof.Machine
end

section
/-!
PROOFS. Barriers (R89, R90): arrivals, the wait, and what an acquire leaves (O24).
-/

namespace Sys2Proof.Machine

/-! ### An acquire (R113) -/

/-- A fold keeps what each of its steps keeps. -/
theorem foldl_keeps {α β : Type} (π : State → β) {f : State → α → State} (hf : ∀ s a, π (f s a) = π s) (l : List α) (s : State) :
    π (l.foldl f s) = π s := by
  induction l generalizing s with
  | nil => rfl
  | cons a l ih => rw [List.foldl_cons, ih, hf]

theorem foldl_modMe {α : Type} {f : State → α → State} {h : Ctx → Ctx} (hf : ∀ s a, f (s.modMe h) a = (f s a).modMe h) (l : List α)
    (s : State) : l.foldl f (s.modMe h) = (l.foldl f s).modMe h := by
  induction l generalizing s with
  | nil => rfl
  | cons a l ih => rw [List.foldl_cons, hf, ih, List.foldl_cons]

theorem State.me_modCore (s : State) (c : Nat) {f : Core → Core} (hf : ∀ k, (f k).ctxs = k.ctxs) : (s.modCore c f).me = s.me :=
  State.core_modCore_keeps (fun k : Core => k.ctx s.cur.2) (fun k => by rw [Core.ctx, hf, Core.ctx]) s c s.cur.1

theorem State.me_discard (s : State) (c : Nat) (p : Line → Bool) : (s.discard c p).me = s.me := s.me_modCore c (fun _ => rfl)

theorem State.discard_modMe (s : State) (c : Nat) (p : Line → Bool) (h : Ctx → Ctx) :
    (s.modMe h).discard c p = (s.discard c p).modMe h := s.modMe_modCore c h (fun _ _ _ => rfl) (fun _ => rfl)

theorem State.me_acquire (s : State) (c : Nat) (sc : Scope) : (s.acquire c sc).me = s.me := by
  have h1 : ∀ u : State, (if sc = .tile then u else u.discard c (fun l => l.loc)).me = u.me := fun u => by
    split
    · rfl
    · exact u.me_discard ..
  have h2 : ∀ u : State, (if u.widerThanCache c sc then
      (u.cacheCores c).foldl (fun s k => s.discard k (fun l => !l.dirty && !l.loc)) u else u).me = u.me := fun u => by
    split
    · exact foldl_keeps State.me (fun s k => s.me_discard ..) _ u
    · rfl
  unfold State.acquire
  simp only
  split
  · rw [State.me_modCore _ c (by intros; rfl), h2, h1]
  · rw [h2, h1]

theorem SamePlace.acquire (s : State) (c : Nat) (sc : Scope) : SamePlace s (s.acquire c sc) := by
  have h := s.me_acquire c sc
  exact ⟨congrArg Ctx.level h, congrArg Ctx.dbgctl h, congrArg Ctx.pc h⟩

section
variable (s : State) (h : Ctx → Ctx)

theorem State.cacheCores_modMe (c : Nat) : (s.modMe h).cacheCores c = s.cacheCores c := by
  rw [State.modMe, State.modCtx, State.cacheCores, State.core_setCtx_keeps Core.pool (fun _ _ _ => rfl), State.gangCores_setCtx, State.cacheCores]

theorem State.widerThanCache_modMe (c : Nat) (sc : Scope) : (s.modMe h).widerThanCache c sc = s.widerThanCache c sc := by
  have hp : ((s.modMe h).core c).pool = (s.core c).pool := State.core_setCtx_keeps Core.pool (fun _ _ _ => rfl) ..
  cases sc with
  | gang => simp only [State.widerThanCache, hp]
  | tile | dev | dom => rfl

theorem State.taskOf_modMe (c : Nat) : (s.modMe h).taskOf c = s.taskOf c := State.taskOf_setCtx ..

theorem State.barrierOf_modMe (c : Nat) (k : BarKind) : (s.modMe h).barrierOf c k = s.barrierOf c k := by
  cases k with
  | tile => exact State.bar_setCtx ..
  | gang =>
    rw [State.barrierOf, State.taskOf_modMe, State.modMe, State.modCtx, State.bar_setCtx]
    rfl

theorem State.acquire_modMe (c : Nat) (sc : Scope) : (s.modMe h).acquire c sc = (s.acquire c sc).modMe h := by
  have h1 : ∀ u : State, (if sc = .tile then u.modMe h else (u.modMe h).discard c (fun l => l.loc)) =
      (if sc = .tile then u else u.discard c (fun l => l.loc)).modMe h := fun u => by
    split
    · rfl
    · exact u.discard_modMe ..
  have h2 : ∀ u : State, (if (u.modMe h).widerThanCache c sc then
      ((u.modMe h).cacheCores c).foldl (fun s k => s.discard k (fun l => !l.dirty && !l.loc)) (u.modMe h) else u.modMe h) =
      (if u.widerThanCache c sc then (u.cacheCores c).foldl (fun s k => s.discard k (fun l => !l.dirty && !l.loc)) u else u).modMe h := fun u => by
    rw [State.widerThanCache_modMe, State.cacheCores_modMe]
    split
    · exact foldl_modMe (fun s k => s.discard_modMe ..) _ u
    · rfl
  unfold State.acquire
  simp only [h1, h2]
  split
  · exact State.modMe_modCore _ c h (by intros; rfl) (by intros; rfl)
  · rfl

end

/-! ### The barrier that a core's contexts meet at -/

theorem task_modTask (p : Part) (id j : Nat) {f : Task → Task} (hf : ∀ t, (f t).id = t.id) :
    (p.modTask id f).task j = (p.task j).map (fun t => if t.id = id then f t else t) := by
  have hid : ∀ t : Task, (if t.id = id then f t else t).id = t.id := fun t => by
    split
    · exact hf t
    · rfl
  rw [Part.task, Part.modTask, List.find?_map]
  congr 2
  funext t
  simp only [Function.comp, hid]

theorem taskOf_id {s : State} {c : Nat} {t : Task} (h : s.taskOf c = some t) : t.id = (s.core c).taskId := by
  simpa using List.find?_some h

section
variable (s : State) (c : Nat) (k : BarKind) (f : Barrier → Barrier)

/-- An update of a barrier is one of a task or of a core. -/
theorem modBarrier_cases :
    (∃ t, k = .gang ∧ s.taskOf c = some t ∧
      s.modBarrier c k f = s.modPart (s.tilePart c) (fun p => p.modTask t.id (fun t => { t with gbar := f t.gbar }))) ∨
    (s.barrierOf c k = (s.core c).bar ∧ (k = .gang → s.taskOf c = none) ∧
      s.modBarrier c k f = s.modCore c (fun k => { k with bar := f k.bar })) := by
  cases k with
  | tile => exact .inr ⟨rfl, nofun, rfl⟩
  | gang =>
    cases ht : s.taskOf c with
    | none => exact .inr ⟨by simp [State.barrierOf, ht], fun _ => rfl, by simp [State.modBarrier, ht]⟩
    | some t => exact .inl ⟨t, rfl, rfl, by simp [State.modBarrier, ht]⟩

theorem taskOf_modGang {t : Task} (ht : s.taskOf c = some t) :
    (s.modPart (s.tilePart c) (fun p => p.modTask t.id (fun t => { t with gbar := f t.gbar }))).taskOf c = some { t with gbar := f t.gbar } := by
  have htask : (s.part (s.tilePart c)).task (s.core c).taskId = some t := ht
  rw [State.taskOf, State.tilePart_modPart s _ (fun p => p.modTask _ _) (fun _ => rfl) (fun _ => rfl), State.part_modPart_same,
    task_modTask _ _ _ (by intros; rfl), State.core_modPart, htask]
  simp

theorem barrierOf_modBarrier : (s.modBarrier c k f).barrierOf c k = f (s.barrierOf c k) := by
  rcases modBarrier_cases s c k f with ⟨t, rfl, ht, h⟩ | ⟨hb, hn, h⟩
  · simp [h, State.barrierOf, taskOf_modGang s c f ht, ht]
  · have hbar : ((s.modCore c (fun k => { k with bar := f k.bar })).core c).bar = f (s.core c).bar := by rw [State.core_modCore_same]
    rw [h, hb]
    cases k with
    | tile => exact hbar
    | gang => rw [State.barrierOf, State.taskOf_modCore (f := fun k => { k with bar := f k.bar }) (fun _ => rfl), hn rfl]; exact hbar

theorem modBarrier_cur : (s.modBarrier c k f).cur = s.cur := by
  rcases modBarrier_cases s c k f with ⟨t, -, -, h⟩ | ⟨-, -, h⟩ <;> rw [h] <;> rfl

theorem SamePlace.modBarrier : SamePlace s (s.modBarrier c k f) := by
  rcases modBarrier_cases s c k f with ⟨t, -, -, h⟩ | ⟨-, -, h⟩
  · rw [h]; exact (SamePlace.refl s).modPart _ _
  · have hme : (s.modBarrier c k f).me = s.me := by rw [h]; exact s.me_modCore c (fun _ => rfl)
    exact ⟨congrArg Ctx.level hme, congrArg Ctx.dbgctl hme, congrArg Ctx.pc hme⟩

theorem SameMemory.modBarrier : SameMemory s (s.modBarrier c k f) := by
  rcases modBarrier_cases s c k f with ⟨t, -, -, h⟩ | ⟨-, -, h⟩
  · rw [h]; exact .modPart s _ _ (fun _ => rfl)
  · rw [h]; exact .modCore s _ _ (fun _ => rfl)

theorem modBarrier_modMe (h : Ctx → Ctx) : (s.modMe h).modBarrier c k f = (s.modBarrier c k f).modMe h := by
  have hcore := s.modMe_modCore c h (g := fun k => { k with bar := f k.bar }) (fun _ _ _ => rfl) (fun _ => rfl)
  unfold State.modBarrier
  rw [State.taskOf_modMe]
  split
  · rfl
  · exact hcore

end

/-! ### BAR -/

/-- The end of a release: its lines are back, or there were none. -/
theorem release_ended {s : State} {sc : Scope} (h2 : s.me.phase.step = 2) (hd : sc ≠ .dom)
    (hw : s.widerThanCache s.cur.1 sc = false ∨ s.writesDone s.cur.1 s.cur.2 s.me.phase.mark = true) (k : State → Res) :
    s.release sc k = k (s.mark 3) := by
  have h : (s.widerThanCache s.cur.1 sc && !s.writesDone s.cur.1 s.cur.2 s.me.phase.mark) = false := by
    rcases hw with hw | hw <;> simp [hw]
  simp [State.release, State.releaseEnd, h2, h, hd]

/-- What a BAR comes to in a generation of its barrier. -/
def State.meet (s : State) (sc : BarScope) (c gen : Nat) : Res :=
  if gen < (s.barrierOf c (barKind sc)).gen then .done (s.acquire c (barScope sc))
  else match (s.barrierOf c (barKind sc)).aborted with
    | some r => .trap Cause.barrierAborted (w64 r.1) (w64 r.2) s
    | none => .park (.barrier (barKind sc) gen) s

/-- The arrival of the issuing thread. -/
def State.arriving (s : State) (sc : BarScope) : State :=
  s.modBarrier s.cur.1 (barKind sc) (fun b => b.arrive (s.gangWide s.cur.1 s.cur.2) (s.barWidth s.cur.1 (barKind sc)))

/-- The issuing thread waits in a generation. -/
def State.inGeneration (s : State) (gen : Nat) : State := s.modMe (fun t => { t with phase := ⟨4, 0, [], [], w64 gen, none, []⟩ })

/-- What a BAR does once its release is over. -/
def State.arriveAt (s : State) (sc : BarScope) (c gen : Nat) : Res :=
  ((s.modBarrier c (barKind sc) (fun b => b.arrive (s.gangWide c s.cur.2) (s.barWidth c (barKind sc)))).inGeneration gen).meet sc c gen

/-- BAR: in a generation already, or by its release an arrival. -/
theorem bar_eq (s : State) (g : Guard) (sc : BarScope) : exec (.bar g sc) s = s.run (.bar g sc) 8 g [] (fun s =>
    if s.out then s.meet sc s.cur.1 s.me.phase.val.toNat
    else match (s.barrierOf s.cur.1 (barKind sc)).refused with
      | some r => .trap Cause.barrierAborted (w64 r.1) (w64 r.2) s
      | none => s.release (barScope sc) (fun u => u.arriveAt sc s.cur.1 (u.barrierOf s.cur.1 (barKind sc)).gen)) := rfl

theorem arriving_modMe (s : State) (h : Ctx → Ctx) (sc : BarScope) : (s.modMe h).arriving sc = (s.arriving sc).modMe h := by
  have hw : (s.modMe h).gangWide s.cur.1 s.cur.2 = s.gangWide s.cur.1 s.cur.2 := State.gangWide_setCtx ..
  have hn : (s.modMe h).barWidth s.cur.1 (barKind sc) = s.barWidth s.cur.1 (barKind sc) := by
    have ht : (s.modMe h).threadCount s.cur.1 = s.threadCount s.cur.1 := State.threadCount_setCtx ..
    have hg : ((s.modMe h).core s.cur.1).gangSize = (s.core s.cur.1).gangSize := State.core_setCtx_keeps Core.gangSize (fun _ _ _ => rfl) ..
    cases barKind sc <;> simp only [State.barWidth, ht, hg]
  have hc : (s.modMe h).cur = s.cur := rfl
  rw [State.arriving, hc, hw, hn, modBarrier_modMe, State.arriving]

theorem arriving_barrier (s : State) (sc : BarScope) : (s.arriving sc).barrierOf s.cur.1 (barKind sc) =
    (s.barrierOf s.cur.1 (barKind sc)).arrive (s.gangWide s.cur.1 s.cur.2) (s.barWidth s.cur.1 (barKind sc)) := barrierOf_modBarrier ..

section
variable {s : State} {g : Guard} {sc : BarScope} (hgd : s.guard g = true)
include hgd

/-- A new BAR at a barrier that was aborted. -/
theorem bar_refused {r : Nat × Nat} (ho : s.out = false) (hr : (s.barrierOf s.cur.1 (barKind sc)).refused = some r) :
    Traps (.bar g sc) s Cause.barrierAborted (w64 r.1) (w64 r.2) :=
  traps_of (bar_eq s g sc) hgd rfl (by simp only [ho, hr]; rfl)

section
variable (ho : s.out = true)
include ho

/-- A thread whose generation is over. -/
theorem bar_over (h : s.me.phase.val.toNat < (s.barrierOf s.cur.1 (barKind sc)).gen) :
    RunsWith (.bar g sc) s (s.acquire s.cur.1 (barScope sc)) 8 [] {} := by
  have hs := SamePlace.acquire s s.cur.1 (barScope sc)
  exact runs_with_0 (bar_eq s g sc) rfl hgd rfl (by simp only [ho, State.meet, h, if_true]) hs.level hs.dbgctl hs.pc

variable (h : (s.barrierOf s.cur.1 (barKind sc)).gen ≤ s.me.phase.val.toNat)
include h

/-- A thread whose generation was aborted. -/
theorem bar_aborted {r : Nat × Nat} (hr : (s.barrierOf s.cur.1 (barKind sc)).aborted = some r) :
    Traps (.bar g sc) s Cause.barrierAborted (w64 r.1) (w64 r.2) :=
  traps_of (bar_eq s g sc) hgd rfl (by simp only [ho, State.meet, Nat.not_lt.mpr h, hr, if_true, if_false])

/-- A thread whose generation goes on. -/
theorem bar_waits (hr : (s.barrierOf s.cur.1 (barKind sc)).aborted = none) :
    Parks (.bar g sc) s (.barrier (barKind sc) s.me.phase.val.toNat) :=
  exec_park (bar_eq s g sc) hgd rfl (by simp only [ho, State.meet, Nat.not_lt.mpr h, hr, if_true, if_false])

end

section
variable (ho : s.out = false) (hr : (s.barrierOf s.cur.1 (barKind sc)).refused = none)
  (hrel : ∀ k, s.release (barScope sc) k = k (s.mark 3))
include ho hr hrel

omit hgd in
/-- A BAR whose release is over arrives in the present generation. -/
theorem bar_arrives : ∃ eff, exec (.bar g sc) s = s.run (.bar g sc) 8 g [] eff ∧
    eff s = ((s.arriving sc).inGeneration (s.barrierOf s.cur.1 (barKind sc)).gen).meet sc s.cur.1 (s.barrierOf s.cur.1 (barKind sc)).gen := by
  refine ⟨_, bar_eq s g sc, ?_⟩
  have hb : (s.mark 3).barrierOf s.cur.1 (barKind sc) = s.barrierOf s.cur.1 (barKind sc) := State.barrierOf_modMe ..
  have ha : ((s.mark 3).arriving sc).inGeneration (s.barrierOf s.cur.1 (barKind sc)).gen =
      (s.arriving sc).inGeneration (s.barrierOf s.cur.1 (barKind sc)).gen := by
    rw [State.mark, arriving_modMe, State.inGeneration, State.modMe_modMe]
    rfl
  have harr : ∀ gen, (s.mark 3).arriveAt sc s.cur.1 gen = (((s.mark 3).arriving sc).inGeneration gen).meet sc s.cur.1 gen := fun _ => rfl
  simp only [ho, hr, hrel, hb, harr, ha]
  rfl

/-- The last arrival starts the next generation and goes on. -/
theorem bar_last (hn : s.barWidth s.cur.1 (barKind sc) ≤ (s.barrierOf s.cur.1 (barKind sc)).arrived.length + 1) :
    RunsWith (.bar g sc) s ((s.arriving sc).acquire s.cur.1 (barScope sc)) 8 [] {} := by
  obtain ⟨eff, hx, he⟩ := bar_arrives (g := g) ho hr hrel
  have hs := (SamePlace.modBarrier ..).trans (SamePlace.acquire (s.arriving sc) s.cur.1 (barScope sc))
  have hgen : (s.barrierOf s.cur.1 (barKind sc)).gen <
      (((s.arriving sc).inGeneration (s.barrierOf s.cur.1 (barKind sc)).gen).barrierOf s.cur.1 (barKind sc)).gen := by
    rw [State.inGeneration, State.barrierOf_modMe, arriving_barrier, Barrier.arrive, if_pos hn]
    exact Nat.lt_succ_self _
  rw [State.meet, if_pos hgen, State.inGeneration, State.acquire_modMe] at he
  exact run_with hx hgd rfl he hs.level hs.dbgctl hs.pc ((Applied.refl _).aside (fun _ _ => rfl)) (fun _ _ => rfl) (fun _ => rfl)

/-- An earlier arrival parks in the generation. -/
theorem bar_early (hn : (s.barrierOf s.cur.1 (barKind sc)).arrived.length + 1 < s.barWidth s.cur.1 (barKind sc)) :
    exec (.bar g sc) s = .next (((s.arriving sc).inGeneration (s.barrierOf s.cur.1 (barKind sc)).gen).parkOn (.bar g sc)
      (.barrier (barKind sc) (s.barrierOf s.cur.1 (barKind sc)).gen)) := by
  obtain ⟨eff, hx, he⟩ := bar_arrives (g := g) ho hr hrel
  have hb : ((s.arriving sc).inGeneration (s.barrierOf s.cur.1 (barKind sc)).gen).barrierOf s.cur.1 (barKind sc) =
      { s.barrierOf s.cur.1 (barKind sc) with
        arrived := (s.barrierOf s.cur.1 (barKind sc)).arrived ++ [s.gangWide s.cur.1 s.cur.2] } := by
    rw [State.inGeneration, State.barrierOf_modMe, arriving_barrier, Barrier.arrive, if_neg (Nat.not_le.mpr hn)]
  have ha : (s.barrierOf s.cur.1 (barKind sc)).aborted = none := (Option.or_eq_none_iff.mp hr).1
  refine exec_park hx hgd rfl (he.trans ?_)
  simp only [State.meet, hb, ha, Nat.lt_irrefl, if_false]

end

end

theorem acquire_tile (s : State) (c : Nat) : s.acquire c .tile = s := rfl

theorem arriving_tile (s : State) {b : Barrier} (h : s.myCore.bar.arrive (s.gangWide s.cur.1 s.cur.2) (s.threadCount s.cur.1) = b) :
    s.arriving .tile = s.modMyCore (fun k => { k with bar := b }) := by
  subst h
  rfl

/-- The barrier after an arrival that is not the last. -/
theorem arrive_early {b : Barrier} {idx width : Nat} (ha : b.aborted = none) (hb : b.barred = none) (hn : b.arrived.length + 1 < width) :
    b.arrive idx width = ⟨b.gen, b.arrived ++ [idx], none, none⟩ := by
  rw [Barrier.arrive, if_neg (Nat.not_le.mpr hn), ha, hb]

/-- The barrier after the last arrival of a generation. -/
theorem arrive_last {b : Barrier} {idx width : Nat} (ha : b.aborted = none) (hb : b.barred = none) (hn : width ≤ b.arrived.length + 1) :
    b.arrive idx width = ⟨b.gen + 1, [], none, none⟩ := by
  rw [Barrier.arrive, if_pos hn, ha, hb]

section
variable (s : State) (g : Guard) (sc : BarScope) (gen : Nat)

/-- The state of an early arrival. -/
def State.early : State := ((s.arriving sc).inGeneration gen).parkOn (.bar g sc) (.barrier (barKind sc) gen)

theorem early_barrierOf (c : Nat) (k : BarKind) : (s.early g sc gen).barrierOf c k = (s.arriving sc).barrierOf c k := by
  rw [State.early, State.parkOn, State.barrierOf_modMe, State.inGeneration, State.barrierOf_modMe]

theorem early_me : (s.early g sc gen).me.park.map (fun p => p.w) = some (.barrier (barKind sc) gen) ∧ (s.early g sc gen).me.pc = s.me.pc := by
  have hpc : (s.arriving sc).me.pc = s.me.pc := (SamePlace.modBarrier ..).pc
  rw [State.early, State.me_parkOn, State.inGeneration, State.me_modMe]
  exact ⟨rfl, hpc⟩

theorem early_memory : SameMemory s (s.early g sc gen) := by
  have h : SameMemory s (s.arriving sc) := .modBarrier ..
  rw [State.early, State.parkOn, State.inGeneration]
  exact (h.trans (.modMe _ _)).trans (.modMe _ _)

/-- An arrival that is not the last leaves the generation of the tile's own barrier. -/
theorem early_bar_gen (h : ((s.arriving sc).barrierOf s.cur.1 (barKind sc)).gen = (s.barrierOf s.cur.1 (barKind sc)).gen) :
    (s.early g sc gen).myCore.bar.gen = s.myCore.bar.gen := by
  have hearly := early_barrierOf s g sc gen s.cur.1 .tile
  rw [arriving_barrier] at h
  rcases modBarrier_cases s s.cur.1 (barKind sc) (fun b => b.arrive (s.gangWide s.cur.1 s.cur.2) (s.barWidth s.cur.1 (barKind sc)))
    with ⟨t, -, -, he⟩ | ⟨hb, -, he⟩
  · have hcur : (s.early g sc gen).cur = s.cur := modBarrier_cur s s.cur.1 (barKind sc) _
    rw [State.arriving, he] at hearly
    rw [State.myCore, hcur]
    exact congrArg Barrier.gen hearly
  · have hcur : (s.early g sc gen).cur = s.cur := modBarrier_cur s s.cur.1 (barKind sc) _
    have hbar : (s.arriving sc).barrierOf s.cur.1 .tile =
        s.myCore.bar.arrive (s.gangWide s.cur.1 s.cur.2) (s.barWidth s.cur.1 (barKind sc)) := by
      rw [State.arriving, he, State.barrierOf, State.core_modCore_same, State.myCore]
    rw [hb] at h
    rw [hbar] at hearly
    rw [State.myCore, hcur]
    exact (congrArg Barrier.gen hearly).trans h

end

/-- Settles O24: a BAR refused, in its generation, and at its arrival. -/
theorem barriersMeet : Obligations.BarriersMeet := by
  intro s g sc hgd k b t
  refine ⟨fun r ho hr => bar_refused hgd ho hr, fun ho => bar_over hgd ho, fun r ho h hr => bar_aborted hgd ho h hr,
    fun ho h hr => bar_waits hgd ho h hr, fun h0 hs ha hb => ?tile, fun h2 hk ha hb hw => ?gang⟩
  case tile =>
    have ho : s.out = false := by simp [State.out, h0]
    have hrel : ∀ k, s.release (barScope .tile) k = k (s.mark 3) := fun k => release_tile h0 hs
    have hr : (s.barrierOf s.cur.1 (barKind .tile)).refused = none := Option.or_eq_none_iff.mpr ⟨ha, hb⟩
    refine ⟨fun hn => ?last, fun hn => ?early⟩
    case last =>
      have h := bar_last (g := g) hgd ho hr hrel hn
      rw [arriving_tile s (arrive_last ha hb hn)] at h
      exact h
    case early =>
      obtain ⟨hp, hpc⟩ := early_me s g .tile t.gen
      have hbar := (arriving_barrier s .tile).trans (arrive_early ha hb hn)
      exact ⟨_, bar_early hgd ho hr hrel hn, (early_barrierOf ..).trans hbar, hp, hpc, early_memory ..⟩
  case gang =>
    intro n u
    have ho : s.out = false := by simp [State.out, h2]
    have hdom : barScope sc ≠ .dom := by cases sc <;> nofun
    have hkk : barKind sc = .gang := hk
    have hrel : ∀ k, s.release (barScope sc) k = k (s.mark 3) := release_ended h2 hdom hw
    have hr : (s.barrierOf s.cur.1 (barKind sc)).refused = none := Option.or_eq_none_iff.mpr ⟨ha, hb⟩
    have hwidth : s.barWidth s.cur.1 (barKind sc) = n := by rw [hkk]; rfl
    have hu : u = s.arriving sc := by rw [State.arriving, hkk]; rfl
    have hbar := arriving_barrier s sc
    refine ⟨fun hn => ?last, fun hn => ?early⟩
    case last =>
      have hl : s.barWidth s.cur.1 (barKind sc) ≤ (s.barrierOf s.cur.1 (barKind sc)).arrived.length + 1 := by rw [hwidth]; exact hn
      rw [arrive_last ha hb hl, hkk] at hbar
      rw [hu]
      exact ⟨bar_last hgd ho hr hrel hl, hbar⟩
    case early =>
      have hl : (s.barrierOf s.cur.1 (barKind sc)).arrived.length + 1 < s.barWidth s.cur.1 (barKind sc) := by rw [hwidth]; exact hn
      rw [arrive_early ha hb hl] at hbar
      obtain ⟨hp, hpc⟩ := early_me s g sc b.gen
      refine ⟨_, bar_early hgd ho hr hrel hl, ?_, early_bar_gen s g sc b.gen (by rw [hbar]), ?_, hpc, early_memory ..⟩
      · have h := (early_barrierOf s g sc b.gen s.cur.1 (barKind sc)).trans hbar
        rw [hkk] at h
        exact h
      · rw [hkk] at hp
        exact hp

end Sys2Proof.Machine
end

section
/-!
PROOFS. What a home slice serves changes only the replies of the threads (R105, R350): the layer that a write of SHOLD needs (O42).
-/

namespace Sys2Proof.Machine

/-- A context without its replies. -/
def Ctx.unanswered (t : Ctx) : Ctx := { t with replies := [] }

/-- The issuing context is the same, and of every context all but its replies. -/
structure OnlyReplies (s t : State) : Prop where
  cur : t.cur = s.cur
  ctx : ∀ c x, (t.ctx c x).unanswered = (s.ctx c x).unanswered

theorem OnlyReplies.refl (s : State) : OnlyReplies s s := ⟨rfl, fun _ _ => rfl⟩

theorem OnlyReplies.trans {s t u : State} (h : OnlyReplies s t) (k : OnlyReplies t u) : OnlyReplies s u :=
  ⟨k.cur.trans h.cur, fun c x => (k.ctx c x).trans (h.ctx c x)⟩

/-- The issuing thread stays where it is. -/
theorem OnlyReplies.samePlace {s t : State} (h : OnlyReplies s t) : SamePlace s t := by
  have hme : t.me.unanswered = s.me.unanswered := by rw [State.me, h.cur]; exact h.ctx _ _
  have hl := congrArg Ctx.level hme
  have hd := congrArg Ctx.dbgctl hme
  have hp := congrArg Ctx.pc hme
  exact ⟨hl, hd, hp⟩

theorem OnlyReplies.ite {p : Prop} [Decidable p] {s t u : State} (ht : OnlyReplies s t) (hu : OnlyReplies s u) :
    OnlyReplies s (if p then t else u) := by
  split
  · exact ht
  · exact hu

/-- A step outside the cores. -/
theorem OnlyReplies.of_cores {s t : State} (hc : t.cores = s.cores) (hu : t.cur = s.cur) : OnlyReplies s t :=
  ⟨hu, fun c x => by simp only [State.ctx, State.core, hc]⟩

theorem OnlyReplies.modCore (s : State) (c : Nat) {f : Core → Core} (hf : ∀ k, (f k).ctxs = k.ctxs) : OnlyReplies s (s.modCore c f) :=
  ⟨rfl, fun d x => congrArg Ctx.unanswered
    (State.core_modCore_keeps (fun k : Core => k.ctx x) (fun k => by rw [Core.ctx, hf, Core.ctx]) s c d)⟩

theorem OnlyReplies.foldl {α : Type} (l : List α) {f : State → α → State} (hf : ∀ s a, OnlyReplies s (f s a)) (s : State) :
    OnlyReplies s (l.foldl f s) := by
  induction l generalizing s with
  | nil => exact .refl s
  | cons a l ih => exact (hf s a).trans (ih _)

/-! ### Deliveries -/

theorem OnlyReplies.answer (s : State) (c x : Nat) (r : Reply) : OnlyReplies s (s.answer c x r) := by
  unfold State.answer
  split
  · refine ⟨rfl, fun d y => ?_⟩
    by_cases h : d = c ∧ y = x
    · obtain ⟨rfl, rfl⟩ := h; rw [State.ctx_modCtx_same]; rfl
    · rw [State.ctx_modCtx_ne s c x d y _ (by tauto)]
  · exact .refl s

theorem OnlyReplies.sendBack (s : State) (c : Nat) (l : Line) : OnlyReplies s (s.sendBack c l) := by
  unfold State.sendBack State.sendBackFor
  exact .ite (.refl s) (.of_cores rfl rfl)

theorem OnlyReplies.install (s : State) (c : Nat) (l : Line) : OnlyReplies s (s.install c l) := by
  have hn : OnlyReplies s s.freeNext := .of_cores rfl rfl
  unfold State.install
  refine .ite (.refl s) (.ite (.modCore s c (fun _ => rfl)) (.trans ?_ (.modCore _ c (fun _ => rfl))))
  exact .ite (hn.trans (.sendBack _ c _)) hn

theorem OnlyReplies.deliver (s : State) (m : Msg) (data : List Byte) (poison : Bool) (pd : List Byte) :
    OnlyReplies s (s.deliver m data poison pd) := by
  unfold State.deliver
  split
  · exact (OnlyReplies.install s _ _).trans (.answer ..)
  · exact .answer ..

theorem OnlyReplies.respond (s : State) (m : Msg) (data : List Byte) (poison : Bool) (pd : List Byte) (pz : Bool) :
    OnlyReplies s (s.respond m data poison pd pz) := by
  unfold State.respond
  exact .ite (.deliver ..) (.of_cores rfl rfl)

/-! ### At the home slices -/

theorem OnlyReplies.modSlice (s : State) (n : Nat) (f : Slice → Slice) : OnlyReplies s (s.modSlice n f) := .of_cores rfl rfl
theorem OnlyReplies.modPart (s : State) (p : Nat) (f : Part → Part) : OnlyReplies s (s.modPart p f) := .of_cores rfl rfl
theorem OnlyReplies.touch (s : State) (n sb : Nat) : OnlyReplies s (s.touch n sb) := .of_cores rfl rfl

theorem OnlyReplies.putPiece (s : State) (n sb : Nat) (data : List Byte) (dirty poison : Bool) :
    OnlyReplies s (s.putPiece n sb data dirty poison) := .modSlice ..

theorem OnlyReplies.toStack (s : State) (n sb : Nat) (data : List Byte) (poison sweep : Bool) : OnlyReplies s (s.toStack n sb data poison sweep) := by
  unfold State.toStack
  simp only
  refine .trans ?_ (.modSlice ..)
  exact .ite (.refl s) (.of_cores rfl rfl)

theorem OnlyReplies.flushTag (s : State) (n : Nat) (t : Tag) (sweep : Bool) : OnlyReplies s (s.flushTag n t sweep) :=
  .foldl _ (fun s _ => .toStack s ..) s

theorem OnlyReplies.ensureTag {s t : State} {n pa sb : Nat} (h : s.ensureTag n pa sb = some t) : OnlyReplies s t := by
  unfold State.ensureTag at h
  simp only at h
  split at h
  · cases h; exact .refl s
  · split at h
    · cases h; exact .modSlice ..
    · split at h
      · cases h
      · split at h
        · cases h; exact (OnlyReplies.flushTag s n _ false).trans ((OnlyReplies.modSlice ..).trans (.modSlice ..))
        · cases h

theorem OnlyReplies.putSys (s : State) (sb : Nat) (data : List Byte) (poison : Bool) : OnlyReplies s (s.putSys sb data poison) := by
  unfold State.putSys
  split
  · exact .refl s
  · exact .modPart ..

theorem OnlyReplies.stamp (s : State) (stack sb : Nat) (data : List Byte) (poison : Bool) (w : Option Msg) :
    OnlyReplies s (s.stamp stack sb data poison w) := by
  unfold State.stamp
  simp only
  refine OnlyReplies.trans ?_ (OnlyReplies.foldl _ (fun s e => ?_) _)
  · exact .of_cores rfl rfl
  · exact .ite (.refl s) (.of_cores rfl rfl)

theorem OnlyReplies.applyUnit {s t : State} {n part pa : Nat} {p : SPlace} {cells : List Host.Cell} {poison clr : Bool} {w : Option Msg}
    (h : s.applyUnit n part pa p cells poison clr w = some t) : OnlyReplies s t := by
  unfold State.applyUnit at h
  simp only at h
  split at h
  · cases h
  · obtain ⟨u, hu, rfl⟩ := Option.map_eq_some_iff.mp h
    refine (OnlyReplies.ensureTag hu).trans (.trans (.trans ?_ (.putPiece ..)) (.stamp ..))
    exact .ite (.putSys ..) (.modPart ..)

theorem OnlyReplies.perform {s t : State} {m : Msg} (h : s.perform m = some t) : OnlyReplies s t := by
  unfold State.perform at h
  simp only at h
  split at h
  · exact .applyUnit h
  · cases h; exact (OnlyReplies.touch ..).trans (.respond ..)
  · cases h; exact (OnlyReplies.touch ..).trans (.respond ..)
  · split at h
    · cases h; exact (OnlyReplies.touch ..).trans (.respond ..)
    · obtain ⟨u, hu, rfl⟩ := Option.map_eq_some_iff.mp h
      exact (OnlyReplies.applyUnit hu).trans (.respond ..)
  · cases h

theorem OnlyReplies.serveHere {s t : State} {m : Msg} (h : s.serveHere m = some t) : OnlyReplies s t := by
  unfold State.serveHere at h
  simp only at h
  split_ifs at h
  case pos => exact .perform h
  case pos => cases h; exact .modSlice ..
  case neg =>
    obtain ⟨u, hu, rfl⟩ := Option.map_eq_some_iff.mp h
    exact (OnlyReplies.perform hu).trans (.modSlice ..)

theorem OnlyReplies.serve {s t : State} {m : Msg} (h : s.serve m = some t) : OnlyReplies s t := by
  unfold State.serve at h
  simp only at h
  split at h
  · exact .serveHere h
  · cases h; exact .of_cores rfl rfl

theorem OnlyReplies.serveAll (n : Nat) (ms : List Msg) (s : State) : OnlyReplies s (s.serveAll n ms) := by
  induction ms generalizing s with
  | nil => exact .refl s
  | cons m ms ih =>
    rw [State.serveAll]
    split
    · next t h => exact (OnlyReplies.serve h).trans (ih t)
    · exact .trans (.ite (.modPart ..) (.refl s)) (.modSlice ..)

theorem OnlyReplies.drainQueue (s : State) (n : Nat) : OnlyReplies s (s.drainQueue n) := by
  unfold State.drainQueue
  exact .ite (.refl s) ((OnlyReplies.modSlice ..).trans (.serveAll ..))

/-- A write of a slice register changes only replies of the threads. -/
theorem OnlyReplies.scfgWrite (s : State) (p n i : Nat) (v : Word) : OnlyReplies s (s.scfgWrite p n i v) := by
  unfold State.scfgWrite
  simp only
  split
  · unfold State.setHold State.serveQueue
    exact .ite (.modSlice ..) ((OnlyReplies.modSlice ..).trans (.drainQueue ..))
  · exact .modSlice ..
  · exact .of_cores rfl rfl
  · unfold State.arm
    exact .ite (.of_cores rfl rfl) (.of_cores rfl rfl)
  · exact .ite (.of_cores rfl rfl) (.refl s)

end Sys2Proof.Machine
end

section
/-!
PROOFS. Slice registers and ranges (R262, R263): the part of O42 that SCFGR, SCFGW, CWBR and SLINV have.
-/

namespace Sys2Proof.Machine

/-! ### Slice registers (R262) -/

section
variable {s : State} {i j : Instr} {size : Nat} {g : Guard} {os : List Opnd} {eff : State → Res} {A : Word} {idx : Nat}

/-- An instruction that raises what SCFGR and SCFGW check: the slice number, the half-stack, the register index. -/
theorem scfg_refused (hx : exec i s = s.run j size g os eff) (hgd : s.guard g = true) (hm : s.modsOk (condsOf os) = true)
    (he : ∀ t, s.scfgTrap A idx = some t → eff s = .raise s t) :
    (127 < A.toNat → Traps i s Cause.boundCheck A 1) ∧
    (A.toNat ≤ 127 → (s.part s.myPart).hasHalf (sliceHalf A.toNat) = false → Traps i s Cause.deckleViolation A 0) ∧
    (A.toNat ≤ 127 → (s.part s.myPart).hasHalf (sliceHalf A.toNat) = true → scfgAssigned idx = false →
      Traps i s Cause.boundCheck (w64 idx) 2) := by
  refine ⟨fun h1 => ?_, fun h1 h2 => ?_, fun h1 h2 h3 => ?_⟩
  · exact traps_of hx hgd hm (he ⟨Cause.boundCheck, A, 1⟩ (by simp [State.scfgTrap, orTrap, failIf, h1]))
  · exact traps_of hx hgd hm (he ⟨Cause.deckleViolation, A, 0⟩ (by simp [State.scfgTrap, orTrap, failIf, Nat.not_lt.mpr h1, h2]))
  · exact traps_of hx hgd hm (he ⟨Cause.boundCheck, w64 idx, 2⟩ (by simp [State.scfgTrap, orTrap, failIf, Nat.not_lt.mpr h1, h2, h3]))

theorem scfgTrap_none (h1 : A.toNat ≤ 127) (h2 : (s.part s.myPart).hasHalf (sliceHalf A.toNat) = true) (h3 : scfgAssigned idx = true) :
    s.scfgTrap A idx = none := by
  simp [State.scfgTrap, orTrap, failIf, Nat.not_lt.mpr h1, h2, h3]

end

/-- The messages that a slice has received and not yet served. -/
theorem servedTo_iff (l : Slice) (m : Nat) : l.servedTo m = true ↔ ∀ e ∈ l.mshrs ++ (if l.hold then [] else l.queue), m ≤ e.id := by
  cases h : l.hold <;> simp [Slice.servedTo, h, List.mem_append, or_imp, forall_and]

section
variable {s : State} {g : Guard} {d a b : GReg} {idx : BitVec 12} (hgd : s.guard g = true)

theorem exec_scfgr : exec (.scfgr g d a idx) s = execScfgr g d a idx s := rfl
theorem exec_scfgw : exec (.scfgw g a b idx) s = execScfgw g a b idx s := rfl

include hgd

theorem scfgr_sends (hm : s.modsOk (condsOf [.dst d, .src a]) = true) (ho : s.out = false) (ht : s.scfgTrap (s.g a) idx.toNat = none) :
    exec (.scfgr g d a idx) s = .next ((s.sent 4 [] [(s.g a).toNat]).parkOn (.scfgr g d a idx) .served) :=
  exec_park exec_scfgr hgd hm (by simp [ho, ht, State.remote])

theorem scfgr_reads (hm : s.modsOk (condsOf [.dst d, .src a]) = true) {n : Nat} (ho : s.out = true) (he : s.me.phase.eas = [n]) :
    RunsWith (.scfgr g d a idx) s s 8 [.dst d, .src a] { g := [(d, s.scfgRead n idx.toNat)] } :=
  runs_with_g exec_scfgr rfl hgd hm (by simp [ho, he, State.remote, nth]) rfl rfl rfl

theorem scfgw_sends (hm : s.modsOk (condsOf [.src a, .src b]) = true) (ho : s.out = false) (ht : s.scfgTrap (s.g a) idx.toNat = none) :
    exec (.scfgw g a b idx) s = .next ((s.sent 4 [] [(s.g a).toNat, (s.g b).toNat, s.msgCtr]).parkOn (.scfgw g a b idx) .served) :=
  exec_park exec_scfgw hgd hm (by simp [ho, ht, State.remote])

section
variable (hm : s.modsOk (condsOf [.src a, .src b]) = true) {n v m : Nat} (ho : s.out = true) (he : s.me.phase.eas = [n, v, m])
include hm ho he

theorem scfgw_writes (hs : (s.slice n).servedTo m = true) :
    RunsWith (.scfgw g a b idx) s (s.scfgWrite s.myPart n idx.toNat (w64 v)) 8 [.src a, .src b] {} := by
  have hp := (OnlyReplies.scfgWrite s s.myPart n idx.toNat (w64 v)).samePlace
  exact runs_with_0 exec_scfgw rfl hgd hm (by simp [ho, he, State.remote, nth, opAt, hs]) hp.level hp.dbgctl hp.pc

theorem scfgw_waits (hs : (s.slice n).servedTo m = false) : Parks (.scfgw g a b idx) s .served :=
  exec_park exec_scfgw hgd hm (by simp [ho, he, State.remote, nth, hs])

end

end

/-! ### The tags of the slices -/

theorem eachTag_keeps {β : Type} (π : State → β) {f : State → Nat → Tag → State} (hf : ∀ s n t, π (f s n t) = π s) (s : State) :
    π (s.eachTag f) = π s := by
  unfold State.eachTag
  exact foldl_keeps π (fun s e => foldl_keeps π (fun s t => hf s e.1 t) e.2.tags s) s.slices s

theorem OnlyReplies.eachTag {f : State → Nat → Tag → State} (hf : ∀ s n t, OnlyReplies s (f s n t)) (s : State) : OnlyReplies s (s.eachTag f) := by
  unfold State.eachTag
  exact .foldl s.slices (fun s e => .foldl e.2.tags (fun s t => hf s e.1 t) s) s

theorem foldl_fixed_of_mem {α β : Type} {f : β → α → β} {b : β} {l : List α} (hf : ∀ a ∈ l, f b a = b) : l.foldl f b = b := by
  induction l with
  | nil => rfl
  | cons a l ih => rw [List.foldl_cons, hf a List.mem_cons_self, ih (fun x hx => hf x (List.mem_cons_of_mem a hx))]

/-- A discard of a range changes nothing but slices. -/
theorem dropRange_slices (s : State) (p a len : Nat) : { s.dropRange p a len with slices := s.slices } = s :=
  eachTag_keeps (fun u : State => { u with slices := s.slices }) (fun u n t => by dsimp only; split <;> rfl) s

theorem SameMemory.dropRange (s : State) (p a len : Nat) : SameMemory s (s.dropRange p a len) := by
  have h := dropRange_slices s p a len
  have hc := congrArg State.cores h
  have hs := congrArg State.memStacks h
  have hp := congrArg State.parts h
  have hf := congrArg State.fwMem h
  have hh := congrArg State.hostMem h
  exact .of_eq (fun c => congrArg (fun cs => (tget Core.reset cs c).store) hc) hs (fun q => congrArg (fun ps => (tget Part.reset ps q).sys) hp) hf hh

theorem OnlyReplies.flushRange (s : State) (p a len : Nat) (iv : Bool) : OnlyReplies s (s.flushRange p a len iv) := by
  refine .eachTag (fun u n t => ?_) s
  dsimp only
  have written (l : List Nat) := OnlyReplies.foldl l (fun u i =>
    OnlyReplies.toStack u n (t.base + 64 * i) (tget [] t.data i) (nbit t.poison.toNat i) false) u
  refine .ite (.trans ?_ (.modSlice ..)) ?_ <;> exact .ite (written _) ((written _).trans (.modSlice ..))

/-- Where a range holds no dirty piece, there is nothing to write. -/
theorem flushRange_clean {s : State} {p a len : Nat} (h : s.dirtyIn p a len = []) : s.flushRange p a len false = s := by
  refine foldl_fixed_of_mem (fun e he => foldl_fixed_of_mem (fun t ht => ?_))
  have hd : (s.piecesIn p e.1 a len t).filter (fun i => nbit t.dirty.toNat i) = [] := by
    have he' := List.flatMap_eq_nil_iff.mp h e he
    have ht' := List.filter_eq_nil_iff.mp (List.map_eq_nil_iff.mp he') t ht
    rw [List.filter_eq_nil_iff]
    simpa using ht'
  simp [hd]

/-! ### Ranges (R263) -/

/-- An instruction that raises what CWBR and SLINV check of their range. -/
theorem range_refused {s : State} {i j : Instr} {size : Nat} {g : Guard} {os : List Opnd} {eff : State → Res} {A B : Word}
    (hx : exec i s = s.run j size g os eff) (hgd : s.guard g = true) (hm : s.modsOk (condsOf os) = true)
    (he : ∀ t, s.pieceTrap A B = some t → eff s = .raise s t) :
    (fld A 63 48 ≠ 0 → Traps i s Cause.boundCheck A 1) ∧ (fld A 63 48 = 0 → A.toNat % 64 ≠ 0 → Traps i s Cause.boundCheck A 2) ∧
    (fld A 63 48 = 0 → A.toNat % 64 = 0 → B.toNat % 64 ≠ 0 → Traps i s Cause.boundCheck B 2) ∧
    (fld A 63 48 = 0 → A.toNat % 64 = 0 → B.toNat % 64 = 0 → 2 ^ 36 < B.toNat → Traps i s Cause.boundCheck B 3) := by
  refine ⟨fun h1 => ?_, fun h1 h2 => ?_, fun h1 h2 h3 => ?_, fun h1 h2 h3 h4 => ?_⟩
  · exact traps_of hx hgd hm (he ⟨Cause.boundCheck, A, 1⟩ (by simp [State.pieceTrap, orTrap, failIf, h1]))
  · exact traps_of hx hgd hm (he ⟨Cause.boundCheck, A, 2⟩ (by simp [State.pieceTrap, orTrap, failIf, h1, h2]))
  · exact traps_of hx hgd hm (he ⟨Cause.boundCheck, B, 2⟩ (by simp [State.pieceTrap, orTrap, failIf, h1, h2, h3]))
  · have h5 : 68719476736 < B.toNat := h4
    exact traps_of hx hgd hm (he ⟨Cause.boundCheck, B, 3⟩ (by simp [State.pieceTrap, orTrap, failIf, h1, h2, h3, h5]))

/-- A range writes back nothing of a cache that holds no dirty line of it. -/
theorem writeBack_clean {s : State} {k base len : Nat}
    (h : ∀ l ∈ (s.core k).cache, l.dirty = true → l.loc = true ∨ meets base len (l.line * 64) 64 = false) :
    s.writeBack k (fun l => meets base len (l.line * 64) 64) = s := by
  have hf : (s.core k).cache.filter (fun l => l.dirty && !l.loc && meets base len (l.line * 64) 64) = [] := by
    refine List.filter_eq_nil_iff.mpr fun l hl => ?_
    cases hd : l.dirty with
    | false => simp
    | true => rcases h l hl hd with h | h <;> simp [h]
  rw [State.writeBack, hf, List.foldl_nil]

/-- The dirty pieces of a range go to their stacks, or there are none. -/
def State.flushing (s : State) (base len : Nat) (iv : Bool) : Res :=
  if (s.dirtyIn s.myPart base len).isEmpty then .done (s.flushRange s.myPart base len iv)
  else .park (.acks (s.dirtyIn s.myPart base len)) ((s.flushRange s.myPart base len iv).sent 5 [] [])

/-- A range from its start: first the stores that are on their way, then the caches, then the slices. -/
def State.cleaning (s : State) (base len : Nat) (iv : Bool) : Res :=
  if len = 0 then .done s
  else if !(s.linesOut base len).isEmpty then .park (.gone (s.linesOut base len)) (s.sent 3 [] [base, len])
  else
    let u := (s.cacheCores s.cur.1).foldl (fun s k => s.writeBack k (fun l => meets base len (l.line * 64) 64)) s
    if (u.linesOut base len).isEmpty then u.flushing base len iv
    else .park (.gone (u.linesOut base len)) (u.sent 4 (u.linesOut base len) [base, len])

/-- Base or length of a CWBR: the register at first, the number it keeps later. -/
def State.rangeNum (s : State) (r : GReg) (k : Nat) : Nat := if 3 ≤ s.me.phase.step then nth 0 s.me.phase.eas k else (s.g r).toNat

section
variable {s : State} {g : Guard} {a b : GReg} {iv : Bool}

theorem exec_slinv : exec (.slinv g a b) s = execSlinv g a b s := rfl

/-- CWBR by its phase. -/
theorem cwbr_eq : exec (.cwbr g a b iv) s = s.run (.cwbr g a b iv) 12 g [.src a, .src b] (fun s =>
    if s.me.phase.step = 5 then .done s
    else if s.me.phase.step = 4 then
      (if s.gone s.me.phase.ids then s.flushing (s.rangeNum a 0) (s.rangeNum b 1) iv else .park (.gone s.me.phase.ids) s)
    else match (if s.me.phase.step = 3 then none else s.pieceTrap (s.g a) (s.g b)) with
      | some t => .raise s t
      | none => s.cleaning (s.rangeNum a 0) (s.rangeNum b 1) iv) := rfl

variable (hgd : s.guard g = true) (hm : s.modsOk (condsOf [.src a, .src b]) = true)
include hgd hm

theorem slinv_discards (h : s.pieceTrap (s.g a) (s.g b) = none) :
    RunsWith (.slinv g a b) s (s.dropRange s.myPart (s.g a).toNat (s.g b).toNat) 12 [.src a, .src b] {} := by
  have hd := dropRange_slices s s.myPart (s.g a).toNat (s.g b).toNat
  have hcores := congrArg State.cores hd
  have hcur := congrArg State.cur hd
  have hp := (OnlyReplies.of_cores hcores hcur).samePlace
  exact runs_with_0 exec_slinv rfl hgd hm (by simp only [h]) hp.level hp.dbgctl hp.pc

theorem cwbr_acknowledged (h : s.me.phase.step = 5) : RunsWith (.cwbr g a b iv) s s 12 [.src a, .src b] {} :=
  runs_with_0 cwbr_eq rfl hgd hm (if_pos h) rfl rfl rfl

/-- A CWBR that comes to the slices, whatever its phase. -/
theorem cwbr_flushes {base len : Nat} (h : ∀ iv, ∃ eff, exec (.cwbr g a b iv) s = s.run (.cwbr g a b iv) 12 g [.src a, .src b] eff ∧
      eff s = s.flushing base len iv) :
    (s.dirtyIn s.myPart base len = [] → RunsWith (.cwbr g a b false) s s 12 [.src a, .src b] {}) ∧
    (s.dirtyIn s.myPart base len ≠ [] → Makes (.cwbr g a b iv) s (fun t =>
      t.me.park.map (fun p => p.w) = some (.acks (s.dirtyIn s.myPart base len)) ∧ t.me.phase.step = 5 ∧ t.me.pc = s.me.pc)) := by
  refine ⟨fun hc => ?_, fun hd => ?_⟩
  · obtain ⟨eff, hx, he⟩ := h false
    exact runs_with_0 hx rfl hgd hm (by rw [he, State.flushing, hc, flushRange_clean hc]; rfl) rfl rfl rfl
  · obtain ⟨eff, hx, he⟩ := h iv
    have hne : (s.dirtyIn s.myPart base len).isEmpty = false := by simpa using hd
    have hpark := exec_park (w := .acks (s.dirtyIn s.myPart base len)) (u := (s.flushRange s.myPart base len iv).sent 5 [] [])
      hx hgd hm (by rw [he, State.flushing, hne]; rfl)
    have hpc := (OnlyReplies.flushRange s s.myPart base len iv).samePlace.pc
    exact ⟨_, hpark, by rw [State.me_parkOn]; rfl, by rw [State.me_parkOn, State.sent, State.me_modMe],
      by rw [State.me_parkOn, State.sent, State.me_modMe]; exact hpc⟩

omit hgd hm in
/-- A CWBR whose stores and caches have settled. -/
theorem cwbr_settled {base len : Nat} (h4 : s.me.phase.step = 4) (he : s.me.phase.eas = [base, len]) (hg : s.gone s.me.phase.ids = true) :
    ∃ eff, exec (.cwbr g a b iv) s = s.run (.cwbr g a b iv) 12 g [.src a, .src b] eff ∧ eff s = s.flushing base len iv :=
  ⟨_, cwbr_eq, by simp [h4, hg, State.rangeNum, he, nth]⟩

theorem cwbr_settles (h4 : s.me.phase.step = 4) (hg : s.gone s.me.phase.ids = false) : Parks (.cwbr g a b iv) s (.gone s.me.phase.ids) :=
  exec_park cwbr_eq hgd hm (by simp [h4, hg])

omit hgd hm in
/-- A CWBR that checks its range, or has kept it. -/
theorem cwbr_cleans {base len : Nat} (h : (s.me.phase.step = 0 ∧ s.pieceTrap (s.g a) (s.g b) = none ∧ base = (s.g a).toNat ∧ len = (s.g b).toNat) ∨
      (s.me.phase.step = 3 ∧ s.me.phase.eas = [base, len])) :
    ∃ eff, exec (.cwbr g a b iv) s = s.run (.cwbr g a b iv) 12 g [.src a, .src b] eff ∧ eff s = s.cleaning base len iv := by
  refine ⟨_, cwbr_eq, ?_⟩
  rcases h with ⟨h0, ht, rfl, rfl⟩ | ⟨h3, he⟩
  · simp [h0, ht, State.rangeNum]
  · simp [h3, he, State.rangeNum, nth]

section
variable {base len : Nat} (h : ∀ iv, ∃ eff, exec (.cwbr g a b iv) s = s.run (.cwbr g a b iv) 12 g [.src a, .src b] eff ∧
  eff s = s.cleaning base len iv)
include h

theorem cwbr_empty (hl : len = 0) : RunsWith (.cwbr g a b iv) s s 12 [.src a, .src b] {} := by
  obtain ⟨eff, hx, he⟩ := h iv
  exact runs_with_0 hx rfl hgd hm (he.trans (if_pos hl)) rfl rfl rfl

theorem cwbr_waits (hl : len ≠ 0) (ho : s.linesOut base len ≠ []) : Makes (.cwbr g a b iv) s (fun t => t.me.phase.step = 3 ∧
    t.me.phase.eas = [base, len] ∧ t.me.park.map (fun p => p.w) = some (.gone (s.linesOut base len)) ∧ t.me.pc = s.me.pc) := by
  obtain ⟨eff, hx, he⟩ := h iv
  have hne : (s.linesOut base len).isEmpty = false := by simpa using ho
  have hpark := exec_park (w := .gone (s.linesOut base len)) (u := s.sent 3 [] [base, len]) hx hgd hm
    (by rw [he, State.cleaning, if_neg hl, hne]; rfl)
  refine ⟨_, hpark, ?_, ?_, ?_, ?_⟩ <;> rw [State.me_parkOn, State.sent, State.me_modMe]
  rfl

omit hgd hm in
/-- Where the caches hold no dirty line of the range, a CWBR comes to the slices at once. -/
theorem cleaning_flushing (hl : len ≠ 0) (ho : s.linesOut base len = []) (hc : ∀ k ∈ s.cacheCores s.cur.1, ∀ l ∈ (s.core k).cache,
      l.dirty = true → l.loc = true ∨ meets base len (l.line * 64) 64 = false) (iv : Bool) :
    ∃ eff, exec (.cwbr g a b iv) s = s.run (.cwbr g a b iv) 12 g [.src a, .src b] eff ∧ eff s = s.flushing base len iv := by
  obtain ⟨eff, hx, he⟩ := h iv
  refine ⟨eff, hx, ?_⟩
  have hw : (s.cacheCores s.cur.1).foldl (fun s k => s.writeBack k (fun l => meets base len (l.line * 64) 64)) s = s :=
    foldl_fixed_of_mem (fun k hk => writeBack_clean (hc k hk))
  simp only [he, State.cleaning, if_neg hl, hw, ho]
  rfl

end

end

end Sys2Proof.Machine
end

section
/-!
PROOFS. Gang switch, checkpoint and halt (R264 to R266), and O42.
-/

namespace Sys2Proof.Machine

/-! ### The status of a gang switch (R264) -/

section
variable {s : State} {a b : Word} {t : Task} (h : s.gtime.toNat + 10000 ≤ b.toNat)
include h

theorem gswitchStatus_absent (ht : (s.part s.myPart).task a.toNat = none) : s.gswitchStatus a b = 2 := by
  simp [State.gswitchStatus, Nat.not_lt.mpr h, ht]

variable (ht : (s.part s.myPart).task a.toNat = some t)
include ht

theorem gswitchStatus_idle (hp : t.phase ≠ .running) : s.gswitchStatus a b = 2 := by
  simp [State.gswitchStatus, Nat.not_lt.mpr h, ht, hp]

theorem gswitchStatus_twice (hp : t.phase = .running) (hs : t.switchAt ≠ none) : s.gswitchStatus a b = 3 := by
  simp [State.gswitchStatus, Nat.not_lt.mpr h, ht, hp, Option.isSome_iff_ne_none, hs]

theorem gswitchStatus_free (hp : t.phase = .running) (hs : t.switchAt = none) : s.gswitchStatus a b = 0 := by
  simp [State.gswitchStatus, Nat.not_lt.mpr h, ht, hp, hs]

end

section
variable {s : State} {g : Guard} {d a b : GReg} (hgd : s.guard g = true)

theorem exec_gswitch : exec (.gswitch g d a b) s = execGswitch g d a b s := rfl
theorem exec_ckpt : exec (.ckpt g d) s = execCkpt g d s := rfl
theorem exec_halt : exec (.halt g a) s = execHalt g a s := rfl

include hgd

/-! ### GSWITCH (R264) -/

section
variable (hm : s.modsOk (condsOf [.dst d, .src a, .src b]) = true)
include hm

/-- A switch that is not scheduled. -/
theorem gswitch_refused {n : Nat} (h : s.gswitchStatus (s.g a) (s.g b) = n) (hn : n ≠ 0) :
    RunsWith (.gswitch g d a b) s s 8 [.dst d, .src a, .src b] { g := [(d, w64 n)] } :=
  runs_with_g exec_gswitch rfl hgd hm (by simp only [h, hn, if_false]) rfl rfl rfl

theorem gswitch_schedules (h : s.gswitchStatus (s.g a) (s.g b) = 0) :
    RunsWith (.gswitch g d a b) s (s.modPart s.myPart (fun p => p.modTask (s.g a).toNat (fun k => { k with switchAt := some (s.g b).toNat })))
      8 [.dst d, .src a, .src b] { g := [(d, 0)] } := by
  have hp := (SamePlace.refl s).modPart s.myPart (fun p => p.modTask (s.g a).toNat (fun k => { k with switchAt := some (s.g b).toNat }))
  refine runs_with_g exec_gswitch rfl hgd hm ?_ hp.level hp.dbgctl hp.pc
  simp only [h, if_true, State.putG_modPart]
  rfl

end

/-! ### CKPT (R265) -/

section
variable (hm : s.modsOk (condsOf [.dst d]) = true)
include hm

theorem ckpt_asks (ho : s.out = false) : exec (.ckpt g d) s = .next
    (((s.wantCkpt s.myPart).modMe (fun t => { t with phase := { t.phase with step := 4, val := w64 ((s.part s.myPart).ckptNum + 1) } })).parkOn
      (.ckpt g d) (.ckpt ((s.part s.myPart).ckptNum + 1))) :=
  exec_park exec_ckpt hgd hm (by simp only [ho]; rfl)

theorem ckpt_waits (ho : s.out = true) (h : (s.part s.myPart).ckptNum < s.me.phase.val.toNat) :
    Parks (.ckpt g d) s (.ckpt s.me.phase.val.toNat) :=
  exec_park exec_ckpt hgd hm (by simp [ho, Nat.not_le.mpr h])

theorem ckpt_completes (ho : s.out = true) (h : s.me.phase.val.toNat ≤ (s.part s.myPart).ckptNum) :
    Runs (.ckpt g d) s 8 [.dst d] { g := [(d, s.me.phase.val)] } :=
  runs_g exec_ckpt rfl hgd hm (by simp [ho, h])

end

/-! ### HALT (R90, R266) -/

omit hgd in
/-- The thread is held with its exit word, and its barriers are not yet aborted. -/
def State.halted (s : State) (exit : Word) : State := s.modMe (fun t => { t with exitWord := exit, state := .held })

theorem halt_runs (hm : s.modsOk (condsOf [.src a]) = true) :
    RunsWith (.halt g a) s ((s.halted (s.g a)).abortBarriers s.cur.1 s.cur.2) 8 [.src a] {} := by
  have hab := AbortsOnly.abortBarriers (s.halted (s.g a)) s.cur.1 s.cur.2
  have hme : ((s.halted (s.g a)).abortBarriers s.cur.1 s.cur.2).me = (s.halted (s.g a)).me := by
    rw [State.me, hab.cur]; exact hab.ctx _ _
  have hp : SamePlace s (s.halted (s.g a)) := .modMe s (fun _ => ⟨rfl, rfl, rfl⟩)
  exact runs_with_0 exec_halt rfl hgd hm rfl ((congrArg Ctx.level hme).trans hp.level) ((congrArg Ctx.dbgctl hme).trans hp.dbgctl)
    ((congrArg Ctx.pc hme).trans hp.pc)

end

theorem gval_congr {s u : State} (hs : u.myCore.s = s.myCore.s) (hg : u.me.g = s.me.g) (n : Nat) : u.gval n = s.gval n := by
  simp only [State.gval, hs, hg]

theorem halted_barsTile {s : State} {exit : Word} (hx : s.cur.2 < s.threadCount s.cur.1) (ha : s.myCore.bar.aborted = none)
    (hi : s.myCore.bar.arrived.contains (s.gangWide s.cur.1 s.cur.2) = false) :
    BarsTile s ((s.halted exit).abortBarriers s.cur.1 s.cur.2) s.cur.1 (s.myCore.bar.gen, s.gangWide s.cur.1 s.cur.2) := by
  have hbar : ∀ d, ((s.halted exit).core d).bar = (s.core d).bar := fun d => State.bar_setCtx ..
  have hwide : (s.halted exit).gangWide s.cur.1 s.cur.2 = s.gangWide s.cur.1 s.cur.2 := State.gangWide_setCtx ..
  have hcount : (s.halted exit).threadCount s.cur.1 = s.threadCount s.cur.1 := State.threadCount_setCtx ..
  have hgang : (s.halted exit).gangCores s.cur.1 = s.gangCores s.cur.1 := State.gangCores_setCtx ..
  obtain ⟨hab, hnotes⟩ := abortBarriers_barsTile (s := s.halted exit) (hcount ▸ hx) (by rw [hbar]; exact ha) (by rw [hbar, hwide]; exact hi)
  rw [hgang] at hnotes
  rw [hbar, hwide] at hab hnotes
  exact ⟨hab, fun d hd hne => (hnotes d hd hne).trans (by rw [hbar]; rfl)⟩

/-- What a HALT leaves. -/
theorem halt_makes {s : State} {g : Guard} {a : GReg} (hgd : s.guard g = true) (hm : s.modsOk (condsOf [.src a]) = true) :
    Makes (.halt g a) s (fun t => t.me.state = .held ∧ t.me.exitWord = s.g a ∧ t.me.pc = s.me.pc + 8 ∧
      t.me.park = none ∧ (∀ n, t.gval n = s.gAfter [.src a] [] n) ∧ SameMemory s t ∧ t.net = s.net ∧
      (∀ y, y ≠ s.cur.2 → t.ctx s.cur.1 y = s.ctx s.cur.1 y) ∧ CoresKept s t s.cur.1 ∧
      (s.cur.2 < s.threadCount s.cur.1 → s.myCore.bar.aborted = none → s.myCore.bar.arrived.contains (s.gangWide s.cur.1 s.cur.2) = false →
        BarsTile s t s.cur.1 (s.myCore.bar.gen, s.gangWide s.cur.1 s.cur.2))) := by
  obtain ⟨t, ht, hc⟩ := halt_runs hgd hm
  have hab := AbortsOnly.abortBarriers (s.halted (s.g a)) s.cur.1 s.cur.2
  have hcu : ((s.halted (s.g a)).abortBarriers s.cur.1 s.cur.2).cur = s.cur := hab.cur
  have hme : ((s.halted (s.g a)).abortBarriers s.cur.1 s.cur.2).me = { s.me with exitWord := s.g a, state := .held } := by
    rw [State.me, hcu, hab.ctx]; exact State.me_modMe ..
  have hrest := hc.rest
  rw [hme] at hrest
  have hnet : ((s.halted (s.g a)).abortBarriers s.cur.1 s.cur.2).net = s.net := by
    have h := congrArg State.net hab.device
    exact h
  have hgv : ∀ n, ((s.halted (s.g a)).abortBarriers s.cur.1 s.cur.2).gval n = s.gval n := by
    have hs : ((s.halted (s.g a)).core s.cur.1).s = s.myCore.s := State.core_setCtx_keeps Core.s (fun _ _ _ => rfl) ..
    have hcs : (((s.halted (s.g a)).abortBarriers s.cur.1 s.cur.2).core s.cur.1).s = ((s.halted (s.g a)).core s.cur.1).s := by
      have h := congrArg Core.s hab.core
      exact h
    exact gval_congr (by rw [State.myCore, hcu, hcs, hs]) (by rw [hme])
  obtain ⟨hkept, -⟩ := hab.of_setCtx
  refine ⟨t, ht, congrArg Ctx.state hrest, congrArg Ctx.exitWord hrest, hc.pc, hc.park, fun n => ?g,
    ((SameMemory.modMe s _).trans (.abortBarriers ..)).trans hc.memory, ?net, fun y hy => ?ctxs, hc.coresKept hcu hkept,
    fun hx ha hi => hc.barsTile (halted_barsTile hx ha hi)⟩
  case g => rw [hc.g, gAfter_congr hgv]
  case net =>
    have h := congrArg State.net hc.device
    exact h.trans hnet
  case ctxs => rw [hc.ctx_ne hcu y hy, hab.ctx]; exact State.ctx_modCtx_ne s s.cur.1 s.cur.2 s.cur.1 y _ (by tauto)

/-- Settles O42: the slice registers, the ranges, the gang switch, the checkpoint and the halt, each by its cases. -/
theorem supervisorOperations : Obligations.SupervisorOperations := by
  intro s g d a b idx iv hgd A B P bad good range
  refine ⟨fun hm => ⟨fun ho => ⟨?readBad, fun ⟨h1, h2, h3⟩ => scfgr_sends hgd hm ho (scfgTrap_none h1 h2 h3)⟩,
      fun n ho he => scfgr_reads hgd hm ho he⟩,
    fun hm => ⟨fun ho => ⟨?writeBad, fun ⟨h1, h2, h3⟩ => scfgw_sends hgd hm ho (scfgTrap_none h1 h2 h3)⟩, fun n v m ho he => ?write,
      fun h0 => ?cleanBad, ?dropBad, fun ht => ?drop, fun base len => ?clean, fun h5 => cwbr_acknowledged hgd hm h5⟩,
    fun hm => ?switch, fun hm => ⟨fun ho => ?ckpt, fun ho h => ckpt_waits hgd hm ho h, fun ho h => ckpt_completes hgd hm ho h⟩,
    fun hm => halt_makes hgd hm⟩
  case readBad => exact scfg_refused exec_scfgr hgd hm (fun t (ht : s.scfgTrap (s.g a) idx.toNat = some t) => by simp [ho, ht])
  case writeBad => exact scfg_refused exec_scfgw hgd hm (fun t (ht : s.scfgTrap (s.g a) idx.toNat = some t) => by simp [ho, ht])
  case write =>
    intro before
    refine ⟨fun h => scfgw_writes hgd hm ho he ((servedTo_iff _ m).mpr h), fun ⟨e, hmem, hlt⟩ => scfgw_waits hgd hm ho he ?_⟩
    rw [Bool.eq_false_iff, Ne, servedTo_iff]
    exact fun h => Nat.not_le.mpr hlt (h e hmem)
  case cleanBad => exact range_refused cwbr_eq hgd hm (fun t (ht : s.pieceTrap (s.g a) (s.g b) = some t) => by simp [h0, ht])
  case dropBad => exact range_refused exec_slinv hgd hm (fun t (ht : s.pieceTrap (s.g a) (s.g b) = some t) => by simp only [ht])
  case drop =>
    have hd := dropRange_slices s s.myPart A.toNat B.toNat
    have hnet := congrArg State.net hd
    have hcores := congrArg State.cores hd
    exact ⟨slinv_discards hgd hm ht, .dropRange .., hnet, hcores⟩
  case clean =>
    refine ⟨fun h => ?start, fun h4 he => ⟨fun hg => cwbr_settles hgd hm h4 hg, fun hg => cwbr_flushes hgd hm (fun _ => cwbr_settled h4 he hg)⟩⟩
    have hx : ∀ iv, ∃ eff, exec (.cwbr g a b iv) s = s.run (.cwbr g a b iv) 12 g [.src a, .src b] eff ∧ eff s = s.cleaning base len iv :=
      fun _ => cwbr_cleans h
    exact ⟨fun hl => cwbr_empty hgd hm hx hl, fun hl ho => cwbr_waits hgd hm hx hl ho,
      fun hl ho hc => cwbr_flushes hgd hm (cleaning_flushing hx hl ho hc)⟩
  case switch =>
    refine ⟨fun h => gswitch_refused hgd hm (if_pos h) (by decide), fun h => ?_⟩
    exact ⟨fun ht => gswitch_refused hgd hm (gswitchStatus_absent h ht) (by decide),
      fun t ht hp => gswitch_refused hgd hm (gswitchStatus_idle h ht hp) (by decide),
      fun t ht hp hs => gswitch_refused hgd hm (gswitchStatus_twice h ht hp hs) (by decide),
      fun t ht hp hs => gswitch_schedules hgd hm (gswitchStatus_free h ht hp hs)⟩
  case ckpt =>
    refine ⟨_, ckpt_asks hgd hm ho, ?want, ?park, ?val, ?pc, ?memory⟩
    case want =>
      have hpart := State.part_modPart_same s s.myPart (fun p => { p with ckptWanted := true })
      exact congrArg Part.ckptWanted hpart
    case park => rw [State.me_parkOn]; rfl
    case val => rw [State.me_parkOn, State.me_modMe]; rfl
    case pc => rw [State.me_parkOn, State.me_modMe]; rfl
    case memory =>
      have hwant : SameMemory s (s.wantCkpt s.myPart) := .modPart s _ _ (fun _ => rfl)
      rw [State.parkOn]
      exact (hwant.trans (.modMe _ _)).trans (.modMe _ _)

end Sys2Proof.Machine
end

section
/-!
PROOFS. The checks before an access (R95, R96, R99, R117): which failure comes first and what it raises (O17).
-/

namespace Sys2Proof.Machine

/-! ### What the address spaces answer -/

section
variable {s : State} {c x size : Nat} {k : AccKind} {a : Word}

/-- No space has the region numbers 1 to 0xB. -/
theorem spaceOf_unassigned (h1 : 1 ≤ fld a 63 60) (h2 : fld a 63 60 ≤ 0xB) : s.spaceOf c x k a size = .error ⟨k.prot, a, 0⟩ := by
  unfold State.spaceOf
  simp only
  split <;> first | omega | rfl

/-- Region 0xF is the supervisor's. -/
theorem spaceOf_physical (h : fld a 63 60 = 0xF) (hs : s.isSup c x = false) : s.spaceOf c x k a size = .error ⟨k.prot, a, 0⟩ := by
  simp [State.spaceOf, h, hs]

/-- An access to the own scratch that runs past its end. -/
theorem spaceOf_pastScratch (h : fld a 63 60 = 0xE) (hi : fld a 59 48 = 0xFFF) (hp : s.scratch c < fld a 20 0 + size) :
    s.spaceOf c x k a size = .error ⟨k.prot, a, 0⟩ := by
  have hg : s.gangTile c (fld a 59 48) = some c := by rw [hi]; rfl
  have hn : ¬(fld a 20 0 + Nat.max size 1 ≤ s.scratch c) := fun hle => by
    have hle' : size ≤ Nat.max size 1 := Nat.le_max_left size 1
    omega
  simp [State.spaceOf, h, hg, hn]

/-- A virtual address stands for itself. -/
theorem spaceOf_virtual (h : fld a 63 57 = 0) : s.spaceOf c x k a size = .ok (.virt a.toNat) := by
  have hlt := a.isLt
  have h0 : a.toNat / 2 ^ 57 % 2 ^ 7 = 0 := h
  have h1 : fld a 63 60 = 0 := by show a.toNat / 2 ^ 60 % 2 ^ 4 = 0; omega
  have h2 : fld a 59 57 = 0 := by show a.toNat / 2 ^ 57 % 2 ^ 3 = 0; omega
  have h3 : fld a 56 0 = a.toNat := by show a.toNat / 2 ^ 0 % 2 ^ 57 = a.toNat; omega
  simp [State.spaceOf, h1, h2, h3]

end

/-! ### Which check fails first -/

section
variable {s : State} {sc : Option Scope} {u : AUnit} {us : List AUnit} {t : Trap}

theorem checks_spaceTrap (h : s.spaceOf s.cur.1 s.cur.2 u.kind u.ea u.size = .error t) : s.checks sc (u :: us) = (.error t, s) := by
  simp only [State.checks, State.spaces, h]

/-- The second unit, where the first is virtual. -/
theorem checks_spaceTrap_second {v : AUnit} (hv : fld v.ea 63 57 = 0) (h : s.spaceOf s.cur.1 s.cur.2 u.kind u.ea u.size = .error t) :
    s.checks sc (v :: u :: us) = (.error t, s) := by
  simp only [State.checks, State.spaces, spaceOf_virtual hv, h]

theorem spaces_virtual (h : ∀ v ∈ us, fld v.ea 63 57 = 0) : s.spaces us = .ok (us.map (fun v => (v, .virt v.ea.toNat))) := by
  induction us with
  | nil => rfl
  | cons v us ih =>
    simp only [State.spaces, spaceOf_virtual (h v List.mem_cons_self), ih (fun w hw => h w (List.mem_cons_of_mem v hw)), List.map_cons]

/-- Virtual units of which one lies out of its alignment. -/
theorem checks_misaligned (h : ∀ v ∈ us, fld v.ea 63 57 = 0) (hm : misaligned us = some t) : s.checks sc us = (.error t, s) := by
  simp only [State.checks, spaces_virtual h, orTrap, hm]
  rfl

/-- Without a write of the last cycles a lookup uses the buffer as it stands. -/
theorem tbNow_settled {k : Core} (h : k.tbOpen = false) (ctr : Nat) : k.tbNow ctr = k.tb := by
  rw [Core.tbOpen, List.any_eq_false] at h
  unfold Core.tbNow
  generalize k.tbHist = hist at h
  induction hist with
  | nil => rfl
  | cons e es ih =>
    have he : ¬(k.cycle < e.1 + 16 ∧ e.1 < k.cycle) := by simpa using h e List.mem_cons_self
    rw [List.foldr_cons, ih (fun w hw => h w (List.mem_cons_of_mem e hw)), if_neg (by tauto)]

theorem lookup_misses {c va : Nat} (ho : (s.core c).tbOpen = false) (h : (s.core c).tb.any (fun e => e.holds va) = false) :
    s.lookup c va = (none, s) := by
  have hf : (s.core c).tb.find? (fun e => e.holds va) = none := List.find?_eq_none.mpr (List.any_eq_false.mp h)
  simp [State.lookup, tbNow_settled ho, hf, ho]

/-- Virtual units in their alignment, of which the first meets no page of the buffer. -/
theorem checks_miss (h : ∀ v ∈ u :: us, fld v.ea 63 57 = 0) (hm : misaligned (u :: us) = none) (hz : u.size ≠ 0)
    (ho : s.myCore.tbOpen = false) (hb : s.myCore.tb.any (fun e => e.holds u.ea.toNat) = false) :
    s.checks none (u :: us) = (.error ⟨u.kind.miss, u.ea, 0⟩, s) := by
  simp only [State.checks, spaces_virtual h, orTrap, hm, scopeTrap, List.map_cons, State.lookups, hz, if_false, lookup_misses ho hb]
  rfl

end

/-! ### Instructions that go through the checks -/

/-- An instruction whose effect begins with checks 1 to 6 on some units. -/
def Accesses (i : Instr) (s : State) (g : Guard) (os : List Opnd) (us : List AUnit) : Prop :=
  ∃ size eff k, exec i s = s.run i size g os eff ∧ eff s = s.checked' none us k

theorem Accesses.raises {i : Instr} {s : State} {g : Guard} {os : List Opnd} {us : List AUnit} {t : Trap} (h : Accesses i s g os us)
    (hgd : s.guard g = true) (hm : s.modsOk (condsOf os) = true) (hc : s.checks none us = (.error t, s)) : Raises i s t := by
  obtain ⟨size, eff, k, hx, he⟩ := h
  exact traps_of hx hgd hm (by rw [he, State.checked', hc]; rfl)

section
variable {s : State} (hf : s.fresh = true)
include hf

theorem fresh_out : s.out = false := by
  have h0 : s.me.phase.step = 0 := by simp [State.fresh] at hf; exact hf.1.1
  simp [State.out, h0]

theorem load_fresh (us : List AUnit) (ty : ReqType) (k : State → List Reply → Res) :
    s.load us ty k = s.checked' none us (fun s ps => (s.readAll ty ps).collect k) := by
  simp [State.load, fresh_out hf]

theorem store_fresh {planes : List Plane} (hr : s.queueRoom s.cur.1 s.cur.2 planes.length = true) (ty : ReqType) (clr : Bool) (k : State → Res) :
    s.store planes ty clr k =
      s.checked' none (planes.flatMap (fun p => p.2.1)) (fun s ps => s.storeAt ty clr (planesAt planes ps) k) := by
  simp [State.store, fresh_out hf, hr]

/-- An instruction that loads units. -/
theorem accesses_load {i : Instr} {size : Nat} {g : Guard} {os : List Opnd} {eff : State → Res} {us : List AUnit} {ty : ReqType}
    {k : State → List Reply → Res} (hx : exec i s = s.run i size g os eff) (he : eff s = s.load us ty k) : Accesses i s g os us :=
  ⟨size, eff, _, hx, he.trans (load_fresh hf us ty k)⟩

/-- An instruction that stores planes for which the write queue has room. -/
theorem accesses_store {i : Instr} {size : Nat} {g : Guard} {os : List Opnd} {eff : State → Res} {planes : List Plane} {us : List AUnit}
    {ty : ReqType} {clr : Bool} {k : State → Res} (hx : exec i s = s.run i size g os eff) (he : eff s = s.store planes ty clr k)
    {n : Nat} (hr : s.queueRoom s.cur.1 s.cur.2 n = true) (hn : planes.length = n) (hu : planes.flatMap (fun p => p.2.1) = us) :
    Accesses i s g os us :=
  ⟨size, eff, _, hx, by rw [he, store_fresh hf (hn ▸ hr), hu]⟩

end

section
variable (s : State) (g : Guard) (d c : GReg) (fd : FReg) (f : Fmt) (m : MemOp) (ty : ReqType) (sc : Scope)

/-- The instructions of rows 4 with one unit: operands, kind and bytes. -/
def singleAccesses : List (Instr × List Opnd × AccKind × Nat) :=
  [(.ld g d m .h ty sc .none, .dst d :: opndsM m, .load, 2), (.ld g d m .w ty sc .none, .dst d :: opndsM m, .load, 4),
    (.ld g d m .d ty sc .none, .dst d :: opndsM m, .load, 8), (.ld g d m .b ty sc .none, .dst d :: opndsM m, .load, 1),
    (.st g d m .b ty sc .none, .src d :: opndsM m, .store, 1), (.st g d m .h ty sc .none, .src d :: opndsM m, .store, 2),
    (.st g d m .w ty sc .none, .src d :: opndsM m, .store, 4), (.st g d m .d ty sc .none, .src d :: opndsM m, .store, 8),
    (.ldf g fd m f ty, .dstF fd :: opndsM m, .load, f.bytes), (.stf g fd m f ty, .srcF fd :: opndsM m, .store, f.bytes),
    (.ldp g d m c ty, .dst d :: .dst c :: opndsM m, .load, 16), (.stp g d m c ty, .src d :: .src c :: opndsM m, .store, 16)]

/-- Those with a count. -/
def countedAccesses : List (Instr × List Opnd × AccKind) :=
  [(.ldfc g fd m c f ty, .dstF fd :: .src c :: opndsM m, .load), (.stfc g fd m c f ty, .srcF fd :: .src c :: opndsM m, .store)]

variable {s g d c fd f m ty sc} (hf : s.fresh = true)

theorem fmt_bytes_pos (f : Fmt) : 1 ≤ f.bytes := by cases f <;> decide

/-- No access is of another kind than a load or a store. -/
theorem singleAccesses_kind : ∀ q ∈ singleAccesses g d c fd f m ty sc, 1 ≤ q.2.2.2 ∧ q.2.2.1 ≠ .atomic := by
  have hb := fmt_bytes_pos f
  simp [singleAccesses, hb]

theorem countedAccesses_kind : ∀ q ∈ countedAccesses g c fd f m ty, q.2.2 ≠ .atomic := by
  simp [countedAccesses]

include hf

theorem singleAccesses_check : ∀ q ∈ singleAccesses g d c fd f m ty sc, (q.2.2.1 = .store → s.queueRoom s.cur.1 s.cur.2 1 = true) →
    Accesses q.1 s g q.2.1 [unitAt q.2.2.1 (s.ea m) q.2.2.2] := by
  simp only [singleAccesses, List.forall_mem_cons, List.not_mem_nil, false_imp_iff, implies_true, and_true]
  refine ⟨fun _ => ?_, fun _ => ?_, fun _ => ?_, fun _ => ?_, fun h => ?_, fun h => ?_, fun h => ?_, fun h => ?_, fun _ => ?_, fun h => ?_,
    fun _ => ?_, fun h => ?_⟩
  iterate 4 exact accesses_load hf (by rfl) (by rfl)
  iterate 4 exact accesses_store hf (by rfl) (by rfl) (h trivial) (by rfl) rfl
  · exact accesses_load hf (by rfl) (by rfl)
  · exact accesses_store hf (by rfl) (by rfl) (h trivial) (by rfl) rfl
  · exact accesses_load hf (by rfl) (by rfl)
  · exact accesses_store hf (by rfl) (by rfl) (h trivial) (by rfl) rfl

theorem countedAccesses_check : ∀ q ∈ countedAccesses g c fd f m ty, (q.2.2 = .store → s.queueRoom s.cur.1 s.cur.2 2 = true) →
    Accesses q.1 s g q.2.1 [unitAt q.2.2 (s.ea m) f.bytes, countUnit q.2.2 (s.countAddr m c f.bytes)] := by
  simp only [countedAccesses, List.forall_mem_cons, List.not_mem_nil, false_imp_iff, implies_true, and_true]
  exact ⟨fun _ => accesses_load hf (by rfl) (by rfl), fun h => accesses_store hf (by rfl) (by rfl) (h trivial) (by rfl) rfl⟩

end

/-! ### O17 -/

/-- A unit that is not an atomic, out of its alignment. -/
theorem misaligned_first {k : AccKind} (hk : k ≠ .atomic) {ea : Word} {n : Nat} (h : ea.toNat % n ≠ 0) (us : List AUnit) :
    misaligned (unitAt k ea n :: us) = some ⟨Cause.misaligned, ea, 0⟩ := by
  simp [misaligned, unitAt, h, hk]

theorem misaligned_single {k : AccKind} {ea : Word} {n : Nat} (h : ea.toNat % n = 0) : misaligned [unitAt k ea n] = none := by
  simp [misaligned, unitAt, h]

/-- A count byte needs no alignment (R122). -/
theorem misaligned_counted {k : AccKind} {ea ka : Word} {n : Nat} (h : ea.toNat % n = 0) :
    misaligned [unitAt k ea n, countUnit k ka] = none := by
  simp [misaligned, unitAt, countUnit, h, Nat.mod_one]

/-- Settles O17: each failure is the first among the checks on the units of the access (`checks_spaceTrap`, `checks_misaligned`, `checks_miss`). -/
theorem memoryChecksTrap : Obligations.MemoryChecksTrap := by
  intro s g d c fd f m ty sc hgd hf ea k
  refine ⟨fun q (hq : q ∈ singleAccesses g d c fd f m ty sc) hm hr => ?single, fun q (hq : q ∈ countedAccesses g c fd f m ty) hm hr => ?counted⟩
  case single =>
    obtain ⟨hn, hk⟩ := singleAccesses_kind q hq
    have raise {t : Trap} := (singleAccesses_check hf q hq hr).raises (t := t) hgd hm
    refine ⟨fun h1 h2 => ?_, fun h1 h2 => ?_, fun h1 h2 h3 => ?_, fun h1 h2 => ?_, fun h1 h2 h3 h4 => ?_⟩
    · exact raise (checks_spaceTrap (spaceOf_unassigned h1 h2))
    · exact raise (checks_spaceTrap (spaceOf_physical h1 h2))
    · exact raise (checks_spaceTrap (spaceOf_pastScratch h1 h3 h2))
    · exact raise (checks_misaligned (List.forall_mem_singleton.mpr h1) (misaligned_first hk h2 []))
    · exact raise (checks_miss (List.forall_mem_singleton.mpr h1) (misaligned_single h2) (Nat.ne_of_gt hn) h3 h4)
  case counted =>
    have hk := countedAccesses_kind q hq
    have hn := fmt_bytes_pos f
    have raise {t : Trap} := (countedAccesses_check hf q hq hr).raises (t := t) hgd hm
    refine ⟨fun h1 h2 => ?_, fun h1 h2 => ?_, fun h1 h2 h3 => ?_, fun h0 h1 h2 => ?_, fun h0 h1 h2 => ?_, fun h0 h1 h2 h3 h4 => ?_⟩
    · exact raise (checks_spaceTrap (spaceOf_unassigned h1 h2))
    · exact raise (checks_spaceTrap (spaceOf_physical h1 h2))
    · exact raise (checks_spaceTrap (spaceOf_pastScratch h1 h3 h2))
    · exact raise (checks_spaceTrap_second h0 (spaceOf_unassigned h1 h2))
    · exact raise (checks_misaligned (by simpa using ⟨h0, h1⟩) (misaligned_first hk h2 _))
    · exact raise (checks_miss (by simpa using ⟨h0, h1⟩) (misaligned_counted h2) (Nat.ne_of_gt hn) h3 h4)

end Sys2Proof.Machine
end

section
/-!
PROOFS. Fences, ordered stores and acquires (R112, R113, R120, R130 to R132) (O18).
-/

namespace Sys2Proof.Machine

/-! ### What an acquire leaves (R113, R120) -/

/-- The part of an acquire that discards lines. -/
def State.shed (s : State) (c : Nat) (sc : Scope) : State :=
  let u := if sc = .tile then s else s.discard c (fun l => l.loc)
  if u.widerThanCache c sc then (u.cacheCores c).foldl (fun s k => s.discard k (fun l => !l.dirty && !l.loc)) u else u

theorem acquire_eq (s : State) (c : Nat) (sc : Scope) : s.acquire c sc =
    if sc = .dev ∨ sc = .dom then (s.shed c sc).modCore c (fun k => { k with fbuf := [], acq := (s.shed c sc).msgCtr }) else s.shed c sc := rfl

section
variable {β : Type} {π : State → β} (hd : ∀ s c p, π (s.discard c p) = π s)
include hd

theorem shed_keeps (s : State) (c : Nat) (sc : Scope) : π (s.shed c sc) = π s := by
  have h1 : π (if sc = .tile then s else s.discard c (fun l => l.loc)) = π s := by
    split
    · rfl
    · exact hd ..
  unfold State.shed
  generalize (if sc = .tile then s else s.discard c (fun l => l.loc)) = u at h1
  simp only
  split
  · rw [foldl_keeps π (fun s k => hd s k _), h1]
  · exact h1

theorem acquire_keeps (hc : ∀ s c n, π (s.modCore c (fun k => { k with fbuf := [], acq := n })) = π s) (s : State) (c : Nat) (sc : Scope) :
    π (s.acquire c sc) = π s := by
  rw [acquire_eq]
  split
  · rw [hc, shed_keeps hd]
  · exact shed_keeps hd s c sc

end

/-- A core without its lines, its fetch buffer and the number of its last acquire. -/
def Core.uncached (k : Core) : Core := { k with cache := [], fbuf := [], acq := 0 }

theorem acquire_device (s : State) (c : Nat) (sc : Scope) : { s.acquire c sc with cores := s.cores } = s :=
  acquire_keeps (π := fun u => { u with cores := s.cores }) (fun _ _ _ => rfl) (fun _ _ _ => rfl) s c sc

theorem acquire_uncached (s : State) (c d : Nat) (sc : Scope) : ((s.acquire c sc).core d).uncached = (s.core d).uncached :=
  acquire_keeps (π := fun u => (u.core d).uncached) (fun u k p => State.core_modCore_keeps Core.uncached (by intros; rfl) u k d)
    (fun u k n => State.core_modCore_keeps Core.uncached (by intros; rfl) u k d) s c sc

theorem mem_cache_discard (s : State) (c d : Nat) (p : Line → Bool) (l : Line) :
    l ∈ ((s.discard c p).core d).cache ↔ l ∈ (s.core d).cache ∧ (d = c → p l = false) := by
  by_cases h : d = c
  · subst h; simp [State.discard]
  · simp [State.discard, State.core_modCore_ne s c d _ h, h]

theorem mem_cache_discards (ks : List Nat) (d : Nat) (p : Line → Bool) (l : Line) (s : State) :
    l ∈ ((ks.foldl (fun s k => s.discard k p) s).core d).cache ↔ l ∈ (s.core d).cache ∧ (d ∈ ks → p l = false) := by
  induction ks generalizing s with
  | nil => simp
  | cons k ks ih =>
    rw [List.foldl_cons, ih, mem_cache_discard, List.mem_cons, and_assoc]
    tauto

theorem widerThanCache_discard (s : State) (c k : Nat) (p : Line → Bool) (sc : Scope) :
    (s.discard k p).widerThanCache c sc = s.widerThanCache c sc := by
  have hp : ((s.discard k p).core c).pool = (s.core c).pool := State.core_modCore_keeps Core.pool (by intros; rfl) ..
  cases sc with
  | gang => simp only [State.widerThanCache, hp]
  | tile | dev | dom => rfl

theorem cacheCores_discard (s : State) (c k : Nat) (p : Line → Bool) : (s.discard k p).cacheCores c = s.cacheCores c := by
  have hp : ((s.discard k p).core c).pool = (s.core c).pool := State.core_modCore_keeps Core.pool (by intros; rfl) ..
  have hg : (s.discard k p).gangCores c = s.gangCores c := State.gangCores_modCore (by intros; rfl) ..
  rw [State.cacheCores, hp, hg, State.cacheCores]

/-- The lines that an acquire leaves: no local copy of its own core, and no clean line where its scope is wider than the cache. -/
theorem mem_cache_acquire (s : State) (c d : Nat) (sc : Scope) (l : Line) : l ∈ ((s.acquire c sc).core d).cache ↔
    l ∈ (s.core d).cache ∧ (sc ≠ .tile → d = c → l.loc = false) ∧
      (s.widerThanCache c sc = true → d ∈ s.cacheCores c → (!l.dirty && !l.loc) = false) := by
  have hacq : ((s.acquire c sc).core d).cache = ((s.shed c sc).core d).cache := by
    rw [acquire_eq]
    split
    · exact State.core_modCore_keeps Core.cache (by intros; rfl) ..
    · rfl
  obtain ⟨u, hu⟩ : ∃ u, u = if sc = .tile then s else s.discard c (fun l => l.loc) := ⟨_, rfl⟩
  have hw : u.widerThanCache c sc = s.widerThanCache c sc := by
    rw [hu]; split
    · rfl
    · exact widerThanCache_discard ..
  have hcc : u.cacheCores c = s.cacheCores c := by
    rw [hu]; split
    · rfl
    · exact cacheCores_discard ..
  have hmem : l ∈ (u.core d).cache ↔ l ∈ (s.core d).cache ∧ (sc ≠ .tile → d = c → l.loc = false) := by
    rw [hu]; split
    · next h => simp [h]
    · next h => simp [h, mem_cache_discard]
  rw [hacq, State.shed, ← hu, hw, hcc]
  split
  · next h => rw [mem_cache_discards, hmem, and_assoc]; simp [h]
  · next h => rw [hmem]; simp [h]

theorem fbuf_acquire (s : State) (c : Nat) (sc : Scope) :
    ((s.acquire c sc).core c).fbuf = if sc = .dev ∨ sc = .dom then [] else (s.core c).fbuf := by
  rw [acquire_eq]
  split
  · rw [State.core_modCore_same]
  · exact shed_keeps (π := fun u => (u.core c).fbuf) (fun u k p => State.core_modCore_keeps Core.fbuf (by intros; rfl) u k c) s c sc

/-- What copy engines had written before an acquire of device scope is settled for the gang (R269). -/
theorem unacquired_acquire {s : State} {c : Nat} {sc : Scope} {b : FreshByte} (hsc : sc = .dev ∨ sc = .dom) (hc : c ∈ s.gangCores c)
    (hb : b.ended.all (fun n => decide (n < s.msgCtr)) = true) (he : b.ended.isSome = true) : (s.acquire c sc).unacquired c b = false := by
  obtain ⟨n, hn⟩ := Option.isSome_iff_exists.mp he
  have hlt : n < s.msgCtr := by simpa [hn] using hb
  have hgang : (s.acquire c sc).gangCores c = s.gangCores c :=
    acquire_keeps (π := fun u => u.gangCores c) (fun _ _ _ => State.gangCores_modCore (by intros; rfl) ..)
      (fun _ _ _ => State.gangCores_modCore (by intros; rfl) ..) s c sc
  have hacq : ((s.acquire c sc).core c).acq = s.msgCtr := by
    rw [acquire_eq, if_pos hsc, State.core_modCore_same]
    exact shed_keeps (π := State.msgCtr) (fun _ _ _ => rfl) s c sc
  simp only [State.unacquired, hn, Option.all_some, hgang, List.all_eq_false]
  exact ⟨c, hc, by simpa [hacq] using hlt⟩

/-- A cause raised after an effect. -/
theorem traps_with {i : Instr} {s u : State} {size : Nat} {g : Guard} {os : List Opnd} {eff : State → Res} {code : Nat} {tval tstat : Word}
    (hx : exec i s = s.run i size g os eff) (hgd : s.guard g = true) (hm : s.modsOk (condsOf os) = true) (he : eff s = .trap code tval tstat u) :
    TrapsWith i s u code tval tstat := by
  rw [TrapsWith, hx]
  simp only [State.run, hgd, hm, he, State.finish, if_true]

/-! ### FENCE and FENCESC (R130, R131) -/

theorem exec_fence (g : Guard) (sc : Scope) (k : FenceKind) (s : State) : exec (.fence g sc k) s =
    s.run (.fence g sc k) 8 g [] (fun s => s.releaseIf k sc (fun s => .done (s.acquireIf k sc))) := rfl

theorem exec_fencesc (g : Guard) (s : State) : exec (.fencesc g) s = s.run (.fencesc g) 8 g [] (fun s => s.release .dev (fun s =>
    if s.deliveredAll s.me.phase.mark then .done { s.acquire s.cur.1 .dev with fenceSc := s.fenceSc + 1 }
    else .park (.delivered s.me.phase.mark) s)) := rfl

section
variable {s : State} {g : Guard} {sc : Scope} (hgd : s.guard g = true)
include hgd

theorem fence_acquires : RunsWith (.fence g sc .acq) s (s.acquire s.cur.1 sc) 8 [] {} := by
  have hs := SamePlace.acquire s s.cur.1 sc
  exact runs_with_0 (exec_fence g sc .acq s) rfl hgd rfl rfl hs.level hs.dbgctl hs.pc

/-- A fence whose release is over completes. -/
theorem fence_releases (hrel : ∀ k, s.release sc k = k (s.mark 3)) :
    RunsWith (.fence g sc .rel) s s 8 [] {} ∧ RunsWith (.fence g sc .ar) s (s.acquire s.cur.1 sc) 8 [] {} := by
  constructor
  · exact run_with (w := s.mark 3) (exec_fence g sc .rel s) hgd rfl (hrel _) rfl rfl rfl ((Applied.refl s).aside (fun _ _ => rfl))
      (fun _ _ => rfl) (fun _ => rfl)
  · have hs := SamePlace.acquire s s.cur.1 sc
    have he : (s.mark 3).acquireIf .ar sc = (s.acquire s.cur.1 sc).modMe (fun t => { t with phase := { t.phase with step := 3, mark := s.msgCtr } }) :=
      State.acquire_modMe s _ s.cur.1 sc
    exact run_with (exec_fence g sc .ar s) hgd rfl ((hrel _).trans (congrArg Res.done he)) hs.level hs.dbgctl hs.pc
      ((Applied.refl _).aside (fun _ _ => rfl)) (fun _ _ => rfl) (fun _ => rfl)

/-- A fence that must wait in its release. -/
theorem fence_parks {k : FenceKind} {w : Wait} {u : State} (hk : k = .rel ∨ k = .ar) (hrel : ∀ k, s.release sc k = .park w u) :
    exec (.fence g sc k) s = .next (u.parkOn (.fence g sc k) w) := by
  rcases hk with rfl | rfl <;> exact exec_park (exec_fence ..) hgd rfl (hrel _)

omit hgd in
/-- The end of a release of any scope: its lines are back, or there were none, and at `.dom` nothing is out. -/
theorem release_ends (h2 : s.me.phase.step = 2) (hd : sc = .dom → s.me.rfcount = 0)
    (hw : s.widerThanCache s.cur.1 sc = false ∨ s.writesDone s.cur.1 s.cur.2 s.me.phase.mark = true) (k : State → Res) :
    s.release sc k = k (s.mark 3) := by
  have h : (s.widerThanCache s.cur.1 sc && !s.writesDone s.cur.1 s.cur.2 s.me.phase.mark) = false := by
    rcases hw with hw | hw <;> simp [hw]
  have hdom : ¬(sc = .dom ∧ s.me.rfcount ≠ 0) := by tauto
  simp only [State.release, State.releaseEnd, h2, h, if_neg hdom]
  rfl

omit hgd in
/-- A release whose lines are on their way. -/
theorem release_writes (h2 : s.me.phase.step = 2) (hw : s.widerThanCache s.cur.1 sc = true)
    (hd : s.writesDone s.cur.1 s.cur.2 s.me.phase.mark = false) (k : State → Res) : s.release sc k = .park (.writes s.me.phase.mark) s := by
  simp [State.release, State.releaseEnd, h2, hw, hd]

omit hgd in
/-- A release that is over. -/
theorem release_over (h3 : s.me.phase.step = 3) (k : State → Res) : s.release sc k = k s := by
  simp [State.release, h3]

theorem fencesc_completes (h3 : s.me.phase.step = 3) (hd : s.deliveredAll s.me.phase.mark = true) :
    RunsWith (.fencesc g) s { s.acquire s.cur.1 .dev with fenceSc := s.fenceSc + 1 } 8 [] {} := by
  have hs := SamePlace.acquire s s.cur.1 .dev
  exact runs_with_0 (exec_fencesc g s) rfl hgd rfl ((release_over h3 _).trans (if_pos hd)) hs.level hs.dbgctl hs.pc

theorem fencesc_waits (h3 : s.me.phase.step = 3) (hd : s.deliveredAll s.me.phase.mark = false) :
    Parks (.fencesc g) s (.delivered s.me.phase.mark) :=
  exec_park (exec_fencesc g s) hgd rfl ((release_over h3 _).trans (if_neg (by simp [hd])))

/-! ### RFENCE (R132) -/

omit hgd in
theorem exec_rfence (d : GReg) : exec (.rfence g d) s = s.run (.rfence g d) 8 g [.dst d] (fun s =>
    if s.me.rfcount ≠ 0 then .park .remote s
    else if d.num = 0 ∧ s.me.refusals ≠ 0 then .trap Cause.remoteRefused s.me.refusals 0 (s.modMe (fun t => { t with refCount := 0, refCode := 0 }))
    else .done ((s.modMe (fun t => { t with refCount := 0, refCode := 0 })).putG d s.me.refusals)) := rfl

variable {d : GReg} (hm : s.modsOk (condsOf [.dst d]) = true)
include hm

theorem rfence_waits (h : s.me.rfcount ≠ 0) : Parks (.rfence g d) s .remote := exec_park (exec_rfence d) hgd hm (if_pos h)

variable (h : s.me.rfcount = 0)
include h

theorem rfence_completes (hd : d.num ≠ 0 ∨ s.me.refusals = 0) :
    RunsWith (.rfence g d) s (s.modMe (fun t => { t with refCount := 0, refCode := 0 })) 8 [.dst d] { g := [(d, s.me.refusals)] } := by
  have hs := SamePlace.modMe s (f := fun t => { t with refCount := 0, refCode := 0 }) (fun _ => ⟨rfl, rfl, rfl⟩)
  exact runs_with_g (exec_rfence d) rfl hgd hm ((if_neg (not_not.mpr h)).trans (if_neg (by tauto))) hs.level hs.dbgctl hs.pc

theorem rfence_refused (hd : d.num = 0) (hr : s.me.refusals ≠ 0) :
    TrapsWith (.rfence g d) s (s.modMe (fun t => { t with refCount := 0, refCode := 0 })) Cause.remoteRefused s.me.refusals 0 :=
  traps_with (exec_rfence d) hgd hm ((if_neg (not_not.mpr h)).trans (if_pos ⟨hd, hr⟩))

end

/-! ### A store to the own tile store as it releases (R120) -/

section
variable {s : State} {ea : Word} {n : Nat}

/-- Scratch of the own tile store passes check 1. -/
theorem spaceOf_own {x al : Nat} {k : AccKind} (h : s.ownAt ea n al = true) (hn : 1 ≤ n) :
    s.spaceOf s.cur.1 x k ea n = .ok (.store s.cur.1 (fld ea 20 0) none) := by
  simp only [State.ownAt, Bool.and_eq_true, beq_iff_eq, decide_eq_true_eq] at h
  obtain ⟨⟨⟨⟨⟨hr, hi⟩, hz⟩, hp⟩, -⟩, -⟩ := h
  have hmax : Nat.max n 1 = n := Nat.max_eq_left hn
  have hg : s.gangTile s.cur.1 (fld ea 59 48) = some s.cur.1 := by rw [hi]; rfl
  simp [State.spaceOf, hr, hz, hg, hmax, hp]

/-- One unit in scratch of the own tile store passes the checks. -/
theorem checks_own {k : AccKind} (h : s.ownAt ea n n = true) (hn : 1 ≤ n) (sc : Option Scope) :
    s.checks sc [⟨k, ea, n, n⟩] = (.ok [(⟨k, ea, n, n⟩, .own (fld ea 20 0))], s) := by
  have hal : ea.toNat % n = 0 := by
    simp only [State.ownAt, Bool.and_eq_true, beq_iff_eq] at h
    exact h.1.2
  have hsc : scopeTrap sc [(⟨k, ea, n, n⟩, Loc.store s.cur.1 (fld ea 20 0) none)] = none := by
    rcases sc with _ | _ | _ | _ | _ <;> rfl
  simp [State.checks, State.spaces, spaceOf_own h hn, misaligned, hal, orTrap, hsc, State.lookups, permTrap, State.windowTrap, State.atOf]

theorem checked_own {k : AccKind} (h : s.ownAt ea n n = true) (hn : 1 ≤ n) (sc : Option Scope) (f : State → List (AUnit × At) → Res) :
    s.checked' sc [⟨k, ea, n, n⟩] f = f s [(⟨k, ea, n, n⟩, .own (fld ea 20 0))] := by
  have hb : s.bankWait s.cur.1 (fld ea 20 0) n = false := by
    simp only [State.ownAt, Bool.and_eq_true] at h
    simpa using h.2
  have hz : n ≠ 0 := Nat.ne_of_gt hn
  simp [State.checked', checks_own h hn sc, stalledRole, State.closedBank, hb, hz]

end

theorem myPart_modMe (s : State) {f : Ctx → Ctx} (hf : ∀ t, (f t).partid = t.partid) : (s.modMe f).myPart = s.myPart := by
  have hme : ((s.modMe f).ctx s.cur.1 s.cur.2).partid = (s.ctx s.cur.1 s.cur.2).partid := (congrArg Ctx.partid (s.me_modMe f)).trans (hf _)
  simp only [State.myPart, State.partOf, State.modMe_cur, hme]
  rfl

theorem sendTile_modMe (s : State) {f : Ctx → Ctx} (hf : ∀ t, (f t).partid = t.partid) (entry : Nat) (kind : MKind) (addr : Nat)
    (bytes : List Host.Cell) : (s.modMe f).sendTile entry kind addr bytes = (s.sendTile entry kind addr bytes).modMe f := by
  simp only [State.sendTile, State.tileMsg, myPart_modMe s hf]
  rfl

/-- A store `st.tile.rel` to the own tile store whose earlier stores are applied enters the write queue. -/
theorem st_rel_own {s : State} {g : Guard} {d : GReg} {m : MemOp} {w : StW} {ty : ReqType} (hgd : s.guard g = true)
    (hm : s.modsOk (condsOf (.src d :: opndsM m)) = true) (hf : s.fresh = true)
    (ha : s.ownAt (s.ea m) (stBytes w) (stBytes w) = true) (hq : s.ownMet (s.ea m) (stBytes w) = none)
    (hs : s.storesDone s.cur.1 s.cur.2 false s.msgCtr = true) (hr : s.queueRoom s.cur.1 s.cur.2 1 = true) :
    RunsWith (.st g d m w ty .tile .rel) s (s.ownQueue (s.ea m) (toBytes (stBytes w) (s.g d).toNat)) 12 (.src d :: opndsM m) {} := by
  have h0 : s.me.phase.step = 0 := by simp [State.fresh] at hf; exact hf.1.1
  have hn : 1 ≤ stBytes w := by cases w <;> decide
  have hob : s.ownOpbuf [(⟨.store, s.ea m, stBytes w, stBytes w⟩, .own (fld (s.ea m) 20 0))] = none := hq
  have hx : exec (.st g d m w ty .tile .rel) s = s.run (.st g d m w ty .tile .rel) 12 g (.src d :: opndsM m)
    (fun s => s.storeRel (s.ea m) (toBytes (stBytes w) (s.g d).toNat) .tile .done) := rfl
  have he : s.storeRel (s.ea m) (toBytes (stBytes w) (s.g d).toNat) .tile .done =
      .done ((s.ownQueue (s.ea m) (toBytes (stBytes w) (s.g d).toNat)).modMe
        (fun t => { t with phase := { t.phase with step := 3, mark := s.msgCtr } })) := by
    simp only [State.storeRel, fresh_out hf, hr, length_toBytes, checked_own ha hn, hob, release_tile h0 hs, Bool.not_true, Bool.and_false]
    simp only [State.blockers, State.narrowAt, State.writeUnit]
    exact congrArg Res.done (sendTile_modMe s (by intros; rfl) ..)
  exact run_with hx hgd hm he rfl rfl rfl ((Applied.refl _).aside (fun _ _ => rfl)) (fun n _ => by simp [refills_noDst]) (fun n => by simp [refills_noDst])

/-! ### O18 -/

/-- Settles O18: the fences by where their release stands, an acquire by the lines it leaves (`mem_cache_acquire`). -/
theorem fencesWaitAndAcquiresDiscard : Obligations.FencesWaitAndAcquiresDiscard := by
  refine ⟨fun s g d sc k m w ty hgd => ?fences, fun s c d sc l => ?acquire⟩
  case fences =>
    refine ⟨fence_acquires hgd, fun h0 hs => ?_, fun h0 hs hk => ?_, fun h2 hd hw => ?_, fun h2 hw hd hk => ?_, fencesc_completes hgd,
      fencesc_waits hgd, rfence_waits hgd, fun hm h => ?_, ?_⟩
    · exact fence_releases hgd (fun _ => release_tile h0 hs)
    · exact fence_parks hgd hk (fun _ => release_waits h0 hs)
    · exact fence_releases hgd (release_ends h2 hd hw)
    · exact fence_parks hgd hk (release_writes h2 hw hd)
    · exact ⟨rfence_completes hgd hm h, rfence_refused hgd hm h⟩
    · intro ea bs hm hf ha hq hs hr
      have hlen : bs.length = stBytes w := length_toBytes ..
      rw [hlen] at ha hq
      exact st_rel_own hgd hm hf ha hq hs hr
  case acquire =>
    have hmem := mem_cache_acquire s c
    refine ⟨acquire_device s c sc, ?_, fun h => ((hmem d sc l).mp h).1, fun h hl hd => ?_, fun hsc h => ((hmem c sc l).mp h).2.1 hsc rfl,
      fun hw hd h hl => ?_, fun hw hl => ?_, fbuf_acquire s c sc, fun b hsc hc hb he => unacquired_acquire hsc hc hb he⟩
    · have h := acquire_uncached s c d sc
      exact congrArg (fun k : Core => { k with cache := (s.core d).cache, fbuf := (s.core d).fbuf, acq := (s.core d).acq }) h
    · exact (hmem d sc l).mpr ⟨h, fun _ _ => hl, fun _ _ => by simp [hd]⟩
    · simpa [hl] using ((hmem d sc l).mp h).2.2 hw hd
    · rw [hmem d sc l]
      simp [hw, hl]

end Sys2Proof.Machine
end

section
/-!
PROOFS. Where a store goes (R104, R118, R372): the message that one unit of a store becomes (O16).
-/

namespace Sys2Proof.Machine

/-! ### Cells -/

theorem fst_cellsAt (a : Nat) (bs : List Byte) : (cellsAt a bs).map (·.1) = List.range' a bs.length := by
  induction bs generalizing a with
  | nil => rfl
  | cons b bs ih => simp [cellsAt, ih, List.range'_succ]

theorem addr_of_mem_cellsAt {a : Nat} {bs : List Byte} {c : Host.Cell} (h : c ∈ cellsAt a bs) : a ≤ c.1 ∧ c.1 < a + bs.length := by
  have hc : c.1 ∈ (cellsAt a bs).map (·.1) := List.mem_map_of_mem h
  rwa [fst_cellsAt, List.mem_range'_1] at hc

theorem cellsAt_ne_nil {a : Nat} {bs : List Byte} (h : bs ≠ []) : cellsAt a bs ≠ [] := by
  cases bs with
  | nil => exact absurd rfl h
  | cons b bs => simp [cellsAt]

theorem head_cellsAt {a : Nat} {bs : List Byte} (h : bs ≠ []) : (cellsAt a bs).head?.elim 0 (·.1) = a := by
  cases bs with
  | nil => exact absurd rfl h
  | cons b bs => rfl

/-- Sixty-four bytes from the start of a piece cover it. -/
theorem wholePiece_cellsAt {a : Nat} {bs : List Byte} (h : bs.length = 64) : wholePiece a (cellsAt a bs) = true := by
  simp only [wholePiece, List.all_eq_true, List.mem_range, List.any_eq_true, decide_eq_true_eq]
  intro i hi
  have hm : a + i ∈ (cellsAt a bs).map (·.1) := by rw [fst_cellsAt, List.mem_range'_1]; omega
  exact List.mem_map.mp hm

theorem dedup_const {α : Type} [DecidableEq α] {xs : List α} {x : α} (h : ∀ y ∈ xs, y = x) (hne : xs ≠ []) : dedup xs = [x] := by
  cases xs with
  | nil => exact absurd rfl hne
  | cons y ys =>
    obtain rfl := h y List.mem_cons_self
    show ys.foldl (fun acc x => if acc.contains x then acc else acc ++ [x]) [y] = [y]
    refine foldl_fixed_of_mem (fun z hz => ?_)
    rw [h z (List.mem_cons_of_mem y hz)]
    simp

/-! ### One unit of a store -/

section
variable (s : State) (u : AUnit) (ty : ReqType) (clr : Bool) (bs : List Byte)

/-- A unit to memory or to domain space is written as it is accepted. -/
theorem storeNear_mem (p pa : Nat) : s.storeNear ty clr [(u, .mem p pa, bs)] = s.writeUnit s.msgCtr (.mem p pa) ty bs := rfl
theorem storeNear_domain (dev off : Nat) : s.storeNear ty clr [(u, .domain dev off, bs)] = s.writeUnit s.msgCtr (.domain dev off) ty bs := rfl

/-- A unit to the own store or a role's stands in the write queue. -/
theorem storeNear_quiet {a to_ : At} {off : Nat} {whole : Bool} (hq : a.quiet = some (to_, off))
    (hw : quietWrites clr to_ [(u, a, bs)] = [(whole, cellsAt off bs)]) :
    s.storeNear ty clr [(u, a, bs)] = s.sendTile s.msgCtr (s.quietKind to_ whole) ((cellsAt off bs).head?.elim 0 (·.1)) (cellsAt off bs) := by
  have hd : dedup [to_] = [to_] := dedup_const (by simp) (by simp)
  cases a <;> cases hq <;> simp [State.storeNear, At.quiet, hd, hw]

/-- The one unit that a store to such a tile's store becomes, unless it covers a piece that a VST clears. -/
theorem quietWrites_plain {a to_ : At} {off : Nat} (hq : a.quiet = some (to_, off)) :
    quietWrites false to_ [(u, a, bs)] = [(false, cellsAt off bs)] := by
  simp [quietWrites, hq]

theorem quietWrites_whole {a to_ : At} {off : Nat} (hq : a.quiet = some (to_, off)) (ho : off % 64 = 0) (hl : bs.length = 64) :
    quietWrites true to_ [(u, a, bs)] = [(true, cellsAt off bs)] := by
  have hne : cellsAt off bs ≠ [] := cellsAt_ne_nil (fun h => by simp [h] at hl)
  have hpiece : ∀ b ∈ cellsAt off bs, b.1 / 64 = off / 64 := fun b hb => by
    have := addr_of_mem_cellsAt hb
    omega
  have hd : dedup ((cellsAt off bs).map (fun b => b.1 / 64)) = [off / 64] :=
    dedup_const (List.forall_mem_map.mpr hpiece) (by simpa using hne)
  have hwhole : wholePiece (64 * (off / 64)) (cellsAt off bs) = true := by
    rw [show 64 * (off / 64) = off by omega]; exact wholePiece_cellsAt hl
  have hall : (cellsAt off bs).filter (fun b => decide (b.1 / 64 = off / 64)) = cellsAt off bs :=
    List.filter_eq_self.mpr (fun b hb => by simpa using hpiece b hb)
  have hany : (cellsAt off bs).any (fun b => decide (b.1 / 64 = off / 64)) = true := by
    obtain ⟨b, hb⟩ := List.exists_mem_of_ne_nil _ hne
    exact List.any_eq_true.mpr ⟨b, hb, by simpa using hpiece b hb⟩
  simp [quietWrites, hq, hd, hwhole, hall, hany]

end

/-! ### What is sent -/

theorem net_updateLine (s : State) (c line : Nat) (loc : Bool) (cells : List Host.Cell) (dirty : Bool) :
    (s.updateLine c line loc cells dirty).net = s.net := by
  unfold State.updateLine
  split <;> rfl

section
variable {s : State} {u : AUnit} {ty : ReqType} {clr : Bool} {bs : List Byte} {p pa : Nat}

/-- What a step adds at the end of the net. -/
theorem drop_net {t : State} {ms : List Msg} (h : t.net = s.net ++ ms) : t.net.drop s.net.length = ms := by
  rw [h, List.drop_left]

theorem sent_nc (h : s.effType s.cur.1 p pa ty = .nc) : (s.storeNear ty clr [(u, .mem p pa, bs)]).net =
    s.net ++ [s.memMsg s.cur.1 s.cur.2 s.msgCtr (.unit false false false) p pa (cellsAt pa bs)] := by
  simp only [storeNear_mem, State.writeUnit, h]
  rfl

theorem sent_own (h : s.effType s.cur.1 p pa ty = .own ∨ s.effType s.cur.1 p pa ty = .si) : (s.storeNear ty clr [(u, .mem p pa, bs)]).net =
    s.net ++ [s.tileMsg s.cur.1 s.cur.2 s.msgCtr (.cacheStore (s.lineHome s.cur.1 (pa / 64))) s.myPart pa (cellsAt pa bs)] := by
  rcases h with h | h <;> simp only [storeNear_mem, State.writeUnit, h, net_updateLine] <;> rfl

theorem sent_wt (h : s.effType s.cur.1 p pa ty = .wt) : (s.storeNear ty clr [(u, .mem p pa, bs)]).net =
    (s.throughLine s.msgCtr p pa (cellsAt pa bs)).net := by
  simp only [storeNear_mem, State.writeUnit, h, net_updateLine]

/-- A write-through goes on to the home slice at once where its own portion homes the line and nothing to the line is on its way. -/
theorem net_throughLine (entry : Nat) (cells : List Host.Cell) : (s.throughLine entry p pa cells).net = s.net ++
    [if s.lineHome s.cur.1 (pa / 64) = s.cur.1 ∧ s.lineStores s.cur.1 s.cur.2 (pa / 64) = [] ∧
        s.fetching (s.lineHome s.cur.1 (pa / 64)) (pa / 64) = false
      then s.memMsg s.cur.1 s.cur.2 entry (.unit false true false) p pa cells
      else s.tileMsg s.cur.1 s.cur.2 entry (.cacheUpdate (s.lineHome s.cur.1 (pa / 64))) s.myPart pa cells] := by
  have hc : (decide (s.lineHome s.cur.1 (pa / 64) = s.cur.1) && !s.fetching (s.lineHome s.cur.1 (pa / 64)) (pa / 64) &&
      (s.lineStores s.cur.1 s.cur.2 (pa / 64)).isEmpty) = true ↔ s.lineHome s.cur.1 (pa / 64) = s.cur.1 ∧
      s.lineStores s.cur.1 s.cur.2 (pa / 64) = [] ∧ s.fetching (s.lineHome s.cur.1 (pa / 64)) (pa / 64) = false := by
    simp only [Bool.and_eq_true, decide_eq_true_eq, Bool.not_eq_true', List.isEmpty_iff]
    tauto
  unfold State.throughLine
  simp only [hc]
  split
  · rw [net_updateLine]; rfl
  · rfl

theorem sent_quiet {a to_ : At} {off : Nat} {whole : Bool} (hq : a.quiet = some (to_, off))
    (hw : quietWrites clr to_ [(u, a, bs)] = [(whole, cellsAt off bs)]) (hne : bs ≠ []) : (s.storeNear ty clr [(u, a, bs)]).net =
      s.net ++ [s.tileMsg s.cur.1 s.cur.2 s.msgCtr (s.quietKind to_ whole) s.myPart off (cellsAt off bs)] := by
  rw [storeNear_quiet s u ty clr bs hq hw, head_cellsAt hne]
  rfl

/-! ### Domain space -/

theorem agent_noRollback (s : State) (p c x : Nat) : (s.noRollback p).agent c x = s.agent c x := by
  have ht : ∀ d, (s.noRollback p).tilePart d = s.tilePart d := s.tilePart_modPart p _ (fun _ => rfl) (fun _ => rfl)
  have htask : (s.noRollback p).taskOf c = s.taskOf c := by
    have hw : ((s.noRollback p).part (s.tilePart c)).window = (s.part (s.tilePart c)).window := by
      by_cases h : s.tilePart c = p
      · rw [← h, State.noRollback, State.part_modPart_same]
      · rw [State.noRollback, State.part_modPart_ne s p _ _ h]
    simp only [State.taskOf, ht, Part.task, hw]
    rfl
  simp only [State.agent, State.partOf, ht, htask]
  rfl

theorem outbox_sendDomain (s : State) (dev off : Nat) (op : DomOp) :
    (s.sendDomain dev off op).outbox = s.outbox ++ [⟨s.msgCtr, s.agent s.cur.1 s.cur.2, dev, off, op⟩] := by
  unfold State.sendDomain
  simp only
  split
  · exact congrArg (fun a => s.outbox ++ [⟨s.msgCtr, a, dev, off, op⟩]) (agent_noRollback ..)
  · rfl

theorem me_sendDomain (s : State) (dev off : Nat) (op : DomOp) : (s.sendDomain dev off op).me = s.me := by
  unfold State.sendDomain
  simp only
  split <;> rfl

end

/-! ### O16 -/

/-- Settles O16: the message of one unit by the place it goes to. -/
theorem storesTravelToTheirPlace : Obligations.StoresTravelToTheirPlace := by
  intro s u ty bs p pa off dev role tile clr sent
  refine ⟨fun h => drop_net (sent_nc h), fun h => ?wt, fun h => drop_net (sent_own h), fun whole hcase => ?quiet, ?domain⟩
  case wt =>
    refine ⟨fun hnow => drop_net ?_, fun hnow => drop_net ?_⟩ <;> rw [sent_wt h, net_throughLine]
    · rw [if_pos hnow]
    · rw [if_neg hnow]
  case quiet =>
    have hne : bs ≠ [] := by
      rcases hcase with ⟨-, -, h⟩ | ⟨-, -, -, hl⟩
      · exact h
      · intro h; simp [h] at hl
    have hw {a to_ : At} (hq : a.quiet = some (to_, off)) : quietWrites clr to_ [(u, a, bs)] = [(whole, cellsAt off bs)] := by
      rcases hcase with ⟨rfl, rfl, -⟩ | ⟨rfl, rfl, ho, hl⟩
      · exact quietWrites_plain u bs hq
      · exact quietWrites_whole u bs hq ho hl
    simp only [List.forall_mem_cons, List.not_mem_nil, false_imp_iff, implies_true, and_true]
    exact ⟨drop_net (sent_quiet (to_ := .own 0) rfl (hw rfl) hne), drop_net (sent_quiet (to_ := .role tile 0) rfl (hw rfl) hne),
      drop_net (sent_quiet (to_ := .stall role 0) rfl (hw rfl) hne)⟩
  case domain =>
    rw [storeNear_domain]
    refine ⟨?_, outbox_sendDomain ..⟩
    rw [State.writeUnit, State.me_modMe, me_sendDomain]

end Sys2Proof.Machine
end

section
/-!
PROOFS. Requests at tiles (R100, R104, R118, R190, R205): what a request does at the store it addresses and at the portion that homes its
line (O46).
-/

namespace Sys2Proof.Machine

/-! ### Bytes of a tile store -/

theorem Mem.writeCells_cellsAt (m : Mem) (a : Nat) (bs : List Byte) : m.writeCells (cellsAt a bs) = m.writeN a bs := by
  induction bs generalizing m a with
  | nil => rfl
  | cons b bs ih => exact ih (m.write a b) (a + 1)

theorem nth_of_lt {α : Type} {d : α} {l : List α} {i : Nat} (h : i < l.length) : nth d l i = l[i] := by
  induction l generalizing i with
  | nil => simp at h
  | cons x l ih =>
    cases i with
    | zero => rfl
    | succ i => exact ih (by simpa using h)

theorem nth_mem {α : Type} {d : α} {l : List α} {i : Nat} (h : i < l.length) : nth d l i ∈ l := by
  rw [nth_of_lt h]
  exact List.getElem_mem h

theorem length_tabulate {α : Type} (n : Nat) (f : Nat → α) : (tabulate n f).length = n := by simp [tabulate]

theorem nth_tabulate {α : Type} {d : α} {n i : Nat} (f : Nat → α) (h : i < n) : nth d (tabulate n f) i = f i := by
  rw [nth_of_lt (by simpa [tabulate] using h)]
  simp [tabulate]

theorem nth_readN {d : Byte} {m : Mem} {a n i : Nat} (h : i < n) : nth d (m.readN a n) i = m.read (a + i) := by
  induction n generalizing a i with
  | zero => omega
  | succ n ih =>
    cases i with
    | zero => rfl
    | succ i => exact (ih (by omega)).trans (congrArg m.read (by omega))

/-- The tile store ahead of each queued command: one store for each. -/
theorem Core.length_ahead (k : Core) : k.ahead.length = k.mq.length := by
  have go (qs : List QCmd) (r : Core × List Mem) : (qs.foldl (fun (r : Core × List Mem) q =>
      let k' := if (r.1.badSource q.op).isSome then r.1 else r.1.perform q.op
      (k', r.2 ++ [k'.store])) r).2.length = r.2.length + qs.length := by
    induction qs generalizing r with
    | nil => rfl
    | cons q qs ih => simp only [List.foldl_cons, ih, List.length_append, List.length_cons, List.length_nil]; omega
  simpa [Core.ahead] using go k.mq (k, [])

/-- A byte as a read finds it is the store's or one of those that the queued commands leave. -/
theorem Core.nth_seen (k : Core) (ctr off : Nat) {n i : Nat} (hi : i < n) :
    ∃ M ∈ k.store :: k.ahead, nth 0 (k.seen ctr off n) i = M.read (off + i) := by
  unfold Core.seen
  split
  · refine ⟨_, nth_mem (d := []) (l := k.store :: k.ahead) ?_, nth_tabulate _ hi⟩
    rw [List.length_cons, k.length_ahead]
    exact Nat.mod_lt _ (Nat.succ_pos _)
  · exact ⟨k.store, List.mem_cons_self, nth_readN hi⟩

theorem Core.length_seen (k : Core) (ctr off n : Nat) : (k.seen ctr off n).length = n := by
  unfold Core.seen
  split
  · exact length_tabulate ..
  · exact Mem.length_readN ..

theorem Core.seen_settled {k : Core} {off n : Nat} (h : k.unsettled off n = false) (ctr : Nat) : k.seen ctr off n = k.store.readN off n := by
  simp [Core.seen, h]

theorem State.length_threadSees (s : State) (h r off n : Nat) : (s.threadSees h r off n).length = n := by
  unfold State.threadSees
  simp only
  split
  · exact length_tabulate ..
  · exact Core.length_seen ..

/-- A byte as a thread finds it is one of those, or as it was before a copy engine wrote it. -/
theorem State.nth_threadSees (s : State) (h r off : Nat) {n i : Nat} (hi : i < n) :
    (∃ M ∈ (s.core h).store :: (s.core h).ahead, nth 0 (s.threadSees h r off n) i = M.read (off + i)) ∨
    ∃ b ∈ (s.core h).fresh, b.off = off + i ∧ s.unacquired r b = true ∧ nth 0 (s.threadSees h r off n) i = b.old := by
  have hseen := (s.core h).nth_seen s.freeCtr off hi
  unfold State.threadSees
  simp only
  split
  · rw [nth_tabulate _ hi]
    split
    next b hb =>
      have hp := List.find?_some hb
      simp only [Bool.and_eq_true, decide_eq_true_eq] at hp
      split
      · exact .inr ⟨b, List.mem_of_find?_eq_some hb, hp.1, hp.2, rfl⟩
      · exact .inl hseen
    next => exact .inl hseen
  · exact .inl hseen

theorem SameMemory.threadRead (s : State) (h r off n : Nat) : SameMemory s (s.threadRead h r off n) := by
  unfold State.threadRead State.readStep
  split
  · exact SameMemory.of_eq (fun _ => rfl) rfl (fun _ => rfl) rfl rfl
  · split <;> exact SameMemory.of_eq (fun _ => rfl) rfl (fun _ => rfl) rfl rfl

theorem State.ctx_threadRead (s : State) (h r off n c x : Nat) : (s.threadRead h r off n).ctx c x = s.ctx c x := by
  unfold State.threadRead State.readStep
  split
  · rfl
  · split <;> rfl

theorem State.readStep_settled {s : State} {c off n : Nat} (h : (s.core c).unsettled off n = false) : s.readStep c off n = s := by
  simp [State.readStep, h]

/-! ### The answer to a request -/

theorem SameMemory.answer (s : State) (c x : Nat) (r : Reply) : SameMemory s (s.answer c x r) := by
  unfold State.answer
  split
  · exact SameMemory.modCtx ..
  · exact SameMemory.refl s

theorem State.replies_answer (s : State) (c x : Nat) (r : Reply) :
    ((s.answer c x r).ctx c x).replies = (s.ctx c x).replies ++ (if x < 16 then [r] else []) := by
  by_cases h : x < noCtx
  · rw [State.answer, if_pos h, State.ctx_modCtx_same, if_pos (show x < 16 from h)]
  · rw [State.answer, if_neg h, if_neg (show ¬x < 16 from h), List.append_nil]

/-- What does not lie in a context is as it was. -/
theorem State.core_answer_keeps {α : Type} (π : Core → α) (hπ : ∀ k x t, π (k.setCtx x t) = π k) (s : State) (c x d : Nat) (r : Reply) :
    π ((s.answer c x r).core d) = π (s.core d) := by
  unfold State.answer
  split
  · exact State.core_modCore_keeps π (fun k => hπ k _ _) s c d
  · rfl

theorem State.answer_net (s : State) (c x : Nat) (r : Reply) : (s.answer c x r).net = s.net := by
  unfold State.answer
  split <;> rfl

theorem State.freshFor_answer (s : State) (c x h r off n : Nat) (a : Reply) : (s.answer c x a).freshFor h r off n = s.freshFor h r off n := by
  have hg : (s.answer c x a).gangCores r = s.gangCores r := by
    unfold State.answer
    split
    · exact State.gangCores_modCore (by intros; rfl) s c r
    · rfl
  simp only [State.freshFor, State.unacquired, hg, State.core_answer_keeps Core.fresh (by intros; rfl),
    State.core_answer_keeps Core.acq (by intros; rfl)]

/-! ### A message taken from the net -/

/-- The state without the message at a place of the net. -/
def State.without (s : State) (k : Nat) : State := { s with net := dropAt s.net k }

theorem takeMsg_eq {s : State} {k : Nat} {m : Msg} (hm : s.net[k]? = some m) : s.takeMsg k = some (m, s.without k) := by
  rw [State.takeMsg, hm]
  rfl

theorem takeMsg_none {s : State} {k : Nat} (hm : s.net[k]? = none) : s.takeMsg k = none := by
  rw [State.takeMsg, hm]
  rfl

@[simp] theorem State.core_without (s : State) (k c : Nat) : (s.without k).core c = s.core c := rfl

theorem SameMemory.without (s : State) (k : Nat) : SameMemory s (s.without k) :=
  SameMemory.of_eq (fun _ => rfl) rfl (fun _ => rfl) rfl rfl

/-! ### A request that writes a tile store -/

/-- A request at place k of the net has written `new` at `b` in the store of core h, and has been answered with `rs`. -/
def State.Stored (s : State) (k h : Nat) (m : Msg) (b : Nat) (new : List Byte) (whole : Bool) (rs : List Reply) (w : State) : Prop :=
  (w.core h).store.readN b new.length = new ∧ (∀ a, a < b ∨ b + new.length ≤ a → (w.core h).store.read a = (s.core h).store.read a) ∧
  (w.core h).storePoison =
    (if whole then (s.core h).storePoison.filter (fun p => !wholePiece (64 * p) (cellsAt b new)) else (s.core h).storePoison) ∧
  (∀ d, d ≠ h → (w.core d).store = (s.core d).store) ∧ w.net = dropAt s.net k ∧
  (w.ctx m.core m.ctx).replies = (s.ctx m.core m.ctx).replies ++ (if m.ctx < 16 then rs else []) ∧ { w with cores := s.cores, net := s.net } = s

section
variable {s : State} {k h b : Nat} {m : Msg} {new : List Byte} {whole : Bool}

theorem stored_tileWrite (hr : (s.core h).roleNum = none) (hwf : (s.core h).store.wf = true) (id : Option Nat) :
    ∃ w, (s.without k).tileWrite h (cellsAt b new) whole id = some w ∧ s.Stored k h m b new whole [] w := by
  have hlog : (s.without k).logRole h (cellsAt b new) = some (s.without k) := by
    show (match (s.core h).roleNum with | none => _ | some r => _) = _
    rw [hr]
  have hstore (k : Core) : (if whole then k.storeWhole (cellsAt b new) id else k.storeWrite (cellsAt b new) id).store =
      k.store.writeN b new := by
    rw [← Mem.writeCells_cellsAt]; cases whole <;> rfl
  refine ⟨_, by rw [State.tileWrite, hlog]; rfl, ?_⟩
  refine ⟨?_, fun a ha => ?_, ?_, fun d hd => ?_, rfl, ?_, rfl⟩
  · rw [State.core_modCore_same, hstore]
    exact Mem.readN_writeN _ hwf _ _
  · rw [State.core_modCore_same, hstore]
    exact (Mem.read_writeN _ _ _ hwf a).trans (if_neg (by omega))
  · rw [State.core_modCore_same]
    cases whole <;> rfl
  · rw [State.core_modCore_ne _ _ _ _ hd]
    rfl
  · rw [ite_self, List.append_nil]
    have hk : Core.ctxs (_ : Core) = _ := State.core_modCore_keeps Core.ctxs (f := fun k => if whole then k.storeWhole (cellsAt b new) id
      else k.storeWrite (cellsAt b new) id) (fun k => by cases whole <;> rfl) (s.without k) h m.core
    rw [State.ctx, Core.ctx, hk]
    rfl

theorem State.Stored.answer {w : State} (hw : s.Stored k h m b new whole [] w) (r : Reply) :
    s.Stored k h m b new whole [r] (w.answer m.core m.ctx r) := by
  obtain ⟨hnew, hold, hmark, hothers, hnet, hrep, hrest⟩ := hw
  have hkeep (d : Nat) : ((w.answer m.core m.ctx r).core d).store = (w.core d).store := State.core_answer_keeps Core.store (by intros; rfl) ..
  refine ⟨?_, fun a ha => ?_, ?_, fun d hd => ?_, ?_, ?_, ?_⟩
  · rw [hkeep, hnew]
  · rw [hkeep, hold a ha]
  · rw [State.core_answer_keeps Core.storePoison (by intros; rfl), hmark]
  · rw [hkeep, hothers d hd]
  · rw [State.answer_net, hnet]
  · rw [State.replies_answer, hrep, ite_self, List.append_nil]
  · unfold State.answer
    split <;> exact hrest

end

/-! ### TILE_SPACE_ARRIVAL -/

section
variable {s : State} {k h : Nat} {m : Msg}

theorem arrival_none (hm : s.net[k]? = none) : exec (.tileSpaceArrival k) s = .next s := by
  show execTileSpaceArrival k s = _
  simp [execTileSpaceArrival, takeMsg_none hm]

/-- A request to a tile store as it arrives. -/
theorem exec_arrival (hm : s.net[k]? = some m) (hh : m.kind.store? = some h) : exec (.tileSpaceArrival k) s =
    if s.tileFirst m = false ∧ s.behindStep m = false ∧ m.bytes.any (fun b => s.bankWait h b.1 1) = false then
      .next (((s.without k).atTile m).getD (s.wantCkpt (s.tilePart h)))
    else .next s := by
  have hopen : (m.kind.store?.isNone || s.tileFirst m || s.behindStep m ||
      m.bytes.any (fun b => s.bankWait (m.kind.store?.getD 0) b.1 1)) = !decide (s.tileFirst m = false ∧ s.behindStep m = false ∧
      m.bytes.any (fun b => s.bankWait h b.1 1) = false) := by
    rw [hh]
    simp only [Option.isNone_some, Bool.false_or, Option.getD_some]
    cases s.tileFirst m <;> cases s.behindStep m <;> cases m.bytes.any (fun b => s.bankWait h b.1 1) <;> rfl
  have hrole : ∀ r clr, m.kind ≠ .roleStore r clr := by
    intro r clr hk
    simp [hk, MKind.store?] at hh
  show execTileSpaceArrival k s = _
  simp only [execTileSpaceArrival, takeMsg_eq hm, hopen]
  by_cases ho : s.tileFirst m = false ∧ s.behindStep m = false ∧ m.bytes.any (fun b => s.bankWait h b.1 1) = false
  · rw [if_pos ho, hh, decide_eq_true ho, if_neg (by simp)]
    cases (s.without k).atTile m <;> rfl
  · rw [if_neg ho, decide_eq_false ho, if_pos (by simp)]

theorem arrival_goes (hm : s.net[k]? = some m) (hh : m.kind.store? = some h)
    (ho : s.tileFirst m = false ∧ s.behindStep m = false ∧ m.bytes.any (fun b => s.bankWait h b.1 1) = false) {w : State}
    (hw : (s.without k).atTile m = some w) : exec (.tileSpaceArrival k) s = .next w := by
  rw [exec_arrival hm hh, if_pos ho, hw]
  rfl

end

end Sys2Proof.Machine
end

section
/-!
PROOFS. Requests at gang-cache homes (R104, R108, R118), and the settlement of O46.
-/

namespace Sys2Proof.Machine

/-! ### A line of a portion -/

theorem Line.same_iff (a b : Line) : a.same b = true ↔ a.line = b.line ∧ a.loc = b.loc := by simp [Line.same]

theorem Core.lineAt_key {k : Core} {line : Nat} {loc : Bool} {l : Line} (h : k.lineAt line loc = some l) : l.line = line ∧ l.loc = loc := by
  simpa using List.find?_some h

/-- A line that stands in for one the portion holds is found there. -/
theorem Core.lineAt_setLine {k : Core} {line : Nat} {loc : Bool} {l new : Line} (h : k.lineAt line loc = some l)
    (hline : new.line = line) (hloc : new.loc = loc) : (k.setLine new).lineAt line loc = some new := by
  have hkey (x : Line) : (decide ((if x.same new then new else x).line = line) && ((if x.same new then new else x).loc == loc)) =
      (decide (x.line = line) && (x.loc == loc)) := by
    by_cases hs : x.same new = true
    · obtain ⟨h1, h2⟩ := (Line.same_iff x new).mp hs
      simp [hs, h1, h2]
    · simp [hs]
  obtain ⟨h1, h2⟩ := Core.lineAt_key h
  have hsame : l.same new = true := (Line.same_iff l new).mpr ⟨h1.trans hline.symm, h2.trans hloc.symm⟩
  have hfun : ((fun x : Line => decide (x.line = line) && (x.loc == loc)) ∘ fun x => if x.same new then new else x) =
      fun x => decide (x.line = line) && (x.loc == loc) := funext hkey
  show (k.cache.map (fun x => if x.same new then new else x)).find? _ = _
  rw [List.find?_map, hfun]
  show Option.map _ (k.lineAt line loc) = _
  rw [h, Option.map_some, hsame, if_pos rfl]

section
variable {s : State} {c line : Nat} {loc : Bool} {l : Line}

theorem updateLine_absent (h : (s.core c).lineAt line loc = none) (cells : List Host.Cell) (dirty : Bool) :
    s.updateLine c line loc cells dirty = s := by
  rw [State.updateLine, h]

theorem updateLine_held (h : (s.core c).lineAt line loc = some l) (cells : List Host.Cell) (dirty : Bool) :
    s.updateLine c line loc cells dirty =
      s.modCore c (fun k => k.setLine { l with data := overlay (line * 64) l.data cells, dirty := l.dirty || dirty }) := by
  rw [State.updateLine, h]

/-- The line after an update: its bytes laid over, dirty if it was or is made so. -/
theorem lineAt_updateLine (h : (s.core c).lineAt line loc = some l) (cells : List Host.Cell) (dirty : Bool) :
    ((s.updateLine c line loc cells dirty).core c).lineAt line loc =
      some { l with data := overlay (line * 64) l.data cells, dirty := l.dirty || dirty } := by
  obtain ⟨hl, hc⟩ := Core.lineAt_key h
  rw [updateLine_held h, State.core_modCore_same]
  exact Core.lineAt_setLine h hl hc

end

/-- An update of a line changes the cache of its core and nothing else. -/
theorem updateLine_only (s : State) (c line : Nat) (loc : Bool) (cells : List Host.Cell) (dirty : Bool) :
    CoreOnly s (s.updateLine c line loc cells dirty) c := by
  unfold State.updateLine
  split
  · exact CoreOnly.refl s c
  · exact CoreOnly.modCore s c _

theorem core_updateLine_keeps {α : Type} (π : Core → α) (hπ : ∀ k l, π (Core.setLine k l) = π k) (s : State) (c line : Nat) (loc : Bool)
    (cells : List Host.Cell) (dirty : Bool) (d : Nat) : π ((s.updateLine c line loc cells dirty).core d) = π (s.core d) := by
  unfold State.updateLine
  split
  · rfl
  · exact State.core_modCore_keeps π (fun k => hπ k _) s c d

theorem SameMemory.updateLine (s : State) (c line : Nat) (loc : Bool) (cells : List Host.Cell) (dirty : Bool) :
    SameMemory s (s.updateLine c line loc cells dirty) := by
  unfold State.updateLine
  split
  · exact SameMemory.refl s
  · exact SameMemory.modCore s c _ (fun _ => rfl)

theorem ctx_updateLine (s : State) (c line : Nat) (loc : Bool) (cells : List Host.Cell) (dirty : Bool) (d x : Nat) :
    (s.updateLine c line loc cells dirty).ctx d x = s.ctx d x :=
  congrArg (tget Ctx.reset · x) (core_updateLine_keeps Core.ctxs (fun _ _ => rfl) s c line loc cells dirty d)

/-! ### The marks of an XFENCE -/

theorem Core.fenced_iff (k : Core) (id : Nat) : k.fenced id = true ↔ id ∈ k.xmarks ∨ ∃ q ∈ k.fifo, id ∈ q.marks := by
  simp [Core.fenced]

/-- A write that takes the place of a marked one is marked. -/
theorem Core.fenced_remark {k : Core} {old : Nat} (h : k.fenced old = true) (new : Nat) : (k.remark old new).fenced new = true := by
  have hmem {ids : List Nat} (hi : old ∈ ids) : new ∈ ids.map (fun i => if i = old then new else i) :=
    List.mem_map.mpr ⟨old, hi, if_pos rfl⟩
  rw [Core.fenced_iff] at h ⊢
  obtain hx | ⟨q, hq, hm⟩ := h
  · exact .inl (hmem hx)
  · exact .inr ⟨_, List.mem_map.mpr ⟨q, hq, rfl⟩, hmem hm⟩

theorem fenced_updateLine (s : State) (c line : Nat) (loc : Bool) (cells : List Host.Cell) (dirty : Bool) (d id : Nat) :
    ((s.updateLine c line loc cells dirty).core d).fenced id = (s.core d).fenced id :=
  core_updateLine_keeps (fun k => k.fenced id) (fun _ _ => rfl) s c line loc cells dirty d

/-! ### A write-through at the portion that homes its line -/

/-- What a write-through leaves before the mark of an XFENCE follows it: the line updated, the unit sent on. -/
def State.throughSent (s : State) (m : Msg) (h : Nat) : State :=
  (s.updateLine h (m.addr / 64) false m.bytes false).send
    (s.memMsg m.core m.ctx m.entry (.unit false true false) m.part m.addr m.bytes)

section
variable (s : State) (m : Msg) (h : Nat)

theorem through_unfenced (hf : (s.core m.core).fenced m.id = false) : s.through m h = s.throughSent m h := by
  have hu : ((s.throughSent m h).core m.core).fenced m.id = false := (fenced_updateLine ..).trans hf
  exact if_neg (fun hc => Bool.noConfusion (hu.symm.trans hc))

theorem through_fenced (hf : (s.core m.core).fenced m.id = true) :
    s.through m h = (s.throughSent m h).modCore m.core (fun k => k.remark m.id s.msgCtr) := by
  have hu : ((s.throughSent m h).core m.core).fenced m.id = true := (fenced_updateLine ..).trans hf
  exact if_pos hu

/-- What no mark shows is the same with and without it. -/
theorem core_through_keeps {α : Type} (π : Core → α) (hπ : ∀ k a b, π (Core.remark k a b) = π k) (d : Nat) :
    π ((s.through m h).core d) = π ((s.updateLine h (m.addr / 64) false m.bytes false).core d) := by
  cases hf : (s.core m.core).fenced m.id
  · rw [through_unfenced s m h hf]; rfl
  · rw [through_fenced s m h hf]
    exact State.core_modCore_keeps π (fun k => hπ k _ _) _ _ d

theorem SameMemory.through : SameMemory s (s.through m h) := by
  have hs : SameMemory s (s.throughSent m h) := (SameMemory.updateLine s h (m.addr / 64) false m.bytes false).trans
    (SameMemory.of_eq (fun _ => rfl) rfl (fun _ => rfl) rfl rfl)
  cases hf : (s.core m.core).fenced m.id
  · rw [through_unfenced s m h hf]; exact hs
  · rw [through_fenced s m h hf]
    exact hs.trans (SameMemory.modCore _ _ _ (fun _ => rfl))

theorem through_device : { s.through m h with cores := s.cores, net := s.net, msgCtr := s.msgCtr } = s := by
  have hd := (updateLine_only s h (m.addr / 64) false m.bytes false).device
  have hs : { s.throughSent m h with cores := s.cores, net := s.net, msgCtr := s.msgCtr } = s :=
    congrArg (fun u : State => { u with net := s.net, msgCtr := s.msgCtr }) hd
  cases hf : (s.core m.core).fenced m.id
  · rw [through_unfenced s m h hf]; exact hs
  · rw [through_fenced s m h hf]; exact hs

theorem through_sends : ∃ f, (s.through m h).net = s.net ++ [f] ∧ f.kind = .unit false true false ∧ f.id = s.msgCtr ∧ f.core = m.core ∧
    f.ctx = m.ctx ∧ f.entry = m.entry ∧ f.part = m.part ∧ f.addr = m.addr ∧ f.bytes = m.bytes := by
  have hctr : (s.updateLine h (m.addr / 64) false m.bytes false).msgCtr = s.msgCtr := by
    unfold State.updateLine
    split <;> rfl
  refine ⟨{ s.memMsg m.core m.ctx m.entry (.unit false true false) m.part m.addr m.bytes
    with id := (s.updateLine h (m.addr / 64) false m.bytes false).msgCtr }, ?_, rfl, hctr, rfl, rfl, rfl, rfl, rfl, rfl⟩
  have hs := congrArg (· ++ [({ s.memMsg m.core m.ctx m.entry (.unit false true false)
    m.part m.addr m.bytes with id := (s.updateLine h (m.addr / 64) false m.bytes false).msgCtr } : Msg)])
    (net_updateLine s h (m.addr / 64) false m.bytes false)
  cases hf : (s.core m.core).fenced m.id
  · rw [through_unfenced s m h hf]; exact hs
  · rw [through_fenced s m h hf]; exact hs

theorem through_marks (hf : (s.core m.core).fenced m.id = true) : ((s.through m h).core m.core).fenced s.msgCtr = true := by
  rw [through_fenced s m h hf, State.core_modCore_same]
  exact Core.fenced_remark ((fenced_updateLine ..).trans hf) _

end

/-! ### GANG_CACHE_HOME_APPLY -/

section
variable {s : State} {k h : Nat} {m : Msg}

theorem homeApply_none (hm : s.net[k]? = none) : exec (.gangCacheHomeApply k) s = .next s := by
  show execGangCacheHomeApply k s = _
  simp [execGangCacheHomeApply, takeMsg_none hm]

theorem homeApply_waits (hm : s.net[k]? = some m) (hl : s.lineFirst m = true) : exec (.gangCacheHomeApply k) s = .next s := by
  show execGangCacheHomeApply k s = _
  simp only [execGangCacheHomeApply, takeMsg_eq hm, hl]
  split <;> rfl

theorem homeApply_held (hm : s.net[k]? = some m) (hh : m.kind.cache? = some h) (hl : s.lineFirst m = false) {l : Line}
    (hline : (s.core h).lineAt (m.addr / 64) false = some l) :
    exec (.gangCacheHomeApply k) s = .next ((s.without k).onLine m l) := by
  show execGangCacheHomeApply k s = _
  simp [execGangCacheHomeApply, takeMsg_eq hm, hh, hl, hline]

/-- A request for a line that its portion lacks. -/
theorem homeApply_absent (hm : s.net[k]? = some m) (hh : m.kind.cache? = some h) (hl : s.lineFirst m = false)
    (hline : (s.core h).lineAt (m.addr / 64) false = none) : exec (.gangCacheHomeApply k) s = .next (
      if s.fetching h (m.addr / 64) then s
      else if m.kind == .cacheUpdate h then (s.without k).through m h
      else s.send (s.memMsg h noCtx s.msgCtr (.fetch h false) m.part (m.addr / 64 * 64) [])) := by
  show execGangCacheHomeApply k s = _
  simp only [execGangCacheHomeApply, takeMsg_eq hm, hh, hl, hline, Bool.false_eq_true, if_false]
  split
  · rfl
  · split <;> rfl

/-- A write-through at place k of the net has been sent on under its own entry: besides the caches and the marks, of which `Q` tells, nothing
changes. -/
def State.Throughs (s : State) (k : Nat) (m : Msg) (Q : State → Prop) (w : State) : Prop :=
  SameMemory s w ∧ { w with cores := s.cores, net := s.net, msgCtr := s.msgCtr } = s ∧ (∀ d, (w.core d).ctxs = (s.core d).ctxs) ∧ Q w ∧
  ∃ f, w.net = dropAt s.net k ++ [f] ∧ f.kind = .unit false true false ∧ f.id = s.msgCtr ∧ f.core = m.core ∧ f.ctx = m.ctx ∧
    f.entry = m.entry ∧ f.part = m.part ∧ f.addr = m.addr ∧ f.bytes = m.bytes

/-- What a write-through at a gang-cache home does: it is sent on under its own entry, and no byte of a memory changes. -/
theorem homeApply_through {Q : State → Prop} (he : exec (.gangCacheHomeApply k) s = .next ((s.without k).through m h))
    (hQ : Q ((s.without k).through m h)) : Makes (.gangCacheHomeApply k) s (s.Throughs k m Q) := by
  refine ⟨_, he, ?_, ?_, fun d => ?_, hQ, through_sends _ m h⟩
  · exact (SameMemory.without s k).trans
      (SameMemory.through _ m h)
  · exact congrArg (fun u : State => { u with net := s.net }) (through_device (s.without k) m h)
  · exact (core_through_keeps _ m h Core.ctxs (fun _ _ _ => rfl) d).trans (core_updateLine_keeps Core.ctxs (fun _ _ => rfl) ..)

end

end Sys2Proof.Machine
end

section
/-!
PROOFS. Requests at tiles: the cases of O46 by the kind of a request.
-/

namespace Sys2Proof.Machine

/-! ### Requests to a tile store, by kind -/

section
variable {s : State} {k h : Nat} {m : Msg}
  (hm : s.net[k]? = some m)
  (ho : s.tileFirst m = false ∧ s.behindStep m = false ∧ m.bytes.any (fun b => s.bankWait h b.1 1) = false)
include hm ho

theorem arrival_tileStore {ack clr : Bool} {a : Nat} {bs : List Byte} (hk : m.kind = .tileStore h ack clr) (hb : m.bytes = cellsAt a bs)
    (hr : (s.core h).roleNum = none) (hwf : (s.core h).store.wf = true) :
    Makes (.tileSpaceArrival k) s (s.Stored k h m a bs clr (if ack then [⟨m.id, [], false, 0, 0⟩] else [])) := by
  obtain ⟨w, hw, hst⟩ := stored_tileWrite (k := k) (m := m) (b := a) (new := bs) (whole := clr) hr hwf (some m.id)
  have hat : (s.without k).atTile m =
      some (if ack then w.answer m.core m.ctx ⟨m.id, [], false, 0, 0⟩ else w) := by
    simp only [State.atTile, hk, hb, hw, Option.map_some]
  refine ⟨_, arrival_goes hm (by rw [hk]; rfl) ho hat, ?_⟩
  cases ack
  · exact hst
  · exact hst.answer _

/-- A store or a probe that meets an operand range of the target's queue. -/
theorem arrival_refused {planes : List (List (Nat × Nat × Word))} (hk : (∃ clr, m.kind = .farStore h planes clr) ∨ m.kind = .farProbe h planes)
    {b : Word} {pos : Nat} (hb : (s.core h).refusal planes = some (b, pos)) : exec (.tileSpaceArrival k) s =
      .next ((s.without k).answer m.core m.ctx ⟨m.id, toBytes 8 b.toNat, false, Cause.opbufInUse, pos⟩) := by
  obtain ⟨clr, hk⟩ | hk := hk <;> refine arrival_goes hm (by rw [hk]; rfl) ho ?_ <;> simp only [State.atTile, hk, State.core_without, hb]

theorem arrival_farStore {planes : List (List (Nat × Nat × Word))} {clr : Bool} {a : Nat} {bs : List Byte}
    (hk : m.kind = .farStore h planes clr) (hn : (s.core h).refusal planes = none) (hb : m.bytes = cellsAt a bs)
    (hr : (s.core h).roleNum = none) (hwf : (s.core h).store.wf = true) :
    Makes (.tileSpaceArrival k) s (s.Stored k h m a bs clr [⟨m.id, [], false, 0, 0⟩]) := by
  obtain ⟨w, hw, hst⟩ := stored_tileWrite (k := k) (m := m) (b := a) (new := bs) (whole := clr) hr hwf none
  refine ⟨_, arrival_goes hm (by rw [hk]; rfl) ho ?_, hst.answer _⟩
  simp only [State.atTile, hk, State.core_without, hn, hb, hw, Option.map_some]

theorem arrival_farProbe {planes : List (List (Nat × Nat × Word))} (hk : m.kind = .farProbe h planes) (hn : (s.core h).refusal planes = none) :
    exec (.tileSpaceArrival k) s =
      .next ((s.without k).answer m.core m.ctx ⟨m.id, [], false, 0, 0⟩) := by
  refine arrival_goes hm (by rw [hk]; rfl) ho ?_
  simp only [State.atTile, hk, State.core_without, hn]

/-- A read: its answer is what its thread finds there, and it takes a free value where it had a choice. -/
theorem arrival_tileRead (hk : m.kind = .tileRead h) : exec (.tileSpaceArrival k) s =
    .next (((s.without k).answer m.core m.ctx ⟨m.id, s.threadSees h m.core m.addr m.bytes.length,
      (s.core h).poisoned m.addr m.bytes.length, 0, 0⟩).threadRead h m.core m.addr m.bytes.length) := by
  refine arrival_goes hm (by rw [hk]; rfl) ho ?_
  simp only [State.atTile, hk]
  rfl

theorem arrival_tileRead_settled (hk : m.kind = .tileRead h) (hu : (s.core h).unsettled m.addr m.bytes.length = false)
    (hf : s.freshFor h m.core m.addr m.bytes.length = false) : exec (.tileSpaceArrival k) s =
      .next ((s.without k).answer m.core m.ctx ⟨m.id, (s.core h).store.readN m.addr m.bytes.length,
        (s.core h).poisoned m.addr m.bytes.length, 0, 0⟩) := by
  have hsees : s.threadSees h m.core m.addr m.bytes.length = (s.core h).store.readN m.addr m.bytes.length := by
    simp only [State.threadSees, hf, Core.seen_settled hu, Bool.false_eq_true, if_false]
  rw [arrival_tileRead hm ho hk, hsees]
  have hfresh (r : Reply) : ((s.without k).answer m.core m.ctx r).freshFor h m.core m.addr m.bytes.length = false :=
    (State.freshFor_answer ..).trans hf
  have hset (r : Reply) : (((s.without k).answer m.core m.ctx r).core h).unsettled m.addr m.bytes.length = false :=
    (State.core_answer_keeps (fun k => k.unsettled m.addr m.bytes.length) (by intros; rfl) ..).trans hu
  rw [State.threadRead, hfresh, if_neg (by simp), State.readStep_settled (hset _)]

theorem arrival_tileRead_bytes (hk : m.kind = .tileRead h) (hx : m.ctx < 16) : Makes (.tileSpaceArrival k) s (fun w =>
    ∃ r, (w.ctx m.core m.ctx).replies = (s.ctx m.core m.ctx).replies ++ [r] ∧ r.id = m.id ∧ r.data.length = m.bytes.length ∧
      SameMemory s w ∧ ∀ i, i < m.bytes.length → (∃ M ∈ (s.core h).store :: (s.core h).ahead, nth 0 r.data i = M.read (m.addr + i)) ∨
        ∃ b ∈ (s.core h).fresh, b.off = m.addr + i ∧ s.unacquired m.core b = true ∧ nth 0 r.data i = b.old) := by
  refine ⟨_, arrival_tileRead hm ho hk, ⟨m.id, s.threadSees h m.core m.addr m.bytes.length,
    (s.core h).poisoned m.addr m.bytes.length, 0, 0⟩, ?_, rfl, s.length_threadSees .., ?_, fun i hi => s.nth_threadSees h m.core m.addr hi⟩
  · rw [State.ctx_threadRead, State.replies_answer, if_pos hx]
    rfl
  · exact (SameMemory.without s k).trans
      ((SameMemory.answer ..).trans (SameMemory.threadRead ..))

theorem arrival_tileAtomic_refused {op : AtomOp} (hk : m.kind = .tileAtomic h op) {pos : Nat}
    (hp : (s.core h).latestMet [(m.addr, atomBytes op)] = some pos) : exec (.tileSpaceArrival k) s =
      .next ((s.without k).answer m.core m.ctx ⟨m.id, [], false, Cause.opbufInUse, pos⟩) := by
  refine arrival_goes hm (by rw [hk]; rfl) ho ?_
  simp only [State.atTile, hk, State.core_without, hp]

section
variable {op : AtomOp} (hk : m.kind = .tileAtomic h op) (hp : (s.core h).latestMet [(m.addr, atomBytes op)] = none)
  (hu : (s.core h).unsettled m.addr (atomBytes op) = false)
include hk hp hu

theorem arrival_tileAtomic_poisoned (hz : (s.core h).poisoned m.addr (atomBytes op) = true) : exec (.tileSpaceArrival k) s =
    .next ((s.without k).answer m.core m.ctx
      ⟨m.id, (s.core h).store.readN m.addr (atomBytes op), true, 0, 0⟩) := by
  refine arrival_goes hm (by rw [hk]; rfl) ho ?_
  simp only [State.atTile, hk, State.core_without, hp, Core.seen_settled hu, State.readStep_settled (s := s.without k) hu, hz, if_true]

theorem arrival_tileAtomic (hr : (s.core h).roleNum = none) (hwf : (s.core h).store.wf = true)
    (hz : (s.core h).poisoned m.addr (atomBytes op) = false) :
    Makes (.tileSpaceArrival k) s (s.Stored k h m m.addr
      (toBytes (atomBytes op) (atomNew op (ofBytes ((s.core h).store.readN m.addr (atomBytes op))))) false
      [⟨m.id, (s.core h).store.readN m.addr (atomBytes op), false, 0, 0⟩]) := by
  obtain ⟨w, hw, hst⟩ := stored_tileWrite (k := k) (m := m) (b := m.addr) (whole := false)
    (new := toBytes (atomBytes op) (atomNew op (ofBytes ((s.core h).store.readN m.addr (atomBytes op))))) hr hwf none
  refine ⟨_, arrival_goes hm (by rw [hk]; rfl) ho ?_, hst.answer _⟩
  have hw' : (s.without k).tileWrite h (atomCells op m.addr ((s.core h).store.readN m.addr (atomBytes op))) false = some w := hw
  simp only [State.atTile, hk, State.core_without, hp, Core.seen_settled hu, State.readStep_settled (s := s.without k) hu, hz,
    Bool.false_eq_true, if_false, hw', Option.map_some]

end

end

/-! ### Requests to a line, by kind -/

section
variable {s : State} {k h : Nat} {m : Msg} (hm : s.net[k]? = some m) (hl : s.lineFirst m = false)
include hm hl

section
variable {l : Line} (hline : (s.core h).lineAt (m.addr / 64) false = some l)
include hline

theorem homeApply_store (hk : m.kind = .cacheStore h) (hf : (s.core m.core).fenced m.id = false) :
    Makes (.gangCacheHomeApply k) s (fun w => CoreOnly (s.without k) w h ∧
      (w.core h).lineAt (m.addr / 64) false =
        some { l with data := overlay (m.addr / 64 * 64) l.data m.bytes, dirty := true } ∧
      (w.core h).store = (s.core h).store ∧ (w.core h).ctxs = (s.core h).ctxs) := by
  have hon : (s.without k).onLine m l =
      (s.without k).updateLine h (m.addr / 64) false m.bytes true := by
    simp only [State.onLine, hk, State.cacheApply, State.fenceLine]
    refine if_neg (fun hc => Bool.noConfusion (hf.symm.trans (Eq.trans ?_ hc)))
    exact (fenced_updateLine (s.without k) ..).symm
  refine ⟨_, (homeApply_held hm (by rw [hk]; rfl) hl hline).trans (congrArg _ hon), updateLine_only .., ?_, ?_, ?_⟩
  · rw [lineAt_updateLine (s := s.without k) hline, Bool.or_true]
  · exact core_updateLine_keeps Core.store (fun _ _ => rfl) (s.without k) ..
  · exact core_updateLine_keeps Core.ctxs (fun _ _ => rfl) (s.without k) ..

theorem homeApply_read {n : Nat} (hk : m.kind = .cacheRead h n false) : exec (.gangCacheHomeApply k) s =
    .next ((s.without k).answer m.core m.ctx
      ⟨m.id, Machine.slice l.data (m.addr % 64) n, l.poison, 0, 0⟩) := by
  rw [homeApply_held hm (by rw [hk]; rfl) hl hline]
  simp only [State.onLine, hk, Bool.false_and, Bool.false_eq_true, if_false]

theorem homeApply_atomic_poisoned {op : AtomOp} {thru : Bool} (hk : m.kind = .cacheAtomic h op thru) (hz : l.poison = true) :
    exec (.gangCacheHomeApply k) s = .next ((s.without k).answer m.core m.ctx
      ⟨m.id, Machine.slice l.data (m.addr % 64) (atomBytes op), true, 0, 0⟩) := by
  rw [homeApply_held hm (by rw [hk]; rfl) hl hline]
  simp only [State.onLine, hk, hz, if_true]

/-- An atomic on a line that holds no poison: it answers with the old value, and the line has the new one; one that goes through is sent on
and leaves the line as clean as it was. -/
theorem homeApply_atomic {op : AtomOp} {thru : Bool} (hk : m.kind = .cacheAtomic h op thru) (hz : l.poison = false) :
    let old := Machine.slice l.data (m.addr % 64) (atomBytes op)
    let new := cellsAt m.addr (toBytes (atomBytes op) (atomNew op (ofBytes old)))
    Makes (.gangCacheHomeApply k) s (fun w => SameMemory s w ∧
      (w.core h).lineAt (m.addr / 64) false =
        some { l with data := overlay (m.addr / 64 * 64) l.data new, dirty := if thru then l.dirty else true } ∧
      (thru = false → w.net = dropAt s.net k) ∧
      (thru = true → ∃ f, w.net = dropAt s.net k ++ [f] ∧ f.kind = .unit false true false ∧ f.core = m.core ∧ f.ctx = m.ctx ∧
        f.part = m.part ∧ f.addr = m.addr ∧ f.bytes = new) ∧
      (m.ctx < 16 → (w.ctx m.core m.ctx).replies = (s.ctx m.core m.ctx).replies ++ [⟨m.id, old, false, 0, 0⟩])) := by
  intro old new
  obtain ⟨hkey, -⟩ := Core.lineAt_key hline
  let u := (s.without k).answer m.core m.ctx ⟨m.id, old, false, 0, 0⟩
  have hon : (s.without k).onLine m l = (if thru then u.send (u.memMsg m.core m.ctx u.msgCtr (.unit false true false) m.part m.addr new)
      else u).updateLine h (m.addr / 64) false new (!thru) := by
    simp only [State.onLine, hk, hz, Bool.false_eq_true, if_false, hkey]
    rfl
  have hheld : (u.core h).lineAt (m.addr / 64) false = some l :=
    (State.core_answer_keeps (fun k => k.lineAt (m.addr / 64) false) (by intros; rfl) ..).trans hline
  have hmem : SameMemory s u := (SameMemory.without s k).trans (SameMemory.answer ..)
  have hnet : u.net = dropAt s.net k := State.answer_net ..
  have hreply (hx : m.ctx < 16) : (u.ctx m.core m.ctx).replies = (s.ctx m.core m.ctx).replies ++ [⟨m.id, old, false, 0, 0⟩] := by
    rw [State.replies_answer, if_pos hx]
    rfl
  refine ⟨_, (homeApply_held hm (by rw [hk]; rfl) hl hline).trans (congrArg _ hon), ?_⟩
  cases thru
  case false =>
    refine ⟨hmem.trans (SameMemory.updateLine ..), ?_, fun _ => ?_, fun h => absurd h (by simp), fun hx => ?_⟩
    · exact (lineAt_updateLine hheld new true).trans (by rw [Bool.or_true]; rfl)
    · exact (net_updateLine ..).trans hnet
    · exact (congrArg Ctx.replies (ctx_updateLine ..)).trans (hreply hx)
  case true =>
    have hsent := hmem.trans (SameMemory.of_eq (t := u.send (u.memMsg m.core m.ctx u.msgCtr (.unit false true false) m.part m.addr new))
      (fun _ => rfl) rfl (fun _ => rfl) rfl rfl)
    refine ⟨hsent.trans (SameMemory.updateLine ..), ?_, fun h => absurd h (by simp), fun _ => ⟨{ u.memMsg m.core m.ctx u.msgCtr
      (.unit false true false) m.part m.addr new with id := u.msgCtr }, ?_, rfl, rfl, rfl, rfl, rfl, rfl⟩, fun hx => ?_⟩
    · exact (lineAt_updateLine (s := u.send _) hheld new false).trans (by rw [Bool.or_false]; rfl)
    · exact (net_updateLine ..).trans (congrArg (· ++ _) hnet)
    · exact (congrArg Ctx.replies (ctx_updateLine ..)).trans (hreply hx)

theorem homeApply_update (hk : m.kind = .cacheUpdate h) : Makes (.gangCacheHomeApply k) s (s.Throughs k m (fun w =>
      (w.core h).lineAt (m.addr / 64) false = some { l with data := overlay (m.addr / 64 * 64) l.data m.bytes, dirty := l.dirty } ∧
        ((s.core m.core).fenced m.id = true → (w.core m.core).fenced s.msgCtr = true) ∧
        ((s.core m.core).fenced m.id = false → ∀ d, d ≠ h → w.core d = s.core d))) := by
  refine homeApply_through ((homeApply_held hm (by rw [hk]; rfl) hl hline).trans ?_)
    ⟨?_, fun hf => through_marks (s.without k) m h hf, fun hf d hd => ?_⟩
  · simp only [State.onLine, hk]
  · rw [core_through_keeps (s.without k) m h (fun k => k.lineAt (m.addr / 64) false) (fun _ _ _ => rfl),
      lineAt_updateLine (s := s.without k) hline, Bool.or_false]
  · rw [through_unfenced (s.without k) m h hf]
    exact (updateLine_only (s.without k) h (m.addr / 64) false m.bytes false).cores d hd

end

section
variable (hline : (s.core h).lineAt (m.addr / 64) false = none)
include hline

theorem homeApply_update_absent (hk : m.kind = .cacheUpdate h) (hf : s.fetching h (m.addr / 64) = false) :
    Makes (.gangCacheHomeApply k) s (s.Throughs k m (fun w => (s.core m.core).fenced m.id = false → w.cores = s.cores)) := by
  refine homeApply_through (h := h) ((homeApply_absent hm (by rw [hk]; rfl) hl hline).trans ?_) fun hq => ?_
  · rw [hf, hk, if_neg (by simp), if_pos (by simp)]
  · rw [through_unfenced (s.without k) m h hq, State.throughSent, updateLine_absent (s := s.without k) hline]
    rfl

/-- Any other request for an absent line sends for the line and stays. -/
theorem homeApply_fetches (hh : m.kind.cache? = some h) (hk : m.kind ≠ .cacheUpdate h) (hf : s.fetching h (m.addr / 64) = false) :
    Makes (.gangCacheHomeApply k) s (fun w => ∃ f, w.net = s.net ++ [f] ∧ f.kind = .fetch h false ∧ f.core = h ∧ f.part = m.part ∧
      f.addr = m.addr / 64 * 64 ∧ f.id = s.msgCtr ∧ w.cores = s.cores) := by
  refine ⟨s.send (s.memMsg h noCtx s.msgCtr (.fetch h false) m.part (m.addr / 64 * 64) []), ?_,
    { s.memMsg h noCtx s.msgCtr (.fetch h false) m.part (m.addr / 64 * 64) [] with id := s.msgCtr }, rfl, rfl, rfl, rfl, rfl, rfl, rfl⟩
  rw [homeApply_absent hm hh hl hline, hf, if_neg (by simp), if_neg (by simpa using hk)]

end

end

/-! ### O46 -/

/-- Settles O46: a request at a tile store by its kind, and a request at the portion that homes its line by whether the line is there. -/
theorem requestsReachTiles : Obligations.RequestsReachTiles := by
  intro s k h ack clr thru m op l a n bs planes
  refine ⟨fun hm => ⟨arrival_none hm, homeApply_none hm⟩, fun hm => ⟨fun hh hno => ?stays,
    fun ho => ⟨?tileStore, ?farStore, ?farProbe, ?tileRead, ?tileAtomic⟩,
    fun hl => homeApply_waits hm hl, fun hl hline => ⟨?store, ?update, ?read, ?atomic⟩, fun hl hline => ⟨?fetching, ?absent, ?fetch⟩⟩⟩
  case stays => rw [exec_arrival hm hh, if_neg hno]
  case tileStore => exact fun hk hb hr hwf => arrival_tileStore hm ho hk hb hr hwf
  case farStore =>
    exact fun hk => ⟨fun b pos hb => arrival_refused hm ho (.inl ⟨clr, hk⟩) hb, fun hn hb hr hwf => arrival_farStore hm ho hk hn hb hr hwf⟩
  case farProbe => exact fun hk => ⟨fun b pos hb => arrival_refused hm ho (.inr hk) hb, fun hn => arrival_farProbe hm ho hk hn⟩
  case tileRead =>
    exact fun hk => ⟨fun hu hf => arrival_tileRead_settled hm ho hk hu hf, fun hx => arrival_tileRead_bytes hm ho hk hx⟩
  case tileAtomic =>
    refine fun hk => ⟨fun pos hp => arrival_tileAtomic_refused hm ho hk hp, fun hr hwf hp hu => ⟨fun hz => ?_, fun hz => ?_⟩⟩
    · exact arrival_tileAtomic_poisoned hm ho hk hp hu hz
    · exact arrival_tileAtomic hm ho hk hp hu hr hwf hz
  case store => exact fun hk hf => homeApply_store hm hl hline hk hf
  case update => exact fun hk => homeApply_update hm hl hline hk
  case read => exact fun hk => homeApply_read hm hl hline hk
  case atomic => exact fun hk => ⟨homeApply_atomic_poisoned hm hl hline hk, homeApply_atomic hm hl hline hk⟩
  case fetching =>
    intro hh hf
    rw [homeApply_absent hm hh hl hline, if_pos hf]
  case absent => exact fun hk hf => homeApply_update_absent hm hl hline hk hf
  case fetch =>
    intro hk hf
    obtain ⟨hh, hne⟩ : m.kind.cache? = some h ∧ m.kind ≠ .cacheUpdate h := by obtain hk | hk | hk := hk <;> simp [hk, MKind.cache?]
    exact homeApply_fetches hm hl hline hh hne hf

end Sys2Proof.Machine
end

section
/-!
PROOFS. Requests at slices (O47): a state whose system area is not in canonical form.
-/

namespace Sys2Proof.Machine

/-- A write of 0x00 to the first byte of partition 0's system area, whose home is slice 0. -/
def zeroStore : Msg := ⟨0, 0, 0, 0, .unit false true false, 0, sysPa, 0, 2 ^ 40, 0, 0, cellsAt sysPa [0], []⟩

/-- Slice 0 holds the first piece of the area, and the write has come to it; the area lists its first byte twice, as 1 and as 2, so that it is
not in canonical form (`Mem.wf`). -/
def areaTwice : State :=
  { (State.reset.modPart 0 (fun p => { p with sys := [(0, 1), (0, 2)] })).modSlice 0 (fun l => { l with
      tags := [⟨0, 0, sysPa, 2 ^ 40, 1, 0, 0, [(0, List.replicate 64 0)], 0⟩] }) with net := [zeroStore] }

/-- What slice 0 holds of the piece after an event. -/
def firstPieceAfter : Host.Outcome State Fault Refusal → Option (List Byte × Bool)
  | .next w => w.onSlice 0 (2 ^ 40)
  | _ => none

/-- The premises of O47's clause on a write unit. -/
theorem zeroStore_here : areaTwice.net[0]? = some zeroStore ∧ areaTwice.canArrive zeroStore = true ∧ (areaTwice.slice 0).hold = false ∧
    (areaTwice.slice 0).queue = [] ∧ areaTwice.homeSlice zeroStore.place zeroStore.addr = 0 ∧
    zeroStore.behindBank (areaTwice.slice 0).mshrs = false ∧ areaTwice.onSlice 0 zeroStore.sbyte = some (1 :: List.replicate 63 0, false) ∧
    areaTwice.canLog zeroStore.part zeroStore.addr zeroStore.place = true := by decide +kernel

/-- The write takes the first entry away, and the byte reads as the second one: 2, not 0. -/
theorem firstPieceAfter_zeroStore :
    firstPieceAfter (exec (.sliceWriteApply 0) areaTwice) = some (2 :: List.replicate 63 0, false) := by decide +kernel

/-- Refutes O47: it speaks of every state, also of one whose system area is not in canonical form, and there a byte that a unit has written
does not read as written (`areaTwice`). -/
theorem not_requestsReachSlices : ¬ Obligations.RequestsReachSlices := by
  intro h
  obtain ⟨hnet, harrive, hhold, hqueue, hhome, hbank, hon, hlog⟩ := zeroStore_here
  obtain ⟨-, hreq, -⟩ := h areaTwice 0 0 0 zeroStore (.amo .add .w 5) false true false false (1 :: List.replicate 63 0)
    ⟨0, [], default, none, none⟩ default default
  obtain ⟨-, -, -, happlies, -⟩ := hreq hnet
  obtain ⟨w, hw, hafter, -⟩ := happlies rfl ⟨⟨harrive, hhold, hqueue⟩, hhome, hbank, hon⟩ hlog
  have hread : firstPieceAfter (exec (.sliceWriteApply 0) areaTwice) = w.onSlice 0 (2 ^ 40) := by rw [hw]; rfl
  rw [firstPieceAfter_zeroStore] at hread
  have : overlay (zeroStore.addr / 64 * 64) (1 :: List.replicate 63 0) zeroStore.bytes = 2 :: List.replicate 63 0 :=
    congrArg (fun r => (r.getD ([], false)).1) (hafter.symm.trans hread.symm)
  exact absurd this (by decide +kernel)

end Sys2Proof.Machine
end

section
/-!
PROOFS. The steps of a couch and of a SPLIT change (R100, R341 to R343): write-backs that leave a cache without lines, what the caught-up
owner has had, and the end of each.
-/

namespace Sys2Proof.Machine

/-! ### Write-backs -/

theorem cores_sendBack (s : State) (c : Nat) (l : Line) : (s.sendBack c l).cores = s.cores := by
  unfold State.sendBack State.sendBackFor
  split <;> rfl

theorem parts_sendBack (s : State) (c : Nat) (l : Line) : (s.sendBack c l).parts = s.parts := by
  unfold State.sendBack State.sendBackFor
  split <;> rfl

theorem memStacks_sendBack (s : State) (c : Nat) (l : Line) : (s.sendBack c l).memStacks = s.memStacks := by
  unfold State.sendBack State.sendBackFor
  split <;> rfl

theorem SameMemory.sendBack (s : State) (c : Nat) (l : Line) : SameMemory s (s.sendBack c l) := by
  unfold State.sendBack State.sendBackFor
  split
  · exact SameMemory.refl s
  · exact SameMemory.of_eq (fun _ => rfl) rfl (fun _ => rfl) rfl rfl

theorem SameMemory.writeBack (s : State) (c : Nat) (p : Line → Bool) : SameMemory s (s.writeBack c p) := by
  refine SameMemory.foldl _ _ (fun s l => ?_) s
  exact (SameMemory.sendBack s c l).trans (SameMemory.modCore _ c _ (by intros; rfl))

theorem SameMemory.discard (s : State) (c : Nat) (p : Line → Bool) : SameMemory s (s.discard c p) :=
  SameMemory.modCore s c _ (fun _ => rfl)

theorem parts_writeBack (s : State) (c : Nat) (p : Line → Bool) : (s.writeBack c p).parts = s.parts := by
  refine foldl_keeps State.parts (fun s l => ?_) _ s
  exact parts_sendBack s c l

theorem core_writeBack_keeps {α : Type} (π : Core → α) (hπ : ∀ k l, π (Core.setLine k l) = π k) (s : State) (c : Nat) (p : Line → Bool)
    (d : Nat) : π ((s.writeBack c p).core d) = π (s.core d) := by
  refine foldl_keeps (fun s => π (s.core d)) (fun s l => ?_) _ s
  rw [State.core_modCore_keeps π (fun k => hπ k _), State.core, cores_sendBack, State.core]

/-- A line that stands in for another has its number. -/
theorem lines_setLine (k : Core) (l : Line) : (k.setLine l).cache.map Line.line = k.cache.map Line.line := by
  simp only [Core.setLine, List.map_map]
  refine List.map_congr_left fun x _ => ?_
  by_cases h : x.same l = true
  · simp [h, ((Line.same_iff x l).mp h).1]
  · simp [h]

/-- A write-back leaves the lines that are held. -/
theorem lines_writeBack (s : State) (c : Nat) (p : Line → Bool) (d : Nat) :
    ((s.writeBack c p).core d).cache.map Line.line = (s.core d).cache.map Line.line :=
  core_writeBack_keeps (fun k => k.cache.map Line.line) lines_setLine s c p d

theorem cache_discard_same (s : State) (c : Nat) (p : Line → Bool) :
    ((s.discard c p).core c).cache = (s.core c).cache.filter (fun l => !p l) := by
  rw [State.discard, State.core_modCore_same]

/-! ### The caches of a die without the lines of a stack -/

theorem lineOn_parts {s t : State} (h : t.parts = s.parts) : t.lineOn = s.lineOn := by
  funext c n l
  simp only [State.lineOn, State.tilePart, State.part, h]

theorem lineOn_line {a b : Line} (h : a.line = b.line) (s : State) (c n : Nat) : s.lineOn c n a = s.lineOn c n b := by
  simp only [State.lineOn, h]

/-- Core c holds no line of stack n. -/
def State.Rid (s : State) (n c : Nat) : Prop := ∀ l ∈ (s.core c).cache, s.lineOn c n l = false

/-- One core's part of a couch's step 3. -/
def State.ridOf (n : Nat) (s : State) (c : Nat) : State := (s.writeBack c (s.lineOn c n)).discard c (s.lineOn c n)

theorem parts_ridOf (n : Nat) (s : State) (c : Nat) : (s.ridOf n c).parts = s.parts := parts_writeBack s c _

theorem Rid_ridOf (n : Nat) (s : State) (c : Nat) : (State.ridOf n s c).Rid n c := by
  intro l hl
  rw [State.ridOf, cache_discard_same] at hl
  rw [lineOn_parts (parts_ridOf n s c)]
  simpa using (List.mem_filter.mp hl).2

/-- What one core gives up leaves every core without what it was without. -/
theorem State.Rid.ridOf {n c : Nat} {s : State} (h : s.Rid n c) (d : Nat) : (State.ridOf n s d).Rid n c := by
  by_cases hd : c = d
  · subst hd
    exact Rid_ridOf n s c
  intro l hl
  rw [State.ridOf, State.discard, State.core_modCore_ne _ _ _ _ hd] at hl
  have hmem : l.line ∈ (s.core c).cache.map Line.line := lines_writeBack s d _ c ▸ List.mem_map_of_mem hl
  obtain ⟨l', hl', hline⟩ := List.mem_map.mp hmem
  rw [lineOn_parts (parts_ridOf n s d), lineOn_line hline.symm]
  exact h l' hl'

/-- A fold has what one of its steps makes and every step keeps. -/
theorem foldl_makes {α : Type} {Q : State → Prop} {f : State → α → State} {a : α} (hmake : ∀ s, Q (f s a))
    (hkeep : ∀ s b, Q s → Q (f s b)) {l : List α} (ha : a ∈ l) (s : State) : Q (l.foldl f s) := by
  have hgo (l : List α) (s : State) (h : Q s) : Q (l.foldl f s) := by
    induction l generalizing s with
    | nil => exact h
    | cons b l ih => exact ih _ (hkeep s b h)
  induction l generalizing s with
  | nil => simp at ha
  | cons b l ih =>
    rcases List.mem_cons.mp ha with rfl | ha
    · exact hgo l _ (hmake s)
    · exact ih ha _

theorem parts_couchFlush (s : State) (d n : Nat) : (s.couchFlush d n).parts = s.parts :=
  foldl_keeps State.parts (fun s c => parts_ridOf n s c) _ s

theorem SameMemory.couchFlush (s : State) (d n : Nat) : SameMemory s (s.couchFlush d n) :=
  SameMemory.foldl _ _ (fun s c => (SameMemory.writeBack s c _).trans (SameMemory.discard ..)) s

/-- After it, no core of the die holds a line of the stack. -/
theorem couchFlush_rids (s : State) {d n : Nat} {e : Nat × Core} (he : e ∈ s.cores) (hd : dieOf e.1 = d) (ha : isAtelier e.1 = false) :
    (s.couchFlush d n).Rid n e.1 := by
  refine foldl_makes (Q := fun t => t.Rid n e.1) (fun s => Rid_ridOf n s e.1) (fun s c h => h.ridOf c) ?_ s
  exact List.mem_filter.mpr ⟨List.mem_map_of_mem he, by simp [hd, ha]⟩

/-! ### Deliveries leave the stacks -/

theorem memStacks_install (s : State) (c : Nat) (l : Line) : (s.install c l).memStacks = s.memStacks := by
  unfold State.install
  simp only
  split
  · rfl
  · split
    · rfl
    · rw [State.modCore_memStacks]
      split
      · exact memStacks_sendBack s.freeNext c _
      · rfl

theorem memStacks_answer (s : State) (c x : Nat) (r : Reply) : (s.answer c x r).memStacks = s.memStacks := by
  unfold State.answer
  split <;> rfl

theorem memStacks_deliver (s : State) (m : Msg) (data : List Byte) (poison : Bool) (pd : List Byte) :
    (s.deliver m data poison pd).memStacks = s.memStacks := by
  unfold State.deliver
  split
  · rw [memStacks_answer, memStacks_install]
  · exact memStacks_answer ..

theorem memStacks_deliverAt (s : State) (d k : Nat) : (s.deliverAt d k).memStacks = s.memStacks := by
  unfold State.deliverAt
  split
  · rfl
  · simp only
    split
    · split <;> rfl
    · rw [memStacks_deliver]
      split <;> rfl

theorem memStacks_catchUp (d : Nat) (vec : List Nat) (k : Nat) (s : State) : (s.catchUp d vec k).memStacks = s.memStacks := by
  induction k generalizing s with
  | zero => rfl
  | succ k ih =>
    simp only [State.catchUp]
    split
    · rfl
    · split
      · rfl
      · rw [ih, memStacks_deliverAt]

theorem stack_caughtUp (s : State) (d : Nat) (vec : List Nat) (n : Nat) : (s.caughtUp d vec).stack n = s.stack n := by
  rw [State.stack, State.caughtUp, memStacks_catchUp, State.stack]

theorem ownerDie_caughtUp (s : State) (d : Nat) (vec : List Nat) (n : Nat) : (s.caughtUp d vec).ownerDie n = s.ownerDie n := by
  rw [State.ownerDie, stack_caughtUp, State.ownerDie]

/-! ### A status delivered to a thread -/

section
variable (s : State) (c x : Nat)

theorem post_live (hl : (s.ctx c x).live = true) (e : Ev) : s.post c x e = s.modCtx c x (fun t => { t with events := t.events ++ [e] }) := by
  rw [State.post, hl, if_neg (by decide)]

theorem stack_post (e : Ev) (n : Nat) : (s.post c x e).stack n = s.stack n := by
  unfold State.post
  split <;> rfl

theorem fill_low (hl : (s.ctx c x).live = true) {r : Nat} (h0 : 0 < r) (h32 : r < 32) (v : Word) :
    s.fill c x r v = s.modCtx c x (fun t => { t with g := tput t.g r ⟨v, true⟩ }) := by
  rw [State.fill, hl, if_neg (by decide), if_neg (by omega), if_pos h32]

theorem SameMemory.fill (r : Nat) (v : Word) : SameMemory s (s.fill c x r v) := by
  unfold State.fill
  split
  · exact SameMemory.refl s
  · split
    · exact SameMemory.refl s
    · split
      · exact SameMemory.modCtx ..
      · exact SameMemory.modCore s c _ (fun _ => rfl)

theorem stack_fill (r : Nat) (v : Word) (n : Nat) : (s.fill c x r v).stack n = s.stack n := by
  unfold State.fill
  split
  · rfl
  · split
    · rfl
    · split <;> rfl

end

/-! ### COUCH_DRAIN_STEP -/

section
variable {s : State} {n : Nat} {q : Couch}

/-- A couch that goes to another step. -/
def State.couchAt (s : State) (n : Nat) (q : Couch) (step : Nat) (marks : List Nat) : State :=
  s.modStack n (fun t => { t with couch := some { q with step := step, marks := marks } })

theorem couch_none (h : (s.stack n).couch = none) : exec (.couchDrainStep n) s = .next s := by
  show execCouchDrainStep n s = _
  rw [execCouchDrainStep, h]

theorem exec_couch (h : (s.stack n).couch = some q) : exec (.couchDrainStep n) s = .next ((s.couchStep n q).getD s) := by
  show execCouchDrainStep n s = _
  rw [execCouchDrainStep, h]
  rfl

variable (h : (s.stack n).couch = some q)
include h

theorem couch_step1 (hs : q.step = 1) : exec (.couchDrainStep n) s = .next (s.couchAt n q 2 []) := by
  rw [exec_couch h, State.couchStep, hs]
  rfl

theorem couch_step2_waits (hs : q.step = 2) (hw : s.inFlight.any (fun m => m.toStack n && m.kind.writes && (decide (m.id < q.start) ||
    m.kind.isWb)) = true ∨ s.couchStores n q.start = true) : exec (.couchDrainStep n) s = .next s := by
  rw [exec_couch h]
  simp only [State.couchStep, hs]
  rw [if_pos (by simpa using hw)]
  rfl

theorem couch_step2 (hs : q.step = 2) (hw : s.inFlight.any (fun m => m.toStack n && m.kind.writes && (decide (m.id < q.start) ||
    m.kind.isWb)) = false) (hc : s.couchStores n q.start = false) : Makes (.couchDrainStep n) s (fun w =>
      (w.stack n).couch.map (fun k => k.step) = some 3 ∧ SameMemory s w ∧
      ∀ e ∈ s.cores, dieOf e.1 = s.ownerDie n → isAtelier e.1 = false → ∀ l ∈ (w.core e.1).cache, s.lineOn e.1 n l = false) := by
  have hstep : ∃ marks, s.couchStep n q = some ((s.couchFlush (s.ownerDie n) n).couchAt n q 3 marks) := by
    refine ⟨(s.couchFlush (s.ownerDie n) n).net.filterMap (fun m => if m.toStack n && decide (s.msgCtr ≤ m.id) then some m.id else none), ?_⟩
    simp only [State.couchStep, hs]
    rw [if_neg (by simp [hw, hc])]
    rfl
  obtain ⟨marks, hstep⟩ := hstep
  refine ⟨_, exec_couch h, ?_⟩
  rw [hstep, Option.getD_some]
  refine ⟨?_, (SameMemory.couchFlush ..).trans (SameMemory.modStack _ _ _ (by intros; rfl)), fun e he hd ha l hl => ?_⟩
  · rw [State.couchAt, State.stack_modStack_same]
    rfl
  · have hr := couchFlush_rids (n := n) s he hd ha l hl
    rwa [lineOn_parts (parts_couchFlush ..)] at hr

theorem couch_step3_waits (hs : q.step = 3) (hw : s.inFlight.any (fun m => q.marks.contains m.id) = true) :
    exec (.couchDrainStep n) s = .next s := by
  rw [exec_couch h]
  simp only [State.couchStep, hs]
  rw [if_pos hw]
  rfl

theorem couch_step3 (hs : q.step = 3) (hw : s.inFlight.any (fun m => q.marks.contains m.id) = false) :
    exec (.couchDrainStep n) s = .next (s.couchAt n q 4 []) := by
  rw [exec_couch h]
  simp only [State.couchStep, hs]
  rw [if_neg (by rw [hw]; exact Bool.false_ne_true)]
  rfl

theorem couch_step4 (hs : q.step = 4) : Makes (.couchDrainStep n) s (fun w => StackOnly s w n ∧ (w.stack n).route = !(s.stack n).own ∧
    (w.stack n).own = (s.stack n).own ∧ (w.stack n).couch = some { q with step := 5, marks := [] }) := by
  refine ⟨(s.modStack n (fun t => { t with route := !t.own })).couchAt n q 5 [], ?_, ⟨rfl, fun m hm => ?_⟩, ?_, ?_, ?_⟩
  · rw [exec_couch h, State.couchStep, hs]
    rfl
  · rw [State.couchAt, State.stack_modStack_ne _ _ _ _ hm, State.stack_modStack_ne _ _ _ _ hm]
  all_goals rw [State.couchAt, State.stack_modStack_same, State.stack_modStack_same]

/-- Ownership changed. -/
def State.flipOwn (s : State) (n : Nat) : State := s.modStack n (fun t => { t with own := !t.own })

/-- The die that is to own the stack, and the state in which it has had what the old owner has applied, as far as it has been sent. -/
def State.newOwner (s : State) (n : Nat) : Nat := (s.flipOwn n).ownerDie n
def State.handed (s : State) (n : Nat) : State := s.caughtUp (s.newOwner n) (s.die (s.ownerDie n)).clock

/-- The stack is the new owner's, whose view of it ends; the requests held carry the clocks of their dies. -/
def State.handedOver (s : State) (n : Nat) : State :=
  (((s.handed n).flipOwn n).modDie (s.newOwner n) (fun d => { d with view := d.view.filter (fun v => decide (v.stack ≠ n)) })).couchRelease n

/-- Nothing is left for the new owner to be sent. -/
def State.Ripe (s : State) (n : Nat) : Prop :=
  covers ((s.handed n).die (s.newOwner n)).clock ((s.handed n).die (s.ownerDie n)).clock = true ∧
  ((s.handed n).die (s.newOwner n)).inbox.any (fun e => e.piece.stack == n) = false

omit h in
/-- Step 5 of a couch. -/
theorem couchStep_5 (hs : q.step = 5) : s.couchStep n q =
    if !covers ((s.handed n).die (s.newOwner n)).clock ((s.handed n).die (s.ownerDie n)).clock ||
      ((s.handed n).die (s.newOwner n)).inbox.any (fun e => e.piece.stack == n) then some (s.handed n)
    else some ((s.handedOver n).couchAt n q 6 []) := by
  have ho : (s.handed n).ownerDie n = s.ownerDie n := ownerDie_caughtUp ..
  rw [← ho]
  simp only [State.couchStep, hs]
  rfl

theorem couch_step5_waits (hs : q.step = 5) (hr : ¬s.Ripe n) : exec (.couchDrainStep n) s = .next (s.handed n) := by
  rw [exec_couch h, couchStep_5 hs, if_pos]
  · rfl
  · by_contra hc
    simp only [Bool.or_eq_true, Bool.not_eq_true', not_or, Bool.not_eq_false, Bool.not_eq_true] at hc
    exact hr hc

theorem couch_step5 (hs : q.step = 5) (hr : s.Ripe n) : Makes (.couchDrainStep n) s (fun w =>
    (w.stack n).own = !((s.handed n).stack n).own ∧ (w.stack n).route = ((s.handed n).stack n).route ∧
    (w.stack n).couch = some { q with step := 6, marks := [] } ∧ (∀ v ∈ (w.die (s.newOwner n)).view, v.stack ≠ n) ∧
    SameMemory (s.handed n) w) := by
  obtain ⟨hcov, hin⟩ := hr
  have hstack : (s.handedOver n).stack n = { (s.handed n).stack n with own := !((s.handed n).stack n).own } :=
    State.stack_modStack_same (s.handed n) n (fun t => { t with own := !t.own })
  have hview : ((s.handedOver n).die (s.newOwner n)).view = (((s.handed n).flipOwn n).die (s.newOwner n)).view.filter (fun v => decide (v.stack ≠ n)) :=
    congrArg Die.view (State.die_modDie_same ((s.handed n).flipOwn n) (s.newOwner n)
      (fun d => { d with view := d.view.filter (fun v => decide (v.stack ≠ n)) }))
  refine ⟨(s.handedOver n).couchAt n q 6 [], ?_, ?_, ?_, ?_, fun v hv => ?_, ?_⟩
  · rw [exec_couch h, couchStep_5 hs, hcov, hin, if_neg (by decide)]
    rfl
  · rw [State.couchAt, State.stack_modStack_same, hstack]
  · rw [State.couchAt, State.stack_modStack_same, hstack]
  · rw [State.couchAt, State.stack_modStack_same]
  · have hv' : v ∈ ((s.handedOver n).die (s.newOwner n)).view := hv
    rw [hview] at hv'
    simpa using (List.mem_filter.mp hv').2
  · have hflip : SameMemory (s.handed n) ((s.handed n).flipOwn n) := SameMemory.modStack _ n _ (by intros; rfl)
    have hrest : SameMemory ((s.handed n).flipOwn n) (s.handedOver n) := SameMemory.of_eq (fun _ => rfl) rfl (fun _ => rfl) rfl rfl
    exact (hflip.trans hrest).trans (SameMemory.modStack (s.handedOver n) n _ (by intros; rfl))

theorem couch_step6 (hs : q.step = 6) : exec (.couchDrainStep n) s = .next (s.couchAt n q 7 []) := by
  rw [exec_couch h, State.couchStep, hs]
  rfl

/-- The end of a couch: its status fills the register named, or posts COUCH_DONE. -/
theorem couch_step7 {c : Nat} (hs : q.step = 7) (hc : s.seat q.by_ = some c) (hl : (s.ctx c q.by_.ctx).live = true) :
    Makes (.couchDrainStep n) s (fun w => (w.stack n).couch = none ∧ (w.stack n).own = (s.stack n).own ∧ SameMemory s w ∧
      (∀ r, q.reg = some r → 0 < r → r < 32 → tget GVal.zero (w.ctx c q.by_.ctx).g r = ⟨s.couchStatus 0 n, true⟩) ∧
      (q.reg = none → (w.ctx c q.by_.ctx).events =
        (s.ctx c q.by_.ctx).events ++ [⟨Cause.couchDone, w64 n, s.couchStatus 0 n, none, none⟩])) := by
  have hstep : s.couchStep n q = (s.couchDone q.by_ q.reg 0 n).map (fun s => s.modStack n (fun t => { t with couch := none })) := by
    rw [State.couchStep, hs]
    rfl
  obtain ⟨u, hu, hmem, hstack, hfill, hevent⟩ : ∃ u, s.couchDone q.by_ q.reg 0 n = some u ∧ SameMemory s u ∧ u.stack n = s.stack n ∧
      (∀ r, q.reg = some r → 0 < r → r < 32 → tget GVal.zero (u.ctx c q.by_.ctx).g r = ⟨s.couchStatus 0 n, true⟩) ∧
      (q.reg = none → (u.ctx c q.by_.ctx).events =
        (s.ctx c q.by_.ctx).events ++ [⟨Cause.couchDone, w64 n, s.couchStatus 0 n, none, none⟩]) := by
    cases hreg : q.reg with
    | none =>
      refine ⟨_, by rw [State.couchDone, State.eventAgent, hc], SameMemory.post .., ?_, by simp, fun _ => ?_⟩
      · exact stack_post ..
      · rw [post_live _ _ _ hl, State.ctx_modCtx_same]
        rfl
    | some r =>
      refine ⟨_, by rw [State.couchDone, State.fillAgent, hc], SameMemory.fill .., stack_fill .., fun r' hr h0 h32 => ?_, by simp⟩
      obtain rfl := Option.some.inj hr
      rw [fill_low _ _ _ hl h0 h32, State.ctx_modCtx_same]
      exact tget_tput_same ..
  refine ⟨u.modStack n (fun t => { t with couch := none }), ?_, ?_, ?_, hmem.trans (SameMemory.modStack _ _ _ (by intros; rfl)), hfill, hevent⟩
  · rw [exec_couch h, hstep, hu]
    rfl
  · rw [State.stack_modStack_same]
  · rw [State.stack_modStack_same, hstack]

end

end Sys2Proof.Machine
end

section
/-!
PROOFS. SPLIT changes, windows, hold, domain switches and register writes (R99, R100, R257, R348 to R352, R357, R358), and the settlement
of O53.
-/

namespace Sys2Proof.Machine

/-! ### SPLIT_WRITE -/

/-- What a memory reads once every cell that a test on addresses rejects is gone. -/
theorem Mem.read_filter (m : Mem) (p : Nat → Bool) (a : Nat) : Mem.read (m.filter (fun b => p b.1)) a = if p a then m.read a else 0 := by
  induction m with
  | nil => simp [Mem.read]
  | cons e m ih =>
    obtain ⟨j, x⟩ := e
    rw [List.filter_cons]
    by_cases hj : j = a
    · subst hj
      by_cases hp : p j = true
      · simp [hp, Mem.read]
      · rw [if_neg hp, ih, if_neg hp]
        simp [hp]
    · by_cases hp : p j = true <;> simp [hp, Mem.read, hj, ih]

section
variable {s : State} {c : Nat} {ch : SplitChange}

theorem split_none (h : (s.core c).splitChange = none) : exec (.splitWrite c) s = .next s := by
  show execSplitWrite c s = _
  rw [execSplitWrite, h]

variable (h : (s.core c).splitChange = some ch)
include h

theorem split_waits (hb : s.splitBusy c ch.code = true ∨ s.portionBusy c = true) : exec (.splitWrite c) s = .next s := by
  show execSplitWrite c s = _
  rw [execSplitWrite, h]
  exact if_pos (by simpa using hb)

section
variable (hb : s.splitBusy c ch.code = false) (hp : s.portionBusy c = false)
include hb hp

theorem split_empties (hc : (s.core c).cache ≠ []) : Makes (.splitWrite c) s (fun w =>
    (w.core c).cache = [] ∧ (w.core c).split = (s.core c).split ∧ SameMemory s w) := by
  have hstep : ∃ marks, exec (.splitWrite c) s = .next (((s.writeBack c (fun _ => true)).discard c (fun _ => true)).modCore c
      (fun k => { k with splitChange := some { ch with marks := marks } })) := by
    refine ⟨(((s.writeBack c (fun _ => true)).discard c (fun _ => true)).unfinished c).filterMap
      (fun m => if m.kind.isWb && m.core == c then some m.id else none), ?_⟩
    show execSplitWrite c s = _
    rw [execSplitWrite, h]
    simp [hb, hp, hc]
  obtain ⟨marks, hstep⟩ := hstep
  refine ⟨_, hstep, ?_, ?_, ?_⟩
  · rw [State.core_modCore_same, cache_discard_same]
    simp
  · rw [State.core_modCore_same, State.discard, State.core_modCore_same]
    exact core_writeBack_keeps Core.split (fun _ _ => rfl) s c _ c
  · exact ((SameMemory.writeBack ..).trans (SameMemory.discard ..)).trans (SameMemory.modCore _ c _ (by intros; rfl))

theorem split_awaits (hc : (s.core c).cache = []) (hm : (s.unfinished c).any (fun m => ch.marks.contains m.id) = true) :
    exec (.splitWrite c) s = .next s := by
  show execSplitWrite c s = _
  rw [execSplitWrite, h]
  simp only [hb, hp, hc, hm, Bool.or_self, Bool.false_eq_true, if_false, List.isEmpty_nil, Bool.not_true, if_true]

theorem split_ends (hc : (s.core c).cache = []) (hm : (s.unfinished c).any (fun m => ch.marks.contains m.id) = false) :
    Makes (.splitWrite c) s (fun w => CoreOnly s w c ∧ (w.core c).split = ch.code ∧ (w.core c).splitSeen = ch.code ∧
      (w.core c).splitChange = none ∧
      let low := Nat.min (scratchOf (s.core c).split) (scratchOf ch.code)
      (∀ a, a < low → (w.core c).store.read a = (s.core c).store.read a) ∧ ∀ a, low ≤ a → (w.core c).store.read a = 0) := by
  have hread (a : Nat) : (((s.core c).splitEnd ch.code).store).read a =
      if a < splitLow (s.core c).split ch.code then (s.core c).store.read a else 0 := by
    refine (Mem.read_filter _ (fun a => decide (a < splitLow (s.core c).split ch.code)) a).trans ?_
    simp only [decide_eq_true_eq]
  refine ⟨s.modCore c (fun k => k.splitEnd ch.code), ?_, CoreOnly.modCore .., ?_, ?_, ?_, fun a ha => ?_, fun a ha => ?_⟩
  · show execSplitWrite c s = _
    rw [execSplitWrite, h]
    simp only [hb, hp, hc, hm, Bool.or_self, Bool.false_eq_true, if_false, List.isEmpty_nil, Bool.not_true]
  all_goals rw [State.core_modCore_same]
  · rfl
  · rfl
  · rfl
  · exact (hread a).trans (if_pos ha)
  · exact (hread a).trans (if_neg (Nat.not_lt.mpr ha))

end

end

/-! ### DECKLE_WRITE -/

section
variable {s : State} {p i : Nat} {v : Word}

theorem deckle_refused (h : 16 ≤ i ∨ (s.part p).deckleRefused i v = true) : exec (.deckleWrite p i v) s = .next s := by
  show Host.Outcome.next (if i < 16 then s.deckleWrite p i v else s) = _
  rcases h with h | h
  · rw [if_neg (Nat.not_lt.mpr h)]
  · rw [State.deckleWrite, if_pos h, ite_self]

/-- A line as a remapping of its range leaves it. -/
def Core.remapped (k : Core) (base len ctr c : Nat) : Core :=
  { k with cache := k.cache.map (fun l => if meets base len (64 * l.line) 64 then l.remapped ctr c else l) }

/-- A remapping changes bytes of cached lines only. -/
theorem core_remap (s : State) (p base len c : Nat) : ({ (s.remap p base len).core c with cache := [] } : Core) = { s.core c with cache := [] } ∧
    ((s.remap p base len).core c).cache.map (fun l => (l.line, l.dirty, l.poison, l.loc)) =
      (s.core c).cache.map (fun l => (l.line, l.dirty, l.poison, l.loc)) := by
  have hcores : (s.remap p base len).cores =
      s.cores.map (fun e => (e.1, if s.tilePart e.1 = p then e.2.remapped base len s.freeCtr e.1 else e.2)) := by
    refine List.map_congr_left fun e _ => ?_
    split <;> rfl
  have hkeys (k : Core) (c : Nat) : (k.remapped base len s.freeCtr c).cache.map (fun l => (l.line, l.dirty, l.poison, l.loc)) =
      k.cache.map (fun l => (l.line, l.dirty, l.poison, l.loc)) := by
    simp only [Core.remapped, List.map_map]
    refine List.map_congr_left fun l _ => ?_
    simp only [Function.comp]
    split <;> rfl
  simp only [State.core, hcores]
  refine ⟨tget_map_keeps (fun k : Core => { k with cache := [] }) (fun c k => if s.tilePart c = p then k.remapped base len s.freeCtr c else k)
    (fun c k => ?_) _ _ _, tget_map_keeps (fun k : Core => k.cache.map (fun l => (l.line, l.dirty, l.poison, l.loc)))
    (fun c k => if s.tilePart c = p then k.remapped base len s.freeCtr c else k) (fun c k => ?_) _ _ _⟩
  · split <;> rfl
  · split
    · exact hkeys k c
    · rfl

/-- The bytes of lines left cached under a range that a write maps again are free values (R358). -/
def State.remapFor (s : State) (p i : Nat) (v : Word) : State :=
  if (windowOf v).valid && !bit (tget 0 (s.part p).deckle i) 63 then s.remap p (windowOf v).base (windowOf v).len else s

theorem deckleWrite_eq (h : (s.part p).deckleRefused i v = false) : s.deckleWrite p i v =
    ((s.remapFor p i v).modPart p (fun q => { q with deckle := tput q.deckle i (v &&& deckleMask) })).noRollback p := by
  rw [State.deckleWrite, if_neg (by rw [h]; exact Bool.false_ne_true)]
  rfl

theorem parts_remapFor (s : State) (p i : Nat) (v : Word) : (s.remapFor p i v).parts = s.parts := by
  unfold State.remapFor
  split <;> rfl

theorem remapFor_rest (s : State) (p i : Nat) (v : Word) : { s.remapFor p i v with cores := s.cores, freeCtr := s.freeCtr } = s := by
  unfold State.remapFor
  split <;> rfl

/-- A window that was valid, or is not to be, maps nothing again. -/
theorem remapFor_mapped (h : bit v 63 = false ∨ bit (tget 0 (s.part p).deckle i) 63 = true) : s.remapFor p i v = s := by
  have hv : (windowOf v).valid = bit v 63 := rfl
  rw [State.remapFor, hv]
  rcases h with h | h <;> rw [h]
  · rw [Bool.false_and, if_neg Bool.false_ne_true]
  · rw [Bool.not_true, Bool.and_false, if_neg Bool.false_ne_true]

theorem core_remapFor (s : State) (p i : Nat) (v : Word) (c : Nat) :
    ({ (s.remapFor p i v).core c with cache := [] } : Core) = { s.core c with cache := [] } ∧
    ((s.remapFor p i v).core c).cache.map (fun l => (l.line, l.dirty, l.poison, l.loc)) =
      (s.core c).cache.map (fun l => (l.line, l.dirty, l.poison, l.loc)) := by
  unfold State.remapFor
  split
  · exact core_remap ..
  · exact ⟨rfl, rfl⟩

theorem deckle_takes (hi : i < 16) (h : (s.part p).deckleRefused i v = false) : Makes (.deckleWrite p i v) s (fun w =>
    { w with parts := s.parts, cores := s.cores, freeCtr := s.freeCtr } = s ∧ (∀ q, q ≠ p → w.part q = s.part q) ∧
    tget 0 (w.part p).deckle i = v &&& 0xC0FFBFFFFF800000 ∧ (∀ j, j ≠ i → tget 0 (w.part p).deckle j = tget 0 (s.part p).deckle j) ∧
    bit (w.part p).ckptctl 10 = true ∧
    (bit v 63 = false ∨ bit (tget 0 (s.part p).deckle i) 63 = true → w.cores = s.cores ∧ w.freeCtr = s.freeCtr) ∧
    ∀ c, ({ w.core c with cache := [] } : Core) = { s.core c with cache := [] } ∧
      (w.core c).cache.map (fun l => (l.line, l.dirty, l.poison, l.loc)) = (s.core c).cache.map (fun l => (l.line, l.dirty, l.poison, l.loc))) := by
  have hexec : exec (.deckleWrite p i v) s =
      .next (((s.remapFor p i v).modPart p (fun q => { q with deckle := tput q.deckle i (v &&& deckleMask) })).noRollback p) := by
    show Host.Outcome.next (if i < 16 then s.deckleWrite p i v else s) = _
    rw [if_pos hi, deckleWrite_eq h]
  have hpart (q : Nat) : (s.remapFor p i v).part q = s.part q := congrArg (tget Part.reset · q) (parts_remapFor s p i v)
  have hrest := remapFor_rest s p i v
  have hsame := remapFor_mapped (s := s) (p := p) (i := i) (v := v)
  have hcore := core_remapFor s p i v
  generalize s.remapFor p i v = r at *
  refine ⟨_, hexec, ?_, fun q hq => ?_, ?_, fun j hj => ?_, noRollback_marks .., fun ho => ?_, hcore⟩
  · exact congrArg (fun x : State => { x with parts := s.parts }) hrest
  · rw [State.noRollback, State.part_modPart_ne _ _ _ _ hq, State.part_modPart_ne _ _ _ _ hq, hpart]
  · rw [State.noRollback, State.part_modPart_same, State.part_modPart_same]
    exact tget_tput_same ..
  · rw [State.noRollback, State.part_modPart_same, State.part_modPart_same, ← hpart]
    exact tget_tput_ne _ _ _ _ _ hj
  · rw [← hsame ho]
    exact ⟨rfl, rfl⟩

end

/-! ### Hold and release -/

section
variable {s : State} {n : Nat} {m : Msg}

theorem drainQueue_idle {s : State} {n : Nat} (h : (s.slice n).hold = true ∨ (s.slice n).queue = []) : s.drainQueue n = s := by
  rw [State.drainQueue, if_pos (by simpa using h)]

theorem shold_holds : Makes (.sholdHold n) s (fun w => SliceOnly s w n ∧ (w.slice n).hold = true ∧ (w.slice n).queue = (s.slice n).queue ∧
    (w.slice n).tags = (s.slice n).tags) := by
  refine ⟨s.modSlice n (fun l => { l with hold := true }), rfl, SliceOnly.modSlice .., ?_, ?_, ?_⟩ <;> rw [State.slice_modSlice_same]

theorem shold_releases_idle (h : (s.slice n).queue = []) : Makes (.sholdRelease n) s (fun w => SliceOnly s w n ∧ (w.slice n).hold = false ∧
    (w.slice n).tags = (s.slice n).tags) := by
  have hq : ((s.modSlice n (fun l => { l with hold := false })).slice n).queue = [] := by rw [State.slice_modSlice_same, h]
  refine ⟨s.modSlice n (fun l => { l with hold := false }), congrArg Host.Outcome.next (drainQueue_idle (.inr hq)), SliceOnly.modSlice .., ?_, ?_⟩
    <;> rw [State.slice_modSlice_same]

/-- A slice whose hold is over, its queue taken out. -/
def State.released (s : State) (n : Nat) : State := s.modSlice n (fun l => { l with hold := false, queue := [] })

theorem released_eq (s : State) (n : Nat) :
    (s.modSlice n (fun l => { l with hold := false })).modSlice n (fun l => { l with queue := [] }) = s.released n := by
  simp [State.released, State.modSlice, State.setSlice, State.slice]

/-- A release serves what is queued, in order. -/
theorem exec_release {ms : List Msg} (h : (s.slice n).queue = m :: ms) :
    exec (.sholdRelease n) s = .next ((s.released n).serveAll n (m :: ms)) := by
  have hl : (s.modSlice n (fun l => { l with hold := false })).slice n = { s.slice n with hold := false } := State.slice_modSlice_same ..
  show Host.Outcome.next ((s.modSlice n (fun l => { l with hold := false })).drainQueue n) = _
  rw [State.drainQueue, hl, h, if_neg (by simp), released_eq]

theorem release_serves {t : State} (h : (s.slice n).queue = [m]) (hs : (s.released n).serve m = some t) :
    exec (.sholdRelease n) s = .next t := by
  rw [exec_release h, State.serveAll, hs]
  rfl

theorem release_stays {ms : List Msg} (h : (s.slice n).queue = m :: ms) (hs : (s.released n).serve m = none)
    (hf : (s.released n).logFull m = false) : Makes (.sholdRelease n) s (fun w =>
      SliceOnly s w n ∧ (w.slice n).hold = false ∧ (w.slice n).queue = m :: ms ∧ (w.slice n).tags = (s.slice n).tags) := by
  refine ⟨(s.released n).modSlice n (fun l => { l with queue := m :: ms }), ?_, ⟨rfl, fun j hj => ?_⟩, ?_, ?_, ?_⟩
  · rw [exec_release h, State.serveAll, hs, hf]
    rfl
  · rw [State.slice_modSlice_ne _ _ _ _ hj, State.released, State.slice_modSlice_ne _ _ _ _ hj]
  all_goals rw [State.slice_modSlice_same, State.released, State.slice_modSlice_same]

end

/-! ### The domain switch -/

section
variable {s : State} {n p : Nat} {v : Word}

theorem arm_refused (h : s.armRefused (n / 16) p v = true) :
    exec (.dswitchArm n p v) s = .next (s.modStack (n / 16) (fun k => { k with dswitch := setBit k.dswitch 62 })) := by
  show Host.Outcome.next (s.arm (n / 16) p v) = _
  rw [State.arm, if_pos h]

theorem armRefused_of (h : v.toNat < s.gtime.toNat + 1000 ∨ (s.stack (n / 16)).armed.isSome = true ∨ (s.stack (n / 16)).switching = true ∨
    fld v 63 62 ≠ 0 ∨ (s.part p).hasHalf (2 * (n / 16)) = false ∨ (s.part p).hasHalf (2 * (n / 16) + 1) = false) :
    s.armRefused (n / 16) p v = true := by
  unfold State.armRefused
  simp only [Bool.or_eq_true, decide_eq_true_eq, bne_iff_ne, Bool.not_eq_true', Bool.and_eq_false_iff]
  tauto

theorem arm_takes (h : s.armRefused (n / 16) p v = false) : Makes (.dswitchArm n p v) s (fun w => StackOnly s w (n / 16) ∧
    (w.stack (n / 16)).dswitch = v ∧ (w.stack (n / 16)).armed =
      some ⟨(s.stack (n / 16)).nmap.setWidth 16, (s.stack (n / 16)).nrows, ((s.stack (n / 16)).inForce.seq + 1) % 16⟩) := by
  refine ⟨s.modStack (n / 16) (fun st => { st with dswitch := v, armed := some ⟨st.nmap.setWidth 16, st.nrows, (st.inForce.seq + 1) % 16⟩ }),
    ?_, StackOnly.modStack .., ?_, ?_⟩
  · show Host.Outcome.next (s.arm (n / 16) p v) = _
    rw [State.arm, h, if_neg (by decide)]
  all_goals rw [State.stack_modStack_same]

theorem switch_none (h : (s.stack n).armed = none) : exec (.domainSwitch n) s = .next s := by
  show execDomainSwitch n s = _
  rw [execDomainSwitch, h]

variable {M : DMap}

theorem switch_early (h : (s.stack n).armed = some M) (ht : s.gtime.toNat < fld (s.stack n).dswitch 61 0) :
    exec (.domainSwitch n) s = .next s := by
  show execDomainSwitch n s = _
  rw [execDomainSwitch, h]
  exact if_pos ht

/-- At its tick the new map is in force; where no slice has a tag, nothing is swept. -/
theorem switch_takes (h : (s.stack n).armed = some M) (ht : fld (s.stack n).dswitch 61 0 ≤ s.gtime.toNat)
    (htags : ∀ k, k < 16 → (s.slice (16 * n + k)).tags = []) : Makes (.domainSwitch n) s (fun w => StackOnly s w n ∧
      (w.stack n).inForce = M ∧ (w.stack n).req = M ∧ (w.stack n).armed = none ∧ (w.stack n).switching = true ∧ (w.stack n).swept = 0 ∧
      (w.stack n).dmap = (s.stack n).dmap) := by
  let u := s.modStack n (fun st => { st with req := M, inForce := M, armed := none, switching := true, swept := 0 })
  have hfold : (List.range 16).foldl (fun s k => ((s.slice (16 * n + k)).tags).foldl (fun s t => s.sweepTag (16 * n + k) t) s) u = u := by
    refine foldl_fixed_of_mem fun k hk => ?_
    have hk' : (u.slice (16 * n + k)).tags = [] := htags k (List.mem_range.mp hk)
    rw [hk', List.foldl_nil]
  refine ⟨u, ?_, StackOnly.modStack .., ?_, ?_, ?_, ?_, ?_, ?_⟩
  · show execDomainSwitch n s = _
    rw [execDomainSwitch, h]
    exact (if_neg (Nat.not_lt.mpr ht)).trans (congrArg Host.Outcome.next hfold)
  all_goals rw [State.stack_modStack_same]

theorem complete_waits (h : (s.stack n).switching = false ∨ s.sweeping n = true) : exec (.domainSwitchComplete n) s = .next s := by
  show execDomainSwitchComplete n s = _
  rw [execDomainSwitchComplete, if_neg]
  rcases h with h | h <;> simp [h]

theorem complete_ends (h : (s.stack n).switching = true) (hs : s.sweeping n = false) : Makes (.domainSwitchComplete n) s (fun w =>
    StackOnly s w n ∧ (w.stack n).dmap = (s.stack n).inForce ∧ (w.stack n).switching = false ∧ bit (w.stack n).dswitch 63 = true) := by
  refine ⟨s.modStack n (fun st => { st with dmap := st.inForce, switching := false, dswitch := setBit st.dswitch 63 }), ?_,
    StackOnly.modStack .., ?_, ?_, ?_⟩
  · show execDomainSwitchComplete n s = _
    rw [execDomainSwitchComplete, h, hs]
    rfl
  all_goals rw [State.stack_modStack_same]
  exact bit_setBit _ (by decide)

end

/-! ### REGISTER_WRITE -/

theorem getElem?_setAt_one {α : Type} {l : List α} (h : 2 ≤ l.length) (y : α) : (setAt l 1 y)[(1 : Nat)]? = some y := by
  match l, h with
  | _ :: _ :: _, _ => rfl

section
variable (s : State) {n : Nat} (p : Nat) (v : Word)

theorem write_tagsel (hn : n < 128) : Makes (.registerWrite (.slice p n 8) v) s (fun w => SliceOnly s w n ∧
    (w.slice n).tagset = fld v 6 0 ∧ (w.slice n).tagway = fld v 11 8) := by
  refine ⟨s.modSlice n (fun l => { l with tagset := fld v 6 0, tagway := fld v 11 8 }), ?_, SliceOnly.modSlice .., ?_, ?_⟩
  · show Host.Outcome.next (if n < 128 then s.scfgWrite p n 8 v else s) = _
    rw [if_pos hn]
    rfl
  all_goals rw [State.slice_modSlice_same]

theorem write_nrow (hn : n < 128) : Makes (.registerWrite (.slice p n 42) v) s (fun w => StackOnly s w (n / 16) ∧
    (2 ≤ (s.stack (n / 16)).nrows.length → (w.stack (n / 16)).nrows[(1 : Nat)]? = some (v.setWidth 37))) := by
  refine ⟨s.modStack (n / 16) (fun t => { t with nrows := setAt t.nrows 1 (v.setWidth 37) }), ?_, StackOnly.modStack .., fun h => ?_⟩
  · show Host.Outcome.next (if n < 128 then s.scfgWrite p n 42 v else s) = _
    rw [if_pos hn]
    rfl
  · rw [State.stack_modStack_same]
    exact getElem?_setAt_one h _

end

/-! ### O53 -/

/-- Settles O53: each of the events by the cases of its step. -/
theorem slicesAndStacksAreControlled : Obligations.SlicesAndStacksAreControlled := by
  intro s t n c x p i v q ch m M
  refine ⟨couch_none, fun h => ⟨couch_step1 h, couch_step2_waits h, couch_step2 h, couch_step3_waits h, couch_step3 h, couch_step4 h,
    fun hs => ⟨couch_step5_waits h hs, couch_step5 h hs⟩, couch_step6 h, couch_step7 h⟩, split_none, fun h => ⟨split_waits h, fun hb hp =>
    ⟨split_empties h hb hp, split_awaits h hb hp, split_ends h hb hp⟩⟩, deckle_refused, deckle_takes, shold_holds, shold_releases_idle,
    release_serves, fun ms => release_stays, fun h => arm_refused (armRefused_of h), arm_takes, switch_none, switch_early, switch_takes,
    complete_waits, complete_ends, fun h => ?elsewhere, ⟨s.modCtx c x (fun t => { t with tvec := v &&& ~~~3 }), rfl, ?tvec⟩,
    ⟨s.modPart (s.partOf c x) (fun q => { q with svcvec := v &&& ~~~3 }), rfl, ?svcvec⟩, rfl, rfl,
    fun hn => ⟨write_tagsel s p v hn, write_nrow s p v hn⟩, fun hn => ?outside⟩
  case elsewhere =>
    show Host.Outcome.next (if csrElsewhere i then s else s.csrWrite c x i v) = _
    rw [if_pos h]
  case tvec => exact ⟨CtxOnly.modCtx s c x _, congrArg Ctx.tvec (State.ctx_modCtx_same s c x _)⟩
  case svcvec => exact ⟨PartOnly.modPart s _ _, congrArg Part.svcvec (State.part_modPart_same s (s.partOf c x) _)⟩
  case outside =>
    show Host.Outcome.next (if n < 128 then s.scfgWrite p n i v else s) = _
    rw [if_neg (Nat.not_lt.mpr hn)]

end Sys2Proof.Machine
end

section
/-!
PROOFS. Answers (O14): a load or an atomic whose requests are out parks on the first that is missing, raises what they carry, or writes
what they hold.
-/

set_option linter.constructorNameAsVariable false

namespace Sys2Proof.Machine

/-! ### The destinations that an effect fills -/

/-- The destinations among operands are the registers that an effect writes full at once. -/
def Fills (os : List Opnd) (e : Effect) : Prop :=
  (∀ n, n ≠ 0 → refills os (false, n) = e.g.any (fun d => d.1.num.toNat == n && GReg.now d.1)) ∧
  (∀ n, refills os (true, n) = e.f.any (fun d => d.1.num.toNat == n))

section
variable {l : List Opnd} (hl : noDst l = true)
include hl

theorem fills_none {e : Effect} (hg : e.g = []) (hf : e.f = none) : Fills l e :=
  ⟨fun n _ => by simp [refills_noDst hl, hg], fun n => by simp [refills_noDst hl, hf]⟩

theorem fills_g {e : Effect} {d : GReg} {v : Word} (hg : e.g = [(d, v)]) (hf : e.f = none) : Fills (.dst d :: l) e :=
  ⟨fun n _ => by rw [hg, refills_dst hl d v n], fun n => by simp [refills_dst_f hl, hf]⟩

theorem fills_f {e : Effect} {d : FReg} {v : Word} {k : Nat} (hg : e.g = []) (hf : e.f = some (d, v, k)) : Fills (.dstF d :: l) e :=
  ⟨fun n _ => by simp [refills_dstF_g hl, hg], fun n => by simp [refills_dstF hl, hf]⟩

omit hl in
theorem refills_cons (o : Opnd) (l : List Opnd) (k : Bool × Nat) : refills (o :: l) k = (refills [o] k || refills l k) := by
  simp [refills]

theorem fills_gg {e : Effect} {d c : GReg} {v w : Word} (hg : e.g = [(d, v), (c, w)]) (hf : e.f = none) : Fills (.dst d :: .dst c :: l) e := by
  refine ⟨fun n _ => ?_, fun n => ?_⟩
  · rw [refills_cons, refills_dst noDst_nil d v n, refills_dst hl c w n, hg]
    simp
  · rw [refills_cons, refills_dst_f noDst_nil, refills_dst_f hl, hf]
    rfl

end

/-! ### Requests that are out -/

/-- An instruction whose requests are out: once their answers `rs` are there it ends in the effect `e` on registers of the state `u`. -/
def Answered (i : Instr) (s : State) (g : Guard) (rs : List Reply) (u : State) (os : List Opnd) (e : Effect) : Prop :=
  (∃ eff k w, exec i s = s.run i 12 g os eff ∧ eff s = s.collect k ∧ k s rs = .done w ∧ Applied u w e) ∧ SamePlace s u ∧ Fills os e

theorem Answered.collects {i : Instr} {s u : State} {g : Guard} {rs : List Reply} {os : List Opnd} {e : Effect}
    (h : Answered i s g rs u os e) (hgd : s.guard g = true) (hm : s.modsOk (condsOf os) = true) :
    (s.me.allReplies s.me.phase.ids = .ok rs → replyTrap (rs.zip s.me.phase.eas) = none → RunsWith i s u 12 os e) ∧
    (s.me.allReplies s.me.phase.ids = .ok rs → ∀ t, replyTrap (rs.zip s.me.phase.eas) = some t → Raises i s t) ∧
    (∀ n, s.me.allReplies s.me.phase.ids = .error n → Parks i s (.reply n)) := by
  obtain ⟨⟨eff, k, w, hx, he, hk, ha⟩, hp, hr⟩ := h
  refine ⟨fun hrs ht => ?_, fun hrs t ht => ?_, fun n hn => ?_⟩
  · exact run_with hx hgd hm (by rw [he, collect_answers hrs ht, hk]) hp.level hp.dbgctl hp.pc ha hr.1 hr.2
  · exact traps_of hx hgd hm (by simp only [he, State.collect, hrs, ht]; rfl)
  · exact exec_park hx hgd hm (by simp only [he, State.collect, hn])

theorem SamePlace.acquireIf (s : State) (k : FenceKind) (sc : Scope) : SamePlace s (s.acquireIf k sc) := by
  cases k
  case none => exact .refl s
  case acq => exact .acquire s _ sc
  case rel => exact .refl s
  case ar => exact .acquire s _ sc

/-! ### What an acquire leaves of the operands -/

theorem cur_acquire (s : State) (c : Nat) (sc : Scope) : (s.acquire c sc).cur = s.cur := cur_of_device (acquire_device s c sc)

/-- The address of an operand is made of registers. -/
theorem ea_congr {s u : State} (hs : u.myCore.s = s.myCore.s) (hg : u.me.g = s.me.g) (m : MemOp) : u.ea m = s.ea m := by
  have h : ∀ r, u.g r = s.g r := fun r => congrArg GVal.val (gval_congr hs hg _)
  simp only [State.ea, h]
  cases m.off with
  | imm v => rfl
  | idx r k => simp only [State.off, h]

theorem ea_acquire (s : State) (c : Nat) (sc : Scope) (m : MemOp) : (s.acquire c sc).ea m = s.ea m := by
  refine ea_congr ?_ (congrArg Ctx.g (s.me_acquire c sc)) m
  simp only [State.myCore, cur_acquire]
  have h := congrArg Core.s (acquire_uncached s c s.cur.1 sc)
  exact h

theorem ea_acquireIf (s : State) (k : FenceKind) (sc : Scope) (m : MemOp) : (s.acquireIf k sc).ea m = s.ea m := by
  cases k
  case none => rfl
  case acq => exact ea_acquire s _ sc m
  case rel => rfl
  case ar => exact ea_acquire s _ sc m

/-! ### Loads and atomics with their answers -/

/-- A walk through a list is one through its places, also beyond its end. -/
theorem foldl_range_getElem? {α β : Type} (f : β → α → β) (l : List α) {m : Nat} (h : l.length ≤ m) (b : β) :
    l.foldl f b = (List.range m).foldl (fun b i => (l[i]?).elim b (f b)) b := by
  induction l generalizing m b with
  | nil => exact (foldl_fixed_of_mem (fun _ _ => rfl)).symm
  | cons x l ih =>
    obtain ⟨m, rfl⟩ : ∃ k, m = k + 1 := ⟨m - 1, by simp at h; omega⟩
    rw [List.range_succ_eq_map, List.foldl_cons, List.foldl_cons, List.foldl_map]
    exact ih (by simpa using h) _

section
variable {s u w : State} {g : Guard} {rs : List Reply} {i : Instr} {l os : List Opnd} {eff : State → Res} {k : State → List Reply → Res}
  {r : Res} (ho : s.out = true)
include ho

/-- An instruction that collects its answers once its requests are out. -/
theorem answered_of {e : Effect} (hx : exec i s = s.run i 12 g os eff) (he : eff s = if s.out then s.collect k else r)
    (hk : k s rs = .done w) (ha : Applied u w e) (hp : SamePlace s u) (hf : Fills os e) : Answered i s g rs u os e :=
  ⟨⟨eff, k, w, hx, he.trans (if_pos ho), hk, ha⟩, hp, hf⟩

theorem answered_g {d : GReg} {v : Word} (hx : exec i s = s.run i 12 g (.dst d :: l) eff) (he : eff s = if s.out then s.collect k else r)
    (hk : k s rs = .done (u.putG d v)) (hp : SamePlace s u) (hl : noDst l = true) : Answered i s g rs u (.dst d :: l) { g := [(d, v)] } :=
  answered_of ho hx he hk ((Applied.refl u).putG d v) hp (fills_g hl rfl rfl)

theorem answered_f {d : FReg} {f : Fmt} {x c : Nat} (hx : exec i s = s.run i 12 g (.dstF d :: l) eff)
    (he : eff s = if s.out then s.collect k else r) (hk : k s rs = .done (u.putFp d f x c)) (hp : SamePlace s u) (hl : noDst l = true) :
    Answered i s g rs u (.dstF d :: l) { f := some (d, boxed f x, c) } :=
  answered_of ho hx he hk ((Applied.refl u).putF rfl d _ c) hp (fills_f hl rfl rfl)

/-- A vector load, which looks at its addresses before its requests are out. -/
theorem answered_v {d : VReg} {v : VVal} {t : Option Trap} {us : List AUnit} {ty : ReqType} (hx : exec i s = s.run i 12 g l eff)
    (he : eff s = (match (if s.out then none else t) with
      | some t => .raise s t
      | none => s.load us ty k))
    (hk : k s rs = .done (s.putV d v)) (hl : noDst l = true) : Answered i s g rs s l { v := some (d, v) } := by
  simp only [ho, if_true, State.load] at he
  exact ⟨⟨eff, k, _, hx, he, hk, (Applied.refl s).putV rfl d v⟩, .refl s, fills_none hl rfl rfl⟩

end

section
variable {s : State} {g : Guard} {rs : List Reply} (ho : s.out = true) (d c : GReg) (fd fc : FReg) (vd : VReg) (m : MemOp) (mx : MemIdx)
  (f : Fmt) (w : MemW) (dc : VData) (ty : ReqType) (sc : Scope) (k : FenceKind) (aw : AtW) (op : AmoOp) (ff : AmofFmt) (fo : AmofOp)
  (gm : GMask)
include ho

theorem ld_answered : Answered (.ld g d m w ty sc .none) s g rs s (.dst d :: opndsM m) { g := [(d, extend w (valAt rs 0))] } :=
  answered_g ho (by rfl) (by rfl) (by rfl) (.refl s) (noDst_opndsM m)

theorem ld_acq_answered : Answered (.ld g d m w ty sc .acq) s g rs (s.acquire s.cur.1 sc) (.dst d :: opndsM m)
    { g := [(d, extend w (valAt rs 0))] } :=
  answered_g ho (by rfl) (by rfl) (by rfl) (.acquire s _ sc) (noDst_opndsM m)

theorem ldf_answered : Answered (.ldf g fd m f ty) s g rs s (.dstF fd :: opndsM m)
    { f := some (fd, boxed f (valAt rs 0), loadCount f (valAt rs 0)) } :=
  answered_f ho (by rfl) (by rfl) (by rfl) (.refl s) (noDst_opndsM m)

theorem ldfc_answered : Answered (.ldfc g fd m c f ty) s g rs s (.dstF fd :: .src c :: opndsM m)
    { f := some (fd, boxed f (valAt rs 0), Nat.min (valAt rs 1 % 64) (loadCount f (valAt rs 0))) } :=
  answered_f ho (by rfl) (by rfl) (by rfl) (.refl s) (noDst_opndsM m)

theorem ldp_answered : Answered (.ldp g d m c ty) s g rs s (.dst d :: .dst c :: opndsM m)
    { g := [(d, w64 (valAt rs 0)), (c, w64 (valAt rs 0 / 2 ^ 64))] } :=
  answered_of ho (by rfl) (by rfl) (by rfl) (((Applied.refl s).putG d _).putG c _) (.refl s) (fills_gg (noDst_opndsM m) rfl rfl)

theorem vld_answered : Answered (.vld g vd m dc ty gm) s g rs s (opndsM m)
    { v := some (vd, ((s.actives gm (vdfmt dc)).zip (rs.map (fun r => ofBytes r.data))).foldl (fun v r => v.loadElem dc r.1 r.2) (s.v vd)) } := by
  rw [List.zip_map_right, List.foldl_map]
  exact answered_v ho (by rfl) (by rfl) (by rfl) (noDst_opndsM m)

/-- The answers of the counts stand after those of the elements. -/
theorem vldc_answered : Answered (.vldc g vd m c f ty gm) s g rs s (.src c :: opndsM m)
    { v := some (vd, (List.range (s.actives gm f).length).foldl (fun v i => if i + (s.actives gm f).length < rs.length then
        v.setElem f (nth 0 (s.actives gm f) i) (valAt rs i) (Nat.min (valAt rs (i + (s.actives gm f).length) % 64) (loadCount f (valAt rs i)))
      else v) (s.v vd)) } := by
  refine answered_v ho (by rfl) (by rfl) ?_ (noDst_opndsM m)
  refine congrArg (fun v => Res.done (s.putV vd v)) ?_
  rw [foldl_range_getElem? _ _ (m := (s.actives gm f).length) (by simp)]
  refine List.foldl_ext _ _ _ fun v i hi => ?_
  rw [List.mem_range] at hi
  split
  · next h =>
    have hr : i < rs.length := by omega
    have hz : ((s.actives gm f).zip ((rs.take (s.actives gm f).length).zip (rs.drop (s.actives gm f).length)))[i]? =
        some ((s.actives gm f)[i], rs[i], rs[i + (s.actives gm f).length]) :=
      List.getElem?_eq_some_iff.mpr ⟨by simp; omega, by simp [Nat.add_comm]⟩
    simp [hz, valAt, nth_of_lt hi, hr, h]
  · next h =>
    rw [List.getElem?_eq_none (by simp; omega)]
    rfl

theorem vldx_answered : Answered (.vldx g vd mx dc ty gm) s g rs s [.src mx.base]
    { v := some (vd, ((s.gatherOn gm dc).zip (rs.map (fun r => ofBytes r.data))).foldl (fun v r => v.loadLane dc r.1 r.2) (s.v vd)) } := by
  rw [List.zip_map_right, List.foldl_map]
  exact answered_v ho (by rfl) (by rfl) (by rfl) rfl

theorem amo_answered : Answered (.amo g d m c aw sc k op) s g rs (s.acquireIf k sc) (.dst d :: .src c :: opndsM m)
    { g := [(d, atExtend aw (valAt rs 0))] } := by
  simp only [valAt, ← List.head?_eq_getElem?]
  exact answered_g ho (by rfl) (by rfl) (by rfl) (.acquireIf s k sc) (noDst_opndsM m)

theorem amocas_answered : Answered (.amocas g d m c aw sc k) s g rs (s.acquireIf k sc) (.dst d :: .src c :: opndsM m)
    { g := [(d, atExtend aw (valAt rs 0))] } := by
  simp only [valAt, ← List.head?_eq_getElem?]
  exact answered_g ho (by rfl) (by rfl) (by rfl) (.acquireIf s k sc) (noDst_opndsM m)

/-- A reduction sets no flag (R388). -/
theorem amof_answered : Answered (.amof g fd m fc ff sc k fo) s g rs (s.acquireIf k sc) (.dstF fd :: .srcF fc :: opndsM m)
    { f := some (fd, boxed (amofFmt ff) (valAt rs 0), loadCount (amofFmt ff) (valAt rs 0)),
      flags := if collectiveAt (s.ea m) (.amof fo ff (s.fval fc).val) then 0
        else (opAmof fo (amofFmt ff) (valAt rs 0) ((s.fval fc).val.toNat % 2 ^ (amofFmt ff).bits)).2 } := by
  have hea : (s.acquireIf k sc).ea m = s.ea m := ea_acquireIf s k sc m
  rw [valAt, ← List.head?_eq_getElem?]
  by_cases hc : collectiveAt (s.ea m) (.amof fo ff (s.fval fc).val) = true
  · rw [if_pos hc]
    exact answered_f ho (by rfl) (by rfl) (by simp only [hea, hc, if_true]) (.acquireIf s k sc) (noDst_opndsM m)
  · rw [if_neg hc]
    exact answered_of ho (by rfl) (by rfl) (by simp only [hea, hc]; rfl) (((Applied.refl _).orFlags rfl _).putF rfl fd _ _) (.acquireIf s k sc)
      (fills_f (noDst_opndsM m) rfl rfl)

end

/-! ### O14 -/

/-- Settles O14: each load and each atomic goes on with its answers to one effect (`Answered`). -/
theorem loadsTakeTheirAnswers : Obligations.LoadsTakeTheirAnswers := by
  intro s g d c fd fc vd m mx f w dc ty sc k aw op ff fo gm rs hgd ho x osF osC vals q hq hm
  suffices h : Answered q.1 s g rs q.2.1 q.2.2.1 q.2.2.2 from h.collects hgd hm
  revert q
  simp only [List.forall_mem_cons, List.not_mem_nil, false_imp_iff, implies_true, and_true]
  exact ⟨fun _ => ld_answered ho .., fun _ => ld_acq_answered ho .., fun _ => ldf_answered ho .., fun _ => ldfc_answered ho ..,
    fun _ => ldp_answered ho .., fun _ => vld_answered ho .., fun _ => vldx_answered ho .., fun _ => vldc_answered ho ..,
    fun _ => amo_answered ho .., fun _ => amocas_answered ho .., fun _ => amof_answered ho ..⟩

end Sys2Proof.Machine
end

section
/-!
PROOFS. Loads from the own tile store (O11): what a thread reads of its own tile's store, and a load whose units all lie there.
-/

set_option linter.constructorNameAsVariable false

namespace Sys2Proof.Machine

/-! ### Bytes and lists -/

@[simp] theorem length_setAt {α : Type} (l : List α) (k : Nat) (y : α) : (setAt l k y).length = l.length := by
  induction l generalizing k with
  | nil => rfl
  | cons x l ih => cases k <;> simp [setAt, ih]

theorem nth_setAt {α : Type} (d : α) (l : List α) (k : Nat) (y : α) (i : Nat) :
    nth d (setAt l k y) i = if i = k ∧ k < l.length then y else nth d l i := by
  induction l generalizing k i with
  | nil => simp [setAt]
  | cons x l ih => cases k <;> cases i <;> simp [setAt, nth, ih]

/-- Two lists of one length are equal where they agree at every place. -/
theorem ext_nth {α : Type} (d : α) {l m : List α} (hl : l.length = m.length) (h : ∀ i, i < l.length → nth d l i = nth d m i) : l = m := by
  refine List.ext_getElem hl fun i hi hm => ?_
  rw [← nth_of_lt (d := d) hi, ← nth_of_lt (d := d) hm]
  exact h i hi

@[simp] theorem length_overlay (base : Nat) (bs : List Byte) (cs : List Host.Cell) : (overlay base bs cs).length = bs.length := by
  induction cs generalizing bs with
  | nil => rfl
  | cons c cs ih =>
    rw [overlay, List.foldl_cons]
    exact (ih _).trans (by split <;> simp)

/-- A byte of an overlaid list: that of the cells at its address, which agree, or what stood there. -/
theorem nth_overlay {base i : Nat} {y : Byte} {cs : List Host.Cell} (hy : ∀ c ∈ cs, c.1 = base + i → c.2 = y) {bs : List Byte}
    (hi : i < bs.length) (h : nth 0 bs i = y ∨ ∃ c ∈ cs, c.1 = base + i) : nth 0 (overlay base bs cs) i = y := by
  induction cs generalizing bs with
  | nil => simpa [overlay] using h
  | cons c cs ih =>
    rw [overlay, List.foldl_cons]
    refine ih (fun c hc => hy c (List.mem_cons_of_mem _ hc)) (by split <;> simp [hi]) ?_
    by_cases hc : c.1 = base + i
    · left
      rw [if_pos (by omega), nth_setAt, if_pos ⟨by omega, by omega⟩]
      exact hy c List.mem_cons_self hc
    · rcases h with h | ⟨b, hb, hbi⟩
      · left
        split
        · rw [nth_setAt, if_neg (by omega), h]
        · exact h
      · rcases List.mem_cons.mp hb with rfl | hb
        · exact absurd hbi hc
        · exact .inr ⟨b, hb, hbi⟩

theorem nth_overlay_of_ne {base i : Nat} {cs : List Host.Cell} {bs : List Byte} (hi : i < bs.length) (h : ∀ c ∈ cs, c.1 ≠ base + i) :
    nth 0 (overlay base bs cs) i = nth 0 bs i := nth_overlay (fun c hc he => absurd he (h c hc)) hi (.inl rfl)

/-- Overlays one after the other. -/
theorem nth_overlays_of_ne {base i : Nat} {ms : List Msg} {bs : List Byte} (hi : i < bs.length)
    (h : ∀ m ∈ ms, ∀ c ∈ m.bytes, c.1 ≠ base + i) :
    nth 0 (ms.foldl (fun bs m => overlay base bs m.bytes) bs) i = nth 0 bs i := by
  induction ms generalizing bs with
  | nil => rfl
  | cons m ms ih =>
    rw [List.foldl_cons, ih (by simpa using hi) (fun m hm => h m (List.mem_cons_of_mem _ hm)), nth_overlay_of_ne hi (h m List.mem_cons_self)]

theorem length_overlays (base : Nat) (ms : List Msg) (bs : List Byte) : (ms.foldl (fun bs m => overlay base bs m.bytes) bs).length = bs.length := by
  induction ms generalizing bs with
  | nil => rfl
  | cons m ms ih => rw [List.foldl_cons, ih, length_overlay]

theorem ofBytes_lt (bs : List Byte) : ofBytes bs < 256 ^ bs.length := by
  induction bs with
  | nil => simp [ofBytes]
  | cons b bs ih =>
    have hb := b.isLt
    simp only [ofBytes, List.foldr_cons, List.length_cons] at ih ⊢
    rw [pow_succ]
    omega

theorem ofBytes_append (as bs : List Byte) : ofBytes (as ++ bs) = ofBytes as + 256 ^ as.length * ofBytes bs := by
  induction as with
  | nil => simp [ofBytes]
  | cons a as ih =>
    simp only [ofBytes, List.cons_append, List.foldr_cons, List.length_cons] at ih ⊢
    rw [ih, pow_succ]
    ring

/-- The two words of a pair, by the value of its bytes. -/
theorem wordOf_pair {bs : List Byte} (h : bs.length = 16) :
    w64 (ofBytes bs) = wordOf (bs.take 8) ∧ w64 (ofBytes bs / 2 ^ 64) = wordOf (bs.drop 8) := by
  have hl : (bs.take 8).length = 8 := by simp [h]
  have hlt := ofBytes_lt (bs.take 8)
  have hs : ofBytes bs = ofBytes (bs.take 8) + 2 ^ 64 * ofBytes (bs.drop 8) := by
    have h := ofBytes_append (bs.take 8) (bs.drop 8)
    rw [List.take_append_drop, hl] at h
    exact h
  rw [hl] at hlt
  refine ⟨BitVec.eq_of_toNat_eq ?_, congrArg w64 (by omega)⟩
  simp only [w64, wordOf, BitVec.toNat_ofNat]
  omega

/-! ### What a thread reads of its own tile's store -/

theorem Core.effect_setCtx (k : Core) (x : Nat) (t : Ctx) (op : QOp) :
    (k.setCtx x t).effect op = ((k.effect op).1.setCtx x t, (k.effect op).2) := by
  cases op <;> rfl

theorem Core.perform_setCtx (k : Core) (x : Nat) (t : Ctx) (op : QOp) : (k.setCtx x t).perform op = (k.perform op).setCtx x t := by
  rw [Core.perform, Core.effect_setCtx]
  rfl

theorem Core.ahead_setCtx (k : Core) (x : Nat) (t : Ctx) : (k.setCtx x t).ahead = k.ahead := by
  have h (qs : List QCmd) (r : Core × List Mem) : (qs.foldl (fun (r : Core × List Mem) q =>
      let k' := if (r.1.badSource q.op).isSome then r.1 else r.1.perform q.op
      (k', r.2 ++ [k'.store])) (r.1.setCtx x t, r.2)).2 = (qs.foldl (fun (r : Core × List Mem) q =>
      let k' := if (r.1.badSource q.op).isSome then r.1 else r.1.perform q.op
      (k', r.2 ++ [k'.store])) r).2 := by
    induction qs generalizing r with
    | nil => rfl
    | cons q qs ih =>
      rw [List.foldl_cons, List.foldl_cons]
      have hb : (r.1.setCtx x t).badSource q.op = r.1.badSource q.op := rfl
      simp only [hb, Core.perform_setCtx]
      split
      · exact ih (r.1, r.2 ++ [r.1.store])
      · exact ih (r.1.perform q.op, r.2 ++ [(r.1.perform q.op).store])
  exact h k.mq (k, [])

theorem Core.seen_setCtx (k : Core) (x : Nat) (t : Ctx) (ctr off n : Nat) : (k.setCtx x t).seen ctr off n = k.seen ctr off n := by
  simp only [Core.seen, Core.ahead_setCtx]
  rfl

section
variable (s : State) (f : Ctx → Ctx)

theorem State.core_modMe_keeps {α : Type} (π : Core → α) (hπ : ∀ k x t, π (Core.setCtx k x t) = π k) (d : Nat) :
    π ((s.modMe f).core d) = π (s.core d) := State.core_setCtx_keeps π hπ s _ _ _ d

theorem State.gangCores_modMe (d : Nat) : (s.modMe f).gangCores d = s.gangCores d := State.gangCores_setCtx ..

theorem State.freshFor_modMe (h r off n : Nat) : (s.modMe f).freshFor h r off n = s.freshFor h r off n := by
  simp only [State.freshFor, State.unacquired, s.gangCores_modMe, s.core_modMe_keeps f Core.fresh (fun _ _ _ => rfl),
    s.core_modMe_keeps f Core.acq (fun _ _ _ => rfl)]

theorem State.threadSees_modMe (h r off n : Nat) : (s.modMe f).threadSees h r off n = s.threadSees h r off n := by
  simp only [State.threadSees, s.freshFor_modMe, State.unacquired, s.gangCores_modMe, s.core_modMe_keeps f Core.fresh (fun _ _ _ => rfl),
    s.core_modMe_keeps f Core.acq (fun _ _ _ => rfl), State.modMe_freeCtr,
    s.core_modMe_keeps f (fun k => k.seen s.freeCtr off n) (fun k x t => k.seen_setCtx x t ..)]

theorem State.ownRead_modMe (c x off n : Nat) : (s.modMe f).ownRead c x off n = s.ownRead c x off n := by
  simp only [State.ownRead, s.threadSees_modMe]
  rfl

theorem State.threadRead_modMe (h r off n : Nat) : (s.modMe f).threadRead h r off n = (s.threadRead h r off n).modMe f := by
  simp only [State.threadRead, State.readStep, s.freshFor_modMe, s.core_modMe_keeps f (fun k => k.unsettled off n) (fun _ _ _ => rfl)]
  split
  · rfl
  · split <;> rfl

theorem State.threadRead_numbered (k h r off n : Nat) : (s.numbered k).threadRead h r off n = (s.threadRead h r off n).numbered k := by
  have hf : (s.numbered k).freshFor h r off n = s.freshFor h r off n := rfl
  have hu : (s.numbered k).core h = s.core h := rfl
  simp only [State.threadRead, State.readStep, hf, hu]
  split
  · rfl
  · split <;> rfl

end

theorem State.core_threadRead (s : State) (h r off n c : Nat) : (s.threadRead h r off n).core c = s.core c := by
  simp only [State.threadRead, State.readStep]
  split
  · rfl
  · split <;> rfl

theorem State.cur_threadRead (s : State) (h r off n : Nat) : (s.threadRead h r off n).cur = s.cur := by
  simp only [State.threadRead, State.readStep]
  split
  · rfl
  · split <;> rfl

theorem State.msgCtr_threadRead (s : State) (h r off n : Nat) : (s.threadRead h r off n).msgCtr = s.msgCtr := by
  simp only [State.threadRead, State.readStep]
  split
  · rfl
  · split <;> rfl

theorem State.me_threadRead (s : State) (h r off n : Nat) : (s.threadRead h r off n).me = s.me := by
  rw [State.me, State.cur_threadRead, State.ctx_threadRead, State.me]

theorem State.length_ownRead (s : State) (c x off n : Nat) : (s.ownRead c x off n).length = n := by
  rw [State.ownRead, length_overlays, State.length_threadSees]

/-! ### Units in the own scratch pass the checks -/

section
variable {s : State} {us : List AUnit} (h : ∀ u ∈ us, s.ownAt u.ea u.size u.align = true ∧ 1 ≤ u.size)
include h

theorem spaces_owns : s.spaces us = .ok (us.map (fun u => (u, .store s.cur.1 (fld u.ea 20 0) none))) := by
  induction us with
  | nil => rfl
  | cons u us ih =>
    obtain ⟨ha, hn⟩ := h u List.mem_cons_self
    simp only [State.spaces, spaceOf_own ha hn, ih (fun v hv => h v (List.mem_cons_of_mem _ hv)), List.map_cons]

theorem misaligned_owns : misaligned us = none := by
  have hf : us.find? (fun u => u.ea.toNat % u.align != 0) = none := by
    refine List.find?_eq_none.mpr fun u hu => ?_
    have ha := (h u hu).1
    simp only [State.ownAt, Bool.and_eq_true, beq_iff_eq] at ha
    simp [ha.1.2]
  rw [misaligned, hf]
  rfl

omit h in
theorem scopeTrap_owns (sc : Option Scope) : scopeTrap sc (us.map (fun u => (u, Loc.store s.cur.1 (fld u.ea 20 0) none))) = none := by
  have hf : (us.map (fun u => (u, Loc.store s.cur.1 (fld u.ea 20 0) none))).find? (fun u => match u.2 with
      | .domain _ _ => true
      | _ => false) = none := by simp
  rcases sc with _ | _ | _ | _ | _
  case none => rfl
  case some.dom => rfl
  all_goals exact congrArg (Option.map _) hf

omit h in
theorem lookups_owns : s.lookups s.cur.1 (us.map (fun u => (u, Loc.store s.cur.1 (fld u.ea 20 0) none))) =
    (.ok (us.map (fun u => (u, Loc.store s.cur.1 (fld u.ea 20 0) none, none))), s) := by
  induction us with
  | nil => rfl
  | cons u us ih => simp only [List.map_cons, State.lookups, ih]

theorem checks_owns (sc : Option Scope) : s.checks sc us = (.ok (us.map (fun u => (u, .own (fld u.ea 20 0)))), s) := by
  have hat : ∀ off, s.atOf s.cur.1 s.myPart (.store s.cur.1 off none) none = .own off := fun off => by simp [State.atOf]
  have hnone : us.find? (fun _ => false) = none := List.find?_eq_none.mpr (by simp)
  simp [State.checks, spaces_owns h, misaligned_owns h, orTrap, scopeTrap_owns, lookups_owns, List.map_map, Function.comp_def, hat,
    permTrap, State.windowTrap, hnone]

theorem closedBank_owns : s.closedBank (us.map (fun u => (u, At.own (fld u.ea 20 0)))) = false := by
  simp only [State.closedBank, List.any_map, List.any_eq_false]
  intro u hu
  have ha := (h u hu).1
  simp only [State.ownAt, Bool.and_eq_true] at ha
  simpa using ha.2

/-- Units in the own scratch go on with their offsets. -/
theorem checked_owns (sc : Option Scope) (f : State → List (AUnit × At) → Res) :
    s.checked' sc us f = f s (us.map (fun u => (u, .own (fld u.ea 20 0)))) := by
  have hst : stalledRole (us.map (fun u => (u, At.own (fld u.ea 20 0)))) = none := by simp [stalledRole]
  have hz : (us.map (fun u => (u, At.own (fld u.ea 20 0)))).filter (fun u => u.1.size != 0) = us.map (fun u => (u, .own (fld u.ea 20 0))) := by
    refine List.filter_eq_self.mpr fun p hp => ?_
    obtain ⟨u, hu, rfl⟩ := List.mem_map.mp hp
    have hn := (h u hu).2
    simp; omega
  simp [State.checked', checks_owns h, hst, closedBank_owns h, hz]

end

/-! ### Loads of the own tile's store -/

/-- What a read of the own tile's store at the offset of an address answers. -/
def State.ownReply (s : State) (ea : Word) (n : Nat) : Reply := ⟨s.msgCtr, s.ownRead s.cur.1 s.cur.2 (fld ea 20 0) n, s.ownPoison ea n, 0, 0⟩

theorem fresh_replies {s : State} (hf : s.fresh = true) : s.me.replies = [] := by
  simp [State.fresh] at hf
  exact hf.1.2

theorem fresh_ctx {s : State} (hf : s.fresh = true) : s.cur.2 < noCtx := by
  simp [State.fresh] at hf
  exact hf.2

theorem State.instant_eq {s : State} (hx : s.cur.2 < noCtx) (data : List Byte) (poison : Bool) : s.instant data poison =
    (s.numbered 1).modMe (fun t => { t with replies := t.replies ++ [⟨s.msgCtr, data, poison, 0, 0⟩] }) := by
  have h : s.reserve.cur.2 < noCtx := hx
  simp only [State.instant, State.instantAs, State.answer, if_pos h]
  rfl

theorem State.readUnit_own {s : State} (hx : s.cur.2 < noCtx) (u : AUnit) (ea : Word) (ty : ReqType) :
    s.readUnit u (.own (fld ea 20 0)) ty =
      ((s.numbered 1).afterRead ea u.size).modMe (fun t => { t with replies := t.replies ++ [s.ownReply ea u.size] }) := by
  simp only [State.readUnit, State.instant_eq hx, State.threadRead_modMe]
  rfl

/-- The second of two reads: what the first has changed is the number of requests and of free values. -/
theorem State.readUnit_own_twice {s : State} (hx : s.cur.2 < noCtx) (u v : AUnit) (ea k : Word) (ty : ReqType) :
    (s.readUnit u (.own (fld ea 20 0)) ty).readUnit v (.own (fld k 20 0)) ty =
      (((s.numbered 2).afterRead ea u.size).afterRead k v.size).modMe (fun t => { t with replies := t.replies ++
        [s.ownReply ea u.size, ((s.numbered 1).afterRead ea u.size).ownReply k v.size] }) := by
  have hx' : ((s.numbered 1).afterRead ea u.size).cur.2 < noCtx := by
    rw [State.afterRead, State.cur_threadRead]; exact hx
  rw [State.readUnit_own hx]
  generalize hf : (fun t : Ctx => { t with replies := t.replies ++ [s.ownReply ea u.size] }) = f
  have hr : (((s.numbered 1).afterRead ea u.size).modMe f).ownReply k v.size = ((s.numbered 1).afterRead ea u.size).ownReply k v.size := by
    simp only [State.ownReply, State.ownPoison, State.ownRead_modMe, State.modMe_cur, State.modMe_msgCtr, State.myCore]
    rw [State.core_modMe_keeps _ _ (fun c => c.poisoned (fld k 20 0) v.size) (fun _ _ _ => rfl)]
  have hn : ((((s.numbered 1).afterRead ea u.size).modMe f).numbered 1).afterRead k v.size =
      (((s.numbered 2).afterRead ea u.size).afterRead k v.size).modMe f := by
    have h2 : ((s.numbered 1).afterRead ea u.size).numbered 1 = (s.numbered 2).afterRead ea u.size := by
      simp only [State.afterRead, ← State.threadRead_numbered]
      rfl
    have hm : (((s.numbered 1).afterRead ea u.size).modMe f).numbered 1 = (((s.numbered 1).afterRead ea u.size).numbered 1).modMe f := rfl
    rw [hm, h2, State.afterRead, State.threadRead_modMe]
    rfl
  rw [State.readUnit_own (s := ((s.numbered 1).afterRead ea u.size).modMe f) (by simpa using hx'), hr, hn, State.modMe_modMe, ← hf]
  simp only [List.append_assoc, List.cons_append, List.nil_append]

/-- A thread that has the answers it was waiting for. -/
def Ctx.awaited (ids eas : List Nat) (rs : List Reply) (t : Ctx) : Ctx :=
  { t with replies := t.replies ++ rs, phase := { t.phase with step := 4, ids := ids, eas := eas } }

theorem SamePlace.of_me {s u : State} (h : u.me = s.me) : SamePlace s u := ⟨by rw [h], by rw [h], by rw [h]⟩

theorem State.me_afterRead (s : State) (ea : Word) (n : Nat) : (s.afterRead ea n).me = s.me := State.me_threadRead ..

theorem replyTrap_own (s : State) (ea : Word) (n : Nat) (rs : List (Reply × Nat)) : replyTrap ((s.ownReply ea n, ea.toNat) :: rs) =
    if s.ownPoison ea n then some ⟨Cause.poisonLoad, ea, 0⟩ else replyTrap rs := by
  have hw : w64 ea.toNat = ea := by simp [w64]
  simp [replyTrap, State.ownReply, hw]

theorem State.ownPoison_afterRead (s : State) (ea k : Word) (n m : Nat) : ((s.numbered 1).afterRead ea n).ownPoison k m = s.ownPoison k m := by
  simp only [State.ownPoison, State.myCore, State.afterRead, State.cur_threadRead, State.core_threadRead]
  rfl

section
variable {s : State} (hf : s.fresh = true) {ea k : Word} {n : Nat}
include hf

/-- A load of one unit in the own scratch has its answer at once. -/
theorem load_own (h : s.ownAt ea n n = true) (hn : 1 ≤ n) (ty : ReqType) (fin : State → List Reply → Res) :
    let u := ((s.numbered 1).afterRead ea n).modMe (Ctx.awaited [s.msgCtr] [ea.toNat] [s.ownReply ea n])
    s.load [unitAt .load ea n] ty fin = if s.ownPoison ea n then .trap Cause.poisonLoad ea 0 u else fin u [s.ownReply ea n] := by
  intro u
  have hall : u.me.allReplies u.me.phase.ids = .ok [s.ownReply ea n] := by
    have hr : (s.numbered 1).me.replies = [] := fresh_replies hf
    simp [u, State.me_afterRead, Ctx.awaited, Ctx.allReplies, Ctx.replyOf, hr, State.ownReply]
  have heas : u.me.phase.eas = [ea.toNat] := by simp [u, Ctx.awaited]
  have hread : s.readAll ty [(unitAt .load ea n, .own (fld ea 20 0))] = u := by
    simp only [State.readAll, List.foldl_cons, List.foldl_nil, State.readUnit_own (fresh_ctx hf), State.sent, State.modMe_modMe]
    rfl
  have hall' : ∀ q ∈ [unitAt .load ea n], s.ownAt q.ea q.size q.align = true ∧ 1 ≤ q.size := by simpa [unitAt] using ⟨h, hn⟩
  rw [load_fresh hf, checked_owns hall', List.map_singleton, show fld (unitAt .load ea n).ea 20 0 = fld ea 20 0 from rfl, hread]
  simp only [State.collect, hall, heas, List.zip_cons_cons, List.zip_nil_left, replyTrap_own, replyTrap]
  cases s.ownPoison ea n <;> rfl

/-- One of a value and its count has both answers at once. -/
theorem load_own_counted (h : s.ownAt ea n n = true) (hn : 1 ≤ n) (hk : s.ownAt k 1 1 = true) (hp : s.ownPoison ea n = false)
    (hq : s.ownPoison k 1 = false) (ty : ReqType) (fin : State → List Reply → Res) :
    let rs := [s.ownReply ea n, ((s.numbered 1).afterRead ea n).ownReply k 1]
    s.load [unitAt .load ea n, countUnit .load k] ty fin =
      fin ((((s.numbered 2).afterRead ea n).afterRead k 1).modMe (Ctx.awaited [s.msgCtr, s.msgCtr + 1] [ea.toNat, k.toNat] rs)) rs := by
  intro rs
  generalize hu : (((s.numbered 2).afterRead ea n).afterRead k 1).modMe (Ctx.awaited [s.msgCtr, s.msgCtr + 1] [ea.toNat, k.toNat] rs) = u
  have hid : (((s.numbered 1).afterRead ea n).ownReply k 1).id = s.msgCtr + 1 := by
    simp only [State.ownReply, State.afterRead, State.msgCtr_threadRead]
    rfl
  have hall : u.me.allReplies u.me.phase.ids = .ok rs := by
    have hr : (s.numbered 2).me.replies = [] := fresh_replies hf
    have h1 : (s.ownReply ea n).id = s.msgCtr := rfl
    simp [← hu, State.me_afterRead, Ctx.awaited, Ctx.allReplies, Ctx.replyOf, hr, rs, h1, hid]
  have heas : u.me.phase.eas = [ea.toNat, k.toNat] := by simp [← hu, Ctx.awaited]
  have hread : s.readAll ty [(unitAt .load ea n, .own (fld ea 20 0)), (countUnit .load k, .own (fld k 20 0))] = u := by
    have hm : (s.readUnit (unitAt .load ea n) (.own (fld ea 20 0)) ty).msgCtr = s.msgCtr + 1 := by
      rw [State.readUnit_own (fresh_ctx hf), State.modMe_msgCtr, State.afterRead, State.msgCtr_threadRead]
      rfl
    simp only [State.readAll, List.foldl_cons, List.foldl_nil, hm, State.readUnit_own_twice (fresh_ctx hf), State.sent, State.modMe_modMe, ← hu]
    rfl
  have hall' : ∀ q ∈ [unitAt .load ea n, countUnit .load k], s.ownAt q.ea q.size q.align = true ∧ 1 ≤ q.size := by
    simpa [unitAt, countUnit] using ⟨⟨h, hn⟩, hk⟩
  rw [load_fresh hf, checked_owns hall', List.map_cons, List.map_singleton, show fld (unitAt .load ea n).ea 20 0 = fld ea 20 0 from rfl,
    show fld (countUnit .load k).ea 20 0 = fld k 20 0 from rfl, hread]
  refine collect_answers hall ?_
  rw [heas]
  show replyTrap [(_, ea.toNat), (_, k.toNat)] = none
  rw [replyTrap_own, if_neg (by simp [hp]), replyTrap_own, State.ownPoison_afterRead, if_neg (by simp [hq])]
  rfl

end

/-- An update of a thread's answers and phase is undone at the end of its instruction. -/
theorem Applied.awaited {s : State} (ids eas : List Nat) (rs : List Reply) : Applied s (s.modMe (Ctx.awaited ids eas rs)) {} :=
  (Applied.refl s).aside (fun _ _ => rfl)

section
variable {s : State} (hf : s.fresh = true) {i : Instr} {g : Guard} {os : List Opnd} (hgd : s.guard g = true)
  (hm : s.modsOk (condsOf os) = true) {ea : Word} {n : Nat} (ho : s.ownAt ea n n = true) (hn : 1 ≤ n) {ty : ReqType} {eff : State → Res}
  {fin : State → List Reply → Res} (hx : exec i s = s.run i 12 g os eff) (he : eff s = s.load [unitAt .load ea n] ty fin)
include hf hgd hm ho hn hx he

/-- A load of one unit in the own scratch ends in an effect on registers of the state after its read. -/
theorem load_own_runs (hp : s.ownPoison ea n = false) {e : Effect} {w : State → State} (hfin : ∀ u, fin u [s.ownReply ea n] = .done (w u))
    (ha : ∀ u v, Applied u v {} → Applied u (w v) e) (hr : Fills os e) : RunsWith i s ((s.numbered 1).afterRead ea n) 12 os e := by
  have hs : SamePlace s ((s.numbered 1).afterRead ea n) := .of_me (State.me_afterRead ..)
  refine run_with hx hgd hm ?_ hs.level hs.dbgctl hs.pc (ha _ _ (.awaited [s.msgCtr] [ea.toNat] [s.ownReply ea n])) hr.1 hr.2
  simp only [he, load_own hf ho hn, hp, Bool.false_eq_true, if_false, hfin]

theorem load_own_traps (hp : s.ownPoison ea n = true) : TrapsWith i s ((s.numbered 1).afterRead ea n) Cause.poisonLoad ea 0 := by
  have h : TrapsWith i s (((s.numbered 1).afterRead ea n).modMe (Ctx.awaited [s.msgCtr] [ea.toNat] [s.ownReply ea n])) Cause.poisonLoad ea 0 :=
    traps_with hx hgd hm (by simp only [he, load_own hf ho hn, hp, if_true])
  rw [TrapsWith, State.modMe_modMe] at h
  exact h

end

/-- A number below 2^64 sign-extended from its low bits. -/
theorem sextW_w64 {k : Nat} (hk : k ≤ 64) (v : Nat) : sextW k v = ((w64 v).setWidth k).signExtend 64 := by
  have h : (w64 v).setWidth k = BitVec.ofNat k v := by
    apply BitVec.eq_of_toNat_eq
    simp [w64, BitVec.toNat_setWidth, Nat.mod_mod_of_dvd _ (Nat.pow_dvd_pow 2 hk)]
  rw [sextW_eq, h]

section
variable {s : State} {g : Guard} {d c : GReg} {fd : FReg} {f : Fmt} {m : MemOp} {ty : ReqType} {sc : Scope}

/-- The widths of LD: bytes and the value of a register. -/
def ownLoads (s : State) (ea : Word) : List (MemW × Nat × Word) :=
  let v := fun n => w64 (s.ownVal ea n)
  [(.b, 1, ((v 1).setWidth 8).signExtend 64), (.h, 2, ((v 2).setWidth 16).signExtend 64), (.w, 4, ((v 4).setWidth 32).signExtend 64),
    (.d, 8, v 8), (.bn, 1, v 1), (.hn, 2, v 2), (.wn, 4, v 4)]

theorem ownLoads_eq (s : State) (ea : Word) : ∀ q ∈ ownLoads s ea,
    q.2.1 = memBytes q.1 ∧ q.2.2 = extend q.1 (s.ownVal ea q.2.1) ∧ 1 ≤ q.2.1 := by
  simp only [ownLoads, List.forall_mem_cons, List.not_mem_nil, false_imp_iff, implies_true, and_true, memBytes, extend, true_and, Nat.le_refl,
    Nat.one_le_ofNat]
  exact ⟨(sextW_w64 (by decide) _).symm, (sextW_w64 (by decide) _).symm, (sextW_w64 (by decide) _).symm⟩

variable (hf : s.fresh = true) (hgd : s.guard g = true)
include hf hgd

theorem ld_own {w : MemW} (hm : s.modsOk (condsOf (.dst d :: opndsM m)) = true) (ho : s.ownAt (s.ea m) (memBytes w) (memBytes w) = true)
    (hn : 1 ≤ memBytes w) :
    (s.ownPoison (s.ea m) (memBytes w) = false → RunsWith (.ld g d m w ty sc .none) s ((s.numbered 1).afterRead (s.ea m) (memBytes w)) 12
      (.dst d :: opndsM m) { g := [(d, extend w (s.ownVal (s.ea m) (memBytes w)))] }) ∧
    (s.ownPoison (s.ea m) (memBytes w) = true →
      TrapsWith (.ld g d m w ty sc .none) s ((s.numbered 1).afterRead (s.ea m) (memBytes w)) Cause.poisonLoad (s.ea m) 0) :=
  ⟨fun hp => load_own_runs hf hgd hm ho hn (by rfl) (by rfl) hp (fun _ => by rfl) (fun _ _ h => h.putG d _) (fills_g (noDst_opndsM m) rfl rfl),
    fun hp => load_own_traps hf hgd hm ho hn (by rfl) (by rfl) hp⟩

theorem ldf_own (hm : s.modsOk (condsOf (.dstF fd :: opndsM m)) = true) (ho : s.ownAt (s.ea m) f.bytes f.bytes = true)
    (hp : s.ownPoison (s.ea m) f.bytes = false) : RunsWith (.ldf g fd m f ty) s ((s.numbered 1).afterRead (s.ea m) f.bytes) 12
      (.dstF fd :: opndsM m) { f := some (fd, boxed f (s.ownVal (s.ea m) f.bytes), loadCount f (s.ownVal (s.ea m) f.bytes)) } :=
  load_own_runs hf hgd hm ho (fmt_bytes_pos f) (by rfl) (by rfl) hp (fun _ => by rfl) (fun _ _ h => h.putF rfl fd _ _)
    (fills_f (noDst_opndsM m) rfl rfl)

/-- The bytes of a pair are two words (R123). -/
theorem ldp_own (hm : s.modsOk (condsOf (.dst d :: .dst c :: opndsM m)) = true) (ho : s.ownAt (s.ea m) 16 16 = true)
    (hp : s.ownPoison (s.ea m) 16 = false) :
    let bs := s.ownRead s.cur.1 s.cur.2 (fld (s.ea m) 20 0) 16
    RunsWith (.ldp g d m c ty) s ((s.numbered 1).afterRead (s.ea m) 16) 12 (.dst d :: .dst c :: opndsM m)
      { g := [(d, wordOf (bs.take 8)), (c, wordOf (bs.drop 8))] } := by
  intro bs
  obtain ⟨h1, h2⟩ := wordOf_pair (bs := bs) (State.length_ownRead ..)
  rw [← h1, ← h2]
  exact load_own_runs hf hgd hm ho (by decide) (by rfl) (by rfl) hp (fun _ => by rfl) (fun _ _ h => (h.putG d _).putG c _)
    (fills_gg (noDst_opndsM m) rfl rfl)

/-- The count is read after the value. -/
theorem ldfc_own (hm : s.modsOk (condsOf (.dstF fd :: .src c :: opndsM m)) = true) (ho : s.ownAt (s.ea m) f.bytes f.bytes = true)
    (hp : s.ownPoison (s.ea m) f.bytes = false) (hk : s.ownAt (s.countAddr m c f.bytes) 1 1 = true)
    (hq : s.ownPoison (s.countAddr m c f.bytes) 1 = false) :
    let k := s.countAddr m c f.bytes
    let x := s.ownVal (s.ea m) f.bytes
    RunsWith (.ldfc g fd m c f ty) s (((s.numbered 2).afterRead (s.ea m) f.bytes).afterRead k 1) 12 (.dstF fd :: .src c :: opndsM m)
      { f := some (fd, boxed f x, Nat.min ((s.afterRead (s.ea m) f.bytes).ownVal k 1 % 64) (loadCount f x)) } := by
  intro k x
  have hs : SamePlace s (((s.numbered 2).afterRead (s.ea m) f.bytes).afterRead k 1) := .of_me (by simp only [State.me_afterRead]; rfl)
  have hv : ofBytes (((s.numbered 1).afterRead (s.ea m) f.bytes).ownReply k 1).data = (s.afterRead (s.ea m) f.bytes).ownVal k 1 := by
    simp only [State.afterRead, State.threadRead_numbered]
    rfl
  have hr := fills_f (e := { f := some (fd, boxed f x, Nat.min ((s.afterRead (s.ea m) f.bytes).ownVal k 1 % 64) (loadCount f x)) })
    (l := .src c :: opndsM m) (noDst_opndsM m) rfl rfl
  rw [← hv] at hr ⊢
  exact run_with (by rfl) hgd hm (load_own_counted hf ho (fmt_bytes_pos f) hk hp hq ty _) hs.level hs.dbgctl hs.pc
    ((Applied.awaited ..).putF rfl fd _ _) hr.1 hr.2

end

/-- A byte that none of the thread's standing stores holds, where no command and no copy engine writes, is that of the store. -/
theorem ownRead_store {s : State} {off n i : Nat} (hi : i < n) (hu : s.myCore.unsettled off n = false)
    (hf : s.freshFor s.cur.1 s.cur.1 off n = false) (hp : ∀ e ∈ s.ownPend s.cur.1 s.cur.2, ∀ b ∈ e.bytes, b.1 ≠ off + i) :
    nth 0 (s.ownRead s.cur.1 s.cur.2 off n) i = s.myCore.store.read (off + i) := by
  have hs : s.threadSees s.cur.1 s.cur.1 off n = s.myCore.store.readN off n := by
    simp only [State.threadSees, hf]
    exact Core.seen_settled hu _
  rw [State.ownRead, nth_overlays_of_ne (by rw [State.length_threadSees]; exact hi) hp, hs, nth_readN hi]

/-- A byte of the thread's latest standing store is that store's. -/
theorem ownRead_latest {s : State} {c x off n i : Nat} (hi : i < n) {es : List Msg} {e : Msg} {b : Host.Cell} (hp : s.ownPend c x = es ++ [e])
    (hb : b ∈ e.bytes) (hbi : b.1 = off + i) (hu : ∀ b' ∈ e.bytes, b'.1 = off + i → b' = b) : nth 0 (s.ownRead c x off n) i = b.2 := by
  rw [State.ownRead, hp, List.foldl_append]
  exact nth_overlay (fun b' h h' => congrArg Prod.snd (hu b' h h')) (by rw [length_overlays, State.length_threadSees]; exact hi)
    (.inr ⟨b, hb, hbi⟩)

/-! ### O11 -/

/-- Settles O11: a load whose units lie in the own scratch has its answers at once (`load_own`). -/
theorem ownStoreLoads : Obligations.OwnStoreLoads := by
  intro s g d c fd f m ty sc hgd hf ea v
  refine ⟨fun hm q (hq : q ∈ ownLoads s ea) ho => ?ld, fun hm ho hp => ldf_own hf hgd hm ho hp,
    fun hm ho hp hk hq => ldfc_own hf hgd hm ho hp hk hq, fun hm ho hp => ldp_own hf hgd hm ho hp,
    fun n i hi => ⟨fun hu hfr hp => ownRead_store hi hu hfr hp, fun es e b hp hb hbi hu => ownRead_latest hi hp hb hbi hu⟩⟩
  obtain ⟨w, n, x⟩ := q
  obtain ⟨hn, hx, hpos⟩ := ownLoads_eq s ea _ hq
  dsimp only at hn hx hpos ho ⊢
  subst hn hx
  exact ld_own hf hgd hm ho hpos

end Sys2Proof.Machine
end

section
/-!
PROOFS. Stores (O15, O12): a lookup changes the order of a buffer and the free values only; the acceptance of a store's units leaves its thread
where it stands.
-/

set_option linter.constructorNameAsVariable false

namespace Sys2Proof.Machine

/-! ### Lookups -/

/-- What lookups change: the order of translation buffers, and the free values they use up. -/
structure Looked (s u : State) : Prop where
  device : { u with cores := s.cores, freeCtr := s.freeCtr } = s
  core : ∀ d, { u.core d with tb := (s.core d).tb } = s.core d

theorem Looked.refl (s : State) : Looked s s := ⟨rfl, fun _ => rfl⟩

theorem Looked.trans {s t u : State} (h : Looked s t) (k : Looked t u) : Looked s u := by
  constructor
  · have hd := h.device
    rw [← k.device] at hd
    exact hd
  · intro d
    have hc := h.core d
    rw [← k.core d] at hc
    exact hc

section
variable {s u : State} (h : Looked s u)
include h

/-- What depends on neither is as it was. -/
theorem Looked.keeps {α : Type} (π : State → α) (hπ : ∀ (s : State) c n, π { s with cores := c, freeCtr := n } = π s) : π u = π s :=
  (hπ u s.cores s.freeCtr).symm.trans (congrArg π h.device)

theorem Looked.core_keeps {α : Type} (π : Core → α) (hπ : ∀ (k : Core) tb, π { k with tb := tb } = π k) (d : Nat) :
    π (u.core d) = π (s.core d) :=
  (hπ (u.core d) (s.core d).tb).symm.trans (congrArg π (h.core d))

theorem Looked.cur : u.cur = s.cur := h.keeps State.cur (fun _ _ _ => rfl)
theorem Looked.net : u.net = s.net := h.keeps State.net (fun _ _ _ => rfl)
theorem Looked.cache (d : Nat) : (u.core d).cache = (s.core d).cache := h.core_keeps Core.cache (fun _ _ => rfl) d
theorem Looked.ctx (d x : Nat) : u.ctx d x = s.ctx d x := h.core_keeps (fun k => k.ctx x) (fun _ _ => rfl) d
theorem Looked.me : u.me = s.me := by rw [State.me, h.cur, h.ctx, State.me]

theorem Looked.memory : SameMemory s u :=
  .of_eq (fun c => congrArg id (h.core_keeps Core.store (fun _ _ => rfl) c)) (h.keeps State.memStacks (fun _ _ _ => rfl))
    (fun p => congrArg Part.sys (h.keeps (fun s => s.part p) (fun _ _ _ => rfl))) (h.keeps State.fwMem (fun _ _ _ => rfl))
    (h.keeps State.hostMem (fun _ _ _ => rfl))

end

theorem Looked.lookup (s : State) (c va : Nat) : Looked s (s.lookup c va).2 := by
  have hfree : Looked s (if (s.core c).tbOpen then { s with freeCtr := s.freeCtr + (s.core c).cycle + 1 } else s) := by
    split
    · exact ⟨rfl, fun _ => rfl⟩
    · exact .refl s
  unfold State.lookup
  simp only
  split
  · exact hfree
  · refine hfree.trans ⟨rfl, fun d => ?_⟩
    by_cases hd : d = c
    · subst hd; rw [State.core_modCore_same]
    · rw [State.core_modCore_ne _ c d _ hd]

theorem Looked.lookups (s : State) (c : Nat) (us : List (AUnit × Loc)) : Looked s (s.lookups c us).2 := by
  induction us generalizing s with
  | nil => exact .refl s
  | cons u us ih =>
    obtain ⟨u, l⟩ := u
    have tail (r : Except Trap (Option TbEntry) × State) (hr : Looked s r.2) : Looked s (match r.1 with
        | .error t => ((.error t, r.2) : Except Trap (List (AUnit × Loc × Option TbEntry)) × State)
        | .ok e => match State.lookups r.2 c us with
          | (.error t, s) => (.error t, s)
          | (.ok es, s) => (.ok ((u, l, e) :: es), s)).2 := by
      have hu := ih r.2
      split
      · exact hr
      · generalize State.lookups r.2 c us = q at hu
        obtain ⟨_ | _, v⟩ := q <;> exact hr.trans hu
    refine tail _ ?_
    cases l
    case virt va =>
      dsimp only
      split
      · exact .refl s
      · have hl := Looked.lookup s c va
        generalize s.lookup c va = q at hl
        obtain ⟨_ | _, v⟩ := q <;> exact hl
    all_goals exact .refl s

theorem Looked.checks (s : State) (sc : Option Scope) (us : List AUnit) : Looked s (s.checks sc us).2 := by
  unfold State.checks
  simp only
  split
  · exact .refl s
  · next ls _ =>
    split
    · exact .refl s
    · have hl := Looked.lookups s s.cur.1 ls
      generalize s.lookups s.cur.1 ls = q at hl
      obtain ⟨_ | es, v⟩ := q
      · exact hl
      · dsimp only
        split <;> exact hl

/-! ### The acceptance of a store -/

theorem SamePlace.foldl {α : Type} (f : State → α → State) (h : ∀ s x, SamePlace s (f s x)) (l : List α) (s : State) :
    SamePlace s (l.foldl f s) := by
  induction l generalizing s with
  | nil => exact .refl s
  | cons x l ih => exact (h s x).trans (ih _)

theorem SamePlace.sendTile (s : State) (entry : Nat) (kind : MKind) (addr : Nat) (bytes : List Host.Cell) :
    SamePlace s (s.sendTile entry kind addr bytes) := ⟨rfl, rfl, rfl⟩

theorem SamePlace.sendMem (s : State) (entry : Nat) (kind : MKind) (part pa : Nat) (bytes : List Host.Cell) :
    SamePlace s (s.sendMem entry kind part pa bytes) := ⟨rfl, rfl, rfl⟩

theorem SamePlace.updateLine (s : State) (c line : Nat) (loc : Bool) (cells : List Host.Cell) (dirty : Bool) :
    SamePlace s (s.updateLine c line loc cells dirty) := by
  have hcur : (s.updateLine c line loc cells dirty).cur = s.cur := by
    have h := congrArg State.cur (updateLine_only s c line loc cells dirty).device
    exact h
  exact .of_me (by rw [State.me, hcur, ctx_updateLine, State.me])

theorem SamePlace.throughLine (s : State) (entry part pa : Nat) (cells : List Host.Cell) : SamePlace s (s.throughLine entry part pa cells) := by
  unfold State.throughLine
  simp only
  split
  · exact (SamePlace.sendMem ..).trans (.updateLine ..)
  · exact .sendTile ..

/-- A unit on its way leaves the thread where it stands, RFCOUNT apart. -/
theorem SamePlace.writeUnit (s : State) (entry : Nat) (a : At) (ty : ReqType) (bs : List Byte) : SamePlace s (s.writeUnit entry a ty bs) := by
  cases a
  case mem p pa =>
    simp only [State.writeUnit]
    split
    · exact ⟨rfl, rfl, rfl⟩
    · exact (SamePlace.throughLine ..).trans (.updateLine ..)
    · exact (SamePlace.sendTile ..).trans (.updateLine ..)
    · exact .sendTile ..
  case domain d off => exact (SamePlace.of_me (me_sendDomain ..)).trans (.modMe _ (fun _ => ⟨rfl, rfl, rfl⟩))
  all_goals exact ⟨rfl, rfl, rfl⟩

theorem SamePlace.storeNear (s : State) (ty : ReqType) (clr : Bool) (ps : List Piece) : SamePlace s (s.storeNear ty clr ps) := by
  unfold State.storeNear
  simp only
  refine (SamePlace.foldl _ (fun u to_ => SamePlace.foldl _ (fun u w => .sendTile ..) _ u) _ s).trans (.foldl _ (fun u p => ?_) _ _)
  split
  case h_5 => exact .writeUnit ..
  all_goals exact .refl u

theorem SamePlace.storeNears (s : State) (ty : ReqType) (clr : Bool) (planes : List (Option Word × List Piece)) :
    SamePlace s (s.storeNears ty clr planes) := by
  unfold State.storeNears
  refine SamePlace.foldl _ (fun u p => ?_) planes s
  exact SamePlace.storeNear u ty clr p.2

/-! ### Instructions that store planes -/

/-- An instruction whose effect is a store of planes. -/
def Stores (i : Instr) (s : State) (g : Guard) (os : List Opnd) (planes : List Plane) (ty : ReqType) (clr : Bool) : Prop :=
  noDst os = true ∧ ∃ eff, exec i s = s.run i 12 g os eff ∧ eff s = s.store planes ty clr .done

section
variable {i : Instr} {s : State} {g : Guard} {os : List Opnd} {planes : List Plane} {ty : ReqType} {clr : Bool}
  (h : Stores i s g os planes ty clr) (hgd : s.guard g = true) (hm : s.modsOk (condsOf os) = true) (hf : s.fresh = true)
include h hgd hm hf

theorem Stores.bubbles (hr : s.queueRoom s.cur.1 s.cur.2 planes.length = false) : Bubbles i s := by
  obtain ⟨-, eff, hx, he⟩ := h
  have hb : eff s = .bubble s := by simp [he, State.store, fresh_out hf, hr]
  rw [Bubbles, hx]
  simp only [State.run, hgd, hm, if_true, hb]
  rfl

variable (hr : s.queueRoom s.cur.1 s.cur.2 planes.length = true) {ps : List (AUnit × At)} {u : State}
  (hc : s.checks none (planes.flatMap (fun p => p.2.1)) = (.ok ps, u)) (hst : stalledRole ps = none) (hb : u.closedBank ps = false)
include hr hc hst hb

/-- Units that no operand range meets and none of which goes to another gang tile are accepted. -/
theorem Stores.accepted (hq : u.myCore.refusalAt (planesAt planes (ps.filter (fun x => x.1.size != 0))) = none)
    (hfar : farCores ((planesAt planes (ps.filter (fun x => x.1.size != 0))).flatMap (fun p => p.2)) = []) :
    RunsWith i s (u.storeNears ty clr (planesAt planes (ps.filter (fun x => x.1.size != 0)))) 12 os {} := by
  obtain ⟨hn, eff, hx, he⟩ := h
  have hl := Looked.checks s none (planes.flatMap (fun p => p.2.1))
  rw [hc] at hl
  have hs := (SamePlace.of_me hl.me).trans (SamePlace.storeNears u ty clr (planesAt planes (ps.filter (fun x => x.1.size != 0))))
  refine runs_with_0 hx hn hgd hm ?_ hs.level hs.dbgctl hs.pc
  simp only [he, store_fresh hf hr, State.checked', hc, hst, hb, State.storeAt, hq, hfar]
  rfl

theorem Stores.refused {a : Word} {pos : Nat} (hq : u.myCore.refusalAt (planesAt planes (ps.filter (fun x => x.1.size != 0))) = some (a, pos)) :
    TrapsWith i s u Cause.opbufInUse a (w64 pos) := by
  obtain ⟨-, eff, hx, he⟩ := h
  refine traps_with hx hgd hm ?_
  simp only [he, store_fresh hf hr, State.checked', hc, hst, hb, State.storeAt, hq]
  rfl

end

/-! ### O15 -/

/-- The data code of a format. -/
def dataOf : Fmt → VData
  | .s => .s
  | .d => .d
  | .hf => .hf
  | .bf => .bf

/-- No address of domain space among those of a vector access. -/
theorem domainTrap_none {k : AccKind} {as : List Word} (h : as.all (fun a => fld a 63 60 != 0xC) = true) : domainTrap k as = none := by
  have hf : as.find? (fun a => fld a 63 60 == 0xC) = none := by
    refine List.find?_eq_none.mpr fun a ha => ?_
    simpa using List.all_eq_true.mp h a ha
  rw [domainTrap, hf]
  rfl

section
variable {s : State} (g : Guard) (d c : GReg) (fd : FReg) (vd : VReg) (m : MemOp) (mx : MemIdx) (f : Fmt) (w : StW) (dc : VData) (ty : ReqType)
  (sc : Scope) (gm : GMask)

/-- A vector store, which looks at its addresses before it stores. -/
theorem stores_vector {i : Instr} {os : List Opnd} {planes : List Plane} {clr : Bool} {eff : State → Res} {t : Option Trap}
    (hn : noDst os = true) (hx : exec i s = s.run i 12 g os eff) (ht : t = none) (he : eff s = (match (if s.out then none else t) with
      | some t => .raise s t
      | none => s.store planes ty clr .done)) : Stores i s g os planes ty clr := by
  subst ht
  exact ⟨hn, eff, hx, by simp [he]⟩

theorem st_stores : Stores (.st g d m w ty sc .none) s g (.src d :: opndsM m)
    [(some (s.ea m), [unitAt .store (s.ea m) (stBytes w)], [toBytes (stBytes w) (s.g d).toNat])] ty false :=
  ⟨noDst_opndsM m, _, by rfl, by rfl⟩

theorem stf_stores : Stores (.stf g fd m f ty) s g (.srcF fd :: opndsM m)
    [(some (s.ea m), [unitAt .store (s.ea m) f.bytes], [toBytes f.bytes (s.fval fd).val.toNat])] ty false :=
  ⟨noDst_opndsM m, _, by rfl, by rfl⟩

theorem stfc_stores : Stores (.stfc g fd m c f ty) s g (.srcF fd :: .src c :: opndsM m)
    [(some (s.ea m), [unitAt .store (s.ea m) f.bytes], [toBytes f.bytes (s.fval fd).val.toNat]),
      (some (s.countAddr m c f.bytes), [countUnit .store (s.countAddr m c f.bytes)], [toBytes 1 (Nat.min (s.fval fd).cnt f.p)])] ty false :=
  ⟨noDst_opndsM m, _, by rfl, by rfl⟩

theorem stp_stores : Stores (.stp g d m c ty) s g (.src d :: .src c :: opndsM m)
    [(some (s.ea m), [unitAt .store (s.ea m) 16], [toBytes 8 (s.g d).toNat ++ toBytes 8 (s.g c).toNat])] ty false :=
  ⟨noDst_opndsM m, _, by rfl, by rfl⟩

theorem vst_stores (h : (fld (s.ea m) 63 60 != 0xC) = true) : Stores (.vst g vd m dc ty gm) s g (opndsM m)
    [(some (s.ea m), planeUnit .store (s.ea m) dc :: planeUnits .store (s.ea m) (vbytes dc) (s.actives gm (vdfmt dc)),
      (s.actives gm (vdfmt dc)).map ((s.v vd).elemBytes dc))] ty true :=
  stores_vector g ty (noDst_opndsM m) (by rfl) (domainTrap_none (k := .store) (as := [s.ea m]) (by simpa using h)) (by rfl)

theorem vstc_stores (h : (fld (s.ea m) 63 60 != 0xC && (s.actives gm f).all (fun e => fld (s.countAddr m c f.bytes + w64 e) 63 60 != 0xC)) = true) :
    Stores (.vstc g vd m c f ty gm) s g (.src c :: opndsM m)
      [(some (s.ea m), planeUnit .store (s.ea m) (dataOf f) :: planeUnits .store (s.ea m) f.bytes (s.actives gm f),
          (s.actives gm f).map ((s.v vd).elemBytes (dataOf f))),
        (some (s.countAddr m c f.bytes), planeUnits .store (s.countAddr m c f.bytes) 1 (s.actives gm f),
          (s.actives gm f).map (fun e => toBytes 1 ((s.v vd).count f e)))] ty false := by
  refine stores_vector g ty (noDst_opndsM m) (by rfl) (domainTrap_none (k := .store)
    (as := s.ea m :: (planeUnits .store (s.countAddr m c f.bytes) 1 (s.actives gm f)).map (fun u => u.ea)) ?_) (by cases f <;> rfl)
  simpa [planeUnits, Function.comp_def] using h

theorem vstx_stores (h : (s.gatherOn gm dc).all (fun e => (s.gatherTrap .store mx dc e).isNone) = true) :
    Stores (.vstx g vd mx dc ty gm) s g [.src mx.base] [(none, s.gatherUnits .store mx dc (s.gatherOn gm dc),
      (s.gatherOn gm dc).map (fun e => toBytes (lanBytes dc) ((s.v vd).bits (if dc = .d then .d else .s) e)))] ty false := by
  refine stores_vector g ty (os := [.src mx.base]) rfl (by rfl) (t := (s.gatherOn gm dc).findSome? (s.gatherTrap .store mx dc)) ?_ (by rfl)
  exact List.findSome?_eq_none_iff.mpr fun e he => Option.isNone_iff_eq_none.mp (List.all_eq_true.mp h e he)

end

/-- Settles O15: each of the seven instructions is a store of its planes (`Stores`). -/
theorem storesAreAccepted : Obligations.StoresAreAccepted := by
  intro s g d c fd vd m mx f w dc ty sc gm hgd hf ea k vf es ec ex q hq hm hok clr
  have hvf : vf = dataOf f := by cases f <;> rfl
  suffices h : Stores q.1 s g q.2.1 q.2.2.1 ty clr from
    ⟨h.bubbles hgd hm hf, fun hr ps u hc hst hb => ⟨h.accepted hgd hm hf hr hc hst hb, fun a pos => h.refused hgd hm hf hr hc hst hb⟩⟩
  clear hm
  revert hok clr
  revert q
  rw [hvf]
  simp only [List.forall_mem_cons, List.not_mem_nil, false_imp_iff, implies_true, and_true]
  exact ⟨fun _ => st_stores .., fun _ => stf_stores .., fun _ => stfc_stores .., fun _ => stp_stores .., fun h => vst_stores g vd m dc ty gm h,
    fun h => vstc_stores g c vd m f ty gm h, fun h => vstx_stores g vd mx dc ty gm h⟩

end Sys2Proof.Machine
end

section
/-!
PROOFS. Stores to the own tile store (O12): what stands in the write queue, what the thread reads of it, and what the store holds once it is
applied.
-/

set_option linter.constructorNameAsVariable false

namespace Sys2Proof.Machine

/-! ### Bytes at their addresses -/

theorem value_of_mem_cellsAt {a : Nat} {bs : List Byte} {c : Host.Cell} (h : c ∈ cellsAt a bs) : c.2 = nth 0 bs (c.1 - a) := by
  induction bs generalizing a with
  | nil => simp [cellsAt] at h
  | cons b bs ih =>
    rcases List.mem_cons.mp h with rfl | h
    · simp [nth]
    · have ha := (addr_of_mem_cellsAt h).1
      obtain ⟨k, hk⟩ : ∃ k, c.1 - a = k + 1 := ⟨c.1 - (a + 1), by omega⟩
      rw [ih h, hk, show c.1 - (a + 1) = k by omega]
      rfl

theorem mem_cellsAt {a i : Nat} {bs : List Byte} (hi : i < bs.length) : ∃ c ∈ cellsAt a bs, c.1 = a + i := by
  have h : a + i ∈ (cellsAt a bs).map (·.1) := by
    rw [fst_cellsAt, List.mem_range'_1]
    omega
  obtain ⟨c, hc, he⟩ := List.mem_map.mp h
  exact ⟨c, hc, he⟩

/-- Bytes laid over as many in the same place replace them. -/
theorem overlay_cellsAt {a : Nat} {bs old : List Byte} (h : old.length = bs.length) : overlay a old (cellsAt a bs) = bs := by
  refine ext_nth 0 (by rw [length_overlay, h]) fun i hi => ?_
  rw [length_overlay] at hi
  exact nth_overlay (fun c hc he => by rw [value_of_mem_cellsAt hc, he, Nat.add_sub_cancel_left]) hi (.inr (mem_cellsAt (by omega)))

/-- Bytes elsewhere change nothing. -/
theorem overlay_cellsAt_disjoint {a off : Nat} {bs old : List Byte} (h : a + old.length ≤ off ∨ off + bs.length ≤ a) :
    overlay a old (cellsAt off bs) = old := by
  refine ext_nth 0 (length_overlay ..) fun i hi => ?_
  rw [length_overlay] at hi
  refine nth_overlay_of_ne hi fun c hc => ?_
  have := addr_of_mem_cellsAt hc
  omega

/-! ### A store that stands in the write queue -/

section
variable (s : State) (ea : Word) (bs : List Byte)

/-- The message of a store to the own tile store. -/
def State.ownMsg : Msg := { s.tileMsg s.cur.1 s.cur.2 s.msgCtr (.tileStore s.cur.1 false false) s.myPart (fld ea 20 0) (cellsAt (fld ea 20 0) bs)
  with id := s.msgCtr }

theorem cur_ownQueue : (s.ownQueue ea bs).cur = s.cur := rfl

theorem ownPend_ownQueue : (s.ownQueue ea bs).ownPend s.cur.1 s.cur.2 = s.ownPend s.cur.1 s.cur.2 ++ [s.ownMsg ea bs] := by
  show List.filter _ (s.net ++ [s.ownMsg ea bs]) = _
  rw [List.filter_append]
  congr 1
  simp [State.ownMsg, State.tileMsg]

/-- A read by the thread finds the new bytes over what it found before. -/
theorem ownRead_ownQueue (a n : Nat) : (s.ownQueue ea bs).ownRead s.cur.1 s.cur.2 a n =
    overlay a (s.ownRead s.cur.1 s.cur.2 a n) (cellsAt (fld ea 20 0) bs) := by
  rw [State.ownRead, ownPend_ownQueue, List.foldl_append]
  rfl

theorem ownVal_ownQueue : (s.ownQueue ea bs).ownVal ea bs.length = ofBytes bs := by
  have h := ownRead_ownQueue s ea bs (fld ea 20 0) bs.length
  rw [overlay_cellsAt (State.length_ownRead ..)] at h
  exact congrArg ofBytes h

theorem ownRead_ownQueue_disjoint {a n : Nat} (h : a + n ≤ fld ea 20 0 ∨ fld ea 20 0 + bs.length ≤ a) :
    (s.ownQueue ea bs).ownRead s.cur.1 s.cur.2 a n = s.ownRead s.cur.1 s.cur.2 a n := by
  rw [ownRead_ownQueue, overlay_cellsAt_disjoint (by rwa [State.length_ownRead])]

theorem SameMemory.ownQueue : SameMemory s (s.ownQueue ea bs) := .of_eq (fun _ => rfl) rfl (fun _ => rfl) rfl rfl

/-- The only standing store, once applied, has written its bytes and no other. -/
theorem store_ownSettled (hw : s.memWf = true) (hb : bs ≠ []) (hp : s.ownPend s.cur.1 s.cur.2 = []) (a : Nat) :
    ((s.ownQueue ea bs).ownSettled ea bs.length).myCore.store.read a =
      if fld ea 20 0 ≤ a ∧ a < fld ea 20 0 + bs.length then nth 0 bs (a - fld ea 20 0) else s.myCore.store.read a := by
  have hbefore : (s.ownQueue ea bs).ownBefore s.cur.1 s.cur.2 (fld ea 20 0) bs.length = [s.ownMsg ea bs] := by
    obtain ⟨c, hc, he⟩ := mem_cellsAt (a := fld ea 20 0) (i := 0) (List.length_pos_iff.mpr hb)
    have hany : (s.ownMsg ea bs).bytes.any (fun b => ((List.range bs.length).map (fld ea 20 0 + ·)).contains b.1) = true :=
      List.any_eq_true.mpr ⟨c, hc, by simp [he, List.length_pos_iff.mpr hb]⟩
    rw [State.ownBefore, ownPend_ownQueue, hp]
    simp only [List.nil_append, List.foldr_cons, List.foldr_nil, hany, if_true]
  have hstore : ((s.ownQueue ea bs).ownSettled ea bs.length).myCore.store = s.myCore.store.writeN (fld ea 20 0) bs := by
    simp only [State.ownSettled, State.ownApply, cur_ownQueue, hbefore, List.foldl_cons, List.foldl_nil]
    rw [← Mem.writeCells_cellsAt]
    exact congrArg Core.store (State.core_modCore_same _ s.cur.1 _)
  rw [hstore, Mem.read_writeN bs s.myCore.store _ (State.core_wf hw _)]

end

/-! ### Planes of one unit in the own scratch -/

/-- Check 7 on one unit of the own store (R193). -/
theorem refusalAt_own (s : State) (ea : Word) (u : AUnit) (bs : List Byte) :
    s.myCore.refusalAt [(some ea, [(u, .own (fld ea 20 0), bs)])] = (s.ownMet ea u.size).map (fun pos => (ea, pos)) := by
  rw [State.ownMet]
  simp only [Core.refusalAt, Core.refusal, List.map_cons, List.map_nil, ownUnits, List.filterMap_cons, List.filterMap_nil, List.flatMap_cons,
    List.flatMap_nil, List.append_nil, List.findSome?_cons, List.findSome?_nil]
  cases s.myCore.latestMet [(fld ea 20 0, u.size)] <;> rfl

/-- No operand range is met by two units where none is by either. -/
theorem latestMet_pair {k : Core} {a b : Nat × Nat} (ha : k.latestMet [a] = none) (hb : k.latestMet [b] = none) : k.latestMet [a, b] = none := by
  simp only [Core.latestMet, Option.map_eq_none_iff, List.find?_eq_none, List.any_cons, List.any_nil, Bool.or_false] at ha hb ⊢
  intro q hq
  have h1 := ha q hq
  have h2 := hb q hq
  simp_all

theorem refusalAt_own_pair {s : State} {ea k : Word} {u v : AUnit} {bs cs : List Byte} (hu : s.ownMet ea u.size = none)
    (hv : s.ownMet k v.size = none) :
    s.myCore.refusalAt [(some ea, [(u, .own (fld ea 20 0), bs)]), (some k, [(v, .own (fld k 20 0), cs)])] = none := by
  have h := latestMet_pair hu hv
  simp only [Core.refusalAt, Core.refusal, List.map_cons, List.map_nil, ownUnits, List.filterMap_cons, List.filterMap_nil, List.flatMap_cons,
    List.flatMap_nil, List.append_nil, List.singleton_append, h, Option.map_none]

/-- One unit of the own store enters the write queue. -/
theorem storeNear_own (s : State) (ty : ReqType) (u : AUnit) (ea : Word) {bs : List Byte} (hb : bs ≠ []) :
    s.storeNear ty false [(u, .own (fld ea 20 0), bs)] = s.ownQueue ea bs := by
  rw [storeNear_quiet s u ty false bs (a := .own (fld ea 20 0)) rfl (quietWrites_plain u bs rfl), head_cellsAt hb]
  rfl

section
variable {i : Instr} {s : State} {g : Guard} {os : List Opnd} {ty : ReqType} {ea : Word} {bs : List Byte}
  (h : Stores i s g os [(some ea, [unitAt .store ea bs.length], [bs])] ty false) (hgd : s.guard g = true)
  (hm : s.modsOk (condsOf os) = true) (hf : s.fresh = true) (ho : s.ownAt ea bs.length bs.length = true) (hb : bs ≠ [])
  (hr : s.queueRoom s.cur.1 s.cur.2 1 = true)
include h hgd hm hf ho hb hr

/-- A store of one unit in the own scratch: refused by the operand range that it meets, and queued where it meets none. -/
theorem Stores.own : (∀ pos, s.ownMet ea bs.length = some pos → Traps i s Cause.opbufInUse ea (w64 pos)) ∧
    (s.ownMet ea bs.length = none → RunsWith i s (s.ownQueue ea bs) 12 os {}) := by
  have hn : 1 ≤ bs.length := List.length_pos_iff.mpr hb
  have hc : s.checks none [unitAt .store ea bs.length] = (.ok [(unitAt .store ea bs.length, .own (fld ea 20 0))], s) := checks_own ho hn none
  have hcl : s.closedBank [(unitAt .store ea bs.length, .own (fld ea 20 0))] = false :=
    closedBank_owns (us := [unitAt .store ea bs.length]) (by simpa [unitAt] using ⟨ho, hn⟩)
  have hps : planesAt [(some ea, [unitAt .store ea bs.length], [bs])]
      ([(unitAt .store ea bs.length, At.own (fld ea 20 0))].filter (fun x => x.1.size != 0)) =
      [(some ea, [(unitAt .store ea bs.length, .own (fld ea 20 0), bs)])] := by
    simp [planesAt, pieces, unitAt, hb]
  have hq := refusalAt_own s ea (unitAt .store ea bs.length) bs
  refine ⟨fun pos hp => ?_, fun hp => ?_⟩
  · exact h.refused hgd hm hf hr hc rfl hcl (by rw [hps, hq]; exact congrArg (Option.map _) hp)
  · have hrun := h.accepted hgd hm hf hr hc rfl hcl (by rw [hps, hq]; exact congrArg (Option.map _) hp) (by rw [hps]; rfl)
    rw [hps] at hrun
    have hnear := storeNear_own s ty (unitAt .store ea bs.length) ea hb
    rw [← hnear]
    exact hrun

end

/-- Two planes of one unit each. -/
theorem planesAt_pair {u v : AUnit} (hne : u ≠ v) (hu : u.size ≠ 0) (hv : v.size ≠ 0) (a b : Option Word) (bs cs : List Byte) :
    planesAt [(a, [u], [bs]), (b, [v], [cs])] (([u, v].map (fun q => (q, At.own (fld q.ea 20 0)))).filter (fun x => x.1.size != 0)) =
      [(a, [(u, .own (fld u.ea 20 0), bs)]), (b, [(v, .own (fld v.ea 20 0), cs)])] := by
  simp [planesAt, pieces, hu, hv, hne, hne.symm]

/-- A value and its count in the own scratch enter the write queue one after the other. -/
theorem Stores.own_pair {i : Instr} {s : State} {g : Guard} {os : List Opnd} {ty : ReqType} {ea k : Word} {bs cs : List Byte}
    (h : Stores i s g os [(some ea, [unitAt .store ea bs.length], [bs]), (some k, [countUnit .store k], [cs])] ty false)
    (hgd : s.guard g = true) (hm : s.modsOk (condsOf os) = true) (hf : s.fresh = true) (ho : s.ownAt ea bs.length bs.length = true)
    (hk : s.ownAt k 1 1 = true) (hb : 2 ≤ bs.length) (hc : cs ≠ []) (hr : s.queueRoom s.cur.1 s.cur.2 2 = true)
    (hp : s.ownMet ea bs.length = none) (hq : s.ownMet k 1 = none) : RunsWith i s ((s.ownQueue ea bs).ownQueue k cs) 12 os {} := by
  have hall : ∀ q ∈ [unitAt .store ea bs.length, countUnit .store k], s.ownAt q.ea q.size q.align = true ∧ 1 ≤ q.size := by
    simpa [unitAt, countUnit] using ⟨⟨ho, by omega⟩, hk⟩
  have hne : unitAt .store ea bs.length ≠ countUnit .store k := fun h => absurd (congrArg AUnit.size h) (Nat.ne_of_gt hb)
  have hps := planesAt_pair hne (show bs.length ≠ 0 by omega) (show 1 ≠ 0 by decide) (some ea) (some k) bs cs
  have hrun := h.accepted hgd hm hf hr (checks_owns hall none) (by rfl) (closedBank_owns hall)
    (by rw [hps]; exact refusalAt_own_pair hp hq) (by rw [hps]; rfl)
  rw [hps] at hrun
  have hnear : s.storeNears ty false [(some ea, [(unitAt .store ea bs.length, .own (fld ea 20 0), bs)]),
      (some k, [(countUnit .store k, .own (fld k 20 0), cs)])] = (s.ownQueue ea bs).ownQueue k cs := by
    have h1 := storeNear_own s ty (unitAt .store ea bs.length) ea (bs := bs) (List.length_pos_iff.mp (by omega))
    rw [← storeNear_own _ ty (countUnit .store k) k hc, ← h1]
    rfl
  rw [← hnear]
  exact hrun

/-! ### O12 -/

section
variable {s : State} (g : Guard) (d c : GReg) (fd : FReg) (f : Fmt) (m : MemOp) (ty : ReqType) (sc : Scope)

/-- The stores of one unit: operands and bytes. -/
def singleStores (s : State) : List (Instr × List Opnd × List Byte) :=
  [(.st g d m .b ty sc .none, .src d :: opndsM m, toBytes 1 (s.g d).toNat), (.st g d m .h ty sc .none, .src d :: opndsM m, toBytes 2 (s.g d).toNat),
    (.st g d m .w ty sc .none, .src d :: opndsM m, toBytes 4 (s.g d).toNat), (.st g d m .d ty sc .none, .src d :: opndsM m, toBytes 8 (s.g d).toNat),
    (.stf g fd m f ty, .srcF fd :: opndsM m, toBytes f.bytes (s.fval fd).val.toNat),
    (.stp g d m c ty, .src d :: .src c :: opndsM m, toBytes 8 (s.g d).toNat ++ toBytes 8 (s.g c).toNat)]

theorem singleStores_store : ∀ q ∈ singleStores g d c fd f m ty sc s,
    Stores q.1 s g q.2.1 [(some (s.ea m), [unitAt .store (s.ea m) q.2.2.length], [q.2.2])] ty false ∧ 1 ≤ q.2.2.length := by
  simp only [singleStores, List.forall_mem_cons, List.not_mem_nil, false_imp_iff, implies_true, and_true, length_toBytes, List.length_append]
  exact ⟨⟨st_stores g d m .b ty sc, by decide⟩, ⟨st_stores g d m .h ty sc, by decide⟩, ⟨st_stores g d m .w ty sc, by decide⟩,
    ⟨st_stores g d m .d ty sc, by decide⟩, ⟨stf_stores g fd m f ty, fmt_bytes_pos f⟩, ⟨stp_stores g d c m ty, by decide⟩⟩

/-- A value and its count enter the write queue one after the other. -/
theorem stfc_own (hgd : s.guard g = true) (hf : s.fresh = true) (hm : s.modsOk (condsOf (.srcF fd :: .src c :: opndsM m)) = true)
    (ho : s.ownAt (s.ea m) f.bytes f.bytes = true) (hk : s.ownAt (s.countAddr m c f.bytes) 1 1 = true)
    (hr : s.queueRoom s.cur.1 s.cur.2 2 = true) (hp : s.ownMet (s.ea m) f.bytes = none) (hq : s.ownMet (s.countAddr m c f.bytes) 1 = none) :
    RunsWith (.stfc g fd m c f ty) s ((s.ownQueue (s.ea m) (toBytes f.bytes (s.fval fd).val.toNat)).ownQueue (s.countAddr m c f.bytes)
      [BitVec.ofNat 8 (Nat.min (s.fval fd).cnt f.p)]) 12 (.srcF fd :: .src c :: opndsM m) {} := by
  have hbytes : 2 ≤ f.bytes := by cases f <;> decide
  have hlen : (toBytes f.bytes (s.fval fd).val.toNat).length = f.bytes := length_toBytes ..
  refine Stores.own_pair (ty := ty) ?_ hgd hm hf ?_ hk ?_ (by simp) hr ?_ hq
  · rw [hlen]; exact stfc_stores g c fd m f ty
  all_goals rwa [hlen]

end

/-- Settles O12: a store in the own scratch is one message of the write queue (`Stores.own`, `stfc_own`), which a read of the thread lays over the
rest. -/
theorem ownStoreStores : Obligations.OwnStoreStores := by
  intro s g d c fd f m ty sc hgd hf hw ea os1 osF osP
  refine ⟨fun q (hq : q ∈ singleStores g d c fd f m ty sc s) hm ho => ?single,
    fun hm ho hk hr hp hq => stfc_own g c fd f m ty hgd hf hm ho hk hr hp hq⟩
  obtain ⟨hst, hlen⟩ := singleStores_store g d c fd f m ty sc q hq
  have hb : q.2.2 ≠ [] := List.length_pos_iff.mp hlen
  refine ⟨fun hr => hst.bubbles hgd hm hf hr, fun hr => (hst.own hgd hm hf ho hb hr).1, fun hr hp => ?_⟩
  exact ⟨(hst.own hgd hm hf ho hb hr).2 hp, .ownQueue .., ownVal_ownQueue .., fun a n => ownRead_ownQueue_disjoint s ea q.2.2,
    fun he a => store_ownSettled s ea q.2.2 hw hb he a⟩

end Sys2Proof.Machine
end

section
/-!
PROOFS. Atomics on the own tile store (O13): the stores that an access follows, the access, and the new value as a word.
-/

set_option linter.constructorNameAsVariable false

namespace Sys2Proof.Machine

/-! ### The standing stores that an access follows -/

/-- What neither the net nor the writing of a tile store concerns is as it was once standing stores have been applied. -/
theorem ownApply_keeps {α : Type} (π : State → α) (hn : ∀ (s : State) ms, π { s with net := ms } = π s)
    (hc : ∀ (s : State) c (f : Core → Core), (∀ k, (f k).ctxs = k.ctxs ∧ (f k).s = k.s) → π (s.modCore c f) = π s)
    (s : State) (c x off n : Nat) : π (s.ownApply c x off n) = π s := by
  refine foldl_keeps π (fun u m => ?_) _ s
  refine (hc _ c _ fun k => ?_).trans (hn u _)
  split <;> exact ⟨rfl, rfl⟩

section
variable (s : State) (ea : Word) (n : Nat)

theorem cur_ownSettled : (s.ownSettled ea n).cur = s.cur := ownApply_keeps State.cur (fun _ _ => rfl) (fun _ _ _ _ => rfl) ..
theorem msgCtr_ownSettled : (s.ownSettled ea n).msgCtr = s.msgCtr := ownApply_keeps State.msgCtr (fun _ _ => rfl) (fun _ _ _ _ => rfl) ..

theorem ctx_ownSettled (c x : Nat) : (s.ownSettled ea n).ctx c x = s.ctx c x :=
  ownApply_keeps (fun u => u.ctx c x) (fun _ _ => rfl)
    (fun u d _ hf => congrArg (tget Ctx.reset · x) (State.core_modCore_keeps Core.ctxs (fun k => (hf k).1) u d c)) ..

theorem me_ownSettled : (s.ownSettled ea n).me = s.me := by rw [State.me, cur_ownSettled, ctx_ownSettled, State.me]

theorem shared_ownSettled : (s.ownSettled ea n).myCore.s = s.myCore.s := by
  rw [State.myCore, cur_ownSettled]
  exact ownApply_keeps (fun u => (u.core s.cur.1).s) (fun _ _ => rfl) (fun u d _ hf => State.core_modCore_keeps Core.s (fun k => (hf k).2) u d _) ..

/-- The state after an atomic on the own tile store has written its bytes. -/
def State.ownAtom (bs : List Byte) : State := (((s.ownSettled ea n).ownStore ea bs).numbered 1).afterSeen ea n

theorem readStep_modMe (h : Ctx → Ctx) (c off : Nat) : (s.modMe h).readStep c off n = (s.readStep c off n).modMe h := by
  simp only [State.readStep, s.core_modMe_keeps h (fun k => k.unsettled off n) (fun _ _ _ => rfl)]
  split <;> rfl

theorem me_readStep (c off : Nat) : (s.readStep c off n).me = s.me := by
  unfold State.readStep
  split <;> rfl

theorem me_ownAtom (bs : List Byte) : (s.ownAtom ea n bs).me = s.me := by
  rw [State.ownAtom, State.afterSeen, me_readStep]
  exact (State.me_modMyCore (s.ownSettled ea n) (fun k => k.storeWrite (cellsAt (fld ea 20 0) bs)) (fun _ => rfl)).trans (me_ownSettled s ea n)

theorem shared_ownAtom (bs : List Byte) : (s.ownAtom ea n bs).myCore.s = s.myCore.s := by
  have h : (s.ownAtom ea n bs).myCore.s = ((s.ownSettled ea n).ownStore ea bs).myCore.s := by
    unfold State.ownAtom State.afterSeen State.readStep
    split <;> rfl
  rw [h, State.ownStore, State.myCore_modMyCore]
  exact shared_ownSettled s ea n

end

/-! ### An atomic with its answer -/

theorem atomBytes_pos (op : AtomOp) : 1 ≤ atomBytes op := by
  have hw (w : AtW) : 1 ≤ atBytes w := by cases w <;> decide
  cases op with
  | amo o w c => exact hw w
  | cas w e v => exact hw w
  | amof o f c => exact fmt_bytes_pos _

/-- The answer of an atomic that reads the own tile's store. -/
def State.atomReply (s : State) (ea : Word) (n : Nat) : Reply :=
  ⟨s.msgCtr, (s.ownSettled ea n).myCore.seen (s.ownSettled ea n).freeCtr (fld ea 20 0) n, false, 0, 0⟩

section
variable {s : State} (hf : s.fresh = true) {ea : Word} {op : AtomOp}
  (hp : (s.ownSettled ea (atomBytes op)).ownPoison ea (atomBytes op) = false)
include hf hp

theorem atomUnit_own (sc : Scope) : s.atomUnit (.own (fld ea 20 0)) sc op =
    (s.ownAtom ea (atomBytes op) (toBytes (atomBytes op) (atomNew op ((s.ownSettled ea (atomBytes op)).storeVal ea (atomBytes op))))).modMe
      (fun t => { t with replies := t.replies ++ [s.atomReply ea (atomBytes op)] }) := by
  have hcur := cur_ownSettled s ea (atomBytes op)
  have hid := msgCtr_ownSettled s ea (atomBytes op)
  have hx : (s.ownSettled ea (atomBytes op)).cur.2 < noCtx := by rw [hcur]; exact fresh_ctx hf
  have hu : s.ownApply s.cur.1 s.cur.2 (fld ea 20 0) (atomBytes op) = s.ownSettled ea (atomBytes op) := rfl
  simp only [State.atomUnit, State.ownAtom, State.atomReply, hu]
  generalize s.ownSettled ea (atomBytes op) = u at hp hcur hid hx
  have hp' : (u.core u.cur.1).poisoned (fld ea 20 0) (atomBytes op) = false := hp
  rw [← hcur, ← hid]
  simp only [hp', atomCells, Bool.false_eq_true, if_false]
  rw [State.instant_eq (s := u.modCore u.cur.1 _) hx, readStep_modMe]
  rfl

/-- An atomic in the own scratch has its answer, the old value, at once. -/
theorem atom_own (ho : s.ownAt ea (atomBytes op) (atomBytes op) = true) (hq : s.ownMet ea (atomBytes op) = none) (sc : Scope)
    (k : State → Nat → Res) : s.atom ea op sc .none k =
      k ((s.ownAtom ea (atomBytes op) (toBytes (atomBytes op) (atomNew op ((s.ownSettled ea (atomBytes op)).storeVal ea (atomBytes op))))).modMe
        (Ctx.awaited [s.msgCtr] [ea.toNat] [s.atomReply ea (atomBytes op)])) ((s.ownSettled ea (atomBytes op)).storeVal ea (atomBytes op)) := by
  have hob : s.ownOpbuf [(⟨.atomic, ea, atomBytes op, atomBytes op⟩, .own (fld ea 20 0))] = none := hq
  simp only [State.atom, fresh_out hf, checked_own ho (atomBytes_pos op), hob, State.releaseIf, State.blockers, State.narrowAt, atomUnit_own hf hp,
    State.sent, State.modMe_modMe, Bool.false_eq_true, if_false, List.isEmpty_nil, Bool.not_true]
  have hr := fresh_replies hf
  refine collect_answers (rs := [s.atomReply ea (atomBytes op)]) ?_ ?_
  · simp [me_ownAtom, hr, Ctx.allReplies, Ctx.replyOf, State.atomReply]
  · simp [replyTrap, State.atomReply]

end

/-! ### New values as words (R127, R128) -/

theorem signed_toNat {N : Nat} (x : BitVec N) : signed N x.toNat = x.toInt := by
  rw [signed, Nat.mod_eq_of_lt x.isLt, BitVec.toInt_eq_toNat_cond]

/-- The new value of AMO on words of a width. -/
def amoWord {N : Nat} (op : AmoOp) (x c : BitVec N) : BitVec N :=
  match op with
  | .add => x + c
  | .and => x &&& c
  | .or => x ||| c
  | .xor => x ^^^ c
  | .min => if x.toInt ≤ c.toInt then x else c
  | .max => if x.toInt ≤ c.toInt then c else x
  | .minn => if x.toNat ≤ c.toNat then x else c
  | .maxn => if x.toNat ≤ c.toNat then c else x
  | .swap => c

theorem amoNew_toNat {N : Nat} (op : AmoOp) (x c : BitVec N) : amoNew op N x.toNat c.toNat = (amoWord op x c).toNat := by
  cases op <;> simp only [amoNew, amoWord, signed_toNat, BitVec.toNat_add, BitVec.toNat_and, BitVec.toNat_or, BitVec.toNat_xor,
    apply_ite BitVec.toNat]

/-- AMO and AMOCAS of a width on an old value that it holds: the new one as a word. -/
theorem atomNew_amo (op : AmoOp) (w : AtW) (c : Word) {N old : Nat} (hN : 8 * atBytes w = N) (h : old < 2 ^ N) :
    atomNew (.amo op w c) old = (amoWord op (BitVec.ofNat N old) (c.setWidth N)).toNat := by
  subst hN
  rw [← amoNew_toNat, BitVec.toNat_ofNat, Nat.mod_eq_of_lt h, BitVec.toNat_setWidth]
  rfl

theorem atomNew_cas (w : AtW) (e v : Word) {N old : Nat} (hN : 8 * atBytes w = N) (h : old < 2 ^ N) :
    atomNew (.cas w e v) old = (if BitVec.ofNat N old = e.setWidth N then v.setWidth N else BitVec.ofNat N old).toNat := by
  subst hN
  have he : BitVec.ofNat (8 * atBytes w) old = e.setWidth (8 * atBytes w) ↔ old = e.toNat % 2 ^ (8 * atBytes w) := by
    rw [← BitVec.toNat_inj, BitVec.toNat_ofNat, Nat.mod_eq_of_lt h, BitVec.toNat_setWidth]
  simp only [apply_ite BitVec.toNat, he, BitVec.toNat_ofNat, Nat.mod_eq_of_lt h, BitVec.toNat_setWidth]
  rfl

theorem storeVal_lt (s : State) (ea : Word) (n : Nat) : s.storeVal ea n < 2 ^ (8 * n) := by
  have h := ofBytes_lt (s.myCore.seen s.freeCtr (fld ea 20 0) n)
  rw [Core.length_seen] at h
  rw [pow_mul]
  exact h

/-- The operations of AMO with their new values. -/
def amoWords {N : Nat} (x c : BitVec N) : List (AmoOp × BitVec N) :=
  [(.add, x + c), (.and, x &&& c), (.or, x ||| c), (.xor, x ^^^ c), (.min, if x.toInt ≤ c.toInt then x else c),
    (.max, if x.toInt ≤ c.toInt then c else x), (.minn, if x.toNat ≤ c.toNat then x else c), (.maxn, if x.toNat ≤ c.toNat then c else x),
    (.swap, c)]

theorem amoWords_eq {N : Nat} (x c : BitVec N) : ∀ q ∈ amoWords x c, q.2 = amoWord q.1 x c := by
  simp [amoWords, amoWord]

/-! ### Instructions with an atomic in the own scratch -/

/-- No address of scratch is one of a collective. -/
theorem collectiveAt_own {s : State} {ea : Word} {n al : Nat} (h : s.ownAt ea n al = true) (op : AtomOp) : collectiveAt ea op = false := by
  simp only [State.ownAt, Bool.and_eq_true, beq_iff_eq] at h
  obtain ⟨⟨⟨⟨⟨hr, -⟩, -⟩, -⟩, -⟩, -⟩ := h
  simp [collectiveAt, hr]

section
variable {s : State} {g : Guard} (hf : s.fresh = true) (hgd : s.guard g = true)
include hf hgd

/-- An atomic in the own scratch ends in an effect on registers of the state after it. -/
theorem atom_own_runs {i : Instr} {os : List Opnd} {op : AtomOp} {eff : State → Res} {ea : Word} {sc : Scope} {k : State → Nat → Res}
    {e : Effect} {old : Nat} {bs : List Byte} (hm : s.modsOk (condsOf os) = true) (hx : exec i s = s.run i 12 g os eff)
    (he : eff s = s.atom ea op sc .none k) (ho : s.ownAt ea (atomBytes op) (atomBytes op) = true)
    (hp : (s.ownSettled ea (atomBytes op)).ownPoison ea (atomBytes op) = false) (hq : s.ownMet ea (atomBytes op) = none)
    (hold : (s.ownSettled ea (atomBytes op)).storeVal ea (atomBytes op) = old) (hbs : toBytes (atomBytes op) (atomNew op old) = bs)
    (hk : ∀ ids eas rs, ∃ v, k ((s.ownAtom ea (atomBytes op) bs).modMe (Ctx.awaited ids eas rs)) old = .done v ∧
      Applied (s.ownAtom ea (atomBytes op) bs) v e)
    (hr : Fills os e) : RunsWith i s (s.ownAtom ea (atomBytes op) bs) 12 os e := by
  subst hold hbs
  obtain ⟨v, hv, ha⟩ := hk [s.msgCtr] [ea.toNat] [s.atomReply ea (atomBytes op)]
  have hs := SamePlace.of_me (me_ownAtom s ea (atomBytes op) (toBytes (atomBytes op) (atomNew op
    ((s.ownSettled ea (atomBytes op)).storeVal ea (atomBytes op)))))
  exact run_with hx hgd hm (by rw [he, atom_own hf hp ho hq, hv]) hs.level hs.dbgctl hs.pc ha hr.1 hr.2

section
variable {d c : GReg} {m : MemOp} {w : AtW} {sc : Scope} (hm : s.modsOk (condsOf (.dst d :: .src c :: opndsM m)) = true)
  (ho : s.ownAt (s.ea m) (atBytes w) (atBytes w) = true)
  (hp : (s.ownSettled (s.ea m) (atBytes w)).ownPoison (s.ea m) (atBytes w) = false) (hq : s.ownMet (s.ea m) (atBytes w) = none)
  {N : Nat} (hN : 8 * atBytes w = N) {old : Nat} (hold : (s.ownSettled (s.ea m) (atBytes w)).storeVal (s.ea m) (atBytes w) = old)
include hm ho hp hq hN hold

omit hf hgd hm ho hp hq in
theorem old_lt : old < 2 ^ N := by
  rw [← hold, ← hN]
  exact storeVal_lt ..

theorem amo_own (op : AmoOp) : RunsWith (.amo g d m c w sc .none op) s
    (s.ownAtom (s.ea m) (atBytes w) (toBytes (atBytes w) (amoWord op (BitVec.ofNat N old) ((s.g c).setWidth N)).toNat)) 12
    (.dst d :: .src c :: opndsM m) { g := [(d, atExtend w old)] } :=
  atom_own_runs hf hgd (op := .amo op w (s.g c)) hm (by rfl) (by rfl) ho hp hq hold
    (congrArg (toBytes _) (atomNew_amo op w (s.g c) hN (old_lt hN hold)))
    (fun _ _ _ => ⟨_, by rfl, (Applied.awaited ..).putG d _⟩) (fills_g (noDst_opndsM m) rfl rfl)

theorem amocas_own : RunsWith (.amocas g d m c w sc .none) s
    (s.ownAtom (s.ea m) (atBytes w) (toBytes (atBytes w)
      (if BitVec.ofNat N old = (s.g d).setWidth N then (s.g c).setWidth N else BitVec.ofNat N old).toNat)) 12
    (.dst d :: .src c :: opndsM m) { g := [(d, atExtend w old)] } :=
  atom_own_runs hf hgd (op := .cas w (s.g d) (s.g c)) hm (by rfl) (by rfl) ho hp hq hold
    (congrArg (toBytes _) (atomNew_cas w (s.g d) (s.g c) hN (old_lt hN hold)))
    (fun _ _ _ => ⟨_, by rfl, (Applied.awaited ..).putG d _⟩) (fills_g (noDst_opndsM m) rfl rfl)

end

theorem amof_own {fd fc : FReg} {m : MemOp} {sc : Scope} (ff : AmofFmt) (op : AmofOp)
    (hm : s.modsOk (condsOf (.dstF fd :: .srcF fc :: opndsM m)) = true)
    (ho : s.ownAt (s.ea m) (amofFmt ff).bytes (amofFmt ff).bytes = true)
    (hp : (s.ownSettled (s.ea m) (amofFmt ff).bytes).ownPoison (s.ea m) (amofFmt ff).bytes = false)
    (hq : s.ownMet (s.ea m) (amofFmt ff).bytes = none) {old : Nat}
    (hold : (s.ownSettled (s.ea m) (amofFmt ff).bytes).storeVal (s.ea m) (amofFmt ff).bytes = old) :
    let r := opAmof op (amofFmt ff) old ((s.fval fc).val.toNat % 2 ^ (amofFmt ff).bits)
    RunsWith (.amof g fd m fc ff sc .none op) s (s.ownAtom (s.ea m) (amofFmt ff).bytes (toBytes (amofFmt ff).bytes r.1)) 12
      (.dstF fd :: .srcF fc :: opndsM m) { f := some (fd, boxed (amofFmt ff) old, loadCount (amofFmt ff) old), flags := r.2 } := by
  intro r
  have hbits : 8 * (amofFmt ff).bytes = (amofFmt ff).bits := by cases ff <;> decide
  refine atom_own_runs hf hgd (op := .amof op ff (s.fval fc).val) hm (by rfl) (by rfl) ho hp hq hold ?_ (fun ids eas rs => ?_)
    (fills_f (noDst_opndsM m) rfl rfl)
  · simp only [atomNew, atomBytes, hbits]
    rfl
  · have hea : ((s.ownAtom (s.ea m) (amofFmt ff).bytes (toBytes (amofFmt ff).bytes r.1)).modMe (Ctx.awaited ids eas rs)).ea m = s.ea m :=
      ea_congr (by rw [State.myCore_modMe]; exact shared_ownAtom ..) (by rw [State.me_modMe]; show (State.me _).g = _; rw [me_ownAtom]) m
    refine ⟨_, ?_, ((Applied.awaited ids eas rs).orFlags rfl r.2).putF rfl fd _ _⟩
    simp only [atomBytes, hea, collectiveAt_own ho]
    rfl

end

/-! ### O13 -/

/-- Settles O13: an atomic in the own scratch has the old value as its answer at once (`atom_own`); the new one as a word is `amoWord`. -/
theorem ownStoreAtomics : Obligations.OwnStoreAtomics := by
  intro s g d c fd fc m sc hgd hf ea C os
  refine ⟨fun hm => ⟨fun ho hp hq => ?double, fun ho hp hq => ?single⟩, fun ff op hm ho hp hq => amof_own hf hgd ff op hm ho hp hq rfl⟩
  case double =>
    have ha := amo_own hf hgd (w := .d) (sc := sc) hm ho hp hq (N := 64) rfl rfl
    have hc := amocas_own hf hgd (w := .d) (sc := sc) hm ho hp hq (N := 64) rfl rfl
    simp only [BitVec.setWidth_eq] at ha hc
    refine ⟨fun q hq' => ?_, hc⟩
    rw [amoWords_eq _ _ q hq']
    exact ha q.1
  case single =>
    intro u old c32
    have hz : old.setWidth 64 = w64 (u.storeVal ea 4) := by
      have hlt : u.storeVal ea 4 < 2 ^ 32 := storeVal_lt u ea 4
      refine BitVec.eq_of_toNat_eq ?_
      simp only [old, w64, BitVec.toNat_setWidth, BitVec.toNat_ofNat, Nat.mod_eq_of_lt hlt]
    refine List.forall_mem_cons.mpr ⟨?signed, List.forall_mem_singleton.mpr ?unsigned⟩
    case signed =>
      rw [show old.signExtend 64 = _ from (sextW_eq 32 _).symm]
      refine ⟨fun q hq' => ?_, amocas_own hf hgd (w := .w) hm ho hp hq (N := 32) rfl rfl⟩
      rw [amoWords_eq _ _ q hq']
      exact amo_own hf hgd (w := .w) hm ho hp hq (N := 32) rfl rfl q.1
    case unsigned =>
      rw [hz]
      refine ⟨fun q hq' => ?_, amocas_own hf hgd (w := .wn) hm ho hp hq (N := 32) rfl rfl⟩
      rw [amoWords_eq _ _ q hq']
      exact amo_own hf hgd (w := .wn) hm ho hp hq (N := 32) rfl rfl q.1

end Sys2Proof.Machine
end

section
/-!
PROOFS. PREF, INVAL and CWB (O19): a prefetch asks and writes nothing; the two range instructions by the pages of their range.
-/

set_option linter.constructorNameAsVariable false

namespace Sys2Proof.Machine

/-! ### PREF (R124) -/

/-- A step that leaves the issuing thread and every byte of memory as they were. -/
structure Asks (s u : State) : Prop where
  me : u.me = s.me
  memory : SameMemory s u

theorem Asks.refl (s : State) : Asks s s := ⟨rfl, .refl s⟩
theorem Asks.trans {s t u : State} (h : Asks s t) (k : Asks t u) : Asks s u := ⟨k.me.trans h.me, h.memory.trans k.memory⟩
theorem Asks.send (s : State) (m : Msg) : Asks s (s.send m) := ⟨rfl, .of_eq (fun _ => rfl) rfl (fun _ => rfl) rfl rfl⟩
theorem Looked.asks {s u : State} (h : Looked s u) : Asks s u := ⟨h.me, h.memory⟩

theorem Asks.prefetchLine (s : State) (part pa : Nat) (loc : Bool) : Asks s (s.prefetchLine part pa loc) := by
  simp only [State.prefetchLine]
  split
  · split
    · exact .refl s
    · exact .send ..
  · split
    · exact .refl s
    · exact .send ..

theorem Asks.prefetchHome (s : State) (part pa : Nat) : Asks s (s.prefetchHome part pa) := by
  unfold State.prefetchHome
  induction List.range 32 generalizing s with
  | nil => exact .refl s
  | cons i is ih => exact (Asks.send ..).trans (ih _)

theorem Asks.prefetch (s : State) (l : Loc) (ty : ReqType) : Asks s (s.prefetch l ty) := by
  cases l
  case virt va =>
    have hl := Looked.lookup s s.cur.1 va
    simp only [State.prefetch]
    generalize s.lookup s.cur.1 va = q at hl
    obtain ⟨_ | e, v⟩ := q
    · exact hl.asks
    · refine hl.asks.trans ?_
      dsimp only
      split
      · exact .refl v
      · split
        · exact .prefetchHome ..
        · exact .prefetchLine ..
        · exact .prefetchLine ..
  case mem p pa =>
    simp only [State.prefetch]
    split
    · exact .refl s
    · exact .prefetchHome ..
  all_goals exact .refl s

section
variable {s : State} {g : Guard} {m : MemOp} {ty : ReqType} (hgd : s.guard g = true) (hm : s.modsOk (condsOf (opndsM m)) = true)
include hgd hm

theorem pref_completes {l : Loc} (h : s.spaceOf s.cur.1 s.cur.2 .pref (s.ea m) 1 = .ok l) :
    RunsWith (.pref g m ty) s (s.prefetch l ty) 12 (opndsM m) {} := by
  have hs := SamePlace.of_me (Asks.prefetch s l ty).me
  refine runs_with_0 (eff := fun s => match s.spaceOf s.cur.1 s.cur.2 .pref (s.ea m) 1 with
    | .error t => .raise s t
    | .ok l => .done (s.prefetch l ty)) (by rfl) (noDst_opndsM m) hgd hm ?_ hs.level hs.dbgctl hs.pc
  simp only [h]

theorem pref_raises {t : Trap} (h : s.spaceOf s.cur.1 s.cur.2 .pref (s.ea m) 1 = .error t) : Raises (.pref g m ty) s t := by
  refine traps_of (eff := fun s => match s.spaceOf s.cur.1 s.cur.2 .pref (s.ea m) 1 with
    | .error t => .raise s t
    | .ok l => .done (s.prefetch l ty)) (by rfl) hgd hm ?_
  simp only [h]
  rfl

end

/-! ### The pages of a range -/

theorem Looked.rangePages (s : State) (c va n k : Nat) : Looked s (s.rangePages c va n k).2 := by
  induction k generalizing s va n with
  | zero => exact .refl s
  | succ k ih =>
    rw [State.rangePages]
    split
    · exact .refl s
    · split
      · exact .refl s
      · have hl := Looked.lookup s c va
        generalize s.lookup c va = q at hl
        obtain ⟨_ | e, v⟩ := q
        · exact hl
        · have hr := ih v (va + Nat.min n (e.va + e.size - va)) (n - Nat.min n (e.va + e.size - va))
          dsimp only
          generalize State.rangePages v c _ _ k = p at hr
          obtain ⟨_ | ps, w⟩ := p <;> exact hl.trans hr

theorem Looked.of_pages {s s1 : State} {c va n k : Nat} {r : Except Trap (List Seg)} (h : s.rangePages c va n k = (r, s1)) : Looked s s1 := by
  have hl := Looked.rangePages s c va n k
  rwa [h] at hl

section
variable {s u : State} (h : Looked s u)
include h

theorem Looked.gangCores (c : Nat) : u.gangCores c = s.gangCores c := by
  have htask : u.taskOf c = s.taskOf c := by
    rw [State.taskOf, h.core_keeps Core.taskId (fun _ _ => rfl), h.keeps (fun s => s.part (s.tilePart c)) (fun _ _ _ => rfl), State.taskOf]
  rw [State.gangCores, htask, State.gangCores]

theorem Looked.cacheCores (c : Nat) : u.cacheCores c = s.cacheCores c := by
  rw [State.cacheCores, h.gangCores, h.core_keeps Core.pool (fun _ _ => rfl), State.cacheCores]

theorem Looked.isSup (c x : Nat) : u.isSup c x = s.isSup c x := by rw [State.isSup, h.ctx, State.isSup]

end

theorem mem_gangCores (s : State) (c : Nat) : c ∈ s.gangCores c := by
  unfold State.gangCores
  split
  · exact List.mem_singleton_self c
  · split
    · next h => simpa using h
    · exact List.mem_singleton_self c

theorem mem_cacheCores (s : State) (c : Nat) : c ∈ s.cacheCores c := by
  unfold State.cacheCores
  split
  · exact mem_gangCores s c
  · exact List.mem_singleton_self c

section
variable {s s1 : State} {m : MemOp} {c : GReg} {k : State → List Seg → Res}

/-- A range that passes its checks goes on with its parts. -/
theorem range_ok {ps : List Seg} (hn : (s.g c).toNat ≤ 2 ^ 30) (hv : fld (s.ea m) 63 57 = 0)
    (hp : s.rangePages s.cur.1 (s.ea m).toNat (s.g c).toNat 512 = (.ok ps, s1)) (ht : s1.rangeTrap (s.isSup s.cur.1 s.cur.2) ps = none) :
    s.range m c k = k s1 ps := by
  have hl := Looked.of_pages hp
  rw [← hl.isSup, ← hl.cur] at ht
  simp only [State.range, if_neg (Nat.not_lt.mpr hn), if_neg (not_not.mpr hv), hp, ht]

theorem range_long (h : 2 ^ 30 < (s.g c).toNat) : s.range m c k = .trap Cause.boundCheck (s.g c) 0 s := by
  simp only [State.range, if_pos h]

theorem range_space (hn : (s.g c).toNat ≤ 2 ^ 30) (hv : fld (s.ea m) 63 57 ≠ 0) : s.range m c k = .trap Cause.protStore (s.ea m) 0 s := by
  simp only [State.range, if_neg (Nat.not_lt.mpr hn), if_pos hv]

end

/-! ### INVAL (R125) -/

/-- The state after the lines of a range have been discarded. -/
def State.invalidated (s : State) (ps : List Seg) : State :=
  (s.cacheCores s.cur.1).foldl (fun s k => s.discard k (fun l => !l.loc && inRange ps l.line))
    (s.discard s.cur.1 (fun l => l.loc && inRange ps l.line))

section
variable (s : State) (ps : List Seg)

theorem mem_cache_invalidated (k : Nat) (l : Line) : l ∈ ((s.invalidated ps).core k).cache ↔ l ∈ (s.core k).cache ∧
    (k = s.cur.1 → (l.loc && inRange ps l.line) = false) ∧ (k ∈ s.cacheCores s.cur.1 → (!l.loc && inRange ps l.line) = false) := by
  rw [State.invalidated, mem_cache_discards, mem_cache_discard, and_assoc]

theorem memory_invalidated : SameMemory s (s.invalidated ps) := (SameMemory.discard ..).trans (.foldl _ _ (fun _ _ => .discard ..) _)

theorem me_invalidated : (s.invalidated ps).me = s.me := (foldl_keeps State.me (fun u _ => u.me_discard ..) _ _).trans (s.me_discard ..)

theorem net_invalidated : (s.invalidated ps).net = s.net := 
  (foldl_keeps State.net (f := fun s k => s.discard k (fun l => !l.loc && inRange ps l.line)) (fun _ _ => rfl) _ _).trans rfl

end

/-- INVAL on the parts of its range. -/
def State.invalRange (s : State) (ps : List Seg) : Res :=
  if !(s.rangeStores ps).isEmpty then .park (.gone (s.rangeStores ps)) s
  else .done (((s.discard s.cur.1 (fun l => l.loc && inRange ps l.line)).cacheCores s.cur.1).foldl
    (fun s k => s.discard k (fun l => !l.loc && inRange ps l.line)) (s.discard s.cur.1 (fun l => l.loc && inRange ps l.line)))

/-- The dirty lines of a range written back. -/
def State.cleaned (s : State) (ps : List Seg) : State :=
  (s.cacheCores s.cur.1).foldl (fun s k => s.writeBack k (fun l => inRange ps l.line)) s

/-- CWB on the parts of its range. -/
def State.cwbRange (s : State) (ps : List Seg) : Res :=
  if !(s.rangeStores ps).isEmpty then .park (.gone (s.rangeStores ps)) s
  else if ((s.cleaned ps).rangeBacks ps).isEmpty then .done (s.cleaned ps)
  else .park (.gone ((s.cleaned ps).rangeBacks ps)) ((s.cleaned ps).sent 4 ((s.cleaned ps).rangeBacks ps) [])

section
variable {s s1 : State} {g : Guard} {m : MemOp} {c : GReg} {ps : List Seg}

theorem exec_inval : exec (.inval g m c) s = s.run (.inval g m c) 12 g (.src c :: opndsM m) (fun s => s.range m c State.invalRange) := rfl

theorem exec_cwb : exec (.cwb g m c) s = s.run (.cwb g m c) 12 g (.src c :: opndsM m) (fun s =>
    if s.out then (if s.gone s.me.phase.ids then .done s else .park (.gone s.me.phase.ids) s) else s.range m c State.cwbRange) := rfl

variable (hgd : s.guard g = true) (hm : s.modsOk (condsOf (.src c :: opndsM m)) = true)
include hgd hm

section
variable (hn : (s.g c).toNat ≤ 2 ^ 30) (hv : fld (s.ea m) 63 57 = 0)
  (hp : s.rangePages s.cur.1 (s.ea m).toNat (s.g c).toNat 512 = (.ok ps, s1)) (ht : s1.rangeTrap (s.isSup s.cur.1 s.cur.2) ps = none)
  (hst : s1.rangeStores ps = [])
include hn hv hp ht hst

theorem inval_completes : RunsWith (.inval g m c) s (s1.invalidated ps) 12 (.src c :: opndsM m) {} := by
  have hl := Looked.of_pages hp
  have hs := SamePlace.of_me ((me_invalidated s1 ps).trans hl.me)
  refine runs_with_0 exec_inval (noDst_opndsM m) hgd hm ((range_ok hn hv hp ht).trans ?_) hs.level hs.dbgctl hs.pc
  simp only [State.invalRange, hst, cacheCores_discard]
  rfl

/-- Where no line of the range is dirty, no write-back is sent. -/
theorem cwb_completes (ho : s.out = false) (hb : s1.rangeBacks ps = [])
    (hd : ∀ k ∈ s.cacheCores s.cur.1, ∀ l ∈ (s.core k).cache, l.dirty = true → l.loc = false → inRange ps l.line = false) :
    RunsWith (.cwb g m c) s s1 12 (.src c :: opndsM m) {} := by
  have hl := Looked.of_pages hp
  have hs := SamePlace.of_me hl.me
  have hclean : s1.cleaned ps = s1 := by
    refine foldl_fixed_of_mem fun k hk => ?_
    rw [hl.cur, hl.cacheCores] at hk
    have hnone : (s1.core k).cache.filter (fun l => l.dirty && !l.loc && inRange ps l.line) = [] := by
      refine List.filter_eq_nil_iff.mpr fun l hmem => ?_
      rw [hl.cache] at hmem
      have h := hd k hk l hmem
      simp only [Bool.and_eq_true, Bool.not_eq_true', not_and, Bool.not_eq_true, and_imp]
      exact h
    rw [State.writeBack, hnone]
    rfl
  refine runs_with_0 exec_cwb (noDst_opndsM m) hgd hm ((if_neg (by simp [ho])).trans ((range_ok hn hv hp ht).trans ?_)) hs.level hs.dbgctl hs.pc
  simp only [State.cwbRange, hst, hclean, hb]
  rfl

end

omit hgd hm in
/-- The two instructions of a range, before any write-back is out: each is a walk through the pages of its range. -/
theorem rangeInstr_eq (ho : s.out = false) : ∀ i ∈ ([.inval g m c, .cwb g m c] : List Instr), ∃ eff k,
    exec i s = s.run i 12 g (.src c :: opndsM m) eff ∧ eff s = s.range m c k := by
  refine List.forall_mem_cons.mpr ⟨⟨_, _, exec_inval, rfl⟩, List.forall_mem_singleton.mpr ⟨_, _, exec_cwb, if_neg (by simp [ho])⟩⟩

omit hgd hm in
/-- An instruction that completes leaves the caches and the net. -/
theorem RunsWith.makes {i : Instr} {s u : State} {os : List Opnd} {e : Effect} (h : RunsWith i s u 12 os e) : Makes i s (fun t =>
    t.me.pc = s.me.pc + 12 ∧ t.me.park = none ∧ t.net = u.net ∧ SameMemory u t ∧ ∀ k, (t.core k).cache = (u.core k).cache) := by
  obtain ⟨t, hx, hc⟩ := h
  refine ⟨t, hx, hc.pc, hc.park, ?_, hc.memory, fun k => ?_⟩
  · have hn := congrArg State.net hc.device
    exact hn
  · by_cases hk : k = u.cur.1
    · have hcur : t.cur = u.cur := by
        have h := congrArg State.cur hc.device
        exact h
      have hr := congrArg Core.cache hc.core
      rw [hk]
      rw [State.myCore, State.myCore, hcur] at hr
      exact hr
    · rw [hc.cores k hk]

end

/-! ### O19 -/

/-- Settles O19: a prefetch asks (`Asks`), and INVAL and CWB go on with the parts of their range (`range_ok`). -/
theorem cacheRangesActOnLines : Obligations.CacheRangesActOnLines := by
  intro s g m c ty hgd ea os
  refine ⟨fun hm => ⟨fun l h => ⟨pref_completes hgd hm h, (Asks.prefetch s l ty).memory, (Asks.prefetch s l ty).me⟩,
    fun t h => pref_raises hgd hm h⟩, fun hm ho => ⟨fun i hi => ?checks, fun ps s1 hn hv hp ht hst => ?inval,
      fun ps s1 hn hv hp ht hst hb hd => cwb_completes hgd hm hn hv hp ht hst ho hb hd⟩, fun hm ho => ⟨fun h => ?done, fun h => ?waits⟩⟩
  case checks =>
    obtain ⟨eff, k, hx, he⟩ := rangeInstr_eq ho i hi
    refine ⟨fun h => traps_of hx hgd hm (he.trans (range_long h)), fun hn hv => traps_of hx hgd hm (he.trans (range_space hn hv)),
      fun hz hv => ?_⟩
    have hn : (s.g c).toNat ≤ 2 ^ 30 := by rw [hz]; decide
    have hp : s.rangePages s.cur.1 ea.toNat (s.g c).toNat 512 = (.ok [], s) := by rw [hz]; rfl
    have hst : s.rangeStores [] = [] := by simp [State.rangeStores, inRange]
    have hb : s.rangeBacks [] = [] := by simp [State.rangeBacks, inRange]
    have hruns : ∃ u, RunsWith i s u 12 os {} ∧ u.net = s.net ∧ SameMemory s u ∧
        ∀ k l, l ∈ (u.core k).cache ↔ l ∈ (s.core k).cache := by
      rcases List.mem_cons.mp hi with rfl | hi
      · refine ⟨_, inval_completes hgd hm hn hv hp rfl hst, net_invalidated .., memory_invalidated .., fun k l => ?_⟩
        simp [mem_cache_invalidated, inRange]
      · obtain rfl := List.mem_singleton.mp hi
        exact ⟨s, cwb_completes hgd hm hn hv hp rfl hst ho hb (fun _ _ _ _ _ _ => rfl), rfl, .refl s, fun _ _ => Iff.rfl⟩
    obtain ⟨u, hrun, hnet, hmem, hcache⟩ := hruns
    obtain ⟨t, hx, hpc, hpark, htnet, htmem, htc⟩ := hrun.makes
    exact ⟨t, hx, hpc, hpark, htnet.trans hnet, hmem.trans htmem, fun k l => by rw [htc, hcache]⟩
  case inval =>
    have hl := Looked.of_pages hp
    have hmem := mem_cache_invalidated s1 ps
    simp only [hl.cur, hl.cacheCores, hl.cache] at hmem
    refine ⟨s1.invalidated ps, inval_completes hgd hm hn hv hp ht hst, hl.memory.trans (memory_invalidated s1 ps),
      (net_invalidated s1 ps).trans hl.net, fun k hk l h hloc => ?_, fun l h => ?_, fun k l h hr => ?_⟩
    · have hd := ((hmem k l).mp h).2.2 hk
      simpa [hloc] using hd
    · obtain ⟨-, hown, hshared⟩ := (hmem s.cur.1 l).mp h
      have h1 := hown rfl
      have h2 := hshared (mem_cacheCores s s.cur.1)
      cases hloc : l.loc
      · simpa [hloc] using h2
      · simpa [hloc] using h1
    · exact (hmem k l).mpr ⟨h, fun _ => by simp [hr], fun _ => by simp [hr]⟩
  case done =>
    exact runs_with_0 exec_cwb (noDst_opndsM m) hgd hm ((if_pos ho).trans (if_pos h)) rfl rfl rfl
  case waits =>
    exact exec_park exec_cwb hgd hm ((if_pos ho).trans (if_neg (by simp [h])))

end Sys2Proof.Machine
end

section
/-!
PROOFS. Device-scope writes and agents (O48): a write at the home slices leaves the outbox, the executor's answers and the places of agents.
-/

set_option linter.constructorNameAsVariable false

namespace Sys2Proof.Machine

/-! ### A device-scope write -/

/-- What lies outside the device's own traffic: the outbox, and the windows of the partitions, which seat the agents. -/
structure Seated (s t : State) : Prop where
  outbox : t.outbox = s.outbox
  window : ∀ p, (t.part p).window = (s.part p).window

theorem Seated.refl (s : State) : Seated s s := ⟨rfl, fun _ => rfl⟩
theorem Seated.trans {s t u : State} (h : Seated s t) (k : Seated t u) : Seated s u :=
  ⟨k.outbox.trans h.outbox, fun p => (k.window p).trans (h.window p)⟩

theorem Seated.of_parts {s t : State} (ho : t.outbox = s.outbox) (hp : t.parts = s.parts) : Seated s t :=
  ⟨ho, fun p => by simp only [State.part, hp]⟩

theorem Seated.modPart (s : State) (p : Nat) {f : Part → Part} (hf : ∀ q, (f q).window = q.window) : Seated s (s.modPart p f) := by
  refine ⟨rfl, fun q => ?_⟩
  by_cases h : q = p
  · subst h; rw [State.part_modPart_same, hf]
  · rw [State.part_modPart_ne _ _ _ _ h]

theorem Seated.modCore (s : State) (c : Nat) (f : Core → Core) : Seated s (s.modCore c f) := .of_parts rfl rfl
theorem Seated.modSlice (s : State) (n : Nat) (f : Slice → Slice) : Seated s (s.modSlice n f) := .of_parts rfl rfl

theorem Seated.putPiece (s : State) (n sb : Nat) (data : List Byte) (dirty poison : Bool) : Seated s (s.putPiece n sb data dirty poison) :=
  .modSlice ..

theorem Seated.ite {p : Prop} [Decidable p] {s t u : State} (ht : Seated s t) (hu : Seated s u) : Seated s (if p then t else u) := by
  split
  · exact ht
  · exact hu

theorem Seated.foldl {α : Type} (l : List α) {f : State → α → State} (hf : ∀ s a, Seated s (f s a)) (s : State) : Seated s (l.foldl f s) := by
  induction l generalizing s with
  | nil => exact .refl s
  | cons a l ih => exact (hf s a).trans (ih _)

theorem Seated.seat {s t : State} (h : Seated s t) (a : Agent) : t.seat a = s.seat a := by
  simp only [State.seat, Part.task, h.window]

theorem Seated.answer (s : State) (c x : Nat) (r : Reply) : Seated s (s.answer c x r) := by
  unfold State.answer
  exact .ite (.of_parts rfl rfl) (.refl s)

theorem Seated.sendBack (s : State) (c : Nat) (l : Line) : Seated s (s.sendBack c l) := by
  unfold State.sendBack State.sendBackFor
  exact .ite (.refl s) (.of_parts rfl rfl)

theorem Seated.install (s : State) (c : Nat) (l : Line) : Seated s (s.install c l) := by
  have hn : Seated s s.freeNext := .of_parts rfl rfl
  unfold State.install
  refine .ite (.refl s) (.ite (.modCore ..) (.trans ?_ (.modCore ..)))
  exact .ite (hn.trans (.sendBack _ c _)) hn

theorem Seated.deliver (s : State) (m : Msg) (data : List Byte) (poison : Bool) (pd : List Byte) : Seated s (s.deliver m data poison pd) := by
  unfold State.deliver
  split
  · exact (Seated.install s _ _).trans (.answer ..)
  · exact .answer ..

theorem Seated.deliverAt (s : State) (d k : Nat) : Seated s (s.deliverAt d k) := by
  unfold State.deliverAt
  split
  · exact .refl s
  · simp only
    split
    · exact .ite (.of_parts rfl rfl) (.of_parts rfl rfl)
    · refine .trans ?_ (.deliver ..)
      exact .ite (.of_parts rfl rfl) (.of_parts rfl rfl)

theorem OnlyReplies.deliverAt (s : State) (d k : Nat) : OnlyReplies s (s.deliverAt d k) := by
  unfold State.deliverAt
  split
  · exact .refl s
  · simp only
    split
    · exact .ite (.of_cores rfl rfl) (.of_cores rfl rfl)
    · refine .trans ?_ (.deliver ..)
      exact .ite (.of_cores rfl rfl) (.of_cores rfl rfl)

/-- What each delivery leaves, all of those to a die leave. -/
theorem catchUp_keeps (R : State → State → Prop) (hr : ∀ s, R s s) (ht : ∀ s t u, R s t → R t u → R s u) (hd : ∀ s d k, R s (s.deliverAt d k))
    (s : State) (d : Nat) (vec : List Nat) : R s (s.caughtUp d vec) := by
  unfold State.caughtUp
  generalize (s.die d).inbox.length = n
  induction n generalizing s with
  | zero => exact hr s
  | succ n ih =>
    rw [State.catchUp]
    split
    · exact hr s
    · split
      · exact hr s
      · exact ht _ _ _ (hd s d _) (ih _)

theorem Seated.caughtUp (s : State) (d : Nat) (vec : List Nat) : Seated s (s.caughtUp d vec) :=
  catchUp_keeps Seated .refl (fun _ _ _ => .trans) .deliverAt s d vec

theorem OnlyReplies.caughtUp (s : State) (d : Nat) (vec : List Nat) : OnlyReplies s (s.caughtUp d vec) :=
  catchUp_keeps OnlyReplies .refl (fun _ _ _ => .trans) .deliverAt s d vec

theorem Seated.flushTag (s : State) (n : Nat) (t : Tag) (sweep : Bool) : Seated s (s.flushTag n t sweep) := by
  refine .foldl _ (fun s i => ?_) s
  unfold State.toStack
  simp only
  refine .trans ?_ (.modSlice ..)
  exact .ite (.refl s) (.of_parts rfl rfl)

theorem Seated.ensureTag {s t : State} {n pa sb : Nat} (h : s.ensureTag n pa sb = some t) : Seated s t := by
  unfold State.ensureTag at h
  simp only at h
  split at h
  · cases h; exact .refl s
  · split at h
    · cases h; exact .of_parts rfl rfl
    · split at h
      · cases h
      · split at h
        · cases h; exact (Seated.flushTag s n _ false).trans (.of_parts rfl rfl)
        · cases h

theorem Seated.stamp (s : State) (stack sb : Nat) (data : List Byte) (poison : Bool) (w : Option Msg) :
    Seated s (s.stamp stack sb data poison w) := by
  unfold State.stamp
  simp only
  refine Seated.trans ?_ (Seated.foldl _ (fun s e => ?_) _)
  · exact .of_parts rfl rfl
  · exact .ite (.refl s) (.of_parts rfl rfl)

theorem Seated.putSys (s : State) (sb : Nat) (data : List Byte) (poison : Bool) : Seated s (s.putSys sb data poison) := by
  unfold State.putSys
  split
  · exact .refl s
  · exact .modPart s _ (fun _ => rfl)

theorem Seated.applyUnit {s t : State} {n part pa : Nat} {p : SPlace} {cells : List Host.Cell} {poison clr : Bool} {w : Option Msg}
    (h : s.applyUnit n part pa p cells poison clr w = some t) : Seated s t := by
  unfold State.applyUnit at h
  simp only at h
  split at h
  · cases h
  · obtain ⟨u, hu, rfl⟩ := Option.map_eq_some_iff.mp h
    refine (Seated.ensureTag hu).trans (.trans (.trans ?_ (.putPiece ..)) (.stamp ..))
    refine .ite (.putSys ..) (.modPart _ _ fun q => ?_)
    unfold Part.logOld
    split <;> rfl

/-- What a unit at a home slice leaves, where deliveries, clocks and the unit itself leave it. -/
theorem devUnit_keeps (R : State → State → Prop) (ht : ∀ s t u, R s t → R t u → R s u)
    (hc : ∀ s d vec, R s (s.caughtUp d vec)) (hd : ∀ s d f, R s (State.modDie s d f))
    (ha : ∀ s t n part pa p cells poison clr w, State.applyUnit s n part pa p cells poison clr w = some t → R s t)
    {s t : State} {d part pa : Nat} {cells : List Host.Cell} {poison : Bool} {w : Option Msg} {clr : Bool}
    (h : s.devUnit d part pa cells poison w clr = some t) : R s t := by
  unfold State.devUnit at h
  split at h
  · cases h
  · next p _ =>
    simp only at h
    split_ifs at h
    case neg => exact ha _ _ _ _ _ _ _ _ _ _ h
    case neg => exact ht _ _ _ (hc s _ _) (ht _ _ _ (hd _ _ _) (ha _ _ _ _ _ _ _ _ _ _ h))

/-- A device-scope write changes no seat, and of the threads only the replies. -/
theorem devWrite_keeps {s t : State} {d part pa n : Nat} {bs : List Byte} (h : s.devWrite d part pa n bs = some t) :
    Seated s t ∧ OnlyReplies s t := by
  have units (us : List (Nat × List Byte × Bool)) (s : State) :
      Seated s (s.putUnits d part false us).1 ∧ OnlyReplies s (s.putUnits d part false us).1 := by
    induction us generalizing s with
    | nil => exact ⟨.refl s, .refl s⟩
    | cons u us ih =>
      obtain ⟨a, bs, pz⟩ := u
      rw [State.putUnits]
      split
      · exact ⟨.refl s, .refl s⟩
      · next v hv =>
        have hs : Seated s v := devUnit_keeps Seated (fun _ _ _ => .trans) .caughtUp (fun _ _ _ => .of_parts rfl rfl)
          (fun _ _ _ _ _ _ _ _ _ _ => .applyUnit) hv
        have ho : OnlyReplies s v := devUnit_keeps OnlyReplies (fun _ _ _ => .trans) .caughtUp (fun _ _ _ => .of_cores rfl rfl)
          (fun _ _ _ _ _ _ _ _ _ _ => .applyUnit) hv
        exact ⟨hs.trans (ih v).1, ho.trans (ih v).2⟩
  unfold State.devWrite at h
  simp only at h
  split at h
  · cases h; exact units _ s
  · cases h

end Sys2Proof.Machine
end

section
/-!
PROOFS. Domain operations that come back, and the message executor (O48).
-/

set_option linter.constructorNameAsVariable false

namespace Sys2Proof.Machine

/-! ### An agent's context -/

/-- Context x of core c has become f of what it was, and no other context has changed. -/
structure OneCtx (s t : State) (c x : Nat) (f : Ctx → Ctx) : Prop where
  same : t.ctx c x = f (s.ctx c x)
  others : ∀ d y, ¬(d = c ∧ y = x) → t.ctx d y = s.ctx d y

theorem OneCtx.modCtx (s : State) (c x : Nat) (f : Ctx → Ctx) : OneCtx s (s.modCtx c x f) c x f :=
  ⟨State.ctx_modCtx_same .., fun _ _ h => State.ctx_modCtx_ne _ _ _ _ _ _ (not_and_or.mp h)⟩

theorem modAgent_seated {s : State} {a : Agent} {c : Nat} (hc : s.seat a = some c) (f : Ctx → Ctx) : s.modAgent a f = s.modCtx c a.ctx f := by
  rw [State.modAgent, hc]

/-- An operation settled in the checkpoint of a partition, where the checkpoint holds it (R380). -/
def Part.settleCkpt (m : OutMsg) (f : Ctx → Ctx) (p : Part) : Part :=
  { p with ckpt := p.ckpt.map (fun k =>
    if m.id < k.mark then
      { k with window := k.window.map (fun t => if t.id = m.by_.task then
        { t with saved := t.saved.map (fun c => if c.gangIdx = m.by_.who then c.setCtx m.by_.ctx (f (c.ctx m.by_.ctx)) else c) } else t) }
    else k) }

section
variable (s : State) (k : Nat) {m : OutMsg} {c : Nat} (hc : s.seat m.by_ = some c) (f : Ctx → Ctx)

/-- The state after an operation of the outbox has been settled at its agent. -/
def State.settled (m : OutMsg) : State := (s.dropOut k).settleAgent m.by_ m.id f

theorem settled_eq : s.settled k f m = ((s.dropOut k).modAgent m.by_ f).modPart m.by_.part (Part.settleCkpt m f) := rfl

include hc

theorem OneCtx.settled : OneCtx s (s.settled k f m) c m.by_.ctx f := by
  rw [settled_eq, modAgent_seated (s := s.dropOut k) hc]
  have h := OneCtx.modCtx (s.dropOut k) c m.by_.ctx f
  exact ⟨h.same, h.others⟩

theorem outbox_settled : (s.settled k f m).outbox = dropAt s.outbox k := by
  rw [settled_eq, modAgent_seated (s := s.dropOut k) hc]
  rfl

theorem SameMemory.settled : SameMemory s (s.settled k f m) := by
  rw [settled_eq, modAgent_seated (s := s.dropOut k) hc]
  have hd : SameMemory s (s.dropOut k) := .of_eq (fun _ => rfl) rfl (fun _ => rfl) rfl rfl
  exact (hd.trans (SameMemory.modCtx ..)).trans (.modPart _ _ _ (fun _ => rfl))

/-- No slice, no system area: the pieces present at the slices are as they were. -/
theorem onSlice_settled (n sb : Nat) : (s.settled k f m).onSlice n sb = s.onSlice n sb := by
  rw [settled_eq, modAgent_seated (s := s.dropOut k) hc]
  have hpart {α : Type} (π : Part → α) (hπ : ∀ q, π (Part.settleCkpt m f q) = π q) (p : Nat) :
      π ((((s.dropOut k).modCtx c m.by_.ctx f).modPart m.by_.part (Part.settleCkpt m f)).part p) = π (s.part p) := by
    by_cases h : p = m.by_.part
    · subst h; rw [State.part_modPart_same, hπ]; rfl
    · rw [State.part_modPart_ne _ _ _ _ h]; rfl
  simp only [State.onSlice, State.sysPiece, hpart Part.sys (fun _ => rfl), hpart Part.sysPoison (fun _ => rfl)]
  rfl

end

/-- An event has settled an operation of the outbox at its agent, which stands on core c. -/
def SettlesOut (i : Instr) (s : State) (k c x : Nat) (f : Ctx → Ctx) : Prop := Makes i s (fun w => w.ctx c x = f (s.ctx c x) ∧
  (∀ d y, ¬(d = c ∧ y = x) → w.ctx d y = s.ctx d y) ∧ w.outbox = dropAt s.outbox k ∧ SameMemory s w)

theorem settles_out {i : Instr} {s : State} {k c : Nat} {m : OutMsg} {f g : Ctx → Ctx} (hc : s.seat m.by_ = some c) (hfg : f = g)
    (hx : exec i s = .next (s.settled k f m)) : SettlesOut i s k c m.by_.ctx g := by
  subst hfg
  have h := OneCtx.settled s k hc f
  exact ⟨_, hx, h.same, h.others, outbox_settled s k hc f, SameMemory.settled s k hc f⟩

/-! ### What comes back from another device (R132, R287, R388) -/

section
variable {s : State} {k : Nat} {m : OutMsg}

theorem outAt_none (h : s.outbox[k]? = none) (own flit : Bool) : s.outAt k own flit = none := by
  rw [State.outAt, h]
  rfl

theorem outAt_some (h : s.outbox[k]? = some m) (own flit : Bool) : s.outAt k own flit =
    if m.isFlit == flit && (flit || (m.dev == s.devnum.toNat) == own) then some m else none := by
  rw [State.outAt, h]
  rfl

theorem outAt_far (h : s.outbox[k]? = some m) (hf : m.isFlit = false ∧ m.dev ≠ s.devnum.toNat) : s.outAt k false false = some m := by
  simp [outAt_some h, hf]

theorem outAt_notFar (h : s.outbox[k]? = some m) (hf : ¬(m.isFlit = false ∧ m.dev ≠ s.devnum.toNat)) : s.outAt k false false = none := by
  rw [outAt_some h, if_neg]
  simpa using hf

theorem outAt_near (h : s.outbox[k]? = some m) (hf : m.isFlit = false ∧ m.dev = s.devnum.toNat) : s.outAt k true false = some m := by
  simp [outAt_some h, hf]

theorem outAt_notNear (h : s.outbox[k]? = some m) (hf : ¬(m.isFlit = false ∧ m.dev = s.devnum.toNat)) : s.outAt k true false = none := by
  rw [outAt_some h, if_neg]
  simpa using hf

theorem outAt_flit (h : s.outbox[k]? = some m) (hf : m.isFlit = true) : s.outAt k false true = some m := by
  simp [outAt_some h, hf]

theorem ack_stays (h : s.outAt k false false = none) (data : AckData) : exec (.remoteAck k data) s = .next s := by
  show execRemoteAck k data s = _
  rw [execRemoteAck, h]

theorem refusal_stays (h : s.outAt k false false = none) (code : BitVec 8) : exec (.remoteRefusal k code) s = .next s := by
  show execRemoteRefusal k code s = _
  rw [execRemoteRefusal, h]

theorem ack_settles (h : s.outAt k false false = some m) (data : AckData) :
    exec (.remoteAck k data) s = .next (s.settled k (if m.barred then m.refuse 2 else m.ack data.bytes data.poison) m) := by
  show execRemoteAck k data s = _
  rw [execRemoteAck, h]
  rfl

theorem refusal_settles (h : s.outAt k false false = some m) (code : BitVec 8) :
    exec (.remoteRefusal k code) s = .next (s.settled k (m.refuse (if m.barred then 2 else code.toNat)) m) := by
  show execRemoteRefusal k code s = _
  rw [execRemoteRefusal, h]
  rfl

/-- A posted operation, or one that its thread waits for. -/
theorem ack_posted (h : waitsFor m.op = none) (data : List Byte) (pz : Bool) : m.ack data pz = Ctx.acked := by
  funext t
  simp only [OutMsg.ack, h]

theorem refuse_posted (h : waitsFor m.op = none) (code : Nat) : m.refuse code = (fun t => t.refused code) := by
  funext t
  simp only [OutMsg.refuse, h]

theorem ack_waited {n : Nat} (h : waitsFor m.op = some n) (data : List Byte) (pz : Bool) :
    m.ack data pz = (fun t => t.answered ⟨m.id, Machine.slice data 0 n, pz, 0, 0⟩) := by
  funext t
  simp only [OutMsg.ack, h]

theorem refuse_waited {n : Nat} (h : waitsFor m.op = some n) (code : Nat) :
    m.refuse code = (fun t => t.answered ⟨m.id, [], false, Cause.remoteRefused, code⟩) := by
  funext t
  simp only [OutMsg.refuse, h]

section
variable {c : Nat} (hm : s.outAt k false false = some m) (hc : s.seat m.by_ = some c) (data : AckData) (code : BitVec 8)
include hm hc

theorem barred_settles (hb : m.barred = true) {f : Ctx → Ctx} (hf : m.refuse 2 = f) :
    SettlesOut (.remoteAck k data) s k c m.by_.ctx f ∧ SettlesOut (.remoteRefusal k code) s k c m.by_.ctx f := by
  refine ⟨settles_out hc ?_ (ack_settles hm data), settles_out hc ?_ (refusal_settles hm code)⟩
  · rw [if_pos hb, hf]
  · rw [if_pos hb, hf]

theorem carried_settles (hb : m.barred = false) {f g : Ctx → Ctx} (hf : m.ack data.bytes data.poison = f) (hg : m.refuse code.toNat = g) :
    SettlesOut (.remoteAck k data) s k c m.by_.ctx f ∧ SettlesOut (.remoteRefusal k code) s k c m.by_.ctx g := by
  refine ⟨settles_out hc ?_ (ack_settles hm data), settles_out hc ?_ (refusal_settles hm code)⟩
  · rw [if_neg (by simp [hb]), hf]
  · rw [if_neg (by simp [hb]), hg]

end

end

/-! ### The message executor (R287, R303, R387) -/

/-- The executor with nothing in it. -/
theorem executor_empty {s : State} (h : s.executor = []) : { s with executor := [] } = s := by rw [← h]

theorem exec_domainArrival (src : DomSource) (s : State) : exec (.domainMessageArrival src) s = .next (s.runExecutor (s.executor ++ s.arrival src)) := rfl

theorem runExecutor_waits {s : State} {a : DomArrival} (h : s.runOne a = none) (as : List DomArrival) :
    s.runExecutor (a :: as) = { s.wantFull with executor := a :: as } := by
  rw [State.runExecutor, h]

theorem runExecutor_runs {s t : State} {a : DomArrival} (h : s.runOne a = some t) (as : List DomArrival) :
    s.runExecutor (a :: as) = t.runExecutor as := by
  rw [State.runExecutor, h]

/-- Nothing arrives at an empty executor. -/
theorem domainArrival_idle {s : State} {src : DomSource} (he : s.executor = []) (ha : s.arrival src = []) : exec (.domainMessageArrival src) s = .next s := by
  rw [exec_domainArrival, he, ha]
  exact congrArg _ (executor_empty he)

/-- One operation arrives at an empty executor, which runs it. -/
theorem domainArrival_runs {s t : State} {src : DomSource} {a : DomArrival} (he : s.executor = []) (ha : s.arrival src = [a]) (h : s.runOne a = some t) :
    exec (.domainMessageArrival src) s = .next { t with executor := [] } := by
  rw [exec_domainArrival, he, ha, List.nil_append, runExecutor_runs h]
  rfl

theorem domainArrival_waits {s : State} {src : DomSource} {a : DomArrival} (he : s.executor = []) (ha : s.arrival src = [a])
    (h : s.runOne a = none) : exec (.domainMessageArrival src) s = .next { s.wantFull with executor := [a] } := by
  rw [exec_domainArrival, he, ha, List.nil_append, runExecutor_waits h]

section
variable {s : State} {e : DomMsg}

theorem arrival_ext (h : s.linkFailed.contains (9 * 2 ^ 16 + e.port) = false) : s.arrival (.ext e) = [.ext e] := by
  simp only [State.arrival, h]
  rfl

theorem arrival_ext_failed (h : s.linkFailed.contains (9 * 2 ^ 16 + e.port) = true) : s.arrival (.ext e) = [] := by
  simp only [State.arrival, h, if_true]

theorem arrival_own_none {k : Nat} (h : s.outAt k true false = none) : s.arrival (.own k) = [] := by
  rw [State.arrival, h]

/-- Operations of one thread to this device go in order. -/
theorem arrival_own {k : Nat} {m : OutMsg} (he : s.executor = []) (h : s.outAt k true false = some m) : s.arrival (.own k) =
    if (s.outbox.take k).any (fun y => y.by_ == m.by_ && y.dev == m.dev) then [] else [.own m.id] := by
  simp [State.arrival, h, he]

end

theorem firstIdx_eq {α : Type} {p : α → Bool} {l : List α} {k : Nat} {x : α} (hk : l[k]? = some x) (hx : p x = true)
    (hu : ∀ j y, l[j]? = some y → p y = true → j = k) : firstIdx p l = some k := by
  induction l generalizing k with
  | nil => simp at hk
  | cons a l ih =>
    cases k with
    | zero =>
      obtain rfl : a = x := by simpa using hk
      simp [firstIdx, hx]
    | succ k =>
      have ha : p a = false := by
        by_contra h
        have := hu 0 a rfl (by simpa using h)
        omega
      have hrec := ih (k := k) (by simpa using hk) (fun j y hj hy => by
        have := hu (j + 1) y (by simpa using hj) hy
        omega)
      simp [firstIdx, ha, hrec]

section
variable {s : State} {k : Nat} {m : OutMsg} (hm : s.outbox[k]? = some m) (hid : ∀ j y, s.outbox[j]? = some y → y.id = m.id → j = k)
include hm hid

theorem runOwn_eq : s.runOne (.own m.id) = (match s.ownAccess m with
    | .wait => none
    | .refused c => some (s.settled k (m.refuse c) m)
    | .done bs pz t => some (t.settled k (m.ack bs pz) m)) := by
  have hf : firstIdx (fun y => y.id == m.id) s.outbox = some k :=
    firstIdx_eq hm (by simp) (fun j y hj hy => hid j y hj (by simpa using hy))
  simp only [State.runOne, State.runOwn, hf, hm] <;> rfl

variable (he : s.executor = []) (hn : m.isFlit = false ∧ m.dev = s.devnum.toNat)
  (hq : (s.outbox.take k).any (fun y => y.by_ == m.by_ && y.dev == m.dev) = false)
include he hn hq

theorem own_refused {c code : Nat} {f : Ctx → Ctx} (hc : s.seat m.by_ = some c) (ha : s.ownAccess m = .refused code) (hf : m.refuse code = f) :
    SettlesOut (.domainMessageArrival (.own k)) s k c m.by_.ctx f := by
  have harr : s.arrival (.own k) = [.own m.id] := by rw [arrival_own he (outAt_near hm hn), if_neg (by simp [hq])]
  have hrun : s.runOne (.own m.id) = some (s.settled k (m.refuse code) m) := by rw [runOwn_eq hm hid, ha]
  have h := OneCtx.settled s k hc (m.refuse code)
  subst hf
  exact ⟨_, domainArrival_runs he harr hrun, h.same, h.others, outbox_settled s k hc _,
    (SameMemory.settled s k hc _).trans (.of_eq (fun _ => rfl) rfl (fun _ => rfl) rfl rfl)⟩

theorem own_done {bs : List Byte} {pz : Bool} {t : State} (ha : s.ownAccess m = .done bs pz t) :
    exec (.domainMessageArrival (.own k)) s = .next { t.settled k (m.ack bs pz) m with executor := [] } := by
  have harr : s.arrival (.own k) = [.own m.id] := by rw [arrival_own he (outAt_near hm hn), if_neg (by simp [hq])]
  exact domainArrival_runs he harr (by rw [runOwn_eq hm hid, ha])

end

end Sys2Proof.Machine
end

section
/-!
PROOFS. Operations at the message executor by what they do, signal fills, reduction flits and collectives (O48).
-/

set_option linter.constructorNameAsVariable false

namespace Sys2Proof.Machine

/-! ### Accesses through the window of a partition (R303) -/

section
variable {s t : State} {p off n : Nat} {bs : List Byte}

theorem domainAccess_reset (h : (s.part p).inReset = true) (op : DomOp) : s.domainAccess p off op = .refused 1 := by
  simp only [State.domainAccess, h, if_true]

variable (hr : (s.part p).inReset = false) (hp : ((s.part p).place ((s.part p).exportPa + (off - (s.part p).exportBase))).isSome = true)
include hr hp

theorem domainAccess_store : s.domainAccess p off (.store bs) =
    (match s.devWrite (s.homeDie p ((s.part p).exportPa + (off - (s.part p).exportBase))) p
        ((s.part p).exportPa + (off - (s.part p).exportBase)) (bs.length + 1) bs with
    | none => .wait
    | some s => .done [] false s) := by
  simp [State.domainAccess, hr, Option.isSome_iff_ne_none.mp hp] <;> rfl

theorem domainAccess_load : s.domainAccess p off (.load n) =
    (match s.devRead (s.homeDie p ((s.part p).exportPa + (off - (s.part p).exportBase))) p
        ((s.part p).exportPa + (off - (s.part p).exportBase)) (n + 1) n with
    | none => .wait
    | some (bs, pz, s) => .done bs pz s) := by
  simp [State.domainAccess, hr, Option.isSome_iff_ne_none.mp hp] <;> rfl

end

section
variable {s t : State} {m : OutMsg} {bs : List Byte} {n : Nat}

theorem ownAccess_store (h : m.op = .store bs) : s.ownAccess m =
    if (s.part m.by_.part).exports m.off bs.length then s.domainAccess m.by_.part m.off (.store bs) else .refused 2 := by
  rw [State.ownAccess, h]
  rfl

theorem ownAccess_load (h : m.op = .load n) : s.ownAccess m =
    if (s.part m.by_.part).exports m.off n then s.domainAccess m.by_.part m.off (.load n) else .refused 2 := by
  rw [State.ownAccess, h]
  rfl

end

section
variable {s t : State} {e : DomMsg} {bs : List Byte} {n : Nat}

theorem extAccess_store (h : e.op = .store bs) : s.extAccess e = (match s.exportPart e.port e.off.toNat bs.length with
    | some p => (some p, s.domainAccess p e.off.toNat (.store bs))
    | none => (none, .refused 2)) := by
  simp only [State.extAccess, h] <;> rfl

theorem extAccess_load (h : e.op = .load n) : s.extAccess e = (match s.exportPart e.port e.off.toNat n with
    | some p => (some p, s.domainAccess p e.off.toNat (.load n))
    | none => (none, .refused 2)) := by
  simp only [State.extAccess, h] <;> rfl

theorem runOne_refused {p : Option Nat} {c : Nat} (h : s.extAccess e = (p, .refused c)) :
    s.runOne (.ext e) = some { s with answers := s.answers ++ [⟨e, some c, [], false⟩] } := by
  rw [State.runOne, State.runExt, h]

theorem runOne_waits {p : Option Nat} (h : s.extAccess e = (p, .wait)) : s.runOne (.ext e) = none := by
  rw [State.runOne, State.runExt, h]

/-- An operation from outside that acts on a partition ends the chance of a rollback there (R379). -/
theorem runOne_acts {p : Nat} {pz : Bool} (h : s.extAccess e = (some p, .done bs pz t)) (ha : DomActs e.op = true) :
    s.runOne (.ext e) = some (({ t with answers := t.answers ++ [⟨e, none, DomOp.answerData e.op bs, pz⟩] } : State).noRollback p) := by
  simp only [State.runOne, State.runExt, h, ha, if_true]
  rfl

theorem runOne_reads {p : Nat} {pz : Bool} (h : s.extAccess e = (some p, .done bs pz t)) (ha : DomActs e.op = false) :
    s.runOne (.ext e) = some { t with answers := t.answers ++ [⟨e, none, DomOp.answerData e.op bs, pz⟩] } := by
  simp only [State.runOne, State.runExt, h, ha]
  rfl

end

/-! ### Signals (R335, R336) -/

section
variable {s : State} {c x reg : Nat} {v : Word}

theorem fill_discarded (h : (s.ctx c x).live = false) : s.fill c x reg v = s := by
  simp [State.fill, h]

theorem fill_own (h : (s.ctx c x).live = true) (h0 : 0 < reg) (h32 : reg < 32) :
    s.fill c x reg v = s.modCtx c x (fun t => { t with g := tput t.g reg ⟨v, true⟩ }) := by
  simp [State.fill, h, Nat.ne_of_gt h0, h32]

theorem fill_shared (h : (s.ctx c x).live = true) (h32 : 32 ≤ reg) :
    s.fill c x reg v = s.modCore c (fun k => { k with s := tput k.s (reg - 32) ⟨v, true⟩ }) := by
  simp [State.fill, h, show reg ≠ 0 by omega, Nat.not_lt.mpr h32]

theorem signalFill_fills {k h y : Nat} {a : Msg} (ha : s.net[k]? = some a) (hk : a.kind = .fill h y reg v) :
    exec (.signalFillArrival k) s = .next (((s.without k).fill h y reg v).answer a.core a.ctx ⟨a.id, [], false, 0, 0⟩) := by
  show execSignalFillArrival k s = _
  rw [execSignalFillArrival, takeMsg_eq ha]
  simp only [hk]

/-- A signal to a tile of a running task fills the register of the context there. -/
theorem remoteSignal_fills {p : Nat} {word : Word} {T : Task} (hr : (s.part p).inReset = false)
    (hT : (s.part p).task (fld word 63 32) = some T) (hz : fld word 63 32 ≠ 0) (hrun : T.phase = .running)
    (hc : T.tiles[fld word 29 18]? = some c) :
    s.remoteSignal p word v = .done [] false (s.fill c (fld word 13 10) (fld word 9 4) v) := by
  have hid : T.id = fld word 63 32 := by simpa using List.find?_some hT
  have hseat : s.seat ⟨p, T.id, sigTile word, sigCtx word⟩ = some c := by
    have hT' : (s.part p).task T.id = some T := by rw [hid]; exact hT
    rw [State.seat, if_neg (by rw [hid]; exact hz), hT']
    simp only [Option.bind_some, hrun, if_true]
    exact hc
  have hlen : ¬(T.tiles.length ≤ sigTile word ∧ T.saved.length ≤ sigTile word) := fun h => by
    have hlt := (List.getElem?_eq_some_iff.mp hc).1
    exact absurd h.1 (Nat.not_le.mpr hlt)
  have hT' : (s.part p).task (sigTask word) = some T := hT
  have hphase : ¬(T.phase ≠ .running ∧ T.phase ≠ .saved) := fun h => h.1 hrun
  simp only [State.remoteSignal, hr, hT', if_neg hphase, if_neg hlen, State.fillAgent, hseat]
  rfl

end

/-! ### Reduction flits (R310, R327, R388) -/

section
variable {s : State} {y : Nat} {f : Flit} {by_ : List Agent}

theorem partialsAt_addPartial_same : (s.addPartial y f by_).partialsAt y = mergeFlit (s.partialsAt y) f by_ := by
  have h1 : (s.partials.filter (fun e => decide (e.1 ≠ y))).filter (fun e => decide (e.1 = y)) = [] :=
    List.filter_eq_nil_iff.mpr fun e he => by simpa using (List.mem_filter.mp he).2
  have h2 : ((mergeFlit (s.partialsAt y) f by_).map (fun c => (y, c))).filter (fun e => decide (e.1 = y)) =
      (mergeFlit (s.partialsAt y) f by_).map (fun c => (y, c)) := List.filter_eq_self.mpr (by simp)
  rw [State.addPartial, State.partialsAt, List.filter_append, h1, h2]
  simp [Function.comp_def]

theorem partialsAt_addPartial_ne {z : Nat} (h : z ≠ y) : (s.addPartial y f by_).partialsAt z = s.partialsAt z := by
  have h1 : (s.partials.filter (fun e => decide (e.1 ≠ y))).filter (fun e => decide (e.1 = z)) = s.partials.filter (fun e => decide (e.1 = z)) := by
    rw [List.filter_filter]
    refine List.filter_congr fun e _ => ?_
    by_cases he : e.1 = z
    · simp [he, h]
    · simp [he]
  have h2 : ((mergeFlit (s.partialsAt y) f by_).map (fun c => (y, c))).filter (fun e => decide (e.1 = z)) = [] :=
    List.filter_eq_nil_iff.mpr (by simp [h.symm])
  rw [State.addPartial, State.partialsAt, List.filter_append, h1, h2, List.append_nil]
  rfl

/-- A flit that is not sent to a routing tile comes to its destination, or waits for room there; with no tile to go to it is never sent to one. -/
theorem sendFlit_cases (s : State) (p : Nat) (here : Option Nat) (f : Flit) (by_ : List Agent) :
    (∃ y ∈ s.hops p here f, s.sendFlit p here f by_ = some (s.freeNext.addPartial y f by_)) ∨
    (∃ u, (u = s ∨ u = s.freeNext) ∧ s.sendFlit p here f by_ = if s.flitRoom f then some (u.addFlit f by_) else none) := by
  unfold State.sendFlit
  simp only
  split
  · next y hy =>
    left
    have hmem := List.mem_of_getElem? hy
    have hne : (s.hops p here f).isEmpty = false := by
      cases h : s.hops p here f with
      | nil => simp [h] at hmem
      | cons z zs => rfl
    exact ⟨y, hmem, by simp [hne]⟩
  · right
    by_cases h : (s.hops p here f).isEmpty = true
    · exact ⟨s, .inl rfl, by simp only [h, if_true]⟩
    · exact ⟨s.freeNext, .inr rfl, by simp only [h, if_false, Bool.false_eq_true]⟩

theorem sendFlit_ends {p : Nat} {here : Option Nat} (h : s.hops p here f = []) :
    s.sendFlit p here f by_ = if s.flitRoom f then some (s.addFlit f by_) else none := by
  simp [State.sendFlit, h]

end

/-- What a flit that goes on may come to: the destination combines it, or a routing tile does. -/
def FlitGoes (i : Instr) (s u : State) (p : Nat) (here : Option Nat) (f : Flit) (by_ : List Agent) : Prop :=
  let ts := u.hops p here f
  let ends := fun (w : State) => w.partials = u.partials ∧ w.collectives = mergeFlit u.collectives f by_
  let hops := fun (w : State) => w.collectives = u.collectives ∧ ∃ y ∈ ts, w.partialsAt y = mergeFlit (u.partialsAt y) f by_ ∧
    ∀ z, z ≠ y → w.partialsAt z = u.partialsAt z
  (u.flitRoom f = true → Makes i s (fun w => w.outbox = u.outbox ∧ w.cores = s.cores ∧ SameMemory s w ∧ (ends w ∨ hops w) ∧
    (ts = [] → ends w))) ∧
  (u.flitRoom f = false → Makes i s (fun w => w = s ∨ (w.outbox = u.outbox ∧ w.cores = s.cores ∧ SameMemory s w ∧ hops w)))

theorem flit_goes {i : Instr} {s u : State} {p : Nat} {here : Option Nat} {f : Flit} {by_ : List Agent}
    (hx : exec i s = orStay s (u.sendFlit p here f by_)) (hc : u.cores = s.cores) (hm : SameMemory s u) : FlitGoes i s u p here f by_ := by
  have hfree (v : State) (hv : v = u ∨ v = u.freeNext) : v.outbox = u.outbox ∧ v.cores = s.cores ∧ SameMemory s v ∧ v.partials = u.partials ∧
      v.collectives = u.collectives := by
    rcases hv with rfl | rfl
    · exact ⟨rfl, hc, hm, rfl, rfl⟩
    · exact ⟨rfl, hc, hm.trans (.of_eq (fun _ => rfl) rfl (fun _ => rfl) rfl rfl), rfl, rfl⟩
  rcases sendFlit_cases u p here f by_ with ⟨y, hy, hs⟩ | ⟨v, hv, hs⟩
  case inl =>
    obtain ⟨ho, hcv, hmv, -, -⟩ := hfree u.freeNext (.inr rfl)
    have hops : (u.freeNext.addPartial y f by_).partialsAt y = mergeFlit (u.partialsAt y) f by_ ∧
        ∀ z, z ≠ y → (u.freeNext.addPartial y f by_).partialsAt z = u.partialsAt z :=
      ⟨partialsAt_addPartial_same, fun z hz => partialsAt_addPartial_ne hz⟩
    have hmem : SameMemory s (u.freeNext.addPartial y f by_) := hmv.trans (.of_eq (fun _ => rfl) rfl (fun _ => rfl) rfl rfl)
    rw [hs] at hx
    exact ⟨fun _ => ⟨_, hx, ho, hcv, hmem, .inr ⟨rfl, y, hy, hops⟩, fun h => by simp [h] at hy⟩,
      fun _ => ⟨_, hx, .inr ⟨ho, hcv, hmem, rfl, y, hy, hops⟩⟩⟩
  case inr =>
    obtain ⟨ho, hcv, hmv, hp, hcol⟩ := hfree v hv
    have hmem : SameMemory s (v.addFlit f by_) := hmv.trans (.of_eq (fun _ => rfl) rfl (fun _ => rfl) rfl rfl)
    have hends : (v.addFlit f by_).collectives = mergeFlit u.collectives f by_ := congrArg (mergeFlit · f by_) hcol
    rw [hs] at hx
    refine ⟨fun hr => ?_, fun hr => ?_⟩
    · rw [if_pos hr] at hx
      exact ⟨_, hx, ho, hcv, hmem, .inl ⟨hp, hends⟩, fun _ => ⟨hp, hends⟩⟩
    · rw [if_neg (by simp [hr])] at hx
      exact ⟨s, hx, .inl rfl⟩

/-! ### The element of a collective -/

section
variable {s : State} {g el : Nat} {op : AtomOp} {by_ : List Agent}

theorem mergeFlit_fresh (h : s.collective g el = none) : mergeFlit s.collectives ⟨g, el, op, 1⟩ by_ = s.collectives ++ [⟨g, el, op, 1, by_⟩] := by
  have hany : s.collectives.any (fun c => c.group = g && c.elem == el) = false :=
    List.any_eq_false.mpr fun c hc => List.find?_eq_none.mp h c hc
  rw [mergeFlit, if_neg (by simp only [hany]; decide)]

theorem flitRoom_fresh (h : s.collective g el = none) : s.flitRoom ⟨g, el, op, 1⟩ = true := by
  simp only [State.flitRoom, h]
  rfl

theorem flitRoom_held {q : Collective} (h : s.collective g el = some q) : s.flitRoom ⟨g, el, op, 1⟩ = decide (q.count + 1 ≤ tget 0 s.groups g) := by
  simp only [State.flitRoom, h]
  rfl

/-- An element whose entry a flit has been merged into. -/
theorem find_mergeFlit {q : Collective} (h : s.collective g el = some q) :
    (mergeFlit s.collectives ⟨g, el, op, 1⟩ by_).find? (fun c => c.group = g && c.elem == el) = some (q.merge op 1 by_) := by
  have h' : s.collectives.find? (fun c => c.group = g && c.elem == el) = some q := h
  have hq := List.find?_some h'
  have hany : s.collectives.any (fun c => c.group = g && c.elem == el) = true := List.any_eq_true.mpr ⟨q, List.mem_of_find?_eq_some h', hq⟩
  have hkey : (fun c : Collective => decide (c.group = g) && c.elem == el) ∘ (fun c => if c.group = g && c.elem == el then c.merge op 1 by_ else c) =
      (fun c => decide (c.group = g) && c.elem == el) := by
    funext c
    simp only [Function.comp_apply]
    split <;> rfl
  rw [mergeFlit, if_pos hany, List.find?_map, hkey, h']
  simp only [Option.map_some, hq, if_true]

theorem atomArg_setArg (op : AtomOp) (v : Word) : atomArg (setArg op v) = v := by cases op <;> rfl

end

end Sys2Proof.Machine
end

section
/-!
PROOFS. Domain operations (O48): the six events, each by what stands at its place.
-/

set_option linter.constructorNameAsVariable false

namespace Sys2Proof.Machine

/-! ### Where nothing stands -/

section
variable {s : State} {k : Nat}

theorem exec_flit (k : Nat) (s : State) : exec (.reductionFlitArrival (.own k)) s = execReductionFlitArrival (.own k) s := rfl

theorem flit_stays (h : s.outbox[k]? = none) (hp : s.partials[k - s.outbox.length]? = none) : exec (.reductionFlitArrival (.own k)) s = .next s := by
  simp only [exec_flit, execReductionFlitArrival, outAt_none h, hp]

/-- Behind the outbox stand the flits that routing tiles hold. -/
theorem flit_partial (h : s.outbox[k]? = none) {y : Nat} {q : Collective} (hp : s.partials[k - s.outbox.length]? = some (y, q)) :
    exec (.reductionFlitArrival (.own k)) s = orStay s (({ s with partials := dropAt s.partials (k - s.outbox.length) } : State).sendFlit
      (s.tilePart y) (some y) ⟨q.group, q.elem, q.op, q.count⟩ q.issuers) := by
  have hk : ¬k < s.outbox.length := Nat.not_lt.mpr (List.getElem?_eq_none_iff.mp h)
  simp only [exec_flit, execReductionFlitArrival, outAt_none h, hp, if_neg hk]
  rfl

/-! ### A flit of the outbox -/

theorem groupOf_eq (off : Nat) : groupOf off = off / 2 ^ 20 % 256 := rfl

theorem elemOf_eq (off : Nat) : elemOf off = off % 2 ^ 20 := by
  rw [elemOf, nfld, Nat.pow_zero, Nat.div_one]

variable {m : OutMsg} {op : AtomOp} (hm : s.outbox[k]? = some m) (hf : m.isFlit = true) (hop : m.op = .atomic op)
include hm hf hop

theorem flit_refused (hN : tget 0 s.groups (m.off / 2 ^ 20 % 256) = 0) :
    exec (.reductionFlitArrival (.own k)) s = .next (s.settled k (fun t => t.refused 2) m) := by
  simp only [exec_flit, execReductionFlitArrival, outAt_flit hm hf, hop, groupOf_eq]
  exact if_pos hN

theorem flit_sent (hN : tget 0 s.groups (m.off / 2 ^ 20 % 256) ≠ 0) : exec (.reductionFlitArrival (.own k)) s =
    orStay s ((s.dropOut k).sendFlit m.by_.part none ⟨m.off / 2 ^ 20 % 256, m.off % 2 ^ 20, op, 1⟩ [m.by_]) := by
  simp only [exec_flit, execReductionFlitArrival, outAt_flit hm hf, hop, groupOf_eq, elemOf_eq, if_neg hN]

/-- With no routing tile to go to, the flit comes to its destination, where there is room for it. -/
theorem flit_arrives (hN : tget 0 s.groups (m.off / 2 ^ 20 % 256) ≠ 0)
    (hh : (s.dropOut k).hops m.by_.part none ⟨m.off / 2 ^ 20 % 256, m.off % 2 ^ 20, op, 1⟩ = []) :
    exec (.reductionFlitArrival (.own k)) s = orStay s (if s.flitRoom ⟨m.off / 2 ^ 20 % 256, m.off % 2 ^ 20, op, 1⟩ then
      some ((s.dropOut k).addFlit ⟨m.off / 2 ^ 20 % 256, m.off % 2 ^ 20, op, 1⟩ [m.by_]) else none) := by
  rw [flit_sent hm hf hop hN, sendFlit_ends hh]
  rfl

theorem flit_first (hN : tget 0 s.groups (m.off / 2 ^ 20 % 256) ≠ 0)
    (hh : (s.dropOut k).hops m.by_.part none ⟨m.off / 2 ^ 20 % 256, m.off % 2 ^ 20, op, 1⟩ = [])
    (hc : s.collective (m.off / 2 ^ 20 % 256) (m.off % 2 ^ 20) = none) : Makes (.reductionFlitArrival (.own k)) s (fun w =>
      w.collectives = s.collectives ++ [⟨m.off / 2 ^ 20 % 256, m.off % 2 ^ 20, op, 1, [m.by_]⟩]) := by
  have hx := flit_arrives hm hf hop hN hh
  rw [if_pos (flitRoom_fresh hc)] at hx
  exact ⟨_, hx, mergeFlit_fresh hc⟩

theorem flit_next (hN : tget 0 s.groups (m.off / 2 ^ 20 % 256) ≠ 0)
    (hh : (s.dropOut k).hops m.by_.part none ⟨m.off / 2 ^ 20 % 256, m.off % 2 ^ 20, op, 1⟩ = []) {q : Collective}
    (hc : s.collective (m.off / 2 ^ 20 % 256) (m.off % 2 ^ 20) = some q) :
    (tget 0 s.groups (m.off / 2 ^ 20 % 256) < q.count + 1 → exec (.reductionFlitArrival (.own k)) s = .next s) ∧
    (q.count + 1 ≤ tget 0 s.groups (m.off / 2 ^ 20 % 256) → Makes (.reductionFlitArrival (.own k)) s (fun w =>
      ∃ r, w.collective (m.off / 2 ^ 20 % 256) (m.off % 2 ^ 20) = some r ∧ r.count = q.count + 1 ∧ r.issuers = q.issuers ++ [m.by_] ∧
        atomArg r.op = w64 (atomNew op ((atomArg q.op).toNat % 2 ^ (8 * atomBytes op))))) := by
  have hx := flit_arrives hm hf hop hN hh
  rw [flitRoom_held hc] at hx
  refine ⟨fun hlt => ?_, fun hle => ?_⟩
  · rw [if_neg (by simpa using hlt)] at hx
    exact hx
  · rw [if_pos (by simpa using hle)] at hx
    exact ⟨_, hx, q.merge op 1 [m.by_], find_mergeFlit hc, rfl, rfl, atomArg_setArg ..⟩

end

/-! ### A complete collective (R388) -/

section
variable {s : State} {g el : Nat}

theorem collective_absent (h : s.collective g el = none) : exec (.collectiveComplete g el) s = .next s := by
  show execCollectiveComplete g el s = _
  rw [execCollectiveComplete, h]

variable {q : Collective} (h : s.collective g el = some q)
include h

theorem collective_incomplete (hn : q.count ≠ tget 0 s.groups g) : exec (.collectiveComplete g el) s = .next s := by
  show execCollectiveComplete g el s = _
  rw [execCollectiveComplete, h]
  simp only [if_pos hn]

theorem collective_completes (hn : q.count = tget 0 s.groups g) {t : State} (ht : s.writeMembers q = some t) {a : Agent} (ha : q.issuers = [a])
    {c : Nat} (hc : t.seat a = some c) : Makes (.collectiveComplete g el) s (fun w => (w.ctx c a.ctx).rfcount = (t.ctx c a.ctx).rfcount - 1 ∧
      w.collectives = t.collectives.filter (fun y => decide (y ≠ q)) ∧ ∀ n, w.slice n = t.slice n) := by
  let u : State := { t with collectives := t.collectives.filter (fun y => decide (y ≠ q)) }
  have hu : u.seat a = some c := hc
  refine ⟨u.modCtx c a.ctx Ctx.acked, ?_, ?_, rfl, fun _ => rfl⟩
  · show execCollectiveComplete g el s = _
    rw [execCollectiveComplete, h]
    simp only [if_neg (not_not.mpr hn), ht, ha, List.foldl_cons, List.foldl_nil, Option.map_some]
    rw [modAgent_seated hu]
    rfl
  · rw [State.ctx_modCtx_same]
    rfl

end

/-! ### A store of this device to itself (R303) -/

section
variable {s t : State} {k c : Nat} {m : OutMsg} {bs : List Byte} (hm : s.outbox[k]? = some m) (hc : s.seat m.by_ = some c)
  (hid : ∀ j y, s.outbox[j]? = some y → y.id = m.id → j = k) (he : s.executor = []) (hn : m.isFlit = false ∧ m.dev = s.devnum.toNat)
  (hq : (s.outbox.take k).any (fun y => y.by_ == m.by_ && y.dev == m.dev) = false) (hop : m.op = .store bs)
  (hx : (s.part m.by_.part).exports m.off bs.length = true)
include hm hc hid he hn hq hop hx

theorem own_store_applied (hr : (s.part m.by_.part).inReset = false)
    (hp : ((s.part m.by_.part).place ((s.part m.by_.part).exportPa + (m.off - (s.part m.by_.part).exportBase))).isSome = true)
    (ht : s.devWrite (s.homeDie m.by_.part ((s.part m.by_.part).exportPa + (m.off - (s.part m.by_.part).exportBase))) m.by_.part
      ((s.part m.by_.part).exportPa + (m.off - (s.part m.by_.part).exportBase)) (bs.length + 1) bs = some t) :
    Makes (.domainMessageArrival (.own k)) s (fun w => w.outbox = dropAt s.outbox k ∧
      (w.ctx c m.by_.ctx).rfcount = (s.ctx c m.by_.ctx).rfcount - 1 ∧ ∀ n sb, w.onSlice n sb = t.onSlice n sb) := by
  obtain ⟨hseat, honly⟩ := devWrite_keeps ht
  have hct : t.seat m.by_ = some c := (hseat.seat m.by_).trans hc
  have hacc : s.ownAccess m = .done [] false t := by rw [ownAccess_store hop, if_pos hx, domainAccess_store hr hp, ht]
  have hposted : waitsFor m.op = none := by rw [hop]; rfl
  have hs := OneCtx.settled t k hct (m.ack [] false)
  refine ⟨_, own_done hm hid he hn hq hacc, ?_, ?_, fun n sb => ?_⟩
  · exact (outbox_settled t k hct _).trans (by rw [hseat.outbox])
  · have hrf : (t.ctx c m.by_.ctx).rfcount = (s.ctx c m.by_.ctx).rfcount := by
      have h := congrArg Ctx.rfcount (honly.ctx c m.by_.ctx)
      exact h
    have hack : (m.ack [] false (t.ctx c m.by_.ctx)).rfcount = (t.ctx c m.by_.ctx).rfcount - 1 := by rw [ack_posted hposted]; rfl
    exact (congrArg Ctx.rfcount hs.same).trans (hack.trans (congrArg (· - 1) hrf))
  · exact onSlice_settled t k hct (m.ack [] false) n sb

end

/-! ### An operation from outside -/

/-- An answer that leaves the device, the mark against a rollback, an empty executor. -/
theorem SameMemory.leaves {s t : State} (h : SameMemory s t) (as : List DomAnswer) (p : Nat) :
    SameMemory s { State.noRollback { t with answers := as } p with executor := [] } := by
  have h1 : SameMemory t { t with answers := as } := .of_eq (fun _ => rfl) rfl (fun _ => rfl) rfl rfl
  have h2 : SameMemory { t with answers := as } (State.noRollback { t with answers := as } p) := .modPart _ _ _ (fun _ => rfl)
  exact ((h.trans h1).trans h2).trans (.of_eq (fun _ => rfl) rfl (fun _ => rfl) rfl rfl)

section
variable {s t : State} {e : DomMsg} {p : Nat} {bs : List Byte} (he : s.executor = [])
  (hl : s.linkFailed.contains (9 * 2 ^ 16 + e.port) = false)
include he hl

theorem ext_store_refused (hop : e.op = .store bs) (hx : s.exportPart e.port e.off.toNat bs.length = none) :
    exec (.domainMessageArrival (.ext e)) s = .next { s with answers := s.answers ++ [⟨e, some 2, [], false⟩] } := by
  have hacc : s.extAccess e = (none, .refused 2) := by rw [extAccess_store hop, hx]
  rw [domainArrival_runs he (arrival_ext hl) (runOne_refused hacc), ← he]

section
variable (hop : e.op = .store bs) (hx : s.exportPart e.port e.off.toNat bs.length = some p) (hr : (s.part p).inReset = false)
  (hp : ((s.part p).place ((s.part p).exportPa + (e.off.toNat - (s.part p).exportBase))).isSome = true)
include hop hx hr hp

theorem ext_store_applied (ht : s.devWrite (s.homeDie p ((s.part p).exportPa + (e.off.toNat - (s.part p).exportBase))) p
      ((s.part p).exportPa + (e.off.toNat - (s.part p).exportBase)) (bs.length + 1) bs = some t) :
    Makes (.domainMessageArrival (.ext e)) s (fun w => bit (w.part p).ckptctl 10 = true ∧ w.executor = [] ∧
      w.answers = t.answers ++ [⟨e, none, [], false⟩] ∧ { w with parts := t.parts, answers := t.answers, executor := t.executor } = t) := by
  have hacc : s.extAccess e = (some p, .done [] false t) := by rw [extAccess_store hop, hx]; simp only [domainAccess_store hr hp, ht]
  have hrun := runOne_acts hacc (by rw [hop]; rfl)
  rw [hop] at hrun
  exact ⟨_, domainArrival_runs he (arrival_ext hl) hrun, noRollback_marks _ p, rfl, rfl, rfl⟩

theorem ext_store_waits (ht : s.devWrite (s.homeDie p ((s.part p).exportPa + (e.off.toNat - (s.part p).exportBase))) p
      ((s.part p).exportPa + (e.off.toNat - (s.part p).exportBase)) (bs.length + 1) bs = none) :
    exec (.domainMessageArrival (.ext e)) s = .next { s.wantFull with executor := [.ext e] } := by
  have hacc : s.extAccess e = (some p, .wait) := by rw [extAccess_store hop, hx]; simp only [domainAccess_store hr hp, ht]
  exact domainArrival_waits he (arrival_ext hl) (runOne_waits hacc)

end

theorem ext_load_answered {n : Nat} {pz : Bool} (hop : e.op = .load n) (hx : s.exportPart e.port e.off.toNat n = some p)
    (hr : (s.part p).inReset = false)
    (hp : ((s.part p).place ((s.part p).exportPa + (e.off.toNat - (s.part p).exportBase))).isSome = true)
    (ht : s.devRead (s.homeDie p ((s.part p).exportPa + (e.off.toNat - (s.part p).exportBase))) p
      ((s.part p).exportPa + (e.off.toNat - (s.part p).exportBase)) (n + 1) n = some (bs, pz, t)) :
    exec (.domainMessageArrival (.ext e)) s = .next { t with answers := t.answers ++ [⟨e, none, bs.take n, pz⟩], executor := [] } := by
  have hacc : s.extAccess e = (some p, .done bs pz t) := by rw [extAccess_load hop, hx]; simp only [domainAccess_load hr hp, ht]
  have hrun := runOne_reads hacc (by rw [hop]; rfl)
  rw [hop] at hrun
  exact domainArrival_runs he (arrival_ext hl) hrun

theorem ext_signal_fills {c : Nat} {word v : Word} {T : Task} (hop : e.op = .signal word v) (hx : s.portPart e.port = some p)
    (hr : (s.part p).inReset = false) (hT : (s.part p).task (fld word 63 32) = some T) (hz : fld word 63 32 ≠ 0) (hrun : T.phase = .running)
    (hc : T.tiles[fld word 29 18]? = some c) (hlive : (s.ctx c (fld word 13 10)).live = true) (h0 : 0 < fld word 9 4) (h32 : fld word 9 4 < 32) :
    Makes (.domainMessageArrival (.ext e)) s (fun w => SameMemory s w ∧
      w.answers = s.answers ++ [⟨e, none, [], false⟩] ∧ tget GVal.zero (w.ctx c (fld word 13 10)).g (fld word 9 4) = ⟨v, true⟩ ∧
      ∀ d y, ¬(d = c ∧ y = fld word 13 10) → w.ctx d y = s.ctx d y) := by
  have hsig := remoteSignal_fills (v := v) hr hT hz hrun hc
  rw [fill_own hlive h0 h32] at hsig
  have hacc : s.extAccess e = (some p, .done [] false (s.modCtx c (fld word 13 10) (fun t => { t with g := tput t.g (fld word 9 4) ⟨v, true⟩ }))) := by
    simp only [State.extAccess, hop, hx, hsig]
  have hone := OneCtx.modCtx s c (fld word 13 10) (fun t => { t with g := tput t.g (fld word 9 4) ⟨v, true⟩ })
  have hrun := runOne_acts hacc (by rw [hop]; rfl)
  rw [hop] at hrun
  refine ⟨_, domainArrival_runs he (arrival_ext hl) hrun, ?_, rfl, ?_, fun d y h => hone.others d y h⟩
  · exact (SameMemory.modCtx s c (fld word 13 10) (fun t => { t with g := tput t.g (fld word 9 4) ⟨v, true⟩ })).leaves _ p
  · exact (congrArg (fun t => tget GVal.zero (Ctx.g t) (fld word 9 4)) hone.same).trans (tget_tput_same ..)

end

/-! ### A fill at a gang tile -/

theorem answer_eq (s : State) (c x : Nat) (r : Reply) : s.answer c x r =
    if x < 16 then s.modCtx c x (fun t => { t with replies := t.replies ++ [r] }) else s := rfl

/-! ### O48 -/

/-- Settles O48: an operation of the outbox is settled at its agent (`settles_out`), one at the executor by what it does there
(`domainArrival_runs`), a flit where it goes (`flit_goes`). -/
theorem domainOperationsActAndAnswer : Obligations.DomainOperationsActAndAnswer := by
  intro s t k c n code data bs pz m e op word v goes
  refine ⟨fun h => ⟨ack_stays (outAt_none h ..) _, refusal_stays (outAt_none h ..) _,
      fun he => domainArrival_idle he (arrival_own_none (outAt_none h ..)), flit_stays h,
      fun y q hp => flit_goes (flit_partial h hp) rfl (.of_eq (fun _ => rfl) rfl (fun _ => rfl) rfl rfl)⟩,
    fun r rs he hr hl => ?behind, fun hm hc _ => ?own,
    fun he hl => domainArrival_idle he (arrival_ext_failed hl),
    fun he hl => ⟨ext_store_refused he hl, fun p hop hx hr hp => ⟨ext_store_applied he hl hop hx hr hp, ext_store_waits he hl hop hx hr hp⟩,
      fun p hop hx hr pz hp ht => ext_load_answered he hl hop hx hr hp ht,
      fun p T hop hx hr hT hz hrun hc hlive h0 h32 => ext_signal_fills he hl hop hx hr hT hz hrun hc hlive h0 h32⟩,
    fun a h y reg ha hk => ?fill, fun g el h => collective_absent h,
    fun g el q h => ⟨collective_incomplete h, fun a hn ht ha hc => collective_completes h hn ht ha hc⟩⟩
  case behind =>
    rw [exec_domainArrival, he, arrival_ext hl]
    exact congrArg _ (runExecutor_waits hr _)
  case own =>
    refine ⟨fun h => ⟨ack_stays (outAt_notFar hm h) _, refusal_stays (outAt_notFar hm h) _⟩, fun h hp => ?posted, fun h hw => ?waited,
      fun h he => domainArrival_idle he (arrival_own_none (outAt_notNear hm h)), fun h he hq => ?later, fun h he hid hq => ?near,
      fun hf hop => ?flit⟩
    case posted =>
      exact ⟨fun hb => barred_settles (outAt_far hm h) hc _ _ hb (refuse_posted hp 2),
        fun hb => carried_settles (outAt_far hm h) hc _ _ hb (ack_posted hp _ _) (refuse_posted hp _)⟩
    case waited =>
      exact ⟨fun hb => barred_settles (outAt_far hm h) hc _ _ hb (refuse_waited hw 2),
        fun hb => carried_settles (outAt_far hm h) hc _ _ hb (ack_waited hw _ _) (refuse_waited hw _)⟩
    case later =>
      exact domainArrival_idle he (by rw [arrival_own he (outAt_near hm h), if_pos hq])
    case near =>
      have posted (hop : m.op = .store bs) : waitsFor m.op = none := by rw [hop]; rfl
      have waits (hop : m.op = .load n) : waitsFor m.op = some n := by rw [hop]; rfl
      refine ⟨fun hop hx => ?_, fun hop hx => ?_, fun hop hx hr hp ht => own_store_applied hm hc hid he h hq hop hx hr hp ht, fun hop hx hr => ?_⟩
      · exact own_refused hm hid he h hq hc (by rw [ownAccess_store hop, if_neg (by simp [hx])]) (refuse_posted (posted hop) 2)
      · exact own_refused hm hid he h hq hc (by rw [ownAccess_load hop, if_neg (by simp [hx])]) (refuse_waited (waits hop) 2)
      · exact own_refused hm hid he h hq hc (by rw [ownAccess_store hop, if_pos hx, domainAccess_reset hr]) (refuse_posted (posted hop) 1)
    case flit =>
      refine ⟨fun hN => settles_out hc rfl (flit_refused hm hf hop hN), fun hN => ?_, fun hN hh => ⟨flit_first hm hf hop hN hh,
        fun q hq => flit_next hm hf hop hN hh hq⟩⟩
      exact flit_goes (flit_sent hm hf hop hN) rfl (.of_eq (fun _ => rfl) rfl (fun _ => rfl) rfl rfl)
  case fill =>
    refine ⟨fun hd => ?_, fun hl h0 h32 => ?_, fun hl h32 => ?_⟩
    · rw [signalFill_fills ha hk, fill_discarded (s := s.without k) hd, answer_eq]
      rfl
    · rw [signalFill_fills ha hk, fill_own (s := s.without k) hl h0 h32, answer_eq]
      rfl
    · rw [signalFill_fills ha hk, fill_shared (s := s.without k) hl h32, answer_eq]
      rfl

end Sys2Proof.Machine
end

section
/-!
PROOFS. ROUND and EXP2 (R147, R154, O7): `roundAt` gives the neighbour its mode chooses; a value that a format holds as a normal number
rounds to that number's own bits (`round_normal`, `ofBits_normalBits`); so the polynomial of EXP2 is exactly 1.0 at the fraction 0.
-/

namespace Sys2Proof.Machine

/-! ### The neighbour that a mode chooses (R146, R147) -/

/-- Only a remainder rounds up. -/
theorem rem_pos_of_roundsUp {mode rem half : Nat} {neg odd : Bool} (hhalf : 0 < half) (h : roundsUp mode neg odd rem half = true) : 0 < rem := by
  unfold roundsUp at h
  split at h <;> simp at h <;> omega

/-- Above the target exponent nothing is cut off. -/
theorem roundAt_of_le {mode m : Nat} {neg : Bool} {e q : Int} (h : q ≤ e) : roundAt mode neg m e q = (m * 2 ^ (e - q).toNat, true) :=
  if_pos h

/-- Below it the value is a quotient and a remainder, and `roundsUp` chooses. -/
theorem roundAt_of_lt {e q : Int} (h : e < q) (mode : Nat) (neg : Bool) (m : Nat) :
    ∃ hi rem half, 0 < half ∧ rem < 2 * half ∧ 2 ^ (q - e).toNat = 2 * half ∧ m = hi * (2 * half) + rem ∧
      roundAt mode neg m e q = (hi + b2n (roundsUp mode neg (nbit hi 0) rem half), decide (rem = 0)) := by
  have hpow : 2 ^ (q - e).toNat = 2 * 2 ^ ((q - e).toNat - 1) := by rw [← Nat.pow_succ', Nat.succ_eq_add_one, Nat.sub_add_cancel (by omega)]
  refine ⟨m / 2 ^ (q - e).toNat, m % 2 ^ (q - e).toNat, 2 ^ ((q - e).toNat - 1), Nat.two_pow_pos _, ?_, hpow, ?_, ?_⟩
  · exact hpow ▸ Nat.mod_lt _ (Nat.two_pow_pos _)
  · rw [← hpow, Nat.div_add_mod']
  · rw [roundAt, if_neg (by omega)]

/-- The integer is a neighbour of the value, and the one that the mode chooses. -/
theorem roundAt_neighbour {mode m : Nat} {neg : Bool} {e q : Int} (h : e < q) :
    let k := (q - e).toNat
    let r := (roundAt mode neg m e q).1
    let exact := (roundAt mode neg m e q).2
    (exact = true ↔ r * 2 ^ k = m) ∧ m < (r + 1) * 2 ^ k ∧ r * 2 ^ k < m + 2 ^ k ∧
    (mode = 0 → 2 * m ≤ (2 * r + 1) * 2 ^ k ∧ 2 * r * 2 ^ k ≤ 2 * m + 2 ^ k ∧
      ((2 * m = (2 * r + 1) * 2 ^ k ∨ 2 * r * 2 ^ k = 2 * m + 2 ^ k) → r % 2 = 0)) ∧
    (mode = 1 → r * 2 ^ k ≤ m) ∧
    (mode = 2 → if neg then r * 2 ^ k ≤ m else m ≤ r * 2 ^ k) ∧ (mode = 3 → if neg then m ≤ r * 2 ^ k else r * 2 ^ k ≤ m) := by
  obtain ⟨hi, rem, half, hhalf, hrem, hpow, rfl, hround⟩ := roundAt_of_lt h mode neg m
  have hmul (x : Nat) : (2 * x) * (2 * half) = 2 * (x * (2 * half)) := Nat.mul_assoc ..
  cases hs : roundsUp mode neg (nbit hi 0) rem half
  case false =>
    simp only [hround, hpow, hs, b2n, decide_eq_true_eq, Bool.false_eq_true, if_false, Nat.add_mul, hmul]
    refine ⟨by omega, by omega, by omega, ?nearest, fun _ => by omega, ?up, ?down⟩
    case nearest =>
      rintro rfl
      simp [roundsUp, nbit] at hs
      omega
    case up | down =>
      rintro rfl
      cases neg <;> simp [roundsUp] at hs ⊢
      omega
  case true =>
    have hpos := rem_pos_of_roundsUp hhalf hs
    simp only [hround, hpow, hs, b2n, decide_eq_true_eq, if_true, Nat.add_mul, hmul]
    refine ⟨by omega, by omega, by omega, ?nearest, ?zero, ?up, ?down⟩
    case nearest =>
      rintro rfl
      simp [roundsUp, nbit] at hs
      omega
    case zero =>
      rintro rfl
      cases hs
    case up | down =>
      rintro rfl
      cases neg <;> simp [roundsUp] at hs ⊢
      omega

/-! ### Bits of a normal number (R139, R140) -/

/-- m × 2^g is a normal number of the format, m holding all p bits. -/
structure NormalIn (f : Fmt) (m : Nat) (g : Int) : Prop where
  low : 2 ^ (f.p - 1) ≤ m
  high : m < 2 ^ (f.p - 1 + 1)
  floor : f.qmin ≤ g
  ceil : g + (f.p - 1 : Nat) ≤ f.bias

/-- The bits of a sign, an exponent field and a fraction. -/
def packBits (f : Fmt) (neg : Bool) (ex fr : Nat) : Nat := ex * 2 ^ (f.p - 1) + fr + b2n neg * 2 ^ (f.bits - 1)

/-- The bits of the normal number (−1)^neg × m × 2^g. -/
def normalBits (f : Fmt) (neg : Bool) (m : Nat) (g : Int) : Nat := packBits f neg ((g - f.qmin).toNat + 1) (m - 2 ^ (f.p - 1))

/-- A format is a sign, ew bits of exponent and p − 1 of fraction; the least weight and the bias follow from p and ew (R139). -/
theorem fmt_bits_eq (f : Fmt) : f.bits - 1 = f.ew + (f.p - 1) ∧ f.bits - 2 + 1 - (f.p - 1) = f.ew := by cases f <;> decide
theorem fmt_qmin_eq (f : Fmt) : f.qmin = 2 - f.bias - f.p ∧ (2 ^ f.ew : Int) = 2 * f.bias + 2 ∧ 0 < f.p ∧ 0 < f.bias := by cases f <;> decide

section
variable {f : Fmt} {neg : Bool} {ex fr : Nat}

/-- Packed fields are read back. -/
theorem packBits_fields (hex : ex < 2 ^ f.ew) (hfr : fr < 2 ^ (f.p - 1)) :
    nbit (packBits f neg ex fr) (f.bits - 1) = neg ∧ nfld (packBits f neg ex fr) (f.bits - 2) (f.p - 1) = ex ∧
      packBits f neg ex fr % 2 ^ (f.p - 1) = fr := by
  obtain ⟨hsign, hwidth⟩ := fmt_bits_eq f
  have hpack : packBits f neg ex fr = fr + 2 ^ (f.p - 1) * (ex + 2 ^ f.ew * b2n neg) := by
    rw [packBits, hsign, Nat.pow_add]; ring
  have hquot : packBits f neg ex fr / 2 ^ (f.p - 1) = ex + 2 ^ f.ew * b2n neg := by
    rw [hpack, Nat.add_mul_div_left _ _ (Nat.two_pow_pos _), Nat.div_eq_of_lt hfr, Nat.zero_add]
  refine ⟨?_, ?_, ?_⟩
  · rw [nbit, hsign, Nat.add_comm, Nat.pow_add, ← Nat.div_div_eq_div_mul, hquot, Nat.add_mul_div_left _ _ (Nat.two_pow_pos _),
      Nat.div_eq_of_lt hex]
    cases neg <;> rfl
  · rw [nfld, hwidth, hquot, Nat.add_mul_mod_self_left, Nat.mod_eq_of_lt hex]
  · rw [hpack, Nat.add_mul_mod_self_left, Nat.mod_eq_of_lt hfr]

variable {m : Nat} {g : Int}

/-- The bits of a normal number encode it. -/
theorem ofBits_normalBits (h : NormalIn f m g) : FV.ofBits f (normalBits f neg m g) = .fin neg m g := by
  obtain ⟨hlow, hhigh, hfloor, hceil⟩ := h
  obtain ⟨hqmin, hew, hp, -⟩ := fmt_qmin_eq f
  have hex : (g - f.qmin).toNat + 1 < 2 ^ f.ew - 1 := by
    zify [Nat.one_le_two_pow]
    omega
  obtain ⟨hneg, hexp, hfrac⟩ := packBits_fields (f := f) (neg := neg) (ex := (g - f.qmin).toNat + 1) (fr := m - 2 ^ (f.p - 1)) (by omega)
    (by rw [Nat.pow_succ] at hhigh; omega)
  simp only [FV.ofBits, normalBits, hneg, hexp, hfrac, if_neg hex.ne, Nat.succ_ne_zero, if_false, Nat.sub_add_cancel hlow]
  congr 1
  omega

/-! ### ROUND of a normal number (R147) -/

variable {mode n : Nat} {e : Int}

/-- n × 2^e and m × 2^g are the same value. -/
def SameValue (n : Nat) (e : Int) (m : Nat) (g : Int) : Prop := ∃ i j : Nat, n * 2 ^ i = m * 2 ^ j ∧ e - i = g - j

/-- A multiple of 2^g is kept. -/
theorem roundAt_same (h : SameValue n e m g) : roundAt mode neg n e g = (m, true) := by
  obtain ⟨i, j, hv, he⟩ := h
  rcases le_or_gt g e with hge | hlt
  · obtain ⟨k, rfl⟩ : ∃ k : Nat, e = g + k := ⟨(e - g).toNat, by omega⟩
    obtain rfl : i = k + j := by omega
    rw [Nat.pow_add, ← Nat.mul_assoc] at hv
    rw [roundAt_of_le hge, add_sub_cancel_left, Int.toNat_natCast, Nat.eq_of_mul_eq_mul_right (Nat.two_pow_pos j) hv]
  · obtain ⟨k, rfl⟩ : ∃ k : Nat, g = e + k := ⟨(g - e).toNat, by omega⟩
    obtain rfl : j = k + i := by omega
    rw [Nat.pow_add, ← Nat.mul_assoc] at hv
    obtain ⟨hi, rem, half, hhalf, hrem, hpow, hn, hround⟩ := roundAt_of_lt hlt mode neg n
    rw [add_sub_cancel_left, Int.toNat_natCast] at hpow
    obtain ⟨rfl, rfl⟩ : rem = 0 ∧ hi = m := by
      rw [Nat.eq_of_mul_eq_mul_right (Nat.two_pow_pos i) hv, hpow, Nat.mul_comm m, Nat.mul_comm hi] at hn
      constructor
      · simpa [Nat.mod_eq_of_lt hrem] using congrArg (· % (2 * half)) hn.symm
      · simpa [Nat.mul_add_div, Nat.div_eq_of_lt hrem, hhalf] using congrArg (· / (2 * half)) hn.symm
    have hdown : roundsUp mode neg (nbit hi 0) 0 half = false :=
      Bool.eq_false_iff.mpr fun hs => (rem_pos_of_roundsUp hhalf hs).false
    rw [hround, hdown]
    rfl

theorem ilog2_mul_two_pow (hn : n ≠ 0) (i : Nat) : ilog2 (n * 2 ^ i) = ilog2 n + i := by
  induction i with
  | zero => rw [Nat.pow_zero, Nat.mul_one, Nat.add_zero]
  | succ i ih =>
    rw [Nat.pow_succ, ← Nat.mul_assoc, Nat.mul_comm, ilog2, Nat.log2_two_mul (Nat.mul_ne_zero hn (Nat.two_pow_pos i).ne')]
    exact congrArg (· + 1) ih

/-- The place of the leading bit belongs to the value. -/
theorem ilog2_same (h : SameValue n e m g) (hm : m ≠ 0) : n ≠ 0 ∧ e + ilog2 n = g + ilog2 m := by
  obtain ⟨i, j, hv, he⟩ := h
  have hn : n ≠ 0 := by
    rintro rfl
    simp [hm] at hv
  have hlog := congrArg ilog2 hv
  rw [ilog2_mul_two_pow hn, ilog2_mul_two_pow hm] at hlog
  exact ⟨hn, by omega⟩

/-- A value that is a normal number of the format rounds to it in every mode, with no flag. -/
theorem round_normal (h : NormalIn f m g) (hv : SameValue n e m g) : round f mode (.fin neg n e) = (normalBits f neg m g, 0) := by
  obtain ⟨hlow, hhigh, hfloor, hceil⟩ := h
  obtain ⟨-, -, hp, -⟩ := fmt_qmin_eq f
  have hm : m ≠ 0 := (Nat.two_pow_pos _).trans_le hlow |>.ne'
  have hlog : ilog2 m = f.p - 1 := (Nat.log2_eq_iff hm).mpr ⟨hlow, hhigh⟩
  obtain ⟨hn, htop⟩ := ilog2_same hv hm
  have hq : (if e + (ilog2 n : Int) - f.p + 1 < f.qmin then f.qmin else e + ilog2 n - f.p + 1) = g := by
    rw [if_neg (by omega)]; omega
  simp only [round, if_neg hn, hq, roundAt_same hv, hlog]
  rw [if_neg (by omega), if_neg (by omega)]
  rfl

end

/-! ### EXP2 of an integer (R154) -/

section
variable {f : Fmt} {neg sa : Bool} {m n a c x : Nat} {g e ea k : Int}

/-- A nonzero integer of at most p bits, no larger than the format goes, is a normal number of it. -/
theorem normalIn_of_nat (hn : n ≠ 0) (hl : ilog2 n < f.p) (hb : ilog2 n ≤ f.bias) :
    NormalIn f (n * 2 ^ (f.p - 1 - ilog2 n)) (ilog2 n - (f.p - 1 : Nat)) ∧
      SameValue n 0 (n * 2 ^ (f.p - 1 - ilog2 n)) (ilog2 n - (f.p - 1 : Nat)) := by
  obtain ⟨hqmin, -, hp, hbias⟩ := fmt_qmin_eq f
  have hm : n * 2 ^ (f.p - 1 - ilog2 n) ≠ 0 := Nat.mul_ne_zero hn (Nat.two_pow_pos _).ne'
  have hlog : (n * 2 ^ (f.p - 1 - ilog2 n)).log2 = f.p - 1 := (ilog2_mul_two_pow hn _).trans (by omega)
  obtain ⟨hlow, hhigh⟩ := (Nat.log2_eq_iff hm).mp hlog
  exact ⟨⟨hlow, hhigh, by omega, by omega⟩, f.p - 1 - ilog2 n, 0, by rw [Nat.pow_zero, Nat.mul_one], by omega⟩

theorem mantAt_zero (e low : Int) : mantAt neg 0 e low = 0 := by cases neg <;> simp [mantAt]

theorem mantAt_self (m : Nat) (e : Int) : mantAt neg m e e = if neg then -(m : Int) else m := by simp [mantAt]

/-- A nonzero value brought to a lower exponent is made up again from its signed integer. -/
theorem ofInt_mantAt (hm : m ≠ 0) (e low : Int) (z : Bool) : FV.ofInt (mantAt neg m e low) low z = .fin neg (m * 2 ^ (e - low).toNat) low := by
  have hpos : (0 : Int) < (m * 2 ^ (e - low).toNat : Nat) := by positivity
  cases neg
  · simp only [FV.ofInt, mantAt, Bool.false_eq_true, if_false, if_neg hpos.ne', Int.natAbs_natCast, hpos.not_gt, decide_false]
  · simp only [FV.ofInt, mantAt, if_true, if_neg (neg_neg_of_pos hpos).ne, Int.natAbs_neg, Int.natAbs_natCast, neg_neg_of_pos hpos, decide_true]

/-- One step of the polynomial at the fraction 0 gives its coefficient. -/
theorem rne_mul_zero_add (ha : FV.ofBits f a = .fin sa n ea) (hc : FV.ofBits f c = .fin neg m g) (h : NormalIn f m g) :
    rne f (((FV.ofBits f a).mul (.fin false 0 e)).add 0 (FV.ofBits f c)) = normalBits f neg m g := by
  have hm : m ≠ 0 := (Nat.two_pow_pos _).trans_le h.low |>.ne'
  rw [ha, hc, rne]
  simp only [FV.mul, FV.add, Nat.mul_zero, mantAt_zero, zero_add, ofInt_mantAt hm]
  refine congrArg Prod.fst (round_normal h ⟨0, (g - if ea + e ≤ g then ea + e else g).toNat, by rw [Nat.pow_zero, Nat.mul_one], ?_⟩)
  split <;> omega

/-- At the fraction 0 the three steps give c2, c1 and 1.0. -/
theorem exp2_polynomial_zero (e : Int) :
    rne .s (((FV.ofBits .s 0x3DA1F63E).mul (.fin false 0 e)).add 0 (FV.ofBits .s 0x3E6656AB)) = 0x3E6656AB ∧
    rne .s (((FV.ofBits .s 0x3E6656AB).mul (.fin false 0 e)).add 0 (FV.ofBits .s 0x3F322B85)) = 0x3F322B85 ∧
    rne .s (((FV.ofBits .s 0x3F322B85).mul (.fin false 0 e)).add 0 (FV.ofBits .s 0x3F800000)) = 0x3F800000 := by
  have h3 : FV.ofBits .s 0x3DA1F63E = .fin false 0xA1F63E (-27) := by decide
  have h2 : FV.ofBits .s 0x3E6656AB = .fin false 0xE656AB (-26) := by decide
  have h1 : FV.ofBits .s 0x3F322B85 = .fin false 0xB22B85 (-24) := by decide
  have h0 : FV.ofBits .s 0x3F800000 = .fin false 0x800000 (-23) := by decide
  exact ⟨rne_mul_zero_add h3 h2 ⟨by decide, by decide, by decide, by decide⟩,
    rne_mul_zero_add h2 h1 ⟨by decide, by decide, by decide, by decide⟩,
    rne_mul_zero_add h1 h0 ⟨by decide, by decide, by decide, by decide⟩⟩

/-- EXP2 of bits that encode an integer k whose power of two is a normal number. -/
theorem opExp2_integer (hx : FV.ofBits .s x = .fin neg m e) (he : e < 0) (hk : mantAt neg m e e = k * 2 ^ (-e).toNat) (hlo : -126 ≤ k)
    (hhi : k ≤ 127) : (opExp2 ⟨x, c⟩).y = (k + 127).toNat * 2 ^ 23 ∧ (opExp2 ⟨x, c⟩).fl = 0 := by
  have hpos : (0 : Int) < 2 ^ (-e).toNat := by positivity
  have hlt : (FV.fin neg m e).lt (.fin false 128 0) = true := by
    simp only [FV.lt, if_pos he.le, hk, decide_eq_true_eq]
    simp only [mantAt, zero_sub, Bool.false_eq_true, if_false]
    push_cast
    exact mul_lt_mul_of_pos_right (by omega) hpos
  obtain ⟨hp1, hp2, hp3⟩ := exp2_polynomial_zero e
  have hexp : (nfld 0x3F800000 30 23 : Int) = 127 := by decide
  rw [mantAt_self] at hk
  simp only [opExp2, hx, hlt, if_neg he.not_ge, hk, Int.mul_emod_left, Int.toNat_zero, hp1, hp2, hp3, Int.mul_ediv_cancel _ hpos.ne', hexp,
    Bool.not_true, Bool.false_eq_true, if_false, if_neg (show ¬127 + k < 1 by omega), if_neg (show ¬254 < 127 + k by omega), add_comm k]
  exact ⟨Nat.zero_add _, rfl⟩

/-- The bits that a small integer rounds to encode it, below the binary point with zeros. -/
theorem ofBits_round_ofInt (hlo : -126 ≤ k) (hhi : k ≤ 127) : ∃ neg m e,
    FV.ofBits .s (round .s 0 (FV.ofInt k 0 false)).1 = .fin neg m e ∧ e < 0 ∧ mantAt neg m e e = k * 2 ^ (-e).toNat := by
  rcases eq_or_ne k 0 with rfl | hk
  · exact ⟨false, 0, -149, by decide, by decide, by decide⟩
  have hn : k.natAbs ≠ 0 := Int.natAbs_ne_zero.mpr hk
  have hlog : ilog2 k.natAbs < 7 := (Nat.log2_lt hn).mpr (by omega)
  obtain ⟨hnormal, hsame⟩ := normalIn_of_nat (f := .s) hn (hlog.trans (by decide)) (by change _ ≤ (127 : Int); omega)
  have hp : Fmt.s.p - 1 = 23 := rfl
  refine ⟨decide (k < 0), _, _, by rw [FV.ofInt, if_neg hk, round_normal hnormal hsame, ofBits_normalBits hnormal], by omega, ?_⟩
  rw [hp, mantAt_self, show (-((ilog2 k.natAbs : Int) - (23 : Nat))).toNat = 23 - ilog2 k.natAbs by omega]
  push_cast
  rcases lt_or_gt_of_ne hk with hneg | hpos
  · simp [hneg, abs_of_neg hneg]
  · simp [hpos.not_gt, abs_of_pos hpos]

end

/-- Settles O7: rounding by `roundAt_neighbour`; an integer is a normal number of FP32 or 0, and its fraction is 0 (`opExp2_integer`). -/
theorem roundingAndExp2 : Obligations.RoundingAndExp2 := by
  refine ⟨fun mode neg m e q _ => roundAt_neighbour, fun n c hlo hhi => ?_⟩
  obtain ⟨neg, m, e, hx, he, hk⟩ := ofBits_round_ofInt hlo hhi
  exact opExp2_integer hx he hk hlo hhi

end Sys2Proof.Machine
end

section
/-!
PROOFS. Scalar floating point (R135, R150, R161 to R171, O5, O6): what a completed instruction has written where it raises SIG_THRESHOLD
(`Applied.marked`), and the ends of an FP instruction (`fpEnds_of_scalar`, `flagged_ends`).
-/

namespace Sys2Proof.Machine

/-! ### A cause after the whole effect (R135) -/

/-- What SIG_THRESHOLD finds: `u` has the registers of the effect `e`, its flags in FPFLAGS, the lanes in SIGLANES, and every memory of `s`. -/
structure Marked (s u : State) (os : List Opnd) (e : Effect) (lanes : Nat) : Prop where
  g : ∀ n, u.gval n = s.gAfter os e.g n
  f : ∀ n, u.fAt n = s.fAfter os e.f n
  v : ∀ r, u.v r = after e.v r (s.v r)
  fpflags : u.me.fpflags = s.me.fpflags ||| w64 e.flags
  siglanes : u.me.siglanes = w64 lanes
  memory : SameMemory s u

theorem SameMemory.consumeAll (s : State) (os : List Opnd) : SameMemory s (s.consumeAll os) := by
  refine SameMemory.foldl os _ (fun s o => ?_) s
  split
  · split
    · exact SameMemory.modMe s _
    · exact SameMemory.setFullG s _ _
  · exact SameMemory.refl s

theorem gval_modMe (s : State) (f : Ctx → Ctx) (n : Nat) (hf : ∀ t, (f t).g = t.g) : (s.modMe f).gval n = s.gval n := by
  simp [State.gval, hf]

theorem fAt_modMe (s : State) (f : Ctx → Ctx) (n : Nat) (hf : ∀ t, (f t).f = t.f) : (s.modMe f).fAt n = s.fAt n := by
  simp [State.fAt, hf]

theorem v_modMe (s : State) (f : Ctx → Ctx) (r : VReg) (hf : ∀ t, (f t).v = t.v) : (s.modMe f).v r = s.v r := by
  simp [State.v, hf]

theorem gval_complete (s₀ s : State) (pc : Word) (n : Nat) : (s₀.complete s pc).gval n = s.gval n := by
  rw [complete_eq]
  split <;> exact gval_modMe s _ n fun _ => rfl

theorem fAt_complete (s₀ s : State) (pc : Word) (n : Nat) : (s₀.complete s pc).fAt n = s.fAt n := by
  rw [complete_eq]
  split <;> exact fAt_modMe s _ n fun _ => rfl

/-- The registers as at the instruction's completion: `consumeAll` reads neither SIGLANES nor what the completion resets. -/
theorem Applied.marked {s w : State} {e : Effect} (h : Applied s w e) (hmem : SameMemory s w) (os : List Opnd) (pc : Word) (lanes : Nat)
    (hg : ∀ n, n ≠ 0 → refills os (false, n) = e.g.any (fun d => d.1.num.toNat == n && GReg.now d.1))
    (hf : ∀ n, refills os (true, n) = e.f.any (fun d => d.1.num.toNat == n)) :
    Marked s (((w.modMe (fun t => { t with siglanes := w64 lanes })).consumeAll os).modMe (fun t => t.settle pc)) os e lanes := by
  have hc := h.completes os pc hg hf
  have hw := consumeAll_emptied w os
  have hm := consumeAll_emptied (w.modMe (fun t => { t with siglanes := w64 lanes })) os
  refine ⟨fun n => ?g, fun n => ?f, fun r => ?v, ?fpflags, ?siglanes, ?memory⟩
  case g => rw [← hc.g n, gval_complete, hw.g, gval_modMe, hm.g, gval_modMe] <;> exact fun _ => rfl
  case f => rw [← hc.f n, fAt_complete, hw.f, fAt_modMe, hm.f, fAt_modMe] <;> exact fun _ => rfl
  case v => rw [v_modMe, hm.v, v_modMe, h.v] <;> exact fun _ => rfl
  case fpflags => rw [State.me_modMe, Ctx.settle_fpflags, hm.fpflags, State.me_modMe, h.fpflags]
  case siglanes =>
    have hrest := congrArg Ctx.siglanes hm.rest
    rw [State.me_modMe] at hrest ⊢
    exact hrest
  case memory => exact ((hmem.trans (.modMe _ _)).trans (.consumeAll _ os)).trans (.modMe _ _)

/-- A cause after the whole effect of an instruction. -/
theorem exec_of_after {s w : State} {i j : Instr} {size : Nat} {g : Guard} {os : List Opnd} {eff : State → Res} {code : Nat}
    {tval tstat : Word} (hx : exec i s = s.run j size g os eff) (hgd : s.guard g = true) (hm : s.modsOk (condsOf os) = true)
    (he : eff s = .after code tval tstat w) :
    let u := (w.consumeAll os).modMe (fun t => t.settle (s.me.pc + w64 size))
    exec i s = .next (u.raise s.cur.1 s.cur.2 code tval tstat (u.following s.cur.1 s.cur.2 (s.me.pc + w64 size))) := by
  simp [hx, State.run, hgd, hm, he, State.finish]

/-! ### The ends of a floating-point instruction (R135, R150, R161) -/

section
variable {s : State} {k : DClass} {n fl lanes : Nat} {write : State → Res}

theorem fpEnd_of_enabled (h : fl &&& s.fpEnabled ≠ 0) :
    s.fpEnd k n fl lanes write = .trap (fpCause (fl &&& s.fpEnabled)) (w64 (fl + lanes * 2 ^ 32)) (destStat k n) s := if_pos h

theorem fpEnd_of_not_enabled (h : fl &&& s.fpEnabled = 0) : s.fpEnd k n fl lanes write = write (s.orFlags fl) := if_neg (not_not_intro h)

theorem sigEnd_zero : s.sigEnd k n 0 = .done s := rfl

theorem sigEnd_of_ne (h : lanes ≠ 0) :
    s.sigEnd k n lanes = .after Cause.sigThreshold s.me.pc (destStat k n) (s.modMe (fun t => { t with siglanes := w64 lanes })) := if_pos h

theorem belowSig_orFlags (c : Nat) : (s.orFlags fl).belowSig c = s.belowSig c := by simp [State.belowSig, State.orFlags]

theorem pc_orFlags : (s.orFlags fl).me.pc = s.me.pc := by simp [State.orFlags]

end

section
variable {s : State} {i j : Instr} {size : Nat} {g : Guard} {l : List Opnd} {eff : State → Res}

/-- An instruction that ends by `fpScalar` (R161). -/
theorem fpEnds_of_scalar {d : FReg} {f : Fmt} {r : FR} (hx : exec i s = s.run j size g (.dstF d :: l) eff) (hl : noDst l = true)
    (hgd : s.guard g = true) (hm : s.modsOk (condsOf (.dstF d :: l)) = true) (he : eff s = s.fpScalar d f r) :
    FpEnds i s size (.dstF d :: l) d f r := by
  refine ⟨fun hfl => ?trap, fun hfl hsig => ?runs, fun hfl hsig => ?after⟩
  case trap => exact traps_of hx hgd hm (by rw [he, State.fpScalar, fpEnd_of_enabled hfl, Nat.zero_mul, Nat.add_zero])
  case runs =>
    refine runs_f hx hl hgd hm ?_
    rw [he, State.fpScalar, fpEnd_of_not_enabled hfl]
    simp only [belowSig_orFlags, hsig]
    rfl
  case after =>
    have ha := ((Applied.refl s).orFlags rfl r.fl).putF rfl d (w64 (r.y + (2 ^ 64 - 2 ^ f.bits))) r.c
    have hk := ha.marked ((SameMemory.modMe s _).trans (.modMe _ _)) (.dstF d :: l) (s.me.pc + w64 size) 1
      (fun n _ => by simp [refills_dstF_g hl]) (fun n => by simp [refills_dstF hl])
    refine ⟨_, exec_of_after hx hgd hm ?_, hk.f, hk.fpflags, hk.siglanes, hk.g, hk.memory⟩
    rw [he, State.fpScalar, fpEnd_of_not_enabled hfl]
    simp only [belowSig_orFlags, hsig]
    rw [sigEnd_of_ne (by decide), State.putFp, State.putF, State.me_modMe, pc_orFlags]
    rfl

/-- An instruction that ends by `fpEnd` alone: an enabled flag raises, otherwise the effect comes with the flags. -/
theorem flagged_ends {os : List Opnd} {k : DClass} {n fl lanes : Nat} {write : State → State} {e : Effect}
    (hx : exec i s = s.run j size g os eff) (hgd : s.guard g = true) (hm : s.modsOk (condsOf os) = true)
    (he : eff s = s.fpEnd k n fl lanes (fun s => .done (write s))) (ha : Applied s (write (s.orFlags fl)) e)
    (hg : ∀ n, n ≠ 0 → refills os (false, n) = e.g.any (fun d => d.1.num.toNat == n && GReg.now d.1))
    (hf : ∀ n, refills os (true, n) = e.f.any (fun d => d.1.num.toNat == n)) :
    (fl &&& s.fpEnabled = 0 → Runs i s size os e) ∧
    (fl &&& s.fpEnabled ≠ 0 → Traps i s (fpCause (fl &&& s.fpEnabled)) (w64 (fl + lanes * 2 ^ 32)) (destStat k n)) := by
  refine ⟨fun hfl => ?_, fun hfl => traps_of hx hgd hm (by rw [he, fpEnd_of_enabled hfl])⟩
  rw [Runs, hx]
  exact run_done hgd hm (by rw [he, fpEnd_of_not_enabled hfl]) ha hg hf

end

/-! ### The shared forms of rows 6 and 7: `hx` holds by `rfl` -/

section
variable {s : State} {i j : Instr} {g : Guard} {d a b c : FReg} {p : PReg} {f : Fmt} {k : Cond}

theorem fp1_ends (op : Nat → FC2 → FR) (hgd : s.guard g = true) (hm : s.modsOk (condsOf [.dstF d, .srcF a]) = true)
    (hx : exec i s = s.fp1 j g d a f op) : FpEnds i s 8 [.dstF d, .srcF a] d f (op s.fpMode (s.fop f a)) :=
  fpEnds_of_scalar hx rfl hgd hm rfl

theorem fp2_ends (op : Nat → FC2 → FC2 → FR) (hgd : s.guard g = true) (hm : s.modsOk (condsOf [.dstF d, .srcF a, .srcF b]) = true)
    (hx : exec i s = s.fp2 j g d a b f op) : FpEnds i s 8 [.dstF d, .srcF a, .srcF b] d f (op s.fpMode (s.fop f a) (s.fop f b)) :=
  fpEnds_of_scalar hx rfl hgd hm rfl

theorem fp3_ends (op : Nat → FC2 → FC2 → FC2 → FR) (hgd : s.guard g = true)
    (hm : s.modsOk (condsOf [.dstF d, .srcF a, .srcF b, .srcF c]) = true) (hx : exec i s = s.fp3 j g d a b c f op) :
    FpEnds i s 12 [.dstF d, .srcF a, .srcF b, .srcF c] d f (op s.fpMode (s.fop f a) (s.fop f b) (s.fop f c)) :=
  fpEnds_of_scalar hx rfl hgd hm rfl

theorem fpCmp_ends (hgd : s.guard g = true) (hm : s.modsOk (condsOf [.srcF a, .srcF b]) = true) (hx : exec i s = s.fpCmp j g p a b f k) :
    let r := opCmp f k (s.fop f a) (s.fop f b)
    (r.2 &&& s.fpEnabled = 0 → Runs i s 8 [.srcF a, .srcF b] { p := some (p, r.1), flags := r.2 }) ∧
    (r.2 &&& s.fpEnabled ≠ 0 → Traps i s (fpCause (r.2 &&& s.fpEnabled)) (w64 r.2) (destStat .p p.toNat)) := by
  intro r
  exact flagged_ends (lanes := 0) hx hgd hm rfl (((Applied.refl s).orFlags rfl r.2).putP rfl p r.1) (fun _ _ => refills_noDst rfl _)
    (fun _ => refills_noDst rfl _)

end

/-! ### Instructions with an effect of their own -/

section
variable (s : State) (g : Guard) (d a : FReg) (gd ga : GReg) (f sf : Fmt) (rm : Rnd) (ic : IntCode)

theorem exec_fround : exec (.fround g d a f rm) s = execFround g d a f rm s := rfl
theorem exec_fcvt : exec (.fcvt g d a f sf) s = execFcvt g d a f sf s := rfl
theorem exec_itof : exec (.itof g d ga f ic) s = execItof g d ga f ic s := rfl
theorem exec_fclass : exec (.fclass g gd a f) s = execFclass g gd a f s := rfl
theorem exec_ftoi : exec (.ftoi g gd a f ic rm) s = execFtoi g gd a f ic rm s := rfl
theorem exec_fmov : exec (.fmov g d a) s = execFmov g d a s := rfl
theorem exec_fmvg : exec (.fmvg g gd a) s = execFmvg g gd a s := rfl
theorem exec_fmvf : exec (.fmvf g d ga f) s = execFmvf g d ga f s := rfl
theorem exec_sget : exec (.sget g gd a) s = execSget g gd a s := rfl
theorem exec_sset : exec (.sset g d ga) s = execSset g d ga s := rfl

end

/-- Settles O5: each instruction by the form it runs through, which ends by `fpScalar`. -/
theorem scalarFpComputes : Obligations.ScalarFpComputes := by
  intro s g d a b c f sf rm ga ic hgd
  refine ⟨fun hm => ?two, fun hm => ⟨?one, ?exp2⟩, fun hm => ?three, fun hm => ?itof⟩
  case two =>
    simp only [List.forall_mem_cons]
    exact ⟨fp2_ends (fun m => opAdd f m false) hgd hm rfl, fp2_ends (fun m => opAdd f m true) hgd hm rfl, fp2_ends (opMul f) hgd hm rfl,
      fp2_ends (opDiv f) hgd hm rfl, fp2_ends (fun _ => opMinMax f false) hgd hm rfl, fp2_ends (fun _ => opMinMax f true) hgd hm rfl,
      fp2_ends (fun _ => opCpys f) hgd hm rfl, List.forall_mem_nil _⟩
  case one =>
    simp only [List.forall_mem_cons]
    exact ⟨fp1_ends (opSqrt f) hgd hm rfl, fp1_ends (fun _ => opAbs f) hgd hm rfl, fp1_ends (fun _ => opNeg f) hgd hm rfl,
      fpEnds_of_scalar (exec_fround s g d a f rm) rfl hgd hm rfl, fpEnds_of_scalar (exec_fcvt s g d a f sf) rfl hgd hm rfl,
      List.forall_mem_nil _⟩
  case exp2 => exact fp1_ends (fun _ => opExp2) hgd hm rfl
  case three =>
    simp only [List.forall_mem_cons]
    exact ⟨fp3_ends (fun m => opFma f m false false) hgd hm rfl, fp3_ends (fun m => opFma f m false true) hgd hm rfl,
      fp3_ends (fun m => opFma f m true true) hgd hm rfl, fp3_ends (fun m => opFma f m true false) hgd hm rfl, List.forall_mem_nil _⟩
  case itof => exact fpEnds_of_scalar (exec_itof s g d ga f ic) rfl hgd hm rfl

/-- Settles O6: compares and FTOI by `flagged_ends`, the moves and counts by what they write. -/
theorem scalarFpMovesAndCompares : Obligations.ScalarFpMovesAndCompares := by
  intro s g p d fd a b ga f ic rm hgd
  refine ⟨fun hm => ?compare, fun hm => ⟨?fclass, ?fmvg, ?sget, ?ftoi⟩, fun hm => ?fmov, fun hm => ⟨?fmvf, ?sset⟩⟩
  case compare =>
    simp only [List.forall_mem_cons]
    exact ⟨fpCmp_ends hgd hm rfl, fpCmp_ends hgd hm rfl, fpCmp_ends hgd hm rfl, fpCmp_ends hgd hm rfl, List.forall_mem_nil _⟩
  case fclass => exact runs_g (exec_fclass s g a d f) rfl hgd hm rfl
  case fmvg => exact runs_g (exec_fmvg s g a d) rfl hgd hm rfl
  case sget => exact runs_g (exec_sget s g a d) rfl hgd hm rfl
  case ftoi =>
    intro r
    exact flagged_ends (lanes := 0) (exec_ftoi s g a d f rm ic) hgd hm rfl
      (((Applied.refl s).orFlags rfl r.2).putG d (BitVec.ofInt 64 r.1)) (fun n _ => refills_dst rfl d _ n) (refills_dst_f rfl d)
  case fmov => exact runs_f0 (exec_fmov s g fd a) rfl hgd hm rfl
  case fmvf => exact runs_f0 (exec_fmvf s g fd ga f) rfl hgd hm rfl
  case sset => exact runs_f0 (exec_sset s g fd ga) rfl hgd hm rfl

end Sys2Proof.Machine
end

section
/-!
PROOFS. Vector floating point (R174 to R179, O8): the end of a vector FP instruction (`vecEnds_of_vecEnd`), and a reduction without elements.
-/

namespace Sys2Proof.Machine

/-! ### The end of a vector FP instruction (R135, R174) -/

section
variable {s : State} {i j : Instr} {size : Nat} {g : Guard} {d a b c : VReg} {f : Fmt} {gm : GMask} {eff : State → Res}

theorem v_orFlags (fl : Nat) (r : VReg) : (s.orFlags fl).v r = s.v r := v_modMe s _ r fun _ => rfl

theorem cmpOn_orFlags (fl l : Nat) : (s.orFlags fl).cmpOn gm f l = s.cmpOn gm f l := by
  cases gm <;> simp [State.cmpOn, State.laneOn, State.q, State.orFlags]

theorem vecEnds_of_vecEnd {rs : List (Nat × FR)} (hx : exec i s = s.run j size g [] eff) (hgd : s.guard g = true)
    (he : eff s = s.vecEnd d f rs) : VecEnds i s size d f rs := by
  refine ⟨fun hfl => ?trap, fun hfl hlow => ?runs, fun hfl hlow => ?after⟩
  case trap => exact traps_of hx hgd rfl (by rw [he, State.vecEnd, fpEnd_of_enabled hfl])
  case runs =>
    refine runs_0 hx rfl hgd rfl ?_ (((Applied.refl s).orFlags rfl (allFlags rs)).putV rfl d _) rfl rfl
    rw [he, State.vecEnd, fpEnd_of_not_enabled hfl]
    simp only [belowSig_orFlags, v_orFlags, hlow]
    exact sigEnd_zero
  case after =>
    have ha := ((Applied.refl s).orFlags rfl (allFlags rs)).putV rfl d (rs.foldl (fun v r => v.setElem f r.1 r.2.y r.2.c) (s.v d))
    have hk := ha.marked ((SameMemory.modMe s _).trans (.modMe _ _)) [] (s.me.pc + w64 size)
      (lanesWhere f (fun r => s.belowSig (Nat.min r.c f.p)) rs) (fun _ _ => rfl) (fun _ => rfl)
    refine ⟨_, exec_of_after hx hgd rfl ?_, hk.v, hk.fpflags, hk.siglanes, fun n => (hk.g n).trans (gAfter_nil s n), hk.f, hk.memory⟩
    rw [he, State.vecEnd, fpEnd_of_not_enabled hfl]
    simp only [belowSig_orFlags, v_orFlags]
    rw [sigEnd_of_ne hlow, State.putV, State.me_modMe, pc_orFlags]

theorem vfp1_ends (op : Nat → FC2 → FR) (hgd : s.guard g = true) (hx : exec i s = s.vfp1 j g d a f gm op) :
    VecEnds i s 8 d f (s.each gm f (fun e => op s.fpMode ((s.v a).elem f e))) := vecEnds_of_vecEnd hx hgd rfl

theorem vfp2_ends (op : Nat → FC2 → FC2 → FR) (hgd : s.guard g = true) (hx : exec i s = s.vfp2 j g d a b f gm op) :
    VecEnds i s 8 d f (s.each gm f (fun e => op s.fpMode ((s.v a).elem f e) ((s.v b).elem f e))) := vecEnds_of_vecEnd hx hgd rfl

theorem vfp3_ends (op : Nat → FC2 → FC2 → FC2 → FR) (hgd : s.guard g = true) (hx : exec i s = s.vfp3 j g d a b c f gm op) :
    VecEnds i s 12 d f (s.each gm f (fun e => op s.fpMode ((s.v a).elem f e) ((s.v b).elem f e) ((s.v c).elem f e))) :=
  vecEnds_of_vecEnd hx hgd rfl

/-- A vector instruction that writes d alone, without flags. -/
theorem runs_v {l : List Opnd} {v : VVal} (hx : exec i s = s.run j size g l eff) (hl : noDst l = true) (hgd : s.guard g = true)
    (hm : s.modsOk (condsOf l) = true) (he : eff s = .done (s.putV d v)) : Runs i s size l { v := some (d, v) } :=
  runs_0 hx hl hgd hm he ((Applied.refl s).putV rfl d v) rfl rfl

/-- A conversion to integer lanes (R177). -/
theorem vecEndInt_ends {rs : List (Nat × FR)} (hx : exec i s = s.run j size g [] eff) (hgd : s.guard g = true)
    (he : eff s = s.vecEndInt d rs) :
    (allFlags rs &&& s.fpEnabled = 0 → Runs i s size []
      { v := some (d, rs.foldl (fun v r => v.setLane r.1 (BitVec.ofNat 32 r.2.y) 0) (s.v d)), flags := allFlags rs }) ∧
    (allFlags rs &&& s.fpEnabled ≠ 0 → Traps i s (fpCause (allFlags rs &&& s.fpEnabled))
      (w64 (allFlags rs + lanesWhere .s (fun r => r.fl &&& s.fpEnabled != 0) rs * 2 ^ 32)) (destStat .v d.toNat)) := by
  refine flagged_ends hx hgd rfl he ?_ (fun _ _ => rfl) (fun _ => rfl)
  rw [v_orFlags]
  exact ((Applied.refl s).orFlags rfl (allFlags rs)).putV rfl d _

end

/-! ### A reduction without elements (R178) -/

theorem redLevel_none (op : FC2 → FC2 → FR) : ∀ n, redLevel op (List.replicate (2 * n) none) = (List.replicate n none, 0)
  | 0 => rfl
  | n + 1 => by simp [Nat.mul_succ, List.replicate_succ, redLevel, redNode, redLevel_none op n]

theorem redTree_none (op : FC2 → FC2 → FR) (k fl : Nat) : redTree op k (List.replicate (2 ^ k) none) fl = (none, fl) := by
  induction k generalizing fl with
  | zero => rfl
  | succ k ih => rw [redTree, Nat.pow_succ', redLevel_none, Nat.or_zero, ih]

theorem elems_eq_two_pow (f : Fmt) : elems f = 2 ^ Nat.log2 (elems f) := by cases f <;> decide

theorem redRes_of_inactive {s : State} {gm : GMask} {f : Fmt} (h : ∀ e, s.active gm f e = false) (a : VReg) (op : RedOp) :
    s.redRes a f gm op = ⟨(redEmpty (redFmt f) op).x, (redEmpty (redFmt f) op).c, 0⟩ := by
  simp only [State.redRes, h, Bool.false_eq_true, if_false, List.map_const', List.length_range]
  rw [elems_eq_two_pow f, Nat.log2_two_pow, redTree_none]
  rfl

/-! ### Instructions with an effect of their own -/

section
variable (s : State) (g : Guard) (d a b : VReg) (q : QReg) (fd : FReg) (f : Fmt) (gm : GMask) (k : Cond) (half : Bool)

theorem exec_vcmp : exec (.vcmp g q a b f gm k half) s = execVcmp g q a b f gm k half s := rfl
theorem exec_vsget : exec (.vsget g d a gm) s = execVsget g d a gm s := rfl
theorem exec_vsset : exec (.vsset g d a f gm) s = execVsset g d a f gm s := rfl
theorem exec_vcvt (w : CvtOp) : exec (.vcvt g d a gm w half) s = execVcvt g d a gm w half s := rfl
theorem exec_vred (op : RedOp) : exec (.vred g fd a f gm op) s = execVred g fd a f gm op s := rfl

end

/-- Settles O8: each element-wise instruction and each conversion ends by `vecEnd`; VCMP and the conversions to integers by `flagged_ends`. -/
theorem vectorFpComputes : Obligations.VectorFpComputes := by
  refine ⟨fun s g d a b c f gm hgd => ⟨?elementwise, ?exp2, ?three⟩,
    fun s g d a b q fd f gm k half op hgd => ⟨?compare, ?vsget, ?vsset, ?betweenFormats, ?fromInt, ?toInt, fun hm => ?vred, fun h => ?empty⟩⟩
  case elementwise =>
    simp only [List.forall_mem_cons]
    exact ⟨vfp2_ends (fun m => opAdd f m false) hgd rfl, vfp2_ends (fun m => opAdd f m true) hgd rfl, vfp2_ends (opMul f) hgd rfl,
      vfp2_ends (opDiv f) hgd rfl, vfp2_ends (fun _ => opMinMax f false) hgd rfl, vfp2_ends (fun _ => opMinMax f true) hgd rfl,
      vfp1_ends (fun _ => opAbs f) hgd rfl, vfp1_ends (fun _ => opNeg f) hgd rfl, vfp1_ends (opSqrt f) hgd rfl, List.forall_mem_nil _⟩
  case exp2 => exact vfp1_ends (fun _ => opExp2) hgd rfl
  case three =>
    simp only [List.forall_mem_cons]
    exact ⟨vfp3_ends (fun m => opFma f m false false) hgd rfl, vfp3_ends (fun m => opFma f m false true) hgd rfl, List.forall_mem_nil _⟩
  case compare =>
    refine flagged_ends (exec_vcmp s g a b q f gm k half) hgd rfl rfl ?_ (fun _ _ => rfl) (fun _ => rfl)
    simp only [cmpOn_orFlags]
    exact ((Applied.refl s).orFlags rfl _).putQ rfl q _
  case vsget => exact runs_v (exec_vsget s g d a gm) rfl hgd rfl rfl
  case vsset => exact runs_v (exec_vsset s g d a f gm) rfl hgd rfl rfl
  case betweenFormats =>
    have ends {w df rs} := vecEnds_of_vecEnd (d := d) (f := df) (rs := rs) (exec_vcvt s g d a gm half w) hgd
    simp only [List.forall_mem_cons]
    exact ⟨ends rfl, ends rfl, ends rfl, ends rfl, ends rfl, ends rfl, List.forall_mem_nil _⟩
  case fromInt =>
    simp only [List.forall_mem_cons]
    exact ⟨vecEnds_of_vecEnd (exec_vcvt s g d a gm half .sW) hgd rfl, vecEnds_of_vecEnd (exec_vcvt s g d a gm half .sWn) hgd rfl,
      List.forall_mem_nil _⟩
  case toInt =>
    simp only [List.forall_mem_cons]
    exact ⟨vecEndInt_ends (exec_vcvt s g d a gm half .wS) hgd rfl, vecEndInt_ends (exec_vcvt s g d a gm half .wnS) hgd rfl,
      List.forall_mem_nil _⟩
  case vred => exact fpEnds_of_scalar (exec_vred s g a fd f gm op) rfl hgd hm rfl
  case empty => exact redRes_of_inactive h a op

end Sys2Proof.Machine
end

section
/-!
PROOFS. Vector integers, masks and lane movement (R180 to R183, R188, R189, O9, O10): the fields of a lane that `laneWise` puts together,
a word operation where the lane is one field, and the lanes that a masked write changes.
-/

namespace Sys2Proof.Machine

/-! ### The fields of a lane (R180) -/

/-- Fields of n bits side by side stay below the next place. -/
theorem fields_lt {n : Nat} {c : Nat → Nat} (hc : ∀ k, c k < 2 ^ n) (m : Nat) :
    (List.range m).foldl (fun acc k => acc + c k * 2 ^ (n * k)) 0 < 2 ^ (n * m) := by
  induction m with
  | zero => exact Nat.one_pos
  | succ m ih =>
    rw [List.range_succ, List.foldl_append, List.foldl_cons, List.foldl_nil, Nat.mul_succ, Nat.pow_add]
    calc _ < 2 ^ (n * m) + c m * 2 ^ (n * m) := Nat.add_lt_add_right ih _
      _ = (c m + 1) * 2 ^ (n * m) := by rw [Nat.succ_mul, Nat.add_comm]
      _ ≤ 2 ^ n * 2 ^ (n * m) := Nat.mul_le_mul_right _ (hc m)
      _ = _ := Nat.mul_comm _ _

/-- Each field reads back at its place. -/
theorem field_of_fields {n : Nat} {c : Nat → Nat} (hc : ∀ k, c k < 2 ^ n) {m j : Nat} (hj : j < m) :
    (List.range m).foldl (fun acc k => acc + c k * 2 ^ (n * k)) 0 / 2 ^ (n * j) % 2 ^ n = c j := by
  induction m with
  | zero => exact absurd hj (Nat.not_lt_zero j)
  | succ m ih =>
    rw [List.range_succ, List.foldl_append, List.foldl_cons, List.foldl_nil]
    obtain rfl | hlt := (Nat.lt_succ_iff.mp hj).eq_or_lt
    · rw [Nat.add_mul_div_right _ _ (Nat.two_pow_pos _), Nat.div_eq_of_lt (fields_lt hc j), Nat.zero_add, Nat.mod_eq_of_lt (hc j)]
    · have hsplit : c m * 2 ^ (n * m) = c m * 2 ^ (n * (m - j - 1)) * 2 ^ n * 2 ^ (n * j) := by
        have hm : n * m = n * (m - j - 1) + (n + n * j) := by
          rw [← mul_one_add, ← Nat.mul_add]
          congr 1
          omega
        rw [Nat.mul_assoc, Nat.mul_assoc, ← Nat.pow_add, ← Nat.pow_add, ← hm]
      rw [hsplit, Nat.add_mul_div_right _ _ (Nat.two_pow_pos _), Nat.add_mul_mod_self_right, ih hlt]

theorem laneWise_field {n : Nat} (hn : n * (32 / n) = 32) (f : Nat → Nat → Nat) (x y : BitVec 32) {j : Nat} (hj : j < 32 / n) :
    (laneWise n f x y).toNat / 2 ^ (n * j) % 2 ^ n =
      f (x.toNat / 2 ^ (n * j) % 2 ^ n) (y.toNat / 2 ^ (n * j) % 2 ^ n) % 2 ^ n := by
  have hc : ∀ k, f (x.toNat / 2 ^ (n * k) % 2 ^ n) (y.toNat / 2 ^ (n * k) % 2 ^ n) % 2 ^ n < 2 ^ n :=
    fun k => Nat.mod_lt _ (Nat.two_pow_pos n)
  have hlt := fields_lt hc (32 / n)
  rw [hn] at hlt
  rw [laneWise, BitVec.toNat_ofNat, Nat.mod_eq_of_lt hlt]
  exact field_of_fields hc hj

theorem vwBits_dvd (vw : VW) : vwBits vw * (32 / vwBits vw) = 32 := by cases vw <;> rfl

/-! ### A lane that is one field -/

theorem laneWise_word (f : Nat → Nat → Nat) (x y : BitVec 32) : laneWise 32 f x y = BitVec.ofNat 32 (f x.toNat y.toNat) := by
  refine BitVec.eq_of_toNat_eq ?_
  have h := laneWise_field (n := 32) rfl f x y Nat.one_pos
  simpa [Nat.mod_eq_of_lt x.isLt, Nat.mod_eq_of_lt y.isLt, Nat.mod_eq_of_lt (laneWise 32 f x y).isLt] using h

/-- An operation on numbers that is one on words. -/
theorem laneWise_of_toNat {f : Nat → Nat → Nat} {op : BitVec 32 → BitVec 32 → BitVec 32}
    (h : ∀ x y, f x.toNat y.toNat % 2 ^ 32 = (op x y).toNat) (x y : BitVec 32) : laneWise 32 f x y = op x y := by
  rw [laneWise_word]
  exact BitVec.eq_of_toNat_eq ((BitVec.toNat_ofNat ..).trans (h x y))

theorem laneWise_sub (x y : BitVec 32) : laneWise 32 (fun x y => x + 2 ^ 32 - y) x y = x - y :=
  laneWise_of_toNat (fun x y => by rw [BitVec.toNat_sub]; omega) x y

theorem laneWise_sar (x y : BitVec 32) :
    laneWise 32 (fun x y => (signed 32 x / 2 ^ (y % 32) % 2 ^ 32).toNat) x y = x.sshiftRight (y.toNat % 32) := by
  rw [laneWise_word, signed_toNat, ← BitVec.ofInt_toInt (x := x.sshiftRight _), BitVec.toInt_sshiftRight, Int.shiftRight_eq_div_pow]
  refine BitVec.eq_of_toNat_eq ?_
  rw [BitVec.toNat_ofNat, BitVec.toNat_ofInt]
  push_cast
  omega

/-! ### A masked write (R172, R180) -/

theorem mem_lanesOn {s : State} {gm : GMask} {l : Nat} : l ∈ s.lanesOn gm ↔ l < 32 ∧ s.laneOn gm l = true := by
  rw [State.lanesOn, List.mem_filter, List.mem_range]

/-- Entries of a list replaced one after another, each place by one value. -/
theorem nth_setAts {α : Type} (d : α) (x : Nat → α) (ls : List Nat) (xs : List α) {i : Nat} (hi : i < xs.length) :
    nth d (ls.foldl (fun xs l => setAt xs l (x l)) xs) i = if i ∈ ls then x i else nth d xs i := by
  induction ls generalizing xs with
  | nil => rfl
  | cons k ls ih =>
    rw [List.foldl_cons, ih _ (by rwa [length_setAt]), nth_setAt]
    by_cases hk : i = k
    · subst hk; simp [hi]
    · simp [hk]

/-- The register d with the governed lanes replaced, their count bytes zero: what `putLanes` writes. -/
def State.lanesPut (s : State) (d : VReg) (gm : GMask) (x : Nat → BitVec 32) : VVal :=
  (s.lanesOn gm).foldl (fun v l => v.setLane l (x l) 0) (s.v d)

theorem putLanes_eq (s : State) (d : VReg) (gm : GMask) (x : Nat → BitVec 32) : s.putLanes d gm x = s.putV d (s.lanesPut d gm x) := rfl

section
variable {s : State} {d : VReg} (gm : GMask) (x : Nat → BitVec 32)

theorem lanes_lanesPut : (s.lanesPut d gm x).lanes = (s.lanesOn gm).foldl (fun xs l => setAt xs l (x l)) (s.v d).lanes :=
  (List.foldl_hom VVal.lanes fun _ _ => rfl).symm

theorem cnts_lanesPut : (s.lanesPut d gm x).cnts = (s.lanesOn gm).foldl (fun cs l => setAt cs l 0) (s.v d).cnts :=
  (List.foldl_hom VVal.cnts fun _ _ => rfl).symm

theorem lane_lanesPut {l : Nat} (hl : l < 32) (hd : (s.v d).lanes.length = 32) :
    (s.lanesPut d gm x).lane l = if s.laneOn gm l then x l else (s.v d).lane l := by
  rw [VVal.lane, lanes_lanesPut, nth_setAts 0 x _ _ (by omega)]
  simp only [mem_lanesOn, hl, true_and]
  rfl

theorem cnt_lanesPut {l : Nat} (hl : l < 32) (hd : (s.v d).cnts.length = 32) :
    (s.lanesPut d gm x).cnt l = if s.laneOn gm l then 0 else (s.v d).cnt l := by
  rw [VVal.cnt, cnts_lanesPut, nth_setAts 0 (fun _ => 0) _ _ (by omega)]
  simp only [mem_lanesOn, hl, true_and]
  rfl

end

/-! ### Vector integers (R180) -/

section
variable {s : State} {i j : Instr} {g : Guard} {d a b : VReg} {n : Nat} {gm : GMask} {f : Nat → Nat → Nat}

theorem vint_runs (hgd : s.guard g = true) (hx : exec i s = s.vint j g d a b n gm f) :
    Runs i s 8 [] { v := some (d, s.lanesPut d gm (fun l => laneWise n f ((s.v a).lane l) ((s.v b).lane l))) } :=
  runs_v hx rfl hgd rfl (congrArg Res.done (putLanes_eq ..))

/-- A vector integer operation by words (R180). -/
theorem vint_runs_word (op : BitVec 32 → BitVec 32 → BitVec 32) (hgd : s.guard g = true) (hx : exec i s = s.vint j g d a b 32 gm f)
    (hop : ∀ x y, laneWise 32 f x y = op x y) :
    Runs i s 8 [] { v := some (d, s.lanesPut d gm (fun l => op ((s.v a).lane l) ((s.v b).lane l))) } := by
  simpa only [hop] using vint_runs hgd hx

/-- A vector integer operation by elements (R180). -/
theorem vint_runs_elems (vw : VW) (f : Nat → Nat → Nat) (hgd : s.guard g = true) (hx : exec i s = s.vint j g d a b (vwBits vw) gm f) :
    ∃ v, Runs i s 8 [] { v := some (d, v) } ∧
      (∀ l, l < 32 → (s.v d).cnts.length = 32 → v.cnt l = if s.laneOn gm l then 0 else (s.v d).cnt l) ∧
      ∀ l k, l < 32 → (s.v d).lanes.length = 32 → k < 32 / vwBits vw → (v.lane l).toNat / 2 ^ (vwBits vw * k) % 2 ^ vwBits vw =
        if s.laneOn gm l then f (((s.v a).lane l).toNat / 2 ^ (vwBits vw * k) % 2 ^ vwBits vw)
            (((s.v b).lane l).toNat / 2 ^ (vwBits vw * k) % 2 ^ vwBits vw) % 2 ^ vwBits vw
        else ((s.v d).lane l).toNat / 2 ^ (vwBits vw * k) % 2 ^ vwBits vw := by
  refine ⟨_, vint_runs hgd hx, fun l hl hd => cnt_lanesPut gm _ hl hd, fun l k hl hd hk => ?_⟩
  rw [lane_lanesPut gm _ hl hd]
  split
  · exact laneWise_field (vwBits_dvd vw) f _ _ hk
  · rfl

end

theorem toNat_ite_mod (h : Prop) [Decidable h] (x y : BitVec 32) :
    (if h then x.toNat else y.toNat) % 2 ^ 32 = (if h then x else y).toNat := by
  rw [← apply_ite BitVec.toNat, Nat.mod_eq_of_lt (BitVec.isLt _)]

/-- Settles O9: a lane of 32 bits is one field (`laneWise_word`), and the fields of any width read back (`laneWise_field`). -/
theorem vectorIntegerComputes : Obligations.VectorIntegerComputes := by
  intro s g d a b un gm hgd X Y put
  refine ⟨?words, fun vw => ?elements⟩
  case words =>
    have runs {i j f} := vint_runs_word (s := s) (i := i) (j := j) (g := g) (d := d) (a := a) (b := b) (gm := gm) (f := f)
    simp only [List.forall_mem_cons]
    exact ⟨runs (· + ·) hgd rfl (laneWise_of_toNat fun x y => (BitVec.toNat_add x y).symm),
      runs (· - ·) hgd rfl laneWise_sub,
      runs (· * ·) hgd rfl (laneWise_of_toNat fun x y => (BitVec.toNat_mul x y).symm),
      runs (· &&& ·) hgd rfl (laneWise_of_toNat fun x y => Nat.mod_eq_of_lt (x &&& y).isLt),
      runs (· ||| ·) hgd rfl (laneWise_of_toNat fun x y => Nat.mod_eq_of_lt (x ||| y).isLt),
      runs (· ^^^ ·) hgd rfl (laneWise_of_toNat fun x y => Nat.mod_eq_of_lt (x ^^^ y).isLt),
      runs (fun x y => x <<< (y.toNat % 32)) hgd rfl (laneWise_of_toNat fun x y => by rw [BitVec.toNat_shiftLeft, Nat.shiftLeft_eq]; rfl),
      runs (fun x y => x >>> (y.toNat % 32)) hgd rfl (laneWise_of_toNat fun x y => by
        rw [← Nat.shiftRight_eq_div_pow]; exact Nat.mod_eq_of_lt (x >>> (y.toNat % 32)).isLt),
      runs (fun x y => x.sshiftRight (y.toNat % 32)) hgd rfl laneWise_sar,
      runs (fun x y => if leBits un 32 x.toNat y.toNat then x else y) hgd rfl (laneWise_of_toNat fun x y => toNat_ite_mod _ x y),
      runs (fun x y => if leBits un 32 x.toNat y.toNat then y else x) hgd rfl (laneWise_of_toNat fun x y => toNat_ite_mod _ y x),
      List.forall_mem_nil _⟩
  case elements =>
    simp only [List.forall_mem_cons]
    have runs {i j} (f) (hx : exec i s = s.vint j g d a b (vwBits vw) gm f) := vint_runs_elems vw f hgd hx
    exact ⟨runs (· + ·) rfl, runs (fun x y => x + 2 ^ vwBits vw - y) rfl, runs (· * ·) rfl, runs (fun x y => x * 2 ^ (y % vwBits vw)) rfl,
      runs (fun x y => x / 2 ^ (y % vwBits vw)) rfl,
      runs (fun x y => (signed (vwBits vw) x / 2 ^ (y % vwBits vw) % 2 ^ vwBits vw).toNat) rfl,
      runs (fun x y => if leBits un (vwBits vw) x y then x else y) rfl, runs (fun x y => if leBits un (vwBits vw) x y then y else x) rfl,
      List.forall_mem_nil _⟩

/-! ### Masks and lane movement (R181 to R183, R188, R189) -/

theorem noDst_anySrc (a : AnyGF) {l : List Opnd} (hl : noDst l = true) : noDst (anySrc a :: l) = true := by
  cases a <;> exact hl

section
variable {s : State} {i j : Instr} {size : Nat} {g : Guard} {l : List Opnd} {eff : State → Res}

/-- An instruction that writes a q register alone. -/
theorem runs_q {d : QReg} {v : BitVec 32} (hx : exec i s = s.run j size g l eff) (hl : noDst l = true) (hgd : s.guard g = true)
    (hm : s.modsOk (condsOf l) = true) (he : eff s = .done (s.putQ d v)) : Runs i s size l { q := some (d, v) } :=
  runs_0 hx hl hgd hm he ((Applied.refl s).putQ rfl d v) rfl rfl

theorem elemIndex_of_lt {dc : VData} {b : GReg} {k : Nat → Res} (h : (s.g b).toNat < vcount dc) :
    s.elemIndex dc b k = k (s.g b).toNat := if_pos h

theorem elemIndex_of_ge {dc : VData} {b : GReg} {k : Nat → Res} (h : vcount dc ≤ (s.g b).toNat) :
    s.elemIndex dc b k = .trap Cause.vectorLength (s.g b) (w64 (vcount dc)) s := if_neg (Nat.not_lt.mpr h)

end

section
variable (s : State) (g : Guard) (d a b c : VReg) (q x y : QReg) (gd ga gb : GReg) (fd : FReg) (sc : AnyGF) (gm : GMask) (dc : VData)

theorem exec_vicmp (ww : VWw) (un : Bool) (k : ICond) : exec (.vicmp g q a b ww un gm k) s = execVicmp g q a b ww un gm k s := rfl
theorem exec_vsel : exec (.vsel g d a b x) s = execVsel g d a b x s := rfl
theorem exec_qand : exec (.qand g q x y) s = execQand g q x y s := rfl
theorem exec_qor : exec (.qor g q x y) s = execQor g q x y s := rfl
theorem exec_qxor : exec (.qxor g q x y) s = execQxor g q x y s := rfl
theorem exec_qnot : exec (.qnot g q x) s = execQnot g q x s := rfl
theorem exec_qpop : exec (.qpop g gd x) s = execQpop g gd x s := rfl
theorem exec_qmovToG : exec (.qmovToG g gd x) s = execQmovToG g gd x s := rfl
theorem exec_qmovToQ : exec (.qmovToQ g q ga) s = execQmovToQ g q ga s := rfl
theorem exec_vmov : exec (.vmov g d a gm) s = execVmov g d a gm s := rfl
theorem exec_vshuf : exec (.vshuf g d a b c gm) s = execVshuf g d a b c gm s := rfl
theorem exec_viota : exec (.viota g d ga gb gm) s = execViota g d ga gb gm s := rfl
theorem exec_vins : exec (.vins g d sc gb dc) s = execVins g d sc gb dc s := rfl
theorem exec_vext (r : AnyGF) : exec (.vext g r a gb dc) s = execVext g r a gb dc s := rfl

end

/-- Settles O10: each instruction by what it writes; VINS and VEXT by their index (`elemIndex_of_lt`, `elemIndex_of_ge`). -/
theorem masksAndLanesMove : Obligations.MasksAndLanesMove := by
  intro s g d a b c q x y gd ga gb fd sc ww vw un gm k dc hgd
  refine ⟨?completes, ?vicmp, ?vsel, ?masks, fun hm => ⟨?qpop, ?fromMask⟩, fun hm => ?toMask, ⟨?vmov, ?vshuf, fun hm => ?viota⟩,
    fun hm => ?vbcast, fun hm => ⟨fun hlt => ?vins, fun hge => ?vinsPast⟩, fun hm => ⟨fun hlt => ?vext, fun hge => ?vextPast⟩,
    fun hm => ⟨fun hlt => ?vextF, fun hge => ?vextFPast⟩⟩
  case completes =>
    have runs {i j n f} (hx : exec i s = s.vint j g d a b n gm f) : ∃ v, Runs i s 8 [] { v := some (d, v) } := ⟨_, vint_runs hgd hx⟩
    simp only [List.forall_mem_cons]
    exact ⟨runs rfl, runs rfl, runs rfl, runs rfl, runs rfl, runs rfl, runs rfl, runs rfl, runs rfl, runs rfl, runs rfl,
      List.forall_mem_nil _⟩
  case vicmp => exact runs_q (exec_vicmp s g a b q gm ww un k) rfl hgd rfl rfl
  case vsel => exact runs_v (exec_vsel s g d a b x) rfl hgd rfl rfl
  case masks =>
    simp only [List.forall_mem_cons]
    exact ⟨runs_q (exec_qand s g q x y) rfl hgd rfl rfl, runs_q (exec_qor s g q x y) rfl hgd rfl rfl,
      runs_q (exec_qxor s g q x y) rfl hgd rfl rfl, runs_q (exec_qnot s g q x) rfl hgd rfl rfl, List.forall_mem_nil _⟩
  case qpop => exact runs_g (exec_qpop s g x gd) rfl hgd hm (by rw [popcount_eq]; rfl)
  case fromMask => exact runs_g (exec_qmovToG s g x gd) rfl hgd hm rfl
  case toMask => exact runs_q (exec_qmovToQ s g q ga) rfl hgd hm rfl
  case vmov => exact runs_v (exec_vmov s g d a gm) rfl hgd rfl rfl
  case vshuf => exact runs_v (exec_vshuf s g d a b c gm) rfl hgd rfl rfl
  case viota => exact runs_v (exec_viota s g d ga gb gm) rfl hgd hm rfl
  case vbcast => exact runs_v (exec_vbcast g d sc dc gm s) (noDst_anySrc sc rfl) hgd hm rfl
  case vins => exact runs_v (exec_vins s g d gb sc dc) (noDst_anySrc sc rfl) hgd hm (elemIndex_of_lt hlt)
  case vinsPast => exact traps_of (exec_vins s g d gb sc dc) hgd hm (elemIndex_of_ge hge)
  case vext => exact runs_g (exec_vext s g a gb dc (.g gd)) rfl hgd hm (elemIndex_of_lt hlt)
  case vextPast => exact traps_of (exec_vext s g a gb dc (.g gd)) hgd hm (elemIndex_of_ge hge)
  case vextF => exact runs_f0 (exec_vext s g a gb dc (.f fd)) rfl hgd hm (elemIndex_of_lt hlt)
  case vextFPast => exact traps_of (exec_vext s g a gb dc (.f fd)) hgd hm (elemIndex_of_ge hge)

end Sys2Proof.Machine
end

section
/-!
PROOFS. Matrix commands at issue (R192, R204, R213, O27): the full queue, the failed check, and the entry in the queue.
-/

namespace Sys2Proof.Machine

/-! ### The checks as the statement writes them -/

theorem orTrap_eq_or (a b : Option Trap) : orTrap a b = a.or b := by cases a <;> rfl

/-- The position word of SMXA fails on bit 63 first, then on its column count (R226). -/
theorem posTrap_eq (e : Word) : posTrap e =
    if bit e 63 then some ⟨Cause.boundCheck, e, 1⟩ else if 32 < fld e 61 56 then some ⟨Cause.boundCheck, e, 2⟩ else none := by
  cases h : bit e 63 <;> simp [posTrap, orTrap, failIf, h]

/-- A register group of FP16 or BF16 elements holds two to a lane (R203). -/
theorem groupRegs_ofMma (f : MmaFmt) (k : Nat) : (ofMma f).groupRegs k = k / 2 := by
  have hbits : (ofMma f).bits = 16 := by cases f <;> rfl
  rw [OFmt.groupRegs, hbits]
  omega

theorem noDst_opndsPlane (pl : Bool) (c : GReg) : noDst (opndsPlane pl c) = true := by cases pl <;> rfl

/-! ### The three ends of a command's issue -/

/-- A command's issue with the failed check `bad`, if any, and the queue entry of `op`. -/
def Commands (i : Instr) (s : State) (size : Nat) (os : List Opnd) (bad : Option Trap) (op : QOp) : Prop :=
  (16 ≤ s.myCore.mq.length → Bubbles i s) ∧
  (s.myCore.mq.length < 16 → ∀ t, bad = some t → Raises i s t) ∧
  (s.myCore.mq.length < 16 → bad = none → RunsWith i s
    (s.modMyCore (fun k => k.enqueue s.cur.2 s.me.fpctl op ((s.ownPend s.cur.1 s.cur.2).map (·.id)))) size os {})

section
variable {s : State} {bad : Option Trap} {op : QOp}

theorem command_full (h : 16 ≤ s.myCore.mq.length) : s.command bad op = .bubble s := by
  simp [State.command, Core.queueFull, h]

theorem command_fails {t : Trap} (h : s.myCore.mq.length < 16) (hb : bad = some t) : s.command bad op = .raise s t := by
  simp [State.command, Core.queueFull, Nat.not_le.mpr h, hb]

theorem command_enters (h : s.myCore.mq.length < 16) (hb : bad = none) : s.command bad op =
    .done (s.modMyCore (fun k => k.enqueue s.cur.2 s.me.fpctl op ((s.ownPend s.cur.1 s.cur.2).map (·.id)))) := by
  simp [State.command, Core.queueFull, Nat.not_le.mpr h, hb]

/-- An instruction that does not issue. -/
theorem bubbles_of {i j : Instr} {size : Nat} {g : Guard} {os : List Opnd} {eff : State → Res}
    (hx : exec i s = s.run j size g os eff) (hgd : s.guard g = true) (hm : s.modsOk (condsOf os) = true)
    (he : eff s = .bubble s) : Bubbles i s := by
  rw [Bubbles, hx]
  simp [State.run, hgd, hm, he, State.finish]

/-- An instruction whose effect is a command ends its issue in one of the three ways. -/
theorem commands_of {i j : Instr} {size : Nat} {g : Guard} {os : List Opnd} {eff : State → Res}
    (hx : exec i s = s.run j size g os eff) (he : eff s = s.command bad op) (hn : noDst os = true) (hgd : s.guard g = true)
    (hm : s.modsOk (condsOf os) = true) : Commands i s size os bad op := by
  refine ⟨fun hfull => ?_, fun hroom t hb => ?_, fun hroom hb => ?_⟩
  · exact bubbles_of hx hgd hm (he.trans (command_full hfull))
  · exact traps_of hx hgd hm (he.trans (command_fails hroom hb))
  · have hs := SamePlace.modMyCore s
      (f := fun k => k.enqueue s.cur.2 s.me.fpctl op ((s.ownPend s.cur.1 s.cur.2).map (·.id))) (fun _ => rfl)
    exact runs_with_0 hx hn hgd hm (he.trans (command_enters hroom hb)) hs.level hs.dbgctl hs.pc

end

section
variable {s : State} {g : Guard} {d x : AReg} {a b c e : GReg} {fa : FReg} {m : RegImm} {f : MmaFmt} {q : QFmt} {dc : MData}
  {ag bg pl rst : Bool} {kk : BitVec 10} {fs : BitVec 5}

theorem exec_mma : exec (.mma g d a b c e f bg ag kk) s = execMma g d a b c e f bg ag kk s := rfl
theorem exec_mmaq : exec (.mmaq g d a b c e q bg ag kk) s = execMmaq g d a b c e q bg ag kk s := rfl
theorem exec_mzero : exec (.mzero g d) s = execMzero g d s := rfl
theorem exec_mld : exec (.mld g d a b c dc pl) s = execMld g d a b c dc pl s := rfl
theorem exec_mst : exec (.mst g d a b c dc pl) s = execMst g d a b c dc pl s := rfl
theorem exec_mscale : exec (.mscale g d fa m) s = execMscale g d fa m s := rfl
theorem exec_smxa : exec (.smxa g d x b c e f fs) s = execSmxa g d x b c e f fs s := rfl
theorem exec_smxfin : exec (.smxfin g d m rst) s = execSmxfin g d m rst s := rfl
theorem exec_smxmerge : exec (.smxmerge g d x m) s = execSmxmerge g d x m s := rfl
theorem exec_smxld : exec (.smxld g d a m c pl) s = execSmxld g d a m c pl s := rfl
theorem exec_smxst : exec (.smxst g d a m c pl) s = execSmxst g d a m c pl s := rfl
theorem exec_smxinit : exec (.smxinit g d m) s = execSmxinit g d m s := rfl

end

/-- Settles O27: each command's check and capture are those of the statement, and `commands_of` says how its issue ends. -/
theorem matrixCommandsEnqueue : Obligations.MatrixCommandsEnqueue := by
  intro s g d x a b c e fa m f q dc ag bg pl rst kk fs hgd k sc mask plane os4 osD osM opnd scale posBad
  have hsrc (on : Bool) (r1 r2 : GReg) : s.matSrc (ofMma f) on r1 r2 k = opnd on (k / 2) r1 r2 := by
    rw [State.matSrc, groupRegs_ofMma]; rfl
  have hpos : orTrap (posTrap (s.g e)) (checkProb (s.g b) (s.g c) sc) = posBad.or (checkProb (s.g b) (s.g c) sc) := by
    rw [orTrap_eq_or, posTrap_eq]
  have hsame : failIf (d == x) (some ⟨Cause.boundCheck, w64 d.toNat, 3⟩) =
      if d = x then some ⟨Cause.boundCheck, w64 d.toNat, 3⟩ else none := by
    simp [failIf]
  have hD : noDst osD = true := noDst_opndsPlane pl c
  have hM : noDst osM = true := by simp [osM, noDst_opndsPlane]
  have hB : noDst (opndsB m) = true := noDst_opndsB m
  iterate 12 rw [List.forall_mem_cons]
  refine ⟨?mma, ?mmaq, ?mzero, ?mld, ?mst, ?mscale, ?smxa, ?smxfin, ?smxmerge, ?smxld, ?smxst, ?smxinit, List.forall_mem_nil _⟩
  case mma => rw [← hsrc, ← hsrc]; exact commands_of exec_mma rfl rfl hgd
  case mmaq => exact commands_of exec_mmaq rfl rfl hgd
  case mzero => exact commands_of exec_mzero rfl rfl hgd
  case mld => exact commands_of exec_mld rfl hD hgd
  case mst => exact commands_of exec_mst rfl hD hgd
  case mscale => exact commands_of exec_mscale rfl hB hgd
  case smxa => rw [← hpos]; exact commands_of exec_smxa rfl rfl hgd
  case smxfin => exact commands_of exec_smxfin rfl hB hgd
  case smxmerge => rw [← hsame]; exact commands_of exec_smxmerge rfl hB hgd
  case smxld => exact commands_of exec_smxld rfl hM hgd
  case smxst => exact commands_of exec_smxst rfl hM hgd
  case smxinit => exact commands_of exec_smxinit rfl hB hgd

end Sys2Proof.Machine
end

section
/-!
PROOFS. The matrix queue's discards, residues and batches (R192, R206, R208, R209, R221, O32): what a row of the table does with the head of the
queue, what its report and its machine check leave of the core, and the completion of the earliest closed batch.
-/

namespace Sys2Proof.Machine

/-! ### The turn of a row -/

/-- The residue that the row of a command hears of: only the rows of the steps have one (R209). -/
def QOp.residue (res : Residue) : QOp → Residue
  | .mma _ _ _ _ _ => res
  | .mmaq _ _ _ _ _ => res
  | _ => .ok

section
variable (c : Nat) (res : Residue) (s : State)

theorem exec_mmaStepRun : exec (.mmaStepRun c res) s = execMmaStepRun c res s := rfl
theorem exec_mmaqStepRun : exec (.mmaqStepRun c res) s = execMmaqStepRun c res s := rfl
theorem exec_mzeroRun : exec (.mzeroRun c) s = execMzeroRun c s := rfl
theorem exec_mscaleRun : exec (.mscaleRun c) s = execMscaleRun c s := rfl
theorem exec_mldRun : exec (.mldRun c) s = execMldRun c s := rfl
theorem exec_mstRun : exec (.mstRun c) s = execMstRun c s := rfl
theorem exec_smxaRun : exec (.smxaRun c) s = execSmxaRun c s := rfl
theorem exec_smxfinRun : exec (.smxfinRun c) s = execSmxfinRun c s := rfl
theorem exec_smxmergeRun : exec (.smxmergeRun c) s = execSmxmergeRun c s := rfl
theorem exec_smxldRun : exec (.smxldRun c) s = execSmxldRun c s := rfl
theorem exec_smxstRun : exec (.smxstRun c) s = execSmxstRun c s := rfl
theorem exec_smxinitRun : exec (.smxinitRun c) s = execSmxinitRun c s := rfl

/-- A row takes its turn for the commands that it runs, and no others. -/
theorem exec_runOf (op : QOp) : ∃ want : QOp → Bool,
    exec (runOf c res op) s = s.turn c want (op.residue res) ∧ ∀ o, want o = true ↔ runOf c res op = runOf c res o := by
  cases op
  case mma => exact ⟨_, exec_mmaStepRun c res s, fun o => by cases o <;> simp [runOf]⟩
  case mmaq => exact ⟨_, exec_mmaqStepRun c res s, fun o => by cases o <;> simp [runOf]⟩
  case mzero => exact ⟨_, exec_mzeroRun c s, fun o => by cases o <;> simp [runOf]⟩
  case mscale => exact ⟨_, exec_mscaleRun c s, fun o => by cases o <;> simp [runOf]⟩
  case mld => exact ⟨_, exec_mldRun c s, fun o => by cases o <;> simp [runOf]⟩
  case mst => exact ⟨_, exec_mstRun c s, fun o => by cases o <;> simp [runOf]⟩
  case smxa => exact ⟨_, exec_smxaRun c s, fun o => by cases o <;> simp [runOf]⟩
  case smxfin => exact ⟨_, exec_smxfinRun c s, fun o => by cases o <;> simp [runOf]⟩
  case smxmerge => exact ⟨_, exec_smxmergeRun c s, fun o => by cases o <;> simp [runOf]⟩
  case smxld => exact ⟨_, exec_smxldRun c s, fun o => by cases o <;> simp [runOf]⟩
  case smxst => exact ⟨_, exec_smxstRun c s, fun o => by cases o <;> simp [runOf]⟩
  case smxinit => exact ⟨_, exec_smxinitRun c s, fun o => by cases o <;> simp [runOf]⟩

end

theorem QOp.residue_ok (op : QOp) : op.residue .ok = .ok := by cases op <;> rfl

/-- Of a residue retry a row hears that, or nothing. -/
theorem QOp.residue_retried (op : QOp) : op.residue .retried = .retried ∨ op.residue .retried = .ok := by
  cases op <;> simp [QOp.residue]

section
variable {s : State} {c : Nat} {q : QCmd} {rest : List QCmd} {res : Residue}

theorem run_empty (h : (s.core c).mq = []) (op : QOp) : exec (runOf c res op) s = .next s := by
  obtain ⟨want, hx, -⟩ := exec_runOf c res s op
  rw [hx, State.turn, h]

theorem run_early (h : (s.core c).mq = q :: rest) (hm : s.mayComplete c q = false) (op : QOp) : exec (runOf c res op) s = .next s := by
  obtain ⟨want, hx, -⟩ := exec_runOf c res s op
  simp [hx, State.turn, h, hm]

theorem run_otherRow (h : (s.core c).mq = q :: rest) {op : QOp} (hne : runOf c res op ≠ runOf c res q.op) :
    exec (runOf c res op) s = .next s := by
  obtain ⟨want, hx, hw⟩ := exec_runOf c res s op
  have hno : want q.op = false := Bool.eq_false_iff.mpr (fun hy => hne ((hw q.op).mp hy))
  simp [hx, State.turn, h, hno]

section
variable (h : (s.core c).mq = q :: rest) (hm : s.mayComplete c q = true)
include h hm

theorem run_poisoned {src : Nat} (hb : (s.core c).badSource q.op = some src) :
    exec (runOf c res q.op) s = .next ((s.popCmd c q).discardCmd c q src) := by
  obtain ⟨want, hx, hw⟩ := exec_runOf c res s q.op
  simp [hx, State.turn, h, hm, hb, (hw q.op).mpr rfl]

variable (hb : (s.core c).badSource q.op = none)
include hb

theorem run_ok (hr : q.op.residue res = .ok) : exec (runOf c res q.op) s = .next ((s.popCmd c q).doCmd c q) := by
  obtain ⟨want, hx, hw⟩ := exec_runOf c res s q.op
  simp [hx, State.turn, h, hm, hb, hr, (hw q.op).mpr rfl]

theorem run_retried (hr : q.op.residue res = .retried) :
    exec (runOf c res q.op) s = .next (((s.popCmd c q).doCmd c q).tileCheck c 3 true q.pos) := by
  obtain ⟨want, hx, hw⟩ := exec_runOf c res s q.op
  simp [hx, State.turn, h, hm, hb, hr, (hw q.op).mpr rfl]

theorem run_failed (hr : q.op.residue res = .failed) :
    exec (runOf c res q.op) s = .next (((s.popCmd c q).discardCmd c q 0).tileCheck c 3 false q.pos) := by
  obtain ⟨want, hx, hw⟩ := exec_runOf c res s q.op
  simp [hx, State.turn, h, hm, hb, hr, (hw q.op).mpr rfl]

end
end

/-! ### What a machine check leaves of a core (R373) -/

/-- A core without its contexts and the account of its machine checks. -/
def Core.unchecked (k : Core) : Core := { k with ctxs := [], mcLast := [], mcMore := [] }

theorem unchecked_modCore (s : State) (c : Nat) (f : Core → Core) (hf : ∀ k, (f k).unchecked = k.unchecked) (d : Nat) :
    ((s.modCore c f).core d).unchecked = (s.core d).unchecked := by
  by_cases hd : d = c
  · rw [hd, State.core_modCore_same, hf]
  · rw [State.core_modCore_ne s c d f hd]

theorem unchecked_tell (s : State) (t : Target) (e : Ev) (d : Nat) : ((s.tell t e).core d).unchecked = (s.core d).unchecked := by
  cases t with
  | ctx c x =>
    rw [State.tell, State.post]
    split
    · rfl
    · refine unchecked_modCore s c _ (fun k => ?_) d
      rfl
  | resident n p => rfl

theorem unchecked_tileCheck (s : State) (c code : Nat) (corrected : Bool) (low d : Nat) :
    ((s.tileCheck c code corrected low).core d).unchecked = (s.core d).unchecked := by
  rw [State.tileCheck, State.machineCheck]
  simp only [List.foldl_cons, List.foldl_nil]
  split
  · refine unchecked_modCore s c _ (fun k => ?_) d
    rfl
  · rw [unchecked_tell]
    refine unchecked_modCore s c _ (fun k => ?_) d
    rfl

section
variable (s : State) (c code : Nat) (corrected : Bool) (low d : Nat)

theorem acc_tileCheck : ((s.tileCheck c code corrected low).core d).acc = (s.core d).acc :=
  (congrArg Core.acc (unchecked_tileCheck s c code corrected low d) :)

theorem store_tileCheck : ((s.tileCheck c code corrected low).core d).store = (s.core d).store :=
  (congrArg Core.store (unchecked_tileCheck s c code corrected low d) :)

theorem mq_tileCheck : ((s.tileCheck c code corrected low).core d).mq = (s.core d).mq :=
  (congrArg Core.mq (unchecked_tileCheck s c code corrected low d) :)

end

/-! ### What a report leaves of a core (R208, R215) -/

section
variable (k : Core) (q : QCmd)

theorem record_rest (cause : Nat) (stat : Word) :
    { k.record q cause stat with reports := k.reports, reported := k.reported } = k := by
  unfold Core.record
  split
  · split <;> rfl
  · rfl

theorem mq_record (cause : Nat) (stat : Word) : (k.record q cause stat).mq = k.mq := (congrArg Core.mq (record_rest k q cause stat) :)

variable {k q}

/-- The first discard of a batch. -/
theorem record_first {stat : Word} (h : k.reported.contains (q.batch, Cause.poisonOperand) = false) :
    (k.record q Cause.poisonOperand stat).reported = k.reported ++ [(q.batch, Cause.poisonOperand)] ∧
    (k.record q Cause.poisonOperand stat).reports = k.reports ++ [⟨Cause.poisonOperand, q.batch, q.ctx, w64 q.pos, stat⟩] := by
  have hr : k.hasReported q.batch Cause.poisonOperand = false := h
  simp [Core.record, hr]

/-- A further discard of a batch adds no report. -/
theorem record_again {stat : Word} (h : k.reported.contains (q.batch, Cause.poisonOperand) = true) :
    (k.record q Cause.poisonOperand stat).reported = k.reported ∧
    (k.record q Cause.poisonOperand stat).reports.length = k.reports.length := by
  have hr : k.hasReported q.batch Cause.poisonOperand = true := h
  simp [Core.record, hr]

end

/-! ### The head of the queue, discarded or run -/

section
variable (s : State) (c : Nat) (q : QCmd) (src : Nat)

theorem core_popCmd : (s.popCmd c q).core c = { s.core c with mq := (s.core c).mq.drop 1, mqBusy := s.busyUntil c q } := by
  rw [State.popCmd, State.core_modCore_same]

theorem CoreOnly.popCmd : CoreOnly s (s.popCmd c q) c := by
  rw [State.popCmd]
  exact CoreOnly.modCore s c _

theorem core_discardCmd : (s.discardCmd c q src).core c =
    (s.core c).record q Cause.poisonOperand (w64 (q.op.accs.headD 0 + 8 * src)) := by
  unfold State.discardCmd
  simp only
  split
  · rw [State.core_modPart, State.core_modCore_same]
  · rw [State.core_modCore_same]

/-- A discard on behalf of a thread is the record alone. -/
theorem discardCmd_thread (h : q.ctx ≠ noCtx) : s.discardCmd c q src =
    s.modCore c (fun k => k.record q Cause.poisonOperand (w64 (q.op.accs.headD 0 + 8 * src))) := by
  simp [State.discardCmd, h]

/-- The core after the head's discard, but for its reports. -/
theorem core_discarded : { ((s.popCmd c q).discardCmd c q src).core c with reports := (s.core c).reports, reported := (s.core c).reported } =
    { s.core c with mq := (s.core c).mq.drop 1, mqBusy := s.busyUntil c q } := by
  rw [core_discardCmd, core_popCmd]
  exact record_rest _ q _ _

theorem mq_effect (k : Core) (op : QOp) : (k.effect op).1.mq = k.mq := by cases op <;> rfl

theorem mq_doCmd : ((s.doCmd c q).core c).mq = (s.core c).mq := by
  have hc : ((s.core c).complete s.freeCtr q).mq = (s.core c).mq := mq_effect (s.core c) q.op
  rw [State.doCmd]
  simp only [State.core_setCore_same]
  split
  · split
    · rw [mq_record, hc]
    · exact hc
  · exact hc

end

/-! ### The completion of a batch (R206, R221) -/

section
variable (s : State) (c x reg : Nat) (v : Word)

theorem CoreOnly.fill : CoreOnly s (s.fill c x reg v) c := by
  unfold State.fill
  split
  · exact CoreOnly.refl s c
  · split
    · exact CoreOnly.refl s c
    · split
      · exact CoreOnly.modCore s c (fun k => k.setCtx x _)
      · exact CoreOnly.modCore s c _

/-- A fill writes a register, of a context or of the core. -/
theorem core_fill : { (s.fill c x reg v).core c with ctxs := [], s := [] } = { s.core c with ctxs := [], s := [] } := by
  unfold State.fill
  split
  · rfl
  · split
    · rfl
    · split
      · rw [State.core_modCtx_same]; rfl
      · rw [State.core_modCore_same]

end

/-! ### The statements -/

section
variable {s : State} {c : Nat} {q : QCmd} {rest : List QCmd} {res : Residue} (h : (s.core c).mq = q :: rest) (hm : s.mayComplete c q = true)
include h hm

/-- A command of a thread with a poisoned source leaves the queue with its report, and nothing else changes (R208). -/
theorem poisoned_discards {src : Nat} (hb : (s.core c).badSource q.op = some src) (hq : q.ctx ≠ noCtx) :
    Makes (runOf c res q.op) s (fun t =>
      CoreOnly s t c ∧ { t.core c with
        mq := (s.core c).mq, mqBusy := (s.core c).mqBusy, reports := (s.core c).reports, reported := (s.core c).reported } = s.core c ∧
      (t.core c).mq = rest ∧
      ((s.core c).reported.contains (q.batch, Cause.poisonOperand) = false →
        (t.core c).reported = (s.core c).reported ++ [(q.batch, Cause.poisonOperand)] ∧
        (t.core c).reports = (s.core c).reports ++ [⟨Cause.poisonOperand, q.batch, q.ctx, w64 q.pos, w64 (q.op.accs.headD 0 + 8 * src)⟩]) ∧
      ((s.core c).reported.contains (q.batch, Cause.poisonOperand) = true →
        (t.core c).reported = (s.core c).reported ∧ (t.core c).reports.length = (s.core c).reports.length)) := by
  refine ⟨_, run_poisoned h hm hb, ?only, ?rest, ?mq, fun hfirst => ?first, fun hagain => ?again⟩
  case only =>
    rw [discardCmd_thread _ c q src hq]
    exact (CoreOnly.popCmd s c q).trans (CoreOnly.modCore _ c _)
  case rest =>
    have hk := core_discarded s c q src
    exact (congrArg (fun k : Core => { k with mq := (s.core c).mq, mqBusy := (s.core c).mqBusy }) hk :)
  case mq => rw [core_discardCmd, mq_record, core_popCmd, h, List.drop_one, List.tail_cons]
  case first =>
    rw [core_discardCmd, core_popCmd]
    exact record_first hfirst
  case again =>
    rw [core_discardCmd, core_popCmd]
    exact record_again hagain

variable (hb : (s.core c).badSource q.op = none)
include hb

/-- A residue retry gives what the step gives (R209). -/
theorem retried_as_step {u : State} (hu : exec (runOf c .ok q.op) s = .next u) : Makes (runOf c .retried q.op) s (fun t =>
    (t.core c).acc = (u.core c).acc ∧ (t.core c).store = (u.core c).store ∧ (t.core c).mq = rest) := by
  obtain rfl : (s.popCmd c q).doCmd c q = u := Host.Outcome.next.inj ((run_ok h hm hb q.op.residue_ok).symm.trans hu)
  have hmq : (((s.popCmd c q).doCmd c q).core c).mq = rest := by
    rw [mq_doCmd, core_popCmd, h, List.drop_one, List.tail_cons]
  cases q.op.residue_retried with
  | inl hr => exact ⟨_, run_retried h hm hb hr, acc_tileCheck .., store_tileCheck .., (mq_tileCheck ..).trans hmq⟩
  | inr hr => exact ⟨_, run_ok h hm hb hr, rfl, rfl, hmq⟩

/-- A step whose residues do not agree is discarded whole (R209). -/
theorem failed_discards (hr : q.op.residue .failed = .failed) : Makes (runOf c .failed q.op) s (fun t =>
    (t.core c).acc = (s.core c).acc ∧ (t.core c).store = (s.core c).store ∧ (t.core c).mq = rest) := by
  have hk := core_discarded s c q 0
  refine ⟨_, run_failed h hm hb hr, ?_, ?_, ?_⟩
  · exact (acc_tileCheck ..).trans (congrArg Core.acc hk :)
  · exact (store_tileCheck ..).trans (congrArg Core.store hk :)
  · rw [mq_tileCheck, (congrArg Core.mq hk :), h, List.drop_one, List.tail_cons]

end

theorem le_cycle_of_mayComplete {s : State} {c : Nat} {q : QCmd} (hm : s.mayComplete c q = true) : q.cycle + 160 ≤ (s.core c).cycle := by
  have hle : Nat.max (q.cycle + 160) (s.busyUntil c q) ≤ (s.core c).cycle := of_decide_eq_true (Bool.and_eq_true_iff.mp hm).1
  exact (Nat.le_max_left _ _).trans hle

section
variable {s : State} {c : Nat}

theorem exec_matrixBatchComplete : exec (.matrixBatchComplete c) s = execMatrixBatchComplete c s := rfl

theorem batch_none (h : (s.core c).closed = []) : exec (.matrixBatchComplete c) s = .next s := by
  rw [exec_matrixBatchComplete, execMatrixBatchComplete, h]

variable {b : Batch} {bs : List Batch} (h : (s.core c).closed = b :: bs)
include h

theorem batch_waits (hq : (s.core c).mq.any (fun q => q.batch = b.num) = true) : exec (.matrixBatchComplete c) s = .next s := by
  simp [exec_matrixBatchComplete, execMatrixBatchComplete, h, hq]

/-- The state in which the earliest closed batch is over, before its fill. -/
def State.batchOver (s : State) (c : Nat) (b : Batch) (bs : List Batch) : State :=
  s.modCore c (fun k => { k with
    closed := bs, lastBatch := BitVec.ofNat 32 b.num, reported := k.reported.filter (fun r => decide (r.1 ≠ b.num)) })

/-- The fill that MCOMMIT armed for a batch, if any (R221). -/
def State.batchFill (s : State) (c : Nat) (b : Batch) : State :=
  match b.fill with
  | none => s
  | some (x, reg) => s.fill c x reg (w64 b.num)

theorem batch_completes (hq : (s.core c).mq.any (fun q => q.batch = b.num) = false) :
    exec (.matrixBatchComplete c) s = .next ((s.batchOver c b bs).batchFill c b) := by
  simp only [exec_matrixBatchComplete, execMatrixBatchComplete, h, hq]
  rfl

end

theorem CoreOnly.batchFill (s : State) (c : Nat) (b : Batch) : CoreOnly s (s.batchFill c b) c := by
  unfold State.batchFill
  split
  · exact CoreOnly.refl s c
  · exact CoreOnly.fill ..

theorem core_batchFill (s : State) (c : Nat) (b : Batch) :
    { (s.batchFill c b).core c with ctxs := [], s := [] } = { s.core c with ctxs := [], s := [] } := by
  unfold State.batchFill
  split
  · rfl
  · exact core_fill ..

theorem core_batchOver (s : State) (c : Nat) (b : Batch) (bs : List Batch) : (s.batchOver c b bs).core c = { s.core c with
    closed := bs, lastBatch := BitVec.ofNat 32 b.num, reported := (s.core c).reported.filter (fun r => decide (r.1 ≠ b.num)) } :=
  State.core_modCore_same ..

theorem ctx_batchOver (s : State) (c : Nat) (b : Batch) (bs : List Batch) (x : Nat) : (s.batchOver c b bs).ctx c x = s.ctx c x := by
  rw [State.ctx, core_batchOver]
  rfl

/-- Settles O32: the head of the queue discarded, retried or failed, the rows that do nothing, and the completion of a batch. -/
theorem matrixDiscardsAndBatches : Obligations.MatrixDiscardsAndBatches := by
  intro s c q rest res
  refine ⟨fun h hm => ⟨fun src hb hq => poisoned_discards h hm hb hq, fun hb => ⟨fun u => retried_as_step h hm hb, ?failed⟩⟩,
    fun h => run_empty h q.op, fun h hm => run_early h hm q.op, fun h op => run_otherRow h, le_cycle_of_mayComplete, batch_none,
    fun b bs h => ⟨batch_waits h, fun hq => ⟨_, batch_completes h hq, ?batch⟩⟩⟩
  case failed =>
    intro f d a b n hop
    have hf := failed_discards h hm hb (by rw [hop]; rfl)
    rwa [hop] at hf
  case batch =>
    have hover := core_batchOver s c b bs
    have hk := core_batchFill (s.batchOver c b bs) c b
    rw [hover] at hk
    refine ⟨(CoreOnly.modCore s c _).trans (CoreOnly.batchFill _ c b), (congrArg Core.closed hk :), (congrArg Core.lastBatch hk :),
      (congrArg Core.acc hk :), (congrArg Core.store hk :), (congrArg Core.mq hk :), (congrArg Core.reported hk :), fun hf => ?_,
      fun x r hf hl h0 h32 => ?_⟩
    · simp only [State.batchFill, hf, hover]
    · rw [← ctx_batchOver s c b bs x] at hl
      simp only [State.batchFill, hf]
      rw [fill_own hl h0 h32, State.ctx_modCtx_same, tget_tput_same]

end Sys2Proof.Machine
end

section
/-!
PROOFS. Descriptor checks (R198 to R203, R214, R218, R226, R230, O28): the checks of Queue.lean are the failures that the statement lists, and
the issue of a command by its first one.
-/

namespace Sys2Proof.Machine

/-! ### The checks as chains of failures -/

/-- The cause that a failure of a descriptor raises: the register's value and the code. -/
def descCause (c : Word × Nat) : Trap := ⟨Cause.matrixDescriptor, c.1, w64 c.2⟩

theorem nth_eq_getD {α : Type} (d : α) (l : List α) (k : Nat) : nth d l k = l[k]?.getD d := by
  induction l generalizing k with
  | nil => rfl
  | cons x l ih => cases k <;> simp [nth, ih]

/-- LINEADDR as R200 writes it. -/
theorem lineAddr_eq (w : Word) (i : Nat) : lineAddr w i =
    (lineX w i / 2 ^ 17 % 16 + i * (([0, 1, 2, 4, 8, 3, 5, 7] : List Nat)[fld w 35 33]?.getD 0)) % 16 * 2 ^ 17 + lineX w i % 2 ^ 17 := by
  rw [lineAddr, dRot, nth_eq_getD]
  rfl

theorem lineX_eq (w : Word) (i : Nat) : lineX w i = fld w 20 0 + fld w 32 21 * 64 * i := rfl

theorem orTrap_assoc (a b c : Option Trap) : orTrap (orTrap a b) c = orTrap a (orTrap b c) := by
  simp only [orTrap_eq_or, Option.or_assoc]

theorem failIf_some (c : Bool) (t : Trap) : failIf c (some t) = if c then some t else none := rfl

/-- Not by `rfl`: as a definitional step inside a chain it would have the kernel run the tests of the chain. -/
theorem orTrap_none (r : Option Trap) : orTrap none r = r := by rw [orTrap_eq_or, Option.none_or]

/-- The next failure of a chain stands where the earlier ones pass. -/
theorem orTrap_ite (p : Prop) [Decidable p] (t : Trap) (a r : Option Trap) :
    orTrap (if p then some t else a) r = if p then some t else orTrap a r := by
  split <;> rfl

/-- One failure of a chain, as the cause it raises. -/
theorem map_ite_some {α β : Type} (f : α → β) (p : Prop) [Decidable p] (x : α) (r : Option α) :
    (if p then some x else r).map f = if p then some (f x) else r.map f := by
  split <;> rfl

theorem descTrap_eq (v : Word) (code : Nat) (isB second : Bool) : descTrap v code isB second =
    some (descCause (v, if isB then (if second then code + 32 else code) + 16 else if second then code + 32 else code)) := by
  cases isB <;> cases second <;> rfl

/-- The checks of a pair are the failures of `pairFault`. The tests of lines and of scale bytes stay as they are. -/
theorem pairFault_eq (isB quant grp : Bool) (n : Nat) (w1 w2 : Word) (lines scales : List (Nat × Nat)) (sc : Nat) :
    orTrap (checkFirst w1 isB grp n) (orTrap (checkSecond w2 isB quant) (checkBytes w1 w2 isB sc lines scales)) =
      (pairFault isB quant (if grp then some n else none) w1 w2 lines scales sc).map descCause := by
  unfold pairFault checkFirst checkSecond checkBytes
  simp only [← lineX_eq, ← lineAddr_eq, descTrap_eq, ← Bool.decide_or]
  generalize lines.any _ = linesPast
  generalize lines.any _ = linesCross
  generalize scales.any _ = scalesPast
  cases grp <;>
    simp only [failIf_some, orTrap_ite, orTrap_none, map_ite_some, Option.map_none, Bool.false_eq_true, if_false, if_true, dMajor, dScale,
      Option.isSome_none, Option.isSome_some, Option.any_none, Option.any_some, reduceCtorEq, true_and, false_and, bne_iff_ne,
      decide_eq_true_eq, Bool.and_eq_true, Bool.not_eq_true']

/-! ### Steps (R198, R201, R203) -/

theorem quant_eq (f : OFmt) : f.quant = decide (f = .q8 ∨ f = .q4) := by cases f <;> rfl

/-- A depth of whole granules or blocks fills whole bytes of a line. -/
theorem bytes_of_step {f : OFmt} {k : Nat} (h : k % f.step = 0) : f.bytes k = k * f.bits / 8 := by
  cases f with
  | q8 => show (k * 8 + 7) / 8 = k * 8 / 8; omega
  | q4 =>
    have h : k % 32 = 0 := h
    show (k * 4 + 7) / 8 = k * 4 / 8
    omega
  | _ => show (k * 16 + 7) / 8 = k * 16 / 8; omega

theorem stepLines_eq {f : OFmt} {k : Nat} (h : k % f.step = 0) (isB grp : Bool) (w1 w2 : Word) :
    stepLines f isB grp w1 w2 k = operandLines f isB grp w1 w2 k := by
  rw [stepLines, operandLines, bytes_of_step h]
  cases grp with
  | true => rfl
  | false => simp [nMajor, dMajor, tabulate, dRows, OFmt.bytes]

theorem checkPair_eq {f : OFmt} {k : Nat} (h : k % f.step = 0) (isB grp : Bool) (w1 w2 : Word) (sc : Nat) :
    checkPair f isB grp w1 w2 k sc = (pairFault isB (decide (f = .q8 ∨ f = .q4)) (if grp then some (k * f.bits / 32) else none) w1 w2
      (operandLines f isB grp w1 w2 k) (stepScales f isB grp w1 w2 k) sc).map descCause := by
  rw [checkPair, stepLines_eq h, quant_eq, pairFault_eq]
  rfl

theorem step_eq (f : OFmt) : f.step = (depthLimits f).1 := by cases f <;> rfl
theorem maxStore_eq (f : OFmt) : f.maxStore = (depthLimits f).2.1 := by cases f <;> rfl
theorem maxGroup_eq (f : OFmt) : f.maxGroup = (depthLimits f).2.2 := by cases f <;> rfl

/-- The depth is checked for both sources before the pairs. -/
theorem depthFault_eq (f : OFmt) (ag bg : Bool) (k : Nat) (a b : Word) (r : Option Trap) :
    orTrap (failIf (depthBad f ag k || k % f.step != 0) (descTrap a 7 false false)) (orTrap (failIf (depthBad f bg k) (descTrap b 7 true false)) r) =
      ((depthFault f ag bg k a b).map descCause).or r := by
  unfold depthFault depthBad
  simp only [descTrap_eq, step_eq, maxStore_eq, maxGroup_eq, failIf_some, orTrap_ite, orTrap_none, ← orTrap_eq_or, map_ite_some, Option.map_none,
    Bool.or_eq_true, decide_eq_true_eq, bne_iff_ne, or_assoc]
  by_cases hA : k < (depthLimits f).1 ∨ (if ag then (depthLimits f).2.2 else (depthLimits f).2.1) < k ∨ k % (depthLimits f).1 ≠ 0
  · rw [if_pos hA, if_pos hA]; rfl
  · have hm : ¬k < (depthLimits f).1 := fun h => hA (.inl h)
    rw [if_neg hA, if_neg hA]
    simp only [hm, false_or]
    rfl

theorem depthFault_none {f : OFmt} {ag bg : Bool} {k : Nat} {a b : Word} (h : depthFault f ag bg k a b = none) : k % f.step = 0 := by
  rw [step_eq]
  by_contra hk
  simp [depthFault, hk] at h

theorem checkStep_eq (f : OFmt) (ag bg : Bool) (a1 a2 b1 b2 : Word) (k sc : Nat) :
    checkStep f ag bg a1 a2 b1 b2 k sc = (stepFault f ag bg a1 a2 b1 b2 k sc).map descCause := by
  rw [checkStep, depthFault_eq, stepFault]
  cases hd : depthFault f ag bg k a1 b1 with
  | some c => rfl
  | none =>
    have hk := depthFault_none hd
    rw [checkPair_eq hk, checkPair_eq hk, orTrap_eq_or, Option.none_or, Option.map_or]
    rfl

/-! ### Rows and row state (R214, R218) -/

theorem rowData_eq (dc : MData) : rowData dc = (MDataBytes dc, MDataQuant dc) := by cases dc <;> rfl

/-- A count plane that ends past the scratch fails with code 10, and nothing else does. -/
theorem planeFault_eq (plane : Option Word) (sc : Nat) (runs : Word → List (Nat × Nat)) (bad : Word → Bool)
    (h : ∀ v, (runs v).any (fun r => decide (sc < r.1 + r.2)) = bad v) :
    plane.elim none (fun v => checkOffset v sc false (runs v)) =
      (plane.bind (fun v => if bad v then some (v, 10) else none)).map descCause := by
  cases plane with
  | none => rfl
  | some v =>
    simp only [Option.elim_some, Option.bind_some, checkOffset, h, Bool.false_or, descTrap_eq, failIf_some, map_ite_some, Option.map_none]
    rfl

theorem checkRows_eq (dc : MData) (w1 w2 : Word) (plane : Option Word) (sc : Nat) :
    checkRows dc w1 w2 plane sc = (rowsFault dc w1 w2 plane sc).map descCause := by
  have hpair := pairFault_eq false (MDataQuant dc) false 0 w1 w2 (rowLines (MDataBytes dc) w2) (rowScales (MDataQuant dc) w2) sc
  have hplane := planeFault_eq plane sc (fun v => [(v.toNat, 32 * dRows w2)]) (fun v => decide (sc < v.toNat + 32 * dRows w2)) (fun v => by simp)
  rw [checkRows, ← orTrap_assoc (checkSecond _ _ _), ← orTrap_assoc, hpair, hplane, rowsFault, rowData_eq, orTrap_eq_or, Option.map_or]
  simp only [decide_eq_true_eq]
  rfl

theorem checkProb_eq (w1 w2 : Word) (sc : Nat) : checkProb w1 w2 sc =
    (pairFault false false none w1 w2 ((List.range (fld w2 5 0 + 1)).map (fun i => (i, 64))) [] sc).map descCause :=
  pairFault_eq false false false 0 w1 w2 _ [] sc

theorem nbit_toNat {w : Nat} (m : BitVec w) (i : Nat) : nbit m.toNat i = m.getLsbD i := nbit_eq_testBit ..

theorem maskRows_eq (m : BitVec 32) : maskRows m = (List.range 32).filter (fun i => m.getLsbD i) := by
  simp only [maskRows, nbit_toNat]

theorem checkState_eq (a : Word) (m : BitVec 32) (plane : Option Word) (sc : Nat) :
    checkState a m plane sc = (stateFault a m plane sc).map descCause := by
  have hplane := planeFault_eq plane sc (fun v => stateCounts v m) (fun v => (maskRows m).any (fun i => decide (sc < v.toNat + 2 * i + 2)))
    (fun v => by rw [stateCounts, List.any_map]; rfl)
  rw [checkState, hplane, stateFault, ← maskRows_eq, checkOffset, descTrap_eq, failIf_some, orTrap_ite, orTrap_none, map_ite_some, stateBytes,
    List.any_map]
  simp only [Bool.or_eq_true, bne_iff_ne]
  rfl

/-! ### The issue of a command with descriptors -/

/-- How the issue of a command ends by the first failure of its descriptors. -/
def Described (i : Instr) (s : State) (size : Nat) (os : List Opnd) (fault : Option (Word × Nat)) : Prop :=
  (∀ v code, fault = some (v, code) → Traps i s Cause.matrixDescriptor v (w64 code)) ∧
  (fault = none → ∃ u, RunsWith i s u size os {} ∧ CoreOnly s u s.cur.1 ∧ u.myCore.mq.length = s.myCore.mq.length + 1)

theorem Commands.described {i : Instr} {s : State} {size : Nat} {os : List Opnd} {bad : Option Trap} {fault : Option (Word × Nat)} {op : QOp}
    (hc : Commands i s size os bad op) (hbad : bad = fault.map descCause) (hroom : s.myCore.mq.length < 16) : Described i s size os fault := by
  obtain ⟨-, hfails, henters⟩ := hc
  subst hbad
  refine ⟨fun v code hf => ?_, fun hf => ⟨_, henters hroom (by rw [hf]; rfl), CoreOnly.modCore s _ _, ?_⟩⟩
  · exact hfails hroom (descCause (v, code)) (by rw [hf]; rfl)
  · simp [Core.enqueue]

theorem posTrap_none {e : Word} (h : (!bit e 63 && decide (fld e 61 56 ≤ 32)) = true) : posTrap e = none := by
  obtain ⟨hsign, hcols⟩ : bit e 63 = false ∧ fld e 61 56 ≤ 32 := by simpa using h
  simp [posTrap_eq, hsign, hcols]

/-! ### MLD and MST of 32-bit elements (R214, R218) -/

/-- The failures of a pair that names `rows` tile-store lines of n bytes without scales, as an A operand. -/
theorem pairFault_plain (w1 w2 : Word) (rows n sc : Nat) : pairFault false false none w1 w2 ((List.range rows).map (fun i => (i, n))) [] sc =
    if fld w1 63 37 ≠ 0 then some (w1, 1)
    else if fld w1 5 0 ≠ 0 then some (w1, 2)
    else if bit w1 36 = true then some (w1, 3)
    else if fld w2 63 27 ≠ 0 then some (w2, 0x21)
    else if 31 < fld w2 5 0 then some (w2, 0x24)
    else if fld w2 26 6 ≠ 0 then some (w2, 0x29)
    else if ∃ i < rows, 2 ^ 21 ≤ lineX w1 i ∨ sc < lineAddr w1 i + n then some (w1, 5)
    else if ∃ i < rows, 2 ^ 17 < lineAddr w1 i % 2 ^ 17 + n then some (w1, 6)
    else none := by
  have any_line (p : Nat × Nat → Prop) [DecidablePred p] :
      ((List.range rows).map (fun i => (i, n))).any (fun l => decide (p l)) = true ↔ ∃ i < rows, p (i, n) := by
    simp
  unfold pairFault
  simp only [any_line, ← lineX_eq, ← lineAddr_eq]
  simp only [Option.isSome_none, Option.any_none, List.any_nil, Bool.false_eq_true, false_and, true_and, and_true, if_false, map_ite_some,
    Option.map_none]

section
variable {s : State} {g : Guard} {d : AReg} {a b c : GReg}

theorem mld_described {dc : MData} {pl : Bool} (hgd : s.guard g = true) (hroom : s.myCore.mq.length < 16)
    (hm : s.modsOk (condsOf (.src a :: .src b :: opndsPlane pl c)) = true) :
    Described (.mld g d a b c dc pl) s 12 (.src a :: .src b :: opndsPlane pl c)
      (rowsFault dc (s.g a) (s.g b) (if pl then some (s.g c) else none) s.myScratch) :=
  (commands_of exec_mld rfl (noDst_opndsPlane pl c) hgd hm).described (checkRows_eq ..) hroom

theorem mst_described {dc : MData} {pl : Bool} (hgd : s.guard g = true) (hroom : s.myCore.mq.length < 16)
    (hm : s.modsOk (condsOf (.src a :: .src b :: opndsPlane pl c)) = true) :
    Described (.mst g d a b c dc pl) s 12 (.src a :: .src b :: opndsPlane pl c)
      (rowsFault dc (s.g a) (s.g b) (if pl then some (s.g c) else none) s.myScratch) :=
  (commands_of exec_mst rfl (noDst_opndsPlane pl c) hgd hm).described (checkRows_eq ..) hroom

end

/-- Settles O28: each command's checks are the statement's list of failures (`checkStep_eq`, `checkRows_eq`, `checkProb_eq`, `checkState_eq`);
for 32-bit elements that list is the chain of `pairFault_plain`. -/
theorem descriptorFailuresTrap : Obligations.DescriptorFailuresTrap := by
  refine ⟨?all, ?plain⟩
  case all =>
    intro s g d x a b c e m f q dc ag bg pl kk fs hgd hroom k sc mask plane os4 osD osM rows pos
    have hM : noDst osM = true := by simp [osM, noDst_opndsPlane]
    iterate 7 rw [List.forall_mem_cons]
    refine ⟨fun hm _ => ?mma, fun hm _ => ?mmaq, fun hm _ => ?mld, fun hm _ => ?mst, fun hm hpos => ?smxa, fun hm _ => ?smxld, fun hm _ => ?smxst,
      List.forall_mem_nil _⟩
    case mma => exact (commands_of exec_mma rfl rfl hgd hm).described (checkStep_eq ..) hroom
    case mmaq => exact (commands_of exec_mmaq rfl rfl hgd hm).described (checkStep_eq ..) hroom
    case mld => exact mld_described hgd hroom hm
    case mst => exact mst_described hgd hroom hm
    case smxa => exact (commands_of exec_smxa rfl rfl hgd hm).described (by rw [posTrap_none hpos]; exact checkProb_eq ..) hroom
    case smxld => exact (commands_of exec_smxld rfl hM hgd hm).described (checkState_eq ..) hroom
    case smxst => exact (commands_of exec_smxst rfl hM hgd hm).described (checkState_eq ..) hroom
  case plain =>
    intro s g d a b c hgd hm hroom A B sc rows x addr j hj fail
    have haddr (i : Nat) : lineAddr A i = addr i := lineAddr_eq A i
    have hx (i : Nat) : lineX A i = x i := lineX_eq A i
    have hchain : rowsFault .s A B none sc = _ := (Option.or_none ..).trans (pairFault_plain A B rows 128 sc)
    have hd : Described j s 12 [.src a, .src b] (rowsFault .s A B none sc) := by
      rcases List.mem_pair.mp hj with rfl | rfl
      · exact mld_described (pl := false) (c := c) hgd hroom hm
      · exact mst_described (pl := false) (c := c) hgd hroom hm
    rw [hchain] at hd
    obtain ⟨hfails, henters⟩ := hd
    simp only [haddr, hx] at hfails henters
    refine ⟨fun h1 => ?hi, fun h1 h2 => ?base, fun h1 h2 h3 => ?major, fun h1 h2 h3 =>
      ⟨fun h4 => ?hi2, fun h4 h5 => ?extent, fun h4 h5 h6 => ?scale, fun h4 h5 h6 => ?lines⟩⟩
    case hi => exact hfails _ _ (if_pos h1)
    case base => exact hfails _ _ (by simp [h1, h2])
    case major => exact hfails _ _ (by simp [h1, h2, h3])
    case hi2 => exact hfails _ _ (by simp [h1, h2, h3, h4])
    case extent => exact hfails _ _ (by simp [h1, h2, h3, h4, h5])
    case scale => exact hfails _ _ (by simp [h1, h2, h3, h4, Nat.not_lt.mpr h5, h6])
    case lines =>
      simp only [h1, h2, h3, h4, Nat.not_lt.mpr h5, h6, ne_eq, not_true_eq_false, Bool.false_eq_true, if_false] at hfails henters
      refine ⟨fun hpast => hfails _ _ (if_pos hpast), fun hin hacross => hfails _ _ ?_, fun hin => henters ?_⟩
      · rw [if_neg (fun ⟨i, hi, hp⟩ => by have := hin i hi; omega), if_pos hacross]
      · rw [if_neg (fun ⟨i, hi, hp⟩ => by have := hin i hi; omega), if_neg (fun ⟨i, hi, hp⟩ => by have := hin i hi; omega)]

end Sys2Proof.Machine
end

section
/-!
PROOFS. Commands of row 11 at their turn (R204, R216 to R220, O30): what the run of a command leaves as it was, and the accumulator or the
bytes that it makes.
-/

namespace Sys2Proof.Machine

/-! ### What a command changes of a core -/

/-- The effect of a command on its core is one of the accumulators. -/
theorem effect_acc (k : Core) (op : QOp) : (k.effect op).1 = { k with acc := (k.effect op).1.acc } := by cases op <;> rfl

/-- A command's effect asks nothing of the queue. -/
theorem effect_queue (k : Core) (op : QOp) (mq : List QCmd) (busy : Nat) :
    ({ k with mq := mq, mqBusy := busy } : Core).effect op = ({ (k.effect op).1 with mq := mq, mqBusy := busy }, (k.effect op).2) := by
  cases op <;> rfl

theorem accOf_putAcc (k : Core) (n : Nat) (a : Acc) (j : Nat) : (k.putAcc n a).accOf j = if j = n then a else k.accOf j := tget_tput ..

/-- A command changes no accumulator but its target. -/
theorem accOf_effect_ne (k : Core) {op : QOp} {n : Nat} (h : some n ≠ op.target) : (k.effect op).1.accOf n = k.accOf n := by
  cases op
  case mst => rfl
  case smxst => rfl
  all_goals exact (accOf_putAcc ..).trans (if_neg (fun hn => h (congrArg some hn)))

/-- The cells that a command writes where stores have met some of its bytes (R205). -/
def Core.landed (k : Core) (ctr : Nat) (q : QCmd) : List Host.Cell := (k.effect q.op).2.filter (fun c => !q.keeps ctr c)

theorem landed_of_noHits (k : Core) (ctr : Nat) {q : QCmd} (h : q.hits = []) : k.landed ctr q = (k.effect q.op).2 := by
  simp [Core.landed, QCmd.keeps, h]

/-- The core after its head command has run, but for its reports. -/
theorem core_ran (s : State) (c : Nat) (q : QCmd) :
    { ((s.popCmd c q).doCmd c q).core c with reports := (s.core c).reports, reported := (s.core c).reported } =
    { s.core c with
      acc := ((s.core c).effect q.op).1.acc
      store := (s.core c).store.writeCells ((s.core c).landed s.freeCtr q)
      fresh := (s.core c).fresh.filter (fun b => !((s.core c).landed s.freeCtr q).any (fun x => x.1 = b.off))
      mq := (s.core c).mq.drop 1
      mqBusy := s.busyUntil c q } := by
  have hcomplete : ((s.popCmd c q).core c).complete (s.popCmd c q).freeCtr q = { s.core c with
      acc := ((s.core c).effect q.op).1.acc
      store := (s.core c).store.writeCells ((s.core c).landed s.freeCtr q)
      fresh := (s.core c).fresh.filter (fun b => !((s.core c).landed s.freeCtr q).any (fun x => x.1 = b.off))
      mq := (s.core c).mq.drop 1
      mqBusy := s.busyUntil c q } := by
    rw [core_popCmd, Core.complete, effect_queue, effect_acc]
    rfl
  rw [State.doCmd]
  simp only [State.core_setCore_same]
  split
  · split
    · have hr := record_rest (((s.popCmd c q).core c).complete (s.popCmd c q).freeCtr q) q
      rw [hcomplete] at hr ⊢
      exact hr _ _
    · rw [hcomplete]
  · rw [hcomplete]

theorem freeCtr_doCmd (s : State) (c : Nat) {q : QCmd} (h : q.hits = []) : (s.doCmd c q).freeCtr = s.freeCtr := by
  simp [State.doCmd, h]

/-- A command's run changes its core, and uses a free value or none. -/
theorem only_doCmd (s : State) (c : Nat) (q : QCmd) : CoreOnly { s with freeCtr := (s.doCmd c q).freeCtr } (s.doCmd c q) c := by
  unfold State.doCmd
  split
  · exact ⟨rfl, fun d hd => State.core_setCore_ne _ _ _ _ hd⟩
  · exact ⟨rfl, fun d hd => State.core_setCore_ne _ _ _ _ hd⟩

theorem CoreOnly.withFree {s t : State} {c : Nat} (h : CoreOnly s t c) (n : Nat) : CoreOnly { s with freeCtr := n } { t with freeCtr := n } c :=
  ⟨congrArg (fun u : State => { u with freeCtr := n }) h.device, h.cores⟩

/-- Whether each of some cells lies in one of some ranges. -/
def Inside (cs : List Host.Cell) (rs : List Range) : Prop := ∀ x ∈ cs, ∃ r ∈ rs, r.1 ≤ x.1 ∧ x.1 < r.1 + r.2

theorem Inside.ne {cs : List Host.Cell} {rs : List Range} (h : Inside cs rs) {a : Nat}
    (ha : rs.all (fun r => !(decide (r.1 ≤ a) && decide (a < r.1 + r.2))) = true) : ∀ x ∈ cs, x.1 ≠ a := by
  rintro x hx rfl
  obtain ⟨r, hr, hle, hlt⟩ := h x hx
  simpa [hle, hlt] using List.all_eq_true.mp ha r hr

/-- A byte after cells: that of the last cell at its address, or what stood there. -/
theorem Mem.read_writeCells (cs : List Host.Cell) (m : Mem) (h : m.wf = true) (a : Nat) :
    (m.writeCells cs).read a = cs.foldl (fun b x => if a = x.1 then x.2 else b) (m.read a) := by
  induction cs generalizing m with
  | nil => rfl
  | cons x cs ih =>
    rw [List.foldl_cons, ← Mem.read_write m x.1 x.2 h]
    exact ih (m.write x.1 x.2) (Mem.wf_write m x.1 x.2 h)

/-- Cells left out at other addresses do not matter to a byte. -/
theorem Mem.read_writeCells_filter (cs : List Host.Cell) (m : Mem) (h : m.wf = true) (p : Host.Cell → Bool) (a : Nat)
    (hp : ∀ x : Host.Cell, x.1 = a → p x = true) : (m.writeCells (cs.filter p)).read a = (m.writeCells cs).read a := by
  rw [Mem.read_writeCells _ m h, Mem.read_writeCells _ m h, List.foldl_filter]
  congr 1
  funext b x
  by_cases hx : a = x.1
  · rw [if_pos (hp x hx.symm)]
  · simp [hx]

/-- A byte where a command's cells land: the command's, or where a store has met it the one that stands (R205). -/
theorem read_landed (k : Core) (ctr : Nat) (q : QCmd) (h : k.store.wf = true) (a : Nat) :
    (k.store.writeCells (k.landed ctr q)).read a = (k.perform q.op).store.read a ∨
    (q.hits.contains a = true ∧ (k.store.writeCells (k.landed ctr q)).read a = k.store.read a) := by
  cases hkept : q.keeps ctr (a, 0) with
  | false =>
    left
    refine Mem.read_writeCells_filter _ _ h _ a fun x hx => ?_
    subst hx
    exact congrArg not hkept
  | true =>
    right
    refine ⟨(Bool.and_eq_true_iff.mp hkept).1, Mem.read_writeCells_of_ne _ _ h a ?_⟩
    rintro x hx rfl
    have hnot := (List.mem_filter.mp hx).2
    rw [show q.keeps ctr x = true from hkept] at hnot
    exact absurd hnot (by decide)

/-! ### The frame of a run -/

section
variable {s : State} {c : Nat} {q : QCmd}

/-- What the run of a command whose cells lie in its write ranges leaves as it was. -/
theorem matDone_ran (hwf : s.memWf = true) (hin : Inside ((s.core c).effect q.op).2 q.op.stores) :
    MatDone s ((s.popCmd c q).doCmd c q) c q := by
  have hk := core_ran s c q
  have hm := s.core_wf hwf c
  have hstore : (((s.popCmd c q).doCmd c q).core c).store = (s.core c).store.writeCells ((s.core c).landed s.freeCtr q) := (congrArg Core.store hk :)
  have hfresh : (((s.popCmd c q).doCmd c q).core c).fresh = _ := (congrArg Core.fresh hk :)
  have hacc : (((s.popCmd c q).doCmd c q).core c).acc = _ := (congrArg Core.acc hk :)
  constructor
  case only => exact ((CoreOnly.popCmd s c q).withFree _).trans (only_doCmd (s.popCmd c q) c q)
  case free => exact freeCtr_doCmd _ c
  case rest =>
    exact (congrArg (fun k : Core => { k with
      acc := (s.core c).acc, store := (s.core c).store, fresh := (s.core c).fresh, mq := (s.core c).mq, mqBusy := (s.core c).mqBusy }) hk :)
  case fresh =>
    rw [hfresh]
    exact fun b hb => (List.mem_filter.mp hb).1
  case mq => exact (congrArg Core.mq hk :)
  case accs =>
    intro n hn
    rw [Core.accOf, hacc]
    exact accOf_effect_ne (s.core c) hn
  case store =>
    intro a ha
    rw [hstore]
    exact Mem.read_writeCells_of_ne _ _ hm a fun x hx => hin.ne ha x (List.mem_filter.mp hx).1
  case hit =>
    intro a
    rw [hstore]
    exact read_landed (s.core c) s.freeCtr q hm a

/-- A command that is ripe runs: its effect on the accumulators, and with no byte of it met by a store its cells. -/
theorem ripe_runs (hr : s.ripe c q) (hwf : s.memWf = true) (hin : Inside ((s.core c).effect q.op).2 q.op.stores) :
    Makes (runOf c .ok q.op) s (fun t => MatDone s t c q ∧ (∀ n, (t.core c).accOf n = ((s.core c).effect q.op).1.accOf n) ∧
      (q.hits = [] → (t.core c).store = (s.core c).store.writeCells ((s.core c).effect q.op).2)) := by
  obtain ⟨hhead, hm, hb⟩ := hr
  obtain ⟨rest, hq⟩ := List.head?_eq_some_iff.mp hhead
  have hk := core_ran s c q
  refine ⟨_, run_ok hq hm hb q.op.residue_ok, matDone_ran hwf hin, fun n => ?_, fun hno => ?_⟩
  · rw [Core.accOf, (congrArg Core.acc hk :)]
    rfl
  · rw [← landed_of_noHits (s.core c) s.freeCtr hno]
    exact (congrArg Core.store hk :)

end

/-! ### Rows and elements -/

theorem row_mapRows (a : Acc) (f : Nat → AccRow → AccRow) {i : Nat} (hi : i < 32) : (a.mapRows f).row i = f i (a.row i) := nth_tabulate _ hi

theorem el_tabulate (f : Nat → FC) (m l : FC) {j : Nat} (hj : j < 32) : AccRow.el ⟨tabulate 32 f, m, l⟩ j = f j := nth_tabulate f hj

theorem el_replicate (x m l : FC) {j : Nat} (hj : j < 32) : AccRow.el ⟨List.replicate 32 x, m, l⟩ j = x := by
  have hlen : j < (List.replicate 32 x).length := by rwa [List.length_replicate]
  exact (nth_of_lt hlen).trans (List.getElem_replicate hlen)

/-- The row state and the row status of an accumulator are those of another. -/
def SameState (a b : Acc) : Prop := (∀ i < 32, (a.row i).m = (b.row i).m ∧ (a.row i).l = (b.row i).l) ∧ a.st = b.st

section
variable {s : State} {c : Nat} {q : QCmd} (hr : s.ripe c q) (hwf : s.memWf = true)
include hr hwf

/-- A command that makes each row's elements anew keeps the row state and the row status. -/
theorem elements_run {d : Nat} {f : Nat → AccRow → AccRow}
    (heff : (s.core c).effect q.op = ((s.core c).putAcc d (((s.core c).accOf d).mapRows f), [])) (hf : ∀ i r, (f i r).m = r.m ∧ (f i r).l = r.l) :
    Makes (runOf c .ok q.op) s (fun t => MatDone s t c q ∧ SameState ((t.core c).accOf d) ((s.core c).accOf d) ∧
      ∀ i < 32, ((t.core c).accOf d).row i = f i (((s.core c).accOf d).row i)) := by
  obtain ⟨t, hx, hdone, hacc, -⟩ := ripe_runs hr hwf (by rw [heff]; exact List.forall_mem_nil _)
  have hd : (t.core c).accOf d = ((s.core c).accOf d).mapRows f := by
    rw [hacc, heff, accOf_putAcc, if_pos rfl]
  have hrow (i : Nat) (hi : i < 32) : ((t.core c).accOf d).row i = f i (((s.core c).accOf d).row i) := by
    rw [hd, row_mapRows _ _ hi]
  refine ⟨t, hx, hdone, ⟨fun i hi => ?_, by rw [hd]; rfl⟩, hrow⟩
  rw [hrow i hi]
  exact hf i _

theorem mzero_runs {d : Nat} (hop : q.op = .mzero d) : Makes (.mzeroRun c) s (fun t => MatDone s t c q ∧
    SameState ((t.core c).accOf d) ((s.core c).accOf d) ∧ ∀ i < 32, ∀ j < 32, (((t.core c).accOf d).row i).el j = ⟨0, 24⟩) := by
  have heff : (s.core c).effect q.op = ((s.core c).putAcc d (zeroAcc ((s.core c).accOf d)), []) := by rw [hop]; rfl
  obtain ⟨t, hx, hdone, hst, hrow⟩ := elements_run hr hwf heff (fun _ _ => ⟨rfl, rfl⟩)
  rw [hop] at hx
  refine ⟨t, hx, hdone, hst, fun i hi j hj => ?_⟩
  rw [hrow i hi]
  exact el_replicate fcZero _ _ hj

theorem mscale_runs {d : Nat} {x : FC} {m : BitVec 32} (hop : q.op = .mscale d x m) : Makes (.mscaleRun c) s (fun t => MatDone s t c q ∧
    SameState ((t.core c).accOf d) ((s.core c).accOf d) ∧ ∀ i < 32, ∀ j < 32, (((t.core c).accOf d).row i).el j =
      if m.getLsbD i then smxMul ((((s.core c).accOf d).row i).el j) x else (((s.core c).accOf d).row i).el j) := by
  have heff : (s.core c).effect q.op = ((s.core c).putAcc d (scaleAcc ((s.core c).accOf d) x m), []) := by rw [hop]; rfl
  obtain ⟨t, hx, hdone, hst, hrow⟩ := elements_run hr hwf heff (fun i r => by split <;> exact ⟨rfl, rfl⟩)
  rw [hop] at hx
  refine ⟨t, hx, hdone, hst, fun i hi j hj => ?_⟩
  rw [hrow i hi, nbit_toNat]
  split
  · exact el_tabulate _ _ _ hj
  · rfl

theorem mld_runs {d : Nat} {a : MatSrc} {dc : MData} {pl : Option Word} (hop : q.op = .mld d a dc pl) : Makes (.mldRun c) s (fun t =>
    MatDone s t c q ∧ SameState ((t.core c).accOf d) ((s.core c).accOf d) ∧ ∀ i < 32, ∀ j < 32, (((t.core c).accOf d).row i).el j =
      if i < dRows a.second then
        let e := mldElem dc ((s.core c).store.readN (lineAddr a.first i) (MDataBytes dc)) ((s.core c).rowScale a.second i) j
        { e with c := planeCount (s.core c) pl (32 * i + j) e.c }
      else (((s.core c).accOf d).row i).el j) := by
  have heff : (s.core c).effect q.op = ((s.core c).putAcc d ((s.core c).mldAcc ((s.core c).accOf d) a dc pl), []) := by rw [hop]; rfl
  obtain ⟨t, hx, hdone, hst, hrow⟩ := elements_run hr hwf heff (fun i r => by split <;> exact ⟨rfl, rfl⟩)
  rw [hop] at hx
  refine ⟨t, hx, hdone, hst, fun i hi j hj => ?_⟩
  rw [hrow i hi]
  split
  · exact el_tabulate _ _ _ hj
  · rfl

/-- A step gives the elements of its rows and columns, and leaves the others. -/
theorem step_runs {f : OFmt} {d : Nat} {a b : MatSrc} {n : Nat}
    (heff : (s.core c).effect q.op = ((s.core c).putAcc d ((s.core c).stepAcc f ((s.core c).accOf d) a b n), [])) :
    Makes (runOf c .ok q.op) s (fun t => MatDone s t c q ∧ SameState ((t.core c).accOf d) ((s.core c).accOf d) ∧ ∀ i < 32, ∀ j < 32,
      (i < dRows a.second → j < dRows b.second → (((t.core c).accOf d).row i).el j = stepElem f (n / f.step)
        (nth [] (if f.quant then (s.core c).scales f false a n else []) i) (nth [] (if f.quant then (s.core c).scales f true b n else []) j)
        (nth [] ((s.core c).operand f false a n) i) (nth [] ((s.core c).operand f true b n) j) ((((s.core c).accOf d).row i).el j)) ∧
      (dRows a.second ≤ i ∨ dRows b.second ≤ j → (((t.core c).accOf d).row i).el j = (((s.core c).accOf d).row i).el j)) := by
  rw [Core.stepAcc] at heff
  obtain ⟨t, hx, hdone, hst, hrow⟩ := elements_run hr hwf heff (fun i r => by split <;> exact ⟨rfl, rfl⟩)
  refine ⟨t, hx, hdone, hst, fun i hi j hj => ⟨fun hA hB => ?_, fun hout => ?_⟩⟩
  · rw [hrow i hi, if_pos hA]
    exact (el_tabulate _ _ _ hj).trans (if_pos hB)
  · rw [hrow i hi]
    split
    · exact (el_tabulate _ _ _ hj).trans (if_neg (by omega))
    · rfl

end

/-! ### The bytes of MST (R220) -/

theorem length_flatMap_blocks {α : Type} {n : Nat} {f : α → List Byte} (hf : ∀ x, (f x).length = n) (l : List α) :
    (l.flatMap f).length = n * l.length := by
  simp [List.length_flatMap, hf, Nat.mul_comm]

/-- A byte of blocks of one length. -/
theorem nth_flatMap_blocks {α : Type} (d : α) {n b : Nat} {f : α → List Byte} (hf : ∀ x, (f x).length = n) (hb : b < n) (l : List α) {j : Nat}
    (hj : j < l.length) : nth 0 (l.flatMap f) (n * j + b) = nth 0 (f (nth d l j)) b := by
  induction l generalizing j with
  | nil => exact absurd hj (Nat.not_lt_zero j)
  | cons x l ih =>
    simp only [nth_eq_getD, List.flatMap_cons] at ih ⊢
    cases j with
    | zero => rw [Nat.mul_zero, Nat.zero_add, List.getElem?_append_left (by rwa [hf])]; rfl
    | succ j =>
      rw [List.getElem?_append_right (by rw [hf, Nat.mul_succ]; omega), hf, show n * (j + 1) + b - n = n * j + b by rw [Nat.mul_succ]; omega,
        ih (Nat.lt_of_succ_lt_succ hj), List.getElem?_cons_succ]

theorem length_packCodes {dc : MData} (hq : MDataQuant dc = true) {cs : List Nat} (h : cs.length ≤ 32) :
    (packCodes (mdataQ dc) cs).length ≤ MDataBytes dc := by
  cases dc with
  | q8 => exact (List.length_map ..).trans_le h
  | q4 => exact (length_tabulate ..).le
  | _ => exact absurd hq (by decide)

/-- A row as MST writes it takes no more bytes than its format has, and no more than 32 counts. -/
def MstRow.Fits (r : MstRow) (dc : MData) : Prop := r.bytes.length ≤ MDataBytes dc ∧ r.counts.length ≤ 32

theorem MstRow.fits_packed {dc : MData} (hq : MDataQuant dc = true) {cs ns : List Nat} (hcs : cs.length ≤ 32) (hns : ns.length ≤ 32)
    (sc : Nat) (inf : Bool) : MstRow.Fits ⟨packCodes (mdataQ dc) cs, sc, ns, inf⟩ dc :=
  ⟨length_packCodes hq hcs, hns⟩

theorem mstRow_fits (dc : MData) {r : AccRow} (h : r.els.length ≤ 32) : (mstRow dc r).Fits dc := by
  have hmap (f : FC → Nat) : (r.els.map f).length ≤ 32 := by rwa [List.length_map]
  have hzeros : (List.replicate 32 0).length ≤ 32 := (List.length_replicate ..).le
  unfold mstRow
  split
  next hq =>
    simp only
    split
    · exact MstRow.fits_packed hq hzeros hzeros _ _
    · split
      · split
        · exact MstRow.fits_packed hq hzeros (hmap _) _ _
        · exact MstRow.fits_packed hq (hmap _) (hmap _) _ _
      · exact MstRow.fits_packed hq hzeros (hmap _) _ _
  next hq =>
    split
    next hs =>
      subst hs
      refine ⟨?_, hmap _⟩
      rw [length_flatMap_blocks (n := 4) (fun _ => length_toBytes ..)]
      exact Nat.mul_le_mul_left 4 h
    next hs =>
      have h64 : MDataBytes dc = 2 * 32 := by
        cases dc with
        | hf => rfl
        | bf => rfl
        | s => exact absurd rfl hs
        | _ => exact absurd rfl hq
      simp only [MstRow.Fits, length_flatMap_blocks (n := 2) (fun _ => length_toBytes ..), h64, List.length_map]
      exact ⟨Nat.mul_le_mul_left 2 h, h⟩

theorem length_row_le {a : Acc} (h : ∀ r ∈ a.rows, r.els.length = 32) (i : Nat) : (a.row i).els.length ≤ 32 := by
  by_cases hi : i < a.rows.length
  · exact (h _ (nth_mem hi)).le
  · rw [Acc.row, nth_eq_getD, List.getElem?_eq_none (Nat.not_lt.mp hi)]
    decide

/-- The cells of MST, row by row. -/
theorem mst_cells (k : Core) (d : Nat) (a : MatSrc) (dc : MData) (pl : Option Word) : (k.effect (.mst d a dc pl)).2 =
    (List.range (dRows a.second)).flatMap (fun i => mstCells a dc pl i (mstRow dc ((k.accOf d).row i))) := by
  have hlen : (mstRows (k.accOf d) a dc).length = dRows a.second := length_tabulate ..
  show (List.range (mstRows (k.accOf d) a dc).length).flatMap _ = _
  rw [hlen]
  refine List.flatMap_congr fun i hi => ?_
  rw [List.mem_range] at hi
  have hrow : (mstRows (k.accOf d) a dc)[i]? = some (mstRow dc ((k.accOf d).row i)) := by
    simp [mstRows, tabulate, hi]
  rw [hrow]
  rfl

theorem inside_mst (k : Core) {d : Nat} (h : ∀ r ∈ (k.accOf d).rows, r.els.length = 32) (a : MatSrc) (dc : MData) (pl : Option Word) :
    Inside (k.effect (.mst d a dc pl)).2 (QOp.mst d a dc pl).stores := by
  intro x hx
  rw [mst_cells, List.mem_flatMap] at hx
  obtain ⟨i, hi, hx⟩ := hx
  rw [List.mem_range] at hi
  obtain ⟨hbytes, hcounts⟩ := mstRow_fits dc (length_row_le h i)
  simp only [mstCells, List.mem_append] at hx
  simp only [QOp.stores, List.mem_append]
  rcases hx with (hx | hx) | hx
  · have := addr_of_mem_cellsAt hx
    refine ⟨(lineAddr a.first i, MDataBytes dc), .inl (.inl ?_), by simp only; omega⟩
    simp only [lineBytes, rowLines, tabulate, List.map_map, List.mem_map, List.mem_range]
    exact ⟨i, hi, rfl⟩
  · split at hx
    next hq =>
      have := addr_of_mem_cellsAt hx
      rw [length_toBytes] at this
      refine ⟨(dScale a.second + 3 * i, 3), .inl (.inr ?_), this⟩
      simp only [rowScales, hq, if_true, tabulate, List.mem_map, List.mem_range]
      exact ⟨i, hi, rfl⟩
    next => exact absurd hx List.not_mem_nil
  · cases pl with
    | none => exact absurd hx List.not_mem_nil
    | some p =>
      have := addr_of_mem_cellsAt hx
      rw [List.length_map] at this
      exact ⟨(p.toNat, 32 * dRows a.second), .inr (List.mem_singleton.mpr rfl), by simp only; omega⟩

theorem Mem.writeCells_append (m : Mem) (as bs : List Host.Cell) : m.writeCells (as ++ bs) = (m.writeCells as).writeCells bs :=
  List.foldl_append

/-- Of runs of bytes written in turn, one that no later run meets reads as written. -/
theorem read_runs (m : Mem) (hm : m.wf = true) (place : Nat → Nat) (bytes : Nat → List Byte) {i n : Nat} (hi : i < n)
    (hlater : ∀ j, i < j → j < n → meets (place i) (bytes i).length (place j) (bytes j).length = false) {b : Nat} (hb : b < (bytes i).length) :
    (m.writeCells ((List.range n).flatMap (fun j => cellsAt (place j) (bytes j)))).read (place i + b) = nth 0 (bytes i) b := by
  obtain ⟨l, rfl⟩ : ∃ l, n = i + (1 + l) := ⟨n - i - 1, by omega⟩
  rw [List.range_add, List.flatMap_append, Mem.writeCells_append, List.range_add, List.map_append, List.flatMap_append, Mem.writeCells_append]
  have hearlier := Mem.wf_writeCells ((List.range i).flatMap (fun j => cellsAt (place j) (bytes j))) m hm
  rw [Mem.read_writeCells_of_ne _ _ (Mem.wf_writeCells _ _ hearlier)]
  · simp [Mem.writeCells_cellsAt, Mem.read_writeN _ _ _ hearlier, hb]
  · intro x hx
    simp only [List.map_map, List.mem_flatMap, List.mem_map, List.mem_range, Function.comp_apply] at hx
    obtain ⟨_, ⟨k, hk, rfl⟩, hx⟩ := hx
    have hx := addr_of_mem_cellsAt hx
    have := hlater (i + (1 + k)) (by omega) (by omega)
    simp only [meets, Bool.and_eq_false_iff, decide_eq_false_iff_not] at this
    omega

/-- MST of 32-bit elements as runs of bytes. -/
theorem mst_cells_s (k : Core) (d : Nat) (a : MatSrc) : (k.effect (.mst d a .s none)).2 =
    (List.range (dRows a.second)).flatMap (fun i =>
      cellsAt (lineAddr a.first i) (((k.accOf d).row i).els.flatMap (fun e => toBytes 4 e.v.toNat))) := by
  rw [mst_cells]
  refine List.flatMap_congr fun i _ => ?_
  exact (List.append_nil _).trans (List.append_nil _)

/-! ### MST and MLD of 32-bit elements -/

theorem slice_readN (m : Mem) {a n k len : Nat} (h : k + len ≤ n) : slice (m.readN a n) k len = m.readN (a + k) len := by
  refine ext_nth 0 (by rw [slice, length_tabulate, Mem.length_readN]) fun i hi => ?_
  rw [slice, length_tabulate] at hi
  rw [slice, nth_tabulate _ hi, nth_readN (by omega), nth_readN hi, Nat.add_assoc]

/-- A 32-bit element loads as it stands (R219). -/
theorem mldElem_s (m : Mem) (a : Nat) (scale : FV) {j : Nat} (hj : j < 32) :
    (mldElem .s (m.readN a (MDataBytes .s)) scale j).v = BitVec.ofNat 32 (ofBytes (m.readN (a + 4 * j) 4)) := by
  rw [← slice_readN m (show 4 * j + 4 ≤ 128 by omega)]
  rfl

section
variable {s : State} {c : Nat} {q : QCmd} (hr : s.ripe c q) (hwf : s.memWf = true)
  (hrows : ∀ n, ((s.core c).accOf n).rows.length = 32 ∧ ∀ r ∈ ((s.core c).accOf n).rows, r.els.length = 32)
include hr hwf hrows

theorem mst_runs {d : Nat} {a : MatSrc} {dc : MData} {pl : Option Word} (hop : q.op = .mst d a dc pl) : Makes (.mstRun c) s (fun t =>
    MatDone s t c q ∧ (q.hits = [] → (t.core c).store = (s.core c).store.writeCells ((s.core c).effect (.mst d a dc pl)).2)) := by
  obtain ⟨t, hx, hdone, -, hstore⟩ := ripe_runs hr hwf (by rw [hop]; exact inside_mst _ (hrows d).2 a dc pl)
  rw [hop] at hx hstore
  exact ⟨t, hx, hdone, hstore⟩

/-- Each row of 32-bit elements that no later row overwrites stands in its line. -/
theorem mst_runs_s {d : Nat} {a : MatSrc} (hop : q.op = .mst d a .s none) (hno : q.hits = []) : Makes (.mstRun c) s (fun t => MatDone s t c q ∧
    ∀ i < dRows a.second, i < 32 → (∀ n, i < n → n < dRows a.second → meets (lineAddr a.first i) 128 (lineAddr a.first n) 128 = false) →
      ∀ j < 32, (t.core c).store.readN (lineAddr a.first i + 4 * j) 4 = toBytes 4 ((((s.core c).accOf d).row i).el j).v.toNat) := by
  obtain ⟨t, hx, hdone, hstore⟩ := mst_runs hr hwf hrows hop
  refine ⟨t, hx, hdone, fun i hi h32 hlater j hj => ?_⟩
  have hels : (((s.core c).accOf d).row i).els.length = 32 := (hrows d).2 _ (nth_mem (by rwa [(hrows d).1]))
  have hle := length_row_le (hrows d).2
  have hlen (n : Nat) : ((((s.core c).accOf d).row n).els.flatMap (fun e => toBytes 4 e.v.toNat)).length =
      4 * (((s.core c).accOf d).row n).els.length := length_flatMap_blocks (fun _ => length_toBytes ..) _
  refine Mem.readN_eq _ _ (toBytes 4 _) fun b hb => ?_
  rw [length_toBytes] at hb
  rw [hstore hno, mst_cells_s, Nat.add_assoc, read_runs _ (s.core_wf hwf c) _ _ hi ?later ?inRow]
  case inRow => rw [hlen, hels]; omega
  case later =>
    intro n hin hn
    have hmeets := hlater n hin hn
    have := hle n
    rw [hlen, hlen, hels]
    simp only [meets, Bool.and_eq_false_iff, decide_eq_false_iff_not] at hmeets ⊢
    omega
  exact nth_flatMap_blocks default (fun _ => length_toBytes ..) hb _ (by omega)

end

/-- Settles O30: each command's accumulator from `elements_run`, the bytes of MST from `mst_runs`. -/
theorem matrixRow11Runs : Obligations.MatrixRow11Runs := by
  intro s c q hr hrows hwf k keeps el
  refine ⟨fun d => mzero_runs hr hwf, fun d x m => mscale_runs hr hwf, fun d a dc pl hop => ?mld, fun d a dc hop hno => ?mst,
    fun d a pl dc hop => ?mstAny, fun f d a b n res ⟨hop, hres⟩ => ?mma, fun f d a b n hop => ?mmaq⟩
  case mld =>
    obtain ⟨t, hx, hdone, hst, hel⟩ := mld_runs hr hwf hop
    refine ⟨t, hx, hdone, hst, fun i hi j hj => ⟨fun hrow => ?_, fun hrow hs => ?_, fun hrow => (hel i hi j hj).trans (if_neg (by omega))⟩⟩
    · have h := (hel i hi j hj).trans (if_pos hrow)
      refine ⟨(congrArg FC.v h :), fun hp => ?_, fun p hp => ?_⟩ <;> subst hp <;> exact (congrArg FC.c h :)
    · subst hs
      have h := (hel i hi j hj).trans (if_pos hrow)
      exact (congrArg FC.v h).trans (mldElem_s _ _ (k.rowScale a.second i) hj)
  case mst =>
    by_cases hs : dc = .s
    · subst hs
      obtain ⟨t, hx, hdone, hbytes⟩ := mst_runs_s hr hwf hrows hop hno
      exact ⟨t, hx, hdone, fun _ => hbytes⟩
    · obtain ⟨t, hx, hdone, -⟩ := mst_runs hr hwf hrows hop
      exact ⟨t, hx, hdone, fun h => absurd h hs⟩
  case mstAny =>
    obtain ⟨t, hx, hdone, -⟩ := mst_runs hr hwf hrows hop
    exact ⟨t, hx, hdone⟩
  case mma =>
    subst hres
    obtain ⟨t, hx, hdone, hst, hel⟩ := step_runs (f := ofMma f) (d := d) (a := a) (b := b) (n := n) hr hwf (by rw [hop]; rfl)
    have hquant : (ofMma f).quant = false := by cases f <;> rfl
    simp only [OFmt.step, hquant, Bool.false_eq_true, if_false] at hel
    rw [hop] at hx
    exact ⟨t, hx, hdone, hst, hel⟩
  case mmaq =>
    obtain ⟨t, hx, hdone, hst, hel⟩ := step_runs (f := ofQ f) (d := d) (a := a) (b := b) (n := n) hr hwf (by rw [hop]; rfl)
    have hquant : (ofQ f).quant = true := by cases f <;> rfl
    simp only [OFmt.step, hquant, if_true] at hel
    rw [hop] at hx
    exact ⟨t, hx, hdone, hst, hel⟩

end Sys2Proof.Machine
end

section
/-!
PROOFS. Batches and reads at issue (R206, R208, R215, R221 to R224, O29): a destination that an effect has set empty, the first report that a
wait takes, the bytes of MTEST, and the parts of an accumulator.
-/

namespace Sys2Proof.Machine

/-! ### MCOMMIT (R206, R221) -/

theorem refills_dst_self (d : GReg) : refills [.dst d] (false, d.num.toNat) = GReg.now d := by
  have h := refills_dst rfl d 0 d.num.toNat (l := [])
  simpa using h

theorem consumes_dst_ne {d : GReg} {n : Nat} (h : n ≠ d.num.toNat) : consumes [.dst d] (false, n) = false := by
  simp [consumes, Opnd.key, Ne.symm h]

/-- A consumed register that is empty already is as the completion leaves it. -/
theorem Completes.dst_of_empty {u t : State} {pc : Word} {d : GReg} (hc : Completes u t [] pc {})
    (hempty : d.num.toNat ≠ 0 → (u.gval d.num.toNat).full = false) : Completes u t [.dst d] pc {} := by
  refine { hc with g := fun n => ?_, f := fun n => ?_ }
  · rw [hc.g n, gAfter_nil]
    by_cases h0 : n = 0
    · subst h0; rfl
    · by_cases hn : n = d.num.toNat
      · subst hn
        simp only [State.gAfter, h0, if_false, List.reverse_nil, List.find?_nil]
        split
        · rw [← hempty h0]
        · rfl
      · simp [State.gAfter, h0, consumes_dst_ne hn]
  · rw [hc.f n]
    simp [State.fAfter, consumes, Opnd.key]

section
variable {s u : State} {i j : Instr} {size : Nat} {g : Guard} {d : GReg} {eff : State → Res}

/-- An instruction that sets its destination empty, or has g0 for it, and writes no register. -/
theorem runs_with_empty (hx : exec i s = s.run j size g [.dst d] eff) (hgd : s.guard g = true) (hm : s.modsOk (condsOf [.dst d]) = true)
    (he : eff s = .done u) (hp : SamePlace s u) (hempty : d.num.toNat ≠ 0 → (u.gval d.num.toNat).full = false) :
    RunsWith i s u size [.dst d] {} := by
  cases hnow : GReg.now d with
  | true =>
    have hstay : u.consumeAll [.dst d] = u.consumeAll [] := by
      have hr : refills [.dst d] (Opnd.dst d).key = true := (refills_dst_self d).trans hnow
      simp [State.consumeAll, hr]
    refine ⟨_, ?_, Completes.dst_of_empty ((Applied.refl u).completes [] _ (fun _ _ => rfl) (fun _ => rfl)) hempty⟩
    rw [hx, ← complete_congr _ _ hp.level hp.dbgctl hp.pc, ← hstay]
    simp [State.run, hgd, hm, he, State.finish]
  | false =>
    refine run_with hx hgd hm he hp.level hp.dbgctl hp.pc (Applied.refl u) (fun n _ => ?_) (refills_dst_f rfl d)
    rw [refills_dst rfl d 0 n]
    simp [hnow]

end

section
variable {s : State} {g : Guard} {d a b : GReg} {acc : AReg} {v : VReg} {sl : AccSel} {fill : Bool}

theorem exec_mcommit : exec (.mcommit g d fill) s = execMcommit g d fill s := rfl
theorem exec_mwait : exec (.mwait g a) s = execMwait g a s := rfl
theorem exec_mtest : exec (.mtest g d) s = execMtest g d s := rfl
theorem exec_vfroma : exec (.vfroma g v acc b sl) s = execVfroma g v acc b sl s := rfl
theorem exec_vtoa : exec (.vtoa g acc v b sl) s = execVtoa g acc v b sl s := rfl

end

/-- The state with the open batch closed and a fill armed. -/
def State.closing (s : State) (arm : Option (Nat × Nat)) : State := s.modMyCore (fun k => k.closeBatch arm)

section
variable {s : State} {g : Guard} {d : GReg} (hgd : s.guard g = true) (hm : s.modsOk (condsOf [.dst d]) = true)
include hgd hm

theorem mcommit_waits (h : 4 ≤ s.myCore.closed.length) (fill : Bool) : Bubbles (.mcommit g d fill) s :=
  bubbles_of exec_mcommit hgd hm (if_pos h)

theorem mcommit_writes (h : s.myCore.closed.length < 4) :
    RunsWith (.mcommit g d false) s (s.closing none) 8 [.dst d] { g := [(d, s.myCore.nextBatch.setWidth 64)] } := by
  have hs := SamePlace.modMyCore s (f := fun k => k.closeBatch none) (fun _ => rfl)
  have hv : w64 s.myCore.nextBatch.toNat = s.myCore.nextBatch.setWidth 64 := BitVec.ofNat_toNat ..
  rw [← hv]
  exact runs_with_g exec_mcommit rfl hgd hm (if_neg (Nat.not_le.mpr h)) hs.level hs.dbgctl hs.pc

/-- The number of the closed batch is filled in later: the destination stands empty until then (R221). -/
theorem mcommit_arms (h : s.myCore.closed.length < 4) : RunsWith (.mcommit g d true) s
    ((s.closing (if d.num = 0 then none else some (s.cur.2, d.num.toNat))).setFullG d.num.toNat false) 8 [.dst d] {} := by
  have hs := SamePlace.modMyCore s (f := fun k => k.closeBatch (if d.num = 0 then none else some (s.cur.2, d.num.toNat))) (fun _ => rfl)
  refine runs_with_empty exec_mcommit hgd hm (if_neg (Nat.not_le.mpr h)) (hs.trans (.setFullG ..)) fun h0 => ?_
  rw [gval_setFullG, if_pos ⟨rfl, h0⟩]

end

/-! ### MTEST (R223) -/

theorem ofBytes_digit (bs : List Byte) {n : Nat} (hn : n < bs.length) : ofBytes bs / 256 ^ n % 256 = (nth 0 bs n).toNat := by
  induction bs generalizing n with
  | nil => exact absurd hn (Nat.not_lt_zero n)
  | cons b bs ih =>
    have hb := b.isLt
    have hcons : ofBytes (b :: bs) = b.toNat + 256 * ofBytes bs := rfl
    cases n with
    | zero => rw [hcons, pow_zero, Nat.div_one, nth]; omega
    | succ n =>
      rw [hcons, Nat.pow_succ', ← Nat.div_div_eq_div_mul, show (b.toNat + 256 * ofBytes bs) / 256 = ofBytes bs by omega, nth]
      exact ih (Nat.lt_of_succ_lt_succ hn)

theorem foldl_min_le {α : Type} (f : α → Nat) (l : List α) (m : Nat) : l.foldl (fun m x => Nat.min m (f x)) m ≤ m := by
  induction l generalizing m with
  | nil => exact le_rfl
  | cons x l ih => exact (ih _).trans (Nat.min_le_left ..)

theorem accByte_lt (k : Core) (n : Nat) : k.accByte n < 256 := by
  have hmin := foldl_min_le FC.c (k.accOf n).elems 24
  have hbit (b : Bool) : b2n b ≤ 1 := by cases b <;> decide
  unfold Core.accByte
  simp only
  split
  · decide
  · have h1 := hbit ((k.accOf n).elems.any (fun e => e.fv.isInf))
    have h2 := hbit ((k.accOf n).elems.any (fun e => e.fv.isNan))
    omega

/-- The eight bytes of MTEST, one for each accumulator. -/
theorem accBytes_digit (k : Core) {n : Nat} (hn : n < 8) :
    (w64 (ofBytes (tabulate 8 (fun n => BitVec.ofNat 8 (k.accByte n))))).toNat / 256 ^ n % 256 = k.accByte n := by
  have hlen := length_tabulate 8 (fun n => BitVec.ofNat 8 (k.accByte n))
  have hlt : ofBytes (tabulate 8 (fun n => BitVec.ofNat 8 (k.accByte n))) < 2 ^ 64 := by
    have h := ofBytes_lt (tabulate 8 (fun n => BitVec.ofNat 8 (k.accByte n)))
    rw [hlen, show 256 ^ 8 = 2 ^ 64 by norm_num] at h
    exact h
  rw [w64, BitVec.toNat_ofNat, Nat.mod_eq_of_lt hlt, ofBytes_digit _ (n := n) (by rw [hlen]; exact hn), nth_tabulate _ hn, BitVec.toNat_ofNat]
  exact Nat.mod_eq_of_lt (accByte_lt k n)

/-- What a destination of the thread's own reads after an instruction that writes it. -/
theorem Completes.g_written {s t : State} {os : List Opnd} {pc : Word} {d : GReg} {x : Word} (hc : Completes s t os pc { g := [(d, x)] })
    (h0 : d.num ≠ 0) (h32 : d.num.toNat < 32) : t.g d = x := by
  have h0' : d.num.toNat ≠ 0 := fun h => h0 (BitVec.eq_of_toNat_eq h)
  rw [State.g, hc.g]
  simp [State.gAfter, h0', GReg.now, h32]

theorem mtest_makes {s : State} {g : Guard} {d : GReg} (hgd : s.guard g = true) (hm : s.modsOk (condsOf [.dst d]) = true) :
    Makes (.mtest g d) s (fun t => CoreOnly s t s.cur.1 ∧ t.me.pc = s.me.pc + 8 ∧
      (d.num ≠ 0 → d.num.toNat < 32 → ∀ n < 8, (t.g d).toNat / 256 ^ n % 256 = s.myCore.accByte n)) := by
  obtain ⟨t, hx, hc⟩ := runs_g (exec_mtest (s := s)) rfl hgd hm rfl
  refine ⟨t, hx, ⟨hc.device, hc.cores⟩, hc.pc, fun h0 h32 n hn => ?_⟩
  rw [hc.g_written h0 h32]
  exact accBytes_digit s.myCore hn

/-! ### MWAIT (R215, R222) -/

theorem mem_insertBy {α : Type} (key : α → Nat) (x y : α) (l : List α) : y ∈ insertBy key x l ↔ y = x ∨ y ∈ l := by
  induction l with
  | nil => simp [insertBy]
  | cons z l ih =>
    rw [insertBy]
    split
    · simp
    · simp only [List.mem_cons, ih]
      tauto

theorem mem_sortBy {α : Type} (key : α → Nat) (y : α) (l : List α) : y ∈ sortBy key l ↔ y ∈ l := by
  have go (acc : List α) : y ∈ l.foldl (fun acc x => insertBy key x acc) acc ↔ y ∈ acc ∨ y ∈ l := by
    induction l generalizing acc with
    | nil => simp
    | cons x l ih =>
      rw [List.foldl_cons, ih, mem_insertBy, List.mem_cons]
      tauto
  simpa [sortBy] using go []

theorem pairwise_insertBy {α : Type} (key : α → Nat) (x : α) {l : List α} (h : l.Pairwise (fun a b => key a ≤ key b)) :
    (insertBy key x l).Pairwise (fun a b => key a ≤ key b) := by
  induction l with
  | nil => simp [insertBy]
  | cons z l ih =>
    obtain ⟨hz, hl⟩ := List.pairwise_cons.mp h
    rw [insertBy]
    split
    next hlt =>
      refine List.pairwise_cons.mpr ⟨fun y hy => ?_, h⟩
      rcases List.mem_cons.mp hy with rfl | hy
      · exact hlt.le
      · exact hlt.le.trans (hz y hy)
    next hle =>
      refine List.pairwise_cons.mpr ⟨fun y hy => ?_, ih hl⟩
      rcases (mem_insertBy ..).mp hy with rfl | hy
      · exact Nat.not_lt.mp hle
      · exact hz y hy

theorem pairwise_sortBy {α : Type} (key : α → Nat) (l : List α) : (sortBy key l).Pairwise (fun a b => key a ≤ key b) :=
  List.foldlRecOn l _ (motive := fun acc => List.Pairwise (fun a b => key a ≤ key b) acc) .nil (fun _ h x _ => pairwise_insertBy key x h)

/-- The first entry in rising order of a key has the least. -/
theorem head_sortBy {α : Type} {key : α → Nat} {l : List α} {x : α} (h : (sortBy key l).head? = some x) :
    x ∈ l ∧ ∀ y ∈ l, key x ≤ key y := by
  obtain ⟨rest, hs⟩ := List.head?_eq_some_iff.mp h
  have hp := pairwise_sortBy key l
  rw [hs] at hp
  refine ⟨(mem_sortBy key x l).mp (by rw [hs]; exact List.mem_cons_self), fun y hy => ?_⟩
  have hy := (mem_sortBy key y l).mpr hy
  rw [hs] at hy
  rcases List.mem_cons.mp hy with rfl | hy
  · exact le_rfl
  · exact (List.pairwise_cons.mp hp).1 y hy

theorem notClosed_iff {k : Core} {n : BitVec 32} : k.notClosed n = true ↔ 2 ^ 31 ≤ (k.nextBatch - n).toNat ∨ n = k.nextBatch := by
  rw [Core.notClosed, Bool.or_eq_true, decide_eq_true_eq, beq_iff_eq]

/-- A report that a wait of context x on batch n may take (R215, R222). -/
def Core.awaited (k : Core) (x : Nat) (n : BitVec 32) (r : Report) : Prop :=
  r ∈ k.reports ∧ r.ctx = x ∧ (n - BitVec.ofNat 32 r.batch).toNat < 2 ^ 31

section
variable {k : Core} {x : Nat} {n : BitVec 32} {r : Report}

theorem mem_awaited : r ∈ k.reports.filter (fun r => r.ctx = x && decide ((n - BitVec.ofNat 32 r.batch).toNat < 2 ^ 31)) ↔ k.awaited x n r := by
  rw [List.mem_filter, Bool.and_eq_true, decide_eq_true_eq, decide_eq_true_eq]
  rfl

theorem reportFor_none (h : ∀ r, ¬k.awaited x n r) : k.reportFor x n = none := by
  rw [Core.reportFor, List.eq_nil_iff_forall_not_mem.mpr (fun r hr => h r (mem_awaited.mp hr))]
  rfl

/-- The report taken is of the lowest cause. -/
theorem reportFor_some (h : ∃ r, k.awaited x n r) :
    ∃ r, k.reportFor x n = some r ∧ k.awaited x n r ∧ ∀ r', k.awaited x n r' → r.cause ≤ r'.cause := by
  cases hhead : k.reportFor x n with
  | none =>
    obtain ⟨r, hr⟩ := h
    have hr := (mem_sortBy (fun r => r.cause) r _).mpr (mem_awaited.mpr hr)
    rw [List.head?_eq_none_iff.mp hhead] at hr
    exact absurd hr List.not_mem_nil
  | some r =>
    obtain ⟨hmem, hleast⟩ := head_sortBy hhead
    exact ⟨r, rfl, mem_awaited.mp hmem, fun r' hr' => hleast r' (mem_awaited.mpr hr')⟩

end

/-- What MWAIT does with a batch number other than 0: the batch is not closed, or not done, or has a report, or has none. -/
def State.waitOn (s : State) (w : Word) (n : BitVec 32) : Res :=
  if s.myCore.notClosed n then .trap Cause.boundCheck w 1 s
  else if !s.myCore.batchDone n.toNat then .park (.batch n.toNat) s
  else match s.myCore.reportFor s.cur.2 n with
    | some r => .trap r.cause r.tval r.tstat (s.modMyCore (fun k => { k with reports := k.reports.filter (fun e => decide (e ≠ r)) }))
    | none => .done s

theorem exec_mwait_number {s : State} {g : Guard} {a : GReg} {n : BitVec 32} (hlow : fld (s.g a) 63 32 = 0) (hw : (s.g a).setWidth 32 = n)
    (hn : n ≠ 0) : exec (.mwait g a) s = s.run (.mwait g a) 8 g [.src a] (fun u => u.waitOn (s.g a) n) := by
  subst hw
  rw [exec_mwait, execMwait]
  simp only [State.run, hlow, hn, ne_eq, not_true_eq_false, if_false]
  rfl

section
variable {s : State} {g : Guard} {a : GReg} (hgd : s.guard g = true) (hm : s.modsOk (condsOf [.src a]) = true)
include hgd hm

theorem mwait_wide (h : fld (s.g a) 63 32 ≠ 0) : Traps (.mwait g a) s Cause.boundCheck (s.g a) 2 :=
  traps_of exec_mwait hgd hm (if_pos h)

theorem mwait_zero (h : s.g a = 0) : Runs (.mwait g a) s 8 [.src a] {} :=
  runs_0 exec_mwait rfl hgd hm (by simp [h, fld]) (Applied.refl s) rfl rfl

variable {n : BitVec 32} (hlow : fld (s.g a) 63 32 = 0) (hw : (s.g a).setWidth 32 = n) (hn : n ≠ 0)
include hlow hw hn

theorem mwait_unclosed (h : s.myCore.notClosed n = true) : Traps (.mwait g a) s Cause.boundCheck (s.g a) 1 :=
  traps_of (exec_mwait_number hlow hw hn) hgd hm (if_pos h)

variable (hclosed : s.myCore.notClosed n = false)
include hclosed

theorem mwait_parks (h : s.myCore.batchDone n.toNat = false) : Parks (.mwait g a) s (.batch n.toNat) :=
  exec_park (exec_mwait_number hlow hw hn) hgd hm (by simp [State.waitOn, hclosed, h])

variable (hdone : s.myCore.batchDone n.toNat = true)
include hdone

theorem mwait_completes (h : s.myCore.reportFor s.cur.2 n = none) : Runs (.mwait g a) s 8 [.src a] {} :=
  runs_0 (exec_mwait_number hlow hw hn) rfl hgd hm (by simp [State.waitOn, hclosed, hdone, h]) (Applied.refl s) rfl rfl

theorem mwait_reports {r : Report} (h : s.myCore.reportFor s.cur.2 n = some r) : TrapsWith (.mwait g a) s
    (s.modMyCore (fun k => { k with reports := k.reports.filter (fun e => decide (e ≠ r)) })) r.cause r.tval r.tstat :=
  traps_with (exec_mwait_number hlow hw hn) hgd hm (by simp [State.waitOn, hclosed, hdone, h])

end

theorem number_ne_zero {w : Word} (hlow : fld w 63 32 = 0) (h0 : w ≠ 0) : w.setWidth 32 ≠ (0 : BitVec 32) := by
  intro h
  have h : w.toNat % 2 ^ 32 = 0 := (BitVec.toNat_setWidth ..).symm.trans (congrArg BitVec.toNat h)
  refine h0 (BitVec.eq_of_toNat_eq ?_)
  show w.toNat = 0
  rw [fld] at hlow
  omega

/-! ### VFROMA and VTOA (R224) -/

section
variable {s : State} {acc : Nat} {b : GReg} {sl : AccSel}

theorem partTrap_busy {pos : Nat} (h : s.myCore.accBusy acc = some pos) : s.partTrap acc b sl = some ⟨Cause.accInFlight, w64 acc, w64 pos⟩ := by
  rw [State.partTrap, h]

theorem partTrap_past (h : s.myCore.accBusy acc = none) (hb : 31 < (s.g b).toNat) :
    s.partTrap acc b .row = some ⟨Cause.boundCheck, s.g b, 0⟩ := by
  simp [State.partTrap, h, failIf, hb]

theorem partTrap_none (h : s.myCore.accBusy acc = none) (hb : sl = .row → (s.g b).toNat ≤ 31) : s.partTrap acc b sl = none := by
  cases sl
  case row => simp [State.partTrap, h, failIf, Nat.not_lt.mpr (hb rfl)]
  all_goals simp [State.partTrap, h, failIf]

end

theorem noDst_opndsSel (sl : AccSel) (b : GReg) : noDst (opndsSel sl b) = true := by cases sl <;> rfl

section
variable {s : State} {g : Guard} {acc : AReg} {v : VReg} {b : GReg} {sl : AccSel} (hgd : s.guard g = true)
  (hm : s.modsOk (condsOf (opndsSel sl b)) = true)
include hgd hm

theorem parts_raise {t : Trap} (h : s.partTrap acc.toNat b sl = some t) :
    Raises (.vfroma g v acc b sl) s t ∧ Raises (.vtoa g acc v b sl) s t :=
  ⟨traps_of exec_vfroma hgd hm (by rw [h]; rfl), traps_of exec_vtoa hgd hm (by rw [h]; rfl)⟩

theorem vfroma_runs (h : s.partTrap acc.toNat b sl = none) :
    Runs (.vfroma g v acc b sl) s 8 (opndsSel sl b) { v := some (v, (s.myCore.accOf acc.toNat).part sl (s.g b).toNat) } :=
  runs_v exec_vfroma (noDst_opndsSel sl b) hgd hm (by rw [h])

/-- The core with a part of an accumulator written. -/
def Core.withPart (k : Core) (n : Nat) (sl : AccSel) (i : Nat) (x : VVal) : Core := k.putAcc n ((k.accOf n).putPart sl i x)

theorem vtoa_runs (h : s.partTrap acc.toNat b sl = none) : RunsWith (.vtoa g acc v b sl) s
    (s.modMyCore (fun k => k.withPart acc.toNat sl (s.g b).toNat (s.v v))) 8 (opndsSel sl b) {} := by
  have hs := SamePlace.modMyCore s (f := fun k => k.withPart acc.toNat sl (s.g b).toNat (s.v v)) (fun _ => rfl)
  exact runs_with_0 exec_vtoa (noDst_opndsSel sl b) hgd hm (by rw [h]; rfl) hs.level hs.dbgctl hs.pc

end

theorem parts_vOfParts (p : Nat → FC) {l : Nat} (hl : l < 32) :
    (vOfParts p).lane l = (p l).v ∧ (vOfParts p).cnt l = BitVec.ofNat 8 (p l).c :=
  ⟨nth_tabulate _ hl, nth_tabulate _ hl⟩

/-- A mask made of the bits that a predicate gives reads them back. -/
theorem getLsbD_maskOf (p : Nat → Bool) {l : Nat} (hl : l < 32) : (maskOf p).getLsbD l = p l := by
  have hbit (b : Bool) : b2n b < 2 ^ 1 := by cases b <;> decide
  have hsum : (fun (m l : Nat) => if p l then m + 2 ^ l else m) = fun m l => m + b2n (p l) * 2 ^ (1 * l) := by
    funext m l
    cases p l <;> simp [b2n]
  have hfield := field_of_fields (n := 1) (c := fun k => b2n (p k)) (fun k => hbit (p k)) hl
  rw [one_mul, pow_one, ← hsum] at hfield
  rw [maskOf, BitVec.getLsbD_ofNat, Nat.testBit_eq_decide_div_mod_eq, hfield]
  cases p l <;> simp [hl, b2n]

/-- What VTOA leaves of each part of an accumulator. -/
theorem putPart_parts (A : Acc) (sl : AccSel) (i : Nat) (x : VVal) {l j : Nat} (hl : l < 32) (hj : j < 32) :
    ((A.putPart sl i x).row l).m = (if sl = .m then x.toFC l else (A.row l).m) ∧
    ((A.putPart sl i x).row l).l = (if sl = .l then x.toFC l else (A.row l).l) ∧
    (A.putPart sl i x).st.getLsbD l = (if sl = .st then (x.lane l).getLsbD 0 else A.st.getLsbD l) ∧
    ((A.putPart sl i x).row j).el l = (if sl = .row ∧ j = i then x.toFC l else (A.row j).el l) := by
  cases sl
  case row =>
    simp only [Acc.putPart, row_mapRows _ _ hl, row_mapRows _ _ hj, reduceCtorEq, if_false, true_and]
    refine ⟨by split <;> rfl, by split <;> rfl, rfl, ?_⟩
    split
    · exact el_tabulate _ _ _ hl
    · rfl
  case m => simp only [Acc.putPart, row_mapRows _ _ hl, row_mapRows _ _ hj]; exact ⟨rfl, rfl, rfl, rfl⟩
  case l => simp only [Acc.putPart, row_mapRows _ _ hl, row_mapRows _ _ hj]; exact ⟨rfl, rfl, rfl, rfl⟩
  case st => exact ⟨rfl, rfl, getLsbD_maskOf _ hl, rfl⟩

/-- Settles O29: the three ends of MCOMMIT, the bytes of MTEST, the chain of MWAIT, and the parts that VFROMA reads and VTOA writes. -/
theorem batchesAndAccumulatorParts : Obligations.BatchesAndAccumulatorParts := by
  intro s g d a b acc v hgd k next close
  refine ⟨fun hm => ⟨fun hfull => ?waits, fun hroom => ⟨?writes, fun h0 => ?discards, fun h0 => ?arms⟩, ?test⟩, ?mwait, ?parts⟩
  case waits => exact ⟨mcommit_waits hgd hm hfull false, mcommit_waits hgd hm hfull true⟩
  case writes => exact mcommit_writes hgd hm hroom
  case discards =>
    have h := mcommit_arms hgd hm hroom
    rw [if_pos h0, h0] at h
    exact h
  case arms =>
    have h := mcommit_arms hgd hm hroom
    rw [if_neg h0] at h
    exact h
  case test =>
    obtain ⟨t, hx, honly, hpc, hbytes⟩ := mtest_makes hgd hm
    exact ⟨t, hx, honly, hpc, fun h0 h32 _ => hbytes h0 h32⟩
  case mwait =>
    intro hm w n
    refine ⟨mwait_wide hgd hm, mwait_zero hgd hm, fun hlow hw => ?_⟩
    have hn : n ≠ 0 := number_ne_zero hlow hw
    refine ⟨fun hnot => ?unclosed, fun hlt hne => ?closed⟩
    case unclosed => exact mwait_unclosed hgd hm hlow rfl hn (notClosed_iff.mpr hnot)
    case closed =>
      have hclosed : k.notClosed n = false := Bool.eq_false_iff.mpr fun h => (notClosed_iff.mp h).elim (Nat.not_le.mpr hlt) hne
      refine ⟨fun hopen => mwait_parks hgd hm hlow rfl hn hclosed (congrArg not hopen), fun hover => ?_⟩
      have hdone : k.batchDone n.toNat = true := congrArg not hover
      refine ⟨fun hnone => mwait_completes hgd hm hlow rfl hn hclosed hdone (reportFor_none hnone), fun hsome => ?_⟩
      obtain ⟨r, hfor, hmine, hleast⟩ := reportFor_some hsome
      exact ⟨r, hmine, hleast, mwait_reports hgd hm hlow rfl hn hclosed hdone hfor⟩
  case parts =>
    intro sl os hm
    refine ⟨fun pos hbusy => parts_raise hgd hm (partTrap_busy hbusy), ?past, fun hfree hrow => ?_⟩
    case past =>
      rintro hfree rfl hpast
      exact parts_raise hgd hm (partTrap_past hfree hpast)
    have hnone := partTrap_none hfree hrow
    refine ⟨⟨_, vfroma_runs hgd hm hnone, fun l hl => ?reads⟩,
      ⟨_, vtoa_runs hgd hm hnone, CoreOnly.modCore s _ _, s.me_modMyCore _ (fun _ => rfl), fun n hn => ?others, fun l hl j hj => ?writes⟩⟩
    case reads =>
      cases sl
      case st =>
        have h := parts_vOfParts (fun l => ⟨BitVec.ofNat 32 (b2n (nbit (k.accOf acc.toNat).st.toNat l)), 0⟩) hl
        rw [nbit_toNat] at h
        exact h
      all_goals exact parts_vOfParts _ hl
    case others =>
      rw [State.myCore_modMyCore, Core.withPart, accOf_putAcc, if_neg hn]
    case writes =>
      rw [State.myCore_modMyCore, Core.withPart, accOf_putAcc, if_pos rfl]
      exact putPart_parts _ sl _ _ hl hj

end Sys2Proof.Machine
end
